-- ==== Sys2Proof/Word.lean ====
section
/-!
DEFINITION. The words of the HF-6: byte, half, word, dword (spec/00_scope.md R2, R4), and the sparse
table in which registers, memory and the device's numbered records are held.
-/
namespace Sys2Proof

/-- 8 bits (R4). -/
abbrev Byte := BitVec 8

/-- 32 bits: a vector or scalar register, an instruction word (R4). -/
abbrev Word := BitVec 32

/-- 64 bits: a virtual address, a register pair, a lane mask (R4, R5). -/
abbrev Dword := BitVec 64

/-- A table keyed by number: entries in strictly rising key order (Machine/Table.lean keeps that form). -/
abbrev Table (α : Type) := List (Nat × α)

end Sys2Proof
end

