-- ==== Sys2Proof/Syntax/Types.lean ====
section
/-!
DEFINITION. The operand types of the instruction words and the operands of the device's other steps.
A field of an instruction word is held as what it means (a register number, a type, a guard), never as bits;
spec/02_clauses_and_formats.md R40 to R46, spec/03_opcode_map.md R57 to R74.
-/
namespace Sys2Proof

/-- v0 to v127 (R44). -/
abbrev VReg := Fin 128
/-- s0 to s1023 (R44). -/
abbrev SReg := Fin 1024
/-- t0 to t31 (R44). -/
abbrev TReg := Fin 32
/-- c0 to c6 as a destination; c7 is reserved there (R62). -/
abbrev CDst := Fin 7

/-- A guard: the lane is active only if c(GC) XOR GN is 1 (R44). -/
structure Guard where
  neg : Bool
  c : Fin 8
  deriving DecidableEq, Repr

/-- A condition bit read as a predicate: c(MOD[2:0]) XOR MOD[3] (R62). -/
structure Pred where
  neg : Bool
  c : Fin 8
  deriving DecidableEq, Repr

/-- Groups TB and scheme W: 32 or 64 bits (R59, R63). -/
inductive Wd where | w32 | w64
  deriving DecidableEq, Repr

/-- Group TI and scheme WS (R59, R63). -/
inductive ITy where | i32 | n32 | i64 | n64
  deriving DecidableEq, Repr

/-- Group TF (R59). -/
inductive FTy where | f32 | f16 | bf16 | f64
  deriving DecidableEq, Repr

/-- Group TG (R59). -/
inductive GTy where | f32 | f16 | bf16
  deriving DecidableEq, Repr

/-- The 4-bit type codes (R60). -/
inductive TyCode where
  | i8 | i16 | i32 | i64 | n8 | n16 | n32 | n64 | f64 | f32 | f16 | bf16 | e4m3 | e5m2 | e2m1 | e8m0
  deriving DecidableEq, Repr

/-- SMOVI and MOVI: sign-extended, zero-extended, or into the upper half (R236, R250). -/
inductive MoviTy where | i32 | n32 | hi
  deriving DecidableEq, Repr

/-- RND 0 to 4 (R44). -/
inductive Rnd where | rn | rz | rp | rm | sr
  deriving DecidableEq, Repr

/-- Integer comparisons, codes 0 to 5 (R63, R65). -/
inductive Cmp where | eq | ne | lt | le | gt | ge
  deriving DecidableEq, Repr

/-- FCMP relations, codes 0 to 13 (R258). -/
inductive FCmp where
  | eq | ne | lt | le | gt | ge | uo | or | equ | neu | ltu | leu | gtu | geu
  deriving DecidableEq, Repr

/-- XPFX operations (R272). -/
inductive PfxOp where | add | min | max
  deriving DecidableEq, Repr

/-- Source b of the VR format: B, or SS when BS = 1 (R65). -/
inductive VSrc where
  | vec (r : VReg)
  | sca (r : SReg)
  deriving DecidableEq, Repr

/-- SCOPE (R44). -/
inductive Scope where | band | team | pair | dev | fab
  deriving DecidableEq, Repr

/-- ORDER (R44). -/
inductive Order where | rlx | acq | rel | ar
  deriving DecidableEq, Repr

/-- DC: a counter dc0 to dc5, or uncounted (R44). -/
abbrev Dc := Option (Fin 6)

/-- The windows of the generic address space (R79). -/
inductive Window where | prv | loc | par | glb | mem
  deriving DecidableEq, Repr

/-- Narrow load types (R68). -/
inductive NTy where | n8 | i8 | n16 | i16
  deriving DecidableEq, Repr

/-- Wide load types, and those of LDR and STR (R68). -/
inductive WTy where | b32 | b64 | b128
  deriving DecidableEq, Repr

/-- Store types of opcodes 0x72 and 0x76 (R68). -/
inductive STy where | b8 | b16 | b32 | b64
  deriving DecidableEq, Repr

/-- AOP (R69). -/
inductive AOp where
  | add | min | max | and | or | xor | exch | cas | fadd | fmin | fmax
  deriving DecidableEq, Repr

/-- AW (R69). -/
inductive AW where | b32 | b64 | b128
  deriving DecidableEq, Repr

/-- Cache level of PREF and CFLUSH (R68). -/
inductive CLevel where | l1 | l2
  deriving DecidableEq, Repr

/-- BAR forms (R372). -/
inductive BarForm where | arrive | wait | sync
  deriving DecidableEq, Repr

/-- FENCE: an ordered fence with its order, or .sc (R336). -/
inductive FenceKind where | acq | rel | ar | sc
  deriving DecidableEq, Repr

/-! ## Scalar formats (R63, R232 to R240) -/

structure OpS (τ : Type) where
  ty : τ
  d : SReg
  a : SReg
  deriving DecidableEq, Repr

structure OpSR (τ : Type) where
  g : Guard
  ty : τ
  d : SReg
  a : SReg
  s : SReg
  deriving DecidableEq, Repr

structure OpSI (τ : Type) where
  g : Guard
  ty : τ
  d : SReg
  a : SReg
  imm : BitVec 16
  deriving DecidableEq, Repr

structure OpSMovi where
  g : Guard
  ty : MoviTy
  d : SReg
  imm : BitVec 16
  deriving DecidableEq, Repr

structure OpSRdLane where
  g : Guard
  ty : Wd
  d : SReg
  a : SReg
  c : VReg
  deriving DecidableEq, Repr

structure OpSMovt where
  t : TReg
  a : SReg
  deriving DecidableEq, Repr

structure OpSpecial where
  num : Fin 1024
  r : SReg
  deriving DecidableEq, Repr

/-! ## Vector integer formats (R65, R241 to R250) -/

structure OpV (τ : Type) where
  ty : τ
  d : VReg
  a : VReg
  b : VReg
  deriving DecidableEq, Repr

structure OpV1 (τ : Type) where
  ty : τ
  d : VReg
  a : VReg
  deriving DecidableEq, Repr

structure OpVR (τ : Type) where
  g : Guard
  ty : τ
  d : VReg
  a : VReg
  b : VSrc
  deriving DecidableEq, Repr

/-- A VR form with .sat allowed (R228). -/
structure OpVRs (τ : Type) where
  g : Guard
  ty : τ
  sat : Bool
  d : VReg
  a : VReg
  b : VSrc
  deriving DecidableEq, Repr

structure OpVR1 (τ : Type) where
  g : Guard
  ty : τ
  d : VReg
  a : VReg
  deriving DecidableEq, Repr

structure OpVR1s (τ : Type) where
  g : Guard
  ty : τ
  sat : Bool
  d : VReg
  a : VReg
  deriving DecidableEq, Repr

structure OpVRc (τ : Type) where
  g : Guard
  ty : τ
  d : VReg
  a : VReg
  b : VSrc
  c : VReg
  deriving DecidableEq, Repr

structure OpVRcs (τ : Type) where
  g : Guard
  ty : τ
  sat : Bool
  d : VReg
  a : VReg
  b : VSrc
  c : VReg
  deriving DecidableEq, Repr

structure OpVI (τ : Type) where
  g : Guard
  ty : τ
  d : VReg
  a : VReg
  imm : BitVec 16
  deriving DecidableEq, Repr

structure OpVIs (τ : Type) where
  g : Guard
  ty : τ
  sat : Bool
  d : VReg
  a : VReg
  imm : BitVec 16
  deriving DecidableEq, Repr

structure OpMovi where
  g : Guard
  ty : MoviTy
  d : VReg
  imm : BitVec 16
  deriving DecidableEq, Repr

structure OpVMovs where
  g : Guard
  ty : Wd
  d : VReg
  s : SReg
  deriving DecidableEq, Repr

structure OpIAddc where
  g : Guard
  ty : ITy
  d : VReg
  a : VReg
  b : VSrc
  k : CDst
  deriving DecidableEq, Repr

structure OpICmpR where
  g : Guard
  ty : ITy
  cmp : Cmp
  d : CDst
  a : VReg
  b : VSrc
  deriving DecidableEq, Repr

structure OpICmpI where
  g : Guard
  ty : ITy
  cmp : Cmp
  d : CDst
  a : VReg
  imm : BitVec 16
  deriving DecidableEq, Repr

structure OpISel where
  g : Guard
  ty : Wd
  d : VReg
  a : VReg
  b : VSrc
  p : Pred
  deriving DecidableEq, Repr

structure OpLmux where
  g : Guard
  ty : Wd
  d : VReg
  a : VReg
  b : VSrc
  c : VReg
  f : BitVec 4
  h : BitVec 4
  deriving DecidableEq, Repr

structure OpBfx where
  g : Guard
  ty : ITy
  d : VReg
  a : VReg
  pos : Fin 64
  len : Fin 64
  deriving DecidableEq, Repr

structure OpBfi where
  g : Guard
  ty : Wd
  d : VReg
  a : VReg
  b : VReg
  pos : Fin 64
  len : Fin 64
  deriving DecidableEq, Repr

structure OpBytep where
  g : Guard
  d : VReg
  a : VReg
  b : VReg
  sel : BitVec 16
  deriving DecidableEq, Repr

/-! ## Floating point, conversion, special functions (R66, R251 to R267) -/

structure OpFR where
  g : Guard
  ty : FTy
  rnd : Rnd
  sat : Bool
  d : VReg
  a : VReg
  b : VSrc
  deriving DecidableEq, Repr

structure OpFma where
  g : Guard
  ty : FTy
  rnd : Rnd
  sat : Bool
  d : VReg
  a : VReg
  b : VSrc
  c : VReg
  deriving DecidableEq, Repr

structure OpFCmp where
  g : Guard
  ty : FTy
  cmp : FCmp
  d : CDst
  a : VReg
  b : VSrc
  deriving DecidableEq, Repr

structure OpFSel where
  g : Guard
  ty : FTy
  cmp : Cmp
  d : VReg
  a : VReg
  b : VSrc
  c : VReg
  deriving DecidableEq, Repr

structure OpFClass where
  g : Guard
  ty : FTy
  d : CDst
  a : VReg
  mask : BitVec 10
  deriving DecidableEq, Repr

structure OpFRnd where
  g : Guard
  ty : FTy
  rnd : Rnd
  d : VReg
  a : VReg
  deriving DecidableEq, Repr

structure OpCvt where
  g : Guard
  rnd : Rnd
  sat : Bool
  dst : TyCode
  src : TyCode
  d : VReg
  a : VReg
  deriving DecidableEq, Repr

structure OpCvtsr where
  g : Guard
  sat : Bool
  dst : TyCode
  src : TyCode
  d : VReg
  a : VReg
  deriving DecidableEq, Repr

structure OpPack where
  g : Guard
  rnd : Rnd
  sat : Bool
  dst : TyCode
  src : TyCode
  d : VReg
  a : VReg
  b : VSrc
  deriving DecidableEq, Repr

structure OpUnpack where
  g : Guard
  idx : Fin 8
  dst : TyCode
  src : TyCode
  d : VReg
  a : VReg
  deriving DecidableEq, Repr

structure OpX where
  d : VReg
  a : VReg
  deriving DecidableEq, Repr

structure OpXR where
  g : Guard
  rnd : Rnd
  d : VReg
  a : VReg
  deriving DecidableEq, Repr

structure OpSrngR where
  g : Guard
  a : VReg
  b : VSrc
  deriving DecidableEq, Repr

/-! ## Cross-lane and exact accumulator (R67, R268 to R276) -/

structure OpXPush where
  g : Guard
  ty : Wd
  d : VReg
  a : VReg
  b : VSrc
  k : CDst
  deriving DecidableEq, Repr

structure OpXBcastR where
  g : Guard
  ty : Wd
  d : VReg
  a : VReg
  s : SReg
  deriving DecidableEq, Repr

structure OpXBcastI where
  g : Guard
  ty : Wd
  d : VReg
  a : VReg
  lane : Fin 64
  deriving DecidableEq, Repr

structure OpXBallot where
  g : Guard
  s : SReg
  p : Pred
  deriving DecidableEq, Repr

structure OpXVote where
  g : Guard
  d : CDst
  p : Pred
  deriving DecidableEq, Repr

structure OpXPfx where
  g : Guard
  ty : ITy
  op : PfxOp
  ex : Bool
  d : VReg
  a : VReg
  deriving DecidableEq, Repr

structure OpKAdd where
  ty : GTy
  a : VReg
  deriving DecidableEq, Repr

structure OpKAddR where
  g : Guard
  ty : GTy
  a : VReg
  deriving DecidableEq, Repr

structure OpKRnd where
  g : Guard
  ty : GTy
  rnd : Rnd
  d : VReg
  deriving DecidableEq, Repr

structure OpKScan where
  g : Guard
  ty : GTy
  rnd : Rnd
  ex : Bool
  d : VReg
  a : VReg
  deriving DecidableEq, Repr

structure OpKImage where
  g : Guard
  s : SReg
  deriving DecidableEq, Repr

/-! ## Memory (R68 to R70, R172 to R175, R83) -/

/-- LD, LDS, LDR, ST, STS, STR: data register d, base s, index a, offset in units of the size. -/
structure OpMem (τ : Type) where
  g : Guard
  ty : τ
  scope : Scope
  order : Order
  dc : Dc
  off : BitVec 8
  d : VReg
  a : VReg
  s : SReg
  deriving DecidableEq, Repr

/-- ATOM, RED and ATOMR (R69); RED has no destination and holds d = 0. -/
structure OpAtom where
  g : Guard
  op : AOp
  aw : AW
  sgn : Bool
  scope : Scope
  order : Order
  dc : Dc
  d : VReg
  a : VReg
  b : VReg
  s : SReg
  deriving DecidableEq, Repr

/-- PREF (level in ty), CFLUSH and CINV. -/
structure OpLine where
  g : Guard
  lvl : CLevel
  scope : Scope
  dc : Dc
  off : BitVec 8
  a : VReg
  s : SReg
  deriving DecidableEq, Repr

structure OpPrefb where
  g : Guard
  off : BitVec 8
  a : VReg
  b : VReg
  s : SReg
  deriving DecidableEq, Repr

/-- GCVT and GTEST; toWin is direction .w (R70, R83). -/
structure OpGcvt where
  g : Guard
  win : Window
  toWin : Bool
  d : VReg
  a : VReg
  s : SReg
  deriving DecidableEq, Repr

/-! ## Tiles (R71, R283) -/

structure OpTileMem where
  g : Guard
  tr : Bool
  scope : Scope
  order : Order
  dc : Dc
  t : TReg
  a : SReg
  s : SReg
  deriving DecidableEq, Repr

structure OpTile where
  t : TReg
  deriving DecidableEq, Repr

structure OpTileS where
  a : SReg
  deriving DecidableEq, Repr

structure OpTileAcc where
  t : TReg
  a : SReg
  deriving DecidableEq, Repr

/-! ## Engines and tasks (R72, R150, R306, R370) -/

/-- Copy opcodes; cw holds the scope of the completion write when .cw is requested. -/
structure OpCopy where
  g : Guard
  cw : Option Scope
  dc : Fin 6
  a : SReg
  b : SReg
  c : SReg
  deriving DecidableEq, Repr

structure OpEncke where
  g : Guard
  cw : Option Scope
  dc : Fin 6
  a : SReg
  b : SReg
  deriving DecidableEq, Repr

structure OpTask where
  g : Guard
  dc : Dc
  v : VReg
  deriving DecidableEq, Repr

structure OpEng2 where
  g : Guard
  dc : Dc
  a : SReg
  b : SReg
  deriving DecidableEq, Repr

structure OpEng3 where
  g : Guard
  dc : Dc
  a : SReg
  b : SReg
  c : SReg
  deriving DecidableEq, Repr

/-! ## Control and system (R73, R74) -/

structure OpC where
  g : Guard
  deriving DecidableEq, Repr

structure OpCImm where
  g : Guard
  imm : BitVec 16
  deriving DecidableEq, Repr

structure OpBrc where
  g : Guard
  nz : Bool
  c : SReg
  imm : BitVec 16
  deriving DecidableEq, Repr

structure OpCV where
  g : Guard
  v : VReg
  deriving DecidableEq, Repr

structure OpCVImm where
  g : Guard
  v : VReg
  imm : BitVec 16
  deriving DecidableEq, Repr

structure OpJtab where
  g : Guard
  v : VReg
  c : SReg
  n : BitVec 16
  deriving DecidableEq, Repr

structure OpBar where
  g : Guard
  form : BarForm
  b : Fin 16
  deriving DecidableEq, Repr

structure OpBarset where
  g : Guard
  b : Fin 16
  c : SReg
  deriving DecidableEq, Repr

structure OpPhase where
  g : Guard
  c : SReg
  p : Bool
  deriving DecidableEq, Repr

structure OpWaita where
  g : Guard
  dc : Dc
  v : VReg
  limit : BitVec 16
  deriving DecidableEq, Repr

structure OpDwait where
  g : Guard
  mask : BitVec 6
  deriving DecidableEq, Repr

structure OpEcall where
  g : Guard
  skip : Bool
  deriving DecidableEq, Repr

structure OpPhint where
  g : Guard
  n : BitVec 12
  deriving DecidableEq, Repr

/-- TMARM, PWINT: `off` is .off (TMARM) or .done (PWINT), with c = 0 then. -/
structure OpSwitchC where
  g : Guard
  off : Bool
  c : SReg
  deriving DecidableEq, Repr

structure OpFence where
  g : Guard
  kind : FenceKind
  scope : Scope
  dc : Dc
  deriving DecidableEq, Repr

structure OpShadow where
  g : Guard
  on : Bool
  deriving DecidableEq, Repr

structure OpCS where
  g : Guard
  c : SReg
  deriving DecidableEq, Repr

/-! ## Operands of the device's other steps -/

/-- What a controller's code found when a line was read (R118): environment data of RDS and RDX. -/
inductive Ecc where | clean | corrected | uncorrectable
  deriving DecidableEq, Repr

/-- Where a message came from, and where its reply goes: IP address and version, UDP port, and the VLAN and priority of its
802.1Q tag, if it has one (R457, R458). -/
structure Origin where
  addr : Nat
  v6 : Bool
  port : Nat
  tag : Option (Nat × Nat)
  deriving DecidableEq, Repr

/-- The header of a received message that its execution reads, with the outcome of the signature check (R460 to R463). -/
structure MsgHead where
  session : Nat
  msgnum : Nat
  signed : Bool
  sigOk : Bool
  src : Origin
  deriving DecidableEq, Repr

/-- MAP payload (R465). -/
structure MapArgs where
  ctx : Nat
  k : Nat
  flags : Nat
  tier : Nat
  units : Nat
  perm : Nat
  va : Nat
  len : Nat
  rgk : Nat
  deriving DecidableEq, Repr

/-- A configuration blob as its fields (R467), with the signing key as a number. -/
structure Blob where
  owner : Nat
  sigOk : Bool
  ips : List Nat
  vlan : Nat
  prio : Nat
  id : Nat
  /-- The host public keys that it sets, by index (R462). -/
  keys : List (Option Nat)
  nsw : Nat
  coreclk : List Nat
  mtu : Nat
  deriving DecidableEq, Repr

/-- A failure found by a power-on stage (R473, R475). -/
structure StageFailure where
  stage : Nat
  unit : Nat
  index : Nat
  code : Nat
  detail : Nat
  deriving DecidableEq, Repr

/-- A fitted module as its SPD says: its channel, its GiB, whether it is a registered DIMM, planar or 3DS, and whether it has
ECC (R117). -/
structure Module where
  channel : Nat
  gib : Nat
  registered : Bool
  ecc : Bool
  deriving DecidableEq, Repr

/-- What the surroundings present to power-on: fitted modules, straps, links and test outcomes (R473, R476, R117). -/
structure PowerOnEnv where
  dimms : List Module
  boot : Nat
  plim : Nat
  pgen : Bool
  stationsDown : Nat
  /-- The signature check of the stored blob fails (R473 stage 1). -/
  blobBad : Bool
  failure : Option StageFailure
  /-- A failure at stage 1 leaves neither scheduler core (R473). -/
  noCore : Bool
  deriving DecidableEq, Repr

/-- An error of a stored code: of a dword of a unit (unit × 2^40 + offset) or of a bank word of a slice (global form);
uncorrectable or not (R118, R141). -/
structure Upset where
  sram : Bool
  cell : Nat
  double : Bool
  deriving DecidableEq, Repr

/-- What the sensors and the hub's meters give in one hub cycle (R406 last row, R417, R422). -/
structure HubSample where
  draw : Nat
  temps : List (Nat × Nat)
  charges : List (Nat × Nat)
  /-- Cells that have lost their value since the last one (R118, R141). -/
  flips : List Upset
  /-- Matrix units, core and unit, whose self-test in this hub cycle would give a wrong answer (R412). -/
  mxfail : List (Nat × Nat)
  deriving DecidableEq, Repr

/-- A power intent (R419). -/
structure PowerIntent where
  kind : Nat
  src : Nat
  amount : Nat
  delay : Nat
  dur : Nat
  deriving DecidableEq, Repr

/-- The access of a fabric request (R193, R477). -/
inductive PeerOp where
  | read (n : Nat)
  | write (bytes : List Byte)
  | atomic (op : AOp) (n : Nat) (sgn : Bool) (cmp : Nat) (val : Nat)
  deriving DecidableEq, Repr

/-- A fabric request that arrives from a peer. -/
structure PeerReq where
  station : Nat
  pctx : Nat
  va : Nat
  op : PeerOp
  deriving DecidableEq, Repr

/-- A peer's answer to one request (R194, R195): the value, or the error kind 1 to 4. -/
inductive PeerAnswer where
  | ok (value : Nat)
  | error (kind : Nat)
  deriving DecidableEq, Repr

/-- A received OPEN or FULL record (R200). -/
structure StreamFullRec where
  station : Nat
  /-- The accelerator that wrote it. -/
  peer : Nat
  sid : Nat
  sz : Nat
  pctx : Nat
  va : Nat
  data : List Byte
  deriving DecidableEq, Repr

/-- A received DATA record (R200). -/
structure StreamDataRec where
  station : Nat
  tag : Nat
  sz : Nat
  delta : BitVec 32
  data : List Byte
  deriving DecidableEq, Repr

/-- A register of the privileged view that has no behaviour of its own when written (R6, R470). -/
inductive RegName where
  | rgbase (ctx k : Nat) | rglim (ctx k : Nat) | rgcb (ctx k : Nat) | rgctl (ctx k : Nat)
  | frt (ctx k : Nat) | svbase (ctx : Nat) | svsize (ctx : Nat)
  | cptbase (d : Nat) | mtinvArgs
  | memerr (m : Nat) | sramerr (c : Nat) | xlerr (k : Nat)
  | ceerr (c : Nat) | mxerr (c : Nat) | faberr (c : Nat) | balfail (c : Nat) | ekerr (d : Nat)
  | cores (c : Nat) | ekres (d : Nat) | frctl (c : Nat)
  | corerfl (c : Nat) | pwrgov | passcfg | pass (p : Nat) | pgcfg
  | thermcfg | triprsn | schedstat | preempt | coreclk (d : Nat)
  deriving DecidableEq, Repr

/-- A message whose opcode names no command, or whose payload is none of its command's (R461, R491). -/
structure RawMsg where
  head : MsgHead
  opcode : Nat
  len : Nat
  deriving DecidableEq, Repr

/-- A received fragment of an IP datagram (R457, R458): its addresses, whether an IPv6 extension header other than the fragment
header stands in it, and its payload. -/
structure IpFragment where
  src : Nat
  dst : Nat
  ext : Bool
  ident : Nat
  v6 : Bool
  offset : Nat
  more : Bool
  bytes : List Byte
  tag : Option (Nat × Nat)
  deriving DecidableEq, Repr

end Sys2Proof
end

