-- ==== Sys2Proof/Config.lean ====
section
/-!
DEFINITION. What the spec leaves to a part: free values. Each is an opaque constant, so that no proof can see its value
(log 4, log 5, log 11, log 12). The first two are applied to the counter `State.fresh`, which the step then advances.
-/
namespace Sys2Proof.Config

/-- Which of the steps that may happen next happens (R489; log 4). -/
opaque pick : Nat → Nat

/-- A value the spec does not fix: identifiers, nonces, keys, frames chosen, sampled measurements (log 11, log 12). -/
opaque free : Nat → Nat

/-- The ROM version of the status block (R474), the digests of the ROM and of an applied blob, the identity certificate, and the
signature of a report: of its nonce, digests, owner key, state and certificate (R467). -/
opaque romVersion : Nat
opaque romDigest : Nat
opaque blobDigest : Option Blob → Nat
opaque certificate : Nat
opaque signature : Nat → Nat → Nat → Option Nat → Nat → Nat → Nat

/-- The bytes of the SHA-512 digest of the identity public key (R457). -/
opaque identityDigest : Nat → Byte

/-- Whether the signature at a message's end verifies under a key (R460). -/
opaque verifies : Nat → List Byte → Bool

/-- The fields of a command's payload whose layout the spec does not give, by opcode and number (R464). -/
opaque payloadField : Nat → Nat → List Byte → Nat

/-- The payload of a reply whose layout the spec does not give, by opcode and content (R464 to R467; log 54). -/
opaque replyBytes : Nat → List Nat → List Byte

/-- The path MTU of a queue pair, as a power of two above 1,024 (R459). -/
opaque pathMtu : Nat → Nat

end Sys2Proof.Config
end

