-- ==== Sys2Proof/Syntax.lean ====
section
/-!
DEFINITION. The instructions of the HF-6: one constructor per row of spec/opcode_table.json.
The first 224 constructors are the instruction forms of spec/03_opcode_map.md; the rest are the steps of the
device's other agents (spec/95_what_each_step_holds.md), each with the operands that name the agent and its data.
-/
namespace Sys2Proof

/-- One step of the device: an instruction form, or a step of another agent. -/
inductive Instr where
  /-- SMOV (R236). -/
  | smov (o : OpS Wd)
  /-- SMOVI (R236). -/
  | smovi (o : OpSMovi)
  /-- SADD_S (R233). -/
  | saddS (o : OpS Wd)
  /-- SADD_SR (R233). -/
  | saddSR (o : OpSR Wd)
  /-- SADD_SI (R233). -/
  | saddSI (o : OpSI ITy)
  /-- SSUB_S (R233). -/
  | ssubS (o : OpS Wd)
  /-- SSUB_SR (R233). -/
  | ssubSR (o : OpSR Wd)
  /-- SSUB_SI (R233). -/
  | ssubSI (o : OpSI ITy)
  /-- SMUL_S (R233). -/
  | smulS (o : OpS Wd)
  /-- SMUL_SR (R233). -/
  | smulSR (o : OpSR Wd)
  /-- SMUL_SI (R233). -/
  | smulSI (o : OpSI ITy)
  /-- SMULH_S (R233). -/
  | smulhS (o : OpS ITy)
  /-- SMULH_SR (R233). -/
  | smulhSR (o : OpSR ITy)
  /-- SDIV_S (R234). -/
  | sdivS (o : OpS ITy)
  /-- SDIV_SR (R234). -/
  | sdivSR (o : OpSR ITy)
  /-- SDIV_SI (R234). -/
  | sdivSI (o : OpSI ITy)
  /-- SREM_S (R234). -/
  | sremS (o : OpS ITy)
  /-- SREM_SR (R234). -/
  | sremSR (o : OpSR ITy)
  /-- SREM_SI (R234). -/
  | sremSI (o : OpSI ITy)
  /-- SAND_S (R233). -/
  | sandS (o : OpS Wd)
  /-- SAND_SR (R233). -/
  | sandSR (o : OpSR Wd)
  /-- SAND_SI (R233). -/
  | sandSI (o : OpSI ITy)
  /-- SOR_S (R233). -/
  | sorS (o : OpS Wd)
  /-- SOR_SR (R233). -/
  | sorSR (o : OpSR Wd)
  /-- SOR_SI (R233). -/
  | sorSI (o : OpSI ITy)
  /-- SXOR_S (R233). -/
  | sxorS (o : OpS Wd)
  /-- SXOR_SR (R233). -/
  | sxorSR (o : OpSR Wd)
  /-- SXOR_SI (R233). -/
  | sxorSI (o : OpSI ITy)
  /-- SSHL_S (R233). -/
  | sshlS (o : OpS Wd)
  /-- SSHL_SR (R233). -/
  | sshlSR (o : OpSR Wd)
  /-- SSHL_SI (R233). -/
  | sshlSI (o : OpSI ITy)
  /-- SSHR_S (R233). -/
  | sshrS (o : OpS Wd)
  /-- SSHR_SR (R233). -/
  | sshrSR (o : OpSR Wd)
  /-- SSHR_SI (R233). -/
  | sshrSI (o : OpSI ITy)
  /-- SSRA_S (R233). -/
  | ssraS (o : OpS Wd)
  /-- SSRA_SR (R233). -/
  | ssraSR (o : OpSR Wd)
  /-- SSRA_SI (R233). -/
  | ssraSI (o : OpSI ITy)
  /-- SCMP_I32_S (R235). -/
  | scmpI32S (o : OpS Cmp)
  /-- SCMP_I32_SR (R235). -/
  | scmpI32SR (o : OpSR Cmp)
  /-- SCMP_I32_SI (R235). -/
  | scmpI32SI (o : OpSI Cmp)
  /-- SCMP_N32_S (R235). -/
  | scmpN32S (o : OpS Cmp)
  /-- SCMP_N32_SR (R235). -/
  | scmpN32SR (o : OpSR Cmp)
  /-- SCMP_N32_SI (R235). -/
  | scmpN32SI (o : OpSI Cmp)
  /-- SSEL (R236). -/
  | ssel (o : OpSR Wd)
  /-- SLDC (R237). -/
  | sldc (o : OpSI Wd)
  /-- SRDLANE (R238). -/
  | srdlane (o : OpSRdLane)
  /-- SMOVT (R239). -/
  | smovt (o : OpSMovt)
  /-- SRD (R206). -/
  | srd (o : OpSpecial)
  /-- SWR (R206). -/
  | swr (o : OpSpecial)
  /-- MOV_V (R250). -/
  | movV (o : OpV1 Wd)
  /-- MOV_VR (R250). -/
  | movVR (o : OpVR1 Wd)
  /-- MOVI (R250). -/
  | movi (o : OpMovi)
  /-- VMOVS (R250). -/
  | vmovs (o : OpVMovs)
  /-- IADD_V (R242). -/
  | iaddV (o : OpV ITy)
  /-- IADD_VR (R242). -/
  | iaddVR (o : OpVRs ITy)
  /-- IADD_VI (R242). -/
  | iaddVI (o : OpVIs ITy)
  /-- IADDC (R243). -/
  | iaddc (o : OpIAddc)
  /-- ISUB_V (R242). -/
  | isubV (o : OpV ITy)
  /-- ISUB_VR (R242). -/
  | isubVR (o : OpVRs ITy)
  /-- ISUB_VI (R242). -/
  | isubVI (o : OpVIs ITy)
  /-- IMUL_V (R242). -/
  | imulV (o : OpV ITy)
  /-- IMUL_VR (R242). -/
  | imulVR (o : OpVRs ITy)
  /-- IMUL_VI (R242). -/
  | imulVI (o : OpVIs ITy)
  /-- IMULH_V (R242). -/
  | imulhV (o : OpV ITy)
  /-- IMULH_VR (R242). -/
  | imulhVR (o : OpVR ITy)
  /-- IMAD (R242). -/
  | imad (o : OpVRcs ITy)
  /-- IMIN_V (R242). -/
  | iminV (o : OpV ITy)
  /-- IMIN_VR (R242). -/
  | iminVR (o : OpVR ITy)
  /-- IMIN_VI (R242). -/
  | iminVI (o : OpVI ITy)
  /-- IMAX_V (R242). -/
  | imaxV (o : OpV ITy)
  /-- IMAX_VR (R242). -/
  | imaxVR (o : OpVR ITy)
  /-- IMAX_VI (R242). -/
  | imaxVI (o : OpVI ITy)
  /-- IABS_V (R242). -/
  | iabsV (o : OpV1 ITy)
  /-- IABS_VR (R242). -/
  | iabsVR (o : OpVR1s ITy)
  /-- INEG_V (R242). -/
  | inegV (o : OpV1 ITy)
  /-- INEG_VR (R242). -/
  | inegVR (o : OpVR1s ITy)
  /-- ISAD (R242). -/
  | isad (o : OpVRc ITy)
  /-- ICMP_VR (R244). -/
  | icmpVR (o : OpICmpR)
  /-- ICMP_VI (R244). -/
  | icmpVI (o : OpICmpI)
  /-- ISEL (R244). -/
  | isel (o : OpISel)
  /-- SHL_V (R245). -/
  | shlV (o : OpV Wd)
  /-- SHL_VR (R245). -/
  | shlVR (o : OpVR Wd)
  /-- SHL_VI (R245). -/
  | shlVI (o : OpVI Wd)
  /-- SHR_V (R245). -/
  | shrV (o : OpV Wd)
  /-- SHR_VR (R245). -/
  | shrVR (o : OpVR Wd)
  /-- SHR_VI (R245). -/
  | shrVI (o : OpVI Wd)
  /-- SRA_V (R245). -/
  | sraV (o : OpV Wd)
  /-- SRA_VR (R245). -/
  | sraVR (o : OpVR Wd)
  /-- SRA_VI (R245). -/
  | sraVI (o : OpVI Wd)
  /-- ROT_V (R245). -/
  | rotV (o : OpV Wd)
  /-- ROT_VR (R245). -/
  | rotVR (o : OpVR Wd)
  /-- ROT_VI (R245). -/
  | rotVI (o : OpVI Wd)
  /-- LMUX (R246). -/
  | lmux (o : OpLmux)
  /-- BFX (R247). -/
  | bfx (o : OpBfx)
  /-- BFI (R247). -/
  | bfi (o : OpBfi)
  /-- POPC_V (R248). -/
  | popcV (o : OpV1 Wd)
  /-- POPC_VR (R248). -/
  | popcVR (o : OpVR1 Wd)
  /-- CLZ_V (R248). -/
  | clzV (o : OpV1 Wd)
  /-- CLZ_VR (R248). -/
  | clzVR (o : OpVR1 Wd)
  /-- BREV_V (R248). -/
  | brevV (o : OpV1 Wd)
  /-- BREV_VR (R248). -/
  | brevVR (o : OpVR1 Wd)
  /-- BYTEP (R249). -/
  | bytep (o : OpBytep)
  /-- FADD_V (R256). -/
  | faddV (o : OpV FTy)
  /-- FADD_VR (R256). -/
  | faddVR (o : OpFR)
  /-- FSUB_V (R256). -/
  | fsubV (o : OpV FTy)
  /-- FSUB_VR (R256). -/
  | fsubVR (o : OpFR)
  /-- FMUL_V (R256). -/
  | fmulV (o : OpV FTy)
  /-- FMUL_VR (R256). -/
  | fmulVR (o : OpFR)
  /-- FMA (R256). -/
  | fma (o : OpFma)
  /-- FMIN_V (R257). -/
  | fminV (o : OpV FTy)
  /-- FMIN_VR (R257). -/
  | fminVR (o : OpVR FTy)
  /-- FMAX_V (R257). -/
  | fmaxV (o : OpV FTy)
  /-- FMAX_VR (R257). -/
  | fmaxVR (o : OpVR FTy)
  /-- FCMP (R258). -/
  | fcmp (o : OpFCmp)
  /-- FSEL (R259). -/
  | fsel (o : OpFSel)
  /-- FCLASS (R260). -/
  | fclass (o : OpFClass)
  /-- FRND_V (R261). -/
  | frndV (o : OpV1 FTy)
  /-- FRND_VR (R261). -/
  | frndVR (o : OpFRnd)
  /-- CVT (R263). -/
  | cvt (o : OpCvt)
  /-- CVTSR (R263). -/
  | cvtsr (o : OpCvtsr)
  /-- PACK (R264). -/
  | pack (o : OpPack)
  /-- UNPACK (R265). -/
  | unpack (o : OpUnpack)
  /-- RCP_V (R266). -/
  | rcpV (o : OpX)
  /-- RCP_VR (R266). -/
  | rcpVR (o : OpXR)
  /-- RSQ_V (R266). -/
  | rsqV (o : OpX)
  /-- RSQ_VR (R266). -/
  | rsqVR (o : OpXR)
  /-- SQRT_V (R266). -/
  | sqrtV (o : OpX)
  /-- SQRT_VR (R266). -/
  | sqrtVR (o : OpXR)
  /-- EXP2_V (R219). -/
  | exp2V (o : OpX)
  /-- EXP2_VR (R219). -/
  | exp2VR (o : OpXR)
  /-- LOG2_V (R220). -/
  | log2V (o : OpX)
  /-- LOG2_VR (R220). -/
  | log2VR (o : OpXR)
  /-- SRNG_V (R267). -/
  | srngV (o : VReg)
  /-- SRNG_VR (R267). -/
  | srngVR (o : OpSrngR)
  /-- XPULL_V (R269). -/
  | xpullV (o : OpV Wd)
  /-- XPULL_VR (R269). -/
  | xpullVR (o : OpVR Wd)
  /-- XPUSH (R270). -/
  | xpush (o : OpXPush)
  /-- XBCAST_VR (R269). -/
  | xbcastVR (o : OpXBcastR)
  /-- XBCAST_VI (R269). -/
  | xbcastVI (o : OpXBcastI)
  /-- XBALLOT (R271). -/
  | xballot (o : OpXBallot)
  /-- XANY (R271). -/
  | xany (o : OpXVote)
  /-- XALL (R271). -/
  | xall (o : OpXVote)
  /-- XPFX (R272). -/
  | xpfx (o : OpXPfx)
  /-- KCLR (R273). -/
  | kclr
  /-- KADD_V (R273). -/
  | kaddV (o : OpKAdd)
  /-- KADD_VR (R273). -/
  | kaddVR (o : OpKAddR)
  /-- KRND (R274). -/
  | krnd (o : OpKRnd)
  /-- KSCAN (R275). -/
  | kscan (o : OpKScan)
  /-- KSAVE (R276). -/
  | ksave (o : OpKImage)
  /-- KLOAD (R276). -/
  | kload (o : OpKImage)
  /-- LD_NARROW (R178). -/
  | ldNarrow (o : OpMem NTy)
  /-- LD_WIDE (R178). -/
  | ldWide (o : OpMem WTy)
  /-- ST_NARROW (R180). -/
  | stNarrow (o : OpMem STy)
  /-- ST_B128 (R180). -/
  | stB128 (o : OpMem Unit)
  /-- LDS_NARROW (R178). -/
  | ldsNarrow (o : OpMem NTy)
  /-- LDS_WIDE (R178). -/
  | ldsWide (o : OpMem WTy)
  /-- STS_NARROW (R180). -/
  | stsNarrow (o : OpMem STy)
  /-- STS_B128 (R180). -/
  | stsB128 (o : OpMem Unit)
  /-- ATOM (R182). -/
  | atom (o : OpAtom)
  /-- RED (R182). -/
  | red (o : OpAtom)
  /-- ATOMR (R194). -/
  | atomr (o : OpAtom)
  /-- LDR (R194). -/
  | ldr (o : OpMem WTy)
  /-- STR (R194). -/
  | str (o : OpMem WTy)
  /-- STR_STRM (R200). -/
  | strStrm (o : OpMem WTy)
  /-- PREF (R187). -/
  | pref (o : OpLine)
  /-- PREFB (R188). -/
  | prefb (o : OpPrefb)
  /-- CFLUSH (R189). -/
  | cflush (o : OpLine)
  /-- CINV (R190). -/
  | cinv (o : OpLine)
  /-- GCVT (R84). -/
  | gcvt (o : OpGcvt)
  /-- GTEST (R87). -/
  | gtest (o : OpGcvt)
  /-- TLD (R287). -/
  | tld (o : OpTileMem)
  /-- TST (R287). -/
  | tst (o : OpTileMem)
  /-- TZERO (R291). -/
  | tzero (o : OpTile)
  /-- TFMT (R282). -/
  | tfmt (o : OpTileS)
  /-- MMA (R294). -/
  | mma (o : OpTileS)
  /-- MACQ (R293). -/
  | macq (o : OpTileS)
  /-- MREL (R293). -/
  | mrel (o : OpTileS)
  /-- MWAIT (R293). -/
  | mwait (o : OpTileS)
  /-- ARD (R291). -/
  | ard (o : OpTileAcc)
  /-- AWR (R291). -/
  | awr (o : OpTileAcc)
  /-- MRESET (R299). -/
  | mreset (o : OpTileS)
  /-- CPY (R153). -/
  | cpy (o : OpCopy)
  /-- CPY2 (R154). -/
  | cpy2 (o : OpCopy)
  /-- CPYT (R156). -/
  | cpyt (o : OpCopy)
  /-- CPYG (R155). -/
  | cpyg (o : OpCopy)
  /-- CPYS (R155). -/
  | cpys (o : OpCopy)
  /-- CFILL (R157). -/
  | cfill (o : OpCopy)
  /-- PKLOAD (R311). -/
  | pkload (o : OpEncke)
  /-- PKQ (R312). -/
  | pkq (o : OpEncke)
  /-- PKU (R315). -/
  | pku (o : OpEncke)
  /-- PKSTAT (R319). -/
  | pkstat (o : OpEncke)
  /-- SPAWN (R383). -/
  | spawn (o : OpTask)
  /-- TAKE (R384). -/
  | take (o : OpTask)
  /-- LAUNCH (R387). -/
  | launch (o : OpEng2)
  /-- CBSET (R394). -/
  | cbset (o : OpEng2)
  /-- CBWAIT (R395). -/
  | cbwait (o : OpEng3)
  /-- BRA (R355). -/
  | bra (o : OpCImm)
  /-- BRC (R355). -/
  | brc (o : OpBrc)
  /-- JMPX (R356). -/
  | jmpx (o : OpCV)
  /-- JTAB (R357). -/
  | jtab (o : OpJtab)
  /-- CALL (R355). -/
  | call (o : OpCVImm)
  /-- CALLX (R356). -/
  | callx (o : OpCV)
  /-- RET (R356). -/
  | ret (o : OpCV)
  /-- RJSET (R362). -/
  | rjset (o : OpCImm)
  /-- RJWAIT (R363). -/
  | rjwait (o : OpC)
  /-- RJDROP (R364). -/
  | rjdrop (o : OpC)
  /-- EXIT (R359). -/
  | exit (o : OpC)
  /-- NOP (R360). -/
  | nop (o : OpC)
  /-- YIELD (R360). -/
  | yield (o : OpC)
  /-- BAR (R373). -/
  | bar (o : OpBar)
  /-- BARSET (R375). -/
  | barset (o : OpBarset)
  /-- PHARR (R379). -/
  | pharr (o : OpPhase)
  /-- PHWAIT (R379). -/
  | phwait (o : OpPhase)
  /-- WAITA (R380). -/
  | waita (o : OpWaita)
  /-- DWAIT (R381). -/
  | dwait (o : OpDwait)
  /-- TRAP (R434). -/
  | trap (o : OpCImm)
  /-- BRK (R434). -/
  | brk (o : OpCImm)
  /-- ECALL (R435). -/
  | ecall (o : OpEcall)
  /-- PHINT (R449). -/
  | phint (o : OpPhint)
  /-- TMARM (R436). -/
  | tmarm (o : OpSwitchC)
  /-- FENCE (R337). -/
  | fence (o : OpFence)
  /-- PWINT (R414). -/
  | pwint (o : OpSwitchC)
  /-- SHADOW (R367). -/
  | shadow (o : OpShadow)
  /-- FRAGQ (R437). -/
  | fragq (o : OpCS)
  /-- BAND_SELECT (R402). -/
  | bandSelect (core quarter : Nat) (upset : Dword)
  /-- CLAUSE_WAIT_RELEASE (R33). -/
  | clauseWaitRelease (band : Nat) (lanes : Dword)
  /-- SWITCH_POINT (R34). -/
  | switchPoint (band : Nat) (lanes : Dword)
  /-- LONG_LATENCY_RESULT_LANDS (R37). -/
  | longLatencyResultLands (op lane : Nat)
  /-- STORE_ACKNOWLEDGE (R123). -/
  | storeAcknowledge (op lane : Nat)
  /-- SRAM_REMOTE_ACCESS (R143). -/
  | sramRemoteAccess (op lane : Nat)
  /-- TRANSLATION_REQUEST (R99). -/
  | translationRequest (die line : Nat) (excl : Bool)
  /-- TRANSLATION_WALK (R100). -/
  | translationWalk (die : Nat) (page : Nat)
  /-- PAGE_FAULT_RESPONSE (R105). -/
  | pageFaultResponse (op : Nat)
  /-- FAULT_RECORD_POST (R108). -/
  | faultRecordPost (die : Nat)
  /-- FAULT_RECORD_SERVE (R490). -/
  | faultRecordServe
  /-- REGEN_COMPLETE (R111). -/
  | regenComplete (page : Nat)
  /-- ACCESS_BIT_SCAN (R110). -/
  | accessBitScan
  /-- PAGE_MOVE (R114). -/
  | pageMove (page unit : Nat)
  /-- MTINV_GO (R98). -/
  | mtinvGo (value : Dword)
  /-- MTINV_COMPLETE (R104). -/
  | mtinvComplete
  /-- FFADD_WRITE (R98). -/
  | ffaddWrite (unit : Nat) (value : Word)
  /-- FQTAIL_WRITE (R107). -/
  | fqtailWrite (die : Nat) (value : Word)
  /-- RDS (R125). -/
  | cohRdS (msg : Nat) (ecc : Ecc)
  /-- RDX (R125). -/
  | cohRdX (msg : Nat) (ecc : Ecc)
  /-- UPG (R125). -/
  | cohUpg (msg : Nat)
  /-- PUTM (R125). -/
  | cohPutM (msg : Nat)
  /-- PUTE (R125). -/
  | cohPutE (msg : Nat)
  /-- FWD (R125). -/
  | cohFwd (msg : Nat)
  /-- INV (R125). -/
  | cohInv (msg : Nat)
  /-- DATA (R125). -/
  | cohData (msg : Nat)
  /-- CMP (R125). -/
  | cohCmp (msg : Nat)
  /-- FWDACK (R125). -/
  | cohFwdAck (msg : Nat)
  /-- INVACK (R125). -/
  | cohInvAck (msg : Nat)
  /-- PUTACK (R125). -/
  | cohPutAck (msg : Nat)
  /-- FLIT_CRC_REPLAY (R129). -/
  | flitCrcReplay (crossing : Nat)
  /-- WATCH_WAKE (R146). -/
  | watchWake (core g : Nat)
  /-- MONITOR_POLL (R147). -/
  | monitorPoll (band lane : Nat)
  /-- COPY_ACCEPT (R152). -/
  | copyAccept (core : Nat)
  /-- COPY_UNIT (R158). -/
  | copyUnit (core slot : Nat)
  /-- COPY_COMPLETE (R160). -/
  | copyComplete (core slot : Nat)
  /-- CERES_RESUME (R167). -/
  | ceresResume (core slot : Nat)
  /-- CERES_ABORT (R167). -/
  | ceresAbort (core slot : Nat)
  /-- COPY_QUIESCE (R169). -/
  | copyQuiesce (core team : Nat)
  /-- PEER_REQUEST (R193). -/
  | peerRequest (r : PeerReq)
  /-- REMOTE_RESPONSE (R194). -/
  | remoteResponse (op lane : Nat) (ans : PeerAnswer)
  /-- LATE_SPLIT (R445). -/
  | lateSplit (band : Nat) (lanes : Dword)
  /-- OPEN (R200). -/
  | streamOpen (r : StreamFullRec)
  /-- FULL (R200). -/
  | streamFull (r : StreamFullRec)
  /-- STREAM_DATA (R200). -/
  | streamData (r : StreamDataRec)
  /-- CLOSE (R202). -/
  | streamClose (station tag : Nat)
  /-- ACK (R200). -/
  | streamAck (ok : Bool) (sid tag : Nat)
  /-- STREAM_BUFFER_TIMEOUT (R201). -/
  | streamBufferTimeout (core route : Nat)
  /-- STREAM_IDLE_CLOSE (R202). -/
  | streamIdleClose (core route : Nat)
  /-- STREAM_REOPEN_TIMEOUT (R200). -/
  | streamReopenTimeout (core route : Nat)
  /-- MMA_OPERATION_START (R297). -/
  | mmaOperationStart (core unit : Nat)
  /-- MMA_STEP (R296). -/
  | mmaStep (core unit : Nat)
  /-- MATRIX_QUIESCE (R300). -/
  | matrixQuiesce (core team : Nat)
  /-- ENCKE_ACCEPT (R308). -/
  | enckeAccept (die : Nat)
  /-- KEY_STAGING (R311). -/
  | keyStaging (die slot : Nat)
  /-- PKQ_QUERY (R312). -/
  | pkqQuery (die slot : Nat)
  /-- ENCKE_ROW_GATHER (R314). -/
  | enckeRowGather (die slot : Nat)
  /-- PKU_QUERY (R315). -/
  | pkuQuery (die slot : Nat)
  /-- ENCKE_ROW_UPDATE (R315). -/
  | enckeRowUpdate (die slot : Nat)
  /-- ENCKE_COMPLETE (R317). -/
  | enckeComplete (die slot : Nat)
  /-- PKSTAT_STATUS_WRITE (R319). -/
  | pkstatStatusWrite (die slot : Nat)
  /-- EKRES_RESUME (R322). -/
  | ekresResume (die slot : Nat)
  /-- EKRES_ABORT (R322). -/
  | ekresAbort (die slot : Nat)
  /-- ENCKE_QUIESCE (R323). -/
  | enckeQuiesce (die team : Nat)
  /-- FENCE_COMPLETE (R337). -/
  | fenceComplete (op : Nat)
  /-- REJOIN_DEADLOCK_DETECT (R366). -/
  | rejoinDeadlockDetect (band : Nat)
  /-- TIMER_FIRE (R436). -/
  | timerFire (band : Nat)
  /-- BAND_END (R359). -/
  | bandEnd (band : Nat)
  /-- BAR_WATCHDOG_EXPIRY (R376). -/
  | barWatchdogExpiry (band lane : Nat)
  /-- WAITA_TIMEOUT (R380). -/
  | waitaTimeout (band lane : Nat)
  /-- COUNTER_WAIT_RELEASE (R381). -/
  | counterWaitRelease (band : Nat) (lanes : Dword)
  /-- TEAM_PLACE (R398). -/
  | teamPlace
  /-- KICK_WRITE (R397). -/
  | kickWrite (value : Word)
  /-- KICK_DEPK2_TIMER (R397). -/
  | kickDepk2Timer
  /-- GRID_COMPLETE (R392). -/
  | gridComplete (grid : Nat)
  /-- CBWAIT_POLL (R395). -/
  | cbwaitPoll (op : Nat)
  /-- CORE_BUCKET_REFILL (R407). -/
  | coreBucketRefill (die : Nat)
  /-- GOVERNOR_HUB_CYCLE (R409). -/
  | governorHubCycle (sample : HubSample)
  /-- PWINT_INTENT_EXPIRY (R414). -/
  | pwintIntentExpiry (band : Nat)
  /-- PASS_COUNT_CHARGE_ADJUST (R418). -/
  | passCountChargeAdjust (die : Nat)
  /-- THERMAL_MIGRATION (R422). -/
  | thermalMigration (core : Nat)
  /-- THERMAL_PASS_FALL (R422). -/
  | thermalPassFall (core : Nat)
  /-- THERMAL_TRIP (R424). -/
  | thermalTrip (dies : Nat)
  /-- POWER_INTENT_SEND (R420). -/
  | powerIntentSend
  /-- POWER_INTENT_RECEIVE (R421). -/
  | powerIntentReceive (i : PowerIntent)
  /-- CALENDAR_ADVANCE (R421). -/
  | calendarAdvance
  /-- SCHEDULER_TAKEOVER (R427). -/
  | schedulerTakeover (cause : Nat)
  /-- DEIMOS_FAILURE (R428). -/
  | deimosFailure
  /-- NOTICE_POST (R433). -/
  | noticePost
  /-- NQ_WRITE (R433). -/
  | nqWrite (value : Word)
  /-- FRAG_READY (R442). -/
  | fragReady (core entry : Nat)
  /-- FRAG_POISON (R442). -/
  | fragPoison (core entry : Nat)
  /-- FRAG_DISCARD (R442). -/
  | fragDiscard (core entry : Nat)
  /-- FRAGMENT_REPLAY (R443). -/
  | fragmentReplay (core entry : Nat)
  /-- FRAG_FULL_RESUME (R446). -/
  | fragFullResume (core : Nat)
  /-- PREEMPT_BUDGET_EXPIRY (R448). -/
  | preemptBudgetExpiry (team : Nat)
  /-- TEAM_SAVE (R450). -/
  | teamSave (team : Nat)
  /-- TEAM_RESTORE (R455). -/
  | teamRestore (saved core : Nat)
  /-- REGISTER_WRITE (R6). -/
  | registerWrite (r : RegName) (value : Dword)
  /-- POWER_ON (R473). -/
  | powerOn (env : PowerOnEnv)
  /-- STATUS (R474). -/
  | fwStatus (h : MsgHead)
  /-- DIAG_FAILURE_RECORD (R475). -/
  | diagFailureRecord (h : MsgHead)
  /-- DIAG_RERUN_STAGE5 (R464). -/
  | diagRerunStage5 (h : MsgHead)
  /-- SESSION_OPEN (R462). -/
  | sessionOpen (h : MsgHead) (key : Nat)
  /-- SESSION_PROVE (R462). -/
  | sessionProve (h : MsgHead) (nonce : Nat)
  /-- SESSION_CLOSE (R491). -/
  | sessionClose (h : MsgHead)
  /-- SESSION_CTXNEW (R491). -/
  | sessionCtxnew (h : MsgHead) (view : Nat)
  /-- SESSION_CTXEND (R464). -/
  | sessionCtxend (h : MsgHead) (ctx : Nat)
  /-- MAP (R465). -/
  | fwMap (h : MsgHead) (m : MapArgs)
  /-- UNMAP (R464). -/
  | fwUnmap (h : MsgHead) (ctx k kind : Nat)
  /-- LOAD_CONFIG (R467). -/
  | loadConfig (h : MsgHead) (b : Blob)
  /-- LOAD_ROUTE (R464). -/
  | loadRoute (h : MsgHead) (ctx k : Nat) (value : Dword)
  /-- LOAD_SAVEPOOL (R464). -/
  | loadSavepool (h : MsgHead) (ctx : Nat) (base size : Dword)
  /-- REGEN_REGISTER (R464). -/
  | regenRegister (h : MsgHead) (ctx image : Nat) (arg : Dword)
  /-- HOST_LAUNCH (R464). -/
  | hostLaunch (h : MsgHead) (ctx queue : Nat) (desc : List Byte)
  /-- WAIT (R466). -/
  | hostWait (h : MsgHead) (ctx gridid limit : Nat)
  /-- WAIT_TIMEOUT (R466). -/
  | waitTimeout (session msgnum : Nat)
  /-- READ_COUNTERS (R470). -/
  | readCounters (h : MsgHead) (group ctx : Nat)
  /-- POWER_GROUP (R468). -/
  | powerGroup (h : MsgHead) (id stag gslew : Nat) (en : Bool) (members : Nat)
  /-- RESET_UNIT_MRESET (R469). -/
  | resetUnitMreset (h : MsgHead) (core unit : Nat)
  /-- RESET_UNIT_STOP_CONTEXT (R469). -/
  | resetUnitStopContext (h : MsgHead) (ctx : Nat)
  /-- RESET_UNIT_CLEAR_COUNTS (R469). -/
  | resetUnitClearCounts (h : MsgHead)
  /-- RESET_UNIT_RETRAIN_ETHERNET (R469). -/
  | resetUnitRetrainEthernet (h : MsgHead)
  /-- RESET_UNIT_RETRAIN_STATION (R469). -/
  | resetUnitRetrainStation (h : MsgHead) (station : Nat)
  /-- ATTEST (R467). -/
  | fwAttest (h : MsgHead) (nonce : Nat)
  /-- SESSION_IDLE_TIMEOUT (R462). -/
  | sessionIdleTimeout (session : Nat)
  /-- IP_FRAGMENT_RECEIVE (R458). -/
  | ipFragmentReceive (f : IpFragment)
  /-- REASSEMBLY_TIMEOUT (R458). -/
  | reassemblyTimeout (src ident : Nat)
  /-- ARP_REQUEST (R457). -/
  | arpRequest (sender target : Nat)
  /-- NEIGHBOUR_DISCOVERY (R457). -/
  | neighbourDiscovery (sender target : Nat)
  /-- ICMP_ECHO (R457). -/
  | icmpEcho (sender target : Nat) (bytes : List Byte)
  /-- PRIORITY_FLOW_CONTROL (R457). -/
  | priorityFlowControl (prio : Nat) (pause : Bool)
  /-- RDMA_WRITE (R459). -/
  | rdmaWrite (qp rkey va : Nat) (bytes : List Byte)
  /-- RDMA_READ (R459). -/
  | rdmaRead (qp rkey va len : Nat)
  /-- CONTEXT_SWITCH (R450). -/
  | contextSwitch (ctx : Nat)
  /-- ETHERNET_LINK_FORMED (R473). -/
  | ethernetLinkFormed
  /-- UNKNOWN_OPCODE (R461). -/
  | unknownOpcode (m : RawMsg)
  deriving DecidableEq, Repr

end Sys2Proof
end

