-- ==== Sys2Proof/Machine/Forms.lean ====
section
/-!
DEFINITION. The conditions an instruction's fields meet beyond their own ranges: register alignment, the pairs of types,
the orders and scopes an opcode allows (spec/02_clauses_and_formats.md R43 rule 5, R45; spec/03_opcode_map.md R58 to R74;
the entries of the instruction chapters). A word that breaks one takes ILLEGAL_INSN.
-/
namespace Sys2Proof.Forms

/-! ## Widths and register alignment (R45) -/

def ITy.is64 : ITy → Bool
  | .i32 | .n32 => false
  | .i64 | .n64 => true

def ITy.signed : ITy → Bool
  | .i32 | .i64 => true
  | .n32 | .n64 => false

def Wd.is64 : Wd → Bool
  | .w32 => false
  | .w64 => true

def FTy.is64 : FTy → Bool
  | .f64 => true
  | _ => false

/-- Width in bits of an element of a 4-bit type code (R60). -/
def TyCode.bits : TyCode → Nat
  | .i8 | .n8 | .e4m3 | .e5m2 | .e8m0 => 8
  | .i16 | .n16 | .f16 | .bf16 => 16
  | .i32 | .n32 | .f32 => 32
  | .i64 | .n64 | .f64 => 64
  | .e2m1 => 4

def TyCode.isInt : TyCode → Bool
  | .i8 | .i16 | .i32 | .i64 | .n8 | .n16 | .n32 | .n64 => true
  | _ => false

def TyCode.is64 (t : TyCode) : Bool := TyCode.bits t == 64

/-- Registers an operand of a memory width occupies (R45). -/
def WTy.regs : WTy → Nat
  | .b32 => 1
  | .b64 => 2
  | .b128 => 4

def STy.regs : STy → Nat
  | .b8 | .b16 | .b32 => 1
  | .b64 => 2

def AW.regs : AW → Nat
  | .b32 => 1
  | .b64 => 2
  | .b128 => 4

/-- A register number that an operand of `k` registers may name. -/
def al (k : Nat) {n : Nat} (r : Fin n) : Bool := r.val % k == 0

/-- An even register where the operand is 64 bits wide. -/
def ev (wide : Bool) {n : Nat} (r : Fin n) : Bool := !wide || al 2 r

/-- Source b of the VR format (R65) as a 64-bit operand. -/
def evSrc (wide : Bool) : VSrc → Bool
  | .vec r => ev wide r
  | .sca r => ev wide r

/-! ## Special registers (R205) -/

/-- The registers SRD and SWR name. -/
inductive SpecReg where
  | lane (q : Fin 64) | tid (q : Fin 64) | tcause (q : Fin 64) | tepc (q : Fin 64) | taddr (q : Fin 64) | frag (q : Fin 64)
  | band | team | grid | core | die | width | active | cycles | brun | tokq | charge | pass | fflags | spflag | lthresh
  deriving DecidableEq, Repr

/-- The number assignment of R205; none where the number is unassigned (R64). -/
def specReg (n : Fin 1024) : Option SpecReg :=
  let q : Fin 64 := Fin.ofNat 64 n.val
  match n.val / 64 with
  | 0 => some (.lane q)
  | 1 => some (.tid q)
  | 2 => some (.tcause q)
  | 3 => some (.tepc q)
  | 4 => some (.taddr q)
  | 5 => some (.frag q)
  | 8 =>
    match n.val % 64 with
    | 0 => some .band
    | 1 => some .team
    | 2 => some .grid
    | 3 => some .core
    | 4 => some .die
    | 5 => some .width
    | 6 => some .active
    | 7 => some .cycles
    | 8 => some .brun
    | 9 => some .tokq
    | 10 => some .charge
    | 11 => some .pass
    | 12 => some .fflags
    | 13 => some .spflag
    | 14 => some .lthresh
    | _ => none
  | _ => none

/-- The 64-bit special registers. -/
def SpecReg.is64 : SpecReg → Bool
  | .tepc _ | .taddr _ | .active | .cycles | .brun | .spflag => true
  | _ => false

/-- The special registers SWR may name: access RW, W1C or FW (R64). -/
def SpecReg.writable : SpecReg → Bool
  | .cycles | .fflags | .spflag | .lthresh => true
  | _ => false

/-! ## Scalar opcodes -/

def okS (o : OpS Wd) : Bool := ev (Wd.is64 o.ty) o.d && ev (Wd.is64 o.ty) o.a
def okSI_ (o : OpS ITy) : Bool := ev (ITy.is64 o.ty) o.d && ev (ITy.is64 o.ty) o.a
/-- The count of a shift is one 32-bit register of any number (R229). -/
def okSShift (o : OpS Wd) : Bool := ev (Wd.is64 o.ty) o.d
def okSR (o : OpSR Wd) : Bool := ev (Wd.is64 o.ty) o.d && ev (Wd.is64 o.ty) o.a && ev (Wd.is64 o.ty) o.s
def okSRI (o : OpSR ITy) : Bool := ev (ITy.is64 o.ty) o.d && ev (ITy.is64 o.ty) o.a && ev (ITy.is64 o.ty) o.s
def okSRShift (o : OpSR Wd) : Bool := ev (Wd.is64 o.ty) o.d && ev (Wd.is64 o.ty) o.a
def okSI (o : OpSI ITy) : Bool := ev (ITy.is64 o.ty) o.d && ev (ITy.is64 o.ty) o.a
/-- An immediate count lies below the width (R229). -/
def okSIShift (o : OpSI ITy) : Bool := okSI o && o.imm.toNat < (if ITy.is64 o.ty then 64 else 32)
def okSldc (o : OpSI Wd) : Bool := ev (Wd.is64 o.ty) o.d
def okSRdLane (o : OpSRdLane) : Bool := ev (Wd.is64 o.ty) o.d && ev (Wd.is64 o.ty) o.c

def okSrd (o : OpSpecial) : Bool :=
  match specReg o.num with
  | none => false
  | some r => ev (SpecReg.is64 r) o.r

def okSwr (o : OpSpecial) : Bool :=
  match specReg o.num with
  | none => false
  | some r => SpecReg.writable r

/-! ## Vector integer opcodes -/

def okV (wide : Bool) (d a b : VReg) : Bool := ev wide d && ev wide a && ev wide b
def okVI' (o : OpV ITy) : Bool := okV (ITy.is64 o.ty) o.d o.a o.b
def okVW (o : OpV Wd) : Bool := okV (Wd.is64 o.ty) o.d o.a o.b
def okVF (o : OpV FTy) : Bool := okV (FTy.is64 o.ty) o.d o.a o.b
def okVShift (o : OpV Wd) : Bool := ev (Wd.is64 o.ty) o.d && ev (Wd.is64 o.ty) o.a
def okV1I (o : OpV1 ITy) : Bool := ev (ITy.is64 o.ty) o.d && ev (ITy.is64 o.ty) o.a
def okV1W (o : OpV1 Wd) : Bool := ev (Wd.is64 o.ty) o.d && ev (Wd.is64 o.ty) o.a
def okV1F (o : OpV1 FTy) : Bool := ev (FTy.is64 o.ty) o.d && ev (FTy.is64 o.ty) o.a
/-- POPC and CLZ write one register whatever the width (R248). -/
def okV1Count (o : OpV1 Wd) : Bool := ev (Wd.is64 o.ty) o.a
def okVR (wide : Bool) (d a : VReg) (b : VSrc) : Bool := ev wide d && ev wide a && evSrc wide b
def okVRI (o : OpVR ITy) : Bool := okVR (ITy.is64 o.ty) o.d o.a o.b
def okVRW (o : OpVR Wd) : Bool := okVR (Wd.is64 o.ty) o.d o.a o.b
def okVRF (o : OpVR FTy) : Bool := okVR (FTy.is64 o.ty) o.d o.a o.b
def okVRShift (o : OpVR Wd) : Bool := ev (Wd.is64 o.ty) o.d && ev (Wd.is64 o.ty) o.a
def okVRs (o : OpVRs ITy) : Bool := okVR (ITy.is64 o.ty) o.d o.a o.b
def okVR1W (o : OpVR1 Wd) : Bool := ev (Wd.is64 o.ty) o.d && ev (Wd.is64 o.ty) o.a
def okVR1Count (o : OpVR1 Wd) : Bool := ev (Wd.is64 o.ty) o.a
def okVR1s (o : OpVR1s ITy) : Bool := ev (ITy.is64 o.ty) o.d && ev (ITy.is64 o.ty) o.a
def okVRc (o : OpVRc ITy) : Bool := okVR (ITy.is64 o.ty) o.d o.a o.b && ev (ITy.is64 o.ty) o.c
def okVRcs (o : OpVRcs ITy) : Bool := okVR (ITy.is64 o.ty) o.d o.a o.b && ev (ITy.is64 o.ty) o.c
def okVI (o : OpVI ITy) : Bool := ev (ITy.is64 o.ty) o.d && ev (ITy.is64 o.ty) o.a
def okVIs (o : OpVIs ITy) : Bool := ev (ITy.is64 o.ty) o.d && ev (ITy.is64 o.ty) o.a
def okVIShift (o : OpVI Wd) : Bool :=
  ev (Wd.is64 o.ty) o.d && ev (Wd.is64 o.ty) o.a && o.imm.toNat < (if Wd.is64 o.ty then 64 else 32)
def okVMovs (o : OpVMovs) : Bool := ev (Wd.is64 o.ty) o.d && ev (Wd.is64 o.ty) o.s
def okIAddc (o : OpIAddc) : Bool := okVR (ITy.is64 o.ty) o.d o.a o.b
def okICmpR (o : OpICmpR) : Bool := ev (ITy.is64 o.ty) o.a && evSrc (ITy.is64 o.ty) o.b
def okICmpI (o : OpICmpI) : Bool := ev (ITy.is64 o.ty) o.a
def okISel (o : OpISel) : Bool := okVR (Wd.is64 o.ty) o.d o.a o.b
def okLmux (o : OpLmux) : Bool := okVR (Wd.is64 o.ty) o.d o.a o.b && ev (Wd.is64 o.ty) o.c
/-- Position and length of BFX and BFI (R247). -/
def okField (wide : Bool) (pos len : Fin 64) : Bool := wide || (pos.val ≤ 31 && len.val ≤ 32)
def okBfx (o : OpBfx) : Bool :=
  ev (ITy.is64 o.ty) o.d && ev (ITy.is64 o.ty) o.a && okField (ITy.is64 o.ty) o.pos o.len
def okBfi (o : OpBfi) : Bool := okV (Wd.is64 o.ty) o.d o.a o.b && okField (Wd.is64 o.ty) o.pos o.len

/-! ## Floating point and conversion (R66, R252) -/

def okFR (o : OpFR) : Bool := okVR (FTy.is64 o.ty) o.d o.a o.b
def okFma (o : OpFma) : Bool := okVR (FTy.is64 o.ty) o.d o.a o.b && ev (FTy.is64 o.ty) o.c
def okFCmp (o : OpFCmp) : Bool := ev (FTy.is64 o.ty) o.a && evSrc (FTy.is64 o.ty) o.b
def okFSel (o : OpFSel) : Bool := okVR (FTy.is64 o.ty) o.d o.a o.b && ev (FTy.is64 o.ty) o.c
def okFClass (o : OpFClass) : Bool := ev (FTy.is64 o.ty) o.a
/-- RND 4 is reserved outside FADD, FSUB, FMUL, FMA and PACK to a float type (R252). -/
def noSr (r : Rnd) : Bool := r != .sr
def okFRnd (o : OpFRnd) : Bool := noSr o.rnd && ev (FTy.is64 o.ty) o.d && ev (FTy.is64 o.ty) o.a
/-- The pairs of CVT: not of equal codes, and .e8m0 only with .f32 (R66). -/
def cvtPair (d s : TyCode) : Bool :=
  d != s && (d != .e8m0 || s == .f32) && (s != .e8m0 || d == .f32)
def okCvt (o : OpCvt) : Bool :=
  noSr o.rnd && cvtPair o.dst o.src && (!o.sat || (!TyCode.isInt o.dst && o.dst != .e8m0))
    && ev (TyCode.is64 o.dst) o.d && ev (TyCode.is64 o.src) o.a
/-- The pairs of CVTSR (R66, R262). -/
def cvtsrPair (d s : TyCode) : Bool :=
  match s with
  | .f32 => d == .f16 || d == .bf16 || d == .e4m3 || d == .e5m2 || d == .e2m1
  | .f16 | .bf16 => d == .e4m3 || d == .e5m2 || d == .e2m1
  | _ => false
def okCvtsr (o : OpCvtsr) : Bool := cvtsrPair o.dst o.src
/-- The pairs of PACK, narrow type first; UNPACK takes them exchanged (R66). -/
def packPair (n w : TyCode) : Bool :=
  match n with
  | .i8 | .n8 | .i16 | .n16 => w == .i32 || w == .n32
  | .f16 | .bf16 | .e4m3 | .e5m2 | .e2m1 => w == .f32
  | _ => false
def okPack (o : OpPack) : Bool :=
  packPair o.dst o.src && (!TyCode.isInt o.dst || (o.rnd == .rn && !o.sat))
def okUnpack (o : OpUnpack) : Bool := packPair o.src o.dst && (o.idx.val + 1) * TyCode.bits o.src ≤ 32
def okXR (o : OpXR) : Bool := noSr o.rnd

/-! ## Cross-lane and exact accumulator -/

def okXPush (o : OpXPush) : Bool := ev (Wd.is64 o.ty) o.d && ev (Wd.is64 o.ty) o.a
/-- The source lane is one 32-bit register of any number: R269 reads (b of lane l)[31:0]. -/
def okXPullV (o : OpV Wd) : Bool := ev (Wd.is64 o.ty) o.d && ev (Wd.is64 o.ty) o.a
def okXPullVR (o : OpVR Wd) : Bool := ev (Wd.is64 o.ty) o.d && ev (Wd.is64 o.ty) o.a
def okXBcastR (o : OpXBcastR) : Bool := ev (Wd.is64 o.ty) o.d && ev (Wd.is64 o.ty) o.a
def okXBcastI (o : OpXBcastI) : Bool := ev (Wd.is64 o.ty) o.d && ev (Wd.is64 o.ty) o.a
def okXBallot (o : OpXBallot) : Bool := al 2 o.s
def okXPfx (o : OpXPfx) : Bool := ev (ITy.is64 o.ty) o.d && ev (ITy.is64 o.ty) o.a
def okKRnd (o : OpKRnd) : Bool := noSr o.rnd
def okKScan (o : OpKScan) : Bool := noSr o.rnd
def okKImage (o : OpKImage) : Bool := al 16 o.s

/-! ## Memory (R68 to R70, R173) -/

def ldOrder (o : Order) : Bool := o == .rlx || o == .acq
def stOrder (o : Order) : Bool := o == .rlx || o == .rel
/-- Scopes .band to .dev, those of LDS and STS. -/
def localScope (s : Scope) : Bool := s != .fab

def okLdNarrow (o : OpMem NTy) : Bool := ldOrder o.order && al 2 o.a && al 2 o.s
def okLdWide (o : OpMem WTy) : Bool := ldOrder o.order && al (WTy.regs o.ty) o.d && al 2 o.a && al 2 o.s
def okStNarrow (o : OpMem STy) : Bool := stOrder o.order && al (STy.regs o.ty) o.d && al 2 o.a && al 2 o.s
def okStB128 (o : OpMem Unit) : Bool := stOrder o.order && al 4 o.d && al 2 o.a && al 2 o.s
def okLdsNarrow (o : OpMem NTy) : Bool := ldOrder o.order && localScope o.scope
def okLdsWide (o : OpMem WTy) : Bool := ldOrder o.order && localScope o.scope && al (WTy.regs o.ty) o.d
def okStsNarrow (o : OpMem STy) : Bool := stOrder o.order && localScope o.scope && al (STy.regs o.ty) o.d
def okStsB128 (o : OpMem Unit) : Bool := stOrder o.order && localScope o.scope && al 4 o.d

/-- The allowed atomic combinations (R69). -/
def atomCombo (op : AOp) (aw : AW) (sgn : Bool) : Bool :=
  match op with
  | .add | .min | .max => aw != .b128
  | .and | .or | .xor => aw != .b128 && !sgn
  | .exch | .cas => !sgn
  | .fadd | .fmin | .fmax => aw != .b128 && !sgn

def okAtomRegs (o : OpAtom) : Bool :=
  atomCombo o.op o.aw o.sgn && al (AW.regs o.aw) o.d && al 2 o.a && al 2 o.s
    && al (if o.op == .cas then 2 * AW.regs o.aw else AW.regs o.aw) o.b

def okAtom (o : OpAtom) : Bool := okAtomRegs o
def okRed (o : OpAtom) : Bool := okAtomRegs o && stOrder o.order && o.d == 0 && o.op != .exch && o.op != .cas
def okAtomr (o : OpAtom) : Bool := okAtomRegs o && o.scope == .fab
def okLdr (o : OpMem WTy) : Bool := okLdWide o && o.scope == .fab
def okStr (o : OpMem WTy) : Bool :=
  stOrder o.order && o.scope == .fab && o.dc != none && al (WTy.regs o.ty) o.d && al 2 o.a && al 2 o.s
def okPref (o : OpLine) : Bool := o.scope == .band && o.dc == none && al 2 o.a && al 2 o.s
def okPrefb (o : OpPrefb) : Bool := al 2 o.a && al 2 o.s
def okCflush (o : OpLine) : Bool := al 2 o.a && al 2 o.s
def okCinv (o : OpLine) : Bool :=
  o.lvl == .l1 && (o.scope == .band || o.scope == .team) && al 2 o.a && al 2 o.s
def okGcvt (o : OpGcvt) : Bool := al 2 o.d && al 2 o.a && al 2 o.s
def okGtest (o : OpGcvt) : Bool := al 2 o.a && al 2 o.s

/-! ## Tiles, engines, control, system -/

def okTld (o : OpTileMem) : Bool := ldOrder o.order && al 2 o.a
def okTst (o : OpTileMem) : Bool := stOrder o.order && !o.tr && al 2 o.a
/-- SA and SB are pairs, and SC starts a group of four with .cw (R150). -/
def okCopy (o : OpCopy) : Bool := al 2 o.a && al 2 o.b && (o.cw == none || al 4 o.c)
/-- SB of CFILL is one 32-bit register. -/
def okCfill (o : OpCopy) : Bool := al 2 o.a && (o.cw == none || al 4 o.c)
def okPkstat (o : OpEncke) : Bool := o.cw == none
def okTask (o : OpTask) : Bool := al 8 o.v
def okEng2 (o : OpEng2) : Bool := al 2 o.a
def okEng3 (o : OpEng3) : Bool := al 2 o.a
def okCV (o : OpCV) : Bool := al 2 o.v
def okCallx (o : OpCV) : Bool := al 2 o.v && o.v.val ≤ 124
def okCall (o : OpCVImm) : Bool := al 2 o.v
def okJtab (o : OpJtab) : Bool := al 2 o.c && o.n != 0
def okWaita (o : OpWaita) : Bool := al 4 o.v
def okTmarm (o : OpSwitchC) : Bool := if o.off then o.c == 0 else al 2 o.c
def okPwint (o : OpSwitchC) : Bool := !o.off || o.c == 0
def okFragq (o : OpCS) : Bool := al 2 o.c

end Sys2Proof.Forms
end

