-- ==== Sys2Proof/WellFormed.lean ====
section
/-!
DEFINITION. Well-formed instructions: the field conditions of each constructor (spec/02_clauses_and_formats.md R43 rule 5, R45).
A term of an operand type whose fields meet them is one that some word of the ISA encodes; a device event has no word, so none is well-formed here.
-/
namespace Sys2Proof

/-- The fields of `i` are ones an instruction word may hold. -/
def wellFormed (i : Instr) : Bool :=
  match i with
  | .smov o => Forms.okS o
  | .smovi _ => true
  | .saddS o => Forms.okS o
  | .saddSR o => Forms.okSR o
  | .saddSI o => Forms.okSI o
  | .ssubS o => Forms.okS o
  | .ssubSR o => Forms.okSR o
  | .ssubSI o => Forms.okSI o
  | .smulS o => Forms.okS o
  | .smulSR o => Forms.okSR o
  | .smulSI o => Forms.okSI o
  | .smulhS o => Forms.okSI_ o
  | .smulhSR o => Forms.okSRI o
  | .sdivS o => Forms.okSI_ o
  | .sdivSR o => Forms.okSRI o
  | .sdivSI o => Forms.okSI o
  | .sremS o => Forms.okSI_ o
  | .sremSR o => Forms.okSRI o
  | .sremSI o => Forms.okSI o
  | .sandS o => Forms.okS o
  | .sandSR o => Forms.okSR o
  | .sandSI o => Forms.okSI o
  | .sorS o => Forms.okS o
  | .sorSR o => Forms.okSR o
  | .sorSI o => Forms.okSI o
  | .sxorS o => Forms.okS o
  | .sxorSR o => Forms.okSR o
  | .sxorSI o => Forms.okSI o
  | .sshlS o => Forms.okSShift o
  | .sshlSR o => Forms.okSRShift o
  | .sshlSI o => Forms.okSIShift o
  | .sshrS o => Forms.okSShift o
  | .sshrSR o => Forms.okSRShift o
  | .sshrSI o => Forms.okSIShift o
  | .ssraS o => Forms.okSShift o
  | .ssraSR o => Forms.okSRShift o
  | .ssraSI o => Forms.okSIShift o
  | .scmpI32S _ => true
  | .scmpI32SR _ => true
  | .scmpI32SI _ => true
  | .scmpN32S _ => true
  | .scmpN32SR _ => true
  | .scmpN32SI _ => true
  | .ssel o => Forms.okSR o
  | .sldc o => Forms.okSldc o
  | .srdlane o => Forms.okSRdLane o
  | .smovt _ => true
  | .srd o => Forms.okSrd o
  | .swr o => Forms.okSwr o
  | .movV o => Forms.okV1W o
  | .movVR o => Forms.okVR1W o
  | .movi _ => true
  | .vmovs o => Forms.okVMovs o
  | .iaddV o => Forms.okVI' o
  | .iaddVR o => Forms.okVRs o
  | .iaddVI o => Forms.okVIs o
  | .iaddc o => Forms.okIAddc o
  | .isubV o => Forms.okVI' o
  | .isubVR o => Forms.okVRs o
  | .isubVI o => Forms.okVIs o
  | .imulV o => Forms.okVI' o
  | .imulVR o => Forms.okVRs o
  | .imulVI o => Forms.okVIs o
  | .imulhV o => Forms.okVI' o
  | .imulhVR o => Forms.okVRI o
  | .imad o => Forms.okVRcs o
  | .iminV o => Forms.okVI' o
  | .iminVR o => Forms.okVRI o
  | .iminVI o => Forms.okVI o
  | .imaxV o => Forms.okVI' o
  | .imaxVR o => Forms.okVRI o
  | .imaxVI o => Forms.okVI o
  | .iabsV o => Forms.okV1I o
  | .iabsVR o => Forms.okVR1s o
  | .inegV o => Forms.okV1I o
  | .inegVR o => Forms.okVR1s o
  | .isad o => Forms.okVRc o
  | .icmpVR o => Forms.okICmpR o
  | .icmpVI o => Forms.okICmpI o
  | .isel o => Forms.okISel o
  | .shlV o => Forms.okVShift o
  | .shlVR o => Forms.okVRShift o
  | .shlVI o => Forms.okVIShift o
  | .shrV o => Forms.okVShift o
  | .shrVR o => Forms.okVRShift o
  | .shrVI o => Forms.okVIShift o
  | .sraV o => Forms.okVShift o
  | .sraVR o => Forms.okVRShift o
  | .sraVI o => Forms.okVIShift o
  | .rotV o => Forms.okVShift o
  | .rotVR o => Forms.okVRShift o
  | .rotVI o => Forms.okVIShift o
  | .lmux o => Forms.okLmux o
  | .bfx o => Forms.okBfx o
  | .bfi o => Forms.okBfi o
  | .popcV o => Forms.okV1Count o
  | .popcVR o => Forms.okVR1Count o
  | .clzV o => Forms.okV1Count o
  | .clzVR o => Forms.okVR1Count o
  | .brevV o => Forms.okV1W o
  | .brevVR o => Forms.okVR1W o
  | .bytep _ => true
  | .faddV o => Forms.okVF o
  | .faddVR o => Forms.okFR o
  | .fsubV o => Forms.okVF o
  | .fsubVR o => Forms.okFR o
  | .fmulV o => Forms.okVF o
  | .fmulVR o => Forms.okFR o
  | .fma o => Forms.okFma o
  | .fminV o => Forms.okVF o
  | .fminVR o => Forms.okVRF o
  | .fmaxV o => Forms.okVF o
  | .fmaxVR o => Forms.okVRF o
  | .fcmp o => Forms.okFCmp o
  | .fsel o => Forms.okFSel o
  | .fclass o => Forms.okFClass o
  | .frndV o => Forms.okV1F o
  | .frndVR o => Forms.okFRnd o
  | .cvt o => Forms.okCvt o
  | .cvtsr o => Forms.okCvtsr o
  | .pack o => Forms.okPack o
  | .unpack o => Forms.okUnpack o
  | .rcpV _ => true
  | .rcpVR o => Forms.okXR o
  | .rsqV _ => true
  | .rsqVR o => Forms.okXR o
  | .sqrtV _ => true
  | .sqrtVR o => Forms.okXR o
  | .exp2V _ => true
  | .exp2VR o => Forms.okXR o
  | .log2V _ => true
  | .log2VR o => Forms.okXR o
  | .srngV _ => true
  | .srngVR _ => true
  | .xpullV o => Forms.okXPullV o
  | .xpullVR o => Forms.okXPullVR o
  | .xpush o => Forms.okXPush o
  | .xbcastVR o => Forms.okXBcastR o
  | .xbcastVI o => Forms.okXBcastI o
  | .xballot o => Forms.okXBallot o
  | .xany _ => true
  | .xall _ => true
  | .xpfx o => Forms.okXPfx o
  | .kclr => true
  | .kaddV _ => true
  | .kaddVR _ => true
  | .krnd o => Forms.okKRnd o
  | .kscan o => Forms.okKScan o
  | .ksave o => Forms.okKImage o
  | .kload o => Forms.okKImage o
  | .ldNarrow o => Forms.okLdNarrow o
  | .ldWide o => Forms.okLdWide o
  | .stNarrow o => Forms.okStNarrow o
  | .stB128 o => Forms.okStB128 o
  | .ldsNarrow o => Forms.okLdsNarrow o
  | .ldsWide o => Forms.okLdsWide o
  | .stsNarrow o => Forms.okStsNarrow o
  | .stsB128 o => Forms.okStsB128 o
  | .atom o => Forms.okAtom o
  | .red o => Forms.okRed o
  | .atomr o => Forms.okAtomr o
  | .ldr o => Forms.okLdr o
  | .str o => Forms.okStr o
  | .strStrm o => Forms.okStr o
  | .pref o => Forms.okPref o
  | .prefb o => Forms.okPrefb o
  | .cflush o => Forms.okCflush o
  | .cinv o => Forms.okCinv o
  | .gcvt o => Forms.okGcvt o
  | .gtest o => Forms.okGtest o
  | .tld o => Forms.okTld o
  | .tst o => Forms.okTst o
  | .tzero _ => true
  | .tfmt _ => true
  | .mma _ => true
  | .macq _ => true
  | .mrel _ => true
  | .mwait _ => true
  | .ard _ => true
  | .awr _ => true
  | .mreset _ => true
  | .cpy o => Forms.okCopy o
  | .cpy2 o => Forms.okCopy o
  | .cpyt o => Forms.okCopy o
  | .cpyg o => Forms.okCopy o
  | .cpys o => Forms.okCopy o
  | .cfill o => Forms.okCfill o
  | .pkload _ => true
  | .pkq _ => true
  | .pku _ => true
  | .pkstat o => Forms.okPkstat o
  | .spawn o => Forms.okTask o
  | .take o => Forms.okTask o
  | .launch o => Forms.okEng2 o
  | .cbset o => Forms.okEng2 o
  | .cbwait o => Forms.okEng3 o
  | .bra _ => true
  | .brc _ => true
  | .jmpx o => Forms.okCV o
  | .jtab o => Forms.okJtab o
  | .call o => Forms.okCall o
  | .callx o => Forms.okCallx o
  | .ret o => Forms.okCV o
  | .rjset _ => true
  | .rjwait _ => true
  | .rjdrop _ => true
  | .exit _ => true
  | .nop _ => true
  | .yield _ => true
  | .bar _ => true
  | .barset _ => true
  | .pharr _ => true
  | .phwait _ => true
  | .waita o => Forms.okWaita o
  | .dwait _ => true
  | .trap _ => true
  | .brk _ => true
  | .ecall _ => true
  | .phint _ => true
  | .tmarm o => Forms.okTmarm o
  | .fence _ => true
  | .pwint o => Forms.okPwint o
  | .shadow _ => true
  | .fragq o => Forms.okFragq o
  | .bandSelect _ _ _ => false
  | .clauseWaitRelease _ _ => false
  | .switchPoint _ _ => false
  | .longLatencyResultLands _ _ => false
  | .storeAcknowledge _ _ => false
  | .sramRemoteAccess _ _ => false
  | .translationRequest _ _ _ => false
  | .translationWalk _ _ => false
  | .pageFaultResponse _ => false
  | .faultRecordPost _ => false
  | .faultRecordServe => false
  | .regenComplete _ => false
  | .accessBitScan => false
  | .pageMove _ _ => false
  | .mtinvGo _ => false
  | .mtinvComplete => false
  | .ffaddWrite _ _ => false
  | .fqtailWrite _ _ => false
  | .cohRdS _ _ => false
  | .cohRdX _ _ => false
  | .cohUpg _ => false
  | .cohPutM _ => false
  | .cohPutE _ => false
  | .cohFwd _ => false
  | .cohInv _ => false
  | .cohData _ => false
  | .cohCmp _ => false
  | .cohFwdAck _ => false
  | .cohInvAck _ => false
  | .cohPutAck _ => false
  | .flitCrcReplay _ => false
  | .watchWake _ _ => false
  | .monitorPoll _ _ => false
  | .copyAccept _ => false
  | .copyUnit _ _ => false
  | .copyComplete _ _ => false
  | .ceresResume _ _ => false
  | .ceresAbort _ _ => false
  | .copyQuiesce _ _ => false
  | .peerRequest _ => false
  | .remoteResponse _ _ _ => false
  | .lateSplit _ _ => false
  | .streamOpen _ => false
  | .streamFull _ => false
  | .streamData _ => false
  | .streamClose _ _ => false
  | .streamAck _ _ _ => false
  | .streamBufferTimeout _ _ => false
  | .streamIdleClose _ _ => false
  | .streamReopenTimeout _ _ => false
  | .mmaOperationStart _ _ => false
  | .mmaStep _ _ => false
  | .matrixQuiesce _ _ => false
  | .enckeAccept _ => false
  | .keyStaging _ _ => false
  | .pkqQuery _ _ => false
  | .enckeRowGather _ _ => false
  | .pkuQuery _ _ => false
  | .enckeRowUpdate _ _ => false
  | .enckeComplete _ _ => false
  | .pkstatStatusWrite _ _ => false
  | .ekresResume _ _ => false
  | .ekresAbort _ _ => false
  | .enckeQuiesce _ _ => false
  | .fenceComplete _ => false
  | .rejoinDeadlockDetect _ => false
  | .timerFire _ => false
  | .bandEnd _ => false
  | .barWatchdogExpiry _ _ => false
  | .waitaTimeout _ _ => false
  | .counterWaitRelease _ _ => false
  | .teamPlace => false
  | .kickWrite _ => false
  | .kickDepk2Timer => false
  | .gridComplete _ => false
  | .cbwaitPoll _ => false
  | .coreBucketRefill _ => false
  | .governorHubCycle _ => false
  | .pwintIntentExpiry _ => false
  | .passCountChargeAdjust _ => false
  | .thermalMigration _ => false
  | .thermalPassFall _ => false
  | .thermalTrip _ => false
  | .powerIntentSend => false
  | .powerIntentReceive _ => false
  | .calendarAdvance => false
  | .schedulerTakeover _ => false
  | .deimosFailure => false
  | .noticePost => false
  | .nqWrite _ => false
  | .fragReady _ _ => false
  | .fragPoison _ _ => false
  | .fragDiscard _ _ => false
  | .fragmentReplay _ _ => false
  | .fragFullResume _ => false
  | .preemptBudgetExpiry _ => false
  | .teamSave _ => false
  | .teamRestore _ _ => false
  | .registerWrite _ _ => false
  | .powerOn _ => false
  | .fwStatus _ => false
  | .diagFailureRecord _ => false
  | .diagRerunStage5 _ => false
  | .sessionOpen _ _ => false
  | .sessionProve _ _ => false
  | .sessionClose _ => false
  | .sessionCtxnew _ _ => false
  | .sessionCtxend _ _ => false
  | .fwMap _ _ => false
  | .fwUnmap _ _ _ _ => false
  | .loadConfig _ _ => false
  | .loadRoute _ _ _ _ => false
  | .loadSavepool _ _ _ _ => false
  | .regenRegister _ _ _ _ => false
  | .hostLaunch _ _ _ _ => false
  | .hostWait _ _ _ _ => false
  | .waitTimeout _ _ => false
  | .readCounters _ _ _ => false
  | .powerGroup _ _ _ _ _ _ => false
  | .resetUnitMreset _ _ _ => false
  | .resetUnitStopContext _ _ => false
  | .resetUnitClearCounts _ => false
  | .resetUnitRetrainEthernet _ => false
  | .resetUnitRetrainStation _ _ => false
  | .fwAttest _ _ => false
  | .sessionIdleTimeout _ => false
  | .ipFragmentReceive _ => false
  | .reassemblyTimeout _ _ => false
  | .arpRequest _ _ => false
  | .neighbourDiscovery _ _ => false
  | .icmpEcho _ _ _ => false
  | .priorityFlowControl _ _ => false
  | .rdmaWrite _ _ _ _ => false
  | .rdmaRead _ _ _ _ => false
  | .contextSwitch _ => false
  | .ethernetLinkFormed => false
  | .unknownOpcode _ => false

end Sys2Proof
end

