-- ==== Sys2Proof/Decode.lean ====
section
/-!
DEFINITION. From words to instructions and back: the layouts of spec/02_clauses_and_formats.md R40 to R42, the decoder of
R43 over the opcode map of spec/03_opcode_map.md, and after it the encoder.
-/
namespace Sys2Proof

/-- Why a word takes ILLEGAL_INSN, in the order of R43 rules 1 to 5. -/
inductive Reject where
  | noOpcode | noShort | layout | unused | reserved
  deriving DecidableEq, Repr

/-- A decoder's answer. -/
abbrev Dec (α : Type) := Except Reject α

/-- Fields the entry does not use are zero (R43 rule 4). -/
def zeros {α : Type} (c : Bool) (k : Dec α) : Dec α := if c then k else .error .unused
/-- A field holds no reserved value (R43 rule 5). -/
def allowed {α : Type} (c : Bool) (k : Dec α) : Dec α := if c then k else .error .reserved
/-- A selector's value, reserved where it has none (R58). -/
def sel {α β : Type} (o : Option β) (k : β → Dec α) : Dec α :=
  match o with
  | some b => k b
  | none => .error .reserved

@[simp] theorem zeros_true {α : Type} (k : Dec α) : zeros true k = k := rfl
@[simp] theorem allowed_true {α : Type} (k : Dec α) : allowed true k = k := rfl
@[simp] theorem sel_some {α β : Type} (b : β) (k : β → Dec α) : sel (some b) k = k b := rfl

namespace Enc

/-- An instruction's words without the primary opcode: L, bits [22:0] of the first word, the extension word. -/
structure Body where
  l : Bool
  w0 : Nat
  w1 : Nat
  deriving DecidableEq, Repr

/-! ## First-word layouts (R40) -/

structure WV where
  ts : Fin 4
  d : VReg
  a : VReg
  b : VReg
  deriving DecidableEq, Repr

structure WS where
  sub : Fin 8
  sd : SReg
  sa : SReg
  deriving DecidableEq, Repr

structure WT where
  sub : Fin 8
  td : TReg
  ta : TReg
  sa : SReg
  deriving DecidableEq, Repr

structure WE where
  sub : Fin 8
  sa : SReg
  sb : SReg
  deriving DecidableEq, Repr

structure WC where
  sub : Fin 8
  g : Guard
  imm : BitVec 16
  deriving DecidableEq, Repr

/-! ## Extension-word layouts (R41) -/

structure XR where
  g : Guard
  rnd : Fin 8
  sat : Bool
  bs : Bool
  md : Fin 16
  c : VReg
  ss : SReg
  deriving DecidableEq, Repr

structure XI where
  g : Guard
  rnd : Fin 8
  sat : Bool
  md : Fin 64
  imm : BitVec 16
  deriving DecidableEq, Repr

structure XM where
  g : Guard
  scope : Fin 8
  order : Fin 4
  dc : Fin 8
  off : BitVec 8
  ss : SReg
  deriving DecidableEq, Repr

structure XE where
  scope : Fin 8
  order : Fin 4
  dc : Fin 8
  sc : SReg
  va : VReg
  g : Guard
  low : Bool
  deriving DecidableEq, Repr

/-- Bits [lo + width − 1:lo] of `n`, where `m` is 2 to the width. -/
def fld (n lo : Nat) (m : Nat) [NeZero m] : Fin m := Fin.ofNat m (n / 2 ^ lo)
def bit (n lo : Nat) : Bool := n / 2 ^ lo % 2 == 1
def bits (n lo w : Nat) : BitVec w := BitVec.ofNat w (n / 2 ^ lo)
def guardAt (n gn gc : Nat) : Guard := ⟨bit n gn, fld n gc 8⟩

def WV.of (n : Nat) : WV := ⟨fld n 21 4, fld n 14 128, fld n 7 128, fld n 0 128⟩
def WS.of (n : Nat) : WS := ⟨fld n 20 8, fld n 10 1024, fld n 0 1024⟩
def WT.of (n : Nat) : WT := ⟨fld n 20 8, fld n 15 32, fld n 10 32, fld n 0 1024⟩
def WE.of (n : Nat) : WE := ⟨fld n 20 8, fld n 10 1024, fld n 0 1024⟩
def WC.of (n : Nat) : WC := ⟨fld n 20 8, guardAt n 19 16, bits n 0 16⟩
def XR.of (n : Nat) : XR := ⟨guardAt n 29 26, fld n 23 8, bit n 22, bit n 21, fld n 17 16, fld n 10 128, fld n 0 1024⟩
def XI.of (n : Nat) : XI := ⟨guardAt n 29 26, fld n 23 8, bit n 22, fld n 16 64, bits n 0 16⟩
def XM.of (n : Nat) : XM := ⟨guardAt n 29 26, fld n 23 8, fld n 21 4, fld n 18 8, bits n 10 8, fld n 0 1024⟩
def XE.of (n : Nat) : XE :=
  ⟨fld n 27 8, fld n 25 4, fld n 22 8, fld n 12 1024, fld n 5 128, guardAt n 4 1, bit n 0⟩

def WV.to (x : WV) : Nat := x.ts.val * 2 ^ 21 + x.d.val * 2 ^ 14 + x.a.val * 2 ^ 7 + x.b.val
def WS.to (x : WS) : Nat := x.sub.val * 2 ^ 20 + x.sd.val * 2 ^ 10 + x.sa.val
def WT.to (x : WT) : Nat := x.sub.val * 2 ^ 20 + x.td.val * 2 ^ 15 + x.ta.val * 2 ^ 10 + x.sa.val
def WE.to (x : WE) : Nat := x.sub.val * 2 ^ 20 + x.sa.val * 2 ^ 10 + x.sb.val
def WC.to (x : WC) : Nat := x.sub.val * 2 ^ 20 + x.g.neg.toNat * 2 ^ 19 + x.g.c.val * 2 ^ 16 + x.imm.toNat
/-- The extension layouts carry X in bits [31:30]: 0, 1, 2, 3. -/
def XR.to (x : XR) : Nat :=
  x.g.neg.toNat * 2 ^ 29 + x.g.c.val * 2 ^ 26 + x.rnd.val * 2 ^ 23 + x.sat.toNat * 2 ^ 22 + x.bs.toNat * 2 ^ 21
    + x.md.val * 2 ^ 17 + x.c.val * 2 ^ 10 + x.ss.val
def XI.to (x : XI) : Nat :=
  2 ^ 30 + x.g.neg.toNat * 2 ^ 29 + x.g.c.val * 2 ^ 26 + x.rnd.val * 2 ^ 23 + x.sat.toNat * 2 ^ 22
    + x.md.val * 2 ^ 16 + x.imm.toNat
def XM.to (x : XM) : Nat :=
  2 * 2 ^ 30 + x.g.neg.toNat * 2 ^ 29 + x.g.c.val * 2 ^ 26 + x.scope.val * 2 ^ 23 + x.order.val * 2 ^ 21
    + x.dc.val * 2 ^ 18 + x.off.toNat * 2 ^ 10 + x.ss.val
def XE.to (x : XE) : Nat :=
  3 * 2 ^ 30 + x.scope.val * 2 ^ 27 + x.order.val * 2 ^ 25 + x.dc.val * 2 ^ 22 + x.sc.val * 2 ^ 12 + x.va.val * 2 ^ 5
    + x.g.neg.toNat * 2 ^ 4 + x.g.c.val * 2 + x.low.toNat

/-! ## Selector codes -/

def wdOfSub (n : Fin 8) : Option Wd := if n = 0 then some .w32 else if n = 4 then some .w64 else none
def wdSub : Wd → Fin 8
  | .w32 => 0
  | .w64 => 4
def ityOfSub (n : Fin 8) : Option ITy :=
  if n = 0 then some .i32 else if n = 1 then some .n32 else if n = 4 then some .i64 else if n = 5 then some .n64 else none
def itySub : ITy → Fin 8
  | .i32 => 0
  | .n32 => 1
  | .i64 => 4
  | .n64 => 5
/-- Format SI of a scheme-W opcode: SUB gives the width and MOD[0] the type (R229). -/
def ityOfW (n : Fin 8) (md : Fin 64) : Option ITy :=
  if n = 0 then (if md = 1 then some .i32 else if md = 0 then some .n32 else none)
  else if n = 4 then (if md = 1 then some .i64 else if md = 0 then some .n64 else none)
  else none
def ityWSub (t : ITy) : Fin 8 := if Forms.ITy.is64 t then 4 else 0
def ityWMod (t : ITy) : Fin 64 := if Forms.ITy.signed t then 1 else 0
def cmpOfSub (n : Fin 8) : Option Cmp :=
  if n = 0 then some .eq else if n = 1 then some .ne else if n = 2 then some .lt
  else if n = 3 then some .le else if n = 4 then some .gt else if n = 5 then some .ge else none
def cmpSub : Cmp → Fin 8
  | .eq => 0
  | .ne => 1
  | .lt => 2
  | .le => 3
  | .gt => 4
  | .ge => 5
def moviOfSub (n : Fin 8) : Option MoviTy :=
  if n = 0 then some .i32 else if n = 1 then some .n32 else if n = 2 then some .hi else none
def moviSub : MoviTy → Fin 8
  | .i32 => 0
  | .n32 => 1
  | .hi => 2
def moviOfTs (n : Fin 4) : Option MoviTy :=
  if n = 0 then some .i32 else if n = 1 then some .n32 else if n = 2 then some .hi else none
def moviTs : MoviTy → Fin 4
  | .i32 => 0
  | .n32 => 1
  | .hi => 2
/-- Group TB (R59). -/
def wdOfTs (n : Fin 4) : Option Wd := if n = 0 then some .w32 else if n = 1 then some .w64 else none
def wdTs : Wd → Fin 4
  | .w32 => 0
  | .w64 => 1
/-- Group TI. -/
def ityOfTs (n : Fin 4) : Option ITy :=
  if n = 0 then some .i32 else if n = 1 then some .n32 else if n = 2 then some .i64 else some .n64
def ityTs : ITy → Fin 4
  | .i32 => 0
  | .n32 => 1
  | .i64 => 2
  | .n64 => 3
/-- Group TF. -/
def ftyOfTs (n : Fin 4) : Option FTy :=
  if n = 0 then some .f32 else if n = 1 then some .f16 else if n = 2 then some .bf16 else some .f64
def ftyTs : FTy → Fin 4
  | .f32 => 0
  | .f16 => 1
  | .bf16 => 2
  | .f64 => 3
/-- Group TG. -/
def gtyOfTs (n : Fin 4) : Option GTy :=
  if n = 0 then some .f32 else if n = 1 then some .f16 else if n = 2 then some .bf16 else none
def gtyTs : GTy → Fin 4
  | .f32 => 0
  | .f16 => 1
  | .bf16 => 2
/-- RND (R44). -/
def rndOf (n : Fin 8) : Option Rnd :=
  if n = 0 then some .rn else if n = 1 then some .rz else if n = 2 then some .rp
  else if n = 3 then some .rm else if n = 4 then some .sr else none
def rndCode : Rnd → Fin 8
  | .rn => 0
  | .rz => 1
  | .rp => 2
  | .rm => 3
  | .sr => 4
/-- The type codes of R60. -/
def tyOf (n : Fin 16) : TyCode :=
  if n = 0 then .i8 else if n = 1 then .i16 else if n = 2 then .i32 else if n = 3 then .i64
  else if n = 4 then .n8 else if n = 5 then .n16 else if n = 6 then .n32 else if n = 7 then .n64
  else if n = 8 then .f64 else if n = 9 then .f32 else if n = 10 then .f16 else if n = 11 then .bf16
  else if n = 12 then .e4m3 else if n = 13 then .e5m2 else if n = 14 then .e2m1 else .e8m0
def tyCode : TyCode → Fin 16
  | .i8 => 0
  | .i16 => 1
  | .i32 => 2
  | .i64 => 3
  | .n8 => 4
  | .n16 => 5
  | .n32 => 6
  | .n64 => 7
  | .f64 => 8
  | .f32 => 9
  | .f16 => 10
  | .bf16 => 11
  | .e4m3 => 12
  | .e5m2 => 13
  | .e2m1 => 14
  | .e8m0 => 15
/-- Source code in C[3:0], C[6:4] zero (R60). -/
def tyOfC (c : VReg) : Option TyCode := if h : c.val < 16 then some (tyOf ⟨c.val, h⟩) else none
def tyC (t : TyCode) : VReg := ⟨(tyCode t).val, by have := (tyCode t).isLt; omega⟩
def fcmpOf (n : Fin 16) : Option FCmp :=
  if n = 0 then some .eq else if n = 1 then some .ne else if n = 2 then some .lt else if n = 3 then some .le
  else if n = 4 then some .gt else if n = 5 then some .ge else if n = 6 then some .uo else if n = 7 then some .or
  else if n = 8 then some .equ else if n = 9 then some .neu else if n = 10 then some .ltu
  else if n = 11 then some .leu else if n = 12 then some .gtu else if n = 13 then some .geu else none
def fcmpCode : FCmp → Fin 16
  | .eq => 0
  | .ne => 1
  | .lt => 2
  | .le => 3
  | .gt => 4
  | .ge => 5
  | .uo => 6
  | .or => 7
  | .equ => 8
  | .neu => 9
  | .ltu => 10
  | .leu => 11
  | .gtu => 12
  | .geu => 13
/-- MOD as a predicate (R62). -/
def predOf (n : Fin 16) : Pred := ⟨decide (8 ≤ n.val), ⟨n.val % 8, by omega⟩⟩
def predCode (p : Pred) : Fin 16 := ⟨(if p.neg then 8 else 0) + p.c.val, by have := p.c.isLt; split <;> omega⟩
/-- MOD[2:0] naming c0 to c6, MOD[3] zero. -/
def cbitOf (n : Fin 16) : Option CDst := if h : n.val < 7 then some ⟨n.val, h⟩ else none
def cbitCode (c : CDst) : Fin 16 := ⟨c.val, by have := c.isLt; omega⟩
/-- D naming a condition bit (R62). -/
def cdstOf (d : VReg) : Option CDst := if h : d.val < 7 then some ⟨d.val, h⟩ else none
def cdstCode (c : CDst) : VReg := ⟨c.val, by have := c.isLt; omega⟩
/-- MOD[2:0] as an integer comparison, the other bits zero. -/
def cmpOf16 (n : Fin 16) : Option Cmp := if h : n.val < 8 then cmpOfSub ⟨n.val, h⟩ else none
def cmpCode16 (c : Cmp) : Fin 16 := ⟨(cmpSub c).val, by have := (cmpSub c).isLt; omega⟩
def cmpOf64 (n : Fin 64) : Option Cmp := if h : n.val < 8 then cmpOfSub ⟨n.val, h⟩ else none
def cmpCode64 (c : Cmp) : Fin 64 := ⟨(cmpSub c).val, by have := (cmpSub c).isLt; omega⟩
/-- MOD of XPFX: operation in [1:0], .ex in [2] (R272). -/
def pfxOf (n : Fin 16) : Option (PfxOp × Bool) :=
  if n = 0 then some (.add, false) else if n = 1 then some (.min, false) else if n = 2 then some (.max, false)
  else if n = 4 then some (.add, true) else if n = 5 then some (.min, true) else if n = 6 then some (.max, true) else none
def pfxCode (p : PfxOp × Bool) : Fin 16 :=
  match p with
  | (.add, false) => 0
  | (.min, false) => 1
  | (.max, false) => 2
  | (.add, true) => 4
  | (.min, true) => 5
  | (.max, true) => 6
/-- SCOPE (R44). -/
def scopeOf (n : Fin 8) : Option Scope :=
  if n = 0 then some .band else if n = 1 then some .team else if n = 2 then some .pair
  else if n = 3 then some .dev else if n = 4 then some .fab else none
def scopeCode : Scope → Fin 8
  | .band => 0
  | .team => 1
  | .pair => 2
  | .dev => 3
  | .fab => 4
/-- ORDER (R44). -/
def orderOf (n : Fin 4) : Order :=
  if n = 0 then .rlx else if n = 1 then .acq else if n = 2 then .rel else .ar
def orderCode : Order → Fin 4
  | .rlx => 0
  | .acq => 1
  | .rel => 2
  | .ar => 3
/-- DC: 0 to 5, 7 uncounted, 6 reserved (R44). -/
def dcOf (n : Fin 8) : Option Dc :=
  if h : n.val < 6 then some (some ⟨n.val, h⟩) else if n = 7 then some none else none
def dcCode : Dc → Fin 8
  | some k => ⟨k.val, by have := k.isLt; omega⟩
  | none => 7
def dcOfCounted (n : Fin 8) : Option (Fin 6) := if h : n.val < 6 then some ⟨n.val, h⟩ else none
def dcCodeCounted (k : Fin 6) : Fin 8 := ⟨k.val, by have := k.isLt; omega⟩
/-- Types of the memory opcodes (R68). -/
def ntyOf (n : Fin 4) : Option NTy :=
  if n = 0 then some .n8 else if n = 1 then some .i8 else if n = 2 then some .n16 else some .i16
def ntyCode : NTy → Fin 4
  | .n8 => 0
  | .i8 => 1
  | .n16 => 2
  | .i16 => 3
def wtyOf (n : Fin 4) : Option WTy :=
  if n = 0 then some .b32 else if n = 1 then some .b64 else if n = 2 then some .b128 else none
def wtyCode : WTy → Fin 4
  | .b32 => 0
  | .b64 => 1
  | .b128 => 2
def styOf (n : Fin 4) : Option STy :=
  if n = 0 then some .b8 else if n = 1 then some .b16 else if n = 2 then some .b32 else some .b64
def styCode : STy → Fin 4
  | .b8 => 0
  | .b16 => 1
  | .b32 => 2
  | .b64 => 3
def unitOf (n : Fin 4) : Option Unit := if n = 0 then some () else none
def unitCode (_ : Unit) : Fin 4 := 0
def lvlOf (n : Fin 4) : Option CLevel := if n = 0 then some .l1 else if n = 1 then some .l2 else none
def lvlCode : CLevel → Fin 4
  | .l1 => 0
  | .l2 => 1
/-- The atomic operation field in the OFF8 position: AOP [7:4], AW [3:2], AS [1] (R69). -/
def aopOf (n : Fin 16) : Option AOp :=
  if n = 0 then some .add else if n = 1 then some .min else if n = 2 then some .max else if n = 3 then some .and
  else if n = 4 then some .or else if n = 5 then some .xor else if n = 6 then some .exch else if n = 7 then some .cas
  else if n = 8 then some .fadd else if n = 9 then some .fmin else if n = 10 then some .fmax else none
def aopCode : AOp → Fin 16
  | .add => 0
  | .min => 1
  | .max => 2
  | .and => 3
  | .or => 4
  | .xor => 5
  | .exch => 6
  | .cas => 7
  | .fadd => 8
  | .fmin => 9
  | .fmax => 10
def awOf (n : Fin 4) : Option AW :=
  if n = 0 then some .b32 else if n = 1 then some .b64 else if n = 2 then some .b128 else none
def awCode : AW → Fin 4
  | .b32 => 0
  | .b64 => 1
  | .b128 => 2
structure AtomField where
  op : AOp
  aw : AW
  sgn : Bool
  deriving DecidableEq, Repr
def atomField (f : BitVec 8) : Dec AtomField :=
  let n := f.toNat
  zeros (!bit n 0) <| sel (aopOf (fld n 4 16)) fun op => sel (awOf (fld n 2 4)) fun aw => .ok ⟨op, aw, bit n 1⟩
def atomBits (x : AtomField) : BitVec 8 :=
  BitVec.ofNat 8 ((aopCode x.op).val * 16 + (awCode x.aw).val * 4 + x.sgn.toNat * 2)
/-- The window field of GCVT and GTEST in the OFF8 position: code [7:5], direction [4] (R70, R79). -/
def winOf (n : Fin 8) : Option Window :=
  if n = 0 then some .prv else if n = 1 then some .loc else if n = 2 then some .par
  else if n = 3 then some .glb else if n = 4 then some .mem else none
def winCode : Window → Fin 8
  | .prv => 0
  | .loc => 1
  | .par => 2
  | .glb => 3
  | .mem => 4
def winField (f : BitVec 8) : Dec (Window × Bool) :=
  let n := f.toNat
  zeros (fld n 0 16 == 0) <| sel (winOf (fld n 5 8)) fun w => .ok (w, bit n 4)
def winBits (w : Window) (toWin : Bool) : BitVec 8 := BitVec.ofNat 8 ((winCode w).val * 32 + toWin.toNat * 16)
def barFormOf (n : Fin 8) : Option BarForm :=
  if n = 0 then some .arrive else if n = 1 then some .wait else if n = 2 then some .sync else none
def barFormCode : BarForm → Fin 8
  | .arrive => 0
  | .wait => 1
  | .sync => 2
def flagOf (n : Fin 8) : Option Bool := if n = 0 then some false else if n = 1 then some true else none
def flagCode (b : Bool) : Fin 8 := if b then 1 else 0
/-- Source b of format VR: BS selects SS, and B is zero where BS = 1 (R44). DESIGN CHOICE (log 56): the spec asks no zero of
SS where BS = 0; the model takes SS as a field the form does not use, so that a nonzero SS makes the word reserved. -/
def srcOf (b : VReg) (bs : Bool) (ss : SReg) (k : VSrc → Dec α) : Dec α :=
  if bs then zeros (b == 0) (k (.sca ss)) else zeros (ss == 0) (k (.vec b))
def srcB : VSrc → VReg
  | .vec r => r
  | .sca _ => 0
def srcBs : VSrc → Bool
  | .vec _ => false
  | .sca _ => true
def srcSs : VSrc → SReg
  | .vec _ => 0
  | .sca r => r
/-- SUB[0] and the completion write's SCOPE and ORDER (R72): without .cw both are zero, with .cw ORDER is .rel. -/
def cwOf (sub : Fin 8) (scope : Fin 8) (order : Fin 4) (k : Option Scope → Dec α) : Dec α :=
  if sub = 0 then zeros (scope == 0 && order == 0) (k none)
  else if sub = 1 then allowed (order == 2) (sel (scopeOf scope) fun s => k (some s))
  else .error .reserved
def cwSub : Option Scope → Fin 8
  | none => 0
  | some _ => 1
def cwScope : Option Scope → Fin 8
  | none => 0
  | some s => scopeCode s
def cwOrder : Option Scope → Fin 4
  | none => 0
  | some _ => 2
def fenceOf (sub : Fin 8) (order : Fin 4) : Option FenceKind :=
  if sub = 0 then (if order = 1 then some .acq else if order = 2 then some .rel else if order = 3 then some .ar else none)
  else if sub = 1 then (if order = 0 then some .sc else none)
  else none
def fenceSub : FenceKind → Fin 8
  | .sc => 1
  | _ => 0
def fenceOrder : FenceKind → Fin 4
  | .acq => 1
  | .rel => 2
  | .ar => 3
  | .sc => 0

/-! ## Shapes: how each group of opcodes uses its layouts, decoder beside its encoder -/

variable {τ : Type}

def decS (ty : Fin 8 → Option τ) (b : Body) : Dec (OpS τ) :=
  let w := WS.of b.w0
  sel (ty w.sub) fun t => .ok ⟨t, w.sd, w.sa⟩
def encS (ty : τ → Fin 8) (o : OpS τ) : Body := ⟨false, WS.to ⟨ty o.ty, o.d, o.a⟩, 0⟩

def decSR (ty : Fin 8 → Option τ) (b : Body) : Dec (OpSR τ) :=
  let w := WS.of b.w0
  let x := XR.of b.w1
  sel (ty w.sub) fun t =>
  zeros (x.rnd == 0 && !x.sat && !x.bs && x.md == 0 && x.c == 0) <| .ok ⟨x.g, t, w.sd, w.sa, x.ss⟩
def encSR (ty : τ → Fin 8) (o : OpSR τ) : Body :=
  ⟨true, WS.to ⟨ty o.ty, o.d, o.a⟩, XR.to ⟨o.g, 0, false, false, 0, 0, o.s⟩⟩

/-- Format SI with MOD zero. -/
def decSI (ty : Fin 8 → Option τ) (b : Body) : Dec (OpSI τ) :=
  let w := WS.of b.w0
  let x := XI.of b.w1
  sel (ty w.sub) fun t => zeros (x.rnd == 0 && !x.sat && x.md == 0) <| .ok ⟨x.g, t, w.sd, w.sa, x.imm⟩
def encSI (ty : τ → Fin 8) (o : OpSI τ) : Body :=
  ⟨true, WS.to ⟨ty o.ty, o.d, o.a⟩, XI.to ⟨o.g, 0, false, 0, o.imm⟩⟩

/-- Format SI of a scheme-W opcode, MOD[0] the type (R229). -/
def decSIW (b : Body) : Dec (OpSI ITy) :=
  let w := WS.of b.w0
  let x := XI.of b.w1
  sel (ityOfW w.sub x.md) fun t => zeros (x.rnd == 0 && !x.sat) <| .ok ⟨x.g, t, w.sd, w.sa, x.imm⟩
def encSIW (o : OpSI ITy) : Body :=
  ⟨true, WS.to ⟨ityWSub o.ty, o.d, o.a⟩, XI.to ⟨o.g, 0, false, ityWMod o.ty, o.imm⟩⟩

def decSMovi (b : Body) : Dec OpSMovi :=
  let w := WS.of b.w0
  let x := XI.of b.w1
  sel (moviOfSub w.sub) fun t =>
  zeros (x.rnd == 0 && !x.sat && x.md == 0 && w.sa == 0) <| .ok ⟨x.g, t, w.sd, x.imm⟩
def encSMovi (o : OpSMovi) : Body :=
  ⟨true, WS.to ⟨moviSub o.ty, o.d, 0⟩, XI.to ⟨o.g, 0, false, 0, o.imm⟩⟩

def decSRdLane (b : Body) : Dec OpSRdLane :=
  let w := WS.of b.w0
  let x := XR.of b.w1
  sel (wdOfSub w.sub) fun t =>
  zeros (x.rnd == 0 && !x.sat && !x.bs && x.md == 0 && x.ss == 0) <| .ok ⟨x.g, t, w.sd, w.sa, x.c⟩
def encSRdLane (o : OpSRdLane) : Body :=
  ⟨true, WS.to ⟨wdSub o.ty, o.d, o.a⟩, XR.to ⟨o.g, 0, false, false, 0, o.c, 0⟩⟩

def decSMovt (b : Body) : Dec OpSMovt :=
  let w := WS.of b.w0
  allowed (w.sub == 0) <| zeros (w.sd.val / 32 == 0) <| .ok ⟨Fin.ofNat 32 w.sd.val, w.sa⟩
def encSMovt (o : OpSMovt) : Body := ⟨false, WS.to ⟨0, ⟨o.t.val, by have := o.t.isLt; omega⟩, o.a⟩, 0⟩

def decSrd (b : Body) : Dec OpSpecial :=
  let w := WS.of b.w0
  allowed (w.sub == 0) <| .ok ⟨w.sa, w.sd⟩
def encSrd (o : OpSpecial) : Body := ⟨false, WS.to ⟨0, o.r, o.num⟩, 0⟩
def decSwr (b : Body) : Dec OpSpecial :=
  let w := WS.of b.w0
  allowed (w.sub == 0) <| .ok ⟨w.sd, w.sa⟩
def encSwr (o : OpSpecial) : Body := ⟨false, WS.to ⟨0, o.num, o.r⟩, 0⟩

def decV (ty : Fin 4 → Option τ) (b : Body) : Dec (OpV τ) :=
  let w := WV.of b.w0
  sel (ty w.ts) fun t => .ok ⟨t, w.d, w.a, w.b⟩
def encV (ty : τ → Fin 4) (o : OpV τ) : Body := ⟨false, WV.to ⟨ty o.ty, o.d, o.a, o.b⟩, 0⟩

def decV1 (ty : Fin 4 → Option τ) (b : Body) : Dec (OpV1 τ) :=
  let w := WV.of b.w0
  sel (ty w.ts) fun t => zeros (w.b == 0) <| .ok ⟨t, w.d, w.a⟩
def encV1 (ty : τ → Fin 4) (o : OpV1 τ) : Body := ⟨false, WV.to ⟨ty o.ty, o.d, o.a, 0⟩, 0⟩

def decVR (ty : Fin 4 → Option τ) (b : Body) : Dec (OpVR τ) :=
  let w := WV.of b.w0
  let x := XR.of b.w1
  sel (ty w.ts) fun t => zeros (x.rnd == 0 && !x.sat && x.md == 0 && x.c == 0) <|
  srcOf w.b x.bs x.ss fun s => .ok ⟨x.g, t, w.d, w.a, s⟩
def encVR (ty : τ → Fin 4) (o : OpVR τ) : Body :=
  ⟨true, WV.to ⟨ty o.ty, o.d, o.a, srcB o.b⟩, XR.to ⟨o.g, 0, false, srcBs o.b, 0, 0, srcSs o.b⟩⟩

def decVRs (ty : Fin 4 → Option τ) (b : Body) : Dec (OpVRs τ) :=
  let w := WV.of b.w0
  let x := XR.of b.w1
  sel (ty w.ts) fun t => zeros (x.rnd == 0 && x.md == 0 && x.c == 0) <|
  srcOf w.b x.bs x.ss fun s => .ok ⟨x.g, t, x.sat, w.d, w.a, s⟩
def encVRs (ty : τ → Fin 4) (o : OpVRs τ) : Body :=
  ⟨true, WV.to ⟨ty o.ty, o.d, o.a, srcB o.b⟩, XR.to ⟨o.g, 0, o.sat, srcBs o.b, 0, 0, srcSs o.b⟩⟩

def decVR1 (ty : Fin 4 → Option τ) (b : Body) : Dec (OpVR1 τ) :=
  let w := WV.of b.w0
  let x := XR.of b.w1
  sel (ty w.ts) fun t =>
  zeros (x.rnd == 0 && !x.sat && !x.bs && x.md == 0 && x.c == 0 && x.ss == 0 && w.b == 0) <| .ok ⟨x.g, t, w.d, w.a⟩
def encVR1 (ty : τ → Fin 4) (o : OpVR1 τ) : Body :=
  ⟨true, WV.to ⟨ty o.ty, o.d, o.a, 0⟩, XR.to ⟨o.g, 0, false, false, 0, 0, 0⟩⟩

def decVR1s (ty : Fin 4 → Option τ) (b : Body) : Dec (OpVR1s τ) :=
  let w := WV.of b.w0
  let x := XR.of b.w1
  sel (ty w.ts) fun t =>
  zeros (x.rnd == 0 && !x.bs && x.md == 0 && x.c == 0 && x.ss == 0 && w.b == 0) <| .ok ⟨x.g, t, x.sat, w.d, w.a⟩
def encVR1s (ty : τ → Fin 4) (o : OpVR1s τ) : Body :=
  ⟨true, WV.to ⟨ty o.ty, o.d, o.a, 0⟩, XR.to ⟨o.g, 0, o.sat, false, 0, 0, 0⟩⟩

def decVRc (ty : Fin 4 → Option τ) (b : Body) : Dec (OpVRc τ) :=
  let w := WV.of b.w0
  let x := XR.of b.w1
  sel (ty w.ts) fun t => zeros (x.rnd == 0 && !x.sat && x.md == 0) <|
  srcOf w.b x.bs x.ss fun s => .ok ⟨x.g, t, w.d, w.a, s, x.c⟩
def encVRc (ty : τ → Fin 4) (o : OpVRc τ) : Body :=
  ⟨true, WV.to ⟨ty o.ty, o.d, o.a, srcB o.b⟩, XR.to ⟨o.g, 0, false, srcBs o.b, 0, o.c, srcSs o.b⟩⟩

def decVRcs (ty : Fin 4 → Option τ) (b : Body) : Dec (OpVRcs τ) :=
  let w := WV.of b.w0
  let x := XR.of b.w1
  sel (ty w.ts) fun t => zeros (x.rnd == 0 && x.md == 0) <|
  srcOf w.b x.bs x.ss fun s => .ok ⟨x.g, t, x.sat, w.d, w.a, s, x.c⟩
def encVRcs (ty : τ → Fin 4) (o : OpVRcs τ) : Body :=
  ⟨true, WV.to ⟨ty o.ty, o.d, o.a, srcB o.b⟩, XR.to ⟨o.g, 0, o.sat, srcBs o.b, 0, o.c, srcSs o.b⟩⟩

def decVI (ty : Fin 4 → Option τ) (b : Body) : Dec (OpVI τ) :=
  let w := WV.of b.w0
  let x := XI.of b.w1
  sel (ty w.ts) fun t => zeros (x.rnd == 0 && !x.sat && x.md == 0 && w.b == 0) <| .ok ⟨x.g, t, w.d, w.a, x.imm⟩
def encVI (ty : τ → Fin 4) (o : OpVI τ) : Body :=
  ⟨true, WV.to ⟨ty o.ty, o.d, o.a, 0⟩, XI.to ⟨o.g, 0, false, 0, o.imm⟩⟩

def decVIs (ty : Fin 4 → Option τ) (b : Body) : Dec (OpVIs τ) :=
  let w := WV.of b.w0
  let x := XI.of b.w1
  sel (ty w.ts) fun t => zeros (x.rnd == 0 && x.md == 0 && w.b == 0) <| .ok ⟨x.g, t, x.sat, w.d, w.a, x.imm⟩
def encVIs (ty : τ → Fin 4) (o : OpVIs τ) : Body :=
  ⟨true, WV.to ⟨ty o.ty, o.d, o.a, 0⟩, XI.to ⟨o.g, 0, o.sat, 0, o.imm⟩⟩

def decMovi (b : Body) : Dec OpMovi :=
  let w := WV.of b.w0
  let x := XI.of b.w1
  sel (moviOfTs w.ts) fun t =>
  zeros (x.rnd == 0 && !x.sat && x.md == 0 && w.a == 0 && w.b == 0) <| .ok ⟨x.g, t, w.d, x.imm⟩
def encMovi (o : OpMovi) : Body :=
  ⟨true, WV.to ⟨moviTs o.ty, o.d, 0, 0⟩, XI.to ⟨o.g, 0, false, 0, o.imm⟩⟩

def decVMovs (b : Body) : Dec OpVMovs :=
  let w := WV.of b.w0
  let x := XR.of b.w1
  sel (wdOfTs w.ts) fun t =>
  zeros (x.rnd == 0 && !x.sat && !x.bs && x.md == 0 && x.c == 0 && w.a == 0 && w.b == 0) <| .ok ⟨x.g, t, w.d, x.ss⟩
def encVMovs (o : OpVMovs) : Body :=
  ⟨true, WV.to ⟨wdTs o.ty, o.d, 0, 0⟩, XR.to ⟨o.g, 0, false, false, 0, 0, o.s⟩⟩

def decIAddc (b : Body) : Dec OpIAddc :=
  let w := WV.of b.w0
  let x := XR.of b.w1
  sel (ityOfTs w.ts) fun t => sel (cbitOf x.md) fun k => zeros (x.rnd == 0 && !x.sat && x.c == 0) <|
  srcOf w.b x.bs x.ss fun s => .ok ⟨x.g, t, w.d, w.a, s, k⟩
def encIAddc (o : OpIAddc) : Body :=
  ⟨true, WV.to ⟨ityTs o.ty, o.d, o.a, srcB o.b⟩, XR.to ⟨o.g, 0, false, srcBs o.b, cbitCode o.k, 0, srcSs o.b⟩⟩

def decICmpR (b : Body) : Dec OpICmpR :=
  let w := WV.of b.w0
  let x := XR.of b.w1
  sel (ityOfTs w.ts) fun t => sel (cdstOf w.d) fun d => sel (cmpOf16 x.md) fun c =>
  zeros (x.rnd == 0 && !x.sat && x.c == 0) <| srcOf w.b x.bs x.ss fun s => .ok ⟨x.g, t, c, d, w.a, s⟩
def encICmpR (o : OpICmpR) : Body :=
  ⟨true, WV.to ⟨ityTs o.ty, cdstCode o.d, o.a, srcB o.b⟩,
    XR.to ⟨o.g, 0, false, srcBs o.b, cmpCode16 o.cmp, 0, srcSs o.b⟩⟩

def decICmpI (b : Body) : Dec OpICmpI :=
  let w := WV.of b.w0
  let x := XI.of b.w1
  sel (ityOfTs w.ts) fun t => sel (cdstOf w.d) fun d => sel (cmpOf64 x.md) fun c =>
  zeros (x.rnd == 0 && !x.sat && w.b == 0) <| .ok ⟨x.g, t, c, d, w.a, x.imm⟩
def encICmpI (o : OpICmpI) : Body :=
  ⟨true, WV.to ⟨ityTs o.ty, cdstCode o.d, o.a, 0⟩, XI.to ⟨o.g, 0, false, cmpCode64 o.cmp, o.imm⟩⟩

def decISel (b : Body) : Dec OpISel :=
  let w := WV.of b.w0
  let x := XR.of b.w1
  sel (wdOfTs w.ts) fun t => zeros (x.rnd == 0 && !x.sat && x.c == 0) <|
  srcOf w.b x.bs x.ss fun s => .ok ⟨x.g, t, w.d, w.a, s, predOf x.md⟩
def encISel (o : OpISel) : Body :=
  ⟨true, WV.to ⟨wdTs o.ty, o.d, o.a, srcB o.b⟩, XR.to ⟨o.g, 0, false, srcBs o.b, predCode o.p, 0, srcSs o.b⟩⟩

/-- LMUX lends the RND and SAT positions, extension bits [25:22], to table F (R65). -/
def decLmux (b : Body) : Dec OpLmux :=
  let w := WV.of b.w0
  let x := XR.of b.w1
  sel (wdOfTs w.ts) fun t => srcOf w.b x.bs x.ss fun s =>
  .ok ⟨x.g, t, w.d, w.a, s, x.c, BitVec.ofNat 4 (x.rnd.val * 2 + x.sat.toNat), BitVec.ofNat 4 x.md.val⟩
def encLmux (o : OpLmux) : Body :=
  ⟨true, WV.to ⟨wdTs o.ty, o.d, o.a, srcB o.b⟩,
    XR.to ⟨o.g, Fin.ofNat 8 (o.f.toNat / 2), o.f.toNat % 2 == 1, srcBs o.b, Fin.ofNat 16 o.h.toNat, o.c, srcSs o.b⟩⟩

/-- IMM16 of BFX and BFI: position [5:0], length [13:8] (R65, R247). -/
def posLen (imm : BitVec 16) (k : Fin 64 → Fin 64 → Dec α) : Dec α :=
  let n := imm.toNat
  zeros (n / 64 % 4 == 0 && n / 16384 == 0) <| k (fld n 0 64) (fld n 8 64)
def posLenBits (pos len : Fin 64) : BitVec 16 := BitVec.ofNat 16 (len.val * 256 + pos.val)

def decBfx (b : Body) : Dec OpBfx :=
  let w := WV.of b.w0
  let x := XI.of b.w1
  sel (ityOfTs w.ts) fun t => zeros (x.rnd == 0 && !x.sat && x.md == 0 && w.b == 0) <|
  posLen x.imm fun p n => .ok ⟨x.g, t, w.d, w.a, p, n⟩
def encBfx (o : OpBfx) : Body :=
  ⟨true, WV.to ⟨ityTs o.ty, o.d, o.a, 0⟩, XI.to ⟨o.g, 0, false, 0, posLenBits o.pos o.len⟩⟩

def decBfi (b : Body) : Dec OpBfi :=
  let w := WV.of b.w0
  let x := XI.of b.w1
  sel (wdOfTs w.ts) fun t => zeros (x.rnd == 0 && !x.sat && x.md == 0) <|
  posLen x.imm fun p n => .ok ⟨x.g, t, w.d, w.a, w.b, p, n⟩
def encBfi (o : OpBfi) : Body :=
  ⟨true, WV.to ⟨wdTs o.ty, o.d, o.a, o.b⟩, XI.to ⟨o.g, 0, false, 0, posLenBits o.pos o.len⟩⟩

def decBytep (b : Body) : Dec OpBytep :=
  let w := WV.of b.w0
  let x := XI.of b.w1
  allowed (w.ts == 0) <| zeros (x.rnd == 0 && !x.sat && x.md == 0) <| .ok ⟨x.g, w.d, w.a, w.b, x.imm⟩
def encBytep (o : OpBytep) : Body := ⟨true, WV.to ⟨0, o.d, o.a, o.b⟩, XI.to ⟨o.g, 0, false, 0, o.sel⟩⟩

def decFR (b : Body) : Dec OpFR :=
  let w := WV.of b.w0
  let x := XR.of b.w1
  sel (ftyOfTs w.ts) fun t => sel (rndOf x.rnd) fun r => zeros (x.md == 0 && x.c == 0) <|
  srcOf w.b x.bs x.ss fun s => .ok ⟨x.g, t, r, x.sat, w.d, w.a, s⟩
def encFR (o : OpFR) : Body :=
  ⟨true, WV.to ⟨ftyTs o.ty, o.d, o.a, srcB o.b⟩, XR.to ⟨o.g, rndCode o.rnd, o.sat, srcBs o.b, 0, 0, srcSs o.b⟩⟩

def decFma (b : Body) : Dec OpFma :=
  let w := WV.of b.w0
  let x := XR.of b.w1
  sel (ftyOfTs w.ts) fun t => sel (rndOf x.rnd) fun r => zeros (x.md == 0) <|
  srcOf w.b x.bs x.ss fun s => .ok ⟨x.g, t, r, x.sat, w.d, w.a, s, x.c⟩
def encFma (o : OpFma) : Body :=
  ⟨true, WV.to ⟨ftyTs o.ty, o.d, o.a, srcB o.b⟩, XR.to ⟨o.g, rndCode o.rnd, o.sat, srcBs o.b, 0, o.c, srcSs o.b⟩⟩

def decFCmp (b : Body) : Dec OpFCmp :=
  let w := WV.of b.w0
  let x := XR.of b.w1
  sel (ftyOfTs w.ts) fun t => sel (cdstOf w.d) fun d => sel (fcmpOf x.md) fun c =>
  zeros (x.rnd == 0 && !x.sat && x.c == 0) <| srcOf w.b x.bs x.ss fun s => .ok ⟨x.g, t, c, d, w.a, s⟩
def encFCmp (o : OpFCmp) : Body :=
  ⟨true, WV.to ⟨ftyTs o.ty, cdstCode o.d, o.a, srcB o.b⟩,
    XR.to ⟨o.g, 0, false, srcBs o.b, fcmpCode o.cmp, 0, srcSs o.b⟩⟩

def decFSel (b : Body) : Dec OpFSel :=
  let w := WV.of b.w0
  let x := XR.of b.w1
  sel (ftyOfTs w.ts) fun t => sel (cmpOf16 x.md) fun c => zeros (x.rnd == 0 && !x.sat) <|
  srcOf w.b x.bs x.ss fun s => .ok ⟨x.g, t, c, w.d, w.a, s, x.c⟩
def encFSel (o : OpFSel) : Body :=
  ⟨true, WV.to ⟨ftyTs o.ty, o.d, o.a, srcB o.b⟩,
    XR.to ⟨o.g, 0, false, srcBs o.b, cmpCode16 o.cmp, o.c, srcSs o.b⟩⟩

def decFClass (b : Body) : Dec OpFClass :=
  let w := WV.of b.w0
  let x := XI.of b.w1
  sel (ftyOfTs w.ts) fun t => sel (cdstOf w.d) fun d =>
  zeros (x.rnd == 0 && !x.sat && x.md == 0 && w.b == 0 && x.imm.toNat / 1024 == 0) <|
  .ok ⟨x.g, t, d, w.a, BitVec.ofNat 10 x.imm.toNat⟩
def encFClass (o : OpFClass) : Body :=
  ⟨true, WV.to ⟨ftyTs o.ty, cdstCode o.d, o.a, 0⟩, XI.to ⟨o.g, 0, false, 0, BitVec.ofNat 16 o.mask.toNat⟩⟩

def decFRnd (b : Body) : Dec OpFRnd :=
  let w := WV.of b.w0
  let x := XR.of b.w1
  sel (ftyOfTs w.ts) fun t => sel (rndOf x.rnd) fun r =>
  zeros (!x.sat && !x.bs && x.md == 0 && x.c == 0 && x.ss == 0 && w.b == 0) <| .ok ⟨x.g, t, r, w.d, w.a⟩
def encFRnd (o : OpFRnd) : Body :=
  ⟨true, WV.to ⟨ftyTs o.ty, o.d, o.a, 0⟩, XR.to ⟨o.g, rndCode o.rnd, false, false, 0, 0, 0⟩⟩

def decCvt (b : Body) : Dec OpCvt :=
  let w := WV.of b.w0
  let x := XR.of b.w1
  allowed (w.ts == 0) <| sel (rndOf x.rnd) fun r => sel (tyOfC x.c) fun src =>
  zeros (!x.bs && x.ss == 0 && w.b == 0) <| .ok ⟨x.g, r, x.sat, tyOf x.md, src, w.d, w.a⟩
def encCvt (o : OpCvt) : Body :=
  ⟨true, WV.to ⟨0, o.d, o.a, 0⟩, XR.to ⟨o.g, rndCode o.rnd, o.sat, false, tyCode o.dst, tyC o.src, 0⟩⟩

def decCvtsr (b : Body) : Dec OpCvtsr :=
  let w := WV.of b.w0
  let x := XR.of b.w1
  allowed (w.ts == 0 && x.rnd == 0) <| sel (tyOfC x.c) fun src =>
  zeros (!x.bs && x.ss == 0 && w.b == 0) <| .ok ⟨x.g, x.sat, tyOf x.md, src, w.d, w.a⟩
def encCvtsr (o : OpCvtsr) : Body :=
  ⟨true, WV.to ⟨0, o.d, o.a, 0⟩, XR.to ⟨o.g, 0, o.sat, false, tyCode o.dst, tyC o.src, 0⟩⟩

def decPack (b : Body) : Dec OpPack :=
  let w := WV.of b.w0
  let x := XR.of b.w1
  allowed (w.ts == 0) <| sel (rndOf x.rnd) fun r => sel (tyOfC x.c) fun src =>
  srcOf w.b x.bs x.ss fun s => .ok ⟨x.g, r, x.sat, tyOf x.md, src, w.d, w.a, s⟩
def encPack (o : OpPack) : Body :=
  ⟨true, WV.to ⟨0, o.d, o.a, srcB o.b⟩,
    XR.to ⟨o.g, rndCode o.rnd, o.sat, srcBs o.b, tyCode o.dst, tyC o.src, srcSs o.b⟩⟩

def decUnpack (b : Body) : Dec OpUnpack :=
  let w := WV.of b.w0
  let x := XR.of b.w1
  allowed (w.ts == 0) <| sel (tyOfC x.c) fun src =>
  zeros (!x.sat && !x.bs && x.ss == 0 && w.b == 0) <| .ok ⟨x.g, x.rnd, tyOf x.md, src, w.d, w.a⟩
def encUnpack (o : OpUnpack) : Body :=
  ⟨true, WV.to ⟨0, o.d, o.a, 0⟩, XR.to ⟨o.g, o.idx, false, false, tyCode o.dst, tyC o.src, 0⟩⟩

def decX (b : Body) : Dec OpX :=
  let w := WV.of b.w0
  allowed (w.ts == 0) <| zeros (w.b == 0) <| .ok ⟨w.d, w.a⟩
def encX (o : OpX) : Body := ⟨false, WV.to ⟨0, o.d, o.a, 0⟩, 0⟩

def decXR (b : Body) : Dec OpXR :=
  let w := WV.of b.w0
  let x := XR.of b.w1
  allowed (w.ts == 0) <| sel (rndOf x.rnd) fun r =>
  zeros (!x.sat && !x.bs && x.md == 0 && x.c == 0 && x.ss == 0 && w.b == 0) <| .ok ⟨x.g, r, w.d, w.a⟩
def encXR (o : OpXR) : Body := ⟨true, WV.to ⟨0, o.d, o.a, 0⟩, XR.to ⟨o.g, rndCode o.rnd, false, false, 0, 0, 0⟩⟩

def decSrngV (b : Body) : Dec VReg :=
  let w := WV.of b.w0
  allowed (w.ts == 0) <| zeros (w.d == 0 && w.b == 0) <| .ok w.a
def encSrngV (o : VReg) : Body := ⟨false, WV.to ⟨0, 0, o, 0⟩, 0⟩

def decSrngR (b : Body) : Dec OpSrngR :=
  let w := WV.of b.w0
  let x := XR.of b.w1
  allowed (w.ts == 0) <| zeros (x.rnd == 0 && !x.sat && x.md == 0 && x.c == 0 && w.d == 0) <|
  srcOf w.b x.bs x.ss fun s => .ok ⟨x.g, w.a, s⟩
def encSrngR (o : OpSrngR) : Body :=
  ⟨true, WV.to ⟨0, 0, o.a, srcB o.b⟩, XR.to ⟨o.g, 0, false, srcBs o.b, 0, 0, srcSs o.b⟩⟩

def decXPush (b : Body) : Dec OpXPush :=
  let w := WV.of b.w0
  let x := XR.of b.w1
  sel (wdOfTs w.ts) fun t => sel (cbitOf x.md) fun k => zeros (x.rnd == 0 && !x.sat && x.c == 0) <|
  srcOf w.b x.bs x.ss fun s => .ok ⟨x.g, t, w.d, w.a, s, k⟩
def encXPush (o : OpXPush) : Body :=
  ⟨true, WV.to ⟨wdTs o.ty, o.d, o.a, srcB o.b⟩, XR.to ⟨o.g, 0, false, srcBs o.b, cbitCode o.k, 0, srcSs o.b⟩⟩

def decXBcastR (b : Body) : Dec OpXBcastR :=
  let w := WV.of b.w0
  let x := XR.of b.w1
  sel (wdOfTs w.ts) fun t => allowed x.bs <|
  zeros (x.rnd == 0 && !x.sat && x.md == 0 && x.c == 0 && w.b == 0) <| .ok ⟨x.g, t, w.d, w.a, x.ss⟩
def encXBcastR (o : OpXBcastR) : Body :=
  ⟨true, WV.to ⟨wdTs o.ty, o.d, o.a, 0⟩, XR.to ⟨o.g, 0, false, true, 0, 0, o.s⟩⟩

def decXBcastI (b : Body) : Dec OpXBcastI :=
  let w := WV.of b.w0
  let x := XI.of b.w1
  sel (wdOfTs w.ts) fun t =>
  zeros (x.rnd == 0 && !x.sat && x.md == 0 && w.b == 0 && x.imm.toNat / 64 == 0) <|
  .ok ⟨x.g, t, w.d, w.a, fld x.imm.toNat 0 64⟩
def encXBcastI (o : OpXBcastI) : Body :=
  ⟨true, WV.to ⟨wdTs o.ty, o.d, o.a, 0⟩, XI.to ⟨o.g, 0, false, 0, BitVec.ofNat 16 o.lane.val⟩⟩

def decXBallot (b : Body) : Dec OpXBallot :=
  let w := WV.of b.w0
  let x := XR.of b.w1
  allowed (w.ts == 0) <|
  zeros (x.rnd == 0 && !x.sat && !x.bs && x.c == 0 && w.d == 0 && w.a == 0 && w.b == 0) <| .ok ⟨x.g, x.ss, predOf x.md⟩
def encXBallot (o : OpXBallot) : Body :=
  ⟨true, WV.to ⟨0, 0, 0, 0⟩, XR.to ⟨o.g, 0, false, false, predCode o.p, 0, o.s⟩⟩

def decXVote (b : Body) : Dec OpXVote :=
  let w := WV.of b.w0
  let x := XR.of b.w1
  allowed (w.ts == 0) <| sel (cdstOf w.d) fun d =>
  zeros (x.rnd == 0 && !x.sat && !x.bs && x.c == 0 && x.ss == 0 && w.a == 0 && w.b == 0) <| .ok ⟨x.g, d, predOf x.md⟩
def encXVote (o : OpXVote) : Body :=
  ⟨true, WV.to ⟨0, cdstCode o.d, 0, 0⟩, XR.to ⟨o.g, 0, false, false, predCode o.p, 0, 0⟩⟩

def decXPfx (b : Body) : Dec OpXPfx :=
  let w := WV.of b.w0
  let x := XR.of b.w1
  sel (ityOfTs w.ts) fun t => sel (pfxOf x.md) fun p =>
  zeros (x.rnd == 0 && !x.sat && !x.bs && x.c == 0 && x.ss == 0 && w.b == 0) <| .ok ⟨x.g, t, p.1, p.2, w.d, w.a⟩
def encXPfx (o : OpXPfx) : Body :=
  ⟨true, WV.to ⟨ityTs o.ty, o.d, o.a, 0⟩, XR.to ⟨o.g, 0, false, false, pfxCode (o.op, o.ex), 0, 0⟩⟩

def decKclr (b : Body) : Dec Unit :=
  let w := WV.of b.w0
  allowed (w.ts == 0) <| zeros (w.d == 0 && w.a == 0 && w.b == 0) <| .ok ()
def encKclr : Body := ⟨false, WV.to ⟨0, 0, 0, 0⟩, 0⟩

def decKAdd (b : Body) : Dec OpKAdd :=
  let w := WV.of b.w0
  sel (gtyOfTs w.ts) fun t => zeros (w.d == 0 && w.b == 0) <| .ok ⟨t, w.a⟩
def encKAdd (o : OpKAdd) : Body := ⟨false, WV.to ⟨gtyTs o.ty, 0, o.a, 0⟩, 0⟩

def decKAddR (b : Body) : Dec OpKAddR :=
  let w := WV.of b.w0
  let x := XR.of b.w1
  sel (gtyOfTs w.ts) fun t =>
  zeros (x.rnd == 0 && !x.sat && !x.bs && x.md == 0 && x.c == 0 && x.ss == 0 && w.d == 0 && w.b == 0) <|
  .ok ⟨x.g, t, w.a⟩
def encKAddR (o : OpKAddR) : Body :=
  ⟨true, WV.to ⟨gtyTs o.ty, 0, o.a, 0⟩, XR.to ⟨o.g, 0, false, false, 0, 0, 0⟩⟩

def decKRnd (b : Body) : Dec OpKRnd :=
  let w := WV.of b.w0
  let x := XR.of b.w1
  sel (gtyOfTs w.ts) fun t => sel (rndOf x.rnd) fun r =>
  zeros (!x.sat && !x.bs && x.md == 0 && x.c == 0 && x.ss == 0 && w.a == 0 && w.b == 0) <| .ok ⟨x.g, t, r, w.d⟩
def encKRnd (o : OpKRnd) : Body :=
  ⟨true, WV.to ⟨gtyTs o.ty, o.d, 0, 0⟩, XR.to ⟨o.g, rndCode o.rnd, false, false, 0, 0, 0⟩⟩

def decKScan (b : Body) : Dec OpKScan :=
  let w := WV.of b.w0
  let x := XR.of b.w1
  sel (gtyOfTs w.ts) fun t => sel (rndOf x.rnd) fun r =>
  zeros (!x.sat && !x.bs && x.md.val / 2 == 0 && x.c == 0 && x.ss == 0 && w.b == 0) <|
  .ok ⟨x.g, t, r, x.md.val % 2 == 1, w.d, w.a⟩
def encKScan (o : OpKScan) : Body :=
  ⟨true, WV.to ⟨gtyTs o.ty, o.d, o.a, 0⟩,
    XR.to ⟨o.g, rndCode o.rnd, false, false, if o.ex then 1 else 0, 0, 0⟩⟩

def decKImage (b : Body) : Dec OpKImage :=
  let w := WV.of b.w0
  let x := XR.of b.w1
  allowed (w.ts == 0) <|
  zeros (x.rnd == 0 && !x.sat && !x.bs && x.md == 0 && x.c == 0 && w.d == 0 && w.a == 0 && w.b == 0) <| .ok ⟨x.g, x.ss⟩
def encKImage (o : OpKImage) : Body :=
  ⟨true, WV.to ⟨0, 0, 0, 0⟩, XR.to ⟨o.g, 0, false, false, 0, 0, o.s⟩⟩

def decMem (ty : Fin 4 → Option τ) (b : Body) : Dec (OpMem τ) :=
  let w := WV.of b.w0
  let x := XM.of b.w1
  sel (ty w.ts) fun t => sel (scopeOf x.scope) fun sc => sel (dcOf x.dc) fun dc => zeros (w.b == 0) <|
  .ok ⟨x.g, t, sc, orderOf x.order, dc, x.off, w.d, w.a, x.ss⟩
def encMem (ty : τ → Fin 4) (o : OpMem τ) : Body :=
  ⟨true, WV.to ⟨ty o.ty, o.d, o.a, 0⟩, XM.to ⟨o.g, scopeCode o.scope, orderCode o.order, dcCode o.dc, o.off, o.s⟩⟩

def decAtom (b : Body) : Dec OpAtom :=
  let w := WV.of b.w0
  let x := XM.of b.w1
  allowed (w.ts == 0) <| sel (scopeOf x.scope) fun sc => sel (dcOf x.dc) fun dc =>
  match atomField x.off with
  | .error e => .error e
  | .ok f => .ok ⟨x.g, f.op, f.aw, f.sgn, sc, orderOf x.order, dc, w.d, w.a, w.b, x.ss⟩
def encAtom (o : OpAtom) : Body :=
  ⟨true, WV.to ⟨0, o.d, o.a, o.b⟩,
    XM.to ⟨o.g, scopeCode o.scope, orderCode o.order, dcCode o.dc, atomBits ⟨o.op, o.aw, o.sgn⟩, o.s⟩⟩

def decLine (b : Body) : Dec OpLine :=
  let w := WV.of b.w0
  let x := XM.of b.w1
  sel (lvlOf w.ts) fun l => sel (scopeOf x.scope) fun sc => sel (dcOf x.dc) fun dc =>
  allowed (x.order == 0) <| zeros (w.d == 0 && w.b == 0) <| .ok ⟨x.g, l, sc, dc, x.off, w.a, x.ss⟩
def encLine (o : OpLine) : Body :=
  ⟨true, WV.to ⟨lvlCode o.lvl, 0, o.a, 0⟩, XM.to ⟨o.g, scopeCode o.scope, 0, dcCode o.dc, o.off, o.s⟩⟩

def decPrefb (b : Body) : Dec OpPrefb :=
  let w := WV.of b.w0
  let x := XM.of b.w1
  allowed (w.ts == 0 && x.scope == 0 && x.order == 0 && x.dc == 7) <| zeros (w.d == 0) <|
  .ok ⟨x.g, x.off, w.a, w.b, x.ss⟩
def encPrefb (o : OpPrefb) : Body := ⟨true, WV.to ⟨0, 0, o.a, o.b⟩, XM.to ⟨o.g, 0, 0, 7, o.off, o.s⟩⟩

def decGcvt (b : Body) : Dec OpGcvt :=
  let w := WV.of b.w0
  let x := XM.of b.w1
  allowed (w.ts == 0 && x.scope == 0 && x.order == 0 && x.dc == 7) <| zeros (w.b == 0) <|
  match winField x.off with
  | .error e => .error e
  | .ok f => .ok ⟨x.g, f.1, f.2, w.d, w.a, x.ss⟩
def encGcvt (o : OpGcvt) : Body :=
  ⟨true, WV.to ⟨0, o.d, o.a, 0⟩, XM.to ⟨o.g, 0, 0, 7, winBits o.win o.toWin, o.s⟩⟩

/-- TLD: TD, SUB 1 is .tr (R71, R283). -/
def decTld (b : Body) : Dec OpTileMem :=
  let w := WT.of b.w0
  let x := XM.of b.w1
  sel (flagOf w.sub) fun tr => sel (scopeOf x.scope) fun sc => sel (dcOf x.dc) fun dc =>
  zeros (w.ta == 0 && x.off == 0) <| .ok ⟨x.g, tr, sc, orderOf x.order, dc, w.td, w.sa, x.ss⟩
def encTld (o : OpTileMem) : Body :=
  ⟨true, WT.to ⟨flagCode o.tr, o.t, 0, o.a⟩, XM.to ⟨o.g, scopeCode o.scope, orderCode o.order, dcCode o.dc, 0, o.s⟩⟩
/-- TST: TA. -/
def decTst (b : Body) : Dec OpTileMem :=
  let w := WT.of b.w0
  let x := XM.of b.w1
  allowed (w.sub == 0) <| sel (scopeOf x.scope) fun sc => sel (dcOf x.dc) fun dc =>
  zeros (w.td == 0 && x.off == 0) <| .ok ⟨x.g, false, sc, orderOf x.order, dc, w.ta, w.sa, x.ss⟩
def encTst (o : OpTileMem) : Body :=
  ⟨true, WT.to ⟨0, 0, o.t, o.a⟩, XM.to ⟨o.g, scopeCode o.scope, orderCode o.order, dcCode o.dc, 0, o.s⟩⟩

def decTile (b : Body) : Dec OpTile :=
  let w := WT.of b.w0
  allowed (w.sub == 0) <| zeros (w.ta == 0 && w.sa == 0) <| .ok ⟨w.td⟩
def encTile (o : OpTile) : Body := ⟨false, WT.to ⟨0, o.t, 0, 0⟩, 0⟩
def decTileS (b : Body) : Dec OpTileS :=
  let w := WT.of b.w0
  allowed (w.sub == 0) <| zeros (w.td == 0 && w.ta == 0) <| .ok ⟨w.sa⟩
def encTileS (o : OpTileS) : Body := ⟨false, WT.to ⟨0, 0, 0, o.a⟩, 0⟩
def decArd (b : Body) : Dec OpTileAcc :=
  let w := WT.of b.w0
  allowed (w.sub == 0) <| zeros (w.ta == 0) <| .ok ⟨w.td, w.sa⟩
def encArd (o : OpTileAcc) : Body := ⟨false, WT.to ⟨0, o.t, 0, o.a⟩, 0⟩
def decAwr (b : Body) : Dec OpTileAcc :=
  let w := WT.of b.w0
  allowed (w.sub == 0) <| zeros (w.td == 0) <| .ok ⟨w.ta, w.sa⟩
def encAwr (o : OpTileAcc) : Body := ⟨false, WT.to ⟨0, 0, o.t, o.a⟩, 0⟩

def decCopy (b : Body) : Dec OpCopy :=
  let w := WE.of b.w0
  let x := XE.of b.w1
  cwOf w.sub x.scope x.order fun cw => sel (dcOfCounted x.dc) fun dc =>
  zeros (x.va == 0 && !x.low) <| .ok ⟨x.g, cw, dc, w.sa, w.sb, x.sc⟩
def encCopy (o : OpCopy) : Body :=
  ⟨true, WE.to ⟨cwSub o.cw, o.a, o.b⟩, XE.to ⟨cwScope o.cw, cwOrder o.cw, dcCodeCounted o.dc, o.c, 0, o.g, false⟩⟩

def decEncke (b : Body) : Dec OpEncke :=
  let w := WE.of b.w0
  let x := XE.of b.w1
  cwOf w.sub x.scope x.order fun cw => sel (dcOfCounted x.dc) fun dc =>
  zeros (x.sc == 0 && x.va == 0 && !x.low) <| .ok ⟨x.g, cw, dc, w.sa, w.sb⟩
def encEncke (o : OpEncke) : Body :=
  ⟨true, WE.to ⟨cwSub o.cw, o.a, o.b⟩, XE.to ⟨cwScope o.cw, cwOrder o.cw, dcCodeCounted o.dc, 0, 0, o.g, false⟩⟩

/-- SUB, SCOPE and ORDER are zero (R72). -/
def bareE (w : WE) (x : XE) : Bool := w.sub == 0 && x.scope == 0 && x.order == 0 && !x.low

def decTask (b : Body) : Dec OpTask :=
  let w := WE.of b.w0
  let x := XE.of b.w1
  zeros (bareE w x && w.sa == 0 && w.sb == 0 && x.sc == 0) <| sel (dcOf x.dc) fun dc => .ok ⟨x.g, dc, x.va⟩
def encTask (o : OpTask) : Body := ⟨true, WE.to ⟨0, 0, 0⟩, XE.to ⟨0, 0, dcCode o.dc, 0, o.v, o.g, false⟩⟩
def decEng2 (b : Body) : Dec OpEng2 :=
  let w := WE.of b.w0
  let x := XE.of b.w1
  zeros (bareE w x && x.sc == 0 && x.va == 0) <| sel (dcOf x.dc) fun dc => .ok ⟨x.g, dc, w.sa, w.sb⟩
def encEng2 (o : OpEng2) : Body := ⟨true, WE.to ⟨0, o.a, o.b⟩, XE.to ⟨0, 0, dcCode o.dc, 0, 0, o.g, false⟩⟩
def decEng3 (b : Body) : Dec OpEng3 :=
  let w := WE.of b.w0
  let x := XE.of b.w1
  zeros (bareE w x && x.va == 0) <| sel (dcOf x.dc) fun dc => .ok ⟨x.g, dc, w.sa, w.sb, x.sc⟩
def encEng3 (o : OpEng3) : Body := ⟨true, WE.to ⟨0, o.a, o.b⟩, XE.to ⟨0, 0, dcCode o.dc, o.c, 0, o.g, false⟩⟩

/-- In format CE the extension's GN, GC, SCOPE and ORDER are zero and, but for WAITA and FENCE, DC is 7 (R73). -/
def bareX (x : XE) : Bool := x.scope == 0 && x.order == 0 && x.g == ⟨false, 0⟩ && !x.low
def bareCE (x : XE) : Bool := bareX x && x.dc == 7
def ext (dc : Fin 8) (sc : SReg) (va : VReg) : XE := ⟨0, 0, dc, sc, va, ⟨false, 0⟩, false⟩

def decC (b : Body) : Dec OpC :=
  let w := WC.of b.w0
  allowed (w.sub == 0) <| zeros (w.imm == 0) <| .ok ⟨w.g⟩
def encC (o : OpC) : Body := ⟨false, WC.to ⟨0, o.g, 0⟩, 0⟩
def decCImm (b : Body) : Dec OpCImm :=
  let w := WC.of b.w0
  allowed (w.sub == 0) <| .ok ⟨w.g, w.imm⟩
def encCImm (o : OpCImm) : Body := ⟨false, WC.to ⟨0, o.g, o.imm⟩, 0⟩
def decBrc (b : Body) : Dec OpBrc :=
  let w := WC.of b.w0
  let x := XE.of b.w1
  sel (flagOf w.sub) fun nz => zeros (bareCE x && x.va == 0) <| .ok ⟨w.g, nz, x.sc, w.imm⟩
def encBrc (o : OpBrc) : Body := ⟨true, WC.to ⟨flagCode o.nz, o.g, o.imm⟩, XE.to (ext 7 o.c 0)⟩
def decCV (b : Body) : Dec OpCV :=
  let w := WC.of b.w0
  let x := XE.of b.w1
  allowed (w.sub == 0) <| zeros (bareCE x && x.sc == 0 && w.imm == 0) <| .ok ⟨w.g, x.va⟩
def encCV (o : OpCV) : Body := ⟨true, WC.to ⟨0, o.g, 0⟩, XE.to (ext 7 0 o.v)⟩
def decCVImm (b : Body) : Dec OpCVImm :=
  let w := WC.of b.w0
  let x := XE.of b.w1
  allowed (w.sub == 0) <| zeros (bareCE x && x.sc == 0) <| .ok ⟨w.g, x.va, w.imm⟩
def encCVImm (o : OpCVImm) : Body := ⟨true, WC.to ⟨0, o.g, o.imm⟩, XE.to (ext 7 0 o.v)⟩
def decJtab (b : Body) : Dec OpJtab :=
  let w := WC.of b.w0
  let x := XE.of b.w1
  allowed (w.sub == 0) <| zeros (bareCE x) <| .ok ⟨w.g, x.va, x.sc, w.imm⟩
def encJtab (o : OpJtab) : Body := ⟨true, WC.to ⟨0, o.g, o.n⟩, XE.to (ext 7 o.c o.v)⟩
def decBar (b : Body) : Dec OpBar :=
  let w := WC.of b.w0
  sel (barFormOf w.sub) fun f => zeros (w.imm.toNat / 16 == 0) <| .ok ⟨w.g, f, fld w.imm.toNat 0 16⟩
def encBar (o : OpBar) : Body := ⟨false, WC.to ⟨barFormCode o.form, o.g, BitVec.ofNat 16 o.b.val⟩, 0⟩
def decBarset (b : Body) : Dec OpBarset :=
  let w := WC.of b.w0
  let x := XE.of b.w1
  allowed (w.sub == 0) <| zeros (bareCE x && x.va == 0 && w.imm.toNat / 16 == 0) <|
  .ok ⟨w.g, fld w.imm.toNat 0 16, x.sc⟩
def encBarset (o : OpBarset) : Body := ⟨true, WC.to ⟨0, o.g, BitVec.ofNat 16 o.b.val⟩, XE.to (ext 7 o.c 0)⟩
def decPhase (b : Body) : Dec OpPhase :=
  let w := WC.of b.w0
  let x := XE.of b.w1
  allowed (w.sub == 0) <| zeros (bareCE x && x.va == 0 && w.imm.toNat / 2 == 0) <|
  .ok ⟨w.g, x.sc, w.imm.toNat % 2 == 1⟩
def encPhase (o : OpPhase) : Body := ⟨true, WC.to ⟨0, o.g, if o.p then 1 else 0⟩, XE.to (ext 7 o.c 0)⟩
def decWaita (b : Body) : Dec OpWaita :=
  let w := WC.of b.w0
  let x := XE.of b.w1
  allowed (w.sub == 0) <| sel (dcOf x.dc) fun dc => zeros (bareX x && x.sc == 0) <| .ok ⟨w.g, dc, x.va, w.imm⟩
def encWaita (o : OpWaita) : Body := ⟨true, WC.to ⟨0, o.g, o.limit⟩, XE.to (ext (dcCode o.dc) 0 o.v)⟩
def decDwait (b : Body) : Dec OpDwait :=
  let w := WC.of b.w0
  allowed (w.sub == 0) <| zeros (w.imm.toNat / 64 == 0) <| .ok ⟨w.g, BitVec.ofNat 6 w.imm.toNat⟩
def encDwait (o : OpDwait) : Body := ⟨false, WC.to ⟨0, o.g, BitVec.ofNat 16 o.mask.toNat⟩, 0⟩
/-- Services 0 and 1 of ECALL; every other value is reserved (R435). -/
def decEcall (b : Body) : Dec OpEcall :=
  let w := WC.of b.w0
  allowed (w.sub == 0 && w.imm.toNat / 2 == 0) <| .ok ⟨w.g, w.imm.toNat % 2 == 1⟩
def encEcall (o : OpEcall) : Body := ⟨false, WC.to ⟨0, o.g, if o.skip then 1 else 0⟩, 0⟩
def decPhint (b : Body) : Dec OpPhint :=
  let w := WC.of b.w0
  allowed (w.sub == 0) <| zeros (w.imm.toNat / 4096 == 0) <| .ok ⟨w.g, BitVec.ofNat 12 w.imm.toNat⟩
def encPhint (o : OpPhint) : Body := ⟨false, WC.to ⟨0, o.g, BitVec.ofNat 16 o.n.toNat⟩, 0⟩
def decSwitchC (b : Body) : Dec OpSwitchC :=
  let w := WC.of b.w0
  let x := XE.of b.w1
  sel (flagOf w.sub) fun off => zeros (bareCE x && x.va == 0 && w.imm == 0) <| .ok ⟨w.g, off, x.sc⟩
def encSwitchC (o : OpSwitchC) : Body := ⟨true, WC.to ⟨flagCode o.off, o.g, 0⟩, XE.to (ext 7 o.c 0)⟩
def decFence (b : Body) : Dec OpFence :=
  let w := WC.of b.w0
  let x := XE.of b.w1
  sel (fenceOf w.sub x.order) fun k => sel (scopeOf x.scope) fun sc => sel (dcOf x.dc) fun dc =>
  zeros (w.imm == 0 && x.sc == 0 && x.va == 0 && x.g == ⟨false, 0⟩ && !x.low) <| .ok ⟨w.g, k, sc, dc⟩
def encFence (o : OpFence) : Body :=
  ⟨true, WC.to ⟨fenceSub o.kind, o.g, 0⟩,
    XE.to ⟨scopeCode o.scope, fenceOrder o.kind, dcCode o.dc, 0, 0, ⟨false, 0⟩, false⟩⟩
def decShadow (b : Body) : Dec OpShadow :=
  let w := WC.of b.w0
  sel (flagOf w.sub) fun on => zeros (w.imm == 0) <| .ok ⟨w.g, on⟩
def encShadow (o : OpShadow) : Body := ⟨false, WC.to ⟨flagCode o.on, o.g, 0⟩, 0⟩
def decCS (b : Body) : Dec OpCS :=
  let w := WC.of b.w0
  let x := XE.of b.w1
  allowed (w.sub == 0) <| zeros (bareCE x && x.va == 0 && w.imm == 0) <| .ok ⟨w.g, x.sc⟩
def encCS (o : OpCS) : Body := ⟨true, WC.to ⟨0, o.g, 0⟩, XE.to (ext 7 o.c 0)⟩

/-! ## The opcode map (spec/03_opcode_map.md R57 to R75) -/

/-- An instruction from its operands. -/
def put {α : Type} (c : α → Instr) (d : Dec α) : Dec Instr :=
  match d with
  | .ok o => .ok (c o)
  | .error e => .error e
@[simp] theorem put_ok {α : Type} (c : α → Instr) (o : α) : put c (.ok o) = .ok (c o) := rfl

/-- An opcode with only the short format (R43 rule 3: no layout of an extension is among its formats). -/
def short (b : Body) (s : Dec Instr) : Dec Instr := if b.l then .error .layout else s
/-- An opcode with only long formats; `x` is the layout selector and answers by it (R43 rules 2, 3). -/
def long (b : Body) (k : Nat → Dec Instr) : Dec Instr := if b.l then k (b.w1 / 2 ^ 30 % 4) else .error .noShort
/-- An opcode with a short format and long ones. -/
def both (b : Body) (s : Dec Instr) (k : Nat → Dec Instr) : Dec Instr :=
  if b.l then k (b.w1 / 2 ^ 30 % 4) else s
def only (n : Nat) (d : Dec Instr) (x : Nat) : Dec Instr := if x = n then d else .error .layout
def xrxi (r i : Dec Instr) (x : Nat) : Dec Instr := if x = 0 then r else if x = 1 then i else .error .layout

/-- Opcodes 0x00 to 0x0F. -/
def decode0x (lo : Nat) (b : Body) : Dec Instr :=
  match lo with
  | 1 => short b (put .smov (decS wdOfSub b))
  | 2 => long b (only 1 (put .smovi (decSMovi b)))
  | 3 => both b (put .saddS (decS wdOfSub b)) (xrxi (put .saddSR (decSR wdOfSub b)) (put .saddSI (decSIW b)))
  | 4 => both b (put .ssubS (decS wdOfSub b)) (xrxi (put .ssubSR (decSR wdOfSub b)) (put .ssubSI (decSIW b)))
  | 5 => both b (put .smulS (decS wdOfSub b)) (xrxi (put .smulSR (decSR wdOfSub b)) (put .smulSI (decSIW b)))
  | 6 => both b (put .smulhS (decS ityOfSub b)) (only 0 (put .smulhSR (decSR ityOfSub b)))
  | 7 => both b
      (put .sdivS (decS ityOfSub b))
      (xrxi (put .sdivSR (decSR ityOfSub b))
        (put .sdivSI (decSI ityOfSub b)))
  | 8 => both b
      (put .sremS (decS ityOfSub b))
      (xrxi (put .sremSR (decSR ityOfSub b))
        (put .sremSI (decSI ityOfSub b)))
  | 9 => both b (put .sandS (decS wdOfSub b)) (xrxi (put .sandSR (decSR wdOfSub b)) (put .sandSI (decSIW b)))
  | 10 => both b (put .sorS (decS wdOfSub b)) (xrxi (put .sorSR (decSR wdOfSub b)) (put .sorSI (decSIW b)))
  | 11 => both b (put .sxorS (decS wdOfSub b)) (xrxi (put .sxorSR (decSR wdOfSub b)) (put .sxorSI (decSIW b)))
  | 12 => both b (put .sshlS (decS wdOfSub b)) (xrxi (put .sshlSR (decSR wdOfSub b)) (put .sshlSI (decSIW b)))
  | 13 => both b (put .sshrS (decS wdOfSub b)) (xrxi (put .sshrSR (decSR wdOfSub b)) (put .sshrSI (decSIW b)))
  | 14 => both b (put .ssraS (decS wdOfSub b)) (xrxi (put .ssraSR (decSR wdOfSub b)) (put .ssraSI (decSIW b)))
  | 15 => both b
      (put .scmpI32S (decS cmpOfSub b))
      (xrxi (put .scmpI32SR (decSR cmpOfSub b))
        (put .scmpI32SI (decSI cmpOfSub b)))
  | _ => .error .noOpcode

/-- Opcodes 0x10 to 0x1F. -/
def decode1x (lo : Nat) (b : Body) : Dec Instr :=
  match lo with
  | 0 => both b
      (put .scmpN32S (decS cmpOfSub b))
      (xrxi (put .scmpN32SR (decSR cmpOfSub b))
        (put .scmpN32SI (decSI cmpOfSub b)))
  | 1 => long b (only 0 (put .ssel (decSR wdOfSub b)))
  | 2 => long b (only 1 (put .sldc (decSI wdOfSub b)))
  | 3 => long b (only 0 (put .srdlane (decSRdLane b)))
  | 4 => short b (put .smovt (decSMovt b))
  | 5 => short b (put .srd (decSrd b))
  | 6 => short b (put .swr (decSwr b))
  | _ => .error .noOpcode

/-- Opcodes 0x20 to 0x2F. -/
def decode2x (lo : Nat) (b : Body) : Dec Instr :=
  match lo with
  | 0 => both b (put .movV (decV1 wdOfTs b)) (only 0 (put .movVR (decVR1 wdOfTs b)))
  | 1 => long b (only 1 (put .movi (decMovi b)))
  | 2 => long b (only 0 (put .vmovs (decVMovs b)))
  | 3 => both b
      (put .iaddV (decV ityOfTs b))
      (xrxi (put .iaddVR (decVRs ityOfTs b))
        (put .iaddVI (decVIs ityOfTs b)))
  | 4 => long b (only 0 (put .iaddc (decIAddc b)))
  | 5 => both b
      (put .isubV (decV ityOfTs b))
      (xrxi (put .isubVR (decVRs ityOfTs b))
        (put .isubVI (decVIs ityOfTs b)))
  | 6 => both b
      (put .imulV (decV ityOfTs b))
      (xrxi (put .imulVR (decVRs ityOfTs b))
        (put .imulVI (decVIs ityOfTs b)))
  | 7 => both b (put .imulhV (decV ityOfTs b)) (only 0 (put .imulhVR (decVR ityOfTs b)))
  | 8 => long b (only 0 (put .imad (decVRcs ityOfTs b)))
  | 9 => both b
      (put .iminV (decV ityOfTs b))
      (xrxi (put .iminVR (decVR ityOfTs b))
        (put .iminVI (decVI ityOfTs b)))
  | 10 => both b
      (put .imaxV (decV ityOfTs b))
      (xrxi (put .imaxVR (decVR ityOfTs b))
        (put .imaxVI (decVI ityOfTs b)))
  | 11 => both b (put .iabsV (decV1 ityOfTs b)) (only 0 (put .iabsVR (decVR1s ityOfTs b)))
  | 12 => both b (put .inegV (decV1 ityOfTs b)) (only 0 (put .inegVR (decVR1s ityOfTs b)))
  | 13 => long b (only 0 (put .isad (decVRc ityOfTs b)))
  | 14 => long b (xrxi (put .icmpVR (decICmpR b)) (put .icmpVI (decICmpI b)))
  | 15 => long b (only 0 (put .isel (decISel b)))
  | _ => .error .noOpcode

/-- Opcodes 0x30 to 0x3F. -/
def decode3x (lo : Nat) (b : Body) : Dec Instr :=
  match lo with
  | 0 => both b (put .shlV (decV wdOfTs b)) (xrxi (put .shlVR (decVR wdOfTs b)) (put .shlVI (decVI wdOfTs b)))
  | 1 => both b (put .shrV (decV wdOfTs b)) (xrxi (put .shrVR (decVR wdOfTs b)) (put .shrVI (decVI wdOfTs b)))
  | 2 => both b (put .sraV (decV wdOfTs b)) (xrxi (put .sraVR (decVR wdOfTs b)) (put .sraVI (decVI wdOfTs b)))
  | 3 => both b (put .rotV (decV wdOfTs b)) (xrxi (put .rotVR (decVR wdOfTs b)) (put .rotVI (decVI wdOfTs b)))
  | 4 => long b (only 0 (put .lmux (decLmux b)))
  | 5 => long b (only 1 (put .bfx (decBfx b)))
  | 6 => long b (only 1 (put .bfi (decBfi b)))
  | 7 => both b (put .popcV (decV1 wdOfTs b)) (only 0 (put .popcVR (decVR1 wdOfTs b)))
  | 8 => both b (put .clzV (decV1 wdOfTs b)) (only 0 (put .clzVR (decVR1 wdOfTs b)))
  | 9 => both b (put .brevV (decV1 wdOfTs b)) (only 0 (put .brevVR (decVR1 wdOfTs b)))
  | 10 => long b (only 1 (put .bytep (decBytep b)))
  | _ => .error .noOpcode

/-- Opcodes 0x40 to 0x4F. -/
def decode4x (lo : Nat) (b : Body) : Dec Instr :=
  match lo with
  | 0 => both b (put .faddV (decV ftyOfTs b)) (only 0 (put .faddVR (decFR b)))
  | 1 => both b (put .fsubV (decV ftyOfTs b)) (only 0 (put .fsubVR (decFR b)))
  | 2 => both b (put .fmulV (decV ftyOfTs b)) (only 0 (put .fmulVR (decFR b)))
  | 3 => long b (only 0 (put .fma (decFma b)))
  | 4 => both b (put .fminV (decV ftyOfTs b)) (only 0 (put .fminVR (decVR ftyOfTs b)))
  | 5 => both b (put .fmaxV (decV ftyOfTs b)) (only 0 (put .fmaxVR (decVR ftyOfTs b)))
  | 6 => long b (only 0 (put .fcmp (decFCmp b)))
  | 7 => long b (only 0 (put .fsel (decFSel b)))
  | 8 => long b (only 1 (put .fclass (decFClass b)))
  | 9 => both b (put .frndV (decV1 ftyOfTs b)) (only 0 (put .frndVR (decFRnd b)))
  | 10 => long b (only 0 (put .cvt (decCvt b)))
  | 11 => long b (only 0 (put .cvtsr (decCvtsr b)))
  | 12 => long b (only 0 (put .pack (decPack b)))
  | 13 => long b (only 0 (put .unpack (decUnpack b)))
  | 14 => both b (put .rcpV (decX b)) (only 0 (put .rcpVR (decXR b)))
  | 15 => both b (put .rsqV (decX b)) (only 0 (put .rsqVR (decXR b)))
  | _ => .error .noOpcode

/-- Opcodes 0x50 to 0x5F. -/
def decode5x (lo : Nat) (b : Body) : Dec Instr :=
  match lo with
  | 0 => both b (put .sqrtV (decX b)) (only 0 (put .sqrtVR (decXR b)))
  | 1 => both b (put .exp2V (decX b)) (only 0 (put .exp2VR (decXR b)))
  | 2 => both b (put .log2V (decX b)) (only 0 (put .log2VR (decXR b)))
  | 3 => both b (put .srngV (decSrngV b)) (only 0 (put .srngVR (decSrngR b)))
  | _ => .error .noOpcode

/-- Opcodes 0x60 to 0x6F. -/
def decode6x (lo : Nat) (b : Body) : Dec Instr :=
  match lo with
  | 0 => both b (put .xpullV (decV wdOfTs b)) (only 0 (put .xpullVR (decVR wdOfTs b)))
  | 1 => long b (only 0 (put .xpush (decXPush b)))
  | 2 => long b (xrxi (put .xbcastVR (decXBcastR b)) (put .xbcastVI (decXBcastI b)))
  | 3 => long b (only 0 (put .xballot (decXBallot b)))
  | 4 => long b (only 0 (put .xany (decXVote b)))
  | 5 => long b (only 0 (put .xall (decXVote b)))
  | 6 => long b (only 0 (put .xpfx (decXPfx b)))
  | 7 => short b (put (fun _ => .kclr) (decKclr b))
  | 8 => both b (put .kaddV (decKAdd b)) (only 0 (put .kaddVR (decKAddR b)))
  | 9 => long b (only 0 (put .krnd (decKRnd b)))
  | 10 => long b (only 0 (put .kscan (decKScan b)))
  | 11 => long b (only 0 (put .ksave (decKImage b)))
  | 12 => long b (only 0 (put .kload (decKImage b)))
  | _ => .error .noOpcode

/-- Opcodes 0x70 to 0x7F. -/
def decode7x (lo : Nat) (b : Body) : Dec Instr :=
  match lo with
  | 0 => long b (only 2 (put .ldNarrow (decMem ntyOf b)))
  | 1 => long b (only 2 (put .ldWide (decMem wtyOf b)))
  | 2 => long b (only 2 (put .stNarrow (decMem styOf b)))
  | 3 => long b (only 2 (put .stB128 (decMem unitOf b)))
  | 4 => long b (only 2 (put .ldsNarrow (decMem ntyOf b)))
  | 5 => long b (only 2 (put .ldsWide (decMem wtyOf b)))
  | 6 => long b (only 2 (put .stsNarrow (decMem styOf b)))
  | 7 => long b (only 2 (put .stsB128 (decMem unitOf b)))
  | 8 => long b (only 2 (put .atom (decAtom b)))
  | 9 => long b (only 2 (put .red (decAtom b)))
  | 10 => long b (only 2 (put .atomr (decAtom b)))
  | 11 => long b (only 2 (put .ldr (decMem wtyOf b)))
  | 12 => long b (only 2 (put .str (decMem wtyOf b)))
  | 13 => long b (only 2 (put .strStrm (decMem wtyOf b)))
  | 14 => long b (only 2 (put .pref (decLine b)))
  | 15 => long b (only 2 (put .prefb (decPrefb b)))
  | _ => .error .noOpcode

/-- Opcodes 0x80 to 0x8F. -/
def decode8x (lo : Nat) (b : Body) : Dec Instr :=
  match lo with
  | 0 => long b (only 2 (put .cflush (decLine b)))
  | 1 => long b (only 2 (put .cinv (decLine b)))
  | 2 => long b (only 2 (put .gcvt (decGcvt b)))
  | 3 => long b (only 2 (put .gtest (decGcvt b)))
  | _ => .error .noOpcode

/-- Opcodes 0x90 to 0x9F. -/
def decode9x (lo : Nat) (b : Body) : Dec Instr :=
  match lo with
  | 0 => long b (only 2 (put .tld (decTld b)))
  | 1 => long b (only 2 (put .tst (decTst b)))
  | 2 => short b (put .tzero (decTile b))
  | 3 => short b (put .tfmt (decTileS b))
  | 4 => short b (put .mma (decTileS b))
  | 5 => short b (put .macq (decTileS b))
  | 6 => short b (put .mrel (decTileS b))
  | 7 => short b (put .mwait (decTileS b))
  | 8 => short b (put .ard (decArd b))
  | 9 => short b (put .awr (decAwr b))
  | 10 => short b (put .mreset (decTileS b))
  | _ => .error .noOpcode

/-- Opcodes 0xA0 to 0xAF. -/
def decodeAx (lo : Nat) (b : Body) : Dec Instr :=
  match lo with
  | 0 => long b (only 3 (put .cpy (decCopy b)))
  | 1 => long b (only 3 (put .cpy2 (decCopy b)))
  | 2 => long b (only 3 (put .cpyt (decCopy b)))
  | 3 => long b (only 3 (put .cpyg (decCopy b)))
  | 4 => long b (only 3 (put .cpys (decCopy b)))
  | 5 => long b (only 3 (put .cfill (decCopy b)))
  | _ => .error .noOpcode

/-- Opcodes 0xB0 to 0xBF. -/
def decodeBx (lo : Nat) (b : Body) : Dec Instr :=
  match lo with
  | 0 => long b (only 3 (put .pkload (decEncke b)))
  | 1 => long b (only 3 (put .pkq (decEncke b)))
  | 2 => long b (only 3 (put .pku (decEncke b)))
  | 3 => long b (only 3 (put .pkstat (decEncke b)))
  | 8 => long b (only 3 (put .spawn (decTask b)))
  | 9 => long b (only 3 (put .take (decTask b)))
  | 10 => long b (only 3 (put .launch (decEng2 b)))
  | 11 => long b (only 3 (put .cbset (decEng2 b)))
  | 12 => long b (only 3 (put .cbwait (decEng3 b)))
  | _ => .error .noOpcode

/-- Opcodes 0xC0 to 0xCF. -/
def decodeCx (lo : Nat) (b : Body) : Dec Instr :=
  match lo with
  | 0 => short b (put .bra (decCImm b))
  | 1 => long b (only 3 (put .brc (decBrc b)))
  | 2 => long b (only 3 (put .jmpx (decCV b)))
  | 3 => long b (only 3 (put .jtab (decJtab b)))
  | 4 => long b (only 3 (put .call (decCVImm b)))
  | 5 => long b (only 3 (put .callx (decCV b)))
  | 6 => long b (only 3 (put .ret (decCV b)))
  | 7 => short b (put .rjset (decCImm b))
  | 8 => short b (put .rjwait (decC b))
  | 9 => short b (put .rjdrop (decC b))
  | 10 => short b (put .exit (decC b))
  | 11 => short b (put .nop (decC b))
  | 12 => short b (put .yield (decC b))
  | 13 => short b (put .bar (decBar b))
  | 14 => long b (only 3 (put .barset (decBarset b)))
  | 15 => long b (only 3 (put .pharr (decPhase b)))
  | _ => .error .noOpcode

/-- Opcodes 0xD0 to 0xDF. -/
def decodeDx (lo : Nat) (b : Body) : Dec Instr :=
  match lo with
  | 0 => long b (only 3 (put .phwait (decPhase b)))
  | 1 => long b (only 3 (put .waita (decWaita b)))
  | 2 => short b (put .dwait (decDwait b))
  | _ => .error .noOpcode

/-- Opcodes 0xE0 to 0xEF. -/
def decodeEx (lo : Nat) (b : Body) : Dec Instr :=
  match lo with
  | 0 => short b (put .trap (decCImm b))
  | 1 => short b (put .brk (decCImm b))
  | 2 => short b (put .ecall (decEcall b))
  | 3 => short b (put .phint (decPhint b))
  | 4 => long b (only 3 (put .tmarm (decSwitchC b)))
  | 5 => long b (only 3 (put .fence (decFence b)))
  | 6 => long b (only 3 (put .pwint (decSwitchC b)))
  | 7 => short b (put .shadow (decShadow b))
  | 8 => long b (only 3 (put .fragq (decCS b)))
  | _ => .error .noOpcode

def decodeOp (op : Nat) (b : Body) : Dec Instr :=
  match op / 16 with
  | 0 => decode0x (op % 16) b
  | 1 => decode1x (op % 16) b
  | 2 => decode2x (op % 16) b
  | 3 => decode3x (op % 16) b
  | 4 => decode4x (op % 16) b
  | 5 => decode5x (op % 16) b
  | 6 => decode6x (op % 16) b
  | 7 => decode7x (op % 16) b
  | 8 => decode8x (op % 16) b
  | 9 => decode9x (op % 16) b
  | 10 => decodeAx (op % 16) b
  | 11 => decodeBx (op % 16) b
  | 12 => decodeCx (op % 16) b
  | 13 => decodeDx (op % 16) b
  | 14 => decodeEx (op % 16) b
  | _ => .error .noOpcode

end Enc

/-- The L bit, bit 23 (R40). -/
def isLong (w0 : Nat) : Bool := Enc.bit w0 23

/-- The decoder of R43: the instruction of a first word and, when L = 1, its extension word. -/
def decode (w0 w1 : Nat) : Dec Instr :=
  match Enc.decodeOp (w0 / 2 ^ 24 % 256) ⟨isLong w0, w0 % 2 ^ 23, w1⟩ with
  | .error e => .error e
  | .ok i => if wellFormed i then .ok i else .error .reserved

/-- The value of bytes, the first least significant (R2). -/
def leNat : List Byte → Nat
  | [] => 0
  | b :: bs => b.toNat + 256 * leNat bs

/-- The `n` bytes of a value, the least significant first (R2). -/
def natLe : Nat → Nat → List Byte
  | 0, _ => []
  | n + 1, v => BitVec.ofNat 8 v :: natLe n (v / 256)

/-- Slots an instruction word occupies: two when L = 1, but one for opcode 0x00 and 0xF0 to 0xFF (R75). -/
def slotsOf (w0 : Nat) : Nat :=
  let op := w0 / 2 ^ 24 % 256
  if op == 0 || op / 16 == 15 then 1 else if isLong w0 then 2 else 1

/-- Decode an instruction from bytes, with the bytes that follow it. -/
def decodeBytes (bs : List Byte) : Dec (Instr × List Byte) :=
  if bs.length < 4 then .error .noOpcode
  else
    let w0 := leNat (bs.take 4)
    let n := 4 * slotsOf w0
    if bs.length < n then .error .layout
    else
      match decode w0 (leNat ((bs.drop 4).take (n - 4))) with
      | .error e => .error e
      | .ok i => .ok (i, bs.drop n)

/-- The words of an instruction: its opcode and the body its shape encodes; none for a device event, which has no word. -/
def encodeBody (i : Instr) : Option (Nat × Enc.Body) :=
  match i with
  | .smov o => some (0x01, Enc.encS Enc.wdSub o)
  | .smovi o => some (0x02, Enc.encSMovi o)
  | .saddS o => some (0x03, Enc.encS Enc.wdSub o)
  | .saddSR o => some (0x03, Enc.encSR Enc.wdSub o)
  | .saddSI o => some (0x03, Enc.encSIW o)
  | .ssubS o => some (0x04, Enc.encS Enc.wdSub o)
  | .ssubSR o => some (0x04, Enc.encSR Enc.wdSub o)
  | .ssubSI o => some (0x04, Enc.encSIW o)
  | .smulS o => some (0x05, Enc.encS Enc.wdSub o)
  | .smulSR o => some (0x05, Enc.encSR Enc.wdSub o)
  | .smulSI o => some (0x05, Enc.encSIW o)
  | .smulhS o => some (0x06, Enc.encS Enc.itySub o)
  | .smulhSR o => some (0x06, Enc.encSR Enc.itySub o)
  | .sdivS o => some (0x07, Enc.encS Enc.itySub o)
  | .sdivSR o => some (0x07, Enc.encSR Enc.itySub o)
  | .sdivSI o => some (0x07, Enc.encSI Enc.itySub o)
  | .sremS o => some (0x08, Enc.encS Enc.itySub o)
  | .sremSR o => some (0x08, Enc.encSR Enc.itySub o)
  | .sremSI o => some (0x08, Enc.encSI Enc.itySub o)
  | .sandS o => some (0x09, Enc.encS Enc.wdSub o)
  | .sandSR o => some (0x09, Enc.encSR Enc.wdSub o)
  | .sandSI o => some (0x09, Enc.encSIW o)
  | .sorS o => some (0x0A, Enc.encS Enc.wdSub o)
  | .sorSR o => some (0x0A, Enc.encSR Enc.wdSub o)
  | .sorSI o => some (0x0A, Enc.encSIW o)
  | .sxorS o => some (0x0B, Enc.encS Enc.wdSub o)
  | .sxorSR o => some (0x0B, Enc.encSR Enc.wdSub o)
  | .sxorSI o => some (0x0B, Enc.encSIW o)
  | .sshlS o => some (0x0C, Enc.encS Enc.wdSub o)
  | .sshlSR o => some (0x0C, Enc.encSR Enc.wdSub o)
  | .sshlSI o => some (0x0C, Enc.encSIW o)
  | .sshrS o => some (0x0D, Enc.encS Enc.wdSub o)
  | .sshrSR o => some (0x0D, Enc.encSR Enc.wdSub o)
  | .sshrSI o => some (0x0D, Enc.encSIW o)
  | .ssraS o => some (0x0E, Enc.encS Enc.wdSub o)
  | .ssraSR o => some (0x0E, Enc.encSR Enc.wdSub o)
  | .ssraSI o => some (0x0E, Enc.encSIW o)
  | .scmpI32S o => some (0x0F, Enc.encS Enc.cmpSub o)
  | .scmpI32SR o => some (0x0F, Enc.encSR Enc.cmpSub o)
  | .scmpI32SI o => some (0x0F, Enc.encSI Enc.cmpSub o)
  | .scmpN32S o => some (0x10, Enc.encS Enc.cmpSub o)
  | .scmpN32SR o => some (0x10, Enc.encSR Enc.cmpSub o)
  | .scmpN32SI o => some (0x10, Enc.encSI Enc.cmpSub o)
  | .ssel o => some (0x11, Enc.encSR Enc.wdSub o)
  | .sldc o => some (0x12, Enc.encSI Enc.wdSub o)
  | .srdlane o => some (0x13, Enc.encSRdLane o)
  | .smovt o => some (0x14, Enc.encSMovt o)
  | .srd o => some (0x15, Enc.encSrd o)
  | .swr o => some (0x16, Enc.encSwr o)
  | .movV o => some (0x20, Enc.encV1 Enc.wdTs o)
  | .movVR o => some (0x20, Enc.encVR1 Enc.wdTs o)
  | .movi o => some (0x21, Enc.encMovi o)
  | .vmovs o => some (0x22, Enc.encVMovs o)
  | .iaddV o => some (0x23, Enc.encV Enc.ityTs o)
  | .iaddVR o => some (0x23, Enc.encVRs Enc.ityTs o)
  | .iaddVI o => some (0x23, Enc.encVIs Enc.ityTs o)
  | .iaddc o => some (0x24, Enc.encIAddc o)
  | .isubV o => some (0x25, Enc.encV Enc.ityTs o)
  | .isubVR o => some (0x25, Enc.encVRs Enc.ityTs o)
  | .isubVI o => some (0x25, Enc.encVIs Enc.ityTs o)
  | .imulV o => some (0x26, Enc.encV Enc.ityTs o)
  | .imulVR o => some (0x26, Enc.encVRs Enc.ityTs o)
  | .imulVI o => some (0x26, Enc.encVIs Enc.ityTs o)
  | .imulhV o => some (0x27, Enc.encV Enc.ityTs o)
  | .imulhVR o => some (0x27, Enc.encVR Enc.ityTs o)
  | .imad o => some (0x28, Enc.encVRcs Enc.ityTs o)
  | .iminV o => some (0x29, Enc.encV Enc.ityTs o)
  | .iminVR o => some (0x29, Enc.encVR Enc.ityTs o)
  | .iminVI o => some (0x29, Enc.encVI Enc.ityTs o)
  | .imaxV o => some (0x2A, Enc.encV Enc.ityTs o)
  | .imaxVR o => some (0x2A, Enc.encVR Enc.ityTs o)
  | .imaxVI o => some (0x2A, Enc.encVI Enc.ityTs o)
  | .iabsV o => some (0x2B, Enc.encV1 Enc.ityTs o)
  | .iabsVR o => some (0x2B, Enc.encVR1s Enc.ityTs o)
  | .inegV o => some (0x2C, Enc.encV1 Enc.ityTs o)
  | .inegVR o => some (0x2C, Enc.encVR1s Enc.ityTs o)
  | .isad o => some (0x2D, Enc.encVRc Enc.ityTs o)
  | .icmpVR o => some (0x2E, Enc.encICmpR o)
  | .icmpVI o => some (0x2E, Enc.encICmpI o)
  | .isel o => some (0x2F, Enc.encISel o)
  | .shlV o => some (0x30, Enc.encV Enc.wdTs o)
  | .shlVR o => some (0x30, Enc.encVR Enc.wdTs o)
  | .shlVI o => some (0x30, Enc.encVI Enc.wdTs o)
  | .shrV o => some (0x31, Enc.encV Enc.wdTs o)
  | .shrVR o => some (0x31, Enc.encVR Enc.wdTs o)
  | .shrVI o => some (0x31, Enc.encVI Enc.wdTs o)
  | .sraV o => some (0x32, Enc.encV Enc.wdTs o)
  | .sraVR o => some (0x32, Enc.encVR Enc.wdTs o)
  | .sraVI o => some (0x32, Enc.encVI Enc.wdTs o)
  | .rotV o => some (0x33, Enc.encV Enc.wdTs o)
  | .rotVR o => some (0x33, Enc.encVR Enc.wdTs o)
  | .rotVI o => some (0x33, Enc.encVI Enc.wdTs o)
  | .lmux o => some (0x34, Enc.encLmux o)
  | .bfx o => some (0x35, Enc.encBfx o)
  | .bfi o => some (0x36, Enc.encBfi o)
  | .popcV o => some (0x37, Enc.encV1 Enc.wdTs o)
  | .popcVR o => some (0x37, Enc.encVR1 Enc.wdTs o)
  | .clzV o => some (0x38, Enc.encV1 Enc.wdTs o)
  | .clzVR o => some (0x38, Enc.encVR1 Enc.wdTs o)
  | .brevV o => some (0x39, Enc.encV1 Enc.wdTs o)
  | .brevVR o => some (0x39, Enc.encVR1 Enc.wdTs o)
  | .bytep o => some (0x3A, Enc.encBytep o)
  | .faddV o => some (0x40, Enc.encV Enc.ftyTs o)
  | .faddVR o => some (0x40, Enc.encFR o)
  | .fsubV o => some (0x41, Enc.encV Enc.ftyTs o)
  | .fsubVR o => some (0x41, Enc.encFR o)
  | .fmulV o => some (0x42, Enc.encV Enc.ftyTs o)
  | .fmulVR o => some (0x42, Enc.encFR o)
  | .fma o => some (0x43, Enc.encFma o)
  | .fminV o => some (0x44, Enc.encV Enc.ftyTs o)
  | .fminVR o => some (0x44, Enc.encVR Enc.ftyTs o)
  | .fmaxV o => some (0x45, Enc.encV Enc.ftyTs o)
  | .fmaxVR o => some (0x45, Enc.encVR Enc.ftyTs o)
  | .fcmp o => some (0x46, Enc.encFCmp o)
  | .fsel o => some (0x47, Enc.encFSel o)
  | .fclass o => some (0x48, Enc.encFClass o)
  | .frndV o => some (0x49, Enc.encV1 Enc.ftyTs o)
  | .frndVR o => some (0x49, Enc.encFRnd o)
  | .cvt o => some (0x4A, Enc.encCvt o)
  | .cvtsr o => some (0x4B, Enc.encCvtsr o)
  | .pack o => some (0x4C, Enc.encPack o)
  | .unpack o => some (0x4D, Enc.encUnpack o)
  | .rcpV o => some (0x4E, Enc.encX o)
  | .rcpVR o => some (0x4E, Enc.encXR o)
  | .rsqV o => some (0x4F, Enc.encX o)
  | .rsqVR o => some (0x4F, Enc.encXR o)
  | .sqrtV o => some (0x50, Enc.encX o)
  | .sqrtVR o => some (0x50, Enc.encXR o)
  | .exp2V o => some (0x51, Enc.encX o)
  | .exp2VR o => some (0x51, Enc.encXR o)
  | .log2V o => some (0x52, Enc.encX o)
  | .log2VR o => some (0x52, Enc.encXR o)
  | .srngV o => some (0x53, Enc.encSrngV o)
  | .srngVR o => some (0x53, Enc.encSrngR o)
  | .xpullV o => some (0x60, Enc.encV Enc.wdTs o)
  | .xpullVR o => some (0x60, Enc.encVR Enc.wdTs o)
  | .xpush o => some (0x61, Enc.encXPush o)
  | .xbcastVR o => some (0x62, Enc.encXBcastR o)
  | .xbcastVI o => some (0x62, Enc.encXBcastI o)
  | .xballot o => some (0x63, Enc.encXBallot o)
  | .xany o => some (0x64, Enc.encXVote o)
  | .xall o => some (0x65, Enc.encXVote o)
  | .xpfx o => some (0x66, Enc.encXPfx o)
  | .kclr => some (0x67, Enc.encKclr)
  | .kaddV o => some (0x68, Enc.encKAdd o)
  | .kaddVR o => some (0x68, Enc.encKAddR o)
  | .krnd o => some (0x69, Enc.encKRnd o)
  | .kscan o => some (0x6A, Enc.encKScan o)
  | .ksave o => some (0x6B, Enc.encKImage o)
  | .kload o => some (0x6C, Enc.encKImage o)
  | .ldNarrow o => some (0x70, Enc.encMem Enc.ntyCode o)
  | .ldWide o => some (0x71, Enc.encMem Enc.wtyCode o)
  | .stNarrow o => some (0x72, Enc.encMem Enc.styCode o)
  | .stB128 o => some (0x73, Enc.encMem Enc.unitCode o)
  | .ldsNarrow o => some (0x74, Enc.encMem Enc.ntyCode o)
  | .ldsWide o => some (0x75, Enc.encMem Enc.wtyCode o)
  | .stsNarrow o => some (0x76, Enc.encMem Enc.styCode o)
  | .stsB128 o => some (0x77, Enc.encMem Enc.unitCode o)
  | .atom o => some (0x78, Enc.encAtom o)
  | .red o => some (0x79, Enc.encAtom o)
  | .atomr o => some (0x7A, Enc.encAtom o)
  | .ldr o => some (0x7B, Enc.encMem Enc.wtyCode o)
  | .str o => some (0x7C, Enc.encMem Enc.wtyCode o)
  | .strStrm o => some (0x7D, Enc.encMem Enc.wtyCode o)
  | .pref o => some (0x7E, Enc.encLine o)
  | .prefb o => some (0x7F, Enc.encPrefb o)
  | .cflush o => some (0x80, Enc.encLine o)
  | .cinv o => some (0x81, Enc.encLine o)
  | .gcvt o => some (0x82, Enc.encGcvt o)
  | .gtest o => some (0x83, Enc.encGcvt o)
  | .tld o => some (0x90, Enc.encTld o)
  | .tst o => some (0x91, Enc.encTst o)
  | .tzero o => some (0x92, Enc.encTile o)
  | .tfmt o => some (0x93, Enc.encTileS o)
  | .mma o => some (0x94, Enc.encTileS o)
  | .macq o => some (0x95, Enc.encTileS o)
  | .mrel o => some (0x96, Enc.encTileS o)
  | .mwait o => some (0x97, Enc.encTileS o)
  | .ard o => some (0x98, Enc.encArd o)
  | .awr o => some (0x99, Enc.encAwr o)
  | .mreset o => some (0x9A, Enc.encTileS o)
  | .cpy o => some (0xA0, Enc.encCopy o)
  | .cpy2 o => some (0xA1, Enc.encCopy o)
  | .cpyt o => some (0xA2, Enc.encCopy o)
  | .cpyg o => some (0xA3, Enc.encCopy o)
  | .cpys o => some (0xA4, Enc.encCopy o)
  | .cfill o => some (0xA5, Enc.encCopy o)
  | .pkload o => some (0xB0, Enc.encEncke o)
  | .pkq o => some (0xB1, Enc.encEncke o)
  | .pku o => some (0xB2, Enc.encEncke o)
  | .pkstat o => some (0xB3, Enc.encEncke o)
  | .spawn o => some (0xB8, Enc.encTask o)
  | .take o => some (0xB9, Enc.encTask o)
  | .launch o => some (0xBA, Enc.encEng2 o)
  | .cbset o => some (0xBB, Enc.encEng2 o)
  | .cbwait o => some (0xBC, Enc.encEng3 o)
  | .bra o => some (0xC0, Enc.encCImm o)
  | .brc o => some (0xC1, Enc.encBrc o)
  | .jmpx o => some (0xC2, Enc.encCV o)
  | .jtab o => some (0xC3, Enc.encJtab o)
  | .call o => some (0xC4, Enc.encCVImm o)
  | .callx o => some (0xC5, Enc.encCV o)
  | .ret o => some (0xC6, Enc.encCV o)
  | .rjset o => some (0xC7, Enc.encCImm o)
  | .rjwait o => some (0xC8, Enc.encC o)
  | .rjdrop o => some (0xC9, Enc.encC o)
  | .exit o => some (0xCA, Enc.encC o)
  | .nop o => some (0xCB, Enc.encC o)
  | .yield o => some (0xCC, Enc.encC o)
  | .bar o => some (0xCD, Enc.encBar o)
  | .barset o => some (0xCE, Enc.encBarset o)
  | .pharr o => some (0xCF, Enc.encPhase o)
  | .phwait o => some (0xD0, Enc.encPhase o)
  | .waita o => some (0xD1, Enc.encWaita o)
  | .dwait o => some (0xD2, Enc.encDwait o)
  | .trap o => some (0xE0, Enc.encCImm o)
  | .brk o => some (0xE1, Enc.encCImm o)
  | .ecall o => some (0xE2, Enc.encEcall o)
  | .phint o => some (0xE3, Enc.encPhint o)
  | .tmarm o => some (0xE4, Enc.encSwitchC o)
  | .fence o => some (0xE5, Enc.encFence o)
  | .pwint o => some (0xE6, Enc.encSwitchC o)
  | .shadow o => some (0xE7, Enc.encShadow o)
  | .fragq o => some (0xE8, Enc.encCS o)
  | .bandSelect _ _ _ => none
  | .clauseWaitRelease _ _ => none
  | .switchPoint _ _ => none
  | .longLatencyResultLands _ _ => none
  | .storeAcknowledge _ _ => none
  | .sramRemoteAccess _ _ => none
  | .translationRequest _ _ _ => none
  | .translationWalk _ _ => none
  | .pageFaultResponse _ => none
  | .faultRecordPost _ => none
  | .faultRecordServe => none
  | .regenComplete _ => none
  | .accessBitScan => none
  | .pageMove _ _ => none
  | .mtinvGo _ => none
  | .mtinvComplete => none
  | .ffaddWrite _ _ => none
  | .fqtailWrite _ _ => none
  | .cohRdS _ _ => none
  | .cohRdX _ _ => none
  | .cohUpg _ => none
  | .cohPutM _ => none
  | .cohPutE _ => none
  | .cohFwd _ => none
  | .cohInv _ => none
  | .cohData _ => none
  | .cohCmp _ => none
  | .cohFwdAck _ => none
  | .cohInvAck _ => none
  | .cohPutAck _ => none
  | .flitCrcReplay _ => none
  | .watchWake _ _ => none
  | .monitorPoll _ _ => none
  | .copyAccept _ => none
  | .copyUnit _ _ => none
  | .copyComplete _ _ => none
  | .ceresResume _ _ => none
  | .ceresAbort _ _ => none
  | .copyQuiesce _ _ => none
  | .peerRequest _ => none
  | .remoteResponse _ _ _ => none
  | .lateSplit _ _ => none
  | .streamOpen _ => none
  | .streamFull _ => none
  | .streamData _ => none
  | .streamClose _ _ => none
  | .streamAck _ _ _ => none
  | .streamBufferTimeout _ _ => none
  | .streamIdleClose _ _ => none
  | .streamReopenTimeout _ _ => none
  | .mmaOperationStart _ _ => none
  | .mmaStep _ _ => none
  | .matrixQuiesce _ _ => none
  | .enckeAccept _ => none
  | .keyStaging _ _ => none
  | .pkqQuery _ _ => none
  | .enckeRowGather _ _ => none
  | .pkuQuery _ _ => none
  | .enckeRowUpdate _ _ => none
  | .enckeComplete _ _ => none
  | .pkstatStatusWrite _ _ => none
  | .ekresResume _ _ => none
  | .ekresAbort _ _ => none
  | .enckeQuiesce _ _ => none
  | .fenceComplete _ => none
  | .rejoinDeadlockDetect _ => none
  | .timerFire _ => none
  | .bandEnd _ => none
  | .barWatchdogExpiry _ _ => none
  | .waitaTimeout _ _ => none
  | .counterWaitRelease _ _ => none
  | .teamPlace => none
  | .kickWrite _ => none
  | .kickDepk2Timer => none
  | .gridComplete _ => none
  | .cbwaitPoll _ => none
  | .coreBucketRefill _ => none
  | .governorHubCycle _ => none
  | .pwintIntentExpiry _ => none
  | .passCountChargeAdjust _ => none
  | .thermalMigration _ => none
  | .thermalPassFall _ => none
  | .thermalTrip _ => none
  | .powerIntentSend => none
  | .powerIntentReceive _ => none
  | .calendarAdvance => none
  | .schedulerTakeover _ => none
  | .deimosFailure => none
  | .noticePost => none
  | .nqWrite _ => none
  | .fragReady _ _ => none
  | .fragPoison _ _ => none
  | .fragDiscard _ _ => none
  | .fragmentReplay _ _ => none
  | .fragFullResume _ => none
  | .preemptBudgetExpiry _ => none
  | .teamSave _ => none
  | .teamRestore _ _ => none
  | .registerWrite _ _ => none
  | .powerOn _ => none
  | .fwStatus _ => none
  | .diagFailureRecord _ => none
  | .diagRerunStage5 _ => none
  | .sessionOpen _ _ => none
  | .sessionProve _ _ => none
  | .sessionClose _ => none
  | .sessionCtxnew _ _ => none
  | .sessionCtxend _ _ => none
  | .fwMap _ _ => none
  | .fwUnmap _ _ _ _ => none
  | .loadConfig _ _ => none
  | .loadRoute _ _ _ _ => none
  | .loadSavepool _ _ _ _ => none
  | .regenRegister _ _ _ _ => none
  | .hostLaunch _ _ _ _ => none
  | .hostWait _ _ _ _ => none
  | .waitTimeout _ _ => none
  | .readCounters _ _ _ => none
  | .powerGroup _ _ _ _ _ _ => none
  | .resetUnitMreset _ _ _ => none
  | .resetUnitStopContext _ _ => none
  | .resetUnitClearCounts _ => none
  | .resetUnitRetrainEthernet _ => none
  | .resetUnitRetrainStation _ _ => none
  | .fwAttest _ _ => none
  | .sessionIdleTimeout _ => none
  | .ipFragmentReceive _ => none
  | .reassemblyTimeout _ _ => none
  | .arpRequest _ _ => none
  | .neighbourDiscovery _ _ => none
  | .icmpEcho _ _ _ => none
  | .priorityFlowControl _ _ => none
  | .rdmaWrite _ _ _ _ => none
  | .rdmaRead _ _ _ _ => none
  | .contextSwitch _ => none
  | .ethernetLinkFormed => none
  | .unknownOpcode _ => none

/-- First and extension word, as naturals. -/
def encodeWords (i : Instr) : Option (Nat × Option Nat) :=
  match encodeBody i with
  | none => none
  | some (op, b) => some (op * 2 ^ 24 + b.l.toNat * 2 ^ 23 + b.w0, if b.l then some b.w1 else none)

/-- The encoder: the instruction's words in the order in which they stand in memory. -/
def encode (i : Instr) : List Word :=
  match encodeWords i with
  | none => []
  | some (w0, none) => [BitVec.ofNat 32 w0]
  | some (w0, some w1) => [BitVec.ofNat 32 w0, BitVec.ofNat 32 w1]

/-- The bytes of an instruction's words, each little-endian, the first word at the lowest address (R2). -/
def encodeBytes (i : Instr) : List Byte := (encode i).flatMap fun w => natLe 4 w.toNat

/-- The instruction the decoder reads from an instruction whose bits are `w`, bit 0 the least significant bit of the
first word and a later word's bits counting on from it; bits from `nbits` up are zero. -/
def decodeTableWord (nbits w : Nat) : Option Instr :=
  let v := w % 2 ^ nbits
  match decodeBytes (natLe 8 v) with
  | .ok (i, _) => some i
  | .error _ => none

end Sys2Proof
end

