-- ==== Sys2Proof/Machine/Arith.lean ====
section
/-!
DEFINITION. Integer arithmetic on patterns of w bits (w = 32 or 64), held as natural numbers below 2^w:
spec/10_integer_and_logic.md R228 to R250.
-/
namespace Sys2Proof.Arith

def width (wide : Bool) : Nat := if wide then 64 else 32

/-- val(x) (R228). -/
def val (sg : Bool) (w x : Nat) : Int :=
  if sg && decide (2 ^ (w - 1) ≤ x) then (x : Int) - (2 ^ w : Nat) else x

/-- wrap(y) (R228). -/
def wrap (w : Nat) (y : Int) : Nat := (y % ((2 ^ w : Nat) : Int)).toNat

/-- Least and greatest value of an integer type. -/
def least (sg : Bool) (w : Nat) : Int := if sg then -((2 ^ (w - 1) : Nat) : Int) else 0
def greatest (sg : Bool) (w : Nat) : Int := if sg then ((2 ^ (w - 1) : Nat) : Int) - 1 else ((2 ^ w : Nat) : Int) - 1

/-- sat(y) (R228). -/
def clamp (sg : Bool) (w : Nat) (y : Int) : Int :=
  if y < least sg w then least sg w else if greatest sg w < y then greatest sg w else y

/-- The pattern written: wrap(y), or sat(y) (R228). -/
def put (sg : Bool) (w : Nat) (sat : Bool) (y : Int) : Nat := wrap w (if sat then clamp sg w y else y)

/-- An immediate of 16 bits extended to w bits (R229). -/
def imm (sg : Bool) (w : Nat) (x : BitVec 16) : Nat := wrap w (val sg 16 x.toNat)

def add (w x y : Nat) : Nat := (x + y) % 2 ^ w
def sub (w x y : Nat) : Nat := (x + (2 ^ w - y % 2 ^ w)) % 2 ^ w
def mul (w x y : Nat) : Nat := (x * y) % 2 ^ w

/-- Bits [2w − 1:w] of the exact product (R233, R242). -/
def mulh (sg : Bool) (w x y : Nat) : Nat := wrap w (val sg w x * val sg w y / ((2 ^ w : Nat) : Int))

/-- Quotient rounded toward zero with the edge cases of R234. -/
def divide (sg : Bool) (w x y : Nat) : Nat :=
  if y = 0 then 2 ^ w - 1 else wrap w (Int.tdiv (val sg w x) (val sg w y))

/-- Remainder (R234). -/
def remain (sg : Bool) (w x y : Nat) : Nat :=
  if y = 0 then x else wrap w (Int.tmod (val sg w x) (val sg w y))

def shl (w x n : Nat) : Nat := (x * 2 ^ (n % w)) % 2 ^ w
def shr (w x n : Nat) : Nat := x / 2 ^ (n % w)
def sra (w x n : Nat) : Nat := wrap w (val true w x / ((2 ^ (n % w) : Nat) : Int))
/-- Left rotation (R245). -/
def rot (w x n : Nat) : Nat := (x * 2 ^ (n % w)) % 2 ^ w + x / 2 ^ (w - n % w)

def compare (c : Cmp) (x y : Int) : Bool :=
  match c with
  | .eq => x = y
  | .ne => x ≠ y
  | .lt => x < y
  | .le => x ≤ y
  | .gt => x > y
  | .ge => x ≥ y

/-- A number from the list of its bits, bit 0 first. -/
def ofBits : List Bool → Nat
  | [] => 0
  | b :: t => (if b then 1 else 0) + 2 * ofBits t

/-- Bits 0 to w − 1 computed one by one. -/
def tabulate (w : Nat) (f : Nat → Bool) : Nat := ofBits ((List.range w).map f)

/-- LMUX (R246): F where C is 1, G where C is 0, indexed by 2·A + b. -/
def lmux (w : Nat) (f g : BitVec 4) (a b c : Nat) : Nat :=
  tabulate w fun i =>
    let j := 2 * (if a.testBit i then 1 else 0) + (if b.testBit i then 1 else 0)
    if c.testBit i then f.toNat.testBit j else g.toNat.testBit j

/-- BFX (R247). -/
def bfx (sg : Bool) (w a pos len : Nat) : Nat :=
  if len = 0 then 0 else wrap w (val sg len (a / 2 ^ pos % 2 ^ len))

/-- BFI (R247). -/
def bfi (w a b pos len : Nat) : Nat :=
  tabulate w fun i => if pos ≤ i ∧ i < pos + len then b.testBit (i - pos) else a.testBit i

def popc (w x : Nat) : Nat := ((List.range w).filter fun i => x.testBit i).length
/-- Leading zeros; w when x = 0 (R248). -/
def clz (w x : Nat) : Nat := if x = 0 then w else w - 1 - Nat.log2 x
def brev (w x : Nat) : Nat := tabulate w fun i => x.testBit (w - 1 - i)

/-- BYTEP (R249). -/
def bytep (a b : Nat) (sel : BitVec 16) : Nat :=
  let z := a + 2 ^ 32 * b
  let byte (j : Nat) : Nat :=
    let s := sel.toNat / 2 ^ (4 * j) % 16
    if s < 8 then z / 2 ^ (8 * s) % 256 else if z.testBit (8 * (s - 8) + 7) then 255 else 0
  byte 0 + 2 ^ 8 * byte 1 + 2 ^ 16 * byte 2 + 2 ^ 24 * byte 3

end Sys2Proof.Arith
end

