-- ==== Sys2Proof/Machine/State.lean ====
section
/-!
DEFINITION. The state of the HF-6 package as plain data: threads, bands, teams, grids, contexts, cores, compute dies,
memory controllers, crossings, stations, the hub and its firmware, the messages and operations in flight, and the
model's own fields (inbox, agenda, issue, fresh). INVENTORY.md lists each with the rule that names it.

Numbered families are tables with a default: an entry not listed holds the default, which is the reset value.
-/
namespace Sys2Proof.Machine

/-! ## Threads and bands -/

/-- A PC: clause address and slot (R32). -/
structure Pc where
  clause : Nat
  slot : Nat
  deriving DecidableEq, Repr

/-- Run state of a thread (R346, R453 RUN). -/
inductive Run where
  /-- Running (RUN 0). -/
  | running
  /-- Waiting at its rejoin entry (RUN 1, R363). -/
  | rejoin
  /-- Waiting at a barrier (RUN 2, R373). -/
  | barrier (b : Nat)
  /-- Waiting at WAITA (RUN 3, R380). -/
  | addr
  /-- Parked in a fragment (RUN 4, R441). -/
  | parked
  /-- Exited (RUN 5, R359). -/
  | exited
  /-- Waiting at DWAIT for the counters of a mask (RUN 6, R381). -/
  | counter (mask : Nat)
  /-- Waiting at MWAIT on an accumulator, in a clause of header `hdr` (RUN 7, R293). -/
  | acc (id hdr : Nat)
  deriving DecidableEq, Repr

/-- Where a lane stands in entering the clause of its PC (R31, R33, R349). -/
inductive Entry where
  /-- The clause check is due. -/
  | check
  /-- The check has passed and the clause's WAIT is not yet met. -/
  | wait
  /-- In the clause. -/
  | inside
  deriving DecidableEq, Repr

/-- A lane's arming of the monitor (R145 to R147, R380). -/
structure Waita where
  /-- The operation of its WAITA. -/
  op : Nat
  /-- The generic address waited on. -/
  addr : Dword
  /-- Its global form, none when out of range (R147). -/
  g : Option Nat
  expect : Word
  /-- Cycles of %brun left; none for no limit. -/
  left : Option Nat
  /-- Register VA + 2, written at release. -/
  reg : Nat
  /-- Polled every 64 cycles in place of being woken (R147), with the cycles since the last read. -/
  polled : Bool
  since : Nat
  deriving DecidableEq, Repr

/-- The state of one thread (R203, R205, R346, R371). -/
structure Lane where
  pc : Pc
  run : Run
  /-- At a switch point (R34): a running lane is held there, a lane that waits or has exited has passed through it in this
  cycle with its results still to be applied. -/
  sw : Bool
  /-- Its group issued last in the secondary decoder (R227, R352). -/
  second : Bool
  entry : Entry
  rdp : Nat
  /-- Starvation count S (R346, R351). -/
  starve : Nat
  /-- v0 to v127; an unlisted register holds 0. -/
  v : Table Word
  /-- c0 to c6 (R203). -/
  c : BitVec 7
  /-- Pending marks: the register and the operation whose result it awaits (R37). -/
  pend : List (Nat × Nat)
  /-- Error marks, each with the request's fabric address (R195). -/
  err : Table Dword
  /-- Generator state G (R217). -/
  gen : Word
  tcause : Word
  tepc : Dword
  taddr : Dword
  /-- A trap taken at the lane's PC that is delivered once its uncounted results have landed (R430): cause and address. -/
  trap : Option (Nat × Dword)
  /-- %frag (R205). -/
  frag : Word
  la : BitVec 16
  ph : BitVec 16
  /-- Cycles of %brun waited at a barrier, or held by its arrival part (R376). -/
  waited : Nat
  /-- The words the lane waits on, one for each WAITA not yet released. -/
  waita : List Waita
  /-- Cycles this lane's group has been held for a pending source (R445). -/
  stalled : Nat
  /-- The arrival part of a BAR holds the lane's group (R376). -/
  barred : Bool
  /-- The phase word that a PHARR or PHWAIT which holds the lane's group watches (R379). -/
  watch : Option Nat
  deriving DecidableEq, Repr

/-- A thread when its band starts, but for PC, %tid and G (R203, R346). -/
def Lane.start : Lane :=
  ⟨⟨0, 0⟩, .running, false, false, .check, 0, 0, [], 0, [], [], 0, 0, 0, 0, none, 0xFFFF, 0, 0, 0, [], 0, false, none⟩

/-- The exact accumulator KA: K and its four flags (R223). -/
structure Ka where
  k : BitVec 384
  pinf : Bool
  ninf : Bool
  nan : Bool
  ovf : Bool
  deriving DecidableEq, Repr

def Ka.zero : Ka := ⟨0, false, false, false, false⟩

/-- A latched error of a counter: the lanes of its mask, its address and the cause it delivers (R168, R196). -/
structure Latch where
  mask : Dword
  addr : Dword
  cause : Nat
  deriving DecidableEq, Repr

/-- A register SWR writes at the switch point (R206). -/
inductive SwrReg where
  | cycles | spflag | lthresh
  deriving DecidableEq, Repr

/-- A short-latency result held until its lanes pass the switch point (R36, R227). -/
inductive Held where
  | vec (lane reg : Nat) (x : Word)
  | cond (lane : Nat) (bit : Nat) (x : Bool)
  | sca (lanes : Dword) (reg : Nat) (x : Word)
  | shape (lanes : Dword) (tile : Nat) (x : Word)
  | special (lanes : Dword) (reg : SwrReg) (x : Word)
  /-- No result: where a long-latency instruction of the run stands, whose landing discards the earlier ones of its
  register (R37). -/
  | load (lane reg op : Nat)
  deriving DecidableEq, Repr

/-- The sources of a parked instruction (R440): words, shape, scalar values, each lane's register values and error marks,
the condition-bit sources. An image in the form of R440 is computed from it. -/
structure Log where
  w0 : Nat
  w1 : Nat
  shape : Nat
  /-- Header of its clause as fetched at its issue, which gives the next instruction's PC (R348, R443). -/
  hdr : Nat
  lanes : Dword
  cmask : Dword
  sv : Table Word
  /-- Vector sources of each lane, by register. -/
  vrec : Table (Table Word)
  /-- Error-marked sources of each lane, by register (EMASK, R440). -/
  err : Table (Table Dword)
  /-- VOK: the vector sources are stored. -/
  vok : Bool
  deriving DecidableEq, Repr

/-- One page's group of a faulting instruction (R105). -/
structure FaultPage where
  kind : Nat
  entry : Nat
  caddr : Nat
  vaddr : Nat
  lanes : Dword
  /-- ACC and PS of the record (R106). -/
  acc : Nat
  ps : Bool
  deriving DecidableEq, Repr

/-- What a FRAG_FULL parked band holds (R446). -/
structure Overflow where
  log : Log
  pc : Pc
  src : Nat
  pages : List FaultPage
  op : Option Nat
  /-- Order of parking on the core: the oldest is released first. -/
  since : Nat
  deriving DecidableEq, Repr

/-- A band (R22, R203, R205, R346, R401). Its key is core × 64 + quarter × 16 + slot. -/
structure Band where
  team : Nat
  /-- %band. -/
  num : Nat
  width : Nat
  /-- Vector and scalar budgets in registers (R54). -/
  vbud : Nat
  sbud : Nat
  lanes : Table Lane
  s : Table Word
  dc : Table Nat
  latch : Table Latch
  ka : Ka
  fflags : BitVec 5
  /-- Format register (R282). -/
  fmt : Word
  lthresh : Word
  brun : Dword
  armed : Bool
  deadline : Dword
  shadow : Bool
  seq : Nat
  age : Nat
  flr : Nat
  yf : Bool
  /-- End of an open power intent, a hub cycle (R414). -/
  intent : Option Nat
  overflow : Option Overflow
  /-- Overflow records of further instructions of the band that faulted, behind the first (R446; log 55). -/
  more : List Overflow
  held : List Held
  /-- Cycles the issue slot is still taken by later passes (R28, R402). -/
  busy : Nat
  /-- Stopped for a save, with the liveness record used (R448, R449). -/
  stopped : Bool
  record : Option Nat
  deriving DecidableEq, Repr

/-! ## Teams, tiles, barriers -/

/-- A tile register (R277 to R281). -/
structure Tile where
  bytes : Table Byte
  shape : Word
  /-- The operation that marks the tile pending (R280). -/
  pend : Option Nat
  /-- Instructions that hold the tile for reading (R280). -/
  readers : Nat
  /-- Poison mark with its address (R281). -/
  poison : Option Dword
  deriving DecidableEq, Repr

def Tile.start : Tile := ⟨[], 0x00100402, none, 0, none⟩

/-- A named barrier (R371). -/
structure Barrier where
  fixed : Bool
  n : Nat
  a : Nat
  p : Bool
  deriving DecidableEq, Repr

/-- A requested save (R448): cycles left of the budget, and whether a migration, with its destination core. -/
structure SaveReq where
  left : Nat
  dest : Option Nat
  /-- The quiesce markers not yet returned, once they have been sent (R450): core for its copy engine, 64 + core for its
  matrix units, 128 + die for its Encke front. -/
  marks : Option (List Nat)
  /-- The slot of the save pool, once the record is being written, and the pieces written so far (R451). -/
  pool : Option (Nat × Nat)
  deriving DecidableEq, Repr

/-- A resident team (R22 to R25, R81, R86, R432, R448). -/
structure Team where
  grid : Nat
  /-- %team. -/
  num : Nat
  /-- Its core; the even core of a pair team. -/
  core : Nat
  pair : Bool
  /-- LB, or LBe and LBo (R81). -/
  lb : Nat
  lbo : Nat
  /-- Tiles, by core parity × 32 + number. -/
  tiles : Table Tile
  bars : Table Barrier
  pinned : Bool
  halted : Bool
  save : Option SaveReq
  /-- Order of placement (R400). -/
  placed : Nat
  /-- Bands that have ended. -/
  ended : Nat
  deriving DecidableEq, Repr

/-! ## Grids and contexts -/

/-- A launch descriptor (R388). -/
structure Desc where
  image : Nat
  nteam : Nat
  gridid : Nat
  pbase : Nat
  psize : Nat
  swz : Nat
  dies : Nat
  bwdog : Nat
  param : Nat
  stat : Nat
  depk : Nat
  depgrid : Nat
  bmap : Nat
  bfirst : Nat
  bper : Nat
  bcnt : Nat
  deriving DecidableEq, Repr

/-- A role table entry (R54). -/
structure Role where
  role : Nat
  nb : Nat
  vbud : Nat
  sbud : Nat
  entry : Nat
  deriving DecidableEq, Repr

/-- A kernel image header (R52), budgets in units of 8 registers as stored. -/
structure Header where
  flags : Nat
  entry : Nat
  trape : Nat
  bwc : Nat
  vbud : Nat
  sbud : Nat
  rjd : Nat
  tiles : Nat
  nbands : Nat
  nrole : Nat
  scratch : Nat
  roletab : Nat
  livetab : Nat
  nlive : Nat
  paramsz : Nat
  constsz : Nat
  const : Nat
  deriving DecidableEq, Repr

/-- A liveness record (R55). -/
structure LiveRec where
  v : BitVec 128
  s : BitVec 1024
  t : Word
  ranges : List (Nat × Nat)
  deriving DecidableEq, Repr

/-- A queued or running grid (R387 to R392). -/
structure Grid where
  ctx : Nat
  queue : Nat
  desc : Desc
  hdr : Header
  roles : List Role
  live : List LiveRec
  params : List Byte
  /-- The constant area, resident for the grid (R237). -/
  consts : Table Byte
  /-- The lowest team number not yet placed for the first time, and those above it that have been (R391, R398). -/
  next : Nat
  ahead : List Nat
  /-- Saved teams, at the front of the unplaced teams (R400). -/
  saved : List Nat
  running : Nat
  ended : Nat
  ndrop : Nat
  code : Nat
  /-- Its dependency of kind 1 is met: once met, it stays so (R391). -/
  met : Bool
  /-- Held by the dispatcher under R427. -/
  held : Bool
  /-- The page a regeneration grid rebuilds, as page number (R111), and whether a trap has been delivered in the grid. -/
  regen : Option Nat
  trapped : Bool
  deriving DecidableEq, Repr

/-- A completion (R392, R466). -/
structure Completion where
  gridid : Nat
  code : Nat
  detail : Nat
  ndrop : Nat
  deriving DecidableEq, Repr

/-- A table-set parameter block (R304). -/
structure KeySet where
  logn : Nat
  vfmt : Nat
  mom : Bool
  hd : Nat
  rlen : Nat
  k1 : Nat
  k2 : Nat
  vt : Nat
  rstr : Nat
  mt : Nat
  mstr : Nat
  clip : Word
  lr : Word
  beta : Word
  cwg : Nat
  cwv : Word
  deriving DecidableEq, Repr

/-- A table set of a context (R303, R319). -/
structure SetState where
  block : Option KeySet
  nqdone : Word
  nskip : Word
  deriving DecidableEq, Repr

def SetState.start : SetState := ⟨none, 0, 0⟩

/-- Who reported an out-of-range access, and in which hub cycle (R139). -/
structure SpReport where
  k : Nat
  core : Nat
  op : Nat
  lane : Nat
  deriving DecidableEq, Repr

/-- A window of 32 pages through which a regeneration kernel writes its page: range register, first virtual page, first chip
page (R111; log 52). -/
structure Staging where
  reg : Nat
  va : Nat
  chip : Nat
  deriving DecidableEq, Repr

/-- A context (R89, R138, R191, R303, R451, R471). -/
structure Ctx where
  /-- RGBASEk, RGLIMk, RGCBk, RGCTLk at 4k, 4k + 1, 4k + 2, 4k + 3. -/
  ranges : Table Dword
  routes : Table Dword
  spflag : Dword
  /-- The report that %spflag holds (R139): its hub cycle, core, operation and lane; none where V is 0. -/
  spby : Option SpReport
  svbase : Dword
  svsize : Dword
  /-- Save-pool slots in use (R451). -/
  slots : List Nat
  view : Nat
  sets : Table SetState
  stopped : Bool
  /-- The last 1,024 completions, the most recent first (R466). -/
  done : List Completion
  /-- The staging window of the context's regeneration kernels (R111; log 52). -/
  staging : Option Staging
  deriving DecidableEq, Repr

def Ctx.start (view : Nat) : Ctx := ⟨[], [], 0, none, 0, 0, [], view, [], false, [], none⟩

/-! ## Operations in flight -/

/-- Where one lane's access stands. -/
inductive AccStage where
  /-- Not yet performed. -/
  | waiting
  /-- Translated, or sent to a peer, and not yet performed. -/
  | translated
  /-- On its way to the slice of another core; messages of one core to one slice keep the order of these numbers (R143). -/
  | sent (order : Nat)
  /-- Performed; a load's value awaits landing, a write its acknowledgement. -/
  | performed
  /-- Landed or acknowledged. -/
  | done
  /-- Faulted at translation. -/
  | faulted (kind entry : Nat)
  /-- Dropped: an exited lane, a trap or an out-of-range store. -/
  | dropped
  deriving DecidableEq, Repr

/-- Where an access is performed. -/
inductive Place where
  /-- Memory, by chip address (R94). -/
  | mem (c : Nat)
  /-- SRAM, by global form (R81). -/
  | sram (g : Nat)
  /-- An out-of-range SRAM access, with window code and form (R139). -/
  | out (win x : Nat)
  /-- A peer, by fabric address (R191). -/
  | fabric (f : Nat)
  deriving DecidableEq, Repr

/-- One lane's access. -/
structure Acc where
  lane : Nat
  /-- Generic address (or fabric address). -/
  addr : Dword
  /-- Virtual address in the memory window, for records (R106). -/
  va : Nat
  place : Place
  size : Nat
  /-- Store bytes, or the operand of an atomic with its compare value. -/
  data : List Byte
  cmp : List Byte
  stage : AccStage
  /-- Value read. -/
  value : Nat
  deriving DecidableEq, Repr

/-- What an operation does. -/
inductive OpKind where
  /-- Load into a register group: first register, registers, sign extension from a narrow size. -/
  | load (reg regs : Nat) (sgn : Bool)
  | store
  | atomic (op : AOp) (sgn : Bool) (ret : Option Nat)
  /-- Special-function result, already computed. -/
  | sfu (reg : Nat)
  | jtab
  | flush (dev : Bool) (l2 : Bool)
  /-- A prefetch, into the L1 too or not (R187). -/
  | pref (l1 : Bool)
  | fence (k : FenceKind)
  | tld (tile : Nat) (tr : Bool) (rows len stride ew : Nat)
  | tst (tile : Nat) (rows len stride : Nat)
  | tzero (tile : Nat)
  | ard (tile acc : Nat)
  | take (reg : Nat)
  /-- A bitmap range with the indices of its dwords not yet read as set (R395). -/
  | cbwait (base first count : Nat) (left : List Nat)
  | waita
  deriving DecidableEq, Repr

/-- An operation in flight (R37, R38, R177). -/
structure Op where
  band : Nat
  /-- Active lanes. -/
  lanes : Dword
  kind : OpKind
  pc : Pc
  dc : Dc
  scope : Scope
  order : Order
  accs : List Acc
  /-- Sources for a fragment, should a lane fault (R185). -/
  log : Log
  /-- The issue order within the machine. -/
  seq : Nat
  /-- The replayed fragment's identity, whose count it carries (R185, R443). -/
  replay : Option Nat
  /-- Holds its PC group at issue until done (TLD, TST, JTAB, AWR, CBSET, CBWAIT, LAUNCH). -/
  holds : Bool
  /-- Poisoned address met by a TLD (R281). -/
  poison : Option Dword
  /-- Cycles since the last read of a CBWAIT (R395). -/
  since : Nat
  deriving DecidableEq, Repr

/-! ## Cores -/

/-- A fragment's state (R439). -/
inductive FragState where
  | parked | ready | replaying | landing
  deriving DecidableEq, Repr

/-- A fragment table entry with its operand log (R439, R440). -/
structure Frag where
  band : Nat
  ctx : Nat
  late : Bool
  state : FragState
  lanes : Dword
  pc : Pc
  nrec : Nat
  seq : Nat
  /-- First log entry and continuation. -/
  logNo : Nat
  cont : Option Nat
  log : Log
  /-- The counter whose count it holds (R185). -/
  dc : Dc
  /-- What its fault records are found by (R455, R481). -/
  uid : Nat
  deriving DecidableEq, Repr

/-- A command's geometry: its lengths or its descriptor as read (R154 to R157). -/
inductive CopyDesc where
  | flat (len : Nat)
  | fill (len : Nat) (word : Word)
  | two (rows rbytes sstr dstr : Nat)
  | gather (scatter : Bool) (list count rbytes bound pitch : Nat)
  | tensor (ndim esz : Nat) (toBox : Bool) (box nt str : List Nat) (start : List Int)
  deriving DecidableEq, Repr

/-- A run of payload bytes within one line at each end, with where it comes from and goes to (R154 to R158). -/
structure CopyRun where
  j : Nat
  n : Nat
  /-- The source address; `fill` gives the bytes where nothing is read. -/
  src : Option Nat
  fill : Option Word
  /-- The destination address, none where nothing is written. -/
  dst : Option Nat
  deriving DecidableEq, Repr

/-- What ends or parks a command of an engine. -/
inductive Halt_ where
  /-- An error ends the command. -/
  | error (kind addr : Nat)
  /-- A page fault parks it. -/
  | fault (kind entry caddr vaddr : Nat) (write : Bool)
  deriving DecidableEq, Repr

/-- An attempt at a unit (R155, R166): the runs not yet performed, what has been found so far, the lowest first, and the index
error that ends the unit. -/
structure CopyWork where
  runs : List CopyRun
  found : Option Halt_
  last : Option Halt_
  deriving DecidableEq, Repr

/-- A command of the copy engine (R148 to R168). -/
structure CopyCmd where
  band : Nat
  team : Nat
  ctx : Nat
  op : Nat
  lanes : Dword
  dc : Fin 6
  src : Dword
  dst : Dword
  /-- The value of SC: its length, or the local-window offset of its descriptor (R150). -/
  sc : Nat
  desc : CopyDesc
  cw : Option Scope
  cwg : Nat
  cwv : Word
  n : Nat
  /-- Progress word P (R158). -/
  p : Nat
  /-- The attempt at unit P under way. -/
  work : Option CopyWork
  parked : Bool
  /-- Order of acceptance. -/
  seq : Nat
  /-- What its fault record is found by (R455, R481). -/
  uid : Nat
  deriving DecidableEq, Repr

/-- A range-lock entry (R163). -/
structure Lock where
  lo : Nat
  hi : Nat
  write : Bool
  /-- Slot of a copy command, or 32 + slot of an Encke command of the die. -/
  slot : Nat
  deriving DecidableEq, Repr

/-- A command posted by a group that its engine has not yet accepted (R152, R308). -/
structure Offer where
  band : Nat
  lanes : Dword
  pc : Pc
  /-- Header of its clause. -/
  hdr : Nat
  instr : Instr
  seq : Nat
  /-- Price to pay at acceptance (R405). -/
  price : Nat
  deriving DecidableEq, Repr

/-- A task in a deque (R382). -/
structure Task where
  words : List Word
  gridid : Nat
  ctx : Nat
  deriving DecidableEq, Repr

/-- State of an accumulator token (R292). -/
inductive Token where
  | free | held (team : Nat) | lent (team : Nat) (err : Bool) (addr : Dword) | rst (team : Nat)
  deriving DecidableEq, Repr

/-- An accumulator tile: token, elements, ARD and AWR that keep it busy (R291, R292). -/
structure Accum where
  token : Token
  elems : Table Word
  busy : Nat
  deriving DecidableEq, Repr

def Accum.start : Accum := ⟨.free, [], 0⟩

/-- A queued matrix operation: block bytes, format word, captured shapes (R294). -/
structure MxOp where
  team : Nat
  band : Nat
  ctx : Nat
  acc : Nat
  block : List Byte
  addr : Dword
  fmt : Word
  /-- Captured shapes of TA, TB, TSA, TSB. -/
  shapes : List Word
  /-- Tiles held for reading. -/
  tiles : List Nat
  /-- Tile count of the grid (R297). -/
  count : Nat
  pw : Nat
  /-- Checked before step 0 (R297). -/
  checked : Bool
  deriving DecidableEq, Repr

/-- A matrix unit: the executing operation and the waiting queue (R294, R296). -/
structure Mx where
  exec : Option MxOp
  queue : List MxOp
  stall : BitVec 16
  deriving DecidableEq, Repr

def Mx.start : Mx := ⟨none, [], 0⟩

/-- A send stream of a core and route (R199 to R202), opening or open; a closed stream is not listed. -/
structure SendStream where
  ctx : Nat
  /-- 0 opening, 1 open with TAG, 2 refused. -/
  phase : Nat
  tag : Nat
  addr : Nat
  peer : Nat
  pctx : Nat
  /-- Cycles since the last record, since the buffer's first record, and since the refused OPEN. -/
  idle : Nat
  age : Nat
  refused : Nat
  /-- Buffered records, and the operation and lane each completes. -/
  buf : List Byte
  owners : List (Nat × Nat)
  /-- Left by its context while it opens: it closes once its TAG is known (R202). -/
  closing : Bool
  deriving DecidableEq, Repr

/-- A core (R13) with its registers. -/
structure Core where
  /-- L1 lines with the marks of their granules, by chip line number (R118, R123). -/
  l1 : Table (List Byte × BitVec 8)
  copy : Table CopyCmd
  offers : List Offer
  locks : List Lock
  ceerr : Dword
  ceres : Word
  frags : Table Frag
  /-- Entries kept for a replay (R444), by entry. -/
  kept : Table Frag
  frctl : Word
  deque : List Task
  prefetch : List (Nat × Nat × Nat)
  /-- Words the core's monitor holds entries for (R145). -/
  monitor : List Nat
  /-- Watch filter of the core's slice: word and mask of watching cores (R146). -/
  watch : Table Dword
  /-- Cores to be woken: words written in the slice whose wake has not been delivered. -/
  wakes : List (Nat × Nat)
  /-- Owner records of the slice's blocks: context and swizzle mode (R131). -/
  owners : Table (Nat × Nat)
  acc : Table Accum
  mx : Table Mx
  mxerr : Dword
  sramerr : Dword
  /-- The next bank word of the slice that the scrubber reads (R142). -/
  scrub : Nat
  faberr : Dword
  balfail : Word
  temp : BitVec 8
  corerfl : Word
  /-- Core bucket level (R407), and the level that %tokq reads in this cycle (R485). -/
  bucket : Nat
  tokq : Nat
  cycles : Dword
  streams : Table SendStream
  hotFor : Nat
  coolFor : Nat
  deriving DecidableEq, Repr

/-- A core at reset; the bucket is full at the end of power-on (R407). -/
def Core.start : Core :=
  ⟨[], [], [], [], 0, 0, [], [], 0, [], [], [], [], [], [], [], [], 0, 0, 0, 0, 0, 0, 14500, 4194304, 4194304, 0, [], 0, 0⟩

/-- A pair's pass-count register (R418). -/
structure Pair where
  force : BitVec 3
  therm : BitVec 3
  deriving DecidableEq, Repr

def Pair.start : Pair := ⟨1, 1⟩

/-! ## Compute dies, coherence -/

/-- States of an L2 line (R124); an unlisted line is in I. -/
inductive LineState where
  | m | o | e | s
  deriving DecidableEq, Repr

/-- A line held by an L2: data and poisoned granules (R118, R124). -/
structure Line where
  st : LineState
  bytes : List Byte
  poison : BitVec 8
  deriving DecidableEq, Repr

/-- A line being obtained by an L2: what has arrived (R125). -/
structure Want where
  excl : Bool
  data : Option (List Byte)
  poison : BitVec 8
  shared : Bool
  cmp : Bool
  /-- Translation done: home die; none while it waits for a walk. -/
  home : Option Nat
  deriving DecidableEq, Repr

/-- Kinds of coherence message (R125). -/
inductive MsgKind where
  | rdS | rdX | upg | putM | putE | fwd (dest : Nat) (excl : Bool) (home : Bool) | inv | data (shared : Bool) | cmp
  | fwdAck | invAck | putAck
  deriving DecidableEq, Repr

/-- A message in flight (R125, R129). -/
structure Msg where
  kind : MsgKind
  line : Nat
  /-- Sending and receiving die. -/
  src : Nat
  dst : Nat
  bytes : List Byte
  poison : BitVec 8
  /-- For a request: where the line lies, as the translation unit of its die found (R99), by unit × 2^40 + offset. -/
  mem : Nat
  deriving DecidableEq, Repr

/-- An open transaction at a home (R125). -/
structure Txn where
  req : Nat
  excl : Bool
  /-- FwdAck and InvAck awaited, by die. -/
  acks : List Nat
  /-- Set when the transaction is a back-invalidation or flush: no Cmp is sent (R127, R128). -/
  flush : Bool
  /-- Where the line lies, by unit × 2^40 + offset. -/
  mem : Nat
  deriving DecidableEq, Repr

/-- A directory entry: the owner in M, O or E and the sharers; the open transaction (R125, R127). -/
structure Dir where
  owner : Option Nat
  sharers : List Nat
  txn : Option Txn
  /-- Order of last use (R127). -/
  used : Nat
  /-- Where the line lies, by unit × 2^40 + offset. -/
  mem : Nat
  deriving DecidableEq, Repr

/-- A cached translation: the PRESENT entry and whether it covers 2 MiB (R100). -/
structure Tlb where
  entry : Nat
  big : Bool
  deriving DecidableEq, Repr

/-- A walk in flight (R100). -/
structure Walk where
  page : Nat
  write : Bool
  /-- The ZERO entry it read when it began (R102). -/
  zero : Option Nat
  /-- An MTINV that covers the page waits for it (R104). -/
  due : Bool
  deriving DecidableEq, Repr

/-- What a request that leaves an L2 asks for: a line to read, a line in M, or a write-back. -/
inductive ReqKind where
  | read | write | back
  deriving DecidableEq, Repr

/-- A request in a hold queue (R103): its line, and whether its second walk has begun (R104). -/
structure HoldReq where
  line : Nat
  kind : ReqKind
  again : Bool
  deriving DecidableEq, Repr

/-- A fault record (R106). -/
structure FaultRec where
  kind : Nat
  src : Nat
  acc : Nat
  ps : Bool
  frag : Nat
  core : Nat
  ctx : Nat
  caddr : Nat
  vaddr : Nat
  lmask : Dword
  entry : Nat
  seq : Nat
  nrec : Nat
  irec : Nat
  eng : Nat
  /-- The fragment or parked command it belongs to, as firmware follows it through notices (R455, R481). -/
  uid : Nat
  deriving DecidableEq, Repr

/-- Kind of an Encke command (R302). -/
inductive EkKind where
  | load | query | update | stat
  deriving DecidableEq, Repr

/-- A batch descriptor (R309). -/
structure Batch where
  nq : Nat
  k : Nat
  wmode : Nat
  smf : Word
  qg : Nat
  qstr : Nat
  og : Nat
  ostr : Nat
  sg : Nat
  sstr : Nat
  cwg : Nat
  cwv : Word
  deriving DecidableEq, Repr

/-- A query in progress: its selection with weights, rows done, the accumulator (R312 to R316). -/
structure EkQuery where
  q : Nat
  sel : List (Nat × Word)
  rank : Nat
  acc : List Word
  /-- The chip address and the memory address of each of its rows, momentum rows after their value rows, once all their pages
  are translated (R305, R320). -/
  place : Option (List (Nat × Nat))
  deriving DecidableEq, Repr

/-- A command of an Encke front (R302 to R323). -/
structure EkCmd where
  kind : EkKind
  band : Nat
  team : Nat
  ctx : Nat
  /-- Issuing core. -/
  core : Nat
  lanes : Dword
  dc : Fin 6
  set : Nat
  /-- The block read at acceptance: that of the set, or of a PKLOAD; none for PKSTAT. -/
  block : Option KeySet
  batch : Option Batch
  sa : Nat
  cw : Option Scope
  qp : Nat
  cur : Option EkQuery
  parked : Bool
  /-- A PKSTAT whose status has been written (R319). -/
  written : Bool
  seq : Nat
  /-- What its fault record is found by (R455, R481). -/
  uid : Nat
  deriving DecidableEq, Repr

/-- The key tables in a front's buffer (R311): whose they are, the bytes staged so far, and for which slot. -/
structure Staged where
  ctx : Nat
  set : Nat
  /-- Discarded by a PKLOAD: no later command, from this order number on, uses it. -/
  upto : Option Nat
  block : KeySet
  keys : Table Byte
  done : Nat
  slot : Nat
  deriving DecidableEq, Repr

/-- A compute die (R10). -/
structure Die where
  l2 : Table Line
  /-- Evicted lines kept until PutAck (R126). -/
  evict : Table Line
  wants : Table Want
  dir : Table Dir
  /-- Requests waiting at the home, in arrival order (R125). -/
  waitq : List Nat
  tlb : Table Tlb
  walks : List Walk
  /-- Hold queue: requests that wait on a MIGRATING page (R103). -/
  hold : List HoldReq
  cptbase : Dword
  fq : Table FaultRec
  fqHead : Nat
  fqTail : Nat
  fqSeq : Word
  /-- Posters that found the queue full: records in order (R108). -/
  fqWait : List FaultRec
  ek : Table EkCmd
  ekOffers : List Offer
  staged : Option Staged
  ekerr : Dword
  ekres : Word
  /-- DIETOKd (R408). -/
  tokens : Int
  chgNow : Word
  chgNom : Word
  lowFor : Nat
  highFor : Nat
  /-- Charge value, 1, 2 or 4 (R418). -/
  chgVal : BitVec 3
  coreclk : BitVec 6
  /-- Core cycles since the end of power-on (R407). -/
  n : Nat
  /-- The lines that ballast has requested for the die, of those still registered, and those of them under way (R487). -/
  asked : List Nat
  asking : List Nat
  deriving DecidableEq, Repr

/-- A die at reset (R407: the bucket is full at the end of power-on). -/
def Die.start : Die :=
  ⟨[], [], [], [], [], [], [], [], 0, [], 0, 0, 0, [], [], [], none, 0, 0, 16777216, 65535, 65535, 0, 0, 1, 32, 0, [], []⟩

/-- A memory controller (R15, R98, R121): unit capacity in frames (0: absent), MEMERRm, the free-frame queue. -/
structure Unit_ where
  frames : Nat
  memerr : Dword
  ffq : List Nat
  /-- FFADDm's FRAME as last written. -/
  ffadd : BitVec 22
  /-- The next line of the unit that the scrubber reads (R411). -/
  scrub : Nat
  deriving DecidableEq, Repr

/-- A crossing (R129, R130): RPL, DOWN, consecutive failed replays. -/
structure Crossing where
  rpl : Word
  down : Bool
  fails : Nat
  deriving DecidableEq, Repr

def Crossing.start : Crossing := ⟨0, false, 0⟩

/-- A receive-side stream context (R199, R200). -/
structure RecvStream where
  peer : Nat
  sid : Nat
  pctx : Nat
  addr : Nat
  deriving DecidableEq, Repr

/-- A request or a stream record that has arrived at a station and is not yet performed (R193, R201). -/
inductive Arrival where
  | request (r : PeerReq)
  | opened (r : StreamFullRec)
  | full (r : StreamFullRec)
  | data (r : StreamDataRec)
  | closed (tag : Nat)
  deriving DecidableEq, Repr

/-- A UALink station (R199, R477). -/
structure Station where
  down : Bool
  recv : Table RecvStream
  /-- Arrivals that wait, oldest first: they are performed in order (log 18). -/
  queue : List Arrival
  deriving DecidableEq, Repr

/-! ## Hub, firmware, link -/

/-- A notice (R433): KIND, CTX, CORE, AUX, GRID, TEAM, BAND, LANE, A, B. -/
structure Notice where
  kind : Nat
  ctx : Nat
  core : Nat
  aux : Nat
  grid : Nat
  team : Nat
  band : Nat
  lane : Nat
  a : Dword
  b : Dword
  deriving DecidableEq, Repr

/-- A journal record's content (R426). -/
inductive Journal where
  | command (session msgnum : Nat)
  | queued (ctx gridid queue : Nat)
  | stopped (ctx : Nat)
  | served (die seq : Nat)
  | moved (page step : Nat)
  | notified (ctx gridid : Nat)
  deriving DecidableEq, Repr

/-- Owner key, identities, addresses: a configuration blob stored or applied (R467). -/
structure BlobState where
  stored : Option Blob
  applied : Option Blob
  owner : Option Nat
  deriving DecidableEq, Repr

/-- A held WAIT (R463, R466). -/
structure HeldWait where
  msgnum : Nat
  ctx : Nat
  gridid : Nat
  /-- Hub cycles left; none for no limit. -/
  left : Option Nat
  src : Origin
  deriving DecidableEq, Repr

/-- A reply's content (R461, R464). -/
inductive Payload where
  | none
  | status (bytes : List Byte)
  | failure (bytes : List Byte)
  | opened (session nonce rkey : Nat)
  | ctx (n : Nat)
  | cbase (c : Nat)
  | rgk (n : Nat)
  | record (c : Completion)
  | counters (vals : List Nat)
  | report (nonce rom blob : Nat) (owner : Option Nat) (state cert sig : Nat)
  deriving DecidableEq, Repr

/-- A reply, and where it goes (R458, R460, R461). -/
structure Reply where
  opcode : Nat
  session : Nat
  msgnum : Nat
  status : Nat
  payload : Payload
  dst : Origin
  deriving DecidableEq, Repr

/-- A session's command under way (R463): the context it acts on, if one; and how far it is: 0 before its turn, 1 performed in
part, 2 performed, with its view page and reply still to come. -/
structure Running where
  session : Nat
  msgnum : Nat
  ctx : Option Nat
  stage : Nat
  deriving DecidableEq, Repr

/-- An open session (R462, R463). -/
structure Session where
  /-- Key index, or none for an unauthenticated session. -/
  key : Option Nat
  proved : Bool
  nonce : Nat
  /-- The R_Key value reported (R459). -/
  rkey : Nat
  /-- The last executed MSGNUM. -/
  last : Nat
  /-- The last 64 replies, the most recent first. -/
  replies : List Reply
  waits : List HeldWait
  /-- Hub cycles since its last message. -/
  idle : Nat
  deriving DecidableEq, Repr

/-- What the device has sent (R457, R458, R460, R478, R419). -/
inductive Out where
  /-- A reply with its message, and the lengths of the packets that carry it. -/
  | reply (r : Reply) (message : List Byte) (packets : List Nat)
  | arp (sender target : Nat) (mac : List Byte)
  | neighbour (sender target : Nat) (mac : List Byte)
  | echo (sender target : Nat) (bytes : List Byte)
  | nak (qp : Nat) (operational : Bool) (sent : List Byte)
  | ack (qp : Nat)
  | readData (qp : Nat) (bytes : List Byte)
  | fabric (station op lane : Nat) (f : Nat) (peer pctx : Nat) (write : Bool) (bytes : List Byte)
  | strm (station : Nat) (peer : Nat) (bytes : List Byte)
  | answer (station : Nat) (ans : PeerAnswer)
  /-- In the completion of a stream-window write, never an error (R478): the kind of one record's error, or 0 (R196, R201, R202). -/
  | recordDone (station : Nat) (kind : Nat)
  | streamAck (station peer sid : Nat) (ok : Bool) (tag : Nat)
  | intent (station dest : Nat) (i : PowerIntent)
  deriving DecidableEq, Repr

/-- A partial datagram (R458). -/
structure Partial_ where
  src : Nat
  ident : Nat
  parts : List IpFragment
  /-- Hub cycles since its first fragment. -/
  age : Nat
  deriving DecidableEq, Repr

/-- What firmware keeps of a mapped page (R109 to R115). -/
structure PageRec where
  pinned : Bool
  rgk : Option Nat
  /-- A DDR-5 frame that holds a copy of the page as it was when last clean: unit and frame (R110). -/
  backing : Option (Nat × Nat)
  deriving DecidableEq, Repr

/-- A registered regeneration kernel (R111, R464). -/
structure RegenKernel where
  ctx : Nat
  image : Nat
  arg : Dword
  deriving DecidableEq, Repr

/-- A regeneration in progress: page, the REGEN entry replaced, the kernel's context, the step of R111 reached, its grid, the
frame obtained, how the grid has ended (without a delivered trap or not), the records to answer (R111, R112). -/
structure Regen where
  page : Nat
  big : Bool
  entry : Nat
  ctx : Nat
  phase : Nat
  gridid : Nat
  place : Option (Nat × Nat)
  ended : Option Bool
  recs : List (Nat × FaultRec)
  deriving DecidableEq, Repr

/-- What becomes of a page once its lines have gone from every L2 (R110, R114, R480): a move to a frame, where it may be
set aside; a drop of its frame for a REGEN entry; a return to its backing frame; an UNMAP with its new entry. -/
inductive MoveGoal where
  | frame (unit frame : Nat) (aside : Bool)
  | regen (k : Nat)
  | backing (unit frame : Nat)
  | unmap (entry : Nat)
  deriving DecidableEq, Repr

/-- The progress of the steps of R114 on a page: the last step completed, the old entry. -/
structure Move where
  page : Nat
  old : Nat
  big : Bool
  goal : MoveGoal
  step : Nat
  deriving DecidableEq, Repr

/-- The device's power state (R473). -/
inductive Power where
  /-- Booting, with the stage in progress. -/
  | booting (stage : Nat)
  | ready
  /-- The failure state, with the stage that failed, or 0 (R428). -/
  | failed (stage : Nat)
  deriving DecidableEq, Repr

/-- The hub die (R10) with dispatcher, power controller and registers. -/
structure Hub where
  /-- Hub cycles since the end of power-on (R407). -/
  k : Nat
  queues : Table (List Nat)
  kick : BitVec 8
  pkg : Nat
  /-- Current grant g (R409). -/
  g : Nat
  /-- Tokens debited by work, and refills not supplied, in the hub cycle under way (R409). -/
  w : Nat
  v : Nat
  /-- Open trough plan: g0 (R416). -/
  plan : Option Nat
  pwrgov : Dword
  passcfg : Word
  pgcfg : Dword
  members : BitVec 1024
  /-- Calendar entries: sender, up, first and last slot, W/µs (R421). -/
  calendar : List (Nat × Bool × Nat × Nat × Nat)
  lastIntent : Option Nat
  heldIntent : Option (PowerIntent × Nat)
  /-- Hub cycles for which g has held within 1 W, and the reference (R420). -/
  steady : Nat
  steadyG : Nat
  /-- g changed in the last hub cycle; the hub cycle in which the law called for the rise now held back or running (R421). -/
  moved : Bool
  /-- g rose in the last hub cycle (R420). -/
  rising : Bool
  rise : Option Nat
  /-- The plan for which STEP_DOWN, and then STEP_UP, has been called for (R420): 0 none, 1 and 2. -/
  planSaid : Nat
  thermcfg : Word
  triprsn : Word
  schedstat : Word
  journal : List (Nat × Journal)
  jseq : Dword
  checkpoint : Table (List Nat)
  notices : List Notice
  nqw : BitVec 8
  nqr : BitVec 8
  noticeWait : List Notice
  preempt : Word
  mtinv : Dword
  /-- MTINV as it was when the invalidation now running began (R98, R104). -/
  mtrun : Dword
  lastDie : Nat
  heldRecs : List Nat
  deriving DecidableEq, Repr

/-- Firmware and host link (R457 to R475, R490, R491). -/
structure Fw where
  power : Power
  failure : Option StageFailure
  sessions : Table Session
  blob : BlobState
  boot : BitVec 2
  plim : BitVec 2
  pgen : Bool
  pages : Table PageRec
  /-- Frames in use, by unit × 2^22 + frame. -/
  frames : List Nat
  kernels : Table RegenKernel
  regens : List Regen
  moves : List Move
  /-- Requests firmware has set aside for later service (R490). -/
  parked : List (Nat × FaultRec)
  /-- Fragments and commands of saved teams that firmware ends once the team is back (R455, R490). -/
  doomed : List Nat
  /-- Deimos drains the fault queues again, while completions are still held (R427). -/
  draining : Bool
  partials : List Partial_
  pause : BitVec 8
  /-- What waits to be sent at a paused priority, with it, oldest first (R457). -/
  paused : List (Nat × Out)
  /-- Replies to WAIT that wait while completions are held (R427, R466). -/
  heldReplies : List Reply
  linkUp : Bool
  /-- Neither scheduler core passed stage 1 (R473). -/
  noCore : Bool
  /-- A crossing failure has been reported: no launch until the next power-on (R129). -/
  noLaunch : Bool
  /-- Commands under way, in the order they began (R463). -/
  running : List Running
  deriving DecidableEq, Repr

/-! ## Saved teams -/

/-- A band as saved (R453). -/
structure SavedBand where
  band : Band
  /-- Its key when it was saved. -/
  key : Nat
  deriving DecidableEq, Repr

/-- A saved team: the content of its save record (R452 to R454); Machine/Save.lean gives its image. -/
structure Saved where
  /-- The team's key. -/
  key : Nat
  grid : Nat
  team : Team
  slot : Nat
  bands : List SavedBand
  /-- Accumulators, by core × 64 + identifier; operations, by core × 4 + unit; copy commands, by core × 32 + slot; Encke
  commands, by die × 32 + slot; fragments, by core and entry: as they were when saved. -/
  accs : List (Nat × Accum)
  mx : List (Nat × MxOp)
  copies : List (Nat × CopyCmd)
  eks : List (Nat × EkCmd)
  ops : List Op
  frags : List (Nat × Nat × Frag)
  /-- Saved ranges of the local window. -/
  sram : List (Nat × List Byte)
  /-- Offsets of the saved bank words that were poisoned (log 32). -/
  marks : List Nat
  full : Bool
  /-- The core that a migration moves the team to (R422, R423). -/
  dest : Option Nat
  /-- Chip address of its slot; how many pieces of the record the restore has read, and their bytes by offset (R451). -/
  base : Nat
  got : Nat
  seen : Table Byte
  deriving DecidableEq, Repr

/-! ## Steps that are due -/

/-- A step of the device that is due: the agenda of a cycle, or an input that has to wait. Its meaning is that of the
instruction of the same name. -/
inductive Due where
  | bandSelect (core quarter : Nat) (upset : Dword)
  | clauseWaitRelease (band : Nat) (lanes : Dword)
  | switchPoint (band : Nat) (lanes : Dword)
  | longLatencyResultLands (op lane : Nat)
  | storeAcknowledge (op lane : Nat)
  | sramRemoteAccess (op lane : Nat)
  | translationRequest (die line : Nat) (excl : Bool)
  | translationWalk (die : Nat) (page : Nat)
  | pageFaultResponse (op : Nat)
  | faultRecordPost (die : Nat)
  | faultRecordServe
  | regenComplete (page : Nat)
  | accessBitScan
  | pageMove (page unit : Nat)
  | mtinvGo (value : Dword)
  | mtinvComplete
  | ffaddWrite (unit : Nat) (value : Word)
  | fqtailWrite (die : Nat) (value : Word)
  | cohRdS (msg : Nat) (ecc : Ecc)
  | cohRdX (msg : Nat) (ecc : Ecc)
  | cohUpg (msg : Nat)
  | cohPutM (msg : Nat)
  | cohPutE (msg : Nat)
  | cohFwd (msg : Nat)
  | cohInv (msg : Nat)
  | cohData (msg : Nat)
  | cohCmp (msg : Nat)
  | cohFwdAck (msg : Nat)
  | cohInvAck (msg : Nat)
  | cohPutAck (msg : Nat)
  | flitCrcReplay (crossing : Nat)
  | watchWake (core g : Nat)
  | monitorPoll (band lane : Nat)
  | copyAccept (core : Nat)
  | copyUnit (core slot : Nat)
  | copyComplete (core slot : Nat)
  | ceresResume (core slot : Nat)
  | ceresAbort (core slot : Nat)
  | copyQuiesce (core team : Nat)
  /-- The oldest arrival that waits at a station. -/
  | stationServe (station : Nat)
  | lateSplit (band : Nat) (lanes : Dword)
  | streamBufferTimeout (core route : Nat)
  | streamIdleClose (core route : Nat)
  | streamReopenTimeout (core route : Nat)
  | mmaOperationStart (core unit : Nat)
  | mmaStep (core unit : Nat)
  | matrixQuiesce (core team : Nat)
  | enckeAccept (die : Nat)
  | keyStaging (die slot : Nat)
  | pkqQuery (die slot : Nat)
  | enckeRowGather (die slot : Nat)
  | pkuQuery (die slot : Nat)
  | enckeRowUpdate (die slot : Nat)
  | enckeComplete (die slot : Nat)
  | pkstatStatusWrite (die slot : Nat)
  | ekresResume (die slot : Nat)
  | ekresAbort (die slot : Nat)
  | enckeQuiesce (die team : Nat)
  | fenceComplete (op : Nat)
  | rejoinDeadlockDetect (band : Nat)
  | timerFire (band : Nat)
  | bandEnd (band : Nat)
  | barWatchdogExpiry (band lane : Nat)
  | waitaTimeout (band lane : Nat)
  | counterWaitRelease (band : Nat) (lanes : Dword)
  | teamPlace
  | kickWrite (value : Word)
  | kickDepk2Timer
  | gridComplete (grid : Nat)
  | cbwaitPoll (op : Nat)
  | coreBucketRefill (die : Nat)
  | governorHubCycle (sample : HubSample)
  | pwintIntentExpiry (band : Nat)
  | passCountChargeAdjust (die : Nat)
  | thermalMigration (core : Nat)
  | thermalPassFall (core : Nat)
  | thermalTrip (dies : Nat)
  | powerIntentSend
  | calendarAdvance
  | schedulerTakeover (cause : Nat)
  | deimosFailure
  | noticePost
  | nqWrite (value : Word)
  | fragReady (core entry : Nat)
  | fragPoison (core entry : Nat)
  | fragDiscard (core entry : Nat)
  | fragmentReplay (core entry : Nat)
  | fragFullResume (core : Nat)
  | preemptBudgetExpiry (team : Nat)
  | teamSave (team : Nat)
  | teamRestore (saved core : Nat)
  | registerWrite (r : RegName) (value : Dword)
  | powerOn (env : PowerOnEnv)
  | fwStatus (h : MsgHead)
  | diagFailureRecord (h : MsgHead)
  | sessionOpen (h : MsgHead) (key : Nat)
  | sessionProve (h : MsgHead) (nonce : Nat)
  | sessionClose (h : MsgHead)
  | loadConfig (h : MsgHead) (b : Blob)
  | readCounters (h : MsgHead) (group ctx : Nat)
  | powerGroup (h : MsgHead) (id stag gslew : Nat) (en : Bool) (members : Nat)
  | fwAttest (h : MsgHead) (nonce : Nat)
  | unknownOpcode (m : RawMsg)
  | diagRerunStage5 (h : MsgHead)
  | sessionCtxnew (h : MsgHead) (view : Nat)
  | sessionCtxend (h : MsgHead) (ctx : Nat)
  | fwMap (h : MsgHead) (m : MapArgs)
  | fwUnmap (h : MsgHead) (ctx k kind : Nat)
  | loadRoute (h : MsgHead) (ctx k : Nat) (value : Dword)
  | loadSavepool (h : MsgHead) (ctx : Nat) (base size : Dword)
  | regenRegister (h : MsgHead) (ctx image : Nat) (arg : Dword)
  | hostLaunch (h : MsgHead) (ctx queue : Nat) (desc : List Byte)
  | hostWait (h : MsgHead) (ctx gridid limit : Nat)
  | waitTimeout (session msgnum : Nat)
  | resetUnitMreset (h : MsgHead) (core unit : Nat)
  | resetUnitStopContext (h : MsgHead) (ctx : Nat)
  | resetUnitClearCounts (h : MsgHead)
  | resetUnitRetrainEthernet (h : MsgHead)
  | resetUnitRetrainStation (h : MsgHead) (station : Nat)
  | sessionIdleTimeout (session : Nat)
  | reassemblyTimeout (src ident : Nat)
  | rdmaWrite (qp rkey va : Nat) (bytes : List Byte)
  | rdmaRead (qp rkey va len : Nat) (got : List Byte)
  | contextSwitch (ctx : Nat)
  | ethernetLinkFormed
  /-- Firmware writes a view page, then answers the command that changed the registers (R465, R471). -/
  | viewWrite (ctx : Nat) (reply : Option Reply)
  deriving DecidableEq, Repr

/-! ## The issue under way, and the whole state -/

/-- A PC group at its issue (R347, R443): its lanes, their PC, the header of the clause as fetched, and, for the group of a
READY fragment, the fragment's entry. -/
structure Group where
  lanes : Dword
  pc : Pc
  hdr : Nat
  replay : Option Nat
  /-- Price paid at selection (R402). -/
  price : Nat
  deriving DecidableEq, Repr

/-- The choice of BAND_SELECT whose instruction issues next (R347, R350, R402). -/
structure Issue where
  band : Nat
  grp : Group
  /-- Whether the price came from the die bucket (R402). -/
  borrowed : Bool
  /-- The secondary group, to issue next in the same cycle (R350). -/
  second : Option Group
  /-- Lanes whose second copy differs, in shadow mode (R369): environment data. -/
  upset : Dword
  /-- The band's shadow bit when the cycle began (R367). -/
  shadow : Bool
  /-- Rejoin entries are evaluated when the cycle's instructions have acted (R365). -/
  reeval : Bool
  /-- The lanes of the ready groups when the choice was made, and those of the groups that have issued (R351). -/
  ready : Dword
  done : Dword
  /-- The band as it stood before the primary group acted, for the secondary's reads of other lanes (R352). -/
  prior : Option Band
  deriving DecidableEq, Repr

/-- The package. -/
structure State where
  bands : Table Band
  teams : Table Team
  grids : Table Grid
  ctxs : Table Ctx
  ops : Table Op
  cores : Table Core
  pairs : Table Pair
  dies : Table Die
  units : Table Unit_
  crossings : Table Crossing
  stations : Table Station
  /-- Bytes of the 24 units, by unit × 2^40 + offset; an unlisted byte reads as 0 (log 2). -/
  dram : Table Byte
  /-- Poisoned 16-byte granules of the units, by unit × 2^40 + offset ÷ 16 × 16. -/
  dramPoison : List Nat
  /-- Errors that stand in the stored code of a dword of a unit, by unit × 2^40 + offset; true for an uncorrectable one. -/
  dramFlips : Table Bool
  /-- Bytes of the slices by global form; an unlisted byte reads as 0 (log 3). -/
  sram : Table Byte
  /-- Poisoned bank words of the slices, by global form. -/
  sramPoison : List Nat
  /-- Errors that stand in the stored code of a bank word, by global form; true for an uncorrectable one (R141). -/
  sramFlips : Table Bool
  /-- Bytes of hub SRAM: the records of the fault and notice queues (R106, R107, R433); an unlisted byte reads as 0 (log 3). -/
  hubSram : Table Byte
  msgs : Table Msg
  hub : Hub
  fw : Fw
  saved : Table Saved
  outbox : List Out
  /-- The next key of a team, grid, operation, message or saved team; the order of events. -/
  nextKey : Nat
  /-- Inputs from outside that have arrived and not been performed (log 1). -/
  inbox : List Instr
  /-- Steps due in the cycle under way, in the order of R403 (log 4). -/
  agenda : List Due
  /-- Inputs that found what they need in use, to be tried again. -/
  waiting : List Due
  /-- The group whose instruction issues next (log 4). -/
  issue : Option Issue
  /-- Free values drawn so far (log 5). -/
  fresh : Nat
  deriving DecidableEq, Repr

/-- Why a step stops with a fault. -/
inductive Fault where
  /-- Raised by a device step whose operands name an agent the package does not have (core 64 or above, quarter 4 or
  above, die 4 or above, unit 24 or above, crossing 8 or above, station 24 or above, matrix unit 4 or above). Safe: R10
  to R16 name the agents, and no step of the hardware is one of another agent. -/
  | noAgent
  deriving DecidableEq, Repr

/-- Why a step is refused. -/
inductive Refusal where
  /-- Raised by the arm of an instruction that has no meaning yet. Safe: nothing is claimed of it. -/
  | notModelled (mnemonic : String)
  deriving DecidableEq, Repr

def Hub.start : Hub :=
  { k := 0, queues := [], kick := 0, pkg := 33554432, g := 200000, w := 0, v := 0, plan := none
    pwrgov := BitVec.ofNat 64 (40 + 200 * 2 ^ 16 + 2400 * 2 ^ 28 + 7 * 2 ^ 40 + 2 ^ 43)
    passcfg := 0x78006000, pgcfg := 0, members := 0, calendar := [], lastIntent := none, heldIntent := none
    steady := 0, steadyG := 200000, moved := false, rising := false, rise := none, planSaid := 0
    thermcfg := BitVec.ofNat 32 (95 + 85 * 2 ^ 8), triprsn := 0, schedstat := 2, journal := [], jseq := 0
    checkpoint := [], notices := [], nqw := 0, nqr := 0, noticeWait := [], preempt := 65536, mtinv := 0, mtrun := 0
    lastDie := 3, heldRecs := [] }

def Fw.start : Fw :=
  { power := .booting 1, failure := none, sessions := [], blob := ⟨none, none, none⟩, boot := 0, plim := 0, pgen := true
    pages := [], frames := [], kernels := [], regens := [], moves := [], parked := [], doomed := [], draining := false, partials := [], pause := 0, paused := [], heldReplies := []
    linkUp := false, noCore := false, noLaunch := false, running := [] }

/-- The package right after reset: power-on has not run (R473). Every table is empty, so every core, die, unit, crossing
and station holds its default, which is its reset value. -/
def State.reset : State :=
  { bands := [], teams := [], grids := [], ctxs := [], ops := [], cores := [], pairs := [], dies := [], units := []
    crossings := [], stations := [], dram := [], dramPoison := [], dramFlips := [], sram := [], sramPoison := [], sramFlips := [], hubSram := [], msgs := []
    hub := Hub.start, fw := Fw.start, saved := [], outbox := [], nextKey := 0, inbox := [], agenda := [], waiting := [], issue := none
    fresh := 0 }

end Sys2Proof.Machine
end

