-- ==== Sys2Proof/Machine/Flags.lean ====
section
/-!
DEFINITION. Floating-point formats, the rounding function and the flags it raises, the special functions and the exact
accumulator: spec/09_registers_and_formats.md R207 to R225; the arithmetic, comparison and conversion of
spec/11_float_crosslane_exact.md R256 to R265. Everything here is exact arithmetic on Int and Nat.
-/
namespace Sys2Proof.Fp

open Sys2Proof.Forms (TyCode.isInt TyCode.bits)

/-! ## Formats (R207) -/

/-- The floating-point formats. -/
inductive Fmt where | f64 | f32 | f16 | bf16 | e5m2 | e4m3 | e2m1
  deriving DecidableEq, Repr

def Fmt.bits : Fmt → Nat
  | .f64 => 64
  | .f32 => 32
  | .f16 | .bf16 => 16
  | .e5m2 | .e4m3 => 8
  | .e2m1 => 4

/-- Fraction bits p. -/
def Fmt.frac : Fmt → Nat
  | .f64 => 52
  | .f32 => 23
  | .f16 => 10
  | .bf16 => 7
  | .e5m2 => 2
  | .e4m3 => 3
  | .e2m1 => 1

def Fmt.bias : Fmt → Nat
  | .f64 => 1023
  | .f32 | .bf16 => 127
  | .f16 | .e5m2 => 15
  | .e4m3 => 7
  | .e2m1 => 1

/-- Exponent of the smallest normal value. -/
def Fmt.emin (f : Fmt) : Int := 1 - (Fmt.bias f : Int)

/-- Largest finite value, as a pattern without its sign. -/
def Fmt.maxMag : Fmt → Nat
  | .f64 => 0x7FEFFFFFFFFFFFFF
  | .f32 => 0x7F7FFFFF
  | .f16 => 0x7BFF
  | .bf16 => 0x7F7F
  | .e5m2 => 0x7B
  | .e4m3 => 0x7E
  | .e2m1 => 7

def Fmt.hasInf : Fmt → Bool
  | .e4m3 | .e2m1 => false
  | _ => true

/-- Canonical NaN; .e2m1 has none (R214 gives +0). -/
def Fmt.nan : Fmt → Nat
  | .f64 => 0x7FF8000000000000
  | .f32 => 0x7FC00000
  | .f16 => 0x7E00
  | .bf16 => 0x7FC0
  | .e5m2 => 0x7E
  | .e4m3 => 0x7F
  | .e2m1 => 0

/-- A magnitude pattern with a sign. -/
def signed (f : Fmt) (neg : Bool) (mag : Nat) : Nat := mag + (if neg then 2 ^ (Fmt.bits f - 1) else 0)

/-- Pattern of infinity (formats that have it). -/
def infPat (f : Fmt) (neg : Bool) : Nat := signed f neg (Fmt.maxMag f + 1)
def maxPat (f : Fmt) (neg : Bool) : Nat := signed f neg (Fmt.maxMag f)

/-- A real number with its sign, an infinity or NaN. `fin neg m e st` is ±(m + δ)·2^e, with δ = 0 unless `st`, and then
0 < δ < 1. -/
inductive Num where
  | nan
  | inf (neg : Bool)
  | fin (neg : Bool) (m : Nat) (e : Int) (st : Bool)
  deriving DecidableEq, Repr

def zero (neg : Bool) : Num := .fin neg 0 0 false

/-- The value of a pattern (R208). -/
def value (f : Fmt) (x : Nat) : Num :=
  let neg := x.testBit (Fmt.bits f - 1)
  let mag := x % 2 ^ (Fmt.bits f - 1)
  let ex := mag / 2 ^ Fmt.frac f
  let fr := mag % 2 ^ Fmt.frac f
  if Fmt.maxMag f < mag then (if Fmt.hasInf f && mag == Fmt.maxMag f + 1 then .inf neg else .nan)
  else if ex = 0 then .fin neg fr (Fmt.emin f - Fmt.frac f) false
  else .fin neg (2 ^ Fmt.frac f + fr) ((ex : Int) - Fmt.bias f - Fmt.frac f) false

/-- The value of an .e8m0 scale (R209). -/
def value8 (x : Nat) : Num := if x % 256 = 255 then .nan else .fin false 1 ((x % 256 : Nat) - 127 : Int) false

def ofInt (y : Int) : Num := .fin (y < 0) y.natAbs 0 false

/-! ## Flags (R218) -/

abbrev Flags := BitVec 5
def NV : Flags := 1
def DZ : Flags := 2
def OF : Flags := 4
def UF : Flags := 8
def NX : Flags := 16

/-! ## Rounding (R212 to R217) -/

/-- The generator's next state (R217). -/
def advance (g : Word) : Word :=
  let a := g ^^^ (g <<< (13 : Nat))
  let b := a ^^^ (a >>> (17 : Nat))
  b ^^^ (b <<< (5 : Nat))

/-- The random bits that advance returns. -/
def randomBits (g : Word) : Nat := (advance g).toNat / 2 ^ 16

/-- m·2^e over 2^q: the whole part, whether a tail remains, how the tail compares with one half, and the 16-bit window of
R217 with its sticky bit. -/
structure Cut where
  k : Nat
  tail : Bool
  above : Bool
  tie : Bool
  window : Nat
  deriving DecidableEq, Repr

def cut (m : Nat) (e : Int) (st : Bool) (q : Int) : Cut :=
  let sh := q - e
  if sh ≤ 0 then ⟨m * 2 ^ (-sh).toNat, st, false, false, if st then 1 else 0⟩
  else if (Nat.log2 m : Int) + 32 < sh then ⟨0, m != 0 || st, false, false, 1⟩
  else
    let d := 2 ^ sh.toNat
    let r := m % d
    let w := r * 2 ^ 16 / d
    let rest := r * 2 ^ 16 % d != 0 || st
    ⟨m / d, r != 0 || st, d < 2 * r || (2 * r == d && st), 2 * r == d && !st, if rest && w % 2 == 0 then w + 1 else w⟩

/-- Whether the magnitude goes up (R212). -/
def up (c : Cut) (neg : Bool) (md : Rnd) (rb : Nat) : Bool :=
  c.tail && match md with
    | .rn => c.above || (c.tie && c.k % 2 == 1)
    | .rz => false
    | .rp => !neg
    | .rm => neg
    | .sr => decide (rb < c.window)

/-- Overflow (R213). -/
def overVal (f : Fmt) (neg : Bool) (md : Rnd) (sat : Bool) : Nat :=
  let away := md == .rn || md == .sr || (md == .rp && !neg) || (md == .rm && neg)
  if sat || f == .e2m1 || !away then maxPat f neg else if Fmt.hasInf f then infPat f neg else Fmt.nan f

/-- round(fmt, x, mode) for a floating-point format, `rb` the bits that advance returned for .sr. -/
def round (f : Fmt) (x : Num) (md : Rnd) (sat : Bool) (rb : Nat) : Nat × Flags :=
  match x with
  | .nan => (Fmt.nan f, if f == .e2m1 then NV else 0)
  | .inf neg =>
    if f == .e2m1 then (maxPat f neg, NV)
    else if sat then (maxPat f neg, 0)
    else if Fmt.hasInf f then (infPat f neg, 0) else (Fmt.nan f, NV)
  | .fin neg m e st =>
    if m = 0 && !st then (signed f neg 0, 0)
    else
      let lg : Int := (Nat.log2 m : Int) + e
      let ex := if lg < Fmt.emin f then Fmt.emin f else lg
      let c := cut m e st (ex - Fmt.frac f)
      let k := if up c neg md rb then c.k + 1 else c.k
      let mag := if k < 2 ^ Fmt.frac f then k else (ex + Fmt.bias f).toNat * 2 ^ Fmt.frac f + (k - 2 ^ Fmt.frac f)
      if Fmt.maxMag f < mag then (overVal f neg md sat, OF ||| NX)
      else (signed f neg mag, if c.tail then (if lg < Fmt.emin f then NX ||| UF else NX) else 0)

/-- round for an integer format of w bits (R215). -/
def roundInt (sg : Bool) (w : Nat) (x : Num) (md : Rnd) : Nat × Flags :=
  match x with
  | .nan => (0, NV)
  | .inf neg => (Arith.wrap w (if neg then Arith.least sg w else Arith.greatest sg w), NV)
  | .fin neg m e st =>
    let c := cut m e st 0
    let k := if up c neg md 0 then c.k + 1 else c.k
    let r : Int := if neg then -(k : Int) else k
    if r < Arith.least sg w || Arith.greatest sg w < r then
      (Arith.wrap w (if neg then Arith.least sg w else Arith.greatest sg w), NV)
    else (Arith.wrap w r, if c.tail then NX else 0)

/-- round for .e8m0 (R216). -/
def round8 (x : Num) (md : Rnd) : Nat × Flags :=
  match x with
  | .nan | .inf _ => (255, NV)
  | .fin neg m e _ =>
    if m = 0 || neg then (255, NV)
    else
      let ex : Int := (Nat.log2 m : Int) + e
      let one := m == 2 ^ Nat.log2 m
      let twice := 2 * m
      let mid := 3 * 2 ^ Nat.log2 m
      let base := ex + 127
      let code : Int := match md with
        | .rp => if one then base else base + 1
        | .rn => if twice < mid then base else if mid < twice then base + 1 else if base % 2 = 0 then base else base + 1
        | _ => base
      let nx : Flags := if one then 0 else NX
      if code < 0 then (0, UF ||| NX) else if 254 < code then (254, OF ||| NX) else (code.toNat, nx)

/-! ## Arithmetic (R256) -/

def neg : Num → Num
  | .nan => .nan
  | .inf s => .inf (!s)
  | .fin s m e st => .fin (!s) m e st

def isNan : Num → Bool
  | .nan => true
  | _ => false

def signedInt (s : Bool) (m : Nat) : Int := if s then -(m : Int) else m

/-- Exact sum over the extended reals with the zero rules of R256. -/
def addN (x y : Num) (md : Rnd) : Num × Flags :=
  match x, y with
  | .nan, _ | _, .nan => (.nan, 0)
  | .inf s, .inf t => if s = t then (.inf s, 0) else (.nan, NV)
  | .inf s, _ | _, .inf s => (.inf s, 0)
  | .fin s m e _, .fin t n f _ =>
    if m = 0 && n = 0 && s == t then (zero s, 0)
    else
      let g := if e < f then e else f
      let z := signedInt s (m * 2 ^ (e - g).toNat) + signedInt t (n * 2 ^ (f - g).toNat)
      (if z = 0 then zero (md == .rm) else .fin (z < 0) z.natAbs g false, 0)

def mulN (x y : Num) : Num × Flags :=
  match x, y with
  | .nan, _ | _, .nan => (.nan, 0)
  | .inf s, .inf t => (.inf (s != t), 0)
  | .inf s, .fin t n _ _ => if n = 0 then (.nan, NV) else (.inf (s != t), 0)
  | .fin s m _ _, .inf t => if m = 0 then (.nan, NV) else (.inf (s != t), 0)
  | .fin s m e _, .fin t n f _ => (.fin (s != t) (m * n) (e + f) false, 0)

def fmaN (x y z : Num) (md : Rnd) : Num × Flags :=
  if isNan x || isNan y || isNan z then (.nan, 0)
  else
    let p := mulN x y
    let r := addN p.1 z md
    (r.1, p.2 ||| r.2)

/-- The four operations. -/
inductive FOp where | add | sub | mul | fma
  deriving DecidableEq, Repr

def exact (op : FOp) (x y z : Num) (md : Rnd) : Num × Flags :=
  match op with
  | .add => addN x y md
  | .sub => addN x (neg y) md
  | .mul => mulN x y
  | .fma => fmaN x y z md

def tfFmt : FTy → Fmt
  | .f32 => .f32
  | .f16 => .f16
  | .bf16 => .bf16
  | .f64 => .f64

def tgFmt : GTy → Fmt
  | .f32 => .f32
  | .f16 => .f16
  | .bf16 => .bf16

/-- The element of a format in a register value (R251). -/
def element (f : Fmt) (x : Nat) : Nat := x % 2 ^ Fmt.bits f

/-- FADD, FSUB, FMUL, FMA on patterns. -/
def arith (op : FOp) (f : Fmt) (a b c : Nat) (md : Rnd) (sat : Bool) (rb : Nat) : Nat × Flags :=
  let r := exact op (value f (element f a)) (value f (element f b)) (value f (element f c)) md
  let o := round f r.1 md sat rb
  (o.1, r.2 ||| o.2)

/-! ## Comparison (R257 to R260) -/

def patNan (f : Fmt) (x : Nat) : Bool := isNan (value f x)

/-- Order key in which −0 lies below +0. -/
def key (f : Fmt) (x : Nat) : Int :=
  let mag := x % 2 ^ (Fmt.bits f - 1)
  if x.testBit (Fmt.bits f - 1) then -(mag : Int) - 1 else mag

/-- Order key in which the zeros are equal. -/
def key0 (f : Fmt) (x : Nat) : Int :=
  let mag := x % 2 ^ (Fmt.bits f - 1)
  if x.testBit (Fmt.bits f - 1) then -(mag : Int) else mag

/-- FMIN (`hi` false) and FMAX (`hi` true). -/
def minmax (hi : Bool) (f : Fmt) (a0 b0 : Nat) : Nat :=
  let a := element f a0
  let b := element f b0
  if patNan f a then (if patNan f b then Fmt.nan f else b)
  else if patNan f b then a
  else if hi then (if key f a < key f b then b else a) else (if key f b < key f a then b else a)

def relation (c : FCmp) (un : Bool) (x y : Int) : Bool :=
  match c with
  | .eq => !un && decide (x = y)
  | .ne => !un && decide (x ≠ y)
  | .lt => !un && decide (x < y)
  | .le => !un && decide (x ≤ y)
  | .gt => !un && decide (x > y)
  | .ge => !un && decide (x ≥ y)
  | .uo => un
  | .or => !un
  | .equ => un || decide (x = y)
  | .neu => un || decide (x ≠ y)
  | .ltu => un || decide (x < y)
  | .leu => un || decide (x ≤ y)
  | .gtu => un || decide (x > y)
  | .geu => un || decide (x ≥ y)

def fcmp (c : FCmp) (f : Fmt) (a0 b0 : Nat) : Bool :=
  let a := element f a0
  let b := element f b0
  relation c (patNan f a || patNan f b) (key0 f a) (key0 f b)

/-- The relation of FSEL: C against +0; NaN holds for none (R259). -/
def fselHolds (c : Cmp) (f : Fmt) (x0 : Nat) : Bool :=
  let x := element f x0
  !patNan f x && Arith.compare c (key0 f x) 0

/-- The class of a pattern as the bit number of R260. -/
def classBit (f : Fmt) (x0 : Nat) : Nat :=
  let x := element f x0
  let s := x.testBit (Fmt.bits f - 1)
  let mag := x % 2 ^ (Fmt.bits f - 1)
  if patNan f x then (if s then 9 else 8)
  else if Fmt.maxMag f < mag then (if s then 0 else 7)
  else if mag = 0 then (if s then 3 else 4)
  else if mag < 2 ^ Fmt.frac f then (if s then 2 else 5)
  else (if s then 1 else 6)

/-- FRND (R261). -/
def toIntegral (f : Fmt) (x0 : Nat) (md : Rnd) : Nat × Flags :=
  match value f (element f x0) with
  | .nan => (Fmt.nan f, 0)
  | .inf s => (infPat f s, 0)
  | .fin s m e st =>
    let c := cut m e st 0
    let k := if up c s md 0 then c.k + 1 else c.k
    if c.tail then ((round f (.fin s k 0 false) .rn false 0).1, NX) else (element f x0, 0)

/-! ## Conversion (R251, R263) -/

def codeFmt : TyCode → Fmt
  | .f64 => .f64
  | .f16 => .f16
  | .bf16 => .bf16
  | .e4m3 => .e4m3
  | .e5m2 => .e5m2
  | .e2m1 => .e2m1
  | _ => .f32

def codeSigned : TyCode → Bool
  | .i8 | .i16 | .i32 | .i64 => true
  | _ => false

/-- The exact value of a source element. -/
def codeValue (t : TyCode) (x : Nat) : Num :=
  let e := x % 2 ^ TyCode.bits t
  if TyCode.isInt t then ofInt (Arith.val (codeSigned t) (TyCode.bits t) e)
  else if t = .e8m0 then value8 e else value (codeFmt t) e

/-- round to the destination type, as the element's own pattern. -/
def codeRound (t : TyCode) (x : Num) (md : Rnd) (sat : Bool) (rb : Nat) : Nat × Flags :=
  if TyCode.isInt t then roundInt (codeSigned t) (TyCode.bits t) x md
  else if t = .e8m0 then round8 x md else round (codeFmt t) x md sat rb

/-- An element's pattern as its register holds it: copies of the sign above a narrow signed integer (R251). -/
def widen (t : TyCode) (x : Nat) : Nat :=
  if codeSigned t && decide (TyCode.bits t < 32) then Arith.wrap 32 (Arith.val true (TyCode.bits t) x) else x

/-! ## Special functions (R219 to R221) -/

/-- Integer square root, one bit of the root at a time from bit `n` down. -/
def isqrtFrom (x : Nat) : Nat → Nat → Nat
  | 0, r => r
  | n + 1, r => isqrtFrom x n (if (r + 2 ^ n) * (r + 2 ^ n) ≤ x then r + 2 ^ n else r)

def isqrt (x : Nat) : Nat := isqrtFrom x (Nat.log2 x / 2 + 1) 0

def rcpN : Num → Num × Flags
  | .nan => (.nan, 0)
  | .inf s => (zero s, 0)
  | .fin s m e _ =>
    if m = 0 then (.inf s, DZ)
    else
      let b := Nat.log2 m + 64
      (.fin s (2 ^ b / m) (-e - b) (2 ^ b % m != 0), 0)

def sqrtN : Num → Num × Flags
  | .nan => (.nan, 0)
  | .inf s => if s then (.nan, NV) else (.inf false, 0)
  | .fin s m e _ =>
    if m = 0 then (zero s, 0)
    else if s then (.nan, NV)
    else
      let odd := (e % 2).toNat
      let x := m * 2 ^ (80 + odd)
      let r := isqrt x
      (.fin false r ((e - odd) / 2 - 40) (r * r != x), 0)

def rsqN : Num → Num × Flags
  | .nan => (.nan, 0)
  | .inf s => if s then (.nan, NV) else (zero false, 0)
  | .fin s m e _ =>
    if m = 0 then (.inf s, DZ)
    else if s then (.nan, NV)
    else
      let odd := (e % 2).toNat
      let y := m * 2 ^ odd
      let r := isqrt (2 ^ 160 / y)
      (.fin false r (-((e - odd) / 2) - 80) (r * r * y != 2 ^ 160), 0)

/-- T[j] of R219. -/
def expT : List Nat :=
  [0x80000000, 0x8164D1F4, 0x82CD8699, 0x843A28C4, 0x85AAC368, 0x871F6197, 0x88980E81, 0x8A14D575]
    ++ [0x8B95C1E4, 0x8D1ADF5B, 0x8EA4398B, 0x9031DC43, 0x91C3D374, 0x935A2B2F, 0x94F4EFA9, 0x96942D37]
    ++ [0x9837F052, 0x99E04593, 0x9B8D39BA, 0x9D3ED9A7, 0x9EF53261, 0xA0B05110, 0xA2704303, 0xA43515AE]
    ++ [0xA5FED6AA, 0xA7CD93B5, 0xA9A15AB5, 0xAB7A39B6, 0xAD583EEA, 0xAF3B78AD, 0xB123F582, 0xB311C413]
    ++ [0xB504F334, 0xB6FD91E3, 0xB8FBAF47, 0xBAFF5AB2, 0xBD08A39F, 0xBF1799B6, 0xC12C4CCA, 0xC346CCDA]
    ++ [0xC5672A11, 0xC78D74C9, 0xC9B9BD86, 0xCBEC14FF, 0xCE248C15, 0xD06333DB, 0xD2A81D92, 0xD4F35AAC]
    ++ [0xD744FCCB, 0xD99D15C2, 0xDBFBB798, 0xDE60F482, 0xE0CCDEEC, 0xE33F8973, 0xE5B906E7, 0xE8396A50]
    ++ [0xEAC0C6E8, 0xED4F301F, 0xEFE4B99C, 0xF281773C, 0xF5257D15, 0xF7D0DF73, 0xFA83B2DB, 0xFD3E0C0D]

def h1 : Nat := 0xb17217f8
def h2 : Nat := 1031764991
def h3 : Nat := 238388332
def hl : Nat := 26613026195688644983

/-- G[j] of R220. -/
def logG : List Nat :=
  [0x151D07EAE, 0x14AFD6A05, 0x1446F8656, 0x13E22CBCE, 0x138138138, 0x1323E34A3, 0x12C9FB4D8, 0x127350B88]
    ++ [0x121FB7812, 0x11CF06ADA, 0x118118118, 0x1135C8113, 0x10ECF56BE, 0x10A6810A7, 0x10624DD2F, 0x100000000]
    ++ [0x100000000, 0xFA232CF2, 0xF6603D98, 0xF2B9D648, 0xEF2EB720, 0xEBBDB2A6, 0xE865AC7B, 0xE525982B]
    ++ [0xE1FC780E, 0xDEE95C4D, 0xDBEB61EF, 0xD901B203, 0xD62B80D6, 0xD3680D37, 0xD0B69FCC, 0xCE168A77]
    ++ [0xCB8727C0, 0xC907DA4F, 0xC6980C6A, 0xC4372F85, 0xC1E4BBD6, 0xBFA02FE8, 0xBD691047, 0xBB3EE722]
    ++ [0xB92143FA, 0xB70FBB5A, 0xB509E68B, 0xB30F6353, 0xB11FD3B8, 0xAF3ADDC7, 0xAD602B58, 0xAB8F69E3]

/-- L[j] of R220. -/
def logL : List Int :=
  [(-7380305406480541977), (-6837163571183189265), (-6304885304138946669), (-5783044540841770622)]
    ++ [(-5271239803141122511), (-4769092338060404274), (-4276244432726941335), (-3792357898667624731)]
    ++ [(-3317112658718215307), (-2850205486199652511), (-2391348840381238002), (-1940269799277129360)]
    ++ [(-1496709094544411094), (-1060420210910576485), (-631168543508064272), 0]
    ++ [0, 616545557569716298, 1019780939849070304, 1416997660053146173]
    ++ [1808372743836417306, 2194075526737117871, 2574268085987171027, 2949105634030734787]
    ++ [3318736940910829303, 3683304641131410223, 4042945604672031628, 4397791215145289754]
    ++ [4747967663094189509, 5093596232871637533, 5434793552253043674, 5771671802269815578]
    ++ [6104338963349440801, 6432899008670321767, 6757452130737640389, 7078094886205576950]
    ++ [7394920362121792542, 7708018403043338988, 8017475682666680140, 8323375900183562710]
    ++ [8625799911666762844, 8924825822887961240, 9220529151883186502, 9512982931564385280]
    ++ [9802257808045677374, 10088422132374828158, 10371542107375434103, 10651681807055479348]

def tableAt (t : List Nat) (i : Nat) : Nat := t.getD i 0
def tableAtInt (t : List Int) (i : Nat) : Int := t.getD i 0

/-- floor(x·2^s) of a dyadic number ±m·2^e. -/
def floorScaled (s : Bool) (m : Nat) (e : Int) : Int :=
  if 0 ≤ e then signedInt s m * ((2 ^ e.toNat : Nat) : Int) else signedInt s m / ((2 ^ (-e).toNat : Nat) : Int)

def exp2N : Num → Num × Flags
  | .nan => (.nan, 0)
  | .inf s => (if s then zero false else .inf false, 0)
  | .fin s m e _ =>
    if m = 0 || (Nat.log2 m : Int) + e < -25 then
      let g : Int := if e < 0 then e - 32 else -32
      let z : Int := ((2 ^ (-g).toNat : Nat) : Int) + signedInt s (m * h1 * 2 ^ (e - 32 - g).toNat)
      (.fin false z.natAbs g false, 0)
    else if 200 < (Nat.log2 m : Int) + e then
      (if s then .fin false 1 (-100000) false else .fin false 1 100000 false, 0)
    else
      let x48 := floorScaled s m (e + 48)
      let n := x48 / ((2 ^ 48 : Nat) : Int)
      let f := (x48 % ((2 ^ 48 : Nat) : Int)).toNat
      let d := f % 2 ^ 42
      let q := h1 * d + h2 * d ^ 2 / 2 ^ 48 + h3 * d ^ 3 / 2 ^ 96
      (.fin false (tableAt expT (f / 2 ^ 42) * (2 ^ 80 + q)) (n - 111) false, 0)

/-- The series of log2f for k from 2 to 6 (R220). -/
def logSeries (v : Int) : Nat → Int → Int → Int
  | 0, _, s => s
  | n + 1, w, s =>
    let k : Int := 6 - n
    let w' := w * v / ((2 ^ 64 : Nat) : Int)
    logSeries v n w' (if k % 2 = 1 then s + w' / k else s - w' / k)

def log2N : Num → Num × Flags
  | .nan => (.nan, 0)
  | .inf s => if s then (.nan, NV) else (.inf false, 0)
  | .fin s m e _ =>
    if m = 0 then (.inf true, DZ)
    else if s then (.nan, NV)
    else
      let l := Nat.log2 m
      let ex : Int := (l : Int) + e + (if 3 * 2 ^ l ≤ 2 * m then 1 else 0)
      let sh : Int := e + 24 - ex
      let mm : Nat := if 0 ≤ sh then m * 2 ^ sh.toNat else m / 2 ^ (-sh).toNat
      let j := mm / 2 ^ 18 - 48
      let v : Int := ((mm * tableAt logG j : Nat) - (2 ^ 56 : Nat) : Int) * 256
      let y : Int := ex * ((2 ^ 64 : Nat) : Int) + tableAtInt logL j + (hl : Int) * logSeries v 5 v v / ((2 ^ 64 : Nat) : Int)
      (if y = 0 then zero false else .fin (y < 0) y.natAbs (-64) false, 0)

/-- The five functions of R221, R219, R220. -/
inductive Sfu where | rcp | rsq | sqrt | exp2 | log2
  deriving DecidableEq, Repr

def sfu (op : Sfu) (x : Nat) (md : Rnd) : Nat × Flags :=
  let n := value .f32 (x % 2 ^ 32)
  let r := match op with
    | .rcp => rcpN n
    | .rsq => rsqN n
    | .sqrt => sqrtN n
    | .exp2 => exp2N n
    | .log2 => log2N n
  let o := round .f32 r.1 md false 0
  (o.1, r.2 ||| o.2)

/-! ## The exact accumulator (R223 to R225) -/

open Sys2Proof.Machine (Ka)

def kadd (f : Fmt) (x : Nat) (a : Ka) : Ka :=
  match value f (element f x) with
  | .nan => { a with nan := true }
  | .inf s => if s then { a with ninf := true } else { a with pinf := true }
  | .fin s m e _ =>
    let k := a.k.toInt + signedInt s (m * 2 ^ (e + 149).toNat)
    { a with k := BitVec.ofInt 384 k, ovf := a.ovf || k < -((2 ^ 383 : Nat) : Int) || ((2 ^ 383 : Nat) : Int) ≤ k }

def kround (f : Fmt) (md : Rnd) (a : Ka) : Nat × Flags :=
  if a.nan || (a.pinf && a.ninf) || a.ovf then (Fmt.nan f, NV)
  else if a.pinf then (infPat f false, 0)
  else if a.ninf then (infPat f true, 0)
  else round f (.fin (a.k.toInt < 0) a.k.toInt.natAbs (-149) false) md false 0

def kimage (a : Ka) (i : Nat) : Word :=
  if i < 12 then BitVec.ofNat 32 (a.k.toNat / 2 ^ (32 * i))
  else if i = 12 then
    BitVec.ofNat 32 ((if a.pinf then 1 else 0) + (if a.ninf then 2 else 0) + (if a.nan then 4 else 0)
      + (if a.ovf then 8 else 0))
  else 0

def kunimage (w : Nat → Word) : Ka :=
  { k := BitVec.ofNat 384 ((List.range 12).foldl (fun acc i => acc + (w i).toNat * 2 ^ (32 * i)) 0)
    pinf := (w 12).getLsbD 0, ninf := (w 12).getLsbD 1, nan := (w 12).getLsbD 2, ovf := (w 12).getLsbD 3 }

end Sys2Proof.Fp
end

