-- ==== Sys2Proof/Machine/Table.lean ====
section
/-!
DEFINITION. Operations on tables: look up, store, remove. A table lists its entries in strictly rising key order and no
entry twice; a memory, besides, lists no byte equal to what an unlisted address reads as.
-/
namespace Sys2Proof.Machine

/-- The entry of key `k`. -/
def Table.find {α : Type} (k : Nat) : Table α → Option α
  | [] => none
  | (j, x) :: t => if j = k then some x else Table.find k t

/-- The entry of key `k`, or the default. -/
def Table.get {α : Type} (d : α) (k : Nat) (t : Table α) : α :=
  match Table.find k t with
  | some x => x
  | none => d

/-- Store `x` at key `k`, in order. -/
def Table.set {α : Type} (k : Nat) (x : α) : Table α → Table α
  | [] => [(k, x)]
  | (j, y) :: t => if k < j then (k, x) :: (j, y) :: t else if j = k then (k, x) :: t else (j, y) :: Table.set k x t

/-- Remove the entry of key `k`. -/
def Table.del {α : Type} (k : Nat) : Table α → Table α
  | [] => []
  | (j, y) :: t => if j = k then Table.del k t else (j, y) :: Table.del k t

/-- Replace the entry of key `k`, where there is one. -/
def Table.alter {α : Type} (k : Nat) (f : α → α) (t : Table α) : Table α :=
  match Table.find k t with
  | some x => Table.set k (f x) t
  | none => t

/-- Store a value where the default is what an unlisted key reads as: the default itself is not listed. -/
def Table.put {α : Type} [DecidableEq α] (d : α) (k : Nat) (x : α) (t : Table α) : Table α :=
  if x = d then Table.del k t else Table.set k x t

def Table.keys {α : Type} (t : Table α) : List Nat := t.map Prod.fst

/-- Keys strictly rising. -/
def Table.sorted {α : Type} : Table α → Bool
  | [] => true
  | (k, _) :: t => (match t with | [] => true | (j, _) :: _ => decide (k < j)) && Table.sorted t

/-- The canonical form of a memory whose unlisted bytes read as `d`. -/
def Memory.wfOf (d : Byte) (m : Table Byte) : Bool := Table.sorted m && m.all fun c => c.2 != d

/-- The canonical form of the device's memories, whose unlisted bytes read as 0. -/
def Memory.wf (m : Table Byte) : Bool := Memory.wfOf 0 m

/-- One byte (an unlisted address reads as 0: log 2, log 3). -/
def Memory.read (m : Table Byte) (a : Nat) : Byte := Table.get 0 a m

/-- Write one byte, keeping the canonical form. -/
def Memory.write (m : Table Byte) (a : Nat) (x : Byte) : Table Byte := Table.put 0 a x m

/-- `n` bytes from address `a` up. -/
def Memory.bytes (m : Table Byte) (a : Nat) : Nat → List Byte
  | 0 => []
  | n + 1 => Memory.read m a :: Memory.bytes m (a + 1) n

/-- Bytes written from address `a` up. -/
def Memory.store (m : Table Byte) (a : Nat) : List Byte → Table Byte
  | [] => m
  | x :: xs => Memory.store (Memory.write m a x) (a + 1) xs

/-! ## Lists kept as sets -/

/-- Add a number to a rising list of numbers. -/
def NatSet.add (k : Nat) : List Nat → List Nat
  | [] => [k]
  | j :: t => if k < j then k :: j :: t else if j = k then j :: t else j :: NatSet.add k t

def NatSet.del (k : Nat) (t : List Nat) : List Nat := t.filter fun j => j != k

end Sys2Proof.Machine
end

