-- ==== Sys2Proof/Machine/Uses.lean ====
section
/-!
DEFINITION. What each instruction names: its guard, the vector, scalar and tile registers it reads and writes, and its
condition-bit source, field by field (spec/02_clauses_and_formats.md R44 to R46; spec/03_opcode_map.md R61 to R74).
RESERVED_REG, the holds of R37, POISON by error mark and the operand log are computed from it.
-/
namespace Sys2Proof.Machine

open Sys2Proof.Forms

/-- The guard of a short format (R44). -/
def always : Guard := ⟨false, 7⟩

/-- What an instruction names. A register field is a pair of first register and count. -/
structure Uses where
  g : Guard := always
  /-- Vector sources of the lane itself, in the order A, B, C, D (R440). -/
  v : List (Nat × Nat) := []
  /-- Vector sources read in another lane (R238, R268). -/
  xv : List (Nat × Nat) := []
  /-- Vector destinations. -/
  vw : List (Nat × Nat) := []
  s : List (Nat × Nat) := []
  sw : List (Nat × Nat) := []
  t : List Nat := []
  /-- Condition-bit source (R440 CMASK). -/
  cond : Option Pred := none
  deriving DecidableEq, Repr

/-- A register, or a pair. -/
def rr {n : Nat} (wide : Bool) (r : Fin n) : Nat × Nat := (r.val, if wide then 2 else 1)

def srcV (wide : Bool) : VSrc → List (Nat × Nat)
  | .vec r => [rr wide r]
  | .sca _ => []

def srcS (wide : Bool) : VSrc → List (Nat × Nat)
  | .vec _ => []
  | .sca r => [rr wide r]

def special64 (n : Fin 1024) : Bool :=
  match specReg n with
  | some r => SpecReg.is64 r
  | none => false

/-- What an instruction names; the device's other steps name nothing. -/
def uses : Instr → Uses
  | .smov o => { g := always, s := [rr (Wd.is64 o.ty) o.a], sw := [rr (Wd.is64 o.ty) o.d] }
  | .smovi o => { g := o.g, s := (if o.ty = .hi then [rr false o.d] else []), sw := [rr false o.d] }
  | .saddS o => { g := always, s := [rr (Wd.is64 o.ty) o.a, rr (Wd.is64 o.ty) o.d], sw := [rr (Wd.is64 o.ty) o.d] }
  | .saddSR o => { g := o.g, s := [rr (Wd.is64 o.ty) o.a, rr (Wd.is64 o.ty) o.s], sw := [rr (Wd.is64 o.ty) o.d] }
  | .saddSI o => { g := o.g, s := [rr (ITy.is64 o.ty) o.a], sw := [rr (ITy.is64 o.ty) o.d] }
  | .ssubS o => { g := always, s := [rr (Wd.is64 o.ty) o.a, rr (Wd.is64 o.ty) o.d], sw := [rr (Wd.is64 o.ty) o.d] }
  | .ssubSR o => { g := o.g, s := [rr (Wd.is64 o.ty) o.a, rr (Wd.is64 o.ty) o.s], sw := [rr (Wd.is64 o.ty) o.d] }
  | .ssubSI o => { g := o.g, s := [rr (ITy.is64 o.ty) o.a], sw := [rr (ITy.is64 o.ty) o.d] }
  | .smulS o => { g := always, s := [rr (Wd.is64 o.ty) o.a, rr (Wd.is64 o.ty) o.d], sw := [rr (Wd.is64 o.ty) o.d] }
  | .smulSR o => { g := o.g, s := [rr (Wd.is64 o.ty) o.a, rr (Wd.is64 o.ty) o.s], sw := [rr (Wd.is64 o.ty) o.d] }
  | .smulSI o => { g := o.g, s := [rr (ITy.is64 o.ty) o.a], sw := [rr (ITy.is64 o.ty) o.d] }
  | .smulhS o => { g := always, s := [rr (ITy.is64 o.ty) o.a, rr (ITy.is64 o.ty) o.d], sw := [rr (ITy.is64 o.ty) o.d] }
  | .smulhSR o => { g := o.g, s := [rr (ITy.is64 o.ty) o.a, rr (ITy.is64 o.ty) o.s], sw := [rr (ITy.is64 o.ty) o.d] }
  | .sdivS o => { g := always, s := [rr (ITy.is64 o.ty) o.a, rr (ITy.is64 o.ty) o.d], sw := [rr (ITy.is64 o.ty) o.d] }
  | .sdivSR o => { g := o.g, s := [rr (ITy.is64 o.ty) o.a, rr (ITy.is64 o.ty) o.s], sw := [rr (ITy.is64 o.ty) o.d] }
  | .sdivSI o => { g := o.g, s := [rr (ITy.is64 o.ty) o.a], sw := [rr (ITy.is64 o.ty) o.d] }
  | .sremS o => { g := always, s := [rr (ITy.is64 o.ty) o.a, rr (ITy.is64 o.ty) o.d], sw := [rr (ITy.is64 o.ty) o.d] }
  | .sremSR o => { g := o.g, s := [rr (ITy.is64 o.ty) o.a, rr (ITy.is64 o.ty) o.s], sw := [rr (ITy.is64 o.ty) o.d] }
  | .sremSI o => { g := o.g, s := [rr (ITy.is64 o.ty) o.a], sw := [rr (ITy.is64 o.ty) o.d] }
  | .sandS o => { g := always, s := [rr (Wd.is64 o.ty) o.a, rr (Wd.is64 o.ty) o.d], sw := [rr (Wd.is64 o.ty) o.d] }
  | .sandSR o => { g := o.g, s := [rr (Wd.is64 o.ty) o.a, rr (Wd.is64 o.ty) o.s], sw := [rr (Wd.is64 o.ty) o.d] }
  | .sandSI o => { g := o.g, s := [rr (ITy.is64 o.ty) o.a], sw := [rr (ITy.is64 o.ty) o.d] }
  | .sorS o => { g := always, s := [rr (Wd.is64 o.ty) o.a, rr (Wd.is64 o.ty) o.d], sw := [rr (Wd.is64 o.ty) o.d] }
  | .sorSR o => { g := o.g, s := [rr (Wd.is64 o.ty) o.a, rr (Wd.is64 o.ty) o.s], sw := [rr (Wd.is64 o.ty) o.d] }
  | .sorSI o => { g := o.g, s := [rr (ITy.is64 o.ty) o.a], sw := [rr (ITy.is64 o.ty) o.d] }
  | .sxorS o => { g := always, s := [rr (Wd.is64 o.ty) o.a, rr (Wd.is64 o.ty) o.d], sw := [rr (Wd.is64 o.ty) o.d] }
  | .sxorSR o => { g := o.g, s := [rr (Wd.is64 o.ty) o.a, rr (Wd.is64 o.ty) o.s], sw := [rr (Wd.is64 o.ty) o.d] }
  | .sxorSI o => { g := o.g, s := [rr (ITy.is64 o.ty) o.a], sw := [rr (ITy.is64 o.ty) o.d] }
  | .sshlS o => { g := always, s := [rr false o.a, rr (Wd.is64 o.ty) o.d], sw := [rr (Wd.is64 o.ty) o.d] }
  | .sshlSR o => { g := o.g, s := [rr (Wd.is64 o.ty) o.a, rr false o.s], sw := [rr (Wd.is64 o.ty) o.d] }
  | .sshlSI o => { g := o.g, s := [rr (ITy.is64 o.ty) o.a], sw := [rr (ITy.is64 o.ty) o.d] }
  | .sshrS o => { g := always, s := [rr false o.a, rr (Wd.is64 o.ty) o.d], sw := [rr (Wd.is64 o.ty) o.d] }
  | .sshrSR o => { g := o.g, s := [rr (Wd.is64 o.ty) o.a, rr false o.s], sw := [rr (Wd.is64 o.ty) o.d] }
  | .sshrSI o => { g := o.g, s := [rr (ITy.is64 o.ty) o.a], sw := [rr (ITy.is64 o.ty) o.d] }
  | .ssraS o => { g := always, s := [rr false o.a, rr (Wd.is64 o.ty) o.d], sw := [rr (Wd.is64 o.ty) o.d] }
  | .ssraSR o => { g := o.g, s := [rr (Wd.is64 o.ty) o.a, rr false o.s], sw := [rr (Wd.is64 o.ty) o.d] }
  | .ssraSI o => { g := o.g, s := [rr (ITy.is64 o.ty) o.a], sw := [rr (ITy.is64 o.ty) o.d] }
  | .scmpI32S o => { g := always, s := [rr false o.a, rr false o.d], sw := [rr false o.d] }
  | .scmpI32SR o => { g := o.g, s := [rr false o.a, rr false o.s], sw := [rr false o.d] }
  | .scmpI32SI o => { g := o.g, s := [rr false o.a], sw := [rr false o.d] }
  | .scmpN32S o => { g := always, s := [rr false o.a, rr false o.d], sw := [rr false o.d] }
  | .scmpN32SR o => { g := o.g, s := [rr false o.a, rr false o.s], sw := [rr false o.d] }
  | .scmpN32SI o => { g := o.g, s := [rr false o.a], sw := [rr false o.d] }
  | .ssel o => { g := o.g, s := [rr (Wd.is64 o.ty) o.d, rr (Wd.is64 o.ty) o.a, rr (Wd.is64 o.ty) o.s], sw := [rr (Wd.is64 o.ty) o.d] }
  | .sldc o => { g := o.g, s := [rr false o.a], sw := [rr (Wd.is64 o.ty) o.d] }
  | .srdlane o => { g := o.g, s := [rr false o.a], sw := [rr (Wd.is64 o.ty) o.d], xv := [rr (Wd.is64 o.ty) o.c] }
  | .smovt o => { g := always, s := [rr false o.a], t := [o.t.val] }
  | .srd o => { g := always, sw := [rr (special64 o.num) o.r] }
  | .swr o => { g := always, s := [rr false o.r] }
  | .movV o => { g := always, v := [rr (Wd.is64 o.ty) o.a], vw := [rr (Wd.is64 o.ty) o.d] }
  | .movVR o => { g := o.g, v := [rr (Wd.is64 o.ty) o.a], vw := [rr (Wd.is64 o.ty) o.d] }
  | .movi o => { g := o.g, v := (if o.ty = .hi then [rr false o.d] else []), vw := [rr false o.d] }
  | .vmovs o => { g := o.g, vw := [rr (Wd.is64 o.ty) o.d], s := [rr (Wd.is64 o.ty) o.s] }
  | .iaddV o => { g := always, v := [rr (ITy.is64 o.ty) o.a, rr (ITy.is64 o.ty) o.b], vw := [rr (ITy.is64 o.ty) o.d] }
  | .iaddVR o => { g := o.g, v := [rr (ITy.is64 o.ty) o.a] ++ srcV (ITy.is64 o.ty) o.b, vw := [rr (ITy.is64 o.ty) o.d], s := srcS (ITy.is64 o.ty) o.b }
  | .iaddVI o => { g := o.g, v := [rr (ITy.is64 o.ty) o.a], vw := [rr (ITy.is64 o.ty) o.d] }
  | .iaddc o => { g := o.g, v := [rr (ITy.is64 o.ty) o.a] ++ srcV (ITy.is64 o.ty) o.b, vw := [rr (ITy.is64 o.ty) o.d], s := srcS (ITy.is64 o.ty) o.b, cond := some ⟨false, o.k.castSucc⟩ }
  | .isubV o => { g := always, v := [rr (ITy.is64 o.ty) o.a, rr (ITy.is64 o.ty) o.b], vw := [rr (ITy.is64 o.ty) o.d] }
  | .isubVR o => { g := o.g, v := [rr (ITy.is64 o.ty) o.a] ++ srcV (ITy.is64 o.ty) o.b, vw := [rr (ITy.is64 o.ty) o.d], s := srcS (ITy.is64 o.ty) o.b }
  | .isubVI o => { g := o.g, v := [rr (ITy.is64 o.ty) o.a], vw := [rr (ITy.is64 o.ty) o.d] }
  | .imulV o => { g := always, v := [rr (ITy.is64 o.ty) o.a, rr (ITy.is64 o.ty) o.b], vw := [rr (ITy.is64 o.ty) o.d] }
  | .imulVR o => { g := o.g, v := [rr (ITy.is64 o.ty) o.a] ++ srcV (ITy.is64 o.ty) o.b, vw := [rr (ITy.is64 o.ty) o.d], s := srcS (ITy.is64 o.ty) o.b }
  | .imulVI o => { g := o.g, v := [rr (ITy.is64 o.ty) o.a], vw := [rr (ITy.is64 o.ty) o.d] }
  | .imulhV o => { g := always, v := [rr (ITy.is64 o.ty) o.a, rr (ITy.is64 o.ty) o.b], vw := [rr (ITy.is64 o.ty) o.d] }
  | .imulhVR o => { g := o.g, v := [rr (ITy.is64 o.ty) o.a] ++ srcV (ITy.is64 o.ty) o.b, vw := [rr (ITy.is64 o.ty) o.d], s := srcS (ITy.is64 o.ty) o.b }
  | .imad o => { g := o.g, v := [rr (ITy.is64 o.ty) o.a] ++ srcV (ITy.is64 o.ty) o.b ++ [rr (ITy.is64 o.ty) o.c], vw := [rr (ITy.is64 o.ty) o.d], s := srcS (ITy.is64 o.ty) o.b }
  | .iminV o => { g := always, v := [rr (ITy.is64 o.ty) o.a, rr (ITy.is64 o.ty) o.b], vw := [rr (ITy.is64 o.ty) o.d] }
  | .iminVR o => { g := o.g, v := [rr (ITy.is64 o.ty) o.a] ++ srcV (ITy.is64 o.ty) o.b, vw := [rr (ITy.is64 o.ty) o.d], s := srcS (ITy.is64 o.ty) o.b }
  | .iminVI o => { g := o.g, v := [rr (ITy.is64 o.ty) o.a], vw := [rr (ITy.is64 o.ty) o.d] }
  | .imaxV o => { g := always, v := [rr (ITy.is64 o.ty) o.a, rr (ITy.is64 o.ty) o.b], vw := [rr (ITy.is64 o.ty) o.d] }
  | .imaxVR o => { g := o.g, v := [rr (ITy.is64 o.ty) o.a] ++ srcV (ITy.is64 o.ty) o.b, vw := [rr (ITy.is64 o.ty) o.d], s := srcS (ITy.is64 o.ty) o.b }
  | .imaxVI o => { g := o.g, v := [rr (ITy.is64 o.ty) o.a], vw := [rr (ITy.is64 o.ty) o.d] }
  | .iabsV o => { g := always, v := [rr (ITy.is64 o.ty) o.a], vw := [rr (ITy.is64 o.ty) o.d] }
  | .iabsVR o => { g := o.g, v := [rr (ITy.is64 o.ty) o.a], vw := [rr (ITy.is64 o.ty) o.d] }
  | .inegV o => { g := always, v := [rr (ITy.is64 o.ty) o.a], vw := [rr (ITy.is64 o.ty) o.d] }
  | .inegVR o => { g := o.g, v := [rr (ITy.is64 o.ty) o.a], vw := [rr (ITy.is64 o.ty) o.d] }
  | .isad o => { g := o.g, v := [rr (ITy.is64 o.ty) o.a] ++ srcV (ITy.is64 o.ty) o.b ++ [rr (ITy.is64 o.ty) o.c], vw := [rr (ITy.is64 o.ty) o.d], s := srcS (ITy.is64 o.ty) o.b }
  | .icmpVR o => { g := o.g, v := [rr (ITy.is64 o.ty) o.a] ++ srcV (ITy.is64 o.ty) o.b, s := srcS (ITy.is64 o.ty) o.b }
  | .icmpVI o => { g := o.g, v := [rr (ITy.is64 o.ty) o.a] }
  | .isel o => { g := o.g, v := [rr (Wd.is64 o.ty) o.a] ++ srcV (Wd.is64 o.ty) o.b, vw := [rr (Wd.is64 o.ty) o.d], s := srcS (Wd.is64 o.ty) o.b, cond := some o.p }
  | .shlV o => { g := always, v := [rr (Wd.is64 o.ty) o.a, rr false o.b], vw := [rr (Wd.is64 o.ty) o.d] }
  | .shlVR o => { g := o.g, v := [rr (Wd.is64 o.ty) o.a] ++ srcV false o.b, vw := [rr (Wd.is64 o.ty) o.d], s := srcS false o.b }
  | .shlVI o => { g := o.g, v := [rr (Wd.is64 o.ty) o.a], vw := [rr (Wd.is64 o.ty) o.d] }
  | .shrV o => { g := always, v := [rr (Wd.is64 o.ty) o.a, rr false o.b], vw := [rr (Wd.is64 o.ty) o.d] }
  | .shrVR o => { g := o.g, v := [rr (Wd.is64 o.ty) o.a] ++ srcV false o.b, vw := [rr (Wd.is64 o.ty) o.d], s := srcS false o.b }
  | .shrVI o => { g := o.g, v := [rr (Wd.is64 o.ty) o.a], vw := [rr (Wd.is64 o.ty) o.d] }
  | .sraV o => { g := always, v := [rr (Wd.is64 o.ty) o.a, rr false o.b], vw := [rr (Wd.is64 o.ty) o.d] }
  | .sraVR o => { g := o.g, v := [rr (Wd.is64 o.ty) o.a] ++ srcV false o.b, vw := [rr (Wd.is64 o.ty) o.d], s := srcS false o.b }
  | .sraVI o => { g := o.g, v := [rr (Wd.is64 o.ty) o.a], vw := [rr (Wd.is64 o.ty) o.d] }
  | .rotV o => { g := always, v := [rr (Wd.is64 o.ty) o.a, rr false o.b], vw := [rr (Wd.is64 o.ty) o.d] }
  | .rotVR o => { g := o.g, v := [rr (Wd.is64 o.ty) o.a] ++ srcV false o.b, vw := [rr (Wd.is64 o.ty) o.d], s := srcS false o.b }
  | .rotVI o => { g := o.g, v := [rr (Wd.is64 o.ty) o.a], vw := [rr (Wd.is64 o.ty) o.d] }
  | .lmux o => { g := o.g, v := [rr (Wd.is64 o.ty) o.a] ++ srcV (Wd.is64 o.ty) o.b ++ [rr (Wd.is64 o.ty) o.c], vw := [rr (Wd.is64 o.ty) o.d], s := srcS (Wd.is64 o.ty) o.b }
  | .bfx o => { g := o.g, v := [rr (ITy.is64 o.ty) o.a], vw := [rr (ITy.is64 o.ty) o.d] }
  | .bfi o => { g := o.g, v := [rr (Wd.is64 o.ty) o.a, rr (Wd.is64 o.ty) o.b], vw := [rr (Wd.is64 o.ty) o.d] }
  | .popcV o => { g := always, v := [rr (Wd.is64 o.ty) o.a], vw := [rr false o.d] }
  | .popcVR o => { g := o.g, v := [rr (Wd.is64 o.ty) o.a], vw := [rr false o.d] }
  | .clzV o => { g := always, v := [rr (Wd.is64 o.ty) o.a], vw := [rr false o.d] }
  | .clzVR o => { g := o.g, v := [rr (Wd.is64 o.ty) o.a], vw := [rr false o.d] }
  | .brevV o => { g := always, v := [rr (Wd.is64 o.ty) o.a], vw := [rr (Wd.is64 o.ty) o.d] }
  | .brevVR o => { g := o.g, v := [rr (Wd.is64 o.ty) o.a], vw := [rr (Wd.is64 o.ty) o.d] }
  | .bytep o => { g := o.g, v := [rr false o.a, rr false o.b], vw := [rr false o.d] }
  | .faddV o => { g := always, v := [rr (FTy.is64 o.ty) o.a, rr (FTy.is64 o.ty) o.b], vw := [rr (FTy.is64 o.ty) o.d] }
  | .faddVR o => { g := o.g, v := [rr (FTy.is64 o.ty) o.a] ++ srcV (FTy.is64 o.ty) o.b, vw := [rr (FTy.is64 o.ty) o.d], s := srcS (FTy.is64 o.ty) o.b }
  | .fsubV o => { g := always, v := [rr (FTy.is64 o.ty) o.a, rr (FTy.is64 o.ty) o.b], vw := [rr (FTy.is64 o.ty) o.d] }
  | .fsubVR o => { g := o.g, v := [rr (FTy.is64 o.ty) o.a] ++ srcV (FTy.is64 o.ty) o.b, vw := [rr (FTy.is64 o.ty) o.d], s := srcS (FTy.is64 o.ty) o.b }
  | .fmulV o => { g := always, v := [rr (FTy.is64 o.ty) o.a, rr (FTy.is64 o.ty) o.b], vw := [rr (FTy.is64 o.ty) o.d] }
  | .fmulVR o => { g := o.g, v := [rr (FTy.is64 o.ty) o.a] ++ srcV (FTy.is64 o.ty) o.b, vw := [rr (FTy.is64 o.ty) o.d], s := srcS (FTy.is64 o.ty) o.b }
  | .fma o => { g := o.g, v := [rr (FTy.is64 o.ty) o.a] ++ srcV (FTy.is64 o.ty) o.b ++ [rr (FTy.is64 o.ty) o.c], vw := [rr (FTy.is64 o.ty) o.d], s := srcS (FTy.is64 o.ty) o.b }
  | .fminV o => { g := always, v := [rr (FTy.is64 o.ty) o.a, rr (FTy.is64 o.ty) o.b], vw := [rr (FTy.is64 o.ty) o.d] }
  | .fminVR o => { g := o.g, v := [rr (FTy.is64 o.ty) o.a] ++ srcV (FTy.is64 o.ty) o.b, vw := [rr (FTy.is64 o.ty) o.d], s := srcS (FTy.is64 o.ty) o.b }
  | .fmaxV o => { g := always, v := [rr (FTy.is64 o.ty) o.a, rr (FTy.is64 o.ty) o.b], vw := [rr (FTy.is64 o.ty) o.d] }
  | .fmaxVR o => { g := o.g, v := [rr (FTy.is64 o.ty) o.a] ++ srcV (FTy.is64 o.ty) o.b, vw := [rr (FTy.is64 o.ty) o.d], s := srcS (FTy.is64 o.ty) o.b }
  | .fcmp o => { g := o.g, v := [rr (FTy.is64 o.ty) o.a] ++ srcV (FTy.is64 o.ty) o.b, s := srcS (FTy.is64 o.ty) o.b }
  | .fsel o => { g := o.g, v := [rr (FTy.is64 o.ty) o.a] ++ srcV (FTy.is64 o.ty) o.b ++ [rr (FTy.is64 o.ty) o.c], vw := [rr (FTy.is64 o.ty) o.d], s := srcS (FTy.is64 o.ty) o.b }
  | .fclass o => { g := o.g, v := [rr (FTy.is64 o.ty) o.a] }
  | .frndV o => { g := always, v := [rr (FTy.is64 o.ty) o.a], vw := [rr (FTy.is64 o.ty) o.d] }
  | .frndVR o => { g := o.g, v := [rr (FTy.is64 o.ty) o.a], vw := [rr (FTy.is64 o.ty) o.d] }
  | .cvt o => { g := o.g, v := [rr (TyCode.is64 o.src) o.a], vw := [rr (TyCode.is64 o.dst) o.d] }
  | .cvtsr o => { g := o.g, v := [rr (TyCode.is64 o.src) o.a], vw := [rr (TyCode.is64 o.dst) o.d] }
  | .pack o => { g := o.g, v := [rr false o.a] ++ srcV false o.b ++ [rr false o.d], vw := [rr false o.d], s := srcS false o.b }
  | .unpack o => { g := o.g, v := [rr false o.a], vw := [rr false o.d] }
  | .rcpV o => { g := always, v := [rr false o.a], vw := [rr false o.d] }
  | .rcpVR o => { g := o.g, v := [rr false o.a], vw := [rr false o.d] }
  | .rsqV o => { g := always, v := [rr false o.a], vw := [rr false o.d] }
  | .rsqVR o => { g := o.g, v := [rr false o.a], vw := [rr false o.d] }
  | .sqrtV o => { g := always, v := [rr false o.a], vw := [rr false o.d] }
  | .sqrtVR o => { g := o.g, v := [rr false o.a], vw := [rr false o.d] }
  | .exp2V o => { g := always, v := [rr false o.a], vw := [rr false o.d] }
  | .exp2VR o => { g := o.g, v := [rr false o.a], vw := [rr false o.d] }
  | .log2V o => { g := always, v := [rr false o.a], vw := [rr false o.d] }
  | .log2VR o => { g := o.g, v := [rr false o.a], vw := [rr false o.d] }
  | .srngV o => { g := always, v := [rr false o] }
  | .srngVR o => { g := o.g, v := [rr false o.a] ++ srcV false o.b, s := srcS false o.b }
  | .xpullV o => { g := always, v := [rr false o.b], vw := [rr (Wd.is64 o.ty) o.d], xv := [rr (Wd.is64 o.ty) o.a] }
  | .xpullVR o => { g := o.g, v := srcV false o.b, vw := [rr (Wd.is64 o.ty) o.d], s := srcS false o.b, xv := [rr (Wd.is64 o.ty) o.a] }
  | .xpush o => { g := o.g, v := [rr (Wd.is64 o.ty) o.a] ++ srcV false o.b, vw := [rr (Wd.is64 o.ty) o.d], s := srcS false o.b }
  | .xbcastVR o => { g := o.g, vw := [rr (Wd.is64 o.ty) o.d], s := [rr false o.s], xv := [rr (Wd.is64 o.ty) o.a] }
  | .xbcastVI o => { g := o.g, vw := [rr (Wd.is64 o.ty) o.d], xv := [rr (Wd.is64 o.ty) o.a] }
  | .xballot o => { g := o.g, sw := [(o.s.val, 2)], cond := some o.p }
  | .xany o => { g := o.g, cond := some o.p }
  | .xall o => { g := o.g, cond := some o.p }
  | .xpfx o => { g := o.g, v := [rr (ITy.is64 o.ty) o.a], vw := [rr (ITy.is64 o.ty) o.d] }
  | .kclr => { g := always }
  | .kaddV o => { g := always, v := [rr false o.a] }
  | .kaddVR o => { g := o.g, v := [rr false o.a] }
  | .krnd o => { g := o.g, vw := [rr false o.d] }
  | .kscan o => { g := o.g, v := [rr false o.a], vw := [rr false o.d] }
  | .ksave o => { g := o.g, sw := [(o.s.val, 16)] }
  | .kload o => { g := o.g, s := [(o.s.val, 16)] }
  | .ldNarrow o => { g := o.g, v := [(o.a.val, 2)], vw := [(o.d.val, 1)], s := [(o.s.val, 2)] }
  | .ldWide o => { g := o.g, v := [(o.a.val, 2)], vw := [(o.d.val, WTy.regs o.ty)], s := [(o.s.val, 2)] }
  | .stNarrow o => { g := o.g, v := [(o.a.val, 2), (o.d.val, STy.regs o.ty)], s := [(o.s.val, 2)] }
  | .stB128 o => { g := o.g, v := [(o.a.val, 2), (o.d.val, 4)], s := [(o.s.val, 2)] }
  | .ldsNarrow o => { g := o.g, v := [(o.a.val, 1)], vw := [(o.d.val, 1)], s := [(o.s.val, 1)] }
  | .ldsWide o => { g := o.g, v := [(o.a.val, 1)], vw := [(o.d.val, WTy.regs o.ty)], s := [(o.s.val, 1)] }
  | .stsNarrow o => { g := o.g, v := [(o.a.val, 1), (o.d.val, STy.regs o.ty)], s := [(o.s.val, 1)] }
  | .stsB128 o => { g := o.g, v := [(o.a.val, 1), (o.d.val, 4)], s := [(o.s.val, 1)] }
  | .atom o => { g := o.g, v := [(o.a.val, 2), (o.b.val, (if o.op = .cas then 2 else 1) * AW.regs o.aw)], vw := [(o.d.val, AW.regs o.aw)], s := [(o.s.val, 2)] }
  | .red o => { g := o.g, v := [(o.a.val, 2), (o.b.val, (if o.op = .cas then 2 else 1) * AW.regs o.aw)], s := [(o.s.val, 2)] }
  | .atomr o => { g := o.g, v := [(o.a.val, 2), (o.b.val, (if o.op = .cas then 2 else 1) * AW.regs o.aw)], vw := [(o.d.val, AW.regs o.aw)], s := [(o.s.val, 2)] }
  | .ldr o => { g := o.g, v := [(o.a.val, 2)], vw := [(o.d.val, WTy.regs o.ty)], s := [(o.s.val, 2)] }
  | .str o => { g := o.g, v := [(o.a.val, 2), (o.d.val, WTy.regs o.ty)], s := [(o.s.val, 2)] }
  | .strStrm o => { g := o.g, v := [(o.a.val, 2), (o.d.val, WTy.regs o.ty)], s := [(o.s.val, 2)] }
  | .pref o => { g := o.g, v := [(o.a.val, 2)], s := [(o.s.val, 2)] }
  | .prefb o => { g := o.g, v := [(o.a.val, 2), (o.b.val, 1)], s := [(o.s.val, 2)] }
  | .cflush o => { g := o.g, v := [(o.a.val, 2)], s := [(o.s.val, 2)] }
  | .cinv o => { g := o.g, v := [(o.a.val, 2)], s := [(o.s.val, 2)] }
  | .gcvt o => { g := o.g, v := [(o.a.val, 2)], vw := [(o.d.val, 2)], s := [(o.s.val, 2)] }
  | .gtest o => { g := o.g, v := [(o.a.val, 2)], vw := [(o.d.val, 1)], s := [(o.s.val, 2)] }
  | .tld o => { g := o.g, s := [(o.a.val, 2), (o.s.val, 1)], t := [o.t.val] }
  | .tst o => { g := o.g, s := [(o.a.val, 2), (o.s.val, 1)], t := [o.t.val] }
  | .tzero o => { g := always, t := [o.t.val] }
  | .tfmt o => { g := always, s := [(o.a.val, 1)] }
  | .mma o => { g := always, s := [(o.a.val, 1)] }
  | .macq o => { g := always, s := [(o.a.val, 1)] }
  | .mrel o => { g := always, s := [(o.a.val, 1)] }
  | .mwait o => { g := always, s := [(o.a.val, 1)] }
  | .ard o => { g := always, s := [(o.a.val, 1)], t := [o.t.val] }
  | .awr o => { g := always, s := [(o.a.val, 1)], t := [o.t.val] }
  | .mreset o => { g := always, s := [(o.a.val, 1)] }
  | .cpy o => { g := o.g, s := [(o.a.val, 2), (o.b.val, 2), (o.c.val, if o.cw = none then 1 else 4)] }
  | .cpy2 o => { g := o.g, s := [(o.a.val, 2), (o.b.val, 2), (o.c.val, if o.cw = none then 1 else 4)] }
  | .cpyt o => { g := o.g, s := [(o.a.val, 2), (o.b.val, 2), (o.c.val, if o.cw = none then 1 else 4)] }
  | .cpyg o => { g := o.g, s := [(o.a.val, 2), (o.b.val, 2), (o.c.val, if o.cw = none then 1 else 4)] }
  | .cpys o => { g := o.g, s := [(o.a.val, 2), (o.b.val, 2), (o.c.val, if o.cw = none then 1 else 4)] }
  | .cfill o => { g := o.g, s := [(o.a.val, 2), (o.b.val, 1), (o.c.val, if o.cw = none then 1 else 4)] }
  | .pkload o => { g := o.g, s := [(o.a.val, 1), (o.b.val, 1)] }
  | .pkq o => { g := o.g, s := [(o.a.val, 1), (o.b.val, 1)] }
  | .pku o => { g := o.g, s := [(o.a.val, 1), (o.b.val, 1)] }
  | .pkstat o => { g := o.g, s := [(o.a.val, 1), (o.b.val, 1)] }
  | .spawn o => { g := o.g, v := [(o.v.val, 8)] }
  | .take o => { g := o.g, vw := [(o.v.val, 8)] }
  | .launch o => { g := o.g, s := [(o.a.val, 2), (o.b.val, 1)] }
  | .cbset o => { g := o.g, s := [(o.a.val, 2), (o.b.val, 1)] }
  | .cbwait o => { g := o.g, s := [(o.a.val, 2), (o.b.val, 1), (o.c.val, 1)] }
  | .bra o => { g := o.g }
  | .brc o => { g := o.g, s := [(o.c.val, 1)] }
  | .jmpx o => { g := o.g, v := [(o.v.val, 2)] }
  | .jtab o => { g := o.g, v := [(o.v.val, 1)], s := [(o.c.val, 2)] }
  | .call o => { g := o.g, vw := [(o.v.val, 2)] }
  | .callx o => { g := o.g, v := [(o.v.val, 2)], vw := [(o.v.val + 2, 2)] }
  | .ret o => { g := o.g, v := [(o.v.val, 2)] }
  | .rjset o => { g := o.g }
  | .rjwait o => { g := o.g }
  | .rjdrop o => { g := o.g }
  | .exit o => { g := o.g }
  | .nop o => { g := o.g }
  | .yield o => { g := o.g }
  | .bar o => { g := o.g }
  | .barset o => { g := o.g, s := [(o.c.val, 1)] }
  | .pharr o => { g := o.g, s := [(o.c.val, 1)] }
  | .phwait o => { g := o.g, s := [(o.c.val, 1)] }
  | .waita o => { g := o.g, v := [(o.v.val, 3)], vw := [(o.v.val + 2, 1)] }
  | .dwait o => { g := o.g }
  | .trap o => { g := o.g }
  | .brk o => { g := o.g }
  | .ecall o => { g := o.g }
  | .phint o => { g := o.g }
  | .tmarm o => { g := o.g, s := (if o.off then [] else [(o.c.val, 2)]) }
  | .fence o => { g := o.g }
  | .pwint o => { g := o.g, s := (if o.off then [] else [(o.c.val, 1)]) }
  | .shadow o => { g := o.g }
  | .fragq o => { g := o.g, sw := [(o.c.val, 2)] }
  | _ => {}

/-- The single registers of a list of fields. -/
def regsOf : List (Nat × Nat) → List Nat
  | [] => []
  | (r, k) :: t => (List.range k).map (fun i => r + i) ++ regsOf t

/-! ## Classes and prices (R30, R31, R61, R75) -/

/-- Engine classes. -/
inductive Class where | valu | mem | tile | engine | ctrl | sys | salu
  deriving DecidableEq, Repr

/-- The class of an opcode's range; none for 0x00 and 0xF0 to 0xFF (R75). -/
def classOf (op : Nat) : Option Class :=
  if op = 0 then none
  else if op < 0x20 then some .salu
  else if op < 0x70 then some .valu
  else if op < 0x90 then some .mem
  else if op < 0xA0 then some .tile
  else if op < 0xC0 then some .engine
  else if op < 0xE0 then some .ctrl
  else if op < 0xF0 then some .sys
  else none

/-- Price classes (R61). -/
inductive PriceClass where | ps | pi | pf | pd | px | pk | pa | pl | pn | pt | pm | pc | pe | pq | pb | py
  deriving DecidableEq, Repr

/-- An .f64 type, or either type of a conversion (R61). -/
def isF64 : Instr → Bool
  | .faddV o => FTy.is64 o.ty
  | .faddVR o => FTy.is64 o.ty
  | .fsubV o => FTy.is64 o.ty
  | .fsubVR o => FTy.is64 o.ty
  | .fmulV o => FTy.is64 o.ty
  | .fmulVR o => FTy.is64 o.ty
  | .fma o => FTy.is64 o.ty
  | .fminV o => FTy.is64 o.ty
  | .fminVR o => FTy.is64 o.ty
  | .fmaxV o => FTy.is64 o.ty
  | .fmaxVR o => FTy.is64 o.ty
  | .fcmp o => FTy.is64 o.ty
  | .fsel o => FTy.is64 o.ty
  | .fclass o => FTy.is64 o.ty
  | .frndV o => FTy.is64 o.ty
  | .frndVR o => FTy.is64 o.ty
  | .cvt o => o.src = .f64 || o.dst = .f64
  | .cvtsr o => o.src = .f64 || o.dst = .f64
  | .pack o => o.src = .f64 || o.dst = .f64
  | .unpack o => o.src = .f64 || o.dst = .f64
  | _ => false

def priceClass (op : Nat) (i : Instr) : PriceClass :=
  if op < 0x20 then .ps
  else if op < 0x40 then .pi
  else if op < 0x60 then (if 0x4E ≤ op ∧ op ≤ 0x52 then .px else if isF64 i then .pd else .pf)
  else if op < 0x70 then .pk
  else if op < 0x74 then .pa
  else if op < 0x78 then .pl
  else if op < 0x7A then .pa
  else if op < 0x7E then .pn
  else if op < 0x82 then .pa
  else if op < 0x90 then .pi
  else if op < 0xA0 then (if (0x94 ≤ op ∧ op ≤ 0x97) ∨ op = 0x9A then .pm else .pt)
  else if op < 0xB0 then .pc
  else if op < 0xB8 then .pe
  else if op < 0xC0 then .pq
  else if op < 0xE0 then .pb
  else .py

/-- Base and per-lane amounts of R404, without the rows that depend on addresses. -/
def priceBase : PriceClass → Nat
  | .ps => 6
  | .pi | .pf | .pd | .px => 8
  | .pk | .pl | .pt => 10
  | .pa => 12
  | .pn | .pc | .pe => 16
  | .pm => 20
  | .pq => 12
  | .pb => 4
  | .py => 6

def pricePerLane : PriceClass → Nat
  | .pi => 1
  | .pf | .pk | .pq => 2
  | .pd | .px => 6
  | .pn => 8
  | .pl => 3
  | .pa => 4
  | _ => 0

end Sys2Proof.Machine
end

