-- ==== Sys2Proof/Machine/Operands.lean ====
section
/-!
DEFINITION. An instruction at its issue: the band, its selected and active lanes, and how its operands are read, from the
registers or, for a replayed fragment, from the operand log (spec/02_clauses_and_formats.md R36, R44, R45;
spec/15_control_flow.md R348; spec/18_traps_fragments_preemption.md R443).
-/
namespace Sys2Proof.Machine

/-! ## Lane masks -/

/-- The lanes of a mask, ascending. -/
def lanesOf (m : Dword) : List Nat := (List.range 64).filter fun l => m.getLsbD l

/-- The mask of a list of lanes. -/
def maskOf (ls : List Nat) : Dword := ls.foldl (fun m l => m ||| BitVec.ofNat 64 (2 ^ l)) 0

/-! ## Bands and lanes -/

def Band.lane (b : Band) (l : Nat) : Lane := Table.get Lane.start l b.lanes
def Band.setLane (b : Band) (l : Nat) (x : Lane) : Band := { b with lanes := Table.set l x b.lanes }
def Band.modLane (b : Band) (l : Nat) (f : Lane → Lane) : Band := Band.setLane b l (f (Band.lane b l))
def Band.modLanes (b : Band) (ls : List Nat) (f : Nat → Lane → Lane) : Band :=
  ls.foldl (fun b l => Band.modLane b l (f l)) b

/-- A vector register of a lane. -/
def Lane.reg (x : Lane) (r : Nat) : Word := Table.get 0 r x.v

/-- Write a vector register: the error mark goes (R195). -/
def Lane.setReg (x : Lane) (r : Nat) (y : Word) : Lane :=
  { x with v := Table.put 0 r y x.v, err := Table.del r x.err }

/-- Condition bit c0 to c6; c7 reads 1 (R203). -/
def Lane.cond (x : Lane) (k : Nat) : Bool := if k = 7 then true else x.c.getLsbD k

def Lane.setCond (x : Lane) (k : Nat) (v : Bool) : Lane :=
  { x with c := if v then x.c ||| BitVec.ofNat 7 (2 ^ k) else x.c &&& ~~~(BitVec.ofNat 7 (2 ^ k)) }

/-- A scalar register. -/
def Band.sreg (b : Band) (r : Nat) : Word := Table.get 0 r b.s
def Band.setSreg (b : Band) (r : Nat) (x : Word) : Band := { b with s := Table.put 0 r x b.s }

/-! ## An instruction at its issue -/

/-- An instruction at its issue. -/
structure Ix where
  /-- Key of the band: core × 64 + quarter × 16 + slot. -/
  key : Nat
  b : Band
  /-- The band as its cycle began, where the reads of other lanes are made (R268). -/
  peers : Band
  t : Team
  gr : Grid
  pc : Pc
  hdr : Nat
  /-- Selected lanes, ascending (R348). -/
  sel : List Nat
  /-- Active lanes, ascending (R348). -/
  act : List Nat
  /-- The operand log of a replayed fragment with its entry (R443). -/
  replay : Option (Nat × Frag)
  deriving DecidableEq, Repr

def Ix.core (x : Ix) : Nat := x.key / 64
def Ix.quarter (x : Ix) : Nat := x.key / 16 % 4
def Ix.die (x : Ix) : Nat := x.key / 1024
def Ix.ctx (x : Ix) : Nat := x.gr.ctx

/-- A replay of an instruction that has issued before, whose counter holds its count (R185); a LATE fragment's has not. -/
def Ix.again (x : Ix) : Bool :=
  match x.replay with
  | some (_, f) => !f.late
  | none => false

/-- A vector register of a lane, as the instruction reads it. -/
def Ix.v (x : Ix) (l r : Nat) : Word :=
  match x.replay with
  | none => Lane.reg (Band.lane x.b l) r
  | some (_, f) => Table.get 0 r (Table.get [] l f.log.vrec)

/-- A scalar register, as the instruction reads it. -/
def Ix.s (x : Ix) (r : Nat) : Word :=
  match x.replay with
  | none => Band.sreg x.b r
  | some (_, f) => Table.get 0 r f.log.sv

/-- A register value of 32 or 64 bits (R45). -/
def pairOf (f : Nat → Word) (wide : Bool) (r : Nat) : Nat :=
  if wide then (f r).toNat + 2 ^ 32 * (f (r + 1)).toNat else (f r).toNat

def Ix.vw (x : Ix) (l : Nat) (wide : Bool) (r : Nat) : Nat := pairOf (Ix.v x l) wide r
def Ix.sw (x : Ix) (wide : Bool) (r : Nat) : Nat := pairOf (Ix.s x) wide r

/-- A value of `n` registers in ascending order of significance (R45). -/
def wordsOf (f : Nat → Word) (r : Nat) : Nat → Nat
  | 0 => 0
  | n + 1 => (f r).toNat + 2 ^ 32 * wordsOf f (r + 1) n

/-- Source b of the VR format (R65). -/
def Ix.src (x : Ix) (l : Nat) (wide : Bool) : VSrc → Nat
  | .vec r => Ix.vw x l wide r.val
  | .sca r => Ix.sw x wide r.val

/-- A condition-bit source (R62); a replay takes it from CMASK (R440). -/
def Ix.pred (x : Ix) (l : Nat) (p : Pred) : Bool :=
  match x.replay with
  | none => Lane.cond (Band.lane x.b l) p.c.val != p.neg
  | some (_, f) => f.log.cmask.getLsbD l

/-- The guard's outcome in a lane (R44, R348). -/
def Band.passes (b : Band) (g : Guard) (l : Nat) : Bool := Lane.cond (Band.lane b l) g.c.val != g.neg

/-! ## Results -/

/-- A short-latency result of 32 or 64 bits in a lane. -/
def heldV (l r : Nat) (wide : Bool) (x : Nat) : List Held :=
  if wide then [.vec l r (BitVec.ofNat 32 x), .vec l (r + 1) (BitVec.ofNat 32 (x / 2 ^ 32))]
  else [.vec l r (BitVec.ofNat 32 x)]

/-- A short-latency scalar result. -/
def heldS (m : Dword) (r : Nat) (wide : Bool) (x : Nat) : List Held :=
  if wide then [.sca m r (BitVec.ofNat 32 x), .sca m (r + 1) (BitVec.ofNat 32 (x / 2 ^ 32))]
  else [.sca m r (BitVec.ofNat 32 x)]

/-- The words of a value, low first. -/
def splitWords (x : Nat) : Nat → List Word
  | 0 => []
  | n + 1 => BitVec.ofNat 32 x :: splitWords (x / 2 ^ 32) n

end Sys2Proof.Machine
end

