-- ==== Sys2Proof/Machine/Ops.lean ====
section
/-!
DEFINITION. Named operations over the state: parts of the package, windows and range checks, held results, rejoin entries,
taking a trap and returning from it, moving to the next instruction (spec/04_addresses_and_translation.md R79 to R92;
spec/15_control_flow.md R348, R349, R363; spec/18_traps_fragments_preemption.md R430 to R435).
-/
namespace Sys2Proof.Machine

/-! ## Parts of the package -/

def State.core (s : State) (c : Nat) : Core := Table.get Core.start c s.cores
def State.setCore (s : State) (c : Nat) (x : Core) : State := { s with cores := Table.set c x s.cores }
def State.modCore (s : State) (c : Nat) (f : Core → Core) : State := State.setCore s c (f (State.core s c))
def State.die (s : State) (d : Nat) : Die := Table.get Die.start d s.dies
def State.setDie (s : State) (d : Nat) (x : Die) : State := { s with dies := Table.set d x s.dies }
def State.modDie (s : State) (d : Nat) (f : Die → Die) : State := State.setDie s d (f (State.die s d))
def State.pair (s : State) (p : Nat) : Pair := Table.get Pair.start p s.pairs
def State.modPair (s : State) (p : Nat) (f : Pair → Pair) : State :=
  { s with pairs := Table.set p (f (State.pair s p)) s.pairs }
def State.ctx (s : State) (n : Nat) : Ctx := Table.get (Ctx.start 0) n s.ctxs
def State.modCtx (s : State) (n : Nat) (f : Ctx → Ctx) : State := { s with ctxs := Table.alter n f s.ctxs }
def State.modBand (s : State) (k : Nat) (f : Band → Band) : State := { s with bands := Table.alter k f s.bands }
def State.setBand (s : State) (k : Nat) (b : Band) : State := { s with bands := Table.set k b s.bands }
def State.modTeam (s : State) (k : Nat) (f : Team → Team) : State := { s with teams := Table.alter k f s.teams }
def State.modGrid (s : State) (k : Nat) (f : Grid → Grid) : State := { s with grids := Table.alter k f s.grids }
def State.modOp (s : State) (k : Nat) (f : Op → Op) : State := { s with ops := Table.alter k f s.ops }
def State.modHub (s : State) (f : Hub → Hub) : State := { s with hub := f s.hub }
def State.modFw (s : State) (f : Fw → Fw) : State := { s with fw := f s.fw }
def State.send (s : State) (o : Out) : State := { s with outbox := s.outbox ++ [o] }
/-- Hand out a key. -/
def State.takeKey (s : State) : Nat × State := (s.nextKey, { s with nextKey := s.nextKey + 1 })
/-- A free value, a new one at each draw (log 5). -/
def State.draw (s : State) : Nat × State := (Config.free s.fresh, { s with fresh := s.fresh + 1 })

/-- The pass count that a FORCE value asks for: 1, 2 or 4, any other value taken as 1 (R418). -/
def forced (f : BitVec 3) : Nat := if f = 2 then 2 else if f = 4 then 4 else 1

/-- The pass count of a pair (R418): the larger of the forced and the thermal one and that of the die. -/
def State.passCount (s : State) (core : Nat) : Nat :=
  Nat.max (Nat.max (forced (State.pair s (core / 2)).force) (State.pair s (core / 2)).therm.toNat)
    (State.die s (core / 16)).chgVal.toNat

/-- %charge: the stored energy as a fraction of nominal (R417, R486). -/
def chargeOf (d : Die) : Nat := Nat.min 65535 (d.chgNow.toNat * 32768 / d.chgNom.toNat)

/-- Key of a tile of a team on a core (R25). -/
def tileKey (core n : Nat) : Nat := core % 2 * 32 + n
def Team.tile (t : Team) (core n : Nat) : Tile := Table.get Tile.start (tileKey core n) t.tiles
def Team.modTile (t : Team) (core n : Nat) (f : Tile → Tile) : Team :=
  { t with tiles := Table.set (tileKey core n) (f (Team.tile t core n)) t.tiles }

/-- The bands of a team, with their keys. -/
def State.bandsOf (s : State) (team : Nat) : List (Nat × Band) := s.bands.filter fun e => e.2.team == team

/-- The team's quiesce marker has reached this engine (R450). -/
def quiesced (s : State) (team marker : Nat) : Bool :=
  match Table.find team s.teams with
  | some t =>
    match t.save with
    | some r =>
      match r.marks with
      | some l => !l.elem marker
      | none => false
    | none => false
  | none => false

/-- The team's quiesce markers have been sent. -/
def marked (s : State) (team : Nat) : Bool :=
  match Table.find team s.teams with
  | some t =>
    match t.save with
    | some r => r.marks.isSome
    | none => false
  | none => false

/-- An engine returns a team's marker. -/
def returnMark (team marker : Nat) (s : State) : State :=
  State.modTeam s team fun t =>
    { t with save := t.save.map fun r => { r with marks := r.marks.map (NatSet.del marker) } }

/-! ## Windows (R79 to R82) -/

/-- window_of of R80, with the value x. -/
def windowOf (a : Dword) : Option (Window × Nat) :=
  let n := a.toNat
  if n / 2 ^ 60 = 0 then some (.mem, n)
  else
    match n / 2 ^ 56 with
    | 0xF0 => some (.glb, n % 2 ^ 56)
    | 0xF1 => some (.par, n % 2 ^ 56)
    | 0xF2 => some (.loc, n % 2 ^ 56)
    | 0xF3 => some (.prv, n % 2 ^ 56)
    | _ => none

/-- The generic address of window form 0 (R84). -/
def windowTag : Window → Nat
  | .prv => 0xF3 * 2 ^ 56
  | .loc => 0xF2 * 2 ^ 56
  | .par => 0xF1 * 2 ^ 56
  | .glb => 0xF0 * 2 ^ 56
  | .mem => 0

/-- Extent of the local window: twice SCRATCH for a pair team (R79). -/
def localExtent (t : Team) (g : Grid) : Nat := if t.pair then 2 * g.hdr.scratch else g.hdr.scratch

/-- The global form of an SRAM window form, none out of its extent (R81). -/
def sramForm (core : Nat) (t : Team) (g : Grid) (w : Window) (x : Nat) : Option Nat :=
  match w with
  | .glb => if x < 2 ^ 32 then some x else none
  | .par => if x < 2 ^ 27 then some (core / 2 * 2 * 2 ^ 26 + x) else none
  | .loc =>
    if t.pair then
      if x < g.hdr.scratch then some (core / 2 * 2 * 2 ^ 26 + t.lb + x)
      else if x < 2 * g.hdr.scratch then some ((core / 2 * 2 + 1) * 2 ^ 26 + t.lbo + x - g.hdr.scratch) else none
    else if x < g.hdr.scratch then some (core * 2 ^ 26 + t.lb + x) else none
  | _ => none

/-- The memory virtual address of a private form (R82). -/
def privateVa (t : Team) (b : Band) (lane : Nat) (g : Grid) (x : Nat) : Nat :=
  (g.desc.pbase + (t.num * 4096 + (b.num * b.width + lane)) * g.desc.psize + x) % 2 ^ 64

/-! ## Range registers (R89 to R91) -/

def Ctx.range (c : Ctx) (k f : Nat) : Nat := (Table.get 0 (4 * k + f) c.ranges).toNat

def permRd : Nat := 2
def permWr : Nat := 4
def permAt : Nat := 8
def permEx : Nat := 16
def permCe : Nat := 32
def permEk : Nat := 64
def permRm : Nat := 128

/-- check of R90 for one byte: the chip address, or none; `need` is the bits R91 requires. -/
def rangeFrom (c : Ctx) (va need : Nat) : List Nat → Option Nat
  | [] => none
  | k :: ks =>
    if (Ctx.range c k 3).testBit 0 && Ctx.range c k 0 / 2 ^ 16 ≤ va / 2 ^ 16 && va / 2 ^ 16 ≤ Ctx.range c k 1 / 2 ^ 16 then
      let a := Ctx.range c k 2 / 2 ^ 16 % 2 ^ 32 * 2 ^ 16 + (va - Ctx.range c k 0 / 2 ^ 16 * 2 ^ 16)
      if Ctx.range c k 3 &&& need == need && a < 2 ^ 43 then some a else none
    else rangeFrom c va need ks

def rangeCheck (c : Ctx) (va need : Nat) : Option Nat := rangeFrom c va need (List.range 8)

/-- The first of `n` bytes from `va` that fails the check (R92). -/
def firstFailing (c : Ctx) (va need : Nat) : Nat → Option Nat
  | 0 => none
  | n + 1 => if (rangeCheck c va need).isNone then some va else firstFailing c (va + 1) need n

/-! ## Held results (R34, R36, R227) -/

/-- Apply one held result; the shape and the special registers lie outside the band. -/
def applyOne (key : Nat) (s : State) (h : Held) : State :=
  match h with
  | .vec l r x => State.modBand s key fun b => Band.modLane b l fun y => Lane.setReg y r x
  | .cond l k v => State.modBand s key fun b => Band.modLane b l fun y => Lane.setCond y k v
  | .sca _ r x => State.modBand s key fun b => Band.setSreg b r x
  | .load .. => s
  | .shape _ t x =>
    match Table.find key s.bands with
    | some b => State.modTeam s b.team fun m => Team.modTile m (key / 64) t fun y => { y with shape := x }
    | none => s
  | .special _ r x =>
    match r with
    | .cycles => State.modCore s (key / 64) fun c => { c with cycles := BitVec.setWidth 64 x }
    | .lthresh => State.modBand s key fun b => { b with lthresh := x }
    | .spflag =>
      match Table.find key s.bands with
      | some b =>
        match Table.find b.team s.teams with
        | some t =>
          match Table.find t.grid s.grids with
          | some g => State.modCtx s g.ctx fun c => if x.getLsbD 0 then { c with spflag := 0, spby := none } else c
          | none => s
        | none => s
      | none => s

/-- Whether a held result is applied when the lanes of `m` pass their switch point (a result written once for the band is
applied at the first of its lanes to pass: log 13). -/
def heldFor (m : Dword) : Held → Bool
  | .vec l _ _ | .cond l _ _ | .load l _ _ => m.getLsbD l
  | .sca ls _ _ | .shape ls _ _ | .special ls _ _ => ls &&& m != 0

/-- Apply the held results of the lanes of `m`, in issue order. -/
def applyHeld (key : Nat) (m : Dword) (s : State) : State :=
  match Table.find key s.bands with
  | none => s
  | some b =>
    let s1 := State.modBand s key fun b => { b with held := b.held.filter fun h => !heldFor m h }
    (b.held.filter (heldFor m)).foldl (applyOne key) s1

/-- Hold short-latency results until the switch point. -/
def holdResults (key : Nat) (hs : List Held) (s : State) : State :=
  State.modBand s key fun b => { b with held := b.held ++ hs }

/-- The held results of a lane after the landing of operation `op` in it, with the registers that it has written later in
the list: a short-latency write of an earlier slot to one of them is discarded (R37). -/
def discardFrom (l op : Nat) : List Held → List Held × List Nat
  | [] => ([], [])
  | h :: t =>
    let r := discardFrom l op t
    match h with
    | .load k reg o => if k = l ∧ o = op then (r.1, reg :: r.2) else (h :: r.1, r.2)
    | .vec k reg _ => if k = l ∧ r.2.elem reg then r else (h :: r.1, r.2)
    | _ => (h :: r.1, r.2)

/-- The operation lands in the lane. -/
def discardEarlier (l op : Nat) (hs : List Held) : List Held := (discardFrom l op hs).1

/-- The operation ends in the lane without a result: it discards nothing (R429). -/
def forgetLoad (l op : Nat) (hs : List Held) : List Held :=
  hs.filter fun h => match h with
    | .load k _ o => !(k == l && o == op)
    | _ => true

/-- Flags raised at issue (R218). -/
def raiseFlags (key : Nat) (f : BitVec 5) (s : State) : State :=
  State.modBand s key fun b => { b with fflags := b.fflags ||| f }

/-! ## Results outstanding (R34, R37) -/

/-- A lane's access has ended or has been given up. -/
def Acc.over (a : Acc) : Bool :=
  match a.stage with
  | .done | .dropped | .faulted _ _ => true
  | _ => false

/-- A lane's access met a page fault. -/
def Acc.failed (a : Acc) : Bool :=
  match a.stage with
  | .faulted _ _ => true
  | _ => false

/-- Lane `l` of the operation still awaits its end. -/
def Op.awaits (o : Op) (l : Nat) : Bool := o.accs.any fun a => a.lane == l && (!Acc.over a || Acc.failed a)

/-- A long-latency operation with a result. -/
def OpKind.hasResult : OpKind → Bool
  | .load .. | .sfu _ | .take _ | .jtab | .tld .. | .tzero _ | .ard .. => true
  | .atomic _ _ ret => ret.isSome
  | _ => false

/-- An operation on a whole tile, which acts once for its band: its accesses stand for rows, not for lanes. -/
def OpKind.ofTile : OpKind → Bool
  | .tld .. | .tst .. | .tzero _ | .ard .. => true
  | _ => false

/-- The operation has not ended for lane `l`. -/
def Op.unfinished (o : Op) (l : Nat) : Bool :=
  o.lanes.getLsbD l
    && (if OpKind.ofTile o.kind then o.accs.any fun a => !Acc.over a else Op.awaits o l || o.accs.isEmpty)

/-- A prefetch, for which nothing waits (R187). -/
def OpKind.isPref : OpKind → Bool
  | .pref _ => true
  | _ => false

/-- A lane of a band awaits an uncounted operation (R34, R177, R284). -/
def uncounted (s : State) (key l : Nat) : Bool :=
  s.ops.any fun e => e.2.band == key && e.2.dc == none && !OpKind.isPref e.2.kind && Op.unfinished e.2 l

/-! ## Rejoin entries (R361 to R366) -/

/-- Register of rejoin level `i`. -/
def levelReg (b : Band) (i : Nat) : Nat := b.vbud - 1 - i
def Lane.level (b : Band) (x : Lane) (i : Nat) : Nat := (Lane.reg x (levelReg b i)).toNat

/-- The lanes of the entry at level `i` with offset `o`. -/
def rejoinLanes (b : Band) (i o : Nat) : List Nat :=
  (List.range b.width).filter fun l =>
    let x := Band.lane b l
    x.run != .exited && decide (i < x.rdp) && Lane.level b x i % 2 == 1 && Lane.level b x i / 4 == o

/-- Every lane of the entry waits at it. -/
def rejoinDone (b : Band) (i : Nat) (ls : List Nat) : Bool :=
  ls.all fun l =>
    let x := Band.lane b l
    x.run == .rejoin && x.rdp == i + 1 && Lane.level b x i / 2 % 2 == 1

/-- Complete the entry of one waiting lane, where it is complete (R363). -/
def rejoinLane (image : Nat) (b : Band) (l : Nat) : Band :=
  let x := Band.lane b l
  if x.run == .rejoin && decide (0 < x.rdp) then
    let i := x.rdp - 1
    let o := Lane.level b x i / 4
    let ls := rejoinLanes b i o
    if rejoinDone b i ls then
      Band.modLanes b ls fun _ y =>
        { Lane.setReg y (levelReg b i) 0 with
          rdp := i, pc := ⟨image + 4 * o, 0⟩, run := .running, sw := true, entry := .check }
    else b
  else b

/-- Evaluate the band's rejoin entries. -/
def rejoinEval (image : Nat) (b : Band) : Band := (List.range b.width).foldl (rejoinLane image) b

def State.rejoin (s : State) (key image : Nat) : State := State.modBand s key (rejoinEval image)

/-! ## Barriers of a team (R371) -/

def Team.bar (t : Team) (n : Nat) : Barrier := Table.get ⟨false, 0, 0, false⟩ n t.bars
def Team.setBar (t : Team) (n : Nat) (x : Barrier) : Team := { t with bars := Table.set n x t.bars }

/-- The lane has an arrival in the current generation: LA = 1 and PH = P (R373). -/
def Lane.arrived (y : Lane) (n : Nat) (p : Bool) : Bool := y.la.getLsbD n && y.ph.getLsbD n == p

/-! ## Notices (R433) -/

/-- A poster's notice; NOTICE_POST moves it into the queue once there is space. -/
def postNotice (n : Notice) (s : State) : State :=
  State.modHub s fun h => { h with noticeWait := h.noticeWait ++ [n] }

/-! ## Taking a trap (R429 to R432) -/

/-- Cause codes (R76). -/
def causeIllegalInsn : Nat := 0x01
def causeIllegalClause : Nat := 0x02
def causeReservedReg : Nat := 0x03
def causeMisaligned : Nat := 0x04
def causeRangeProt : Nat := 0x05
def causePage : Nat := 0x06
def causeRangeConflict : Nat := 0x08
def causeAccToken : Nat := 0x09
def causeRejoinDeadlock : Nat := 0x0A
def causeBarWatchdog : Nat := 0x0B
def causeTimer : Nat := 0x0C
def causeSwtrap : Nat := 0x0D
def causeBreak : Nat := 0x0E
def causeMxReset : Nat := 0x10
def causeEngineError : Nat := 0x11
def causePoison : Nat := 0x12
def causeShadowMismatch : Nat := 0x13
def causeLate : Nat := 0x14
def causePriv : Nat := 0x15

/-- A cause taken by a lane, with the address it reports. -/
structure Trap where
  lane : Nat
  cause : Nat
  addr : Dword
  deriving DecidableEq, Repr

/-- A PC in the 64-bit form of R32. -/
def Pc.toDword (p : Pc) : Dword := BitVec.ofNat 64 (p.clause % 2 ^ 60 + p.slot % 16 * 2 ^ 60)
def Pc.ofNat (n : Nat) : Pc := ⟨n % 2 ^ 60, n / 2 ^ 60 % 16⟩

/-- The halt of a team, with one notice for its first cause (R432). -/
def haltTeam (key : Nat) (b : Band) (t : Team) (g : Grid) (pc : Pc) (tr : Trap) (s : State) : State :=
  if t.halted then s
  else
    postNotice ⟨1, g.ctx, key / 64, tr.cause, g.desc.gridid, t.num, b.num, tr.lane, Pc.toDword pc, tr.addr⟩
      (State.modTeam s b.team fun t => { t with halted := true })

/-- A lane as delivery leaves it: at the trap entry, through a switch point, where its held results are applied (R34,
R430). -/
def trapLane (b : Band) (trape : Nat) (pc : Pc) (tr : Trap) (x : Lane) : Lane :=
  let y := if tr.cause = causeRejoinDeadlock ∧ 0 < x.rdp then
      Lane.setReg x (levelReg b (x.rdp - 1)) (Lane.reg x (levelReg b (x.rdp - 1)) &&& ~~~2#32)
    else x
  { y with
    tcause := BitVec.ofNat 32 tr.cause, tepc := Pc.toDword pc, taddr := tr.addr, pc := ⟨trape, 0⟩, run := .running
    sw := true, entry := .check, waited := 0, barred := false, trap := none, frag := 0xFFFF }

/-- A lane whose trap waits for its uncounted results (R430). -/
def trapDue (pc : Pc) (tr : Trap) (x : Lane) : Lane :=
  { x with trap := some (tr.cause, tr.addr), pc := pc, run := .running, sw := true, waited := 0, barred := false }

/-! ## Watched words (R145) -/

/-- Some lane of the core still waits on the monitor's entry for the word. -/
def stillWatched (s : State) (core g : Nat) : Bool :=
  s.bands.any fun e => e.1 / 64 == core
    && e.2.lanes.any fun l => l.2.watch == some g || l.2.waita.any fun w => w.g == some g && !w.polled

/-- Free the monitor's entry for a word no lane waits on (R145). -/
def freeMonitor (core g : Nat) (s : State) : State :=
  if stillWatched s core g then s
  else
    let bit := BitVec.ofNat 64 (2 ^ core)
    State.modCore (State.modCore s core fun c => { c with monitor := NatSet.del g c.monitor }) (g / 2 ^ 26) fun c =>
      { c with watch := Table.put 0 g (Table.get 0 g c.watch &&& ~~~bit) c.watch }

/-- A lane no longer watches a phase word. -/
def unwatch (key : Nat) (s : State) (l : Nat) : State :=
  match Table.find key s.bands with
  | none => s
  | some b =>
    match (Band.lane b l).watch with
    | none => s
    | some g => freeMonitor (key / 64) g (State.modBand s key fun b => Band.modLane b l fun y => { y with watch := none })

/-- Lanes that have exited count as having taken a latch; an empty latch clears (R168). -/
def tidyLatches (b : Band) : Band :=
  { b with latch := b.latch.filterMap fun e =>
      let m := e.2.mask &&& maskOf ((lanesOf e.2.mask).filter fun l => (Band.lane b l).run != .exited)
      if m = 0 then none else some (e.1, { e.2 with mask := m }) }

/-- Take a trap in one lane at `pc`: its team halts in the cycle of the cause (R432), or it is delivered once the lane's
uncounted results have landed (R430). -/
def deliver (key : Nat) (pc : Pc) (s : State) (tr : Trap) : State :=
  match Table.find key s.bands with
  | none => s
  | some b =>
    match Table.find b.team s.teams with
    | none => s
    | some t =>
      match Table.find t.grid s.grids with
      | none => s
      | some g =>
        if g.hdr.trape = 0
            || ((tr.cause == causeIllegalClause || tr.cause == causeRangeProt) && pc == ⟨g.hdr.trape, 0⟩) then
          haltTeam key b t g pc tr (State.modGrid s t.grid fun g => { g with trapped := true })
        else if uncounted s key tr.lane then State.modBand (unwatch key s tr.lane) key fun b => Band.modLane b tr.lane (trapDue pc tr)
        else
          State.modBand (State.modGrid (unwatch key s tr.lane) t.grid fun g =>
              { g with trapped := true }) key fun b =>
            Band.modLane b tr.lane (trapLane b g.hdr.trape pc tr)

/-- Deliver the traps of one instruction, ascending by lane. -/
def deliverAll (key : Nat) (pc : Pc) (trs : List Trap) (s : State) : State := trs.foldl (deliver key pc) s

/-! ## Returning from a trap (R435) -/

/-- The PC SKIP computes from a lane's %tcause and %tepc, the header h of its clause and the word w of its slot. -/
def skipPc (tcause : Nat) (tepc : Pc) (h w : Nat) : Pc :=
  let past : Pc := ⟨(tepc.clause + 4 * (h / 2 ^ 28 % 16 + 1)) % 2 ^ 60, 0⟩
  if tcause = causeIllegalClause then past
  else
    let op := w / 2 ^ 24 % 256
    let n := if op = 0 ∨ 0xF0 ≤ op then tepc.slot + 1 else tepc.slot + 1 + w / 2 ^ 23 % 2
    if h / 2 ^ 28 % 16 ≤ n then past else ⟨tepc.clause, n⟩

/-- A lane sent to a PC through a switch point: the clause there is checked on entry (R34, R349). -/
def Lane.goto (x : Lane) (p : Pc) : Lane := { x with pc := p, sw := true, entry := .check, waited := 0, barred := false }

/-! ## The next instruction (R348) -/

/-- Slots an instruction takes. -/
def slotCount (i : Instr) : Nat := (encode i).length

/-- Where the lanes go after an instruction of `n` slots at `pc` in a clause of header `h`; whether that ends the clause;
whether a switch point stands there (R34, R348). -/
structure Next where
  pc : Pc
  last : Bool
  sw : Bool
  deriving DecidableEq, Repr

def nextOf (h : Nat) (pc : Pc) (n : Nat) : Next :=
  let ns := h / 2 ^ 28 % 16
  if ns ≤ pc.slot + n then ⟨⟨(pc.clause + 4 * (ns + 1)) % 2 ^ 60, 0⟩, true, true⟩
  else ⟨⟨pc.clause, pc.slot + n⟩, false, h.testBit (10 + (pc.slot + n - 1))⟩

/-- Move a lane to the next instruction; after a replay it enters there under R349 through a switch point (R443). -/
def Lane.step (x : Lane) (h : Nat) (n : Nat) (replayed : Bool) : Lane :=
  let t := nextOf h x.pc n
  { x with
    pc := t.pc, sw := t.sw || replayed, entry := if t.last || replayed then .check else .inside, waited := 0
    barred := false }

/-- Branch target of a word offset (R354). -/
def branchTarget (clause : Nat) (off : Int) : Nat := (((clause : Int) + 4 * off) % ((2 ^ 60 : Nat) : Int)).toNat

/-- F at slot 0 (R348). -/
def fallThrough (h clause : Nat) : Nat := (clause + 4 * (h / 2 ^ 28 % 16 + 1)) % 2 ^ 60

end Sys2Proof.Machine
end

