-- ==== Sys2Proof/Machine/Mem.lean ====
section
/-!
DEFINITION. The bytes behind the addresses: the chip page table and its walks (spec/04_addresses_and_translation.md R95 to
R102), lines of memory as the L2s and the units hold them (spec/05_memory_tiers_and_coherence.md R118 to R125), the SRAM
slices with their owners, poison and wakes (spec/06_distributed_sram.md R131 to R146), atomics
(spec/08_loads_stores_atomics.md R182).
-/
namespace Sys2Proof.Machine

/-! ## Units (R15, R118) -/

/-- Key of a byte of a unit. -/
def unitKey (unit off : Nat) : Nat := unit * 2 ^ 40 + off

def State.unit (s : State) (m : Nat) : Unit_ := Table.get ⟨0, 0, [], 0, 0⟩ m s.units
def State.modUnit (s : State) (m : Nat) (f : Unit_ → Unit_) : State :=
  { s with units := Table.set m (f (State.unit s m)) s.units }

/-- The die a unit attaches to (R15). -/
def unitDie (m : Nat) : Nat := if m < 8 then m / 2 else (m - 8) / 4

def State.dword (s : State) (key : Nat) : Nat := leNat (Memory.bytes s.dram key 8)
def State.setDword (s : State) (key : Nat) (x : Nat) : State :=
  { s with dram := Memory.store s.dram key (natLe 8 x), dramFlips := Table.del key s.dramFlips }

/-! ## Crossings and charges (R11, R129, R406) -/

/-- The crossings from one compute die to another: to the destination's column first (R11, R130). -/
def crossingsOf (a b : Nat) : List Nat :=
  let h := if a / 2 = 0 then 0 else 1
  let v := if b % 2 = 0 then 2 else 3
  (if a % 2 = b % 2 then [] else [h]) ++ (if a / 2 = b / 2 then [] else [v])

/-- Flits received without error end a run of failed replays of their crossings (R129). -/
def goodFlits (cs : List Nat) (s : State) : State :=
  if cs.isEmpty then s
  else { s with crossings := cs.foldl (fun t c => Table.alter c (fun x => { x with fails := 0 }) t) s.crossings }

/-- Work's debit, as the governor counts it (R409). -/
def noteWork (n : Nat) (s : State) : State := State.modHub s fun h => { h with w := h.w + n }

/-- Charge a die's bucket (R406). -/
def chargeDie (d n : Nat) (s : State) : State :=
  noteWork n (State.modDie s d fun x => { x with tokens := x.tokens - n })

/-- Charge a core's bucket, which holds enough (R404, R408). -/
def chargeCore (c n : Nat) (s : State) : State :=
  noteWork n (State.modCore s c fun x => { x with bucket := x.bucket - n })

/-- Charge a line read or written at a controller (R406). -/
def chargeLine (unit : Nat) (s : State) : State := chargeDie (unitDie unit) (if unit < 8 then 600 else 1500) s

/-! ## The chip page table (R95 to R97) -/

/-- Key of the region entry of a chip address (R95, R98). -/
def regionKey (s : State) (c : Nat) : Nat :=
  let n := c / 2 ^ 21
  let d := n % 4
  let b := (State.die s d).cptbase.toNat
  unitKey (2 * d + b / 2 ^ 36 % 2) (b / 2 ^ 23 % 2 ^ 13 * 2 ^ 23 + n / 4 * 8)

/-- Kinds of fault (R106). -/
def kindInvalid : Nat := 1
def kindNotPresent : Nat := 2
def kindMigrating : Nat := 3
def kindRegen : Nat := 4
def kindNoFrame : Nat := 5
def kindTblErr : Nat := 6

/-- What the table says of a chip address. -/
inductive Entry_ where
  /-- PRESENT: where the entry lies, its value, whether it covers 2 MiB. -/
  | present (key e : Nat) (big : Bool)
  | zero (key e : Nat)
  | migrating (e : Nat)
  | fault (kind e : Nat)
  deriving DecidableEq, Repr

/-- The unit a PRESENT or ZERO entry names (R97). -/
def entryUnit (e : Nat) : Nat := if e.testBit 5 then 8 + e / 2 ^ 6 % 16 else e / 2 ^ 6 % 16

def unitExists (s : State) (e : Nat) : Bool :=
  (e.testBit 5 || e / 2 ^ 6 % 16 < 8) && decide (0 < (State.unit s (entryUnit e)).frames)

def entryFrame (e : Nat) : Nat := e / 2 ^ 16 % 2 ^ 22

/-- A PRESENT entry that R97 does not fault. -/
def presentOk (s : State) (e : Nat) (big : Bool) : Bool :=
  unitExists s e && decide (entryFrame e < (State.unit s (entryUnit e)).frames) && e / 2 ^ 11 % 32 == 0
    && e / 2 ^ 38 % 2 ^ 10 == 0 && e / 2 ^ 56 == 0 && (!big || entryFrame e % 32 == 0)

def zeroOk (s : State) (e : Nat) : Bool := unitExists s e && e / 8 % 4 == 0

/-- A leaf or region entry by its kind (R96); TABLE is handled before. -/
def classify (s : State) (key e : Nat) (big : Bool) : Entry_ :=
  match e % 8 with
  | 1 => if presentOk s e big then .present key e big else .fault kindInvalid e
  | 2 => if big then .fault kindInvalid e else if zeroOk s e then .zero key e else .fault kindInvalid e
  | 3 => .fault kindNotPresent e
  | 4 => .migrating e
  | 5 => if e.testBit 3 then .fault kindInvalid e else .fault kindRegen e
  | _ => .fault kindInvalid e

/-- An entry that reads as uncorrectable (R100). -/
def entryBad (s : State) (key : Nat) : Bool := s.dramPoison.elem (key / 16 * 16)

/-- The entry that covers a chip address (R95 to R97, R100). -/
def entryOf (s : State) (c : Nat) : Entry_ :=
  let k := regionKey s c
  if entryBad s k then .fault kindTblErr 0
  else
    let e := State.dword s k
    if e % 8 = 6 then
      if e / 8 % 8 = 0 ∧ e / 2 ^ 9 % 2 ^ 11 = 0 ∧ e / 2 ^ 48 = 0 then
        let kl := unitKey (e / 2 ^ 6 % 8) (e / 2 ^ 20 % 2 ^ 28 * 256 + c / 2 ^ 16 % 32 * 8)
        if entryBad s kl then .fault kindTblErr 0 else classify s kl (State.dword s kl) false
      else .fault kindInvalid e
    else classify s k e true

/-- Where a chip address lies under a PRESENT entry (R97). -/
def placeOf (e : Nat) (big : Bool) (c : Nat) : Nat × Nat :=
  (entryUnit e, entryFrame e * 2 ^ 16 + (if big then c % 2 ^ 21 else c % 2 ^ 16))

/-! ## Error counts (R118, R121) -/

/-- Add 1 to CE (field 0) or UE (field 1) of an error register, stopping at 0xFFFF, with SAT. -/
def countError (field : Nat) (r : Dword) : Dword :=
  let n := r.toNat / 2 ^ (16 * field) % 2 ^ 16
  if n = 0xFFFF then r
  else
    let x := r + BitVec.ofNat 64 (2 ^ (16 * field))
    if n = 0xFFFE then x ||| BitVec.ofNat 64 (2 ^ 32) else x

/-- `n` uncorrectable errors of a unit. -/
def countUe (unit n : Nat) (s : State) : State :=
  if n = 0 then s
  else State.modUnit s unit fun u => { u with memerr := (List.range n).foldl (fun r _ => countError 1 r) u.memerr }

/-- Errors that stand in the dwords from `lo` up to `lo + n` of a unit, met by a read: a corrected one counts, an uncorrectable
one marks its granule (R118). -/
def senseDram (lo n : Nat) (s : State) : State :=
  (s.dramFlips.filter fun e => decide (lo ≤ e.1) && decide (e.1 < lo + n)).foldl (fun s e =>
    if e.2 then
      countUe (e.1 / 2 ^ 40) 1
        { s with dramPoison := NatSet.add (e.1 / 16 * 16) s.dramPoison, dramFlips := Table.del e.1 s.dramFlips }
    else State.modUnit s (e.1 / 2 ^ 40) fun u => { u with memerr := countError 0 u.memerr }) s

/-- What the code finds on reading granule `g` of a unit: an uncorrectable dword marks it. -/
def applyEcc (unit g : Nat) (e : Ecc) (s : State) : State :=
  match e with
  | .clean => s
  | .corrected => State.modUnit s unit fun u => { u with memerr := countError 0 u.memerr }
  | .uncorrectable => countUe unit 1 { s with dramPoison := NatSet.add g s.dramPoison }

/-! ## Lines in their units (R118) -/

def lineOf (c : Nat) : Nat := c / 128

/-- The 8 poison marks of a line in its unit. -/
def unitPoison (s : State) (unit off : Nat) : BitVec 8 :=
  BitVec.ofNat 8 (Arith.tabulate 8 fun i => s.dramPoison.elem (unitKey unit (off / 128 * 128 + 16 * i)))

/-- The line in its unit. -/
def unitLine (s : State) (unit off : Nat) : List Byte × BitVec 8 :=
  (Memory.bytes s.dram (unitKey unit (off / 128 * 128)) 128, unitPoison s unit off)

/-- Write a line to its unit, with its marks (R118). -/
def setUnitLine (s : State) (unit off : Nat) (bytes : List Byte) (p : BitVec 8) : State :=
  let b := unitKey unit (off / 128 * 128)
  { s with
    dram := Memory.store s.dram b bytes
    dramFlips := s.dramFlips.filter fun e => decide (e.1 < b) || decide (b + 128 ≤ e.1)
    dramPoison := (List.range 8).foldl (fun l i =>
      if p.getLsbD i then NatSet.add (b + 16 * i) l else NatSet.del (b + 16 * i) l) s.dramPoison }

/-- Marks set in a line. -/
def marksIn (p : BitVec 8) : Nat := ((List.range 8).filter fun i => p.getLsbD i).length

/-- Read a line at its controller, at `mem` = unit × 2^40 + offset: charged, and counted with what the code finds. A mark
stored before reads as uncorrectable again (R118, R406); which granule a new error hits is not fixed (log 5). -/
def readLineAt (mem : Nat) (e : Ecc) (s : State) : (List Byte × BitVec 8) × State :=
  let u := mem / 2 ^ 40
  let o := mem % 2 ^ 40
  let s1 := senseDram (unitKey u (o / 128 * 128)) 128 (countUe u (marksIn (unitPoison s u o)) (chargeLine u s))
  let s2 := if e == .clean then s1
    else
      let d := State.draw s1
      applyEcc u (unitKey u (o / 128 * 128) + 16 * (d.1 % 8)) e d.2
  (unitLine s2 u o, s2)

/-- Write a line at its controller, charged (R406). -/
def writeLineAt (mem : Nat) (bytes : List Byte) (p : BitVec 8) (s : State) : State :=
  chargeLine (mem / 2 ^ 40) (setUnitLine s (mem / 2 ^ 40) (mem % 2 ^ 40) bytes p)

/-! ## Walks (R95, R100 to R102) -/

/-- The cost of a die's access to a word of the table: a line at its controller, and the crossings there and back (R406). -/
def chargeEntry (die key : Nat) (s : State) : State :=
  let d := unitDie (key / 2 ^ 40)
  let n := (crossingsOf die d).length
  let s1 := chargeLine (key / 2 ^ 40) s
  if n = 0 then s1 else chargeDie d (80 * n) (chargeDie die (80 * n) s1)

/-- The words of the table that a walk reads: the region entry, and the leaf entry behind a TABLE. -/
def walkKeys (s : State) (c : Nat) : List Nat :=
  let k := regionKey s c
  let e := State.dword s k
  if !entryBad s k && e % 8 == 6 && e / 8 % 8 == 0 && e / 2 ^ 9 % 2 ^ 11 == 0 && e / 2 ^ 48 == 0 then
    [k, unitKey (e / 2 ^ 6 % 8) (e / 2 ^ 20 % 2 ^ 28 * 256 + c / 2 ^ 16 % 32 * 8)]
  else [k]

/-- Read them: charged, with the errors the code finds (R118, R406). -/
def readEntries (die : Nat) (ks : List Nat) (s : State) : State :=
  ks.foldl (fun s k => senseDram k 8 (countUe (k / 2 ^ 40) (if entryBad s k then 1 else 0) (chargeEntry die k s))) s

/-- Set A, and D for a write, of a PRESENT entry (R101). -/
def touchEntry (s : State) (die key e : Nat) (write : Bool) : Nat × State :=
  let e1 := if e.testBit 3 then e else e + 8
  let e2 := if write && !e1.testBit 4 then e1 + 16 else e1
  (e2, if e2 = e then s else State.setDword (chargeEntry die key s) key e2)

/-- Zero a frame of a unit. -/
def zeroFrame (s : State) (unit frame : Nat) : State :=
  let lo := unitKey unit (frame * 2 ^ 16)
  { s with
    dram := s.dram.filter fun e => e.1 < lo || lo + 2 ^ 16 ≤ e.1
    dramFlips := s.dramFlips.filter fun e => e.1 < lo || lo + 2 ^ 16 ≤ e.1
    dramPoison := s.dramPoison.filter fun g => g < lo || lo + 2 ^ 16 ≤ g }

/-- The charge for `n` lines at a controller (R406). -/
def chargeLines (unit n : Nat) (s : State) : State := chargeDie (unitDie unit) (n * if unit < 8 then 600 else 1500) s

/-- A frame from a unit's free-frame queue, zeroed (R102). -/
def takeFrame (unit : Nat) (s : State) : Option (Nat × State) :=
  match (State.unit s unit).ffq with
  | [] => none
  | f :: q => some (f, chargeLines unit 512 (State.modUnit (zeroFrame s unit f) unit fun u => { u with ffq := q }))

/-- A frame goes back to its unit's queue (R102). -/
def giveFrame (unit f : Nat) (s : State) : State := State.modUnit s unit fun u => { u with ffq := u.ffq ++ [f] }

/-- The PRESENT entry that a filled ZERO entry becomes (R102). -/
def filledEntry (z f : Nat) (write : Bool) : Nat := 1 + 8 + (if write then 16 else 0) + z / 2 ^ 5 % 32 * 2 ^ 5 + f * 2 ^ 16

/-- Use the entry now in place (R101). -/
def useEntry (die c : Nat) (write : Bool) (s : State) : Entry_ × State :=
  match entryOf s c with
  | .present key e big =>
    let r := touchEntry s die key e write
    (.present key r.1 big, r.2)
  | x => (x, s)

/-- Fill a ZERO entry read as `z`: a frame is zeroed and the entry swapped; where it is no longer `z`, the frame goes back
and the entry in place is used (R102). -/
def fillZero (die c z : Nat) (write : Bool) (s : State) : Entry_ × State :=
  match takeFrame (entryUnit z) s with
  | none => (.fault kindNoFrame z, s)
  | some (f, s1) =>
    match entryOf s1 c with
    | .zero key e =>
      if e = z then
        (.present key (filledEntry z f write) false, State.setDword (chargeEntry die key s1) key (filledEntry z f write))
      else useEntry die c write (giveFrame (entryUnit z) f s1)
    | _ => useEntry die c write (giveFrame (entryUnit z) f s1)

/-- A walk by a die's unit, as it ends: `zero` is the ZERO entry it read when it began (R100 to R102). -/
def walk (die c : Nat) (write : Bool) (zero : Option Nat) (s : State) : Entry_ × State :=
  let s1 := readEntries die (walkKeys s c) s
  match zero, entryOf s1 c with
  | some z, _ => fillZero die c z write s1
  | none, .zero _ z => fillZero die c z write s1
  | none, _ => useEntry die c write s1

/-! ## Translation units (R99 to R104) -/

/-- The outcome of a translation. -/
inductive Xlate where
  | ok (unit off : Nat)
  /-- The request has taken a place in the hold queue (R103). -/
  | held
  /-- A walk of the page is in flight, 16 are, or the request is held: it is made again. -/
  | wait
  | fault (kind e : Nat)
  deriving DecidableEq, Repr

/-- Cached entry of a page: a leaf entry, or the entry of its 2 MiB region (R100). -/
def tlbFind (d : Die) (c : Nat) : Option Tlb :=
  match Table.find (c / 2 ^ 16) d.tlb with
  | some t => some t
  | none =>
    match Table.find (c / 2 ^ 21 * 32) d.tlb with
    | some t => if t.big then some t else none
    | none => none

/-- Room for one more entry among the 8,192 of R100; which one is dropped is open (log 42). -/
def roomInTlb (die : Nat) (s : State) : State :=
  let t := (State.die s die).tlb
  if t.length < 8192 then s
  else
    let d := State.draw s
    State.modDie d.2 die fun x => { x with tlb := x.tlb.eraseIdx (d.1 % t.length) }

/-- Cache a PRESENT entry (R100). -/
def cacheEntry (die c e : Nat) (big : Bool) (s : State) : State :=
  State.modDie (roomInTlb die s) die fun d =>
    { d with tlb := Table.set (if big then c / 2 ^ 21 * 32 else c / 2 ^ 16) ⟨e, big⟩ d.tlb }

/-- The region entry of a page translates the whole region (R95). -/
def regionWhole (s : State) (c : Nat) : Bool := State.dword s (regionKey s c) % 8 != 6

/-- A walk of the page of `c` is in flight, and no second one of it starts (R100). -/
def walking (s : State) (d : Die) (c : Nat) : Bool :=
  d.walks.any fun w => w.page == c / 2 ^ 16 || (w.page / 32 == c / 2 ^ 21 && regionWhole s c)

/-- A request is in the die's hold queue (R103). -/
def isHeld (d : Die) (line : Nat) (k : ReqKind) : Bool := d.hold.any fun h => h.line == line && h.kind == k

/-- A request that meets MIGRATING: it holds, or faults where the queue of 64 is full (R103). -/
def holdReq (die line : Nat) (k : ReqKind) (e : Nat) (s : State) : Xlate × State :=
  if 64 ≤ (State.die s die).hold.length then (.fault kindMigrating e, s)
  else (.held, State.modDie s die fun d => { d with hold := d.hold ++ [⟨line, k, false⟩] })

/-- What a request gets from the walk made for it. -/
def afterWalk (die c : Nat) (k : ReqKind) (r : Entry_ × State) : Xlate × State :=
  match r.1 with
  | .present _ e big => (.ok (placeOf e big c).1 (placeOf e big c).2, cacheEntry die c e big r.2)
  | .migrating e => holdReq die (lineOf c) k e r.2
  | .fault n e => (.fault n e, r.2)
  | .zero _ _ => (.wait, r.2)

/-- A request that misses in the cache: it waits for a walk in flight, or has one of its own (R100). -/
def missWalk (die c : Nat) (k : ReqKind) (s : State) : Xlate × State :=
  let d := State.die s die
  if isHeld d (lineOf c) k || walking s d c || decide (16 ≤ d.walks.length) then (.wait, s)
  else afterWalk die c k (walk die c (k == .write) none s)

/-- Set D of a PRESENT entry, and nothing else, as one access of the die to its word (R101). -/
def setDirty (s : State) (key e : Nat) : Nat × State :=
  let e1 := if e.testBit 4 then e else e + 16
  (e1, if e1 = e then s else State.setDword s key e1)

/-- A cached entry as a write finds it: where its D is 0, the entry in place is read and its D set before the request goes on
(R101, R118); none where the entry in place no longer translates the page. -/
def dirtyHit (die c : Nat) (t : Tlb) (s : State) : Option (Xlate × State) :=
  if t.entry.testBit 4 then some (.ok (placeOf t.entry t.big c).1 (placeOf t.entry t.big c).2, s)
  else
    let s0 := readEntries die ((walkKeys s c).drop ((walkKeys s c).length - 1)) s
    match entryOf s0 c with
    | .present key e big =>
      let r := setDirty s0 key e
      some (.ok (placeOf r.1 big c).1 (placeOf r.1 big c).2, cacheEntry die c r.1 big r.2)
    | _ => none

/-- Translate a request that leaves a die's L2 (R99 to R103). -/
def xlate (die c : Nat) (k : ReqKind) (s : State) : Xlate × State :=
  match tlbFind (State.die s die) c with
  | some t =>
    if k == .write then
      match dirtyHit die c t s with
      | some r => r
      | none => missWalk die c k (State.modDie s die fun d =>
          { d with tlb := Table.del (c / 2 ^ 16) (Table.del (c / 2 ^ 21 * 32) d.tlb) })
    else (.ok (placeOf t.entry t.big c).1 (placeOf t.entry t.big c).2, s)
  | none => missWalk die c k s

/-- What a walk made now would answer, without its effects. -/
def walkLook (s : State) (die c : Nat) (k : ReqKind) : Xlate :=
  let d := State.die s die
  if isHeld d (lineOf c) k || walking s d c || decide (16 ≤ d.walks.length) then .wait
  else
    match entryOf s c with
    | .present _ e big => .ok (placeOf e big c).1 (placeOf e big c).2
    | .zero _ z => if (State.unit s (entryUnit z)).ffq.isEmpty then .fault kindNoFrame z else .wait
    | .migrating e => if 64 ≤ d.hold.length then .fault kindMigrating e else .wait
    | .fault n e => .fault n e

/-- A cached entry serves a write: its D is set, or the entry in place translates the page still (R101). -/
def dirtyLook (s : State) (c : Nat) (t : Tlb) : Bool :=
  t.entry.testBit 4 || match entryOf s c with
    | .present .. => true
    | _ => false

/-- What xlate would answer a request now, without its effects. -/
def xlateLook (s : State) (die c : Nat) (k : ReqKind) : Xlate :=
  match tlbFind (State.die s die) c with
  | some t =>
    if k != .write || dirtyLook s c t then .ok (placeOf t.entry t.big c).1 (placeOf t.entry t.big c).2
    else walkLook s die c k
  | none => walkLook s die c k

/-! ## Requests of an L2 (R122 to R126) -/

/-- A next message, with the charge of its crossings (R125, R406). -/
def sendMsg (m : Msg) (s : State) : State :=
  let k := s.nextKey
  let n := (crossingsOf m.src m.dst).length
  let s1 : State := { s with nextKey := k + 1, msgs := Table.set k m s.msgs }
  if n = 0 then s1 else chargeDie m.src (80 * n) s1

/-- The request for a translated line goes to its home: RdS, RdX or Upg; an owner in E turns to M without one (log 15). -/
def sendReq (die line : Nat) (excl : Bool) (unit off : Nat) (s : State) : State :=
  let l := Table.find line (State.die s die).l2
  if excl && (match l with
      | some x => x.st == .e
      | none => false) then
    State.modDie s die fun d => { d with l2 := Table.alter line (fun x => { x with st := .m }) d.l2 }
  else
    sendMsg ⟨if !excl then .rdS else if l.isSome then .upg else .rdX, line, die, unitDie unit, [], 0, unitKey unit (off / 128 * 128)⟩
      (State.modDie s die fun d => { d with wants := Table.set line ⟨excl, none, 0, false, false, some (unitDie unit)⟩ d.wants })

/-- The L2 holds the line well enough: in any state, or for a write in M. -/
def holdsLine (d : Die) (line : Nat) (excl : Bool) : Bool :=
  match Table.find line d.l2 with
  | some x => !excl || x.st == .m
  | none => false

/-- A request of the die for the line is under way, or its eviction is. -/
def lineBusy (d : Die) (line : Nat) : Bool := (Table.find line d.wants).isSome || (Table.find line d.evict).isSome

/-- Ask for a line that the die's L2 does not hold well enough: its fault, if it meets one (R99, R105). -/
def askLine (die line : Nat) (excl : Bool) (s : State) : Option (Nat × Nat) × State :=
  if lineBusy (State.die s die) line then (none, s)
  else
    match xlate die (line * 128) (if excl then .write else .read) s with
    | (.ok u o, s1) => (none, sendReq die line excl u o s1)
    | (.fault k e, s1) => (some (k, e), s1)
    | (_, s1) => (none, s1)

/-- An access of a thread of the die is translated and can use the line as the L2 now holds it: the line is given up only
after that. -/
def usable (s : State) (die line : Nat) : Bool :=
  match Table.find line (State.die s die).l2 with
  | none => false
  | some l => s.ops.any fun e => e.2.band / 1024 == die && !OpKind.ofTile e.2.kind && e.2.accs.any fun a =>
      a.stage == .translated && (match a.place with
        | .mem c => lineOf c == line
        | _ => false)
      && (l.st == .m || match e.2.kind with
        | .store | .atomic .. => false
        | _ => true)

/-- PutM or PutE of a line kept until PutAck (R126). -/
def sendPut (die line unit off : Nat) (s : State) : State :=
  match Table.find line (State.die s die).evict with
  | none => s
  | some l =>
    let m := unitKey unit (off / 128 * 128)
    if l.st == .e then sendMsg ⟨.putE, line, die, unitDie unit, [], 0, m⟩ s
    else sendMsg ⟨.putM, line, die, unitDie unit, l.bytes, l.poison, m⟩ s

/-- A die gives up a line: PutM from M or O, PutE from E, nothing from S (R125, R126). A write-back is translated like any
request (R99); on a MIGRATING page it holds with its data (R103). None where it cannot leave now: a request of the die for
it is under way, or an access is about to use it. -/
def evictLine (die line : Nat) (s : State) : Option State :=
  match Table.find line (State.die s die).l2 with
  | none => some s
  | some l =>
    let drop (s : State) : State := State.modDie s die fun d => { d with l2 := Table.del line d.l2 }
    let keep (s : State) : State := State.modDie (drop s) die fun d => { d with evict := Table.set line l d.evict }
    if (Table.find line (State.die s die).wants).isSome || usable s die line then none
    else if l.st == .s then some (drop s)
    else
      match xlate die (line * 128) .back s with
      | (.ok u o, s1) => some (sendPut die line u o (keep s1))
      | (.held, s1) => some (keep s1)
      | (.wait, _) => none
      | (.fault k _, s1) => if k = kindMigrating then none else some (drop s1)

/-- Bytes `bs` put at offset `o` of a line, with the marks a partial write leaves (R119). -/
def mergeLine (line : List Byte) (p : BitVec 8) (o : Nat) (bs : List Byte) : List Byte × BitVec 8 :=
  (line.take o ++ bs ++ line.drop (o + bs.length),
    BitVec.ofNat 8 (Arith.tabulate 8 fun i =>
      p.getLsbD i && !(decide (o ≤ 16 * i) && decide (16 * i + 16 ≤ o + bs.length))))

/-- The outcome of an access made in a die's L2 by an engine, a peer, the hub or firmware. -/
inductive Access where
  | ok (bytes : List Byte)
  /-- A granule of the line is poisoned: the offset of the lowest poisoned byte touched. -/
  | poison (off : Nat)
  | fault (kind e : Nat)
  /-- The line is on its way: try again. -/
  | busy
  deriving DecidableEq, Repr

/-- The lowest byte in `[o, o + n)` of a line that is poisoned. -/
def poisonAt (p : BitVec 8) (o n : Nat) : Option Nat := ((List.range n).map (fun i => o + i)).find? fun i => p.getLsbD (i / 16)

/-- The outcome of work that reads or writes lines: done, or to be tried again when a line has come, with the requests made
so far. -/
inductive Try where
  | done (s : State)
  | busy (s : State)
  deriving DecidableEq, Repr

/-- The state it leaves. -/
def Try.state : Try → State
  | .done s | .busy s => s

/-- More work, once it is done. -/
def Try.next (t : Try) (f : State → Try) : Try :=
  match t with
  | .done s => f s
  | .busy s => .busy s

def Try.map (t : Try) (f : State → State) : Try := Try.next t fun s => .done (f s)

/-- The answer to a request just made. -/
def asked (r : Option (Nat × Nat) × State) : Access × State :=
  match r with
  | (some (k, e), s) => (.fault k e, s)
  | (none, s) => (.busy, s)

/-- Read `n` bytes of one line in a die's L2, which asks for the line where it does not hold it (R122, R125). -/
def readMem (die : Nat) (s : State) (c n : Nat) : Access × State :=
  match Table.find (lineOf c) (State.die s die).l2 with
  | some l =>
    match poisonAt l.poison (c % 128) n with
    | some b => (.poison (b - c % 128), s)
    | none => (.ok ((l.bytes.drop (c % 128)).take n), s)
  | none => asked (askLine die (lineOf c) false s)

/-- Write bytes within one line in a die's L2, once it holds the line in M (R122). -/
def writeMem (die : Nat) (s : State) (c : Nat) (bs : List Byte) : Access × State :=
  match Table.find (lineOf c) (State.die s die).l2 with
  | some l =>
    if l.st == .m then
      let m := mergeLine l.bytes l.poison (c % 128) bs
      (.ok [], State.modDie s die fun d => { d with l2 := Table.set (lineOf c) ⟨.m, m.1, m.2⟩ d.l2 })
    else asked (askLine die (lineOf c) true s)
  | none => asked (askLine die (lineOf c) true s)

/-- Ask for a line whose place is known: its page has been translated before (R99, R289). -/
def askPlaced (die line : Nat) (excl : Bool) (mem : Nat) (s : State) : State :=
  let d := State.die s die
  if holdsLine d line excl || lineBusy d line then s else sendReq die line excl (mem / 2 ^ 40) (mem % 2 ^ 40) s

/-- What a read, or a write, of `n` bytes of one line would answer now, without its request (R122). -/
def lookMem (s : State) (die : Nat) (excl : Bool) (c n : Nat) : Access :=
  let d := State.die s die
  match Table.find (lineOf c) d.l2 with
  | some l =>
    if !excl || l.st == .m then
      match poisonAt l.poison (c % 128) n with
      | some b => if excl then .ok [] else .poison (b - c % 128)
      | none => .ok ((l.bytes.drop (c % 128)).take n)
    else if lineBusy d (lineOf c) then .busy
    else
      match xlateLook s die c .write with
      | .fault k e => .fault k e
      | _ => .busy
  | none =>
    if lineBusy d (lineOf c) then .busy
    else
      match xlateLook s die c (if excl then .write else .read) with
      | .fault k e => .fault k e
      | _ => .busy

/-- The directory entry of a line at its home (R125, R127). -/
def Die.entry (d : Die) (line : Nat) : Dir := Table.get ⟨none, [], none, 0, 0⟩ line d.dir

/-- Set the directory entry of a line; an entry with no holder and no transaction is not kept. -/
def setDir (home line : Nat) (e : Dir) (s : State) : State :=
  State.modDie s home fun d =>
    { d with dir := if e.owner.isNone && e.sharers.isEmpty && e.txn.isNone then Table.del line d.dir else Table.set line e d.dir }

/-- Begin a back-invalidation that includes the home's own L2: Inv to each S holder, Fwd to the M, O or E holder, which
writes the line to memory (R127, R128). A line that no die holds needs none. -/
def openFlush (home line : Nat) (s : State) : State :=
  let e := Die.entry (State.die s home) line
  let s1 := e.sharers.foldl (fun s d => sendMsg ⟨.inv, line, home, d, [], 0, e.mem⟩ s) s
  match e.owner with
  | some w =>
    setDir home line ⟨none, [], some ⟨home, true, w :: e.sharers, true, e.mem⟩, s1.nextKey, e.mem⟩
      (sendMsg ⟨.fwd home true true, line, home, w, [], 0, e.mem⟩ s1)
  | none =>
    if e.sharers.isEmpty then s
    else setDir home line ⟨none, [], some ⟨home, true, e.sharers, true, e.mem⟩, s1.nextKey, e.mem⟩ s1

/-- A back-invalidation of the line is under way at its home. -/
def flushing (s : State) (home line : Nat) : Bool :=
  match (Die.entry (State.die s home) line).txn with
  | some t => t.flush
  | none => false

/-- The die through which the hub and firmware reach a chip address: its home die (R193); where its entry is not PRESENT,
the die whose stack holds its region entry (log 44). -/
def hubDie (s : State) (c : Nat) : Nat :=
  match entryOf s c with
  | .present _ e big => unitDie (placeOf e big c).1
  | _ => c / 2 ^ 21 % 4

/-- No transaction of the line is under way: no message, no open transaction, no die obtaining it. -/
def lineIdle (s : State) (line : Nat) : Bool :=
  !(s.msgs.any fun m => m.2.line == line)
    && (List.range 4).all fun d =>
      let x := State.die s d
      (Table.find line x.wants).isNone && (Table.find line x.evict).isNone
        && !(x.dir.any fun e => e.1 == line && e.2.txn.isSome)

/-! ## Instruction fetch (R80, R90, R91) -/

/-- The outcome of fetching one word. -/
inductive Fetch where
  | ok (w : Nat)
  | rangeProt
  | fault (kind e c : Nat)
  | poison
  | busy
  deriving DecidableEq, Repr

/-- The word at a virtual address of the memory window, as the L2 of the fetching core's die holds its line; a line it does
not hold is asked for (askFetch), and a fault that its translation meets is the fetch's (R105). -/
def fetchWord (s : State) (die ctx va : Nat) : Fetch :=
  if va / 2 ^ 60 = 0 then
    match rangeCheck (State.ctx s ctx) va permEx with
    | none => .rangeProt
    | some c =>
      match lookMem s die false c 4 with
      | .ok bs => .ok (leNat bs)
      | .poison _ => .poison
      | .fault k e => .fault k e c
      | .busy => .busy
  else .rangeProt

/-- Ask for the line of a word to be fetched. -/
def askFetch (die ctx va : Nat) (s : State) : State :=
  match fetchWord s die ctx va, rangeCheck (State.ctx s ctx) va permEx with
  | .busy, some c => (askLine die (lineOf c) false s).2
  | _, _ => s

/-! ## SRAM (R131 to R146) -/

/-- Block number of a byte of global form `g`, within its slice. -/
def blockOf (g : Nat) : Nat := g % 2 ^ 26 / 1024

/-- The bank of the byte at slice offset `a` under a swizzle mode (R135). -/
def bankOf (mode a : Nat) : Nat :=
  a / 16 % 64 ^^^ (match mode with
    | 1 => a / 2 ^ 10 % 8
    | 2 => a / 2 ^ 10 % 16
    | 3 => a / 2 ^ 10 % 64
    | _ => 0)

/-- The bank and bank row in which a byte of global form `g` lies, by the mode of its block; a block of no owner has mode 0
(R131, R135). -/
def bankPlace (s : State) (g : Nat) : Nat × Nat :=
  let mode := match Table.find (blockOf g) (State.core s (g / 2 ^ 26)).owners with
    | some (_, m) => m
    | none => 0
  (bankOf mode (g % 2 ^ 26), g % 2 ^ 26 / 2 ^ 10)

/-- Bank cycles that one access group of a slice needs: the most distinct bank words it touches in one bank (R136). -/
def bankCycles (s : State) (gs : List Nat) : Nat :=
  let ws := gs.foldl (fun t g => NatSet.add (g / 16) t) []
  let bs := ws.map fun w => (bankPlace s (16 * w)).1
  bs.foldl (fun k b => Nat.max k (bs.filter fun c => c == b).length) 1

/-- The owner record of the byte's block names the context (R131, R133). -/
def ownedBy (s : State) (g ctx : Nat) : Bool :=
  match Table.find (blockOf g) (State.core s (g / 2 ^ 26)).owners with
  | some (c, _) => c == ctx
  | none => false

/-- The byte an SRAM access reaches: its global form when in range (R133). -/
def sramByte (s : State) (core : Nat) (t : Team) (g : Grid) (w : Window) (x : Nat) : Option Nat :=
  match sramForm core t g w x with
  | none => none
  | some b => if w == .loc || ownedBy s b g.ctx then some b else none

/-- Cores to wake for a write of `n` bytes at `g`: every watcher of a word touched (R146). -/
def wakesFor (s : State) (g n : Nat) : List (Nat × Nat) :=
  let k := State.core s (g / 2 ^ 26)
  (List.range ((g % 4 + n + 3) / 4)).flatMap fun i =>
    let w := g / 4 * 4 + 4 * i
    match Table.find w k.watch with
    | none => []
    | some m => (lanesOf m).map fun c => (c, w)

/-- Bank words of `[lo, lo + n)` that a list names. -/
def wordsIn {α : Type} (lo n : Nat) (t : Table α) : Table α :=
  t.filter fun e => decide (lo < e.1 + 16) && decide (e.1 < lo + n)

/-- What the code finds in the bank words that a read of `n` bytes at `g` touches: a corrected error counts in CE, an
uncorrectable one, and a poisoned word, in UE of the slice's core (R141, R142; log 45). -/
def senseSram (g n : Nat) (s : State) : State :=
  let bad := (s.sramPoison.filter fun b => decide (g < b + 16) && decide (b < g + n)).length
  let fs := wordsIn g n s.sramFlips
  if bad = 0 ∧ fs.isEmpty then s
  else
    let ue := bad + (fs.filter fun e => e.2).length
    let count (r : Dword) : Dword :=
      (List.range (fs.length - (ue - bad))).foldl (fun r _ => countError 0 r) ((List.range ue).foldl (fun r _ => countError 1 r) r)
    State.modCore
      { s with
        sramPoison := fs.foldl (fun p e => if e.2 then NatSet.add e.1 p else p) s.sramPoison
        sramFlips := fs.foldl (fun t e => if e.2 then Table.del e.1 t else t) s.sramFlips }
      (g / 2 ^ 26) fun k => { k with sramerr := count k.sramerr }

/-- The bank words that a write of bytes from `g` up to `h` covers in part are read and merged (R141). -/
def sensePartial (g h : Nat) (s : State) : State :=
  let s1 := if g % 16 = 0 ∧ g / 16 * 16 + 16 ≤ h then s else senseSram (g / 16 * 16) 16 s
  if h % 16 = 0 ∨ h / 16 = g / 16 then s1 else senseSram (h / 16 * 16) 16 s1

/-- Write bytes of one slice: a bank word written in part is read and merged, the errors of the words written go with
their codes, the marks of those written whole go too (R141), and watchers are woken (R146). -/
def writeSram (s : State) (g : Nat) (bs : List Byte) : State :=
  if bs.isEmpty then s
  else
    let h := g + bs.length
    let ws := wakesFor s g bs.length
    let s0 := sensePartial g h s
    let s1 : State :=
      { s0 with
        sram := Memory.store s0.sram g bs
        sramFlips := s0.sramFlips.filter fun e => decide (h ≤ e.1) || decide (e.1 + 16 ≤ g)
        sramPoison := s0.sramPoison.filter fun b => !(decide (g ≤ b) && decide (b + 16 ≤ h)) }
    if ws.isEmpty then s1 else State.modCore s1 (g / 2 ^ 26) fun k => { k with wakes := k.wakes ++ ws }

/-- A write that changes no value still wakes (R146). -/
def touchSram (s : State) (g n : Nat) : State :=
  let ws := wakesFor s g n
  if ws.isEmpty then s else State.modCore s (g / 2 ^ 26) fun k => { k with wakes := k.wakes ++ ws }

def readSram (s : State) (g n : Nat) : List Byte := Memory.bytes s.sram g n

/-- The lowest poisoned byte of `[g, g + n)` (R141). -/
def sramPoisoned (s : State) (g n : Nat) : Option Nat :=
  if s.sramPoison.isEmpty then none
  else ((List.range n).map (fun i => g + i)).find? fun b => s.sramPoison.elem (b / 16 * 16)

/-- The lowest byte of `[g, g + n)` that a read at this moment finds poisoned, its code's findings included (R141). -/
def sramMarked (s : State) (g n : Nat) : Option Nat := sramPoisoned (senseSram g n s) g n

/-- A report comes before the one latched: from a lower core in the same hub cycle, or from a lower lane of the same
instruction (R139). -/
def SpReport.before (r q : SpReport) : Bool :=
  (r.k == q.k && decide (r.core < q.core)) || (r.core == q.core && r.op == q.op && decide (r.lane < q.lane))

/-- Latch an out-of-range access of a lane (R138, R139): `op` numbers its instruction. -/
def latchSpflag (s : State) (ctx core op lane : Nat) (write : Bool) (win x : Nat) : State :=
  let r : SpReport := ⟨s.hub.k, core, op, lane⟩
  State.modCtx s ctx fun c =>
    if c.spflag.getLsbD 0 && !(match c.spby with
        | some q => SpReport.before r q
        | none => false) then c
    else { c with spflag := BitVec.ofNat 64 (1 + (if write then 2 else 0) + win * 4 + x % 2 ^ 56 * 2 ^ 8), spby := some r }

/-- Latch an out-of-range access that is performed as its instruction issues. -/
def latchNow (ctx core lane : Nat) (write : Bool) (win x : Nat) (s : State) : State :=
  latchSpflag { s with nextKey := s.nextKey + 1 } ctx core s.nextKey lane write win x

/-- Register a watch for a core: whether its lane must poll in its place, and the state (R145 to R147). -/
def armMonitor (core : Nat) (g : Option Nat) (s : State) : Bool × State :=
  match g with
  | none => (true, s)
  | some g =>
    let c := State.core s core
    if c.monitor.elem g then (false, s)
    else
      let f := (State.core s (g / 2 ^ 26)).watch
      if 256 ≤ c.monitor.length ∨ (1024 ≤ f.length ∧ (Table.find g f).isNone) then (true, s)
      else
        let bit := BitVec.ofNat 64 (2 ^ core)
        (false, State.modCore (State.modCore s core fun c => { c with monitor := NatSet.add g c.monitor }) (g / 2 ^ 26)
          fun c => { c with watch := Table.set g (Table.get 0 g c.watch ||| bit) c.watch })

def windowCode : Window → Nat
  | .prv => 0
  | .loc => 1
  | .par => 2
  | .glb => 3
  | .mem => 4

/-! ## Atomics (R182, R184) -/

/-- The new value of the bytes, none where unchanged. -/
def atomicNew (op : AOp) (sgn : Bool) (n : Nat) (m b cmp : Nat) : Option Nat :=
  let w := 8 * n
  let f : Fp.Fmt := if n = 8 then .f64 else .f32
  match op with
  | .add => some ((m + b) % 2 ^ w)
  | .min => some (if Arith.val sgn w b < Arith.val sgn w m then b else m)
  | .max => some (if Arith.val sgn w m < Arith.val sgn w b then b else m)
  | .and => some (m &&& b)
  | .or => some (m ||| b)
  | .xor => some (m ^^^ b)
  | .exch => some b
  | .cas => if m = cmp then some b else none
  | .fadd => some (Fp.arith .add f m b 0 .rn false 0).1
  | .fmin => some (Fp.minmax false f m b)
  | .fmax => some (Fp.minmax true f m b)

end Sys2Proof.Machine
end

