-- ==== Sys2Proof/Machine/Fetch.lean ====
section
/-!
DEFINITION. Fetching a clause's words and the instruction of a group (spec/02_clauses_and_formats.md R32, R43;
spec/04_addresses_and_translation.md R80, R90, R91; spec/18_traps_fragments_preemption.md R443).
-/
namespace Sys2Proof.Machine

/-- The outcome of fetching an instruction. -/
inductive Fetched where
  | ok (i : Instr)
  /-- The word is none of the table's (R43). -/
  | illegal
  | rangeProt (va : Nat)
  | fault (kind e c va : Nat)
  | poison (va : Nat)
  | busy
  deriving DecidableEq, Repr

/-- Address of a slot's word. -/
def slotVa (pc : Pc) : Nat := pc.clause + 4 * (pc.slot + 1)

/-- A decoded word, or pair of words (R43). -/
def decoded (w0 w1 : Nat) : Fetched :=
  match decode w0 w1 with
  | .ok i => .ok i
  | .error _ => .illegal

/-- The instruction at a PC, as the L2 of the fetching core's die holds its words. -/
def fetchAt (s : State) (die ctx : Nat) (pc : Pc) : Fetched :=
  let a := slotVa pc
  match fetchWord s die ctx a with
  | .rangeProt => .rangeProt a
  | .fault k e c => .fault k e c a
  | .poison => .poison a
  | .busy => .busy
  | .ok w0 =>
    if slotsOf w0 = 2 then
      match fetchWord s die ctx (a + 4) with
      | .rangeProt => .rangeProt (a + 4)
      | .fault k e c => .fault k e c (a + 4)
      | .poison => .poison (a + 4)
      | .busy => .busy
      | .ok w1 => decoded w0 w1
    else decoded w0 0

/-- The instruction of a group: a READY fragment's from its log, else fetched (R443). -/
def instrOf (s : State) (key ctx : Nat) (pc : Pc) (replay : Option Nat) : Fetched :=
  match replay with
  | none => fetchAt s (key / 1024) ctx pc
  | some n =>
    match Table.find n (State.core s (key / 64)).frags with
    | some f => decoded f.log.w0 f.log.w1
    | none => .busy

/-- Ask for the lines of a clause: that of its header, then that of its last word. -/
def askClause (die ctx clause : Nat) (s : State) : State :=
  match fetchWord s die ctx clause with
  | .ok h => askFetch die ctx (clause + 4 * (h / 2 ^ 28 % 16)) s
  | _ => askFetch die ctx clause s

end Sys2Proof.Machine
end

