-- ==== Sys2Proof/Machine/Grids.lean ====
section
/-!
DEFINITION. Launching a grid: the descriptor, the image, the refusals, the queues; completion records and the journal
(spec/16_barriers_tasks_grids.md R387 to R392; spec/02_clauses_and_formats.md R52 to R55; spec/01_the_part.md R24 to R27;
spec/17_scheduling_tokens_power.md R396 to R398, R426).
-/
namespace Sys2Proof.Machine

/-! ## Reading and writing spans of a context's memory -/

/-- The outcome of reading a span by the hub (log 10). -/
inductive Span where
  | ok (bs : List Byte)
  /-- A byte fails its range check, faults at translation or is poisoned. -/
  | bad
  | busy
  deriving DecidableEq, Repr

/-- Read `n` bytes from `va` up, line by line. -/
def readLines (ctx need : Nat) : Nat → Nat → Nat → State → Span × State
  | 0, _, _, s => (.ok [], s)
  | k + 1, va, n, s =>
    let m := Nat.min n (128 - va % 128)
    if n = 0 then (.ok [], s)
    else if 2 ^ 60 ≤ va then (.bad, s)
    else
      match rangeCheck (State.ctx s ctx) va need with
      | none => (.bad, s)
      | some c =>
        match readMem (hubDie s c) s c m with
        | (.ok bs, s1) =>
          match readLines ctx need k (va + m) (n - m) s1 with
          | (.ok r, s2) => (.ok (bs ++ r), s2)
          | x => x
        | (.busy, s1) => (.busy, s1)
        | (_, s1) => (.bad, s1)

def readSpan (ctx need va n : Nat) (s : State) : Span × State := readLines ctx need ((va % 128 + n + 127) / 128) va n s

/-- A little-endian field of a list of bytes. -/
def fieldAt (bs : List Byte) (o n : Nat) : Nat := leNat ((bs.drop o).take n)

/-- Bytes `[o, o + n)` of a list are zero. -/
def zeroAt (bs : List Byte) (o n : Nat) : Bool := ((bs.drop o).take n).all fun b => b == 0

/-! ## The launch descriptor (R388) -/

def parseDesc (bs : List Byte) : Desc :=
  { image := fieldAt bs 0x00 8, nteam := fieldAt bs 0x08 4, gridid := fieldAt bs 0x0C 4, pbase := fieldAt bs 0x10 8
    psize := fieldAt bs 0x18 4, swz := fieldAt bs 0x1C 1, dies := fieldAt bs 0x1D 1, bwdog := fieldAt bs 0x1E 2
    param := fieldAt bs 0x20 8, stat := fieldAt bs 0x28 8, depk := fieldAt bs 0x30 1, depgrid := fieldAt bs 0x34 4
    bmap := fieldAt bs 0x38 8, bfirst := fieldAt bs 0x40 4, bper := fieldAt bs 0x44 4, bcnt := fieldAt bs 0x48 4 }

/-- Every descriptor field holds an allowed value (R388). -/
def descOk (bs : List Byte) : Bool :=
  let d := parseDesc bs
  d.image % 128 == 0 && decide (1 ≤ d.nteam) && decide (d.nteam ≤ 16777216) && d.pbase % 65536 == 0
    && d.psize % 16 == 0 && decide (d.psize ≤ 1048576) && decide (d.swz ≤ 3) && decide (d.dies < 16) && d.param % 8 == 0
    && d.stat % 16 == 0 && decide (d.depk ≤ 2) && zeroAt bs 0x31 3 && (d.depk == 1 || d.depgrid == 0)
    && d.bmap % 8 == 0 && (d.depk == 2 || d.bmap == 0)
    && (d.depk != 2 || (decide (1 ≤ d.bcnt) && decide (d.bcnt ≤ 65536))) && zeroAt bs 0x4C 52

/-! ## The kernel image (R52 to R55) -/

def parseHeader (bs : List Byte) : Header :=
  { flags := fieldAt bs 0x06 2, entry := fieldAt bs 0x08 8, trape := fieldAt bs 0x10 8, bwc := fieldAt bs 0x18 1
    vbud := fieldAt bs 0x19 1, sbud := fieldAt bs 0x1A 1, rjd := fieldAt bs 0x1B 1, tiles := fieldAt bs 0x1C 1
    nbands := fieldAt bs 0x1D 1, nrole := fieldAt bs 0x1E 1, scratch := fieldAt bs 0x20 8, roletab := fieldAt bs 0x28 8
    livetab := fieldAt bs 0x30 8, nlive := fieldAt bs 0x38 2, paramsz := fieldAt bs 0x3A 2, constsz := fieldAt bs 0x3C 4
    const := fieldAt bs 0x40 8 }

def Header.pair (h : Header) : Bool := h.flags.testBit 1

/-- Every header field holds an allowed value (R52, R53). -/
def headerOk (bs : List Byte) : Bool :=
  let h := parseHeader bs
  fieldAt bs 0 4 == 0x4B364648 && fieldAt bs 4 2 == 1 && decide (h.flags < 4) && h.entry % 4 == 0 && h.trape % 4 == 0
    && decide (h.bwc ≤ 3) && decide (1 ≤ h.vbud) && decide (h.vbud ≤ 16) && decide (1 ≤ h.sbud) && decide (h.sbud ≤ 128)
    && decide (h.rjd ≤ 15) && decide (h.tiles ≤ 32) && decide (1 ≤ h.nbands)
    && decide (h.nbands ≤ if Header.pair h then 64 else 32) && decide (h.nrole ≤ 3) && zeroAt bs 0x1F 1
    && h.scratch % 1024 == 0 && h.roletab % 16 == 0 && (h.nrole != 0 || h.roletab == 0) && h.livetab % 8 == 0
    && (h.nlive != 0 || h.livetab == 0) && decide (h.nlive ≤ 4096) && decide (h.paramsz ≤ 256) && h.paramsz % 4 == 0
    && h.const % 128 == 0 && zeroAt bs 0x48 8 && decide (h.rjd < 8 * h.vbud)

def parseRole (bs : List Byte) : Role :=
  { role := fieldAt bs 0 1, nb := fieldAt bs 1 1, vbud := fieldAt bs 2 1, sbud := fieldAt bs 3 1, entry := fieldAt bs 8 8 }

def roleOk (h : Header) (bs : List Byte) : Bool :=
  let r := parseRole bs
  decide (r.role ≤ 2) && decide (1 ≤ r.nb) && decide (r.nb ≤ 64) && decide (1 ≤ r.vbud) && decide (r.vbud ≤ 16)
    && decide (1 ≤ r.sbud) && decide (r.sbud ≤ 128) && zeroAt bs 4 4 && r.entry % 4 == 0 && decide (h.rjd < 8 * r.vbud)

/-- No number occurs twice. -/
def distinct : List Nat → Bool
  | [] => true
  | x :: t => !t.elem x && distinct t

/-- The role table agrees with the header (R53, R54). -/
def rolesOk (h : Header) (rs : List Role) : Bool :=
  rs.isEmpty || ((rs.foldl (fun n r => n + r.nb) 0) == h.nbands && distinct (rs.map fun r => r.role)
    && (rs.foldl (fun n r => Nat.max n r.vbud) 0) == h.vbud && (rs.foldl (fun n r => Nat.max n r.sbud) 0) == h.sbud)

/-- The parameters fit the scalar budget of every band (R53). -/
def paramsFit (h : Header) (rs : List Role) : Bool :=
  decide (h.paramsz ≤ 32 * h.sbud) && rs.all fun r => decide (h.paramsz ≤ 32 * r.sbud)

/-- A bit mask of `n` bytes. -/
def maskAt (bs : List Byte) (o n : Nat) : Nat := fieldAt bs o n

def parseRanges (bs : List Byte) : Nat → List (Nat × Nat)
  | 0 => []
  | n + 1 => (fieldAt bs 0 4, fieldAt bs 4 4) :: parseRanges (bs.drop 8) n

/-- A liveness record, none where it breaks R55. -/
def parseLive (ext : Nat) (bs : List Byte) : Option LiveRec :=
  let n := fieldAt bs 0x94 2
  let rs := parseRanges (bs.drop 0x98) n
  if n ≤ 64 ∧ zeroAt bs 0x96 2 ∧ rs.all (fun r => r.1 % 128 == 0 && r.2 % 128 == 0 && decide (r.1 + r.2 ≤ ext)) then
    some { v := BitVec.ofNat 128 (maskAt bs 0 16), s := BitVec.ofNat 1024 (maskAt bs 0x10 128)
           t := BitVec.ofNat 32 (fieldAt bs 0x90 4), ranges := rs }
  else none

/-! ## Residency of one team (R24, R26, R398) -/

/-- A quarter as placement sees it: free band slots, free lane-registers, bands of this team already given to its core. -/
structure Pool where
  core : Nat
  q : Nat
  slots : Nat
  regs : Nat
  deriving DecidableEq, Repr

/-- The quarter that takes a band of `need` lane-registers: the most free slots, ties to the first (R398). -/
def bestPool (need : Nat) (full : List Nat) (ps : List Pool) : Option Pool :=
  ps.foldl (fun b p =>
    if 1 ≤ p.slots && decide (need ≤ p.regs) && !full.elem p.core then
      match b with
      | none => some p
      | some x => if x.slots < p.slots then some p else b
    else b) none

/-- Give the bands of a team to quarters, in order; no core takes more than 32 of a team's bands. -/
def assignBands : List Nat → List Pool → List (Nat × Nat) → Option (List (Nat × Nat))
  | [], _, out => some out
  | need :: rest, ps, out =>
    let full := (ps.map fun p => p.core).filter fun c => decide (32 ≤ (out.filter fun x => x.1 == c).length)
    match bestPool need full ps with
    | none => none
    | some p =>
      assignBands rest
        (ps.map fun x => if x.core == p.core && x.q == p.q then { x with slots := x.slots - 1, regs := x.regs - need } else x)
        (out ++ [(p.core, p.q)])

def Header.width (h : Header) : Nat := 8 * 2 ^ h.bwc

/-- The budgets and entry of band `n` of a team (R54): vector and scalar budget in registers, entry clause. -/
def bandRole (h : Header) : List Role → Nat → Nat × Nat × Nat
  | [], _ => (8 * h.vbud, 8 * h.sbud, h.entry)
  | r :: t, n => if n < r.nb ∨ t.isEmpty then (8 * r.vbud, 8 * r.sbud, r.entry) else bandRole h t (n - r.nb)

/-- Lane-registers of each band of a team. -/
def bandNeeds (h : Header) (rs : List Role) : List Nat :=
  (List.range h.nbands).map fun n => Header.width h * (bandRole h rs n).1

def emptyPools (cores : List Nat) : List Pool := cores.flatMap fun c => (List.range 4).map fun q => ⟨c, q, 16, 131072⟩

def allocatable : Nat := 63 * 2 ^ 20

/-- One team fits on an empty core or pair (R26). -/
def residencyOk (h : Header) (rs : List Role) : Bool :=
  (assignBands (bandNeeds h rs) (emptyPools (if Header.pair h then [0, 1] else [0])) []).isSome
    && decide (h.scratch ≤ allocatable) && decide (h.nbands * Header.width h ≤ if Header.pair h then 4096 else 2048)

/-! ## The journal (R426) -/

/-- Phobos journals a change: a ring of 65,536 records, a checkpoint of the queues every 4,096 records. -/
def journal (j : Journal) (s : State) : State :=
  State.modHub s fun h =>
    let n := h.jseq + 1
    { h with
      jseq := n
      journal := (if 65536 ≤ h.journal.length then h.journal.drop 1 else h.journal) ++ [(n.toNat, j)]
      checkpoint := if n.toNat % 4096 = 0 then h.queues else h.checkpoint }

/-! ## Completions (R389, R392, R466) -/

/-- HOLD of SCHEDSTAT (R427). -/
def Hub.onHold (h : Hub) : Bool := h.schedstat.getLsbD 2

/-- A kept reply, while its MSGNUM is one of the last 64 executed (R463). -/
def keepReply (r : Reply) (x : Session) : Session :=
  { x with replies := (r :: x.replies).filter fun y => decide (x.last < y.msgnum + 64) }

/-- The command of a message is no longer under way, and counts as executed (R463). -/
def executed (session msgnum : Nat) (s : State) : State :=
  State.modFw s fun f =>
    { f with
      running := f.running.filter fun c => !(c.session == session && c.msgnum == msgnum)
      sessions := Table.alter session (fun x => { x with last := Nat.max x.last msgnum }) f.sessions }

/-- The bytes of a completion record (R392). -/
def recordBytes (c : Completion) : List Byte := natLe 4 c.code ++ natLe 4 c.detail ++ natLe 8 c.ndrop

/-- A reply's payload (R464 to R467, R470, R474, R475, R491); Config.replyBytes gives those whose layout the spec does not
(log 54). -/
def Payload.bytes : Payload → List Byte
  | .none => []
  | .status bs | .failure bs => bs
  | .opened id nonce rkey => natLe 8 id ++ natLe 32 nonce ++ natLe 4 rkey
  | .ctx n => natLe 8 n
  | .cbase c => Config.replyBytes 4 [c]
  | .rgk n => Config.replyBytes 7 [n]
  | .record c => recordBytes c
  | .counters vs => vs.flatMap (natLe 8)
  | .report nonce rom blob owner st cert sig => Config.replyBytes 13 [nonce, rom, blob, owner.getD 0, st, cert, sig]

/-- The message of a reply: the header with RESP set, and the payload; a reply is not signed (R460). -/
def Reply.message (r : Reply) : List Byte :=
  let p := Payload.bytes r.payload
  natLe 2 0x4846 ++ natLe 1 1 ++ natLe 1 1 ++ natLe 2 r.opcode ++ natLe 2 r.status ++ natLe 8 r.session ++ natLe 8 r.msgnum
    ++ natLe 4 p.length ++ natLe 4 0 ++ p

/-- The lengths of the IP packets that carry a message of `n` bytes: none longer than `mtu`, fragments cut at multiples of
8 bytes (R458). -/
def packetLengths (mtu : Nat) (v6 : Bool) (n : Nat) : List Nat :=
  let head := if v6 then 40 else 20
  if head + 8 + n ≤ mtu then [head + 8 + n]
  else
    let h := if v6 then 48 else 20
    let c := (mtu - h) / 8 * 8
    (List.range ((8 + n + c - 1) / c)).map fun i => h + Nat.min c (8 + n - i * c)

/-- The message MTU: 1,500 bytes, or what the applied blob sets (R458). -/
def messageMtu (s : State) : Nat :=
  match s.fw.blob.applied with
  | some b => b.mtu
  | none => 1500

/-- The priority of a message: that of its tag; an untagged one has 0. -/
def Origin.prio (o : Origin) : Nat := (o.tag.map Prod.snd).getD 0

/-- A frame leaves by the port; one whose priority is paused waits, as those of that priority before it do (R457). -/
def sendFrame (prio : Nat) (o : Out) (s : State) : State :=
  if s.fw.pause.getLsbD prio then State.modFw s fun f => { f with paused := f.paused ++ [(prio, o)] } else State.send s o

/-- A reply leaves in packets that its message MTU allows (R458). -/
def sendReply (r : Reply) (s : State) : State :=
  sendFrame (Origin.prio r.dst) (.reply r (Reply.message r)
    (packetLengths (messageMtu s) r.dst.v6 (Reply.message r).length)) s

/-- Answer a message, keeping the reply with its session. The reply to a WAIT, opcode 9, is held while completions are (R427,
R466). -/
def answer (r : Reply) (s : State) : State :=
  let s1 := executed r.session r.msgnum s
  if r.opcode == 9 && Hub.onHold s.hub then State.modFw s1 fun f => { f with heldReplies := f.heldReplies ++ [r] }
  else State.modFw (sendReply r s1) fun f => { f with sessions := Table.alter r.session (keepReply r) f.sessions }

/-- The held replies leave, once completions are no longer held (R427). -/
def sendHeld (s : State) : State :=
  s.fw.heldReplies.foldl (fun s r => answer r s) (State.modFw s fun f => { f with heldReplies := [] })

/-- Answer the held WAITs that name a grid (R466). -/
def answerWaits (ctx gridid status : Nat) (p : Payload) (s : State) : State :=
  s.fw.sessions.foldl (fun s e =>
    e.2.waits.foldl (fun s w =>
      if w.ctx = ctx ∧ w.gridid = gridid then
        answer ⟨9, e.1, w.msgnum, status, p, w.src⟩ (State.modFw s fun f =>
          { f with sessions := Table.alter e.1 (fun x => { x with waits := x.waits.filter fun y => y.msgnum != w.msgnum })
                     f.sessions })
      else s) s) s

/-- A context's completions, the last 1,024 (R466). -/
def noteCompletion (ctx : Nat) (c : Completion) (s : State) : State :=
  State.modCtx s ctx fun x => { x with done := (c :: x.done).take 1024 }

/-- STAT passes its range check for a write (R389). -/
def statOk (s : State) (ctx stat : Nat) : Bool :=
  decide (stat < 2 ^ 60) && (rangeCheck (State.ctx s ctx) stat permWr).isSome

/-- Write a completion record as the hub's requester (R392). -/
def writeStat (ctx stat : Nat) (c : Completion) (s : State) : Try :=
  if stat % 16 ≠ 0 ∨ stat = 0 then .done s
  else
    match (if stat < 2 ^ 60 then rangeCheck (State.ctx s ctx) stat permWr else none) with
    | none => .done s
    | some a =>
      match writeMem (hubDie s a) s a (recordBytes c) with
      | (.busy, s1) => .busy s1
      | (_, s1) => .done s1

/-- Refuse a grid: its CODE 2 record (R389). -/
def refuseGrid (ctx stat gridid detail : Nat) (s : State) : Try :=
  let c : Completion := ⟨gridid, 2, detail, 0⟩
  Try.map (writeStat ctx stat c s) (noteCompletion ctx c)

def detailHeader : Nat := 1
def detailResidency : Nat := 2
def detailDesc : Nat := 3
def detailQueue : Nat := 4
def detailUnreadable : Nat := 5
def detailDuplicate : Nat := 6

/-! ## Queueing (R387, R389, R390, R396, R397) -/

/-- Set a bit of KICK. -/
def kickQueue (q : Nat) (s : State) : State := State.modHub s fun h => { h with kick := h.kick ||| BitVec.ofNat 8 (2 ^ q) }

/-- A queued or running grid of the context has the identifier (R390). -/
def gridNamed (s : State) (ctx gridid : Nat) : Option (Nat × Grid) :=
  s.grids.find? fun e => e.2.ctx == ctx && e.2.desc.gridid == gridid

/-- Queue a grid: a DEPGRID that names no queued or running grid is met at once (R391). -/
def queueGrid (g : Grid) (s : State) : State :=
  let k := s.nextKey
  let s0 : State := { s with nextKey := k + 1, grids := Table.set k g s.grids }
  let s1 := State.modGrid s0 k fun g => { g with met := g.desc.depk != 1 || (gridNamed s0 g.ctx g.desc.depgrid).isNone }
  kickQueue g.queue (State.modHub s1 fun h =>
    { h with queues := Table.set g.queue (Table.get [] g.queue h.queues ++ [k]) h.queues })

/-- Read the liveness records that the table locates (R55): none where one is unreadable. -/
def readLive (ctx ext : Nat) : List Nat → State → Span × List (Option LiveRec) × State
  | [], s => (.ok [], [], s)
  | a :: t, s =>
    match readSpan ctx permRd a 0x98 s with
    | (.ok hd, s1) =>
      match readSpan ctx permRd (a + 0x98) (8 * Nat.min 64 (fieldAt hd 0x94 2)) s1 with
      | (.ok tl, s2) =>
        match readLive ctx ext t s2 with
        | (.ok _, rs, s3) => (.ok [], (if a % 8 = 0 then parseLive ext (hd ++ tl) else none) :: rs, s3)
        | x => x
      | (.busy, s2) => (.busy, [], s2)
      | (.bad, s2) => (.bad, [], s2)
    | (.busy, s1) => (.busy, [], s1)
    | (.bad, s1) => (.bad, [], s1)

/-- Everything the dispatcher reads of an image and its parameters (R387). -/
structure Image where
  hdr : List Byte
  roles : List Byte
  live : List (Option LiveRec)
  params : List Byte
  consts : List Byte
  deriving DecidableEq, Repr

/-- Addresses in a table of dwords. -/
def dwordsOf (bs : List Byte) : Nat → List Nat
  | 0 => []
  | n + 1 => fieldAt bs 0 8 :: dwordsOf (bs.drop 8) n

/-- Read one span after others. -/
def thenSpan {α : Type} (r : Span × State) (k : List Byte → State → Option (Option α) × State) : Option (Option α) × State :=
  match r with
  | (.ok bs, s) => k bs s
  | (.bad, s) => (some none, s)
  | (.busy, s) => (none, s)

/-- The parameters: those given, or as the descriptor locates them. -/
def readParams (ctx : Nat) (d : Desc) (given : Option (List Byte)) (n : Nat) (s : State) : Span × State :=
  match given with
  | some ps => (.ok (ps.take n), s)
  | none => readSpan ctx permRd d.param n s

/-- Read what a header names: none when busy, `some none` when unreadable. UNREADABLE comes before HEADER (R389): what is read
is what the header's fields name, whether or not it breaks its rules (log 46). -/
def readImage (ctx : Nat) (d : Desc) (given : Option (List Byte)) (hb : List Byte) (s : State) :
    Option (Option Image) × State :=
  let h := parseHeader hb
  thenSpan (readParams ctx d given h.paramsz s) fun pb s =>
  thenSpan (readSpan ctx permRd h.roletab (16 * h.nrole) s) fun rb s =>
  thenSpan (readSpan ctx permRd h.livetab (8 * h.nlive) s) fun lb s =>
  thenSpan (readSpan ctx permRd h.const h.constsz s) fun cb s =>
    match readLive ctx (if Header.pair h then 2 * h.scratch else h.scratch) (dwordsOf lb h.nlive) s with
    | (.ok _, ls, s1) => (some (some ⟨hb, rb, ls, pb, cb⟩), s1)
    | (.bad, _, s1) => (some none, s1)
    | (.busy, _, s1) => (none, s1)

def rolesOf (im : Image) (h : Header) : List Role :=
  (List.range h.nrole).map fun i => parseRole (im.roles.drop (16 * i))

/-- The HEADER check (R52 to R55, R53). -/
def imageOk (im : Image) : Bool :=
  headerOk im.hdr &&
    let h := parseHeader im.hdr
    (List.range h.nrole).all (fun i => roleOk h (im.roles.drop (16 * i))) && rolesOk h (rolesOf im h)
      && paramsFit h (rolesOf im h) && im.live.all fun r => r.isSome

/-- The grid of a launch that is not refused. -/
def newGrid (ctx q : Nat) (d : Desc) (im : Image) (regen : Option Nat) : Grid :=
  let h := parseHeader im.hdr
  { ctx := ctx, queue := q, desc := d, hdr := h, roles := rolesOf im h, live := im.live.filterMap id, params := im.params
    consts := Memory.store [] 0 im.consts, next := 0, ahead := [], saved := [], running := 0, ended := 0, ndrop := 0
    code := 1, met := false, held := false, regen := regen, trapped := false }

/-- Queue a grid whose image has been read, or refuse it by the first cause found (R389). -/
def admitGrid (ctx q : Nat) (d : Desc) (regen : Option Nat) (im : Image) (s : State) : Try :=
  let h := parseHeader im.hdr
  if !imageOk im then refuseGrid ctx d.stat d.gridid detailHeader s
  else if !residencyOk h (rolesOf im h) then refuseGrid ctx d.stat d.gridid detailResidency s
  else if (gridNamed s ctx d.gridid).isSome then refuseGrid ctx d.stat d.gridid detailDuplicate s
  else .done (queueGrid (newGrid ctx q d im regen) s)

/-- Queue or refuse a grid from its descriptor's bytes, by the first cause found (R389); PARAM without parameters breaks the
descriptor, once the header has been read. For a regeneration grid, its page and its parameters are given (R111). -/
def launchGrid (ctx q : Nat) (bs : List Byte) (regen : Option (Nat × List Byte)) (s : State) : Try :=
  let d := parseDesc bs
  if 7 < q then refuseGrid ctx d.stat d.gridid detailQueue s
  else if !descOk bs then refuseGrid ctx d.stat d.gridid detailDesc s
  else
    match readSpan ctx permRd d.image 0x50 s with
    | (.busy, s1) => .busy s1
    | (.bad, s1) => refuseGrid ctx d.stat d.gridid detailUnreadable s1
    | (.ok hb, s1) =>
      if (parseHeader hb).paramsz == 0 && d.param != 0 && regen.isNone then refuseGrid ctx d.stat d.gridid detailDesc s1
      else if d.stat ≠ 0 ∧ !statOk s1 ctx d.stat then refuseGrid ctx d.stat d.gridid detailUnreadable s1
      else
        match readImage ctx d (regen.map fun r => r.2) hb s1 with
        | (none, s2) => .busy s2
        | (some none, s2) => refuseGrid ctx d.stat d.gridid detailUnreadable s2
        | (some (some im), s2) => admitGrid ctx q d (regen.map fun r => r.1) im s2

end Sys2Proof.Machine
end

