-- ==== Sys2Proof/Machine/Holds.lean ====
section
/-!
DEFINITION. When a PC group's instruction does not issue (R347): pending sources (R37), a full counter (R38), a fence
(R337), accesses whose outcome is not known, instructions that pass a switch point first, and the holds of the tile,
engine and task chapters.
-/
namespace Sys2Proof.Machine

/-- An instruction at its issue for a group of a band. -/
def indexOf (s : State) (key : Nat) (grp : Group) (g : Guard) : Option Ix :=
  match Table.find key s.bands with
  | none => none
  | some b =>
    match Table.find b.team s.teams with
    | none => none
    | some t =>
      match Table.find t.grid s.grids with
      | none => none
      | some gr =>
        let sel := lanesOf grp.lanes
        let rep := match grp.replay with
          | none => none
          | some n => (Table.find n (State.core s (key / 64)).frags).map fun f => (n, f)
        some
          { key := key, b := b, peers := (s.issue.bind fun i => i.prior).getD b, t := t, gr := gr, pc := grp.pc
            hdr := grp.hdr, sel := sel, replay := rep
            act := if rep.isSome then sel else sel.filter (Band.passes b g) }

/-- A register of the list is pending in the lane (R37). -/
def Lane.awaits (x : Lane) (rs : List Nat) : Bool := x.pend.any fun p => rs.elem p.1

/-- The lane whose registers active lane `l` reads besides its own (R238, R268); none for a lane at or above %width. -/
def crossLane (i : Instr) (x : Ix) (l : Nat) : Option Nat :=
  match i with
  | .xpullV o => some ((Ix.v x l o.b.val).toNat % x.b.width)
  | .xpullVR o => some (Ix.src x l false o.b % x.b.width)
  | .xbcastVR o => some ((Ix.s x o.s.val).toNat % x.b.width)
  | .xbcastVI o => some (o.lane.val % x.b.width)
  | .srdlane o => if (Ix.s x o.a.val).toNat < x.b.width then some (Ix.s x o.a.val).toNat else none
  | _ => none

/-- A LATE fragment of the lane waits for one of the registers as its source (R238, R445). -/
def heldLate (s : State) (key l : Nat) (rs : List Nat) : Bool :=
  (State.core s (key / 64)).frags.any fun e =>
    e.2.band == key && e.2.late && e.2.state == .landing && e.2.lanes.getLsbD l
      && match decode e.2.log.w0 e.2.log.w1 with
        | .ok i => (regsOf (uses i).v).any fun r => rs.elem r
        | .error _ => false

/-- The registers of another lane that an active lane reads are pending there (R238, R268). -/
def crossPending (i : Instr) (x : Ix) (s : State) (l : Nat) : Bool :=
  match crossLane i x l with
  | none => false
  | some k =>
    Lane.awaits (Band.lane x.b k) (regsOf (uses i).xv) && !heldLate s x.key k (regsOf (uses i).xv)

/-- A source is pending: a register of the lane's own, or the register of another lane that it reads (R37, R238, R268). -/
def sourcePending (i : Instr) (x : Ix) (s : State) : Bool :=
  x.replay.isNone && x.act.any fun l => Lane.awaits (Band.lane x.b l) (regsOf (uses i).v) || crossPending i x s l

/-- The counter an instruction adds to (R38). -/
def counterOf : Instr → Dc
  | .ldNarrow o => o.dc
  | .ldWide o => o.dc
  | .stNarrow o => o.dc
  | .stB128 o => o.dc
  | .ldsNarrow o => o.dc
  | .ldsWide o => o.dc
  | .stsNarrow o => o.dc
  | .stsB128 o => o.dc
  | .atom o => o.dc
  | .red o => o.dc
  | .atomr o => o.dc
  | .ldr o => o.dc
  | .str o => o.dc
  | .strStrm o => o.dc
  | .cflush o => o.dc
  | .cinv o => o.dc
  | .tld o => o.dc
  | .tst o => o.dc
  | .cpy o => some o.dc
  | .cpy2 o => some o.dc
  | .cpyt o => some o.dc
  | .cpyg o => some o.dc
  | .cpys o => some o.dc
  | .cfill o => some o.dc
  | .pkload o => some o.dc
  | .pkq o => some o.dc
  | .pku o => some o.dc
  | .pkstat o => some o.dc
  | .spawn o => o.dc
  | .take o => o.dc
  | .launch o => o.dc
  | .cbset o => o.dc
  | .cbwait o => o.dc
  | .waita o => o.dc
  | .fence o => o.dc
  | _ => none

/-- The counter holds 63 (R38); a replay does not add again (R185). -/
def counterFull (i : Instr) (x : Ix) : Bool :=
  match counterOf i with
  | none => false
  | some k => !Ix.again x && !x.act.isEmpty && decide (63 ≤ Table.get 0 k.val x.b.dc)

/-- Instructions that make events, which a fence holds (R325, R337). -/
def makesEvents : Instr → Bool
  | .ldNarrow _ | .ldWide _ | .stNarrow _ | .stB128 _ | .ldsNarrow _ | .ldsWide _ | .stsNarrow _ | .stsB128 _ | .atom _
  | .red _ | .atomr _ | .ldr _ | .str _ | .strStrm _ | .tld _ | .tst _ | .mma _ | .jtab _ | .pharr _ | .phwait _
  | .waita _ | .cbset _ | .cbwait _ | .launch _ | .bar _ | .fence _ | .cpy _ | .cpy2 _ | .cpyt _ | .cpyg _ | .cpys _
  | .cfill _ | .pkload _ | .pkq _ | .pku _ | .pkstat _ | .spawn _ | .take _ => true
  | _ => false

/-- A fence of the lane has not completed (R337). -/
def fencePending (s : State) (key l : Nat) : Bool :=
  s.ops.any fun e => e.2.band == key && e.2.lanes.getLsbD l && match e.2.kind with
    | .fence _ => true
    | _ => false

/-- Operations that make no event for the order of a thread. -/
def OpKind.quiet : OpKind → Bool
  | .tzero _ | .ard .. | .sfu _ | .pref _ | .flush .. | .fence _ => true
  | _ => false

/-- An instruction of the copy or Encke engines (R150, R306). -/
def postsCommand : Instr → Bool
  | .cpy _ | .cpy2 _ | .cpyt _ | .cpyg _ | .cpys _ | .cfill _ | .pkload _ | .pkq _ | .pku _ | .pkstat _ => true
  | _ => false

/-- A fence of the band has not completed: it stands before the accesses of a command (R161). -/
def bandFence (s : State) (key : Nat) : Bool :=
  s.ops.any fun e => e.2.band == key && match e.2.kind with
    | .fence _ => true
    | _ => false

/-- An access whose outcome is not known: it may yet fault, or meet poison where it reads. Its lane issues nothing further
until then, so that the fragment or the trap at it is precise (R185, R429; log 14). -/
def Acc.unresolved (k : OpKind) (a : Acc) : Bool :=
  Acc.failed a || match a.place, a.stage with
    | .mem _, .waiting => true
    | .mem _, .translated => k != .store
    | .sram _, .waiting | .sram _, .sent _ => k != .store
    | _, _ => false

/-- The lane is held by an instruction of its own that has issued: one that holds its group until it is done, or one whose
access has no known outcome; a prefetch has none to wait for. -/
def laneBlocked (s : State) (key l : Nat) : Bool :=
  s.ops.any fun e => e.2.band == key && e.2.lanes.getLsbD l
    && (e.2.holds || (!OpKind.ofTile e.2.kind && !OpKind.quiet e.2.kind
      && e.2.accs.any fun a => a.lane == l && Acc.unresolved e.2.kind a))

/-- Instructions whose active lanes first pass a switch point: they end a clause, and wait or return (R363, R373, R380, R381,
R435). -/
def passesFirst : Instr → Bool
  | .rjwait _ | .dwait _ | .ecall _ => true
  | .bar o => o.form != .arrive
  | .waita o => o.dc.isNone
  | _ => false

/-! ## Holds of single instructions -/

/-! ## Order between the events of one thread (R327, R330, R333, R338; log 10) -/

def OpKind.isWrite : OpKind → Bool
  | .store | .atomic .. | .tst .. => true
  | _ => false

def Order.acquires : Order → Bool
  | .acq | .ar => true
  | _ => false
def Order.releases : Order → Bool
  | .rel | .ar => true
  | _ => false

/-- Two accesses share a byte. -/
def overlaps (p : Place) (n : Nat) (q : Place) (m : Nat) : Bool :=
  match p, q with
  | .mem c, .mem d => decide (c < d + m) && decide (d < c + n)
  | .sram c, .sram d => decide (c < d + m) && decide (d < c + n)
  | .fabric c, .fabric d => decide (c < d + m) && decide (d < c + n)
  | _, _ => false

def Place.isFabric : Place → Bool
  | .fabric _ => true
  | _ => false

/-- An event of one lane that is to be performed: its band, lane and place in program order; whether it writes, and what. -/
structure Event where
  key : Nat
  lane : Nat
  seq : Nat
  order : Order
  scope : Scope
  write : Bool
  place : Place
  size : Nat
  deriving DecidableEq, Repr

/-- Whether an access of an earlier operation, not yet over, stands before an event: an acquire stands before everything,
everything before a release, and accesses that share a byte before one another (R330, R333). -/
def Op.stands (e : Op) (b : Acc) (v : Event) : Bool :=
  Order.acquires e.order
    || (Order.releases v.order && (v.scope == .fab || !Place.isFabric b.place))
    || overlaps b.place b.size v.place v.size

/-- An earlier CFLUSH of the lane has not yet dropped the line from the L1: a read of the line waits for it (R338). -/
def Op.flushes (e : Op) (v : Event) : Bool :=
  match e.kind with
  | .flush .. => e.accs.any fun b => b.lane == v.lane && b.stage == .waiting && match b.place, v.place with
      | .mem c, .mem d => lineOf c == lineOf d
      | _, _ => false
  | _ => false

/-- An earlier operation of the lane that an event waits for. -/
def Op.before (e : Op) (v : Event) : Bool :=
  decide (e.seq < v.seq) && e.band == v.key && e.lanes.getLsbD v.lane
    && (Op.flushes e v || (!OpKind.quiet e.kind && ((match e.kind with
        | .cbwait .. => true
        | _ => false)
      || e.accs.any fun b => (b.lane == v.lane || OpKind.ofTile e.kind) && !Acc.over b && Op.stands e b v)))

/-- The event waits for an earlier one of its lane. -/
def eventWaits (s : State) (v : Event) : Bool := s.ops.any fun e => Op.before e.2 v

/-- Some lane's relaxed read, or write, of `n` bytes at this place waits for an earlier event: for what is performed as it
issues. -/
def issueWaits (s : State) (key : Nat) (ls : List Nat) (write : Bool) (p : Place) (n : Nat) : Bool :=
  ls.any fun l => eventWaits s ⟨key, l, s.nextKey, .rlx, .band, write, p, n⟩

/-- Lane `l` of the operation has an event that is not yet performed (R337). -/
def Op.pendingIn (o : Op) (l : Nat) : Bool :=
  match o.kind with
  | .sfu _ | .flush .. | .fence _ | .tzero _ | .ard .. | .pref _ => false
  | .tld .. | .tst .. => o.lanes.getLsbD l && o.accs.any fun a => !Acc.over a
  | .cbwait .. | .take _ => o.lanes.getLsbD l
  | _ => o.accs.any fun a => a.lane == l && (!Acc.over a || Acc.failed a)

/-- An operation of accesses to a peer. -/
def Op.remote (o : Op) : Bool :=
  match o.kind with
  | .load .. | .store | .atomic .. => o.accs.any fun a => Place.isFabric a.place
  | _ => false

/-- A release point of these lanes must wait; at a scope below .fab it does not wait for accesses to peers (R337, R338). -/
def releaseWaits (s : State) (key : Nat) (ls : List Nat) (fab : Bool) : Bool :=
  s.ops.any fun e => e.2.band == key && (fab || !Op.remote e.2) && ls.any fun l => Op.pendingIn e.2 l

/-- An active lane would be held by the arrival part of a BAR (R373). -/
def arrivalHeld (x : Ix) (n : Nat) : Bool :=
  x.act.any fun l => Lane.arrived (Band.lane x.b l) n (Team.bar x.t n).p

/-- The phase word of a PHARR or PHWAIT, where it is in range and aligned (R379). -/
def phaseWord (x : Ix) (c : SReg) : Option Nat :=
  if (Ix.s x c.val).toNat % 4 = 0 then sramForm (Ix.core x) x.t x.gr .loc (Ix.s x c.val).toNat else none

/-- PH of a phase word (R378). -/
def phaseBit (s : State) (g : Nat) : Bool := (leNat (readSram s g 4)).testBit 31

/-- A save of the team has been requested and this PHINT stops its band: the group holds every lane that is neither
exited, parked nor waiting (R448). -/
def phintStops (x : Ix) : Bool :=
  x.t.save.isSome && (List.range x.b.width).all fun l => (Band.lane x.b l).run != .running || x.sel.elem l

/-- The header and slot word that an ECALL of service SKIP fetches in a lane (R435): none where it fetches nothing. -/
def skipReads (x : Ix) (l : Nat) : List Nat :=
  let y := Band.lane x.b l
  let p := Pc.ofNat y.tepc.toNat
  if y.tcause = 0 then []
  else if y.tcause.toNat = causeIllegalClause then [p.clause] else [p.clause, slotVa p]

/-- Free entries of a core's deque (R382). -/
def dequeRoom (s : State) (core : Nat) : Nat := 4096 - (State.core s core).deque.length

/-- An engine command of the band has been posted and is not yet accepted (R152, R308). -/
def offered (s : State) (x : Ix) : Bool :=
  (State.core s (Ix.core x)).offers.any (fun o => o.band == x.key && o.lanes &&& maskOf x.sel != 0)
    || (State.die s (Ix.die x)).ekOffers.any fun o => o.band == x.key && o.lanes &&& maskOf x.sel != 0

/-- A tile of the team is pending (R280). -/
def tilePending (x : Ix) (t : Nat) : Bool := (Team.tile x.t (Ix.core x) t).pend.isSome

/-- The parked instruction is a TST of the tile. -/
def Log.reads (l : Log) (t : Nat) : Bool :=
  match decode l.w0 l.w1 with
  | .ok (.tst o) => o.t.val == t
  | _ => false

/-- A TST of the team that is parked in a fragment, or by FRAG_FULL, on a core holds its tile for reading until its replay has
read it (R280, R300). -/
def parkedReads (s : State) (team core t : Nat) : Bool :=
  let mine (k : Nat) : Bool := match Table.find k s.bands with
    | some b => b.team == team
    | none => false
  ((State.core s core).frags.any fun e => mine e.2.band && !e.2.late && Log.reads e.2.log t)
    || s.bands.any fun e => e.1 / 64 == core && e.2.team == team && match e.2.overflow with
        | some w => Log.reads w.log t
        | none => false

/-- A tile of the team is pending or held for reading (R280). -/
def tileBusy (x : Ix) (s : State) (t : Nat) : Bool :=
  tilePending x t || decide (0 < (Team.tile x.t (Ix.core x) t).readers) || parkedReads s x.b.team (Ix.core x) t

/-- Bytes of the memory window within one line, as a thread's access would find them in its die's L2 (R90, R91, R122): none
out of range. -/
def lineLook (x : Ix) (s : State) (a n need : Nat) (excl : Bool) : Option Access :=
  if a < 2 ^ 60 then (rangeCheck (State.ctx s (Ix.ctx x)) a need).map fun c => lookMem s (Ix.die x) excl c n else none

/-- Ask for the line of an address of the memory window. -/
def askAt (x : Ix) (a need : Nat) (excl : Bool) (s : State) : State :=
  match (if a < 2 ^ 60 then rangeCheck (State.ctx s (Ix.ctx x)) a need else none) with
  | some c => (askLine (Ix.die x) (lineOf c) excl s).2
  | none => s

/-- The descriptor's address and the queue of a LAUNCH. -/
def launchAddr (o : OpEng2) (x : Ix) : Nat := Ix.sw x true o.a.val
def launchQueue (o : OpEng2) (x : Ix) : Nat := (Ix.s x o.b.val).toNat

/-- A LAUNCH that takes no cause and does not fault cannot be performed now: its queue is full, its descriptor or a line
that the dispatcher reads or writes for it is on its way (R387). -/
def launchHeld (o : OpEng2) (x : Ix) (s : State) : Bool :=
  launchAddr o x % 128 == 0 && match lineLook x s (launchAddr o x) 128 permRd false with
    | some .busy => true
    | some (.ok bs) =>
      decide (256 ≤ (Table.get [] (launchQueue o x) s.hub.queues).length)
        || match launchGrid (Ix.ctx x) (launchQueue o x) bs none s with
          | .busy _ => true
          | .done _ => false
    | _ => false

/-- The dword of a bitmap that holds bit `i` (R393). -/
def bitmapDword (base i : Nat) : Nat := (base + 8 * (i / 64)) % 2 ^ 64

/-- The dword of a CBSET, and the permissions it needs (R393). -/
def cbsetAddr (o : OpEng2) (x : Ix) : Nat := bitmapDword (Ix.sw x true o.a.val) (Ix.s x o.b.val).toNat
def cbsetNeed : Nat := permRd + permWr + permAt

/-- The line of a CBSET that takes no cause is on its way. -/
def cbsetBusy (o : OpEng2) (x : Ix) (s : State) : Bool :=
  cbsetAddr o x % 8 == 0 && lineLook x s (cbsetAddr o x) 8 cbsetNeed true == some .busy

/-- The indices of the dwords of a range of bits (R395). -/
def rangeIndices (first count : Nat) : List Nat :=
  if count = 0 then [] else (List.range ((first + count + 63) / 64 - first / 64)).map fun i => first / 64 + i

def rangeDwords (base first count : Nat) : List Nat := (rangeIndices first count).map fun i => bitmapDword base (64 * i)

/-- The dwords of a CBWAIT with the chip addresses of those in range. -/
def cbwaitChips (o : OpEng3) (x : Ix) (s : State) : List (Nat × Nat) :=
  (rangeDwords (Ix.sw x true o.a.val) (Ix.s x o.b.val).toNat (Ix.s x o.c.val).toNat).filterMap fun d =>
    if d < 2 ^ 60 then (rangeCheck (State.ctx s (Ix.ctx x)) d permRd).map fun c => (d, c) else none

/-- The translation of a line the die does not hold is not known yet. -/
def xlateOpen (s : State) (die c : Nat) : Bool :=
  (Table.find (lineOf c) (State.die s die).l2).isNone && !lineBusy (State.die s die) (lineOf c) && xlateLook s die c .read == .wait

/-- The lanes of a held PHARR or PHWAIT watch its word, where the monitor has room (R145, R379). -/
def watchPhase (x : Ix) (g : Nat) (s : State) : State :=
  if x.act.all fun l => (Band.lane x.b l).watch == some g then s
  else
    let m := armMonitor (Ix.core x) (some g) s
    if m.1 then s else State.modBand m.2 x.key fun b => Band.modLanes b x.act fun _ y => { y with watch := some g }

/-- What a held group's instruction does while it is held: the lines that it reads or writes as it issues are asked for
(R387, R393, R435), and a phase word is watched (R379). -/
def askFor (i : Instr) (x : Ix) (s : State) : State :=
  match i with
  | .ecall o => if o.skip then x.act.foldl (fun s l => (skipReads x l).foldl (fun s a => askFetch (Ix.die x) (Ix.ctx x) a s) s) s else s
  | .launch o =>
    match lineLook x s (launchAddr o x) 128 permRd false with
    | some (.ok bs) =>
      match launchGrid (Ix.ctx x) (launchQueue o x) bs none s with
      | .busy s1 => s1
      | .done _ => s
    | some .busy => askAt x (launchAddr o x) permRd false s
    | _ => s
  | .pharr o =>
    match phaseWord x o.c with
    | some g => if phaseBit s g != o.p then watchPhase x g s else s
    | none => s
  | .phwait o =>
    match phaseWord x o.c with
    | some g => if phaseBit s g == o.p then watchPhase x g s else s
    | none => s
  | .cbset o => if cbsetBusy o x s then askAt x (cbsetAddr o x) cbsetNeed true s else s
  | .cbwait o => (cbwaitChips o x s).foldl (fun s d =>
      if xlateOpen s (Ix.die x) d.2 then (askLine (Ix.die x) (lineOf d.2) false s).2 else s) s
  | _ => s

/-- A register the instruction names lies outside the budgets (R46, R27). -/
def reservedReg (u : Uses) (x : Ix) : Bool :=
  (regsOf (u.v ++ u.xv ++ u.vw)).any (fun r => x.b.vbud - x.gr.hdr.rjd ≤ r)
    || (regsOf (u.s ++ u.sw)).any (fun r => x.b.sbud ≤ r) || u.t.any fun t => x.gr.hdr.tiles ≤ t

/-- The word of a WAITA's lane, for the order of its read. -/
def waitaWord (x : Ix) (l r : Nat) : Place :=
  match windowOf (BitVec.ofNat 64 (Ix.vw x l true r)) with
  | some (w, f) =>
    match sramForm (Ix.core x) x.t x.gr w f with
    | some g => .sram g
    | none => .out 0 0
  | none => .out 0 0

/-- The holds that the chapters of single instructions set (R280, R291, R294, R373, R379, R383, R387, R435, R449), and the
order of the events they make as they issue (R327, R330, R333). -/
def ownHold (i : Instr) (x : Ix) (s : State) : Bool :=
  !x.act.isEmpty && !reservedReg (uses i) x && match i with
  | .bar o => o.form != .wait && (arrivalHeld x o.b.val || releaseWaits s x.key x.act false)
  | .pharr o =>
    match phaseWord x o.c with
    | some g => (sramMarked s g 4).isNone && (phaseBit s g != o.p || releaseWaits s x.key x.act false)
    | none => false
  | .phwait o =>
    match phaseWord x o.c with
    | some g => issueWaits s x.key x.act false (.sram g) 4 || ((sramMarked s g 4).isNone && phaseBit s g == o.p)
    | none => false
  | .waita o => x.act.any fun l => issueWaits s x.key [l] false (waitaWord x l o.v.val) 4
  | .phint _ => phintStops x && x.sel.any fun l => uncounted s x.key l
  | .ecall o => o.skip && x.act.any fun l => (skipReads x l).any fun a => fetchWord s (Ix.die x) (Ix.ctx x) a == .busy
  | .spawn _ => decide (dequeRoom s (Ix.core x) < x.act.length) || releaseWaits s x.key x.act false
  | .launch o => releaseWaits s x.key x.act true || launchHeld o x s
  | .cbset o => releaseWaits s x.key x.act false || cbsetBusy o x s
  | .cbwait o => (cbwaitChips o x s).any fun d => xlateOpen s (Ix.die x) d.2
  | _ => false

/-- The group's instruction does not issue now. -/
def heldUp (i : Instr) (x : Ix) (s : State) : Bool :=
  x.b.stopped || x.t.halted || x.b.overflow.isSome || (State.ctx s (Ix.ctx x)).stopped
    || x.sel.any (fun l => laneBlocked s x.key l)
    || sourcePending i x s
    || counterFull i x
    || (makesEvents i && x.act.any fun l => fencePending s x.key l)
    || (postsCommand i && !x.act.isEmpty && bandFence s x.key)
    || (passesFirst i && x.act.any fun l => uncounted s x.key l)
    || offered s x
    || ownHold i x s

end Sys2Proof.Machine
end

