-- ==== Sys2Proof/Machine/Shell.lean ====
section
/-!
DEFINITION. What every instruction does around its own effect at issue: the holds of R347, the causes in the order of R77,
the comparison of shadow mode (R369), the delivery of traps, the move to the next instruction (R348), the end of the issue.
-/
namespace Sys2Proof.Machine

/-- What an effect leaves: the state, the traps it found, the lanes it has sent elsewhere or set waiting. -/
structure Res where
  s : State
  traps : List Trap := []
  moved : List Nat := []
  deriving DecidableEq, Repr

/-- The cause of one instruction in one lane, before the causes every instruction shares. -/
abbrev Own := Ix → State → Nat → Option (Nat × Dword)

def noCause : Own := fun _ _ _ => none

/-- A cause every active lane takes (R231, R429). -/
def forAll (c : Option (Nat × Dword)) : Own := fun _ _ _ => c

/-- The error marks of the registers that an active lane reads of another lane (R195, R238, R268). -/
def crossMark (i : Instr) (x : Ix) (l : Nat) : Option Dword :=
  match crossLane i x l with
  | none => none
  | some k => (regsOf (uses i).xv).findSome? fun r => Table.find r (Band.lane x.peers k).err

/-- The fabric address of the lowest source register with an error mark (R195), of the lane's own before another's. -/
def markOf (i : Instr) (x : Ix) (l : Nat) : Option Dword :=
  let marks := match x.replay with
    | none => (Band.lane x.b l).err
    | some (_, f) => Table.get [] l f.log.err
  match (regsOf (uses i).v).findSome? fun r => Table.find r marks with
  | some a => some a
  | none => crossMark i x l

/-- The first cause of one active lane in the order of R77. -/
def causeOf (i : Instr) (own : Own) (x : Ix) (s : State) (l : Nat) : Option Trap :=
  match own x s l with
  | some (c, a) =>
    if c = causePriv then some ⟨l, c, a⟩
    else if reservedReg (uses i) x then some ⟨l, causeReservedReg, 0⟩ else some ⟨l, c, a⟩
  | none =>
    if reservedReg (uses i) x then some ⟨l, causeReservedReg, 0⟩
    else
      match markOf i x l with
      | some a => some ⟨l, causePoison, a⟩
      | none => none

/-- Classes whose results are computed twice in shadow mode, and the address of a MEM instruction (R368). -/
def shadowed (c : Option Class) : Bool := c == some .salu || c == some .valu || c == some .mem

/-- A result written once for the band (R369). -/
def bandWide (i : Instr) (u : Uses) : Bool :=
  !u.sw.isEmpty || match i with
    | .kclr | .kaddV _ | .kaddVR _ | .kscan _ | .kload _ | .smovt _ | .swr _ => true
    | _ => false

/-- The lanes that take SHADOW_MISMATCH (R369). -/
def mismatched (i : Instr) (u : Uses) (iss : Issue) (op : Nat) (ls : List Nat) : List Nat :=
  if iss.shadow && shadowed (classOf op) then
    (if bandWide i u then (if ls.any fun l => iss.upset.getLsbD l then ls else [])
     else ls.filter fun l => iss.upset.getLsbD l)
  else []

/-- The primary opcode of an instruction. -/
def opcodeOf (i : Instr) : Nat :=
  match encodeBody i with
  | some (op, _) => op
  | none => 0

/-- Evaluate the rejoin entries of a band, in its own image (R363). -/
def State.rejoinAt (s : State) (key : Nat) : State :=
  match Table.find key s.bands with
  | none => s
  | some b =>
    match Table.find b.team s.teams with
    | none => s
    | some t =>
      match Table.find t.grid s.grids with
      | none => s
      | some g => State.rejoin s key g.desc.image

/-- Evaluate the rejoin entries when the instructions of this cycle have acted (R363, R365). -/
def evalLater (s : State) : State := { s with issue := s.issue.map fun i => { i with reeval := true } }

/-- Starvation counts at the end of a band-cycle: the lanes of issued groups, and those of ready groups that did not issue
(R351). -/
def starveBand (issued ready : Dword) (b : Band) : Band :=
  Band.modLanes b (lanesOf (issued ||| ready)) fun l y =>
    { y with starve := if issued.getLsbD l then 0 else Nat.min 256 (y.starve + 1) }

/-- The end of a band-cycle, where a group has issued (R351). -/
def starveEnd (iss : Issue) (s : State) : State :=
  if iss.done = 0 then s else State.modBand s iss.band (starveBand iss.done iss.ready)

/-- The end of an issue: the secondary group's turn, or the end of the cycle for the band (R350, R351, R365). -/
def endIssue (iss : Issue) (s : State) : State :=
  let again : Bool := match s.issue with
    | some i => i.reeval
    | none => false
  match iss.second with
  | some g => { s with issue := some { iss with grp := g, borrowed := false, second := none, reeval := again } }
  | none =>
    let s1 := starveEnd iss { s with issue := none }
    if again then State.rejoinAt s1 iss.band else s1

/-- The group of the issue has issued. -/
def Issue.issued (iss : Issue) : Issue := { iss with done := iss.done ||| iss.grp.lanes }

/-- Give back a price: the instruction has not issued (R405). -/
def refund (iss : Issue) (s : State) : State :=
  let p : Nat := iss.grp.price
  let s : State := State.modHub s fun h => { h with w := h.w - p }
  if iss.borrowed then State.modDie s (iss.band / 1024) fun d => { d with tokens := d.tokens + p }
  else State.modCore s (iss.band / 64) fun c => { c with bucket := c.bucket + p }

/-- Add 1 to a counter (R38). -/
def countUp (key : Nat) (dc : Dc) (s : State) : State :=
  match dc with
  | none => s
  | some k => State.modBand s key fun b => { b with dc := Table.set k.val (Table.get 0 k.val b.dc + 1) b.dc }

/-- Subtract 1 from a counter. -/
def countDown (key : Nat) (dc : Dc) (s : State) : State :=
  match dc with
  | none => s
  | some k => State.modBand s key fun b => { b with dc := Table.put 0 k.val (Table.get 0 k.val b.dc - 1) b.dc }

/-- The byte of a core's slice where log entry `i` begins (R440). -/
def logPlace (core i : Nat) : Nat := core * 2 ^ 26 + 0x3F00000 + 2048 * i

/-- The log of a fragment is read: what the code of its bank words finds counts (R141, R443). -/
def senseLog (core : Nat) (f : Frag) (s : State) : State :=
  (f.logNo :: f.cont.toList).foldl (fun s i => senseSram (logPlace core i) 2048 s) s

/-- At a replay's issue its log is read, its entry is freed but for itself, and its lanes carry its identity (R443, R444). -/
def beginReplay (x : Ix) (s : State) : State :=
  match x.replay with
  | none => s
  | some (n, f) =>
    State.modBand
      (State.modCore (senseLog (Ix.core x) f s) (Ix.core x) fun c => { c with frags := Table.del n c.frags, kept := Table.set n f c.kept }) x.key
      fun b => Band.modLanes b x.sel fun _ y =>
        { y with run := .running, frag := BitVec.ofNat 32 (Ix.core x * 128 + n) }

/-- Move the lanes on, and note the yield of a clause that ends (R348, R401). -/
def advance (x : Ix) (n : Nat) (ls : List Nat) (b : Band) : Band :=
  let b1 := Band.modLanes b ls fun _ y => Lane.step { y with pc := x.pc } x.hdr n x.replay.isSome
  if (nextOf x.hdr x.pc n).last && x.hdr.testBit 3 then { b1 with yf := true } else b1

/-- The SRAM words that an instruction reads as it issues, and tests for poison before its effect: place and bytes, for some
lanes. -/
def issueReads (i : Instr) (x : Ix) (ls : List Nat) : List (Nat × Nat) :=
  match i with
  | .pharr o | .phwait o => ((phaseWord x o.c).map fun g => (g, 4)).toList
  | .waita o => ls.filterMap fun l => match waitaWord x l o.v.val with
    | .sram g => some (g, 4)
    | _ => none
  | .mma o => ((sramForm (Ix.core x) x.t x.gr .loc (Ix.s x o.a.val).toNat).map fun g => (g, 64)).toList
  | _ => []

/-- What the code finds in the words that the lanes which take POISON have read (R141). -/
def sensePoison (i : Instr) (x : Ix) (trs : List Trap) (s : State) : State :=
  let ls := (trs.filter fun t => t.cause == causePoison).map fun t => t.lane
  if ls.isEmpty then s else (issueReads i x ls).foldl (fun s r => senseSram r.1 r.2 s) s

/-- The instruction in the lanes of its group, once no hold applies. A counted replay all of whose lanes take a cause ends
with its count given back (R185). -/
def perform (i : Instr) (own : Own) (eff : Ix → State → Res) (iss : Issue) (x : Ix) (s : State) : State :=
  let u := uses i
  let trs := x.act.filterMap (causeOf i own x s)
  let live := x.act.filter fun l => !(trs.any fun t => t.lane == l)
  let bad := mismatched i u iss (opcodeOf i) live
  let go := live.filter fun l => !bad.elem l
  let s0 := sensePoison i x trs (beginReplay x s)
  let r : Res := if go.isEmpty then { s := if Ix.again x then countDown x.key (counterOf i) s0 else s0 }
    else eff { x with act := go } s0
  let all := trs ++ (bad.map fun l => ⟨l, causeShadowMismatch, 0⟩) ++ r.traps
  let taken := x.sel.filterMap fun l => all.find? fun t => t.lane == l
  let on := x.sel.filter fun l => !(taken.any fun t => t.lane == l) && !r.moved.elem l
  deliverAll x.key x.pc taken (State.modBand r.s x.key (advance x (slotCount i) on))

/-- Issue an instruction with a further hold, its own causes and its effect. -/
def issueUnless (i : Instr) (hold : Ix → State → Bool) (own : Own) (eff : Ix → State → Res) (s : State) :
    Host.Outcome State Fault Refusal :=
  match s.issue with
  | none => .next s
  | some iss =>
    match indexOf s iss.band iss.grp (uses i).g with
    | none => .next (endIssue iss (refund iss s))
    | some x =>
      if heldUp i x s || hold x s then .next (endIssue iss (refund iss s))
      else .next (endIssue (Issue.issued iss) (perform i own eff iss x s))

/-- Issue an instruction with its own causes and effect. -/
def issueWith (i : Instr) (own : Own) (eff : Ix → State → Res) (s : State) : Host.Outcome State Fault Refusal :=
  issueUnless i (fun _ _ => false) own eff s

/-! ## Long-latency results (R37) -/

/-- Mark destinations pending in each active lane; where the instruction stands among the run's results is noted (R37). -/
def markPending (key : Nat) (ls : List Nat) (regs : List Nat) (op : Nat) (s : State) : State :=
  State.modBand s key fun b =>
    let b1 := { b with held := b.held ++ ls.flatMap fun l => regs.map fun r => .load l r op }
    Band.modLanes b1 ls fun _ y => { y with pend := y.pend ++ regs.map fun r => (r, op) }

/-- The lane awaits the operation no longer, and it has no result there. -/
def dropPending (key l op : Nat) (s : State) : State :=
  State.modBand s key fun b =>
    Band.modLane { b with held := forgetLoad l op b.held } l fun y => { y with pend := y.pend.filter fun p => p.2 != op }

/-- A long-latency result lands in one lane: the value is visible and that operation's marks go; short-latency writes of
earlier slots of the run to the same registers are discarded (R37). DESIGN CHOICE (log 47): a counted value that lands
after its run has passed its switch point also replaces what a later slot of that run wrote to the register; R37 orders
the two only where the value lands before the switch point, for which R38 does not let the run wait. -/
def landWords (key l reg : Nat) (ws : List Word) (op : Nat) (s : State) : State :=
  State.modBand s key fun b => Band.modLane { b with held := discardEarlier l op b.held } l fun y =>
    let z := (List.range ws.length).foldl (fun y i => Lane.setReg y (reg + i) (ws.getD i 0)) y
    { z with pend := z.pend.filter fun p => p.2 != op }

/-! ## The sources of an instruction, as an operand log keeps them (R440) -/

/-- The log of an instruction's lanes. -/
def logOf (i : Instr) (x : Ix) (shape : Nat) : Log :=
  let u := uses i
  let w := encode i
  { w0 := (w.getD 0 0).toNat, w1 := (w.getD 1 0).toNat, shape := shape, hdr := x.hdr, lanes := maskOf x.act
    cmask := match u.cond with
      | none => 0
      | some p => maskOf (x.act.filter fun l => Ix.pred x l p)
    sv := (regsOf u.s).foldl (fun t r => Table.set r (Ix.s x r) t) []
    vrec := x.act.foldl (fun t l => Table.set l ((regsOf u.v).foldl (fun t r => Table.set r (Ix.v x l r) t) []) t) []
    err := [], vok := true }

/-- A new operation of the instruction, with its key (R37, R38). -/
def newOp (i : Instr) (x : Ix) (kind : OpKind) (dc : Dc) (scope : Scope) (order : Order) (accs : List Acc) (holds : Bool)
    (shape : Nat) (s : State) : Nat × State :=
  let k := s.nextKey
  (k, { s with
    nextKey := k + 1
    ops := Table.set k
      { band := x.key, lanes := maskOf x.act, kind := kind, pc := x.pc, dc := dc, scope := scope, order := order
        accs := accs, log := logOf i x shape, seq := k, replay := x.replay.map fun r => Ix.core x * 128 + r.1
        holds := holds, poison := none, since := 0 } s.ops })

end Sys2Proof.Machine
end

