-- ==== Sys2Proof/Machine/Scalar.lean ====
section
/-!
DEFINITION. The scalar instructions (spec/10_integer_and_logic.md R226 to R240) and the moves to and from special registers
(spec/09_registers_and_formats.md R205, R206).
-/
namespace Sys2Proof.Machine

open Sys2Proof.Forms Sys2Proof.Arith

/-- A scalar instruction: one result for the band, held to the switch point (R226, R227). -/
def scalarOp (i : Instr) (d : SReg) (wide : Bool) (f : Ix → Nat) (s : State) : Host.Outcome State Fault Refusal :=
  issueWith i noCause (fun x s => { s := holdResults x.key (heldS (maskOf x.act) d.val wide (f x)) s }) s

/-- Format S: SD := SD op SA (R63). -/
def scalarS (i : Instr) (d a : SReg) (wide awide : Bool) (f : Nat → Nat → Nat) (s : State) :
    Host.Outcome State Fault Refusal :=
  scalarOp i d wide (fun x => f (Ix.sw x wide d.val) (Ix.sw x awide a.val)) s

/-- Format SR: SD := SA op SS (R63). -/
def scalarSR (i : Instr) (d a b : SReg) (wide bwide : Bool) (f : Nat → Nat → Nat) (s : State) :
    Host.Outcome State Fault Refusal :=
  scalarOp i d wide (fun x => f (Ix.sw x wide a.val) (Ix.sw x bwide b.val)) s

/-- Format SI: SD := SA op IMM16 (R63, R229). -/
def scalarSI (i : Instr) (o : OpSI ITy) (f : Nat → Nat → Nat) (s : State) : Host.Outcome State Fault Refusal :=
  scalarOp i o.d (ITy.is64 o.ty) (fun x =>
    f (Ix.sw x (ITy.is64 o.ty) o.a.val) (imm (ITy.signed o.ty) (width (ITy.is64 o.ty)) o.imm)) s

/-- A comparison's 0 or 1 (R235). -/
def flagNat (b : Bool) : Nat := if b then 1 else 0

/-- SMOV (R236). -/
def execSmov (o : OpS Wd) (s : State) : Host.Outcome State Fault Refusal :=
  scalarOp (.smov o) o.d (Wd.is64 o.ty) (fun x => Ix.sw x (Wd.is64 o.ty) o.a.val) s

/-- SMOVI (R236). -/
def execSmovi (o : OpSMovi) (s : State) : Host.Outcome State Fault Refusal :=
  scalarOp (.smovi o) o.d false (fun x =>
    match o.ty with
    | .i32 => imm true 32 o.imm
    | .n32 => o.imm.toNat
    | .hi => o.imm.toNat * 2 ^ 16 + (Ix.s x o.d.val).toNat % 2 ^ 16) s

/-- SADD_S (R233). -/
def execSaddS (o : OpS Wd) (s : State) : Host.Outcome State Fault Refusal :=
  scalarS (.saddS o) o.d o.a (Wd.is64 o.ty) (Wd.is64 o.ty) (add (width (Wd.is64 o.ty))) s

/-- SADD_SR (R233). -/
def execSaddSR (o : OpSR Wd) (s : State) : Host.Outcome State Fault Refusal :=
  scalarSR (.saddSR o) o.d o.a o.s (Wd.is64 o.ty) (Wd.is64 o.ty) (add (width (Wd.is64 o.ty))) s

/-- SADD_SI (R233). -/
def execSaddSI (o : OpSI ITy) (s : State) : Host.Outcome State Fault Refusal :=
  scalarSI (.saddSI o) o (add (width (ITy.is64 o.ty))) s

/-- SSUB_S (R233). -/
def execSsubS (o : OpS Wd) (s : State) : Host.Outcome State Fault Refusal :=
  scalarS (.ssubS o) o.d o.a (Wd.is64 o.ty) (Wd.is64 o.ty) (sub (width (Wd.is64 o.ty))) s

/-- SSUB_SR (R233). -/
def execSsubSR (o : OpSR Wd) (s : State) : Host.Outcome State Fault Refusal :=
  scalarSR (.ssubSR o) o.d o.a o.s (Wd.is64 o.ty) (Wd.is64 o.ty) (sub (width (Wd.is64 o.ty))) s

/-- SSUB_SI (R233). -/
def execSsubSI (o : OpSI ITy) (s : State) : Host.Outcome State Fault Refusal :=
  scalarSI (.ssubSI o) o (sub (width (ITy.is64 o.ty))) s

/-- SMUL_S (R233). -/
def execSmulS (o : OpS Wd) (s : State) : Host.Outcome State Fault Refusal :=
  scalarS (.smulS o) o.d o.a (Wd.is64 o.ty) (Wd.is64 o.ty) (mul (width (Wd.is64 o.ty))) s

/-- SMUL_SR (R233). -/
def execSmulSR (o : OpSR Wd) (s : State) : Host.Outcome State Fault Refusal :=
  scalarSR (.smulSR o) o.d o.a o.s (Wd.is64 o.ty) (Wd.is64 o.ty) (mul (width (Wd.is64 o.ty))) s

/-- SMUL_SI (R233). -/
def execSmulSI (o : OpSI ITy) (s : State) : Host.Outcome State Fault Refusal :=
  scalarSI (.smulSI o) o (mul (width (ITy.is64 o.ty))) s

/-- SMULH_S (R233). -/
def execSmulhS (o : OpS ITy) (s : State) : Host.Outcome State Fault Refusal :=
  scalarS (.smulhS o) o.d o.a (ITy.is64 o.ty) (ITy.is64 o.ty) (mulh (ITy.signed o.ty) (width (ITy.is64 o.ty))) s

/-- SMULH_SR (R233). -/
def execSmulhSR (o : OpSR ITy) (s : State) : Host.Outcome State Fault Refusal :=
  scalarSR (.smulhSR o) o.d o.a o.s (ITy.is64 o.ty) (ITy.is64 o.ty) (mulh (ITy.signed o.ty) (width (ITy.is64 o.ty))) s

/-- SDIV_S (R234). -/
def execSdivS (o : OpS ITy) (s : State) : Host.Outcome State Fault Refusal :=
  scalarS (.sdivS o) o.d o.a (ITy.is64 o.ty) (ITy.is64 o.ty) (divide (ITy.signed o.ty) (width (ITy.is64 o.ty))) s

/-- SDIV_SR (R234). -/
def execSdivSR (o : OpSR ITy) (s : State) : Host.Outcome State Fault Refusal :=
  scalarSR (.sdivSR o) o.d o.a o.s (ITy.is64 o.ty) (ITy.is64 o.ty) (divide (ITy.signed o.ty) (width (ITy.is64 o.ty))) s

/-- SDIV_SI (R234). -/
def execSdivSI (o : OpSI ITy) (s : State) : Host.Outcome State Fault Refusal :=
  scalarSI (.sdivSI o) o (divide (ITy.signed o.ty) (width (ITy.is64 o.ty))) s

/-- SREM_S (R234). -/
def execSremS (o : OpS ITy) (s : State) : Host.Outcome State Fault Refusal :=
  scalarS (.sremS o) o.d o.a (ITy.is64 o.ty) (ITy.is64 o.ty) (remain (ITy.signed o.ty) (width (ITy.is64 o.ty))) s

/-- SREM_SR (R234). -/
def execSremSR (o : OpSR ITy) (s : State) : Host.Outcome State Fault Refusal :=
  scalarSR (.sremSR o) o.d o.a o.s (ITy.is64 o.ty) (ITy.is64 o.ty) (remain (ITy.signed o.ty) (width (ITy.is64 o.ty))) s

/-- SREM_SI (R234). -/
def execSremSI (o : OpSI ITy) (s : State) : Host.Outcome State Fault Refusal :=
  scalarSI (.sremSI o) o (remain (ITy.signed o.ty) (width (ITy.is64 o.ty))) s

/-- SAND_S (R233). -/
def execSandS (o : OpS Wd) (s : State) : Host.Outcome State Fault Refusal :=
  scalarS (.sandS o) o.d o.a (Wd.is64 o.ty) (Wd.is64 o.ty) (fun p q => p &&& q) s

/-- SAND_SR (R233). -/
def execSandSR (o : OpSR Wd) (s : State) : Host.Outcome State Fault Refusal :=
  scalarSR (.sandSR o) o.d o.a o.s (Wd.is64 o.ty) (Wd.is64 o.ty) (fun p q => p &&& q) s

/-- SAND_SI (R233). -/
def execSandSI (o : OpSI ITy) (s : State) : Host.Outcome State Fault Refusal :=
  scalarSI (.sandSI o) o (fun p q => p &&& q) s

/-- SOR_S (R233). -/
def execSorS (o : OpS Wd) (s : State) : Host.Outcome State Fault Refusal :=
  scalarS (.sorS o) o.d o.a (Wd.is64 o.ty) (Wd.is64 o.ty) (fun p q => p ||| q) s

/-- SOR_SR (R233). -/
def execSorSR (o : OpSR Wd) (s : State) : Host.Outcome State Fault Refusal :=
  scalarSR (.sorSR o) o.d o.a o.s (Wd.is64 o.ty) (Wd.is64 o.ty) (fun p q => p ||| q) s

/-- SOR_SI (R233). -/
def execSorSI (o : OpSI ITy) (s : State) : Host.Outcome State Fault Refusal :=
  scalarSI (.sorSI o) o (fun p q => p ||| q) s

/-- SXOR_S (R233). -/
def execSxorS (o : OpS Wd) (s : State) : Host.Outcome State Fault Refusal :=
  scalarS (.sxorS o) o.d o.a (Wd.is64 o.ty) (Wd.is64 o.ty) (fun p q => p ^^^ q) s

/-- SXOR_SR (R233). -/
def execSxorSR (o : OpSR Wd) (s : State) : Host.Outcome State Fault Refusal :=
  scalarSR (.sxorSR o) o.d o.a o.s (Wd.is64 o.ty) (Wd.is64 o.ty) (fun p q => p ^^^ q) s

/-- SXOR_SI (R233). -/
def execSxorSI (o : OpSI ITy) (s : State) : Host.Outcome State Fault Refusal :=
  scalarSI (.sxorSI o) o (fun p q => p ^^^ q) s

/-- SSHL_S (R233). -/
def execSshlS (o : OpS Wd) (s : State) : Host.Outcome State Fault Refusal :=
  scalarS (.sshlS o) o.d o.a (Wd.is64 o.ty) false (shl (width (Wd.is64 o.ty))) s

/-- SSHL_SR (R233). -/
def execSshlSR (o : OpSR Wd) (s : State) : Host.Outcome State Fault Refusal :=
  scalarSR (.sshlSR o) o.d o.a o.s (Wd.is64 o.ty) false (shl (width (Wd.is64 o.ty))) s

/-- SSHL_SI (R233). -/
def execSshlSI (o : OpSI ITy) (s : State) : Host.Outcome State Fault Refusal :=
  scalarSI (.sshlSI o) o (shl (width (ITy.is64 o.ty))) s

/-- SSHR_S (R233). -/
def execSshrS (o : OpS Wd) (s : State) : Host.Outcome State Fault Refusal :=
  scalarS (.sshrS o) o.d o.a (Wd.is64 o.ty) false (shr (width (Wd.is64 o.ty))) s

/-- SSHR_SR (R233). -/
def execSshrSR (o : OpSR Wd) (s : State) : Host.Outcome State Fault Refusal :=
  scalarSR (.sshrSR o) o.d o.a o.s (Wd.is64 o.ty) false (shr (width (Wd.is64 o.ty))) s

/-- SSHR_SI (R233). -/
def execSshrSI (o : OpSI ITy) (s : State) : Host.Outcome State Fault Refusal :=
  scalarSI (.sshrSI o) o (shr (width (ITy.is64 o.ty))) s

/-- SSRA_S (R233). -/
def execSsraS (o : OpS Wd) (s : State) : Host.Outcome State Fault Refusal :=
  scalarS (.ssraS o) o.d o.a (Wd.is64 o.ty) false (sra (width (Wd.is64 o.ty))) s

/-- SSRA_SR (R233). -/
def execSsraSR (o : OpSR Wd) (s : State) : Host.Outcome State Fault Refusal :=
  scalarSR (.ssraSR o) o.d o.a o.s (Wd.is64 o.ty) false (sra (width (Wd.is64 o.ty))) s

/-- SSRA_SI (R233). -/
def execSsraSI (o : OpSI ITy) (s : State) : Host.Outcome State Fault Refusal :=
  scalarSI (.ssraSI o) o (sra (width (ITy.is64 o.ty))) s

/-- SCMP_I32_S (R235). -/
def execScmpI32S (o : OpS Cmp) (s : State) : Host.Outcome State Fault Refusal :=
  scalarS (.scmpI32S o) o.d o.a false false (fun p q => flagNat (compare o.ty (val true 32 p) (val true 32 q))) s

/-- SCMP_I32_SR (R235). -/
def execScmpI32SR (o : OpSR Cmp) (s : State) : Host.Outcome State Fault Refusal :=
  scalarSR (.scmpI32SR o) o.d o.a o.s false false (fun p q => flagNat (compare o.ty (val true 32 p) (val true 32 q))) s

/-- SCMP_I32_SI (R235). -/
def execScmpI32SI (o : OpSI Cmp) (s : State) : Host.Outcome State Fault Refusal :=
  scalarOp (.scmpI32SI o) o.d false (fun x =>
    flagNat (compare o.ty (val true 32 (Ix.sw x false o.a.val)) (val true 32 (imm true 32 o.imm)))) s

/-- SCMP_N32_S (R235). -/
def execScmpN32S (o : OpS Cmp) (s : State) : Host.Outcome State Fault Refusal :=
  scalarS (.scmpN32S o) o.d o.a false false (fun p q => flagNat (compare o.ty (val false 32 p) (val false 32 q))) s

/-- SCMP_N32_SR (R235). -/
def execScmpN32SR (o : OpSR Cmp) (s : State) : Host.Outcome State Fault Refusal :=
  scalarSR (.scmpN32SR o) o.d o.a o.s false false (fun p q => flagNat (compare o.ty (val false 32 p) (val false 32 q))) s

/-- SCMP_N32_SI (R235). -/
def execScmpN32SI (o : OpSI Cmp) (s : State) : Host.Outcome State Fault Refusal :=
  scalarOp (.scmpN32SI o) o.d false (fun x =>
    flagNat (compare o.ty (val false 32 (Ix.sw x false o.a.val)) (val false 32 (imm false 32 o.imm)))) s

/-- SSEL (R236). -/
def execSsel (o : OpSR Wd) (s : State) : Host.Outcome State Fault Refusal :=
  scalarOp (.ssel o) o.d (Wd.is64 o.ty) (fun x =>
    if Ix.sw x (Wd.is64 o.ty) o.d.val = 0 then Ix.sw x (Wd.is64 o.ty) o.s.val else Ix.sw x (Wd.is64 o.ty) o.a.val) s

/-- The offset of SLDC (R237). -/
def sldcOffset (o : OpSI Wd) (x : Ix) : Nat := ((Ix.s x o.a.val).toNat + o.imm.toNat) % 2 ^ 32

/-- A byte of the grid's constant area; zero at and above CONSTSZ (R237). -/
def constByte (g : Grid) (a : Nat) : Byte := if a < g.hdr.constsz then Memory.read g.consts a else 0

/-- SLDC (R237). -/
def execSldc (o : OpSI Wd) (s : State) : Host.Outcome State Fault Refusal :=
  let z := if Wd.is64 o.ty then 8 else 4
  issueWith (.sldc o)
    (fun x _ _ => if sldcOffset o x % z = 0 then none else some (causeMisaligned, BitVec.ofNat 64 (sldcOffset o x)))
    (fun x s =>
      let v := leNat ((List.range z).map fun i => constByte x.gr (sldcOffset o x + i))
      { s := holdResults x.key (heldS (maskOf x.act) o.d.val (Wd.is64 o.ty) v) s }) s

/-- SRDLANE (R238). -/
def execSrdlane (o : OpSRdLane) (s : State) : Host.Outcome State Fault Refusal :=
  scalarOp (.srdlane o) o.d (Wd.is64 o.ty) (fun x =>
    let k := (Ix.s x o.a.val).toNat
    if k < x.b.width then pairOf (Lane.reg (Band.lane x.peers k)) (Wd.is64 o.ty) o.c.val else 0) s

/-- SMOVT (R239). -/
def execSmovt (o : OpSMovt) (s : State) : Host.Outcome State Fault Refusal :=
  issueWith (.smovt o) noCause
    (fun x s => { s := holdResults x.key [.shape (maskOf x.act) o.t.val (Ix.s x o.a.val)] s }) s

/-- The value of a special register at issue (R205). -/
def specialValue (x : Ix) (s : State) (r : SpecReg) : Nat :=
  let lane (q : Fin 64) : Lane := Band.lane x.b q.val
  let inBand (q : Fin 64) (v : Nat) : Nat := if q.val < x.b.width then v else 0
  match r with
  | .lane q => inBand q q.val
  | .tid q => inBand q (x.b.num * x.b.width + q.val)
  | .tcause q => inBand q (lane q).tcause.toNat
  | .tepc q => inBand q (lane q).tepc.toNat
  | .taddr q => inBand q (lane q).taddr.toNat
  | .frag q => if q.val < x.b.width then (lane q).frag.toNat else 0xFFFF
  | .band => x.b.num
  | .team => x.t.num
  | .grid => x.gr.desc.gridid
  | .core => Ix.core x
  | .die => Ix.core x / 16
  | .width => x.b.width
  | .active => (maskOf x.act).toNat
  | .cycles => (State.core s (Ix.core x)).cycles.toNat
  | .brun => x.b.brun.toNat
  | .tokq => (State.core s (Ix.core x)).tokq
  | .charge => chargeOf (State.die s (Ix.die x))
  | .pass => State.passCount s (Ix.core x)
  | .fflags => x.b.fflags.toNat
  | .spflag => (State.ctx s (Ix.ctx x)).spflag.toNat
  | .lthresh => x.b.lthresh.toNat

/-- Whether a grid runs with privilege (R472). -/
def privileged (g : Grid) : Bool := g.ctx == 0

/-- SRD (R206). -/
def execSrd (o : OpSpecial) (s : State) : Host.Outcome State Fault Refusal :=
  issueWith (.srd o) noCause (fun x s =>
    match specReg o.num with
    | none => { s := s }
    | some r => { s := holdResults x.key (heldS (maskOf x.act) o.r.val (SpecReg.is64 r) (specialValue x s r)) s }) s

/-- SWR (R206). -/
def execSwr (o : OpSpecial) (s : State) : Host.Outcome State Fault Refusal :=
  issueWith (.swr o)
    (fun x _ _ => if specReg o.num = some .cycles ∧ !privileged x.gr then some (causePriv, 0) else none)
    (fun x s =>
      let v := Ix.s x o.r.val
      match specReg o.num with
      | some .fflags => { s := State.modBand s x.key fun b => { b with fflags := BitVec.setWidth 5 v } }
      | some .cycles => { s := holdResults x.key [.special (maskOf x.act) .cycles v] s }
      | some .spflag => { s := holdResults x.key [.special (maskOf x.act) .spflag v] s }
      | some .lthresh => { s := holdResults x.key [.special (maskOf x.act) .lthresh v] s }
      | _ => { s := s }) s

end Sys2Proof.Machine
end

