-- ==== Sys2Proof/Machine/VectorInt.lean ====
section
/-!
DEFINITION. The vector integer instructions (spec/10_integer_and_logic.md R241 to R250).
-/
namespace Sys2Proof.Machine

open Sys2Proof.Forms Sys2Proof.Arith

/-- A vector instruction: one result in each active lane, held to the switch point (R226, R36). -/
def vectorOp (i : Instr) (d : VReg) (wide : Bool) (f : Ix → Nat → Nat) (s : State) : Host.Outcome State Fault Refusal :=
  issueWith i noCause
    (fun x s => { s := holdResults x.key (x.act.flatMap fun l => heldV l d.val wide (f x l)) s }) s

/-- Format V: D := A op B (R65). -/
def vectorV (i : Instr) (d a b : VReg) (wide bwide : Bool) (f : Nat → Nat → Nat) (s : State) :
    Host.Outcome State Fault Refusal :=
  vectorOp i d wide (fun x l => f (Ix.vw x l wide a.val) (Ix.vw x l bwide b.val)) s

/-- Format VR: D := A op b (R65). -/
def vectorVR (i : Instr) (d a : VReg) (b : VSrc) (wide bwide : Bool) (f : Nat → Nat → Nat) (s : State) :
    Host.Outcome State Fault Refusal :=
  vectorOp i d wide (fun x l => f (Ix.vw x l wide a.val) (Ix.src x l bwide b)) s

/-- Format VI: D := A op IMM16 (R65, R229); `sg` extends the sign. -/
def vectorVI (i : Instr) (d a : VReg) (imm16 : BitVec 16) (wide sg : Bool) (f : Nat → Nat → Nat) (s : State) :
    Host.Outcome State Fault Refusal :=
  vectorOp i d wide (fun x l => f (Ix.vw x l wide a.val) (imm sg (width wide) imm16)) s

/-- One source (R242, R248, R250). -/
def vector1 (i : Instr) (d a : VReg) (wide dwide : Bool) (f : Nat → Nat) (s : State) :
    Host.Outcome State Fault Refusal :=
  vectorOp i d dwide (fun x l => f (Ix.vw x l wide a.val)) s

/-- An operation on the integers of two patterns, written by wrap or sat (R228, R242). -/
def intOp (ty : ITy) (sat : Bool) (f : Int → Int → Int) (p q : Nat) : Nat :=
  let w := width (ITy.is64 ty)
  put (ITy.signed ty) w sat (f (val (ITy.signed ty) w p) (val (ITy.signed ty) w q))

/-- IABS: of an .n type the value itself (R242). -/
def intAbs (ty : ITy) (sat : Bool) (p : Nat) : Nat := intOp ty sat (fun a _ => (a.natAbs : Int)) p 0
/-- INEG (R242). -/
def intNeg (ty : ITy) (sat : Bool) (p : Nat) : Nat := intOp ty sat (fun a _ => -a) p 0

/-- A condition bit written in each active lane (R244). -/
def condOp (i : Instr) (d : CDst) (f : Ix → Nat → Bool) (s : State) : Host.Outcome State Fault Refusal :=
  issueWith i noCause (fun x s => { s := holdResults x.key (x.act.map fun l => .cond l d.val (f x l)) s }) s

/-- MOV_V (R250). -/
def execMovV (o : OpV1 Wd) (s : State) : Host.Outcome State Fault Refusal :=
  vector1 (.movV o) o.d o.a (Wd.is64 o.ty) (Wd.is64 o.ty) (fun p => p) s

/-- MOV_VR (R250). -/
def execMovVR (o : OpVR1 Wd) (s : State) : Host.Outcome State Fault Refusal :=
  vector1 (.movVR o) o.d o.a (Wd.is64 o.ty) (Wd.is64 o.ty) (fun p => p) s

/-- MOVI (R250). -/
def execMovi (o : OpMovi) (s : State) : Host.Outcome State Fault Refusal :=
  vectorOp (.movi o) o.d false (fun x l =>
    match o.ty with
    | .i32 => imm true 32 o.imm
    | .n32 => o.imm.toNat
    | .hi => o.imm.toNat * 2 ^ 16 + (Ix.v x l o.d.val).toNat % 2 ^ 16) s

/-- VMOVS (R250). -/
def execVmovs (o : OpVMovs) (s : State) : Host.Outcome State Fault Refusal :=
  vectorOp (.vmovs o) o.d (Wd.is64 o.ty) (fun x _ => Ix.sw x (Wd.is64 o.ty) o.s.val) s

/-- IADD_V (R242). -/
def execIaddV (o : OpV ITy) (s : State) : Host.Outcome State Fault Refusal :=
  vectorV (.iaddV o) o.d o.a o.b (ITy.is64 o.ty) (ITy.is64 o.ty) (intOp o.ty false (· + ·)) s

/-- IADD_VR (R242). -/
def execIaddVR (o : OpVRs ITy) (s : State) : Host.Outcome State Fault Refusal :=
  vectorVR (.iaddVR o) o.d o.a o.b (ITy.is64 o.ty) (ITy.is64 o.ty) (intOp o.ty o.sat (· + ·)) s

/-- IADD_VI (R242). -/
def execIaddVI (o : OpVIs ITy) (s : State) : Host.Outcome State Fault Refusal :=
  vectorVI (.iaddVI o) o.d o.a o.imm (ITy.is64 o.ty) (ITy.signed o.ty) (intOp o.ty o.sat (· + ·)) s

/-- IADDC (R243). -/
def execIaddc (o : OpIAddc) (s : State) : Host.Outcome State Fault Refusal :=
  let w := width (ITy.is64 o.ty)
  issueWith (.iaddc o) noCause (fun x s =>
    { s := holdResults x.key (x.act.flatMap fun l =>
        let y := Ix.vw x l (ITy.is64 o.ty) o.a.val + Ix.src x l (ITy.is64 o.ty) o.b + flagNat (Ix.pred x l ⟨false, o.k.castSucc⟩)
        heldV l o.d.val (ITy.is64 o.ty) (y % 2 ^ w) ++ [.cond l o.k.val (y.testBit w)]) s }) s

/-- ISUB_V (R242). -/
def execIsubV (o : OpV ITy) (s : State) : Host.Outcome State Fault Refusal :=
  vectorV (.isubV o) o.d o.a o.b (ITy.is64 o.ty) (ITy.is64 o.ty) (intOp o.ty false (· - ·)) s

/-- ISUB_VR (R242). -/
def execIsubVR (o : OpVRs ITy) (s : State) : Host.Outcome State Fault Refusal :=
  vectorVR (.isubVR o) o.d o.a o.b (ITy.is64 o.ty) (ITy.is64 o.ty) (intOp o.ty o.sat (· - ·)) s

/-- ISUB_VI (R242). -/
def execIsubVI (o : OpVIs ITy) (s : State) : Host.Outcome State Fault Refusal :=
  vectorVI (.isubVI o) o.d o.a o.imm (ITy.is64 o.ty) (ITy.signed o.ty) (intOp o.ty o.sat (· - ·)) s

/-- IMUL_V (R242). -/
def execImulV (o : OpV ITy) (s : State) : Host.Outcome State Fault Refusal :=
  vectorV (.imulV o) o.d o.a o.b (ITy.is64 o.ty) (ITy.is64 o.ty) (intOp o.ty false (· * ·)) s

/-- IMUL_VR (R242). -/
def execImulVR (o : OpVRs ITy) (s : State) : Host.Outcome State Fault Refusal :=
  vectorVR (.imulVR o) o.d o.a o.b (ITy.is64 o.ty) (ITy.is64 o.ty) (intOp o.ty o.sat (· * ·)) s

/-- IMUL_VI (R242). -/
def execImulVI (o : OpVIs ITy) (s : State) : Host.Outcome State Fault Refusal :=
  vectorVI (.imulVI o) o.d o.a o.imm (ITy.is64 o.ty) (ITy.signed o.ty) (intOp o.ty o.sat (· * ·)) s

/-- IMULH_V (R242). -/
def execImulhV (o : OpV ITy) (s : State) : Host.Outcome State Fault Refusal :=
  vectorV (.imulhV o) o.d o.a o.b (ITy.is64 o.ty) (ITy.is64 o.ty) (mulh (ITy.signed o.ty) (width (ITy.is64 o.ty))) s

/-- IMULH_VR (R242). -/
def execImulhVR (o : OpVR ITy) (s : State) : Host.Outcome State Fault Refusal :=
  vectorVR (.imulhVR o) o.d o.a o.b (ITy.is64 o.ty) (ITy.is64 o.ty) (mulh (ITy.signed o.ty) (width (ITy.is64 o.ty))) s

/-- IMAD (R242). -/
def execImad (o : OpVRcs ITy) (s : State) : Host.Outcome State Fault Refusal :=
  vectorOp (.imad o) o.d (ITy.is64 o.ty) (fun x l =>
    let w := width (ITy.is64 o.ty)
    let sg := ITy.signed o.ty
    put sg w o.sat (val sg w (Ix.vw x l (ITy.is64 o.ty) o.a.val) * val sg w (Ix.src x l (ITy.is64 o.ty) o.b)
      + val sg w (Ix.vw x l (ITy.is64 o.ty) o.c.val))) s

/-- IMIN_V (R242). -/
def execIminV (o : OpV ITy) (s : State) : Host.Outcome State Fault Refusal :=
  vectorV (.iminV o) o.d o.a o.b (ITy.is64 o.ty) (ITy.is64 o.ty) (intOp o.ty false (fun a b => if b < a then b else a)) s

/-- IMIN_VR (R242). -/
def execIminVR (o : OpVR ITy) (s : State) : Host.Outcome State Fault Refusal :=
  vectorVR (.iminVR o) o.d o.a o.b (ITy.is64 o.ty) (ITy.is64 o.ty) (intOp o.ty false (fun a b => if b < a then b else a)) s

/-- IMIN_VI (R242). -/
def execIminVI (o : OpVI ITy) (s : State) : Host.Outcome State Fault Refusal :=
  vectorVI (.iminVI o) o.d o.a o.imm (ITy.is64 o.ty) (ITy.signed o.ty) (intOp o.ty false (fun a b => if b < a then b else a)) s

/-- IMAX_V (R242). -/
def execImaxV (o : OpV ITy) (s : State) : Host.Outcome State Fault Refusal :=
  vectorV (.imaxV o) o.d o.a o.b (ITy.is64 o.ty) (ITy.is64 o.ty) (intOp o.ty false (fun a b => if a < b then b else a)) s

/-- IMAX_VR (R242). -/
def execImaxVR (o : OpVR ITy) (s : State) : Host.Outcome State Fault Refusal :=
  vectorVR (.imaxVR o) o.d o.a o.b (ITy.is64 o.ty) (ITy.is64 o.ty) (intOp o.ty false (fun a b => if a < b then b else a)) s

/-- IMAX_VI (R242). -/
def execImaxVI (o : OpVI ITy) (s : State) : Host.Outcome State Fault Refusal :=
  vectorVI (.imaxVI o) o.d o.a o.imm (ITy.is64 o.ty) (ITy.signed o.ty) (intOp o.ty false (fun a b => if a < b then b else a)) s

/-- IABS_V (R242). -/
def execIabsV (o : OpV1 ITy) (s : State) : Host.Outcome State Fault Refusal :=
  vector1 (.iabsV o) o.d o.a (ITy.is64 o.ty) (ITy.is64 o.ty) (intAbs o.ty false) s

/-- IABS_VR (R242). -/
def execIabsVR (o : OpVR1s ITy) (s : State) : Host.Outcome State Fault Refusal :=
  vector1 (.iabsVR o) o.d o.a (ITy.is64 o.ty) (ITy.is64 o.ty) (intAbs o.ty o.sat) s

/-- INEG_V (R242). -/
def execInegV (o : OpV1 ITy) (s : State) : Host.Outcome State Fault Refusal :=
  vector1 (.inegV o) o.d o.a (ITy.is64 o.ty) (ITy.is64 o.ty) (intNeg o.ty false) s

/-- INEG_VR (R242). -/
def execInegVR (o : OpVR1s ITy) (s : State) : Host.Outcome State Fault Refusal :=
  vector1 (.inegVR o) o.d o.a (ITy.is64 o.ty) (ITy.is64 o.ty) (intNeg o.ty o.sat) s

/-- ISAD (R242). -/
def execIsad (o : OpVRc ITy) (s : State) : Host.Outcome State Fault Refusal :=
  vectorOp (.isad o) o.d (ITy.is64 o.ty) (fun x l =>
    let w := width (ITy.is64 o.ty)
    let sg := ITy.signed o.ty
    wrap w (((val sg w (Ix.vw x l (ITy.is64 o.ty) o.a.val) - val sg w (Ix.src x l (ITy.is64 o.ty) o.b)).natAbs : Int)
      + val sg w (Ix.vw x l (ITy.is64 o.ty) o.c.val))) s

/-- ICMP_VR (R244). -/
def execIcmpVR (o : OpICmpR) (s : State) : Host.Outcome State Fault Refusal :=
  condOp (.icmpVR o) o.d (fun x l =>
    let v := val (ITy.signed o.ty) (width (ITy.is64 o.ty))
    compare o.cmp (v (Ix.vw x l (ITy.is64 o.ty) o.a.val)) (v (Ix.src x l (ITy.is64 o.ty) o.b))) s

/-- ICMP_VI (R244). -/
def execIcmpVI (o : OpICmpI) (s : State) : Host.Outcome State Fault Refusal :=
  condOp (.icmpVI o) o.d (fun x l =>
    let v := val (ITy.signed o.ty) (width (ITy.is64 o.ty))
    compare o.cmp (v (Ix.vw x l (ITy.is64 o.ty) o.a.val)) (v (imm (ITy.signed o.ty) (width (ITy.is64 o.ty)) o.imm))) s

/-- ISEL (R244). -/
def execIsel (o : OpISel) (s : State) : Host.Outcome State Fault Refusal :=
  vectorOp (.isel o) o.d (Wd.is64 o.ty) (fun x l =>
    if Ix.pred x l o.p then Ix.vw x l (Wd.is64 o.ty) o.a.val else Ix.src x l (Wd.is64 o.ty) o.b) s

/-- SHL_V (R245). -/
def execShlV (o : OpV Wd) (s : State) : Host.Outcome State Fault Refusal :=
  vectorV (.shlV o) o.d o.a o.b (Wd.is64 o.ty) false (shl (width (Wd.is64 o.ty))) s

/-- SHL_VR (R245). -/
def execShlVR (o : OpVR Wd) (s : State) : Host.Outcome State Fault Refusal :=
  vectorVR (.shlVR o) o.d o.a o.b (Wd.is64 o.ty) false (shl (width (Wd.is64 o.ty))) s

/-- SHL_VI (R245). -/
def execShlVI (o : OpVI Wd) (s : State) : Host.Outcome State Fault Refusal :=
  vectorVI (.shlVI o) o.d o.a o.imm (Wd.is64 o.ty) false (shl (width (Wd.is64 o.ty))) s

/-- SHR_V (R245). -/
def execShrV (o : OpV Wd) (s : State) : Host.Outcome State Fault Refusal :=
  vectorV (.shrV o) o.d o.a o.b (Wd.is64 o.ty) false (shr (width (Wd.is64 o.ty))) s

/-- SHR_VR (R245). -/
def execShrVR (o : OpVR Wd) (s : State) : Host.Outcome State Fault Refusal :=
  vectorVR (.shrVR o) o.d o.a o.b (Wd.is64 o.ty) false (shr (width (Wd.is64 o.ty))) s

/-- SHR_VI (R245). -/
def execShrVI (o : OpVI Wd) (s : State) : Host.Outcome State Fault Refusal :=
  vectorVI (.shrVI o) o.d o.a o.imm (Wd.is64 o.ty) false (shr (width (Wd.is64 o.ty))) s

/-- SRA_V (R245). -/
def execSraV (o : OpV Wd) (s : State) : Host.Outcome State Fault Refusal :=
  vectorV (.sraV o) o.d o.a o.b (Wd.is64 o.ty) false (sra (width (Wd.is64 o.ty))) s

/-- SRA_VR (R245). -/
def execSraVR (o : OpVR Wd) (s : State) : Host.Outcome State Fault Refusal :=
  vectorVR (.sraVR o) o.d o.a o.b (Wd.is64 o.ty) false (sra (width (Wd.is64 o.ty))) s

/-- SRA_VI (R245). -/
def execSraVI (o : OpVI Wd) (s : State) : Host.Outcome State Fault Refusal :=
  vectorVI (.sraVI o) o.d o.a o.imm (Wd.is64 o.ty) false (sra (width (Wd.is64 o.ty))) s

/-- ROT_V (R245). -/
def execRotV (o : OpV Wd) (s : State) : Host.Outcome State Fault Refusal :=
  vectorV (.rotV o) o.d o.a o.b (Wd.is64 o.ty) false (rot (width (Wd.is64 o.ty))) s

/-- ROT_VR (R245). -/
def execRotVR (o : OpVR Wd) (s : State) : Host.Outcome State Fault Refusal :=
  vectorVR (.rotVR o) o.d o.a o.b (Wd.is64 o.ty) false (rot (width (Wd.is64 o.ty))) s

/-- ROT_VI (R245). -/
def execRotVI (o : OpVI Wd) (s : State) : Host.Outcome State Fault Refusal :=
  vectorVI (.rotVI o) o.d o.a o.imm (Wd.is64 o.ty) false (rot (width (Wd.is64 o.ty))) s

/-- LMUX (R246). -/
def execLmux (o : OpLmux) (s : State) : Host.Outcome State Fault Refusal :=
  vectorOp (.lmux o) o.d (Wd.is64 o.ty) (fun x l =>
    Arith.lmux (width (Wd.is64 o.ty)) o.f o.h (Ix.vw x l (Wd.is64 o.ty) o.a.val) (Ix.src x l (Wd.is64 o.ty) o.b)
      (Ix.vw x l (Wd.is64 o.ty) o.c.val)) s

/-- BFX (R247). -/
def execBfx (o : OpBfx) (s : State) : Host.Outcome State Fault Refusal :=
  vector1 (.bfx o) o.d o.a (ITy.is64 o.ty) (ITy.is64 o.ty)
    (fun p => Arith.bfx (ITy.signed o.ty) (width (ITy.is64 o.ty)) p o.pos.val o.len.val) s

/-- BFI (R247). -/
def execBfi (o : OpBfi) (s : State) : Host.Outcome State Fault Refusal :=
  vectorV (.bfi o) o.d o.a o.b (Wd.is64 o.ty) (Wd.is64 o.ty)
    (fun p q => Arith.bfi (width (Wd.is64 o.ty)) p q o.pos.val o.len.val) s

/-- POPC_V (R248). -/
def execPopcV (o : OpV1 Wd) (s : State) : Host.Outcome State Fault Refusal :=
  vector1 (.popcV o) o.d o.a (Wd.is64 o.ty) false (Arith.popc (width (Wd.is64 o.ty))) s

/-- POPC_VR (R248). -/
def execPopcVR (o : OpVR1 Wd) (s : State) : Host.Outcome State Fault Refusal :=
  vector1 (.popcVR o) o.d o.a (Wd.is64 o.ty) false (Arith.popc (width (Wd.is64 o.ty))) s

/-- CLZ_V (R248). -/
def execClzV (o : OpV1 Wd) (s : State) : Host.Outcome State Fault Refusal :=
  vector1 (.clzV o) o.d o.a (Wd.is64 o.ty) false (Arith.clz (width (Wd.is64 o.ty))) s

/-- CLZ_VR (R248). -/
def execClzVR (o : OpVR1 Wd) (s : State) : Host.Outcome State Fault Refusal :=
  vector1 (.clzVR o) o.d o.a (Wd.is64 o.ty) false (Arith.clz (width (Wd.is64 o.ty))) s

/-- BREV_V (R248). -/
def execBrevV (o : OpV1 Wd) (s : State) : Host.Outcome State Fault Refusal :=
  vector1 (.brevV o) o.d o.a (Wd.is64 o.ty) (Wd.is64 o.ty) (Arith.brev (width (Wd.is64 o.ty))) s

/-- BREV_VR (R248). -/
def execBrevVR (o : OpVR1 Wd) (s : State) : Host.Outcome State Fault Refusal :=
  vector1 (.brevVR o) o.d o.a (Wd.is64 o.ty) (Wd.is64 o.ty) (Arith.brev (width (Wd.is64 o.ty))) s

/-- BYTEP (R249). -/
def execBytep (o : OpBytep) (s : State) : Host.Outcome State Fault Refusal :=
  vectorV (.bytep o) o.d o.a o.b false false (fun p q => Arith.bytep p q o.sel) s

end Sys2Proof.Machine
end

