-- ==== Sys2Proof/Machine/Float.lean ====
section
/-!
DEFINITION. Floating-point arithmetic, comparison, conversion, packing and the special functions
(spec/11_float_crosslane_exact.md R251 to R267).
-/
namespace Sys2Proof.Machine

open Sys2Proof.Forms

/-- A rounded result in one lane: its value, its flags and the lane's generator afterwards. -/
structure Rounded where
  v : Nat
  f : Fp.Flags
  g : Word
  deriving DecidableEq, Repr

/-- One rounding: .sr draws from the lane's generator, once in every case (R212, R217). -/
def roundWith (md : Rnd) (g : Word) (f : Nat → Nat × Fp.Flags) : Rounded :=
  if md = .sr then
    let r := f (Fp.randomBits g)
    ⟨r.1, r.2, Fp.advance g⟩
  else
    let r := f 0
    ⟨r.1, r.2, g⟩

/-- Flags and generators of the lanes, at issue (R36, R218, R254). -/
def noteRounded (key : Nat) (rs : List (Nat × Rounded)) (s : State) : State :=
  State.modBand s key fun b =>
    let b1 := { b with fflags := rs.foldl (fun f r => f ||| r.2.f) b.fflags }
    rs.foldl (fun b r => if (Band.lane b r.1).gen = r.2.g then b else Band.modLane b r.1 fun y => { y with gen := r.2.g }) b1

/-- A short-latency instruction that rounds once in each active lane (R253). -/
def roundOp (i : Instr) (d : VReg) (wide : Bool) (md : Rnd) (f : Ix → Nat → Nat → Nat × Fp.Flags) (s : State) :
    Host.Outcome State Fault Refusal :=
  issueWith i noCause (fun x s =>
    let rs := x.act.map fun l => (l, roundWith md (Band.lane x.b l).gen (f x l))
    { s := noteRounded x.key rs (holdResults x.key (rs.flatMap fun r => heldV r.1 d.val wide r.2.v) s) }) s

/-- FADD, FSUB, FMUL in format V (R256). -/
def arithV (i : Instr) (o : OpV FTy) (op : Fp.FOp) (s : State) : Host.Outcome State Fault Refusal :=
  roundOp i o.d (FTy.is64 o.ty) .rn (fun x l rb =>
    Fp.arith op (Fp.tfFmt o.ty) (Ix.vw x l (FTy.is64 o.ty) o.a.val) (Ix.vw x l (FTy.is64 o.ty) o.b.val) 0 .rn false rb) s

/-- FADD, FSUB, FMUL in format VR (R256). -/
def arithVR (i : Instr) (o : OpFR) (op : Fp.FOp) (s : State) : Host.Outcome State Fault Refusal :=
  roundOp i o.d (FTy.is64 o.ty) o.rnd (fun x l rb =>
    Fp.arith op (Fp.tfFmt o.ty) (Ix.vw x l (FTy.is64 o.ty) o.a.val) (Ix.src x l (FTy.is64 o.ty) o.b) 0 o.rnd o.sat rb) s

/-- FADD_V (R256). -/
def execFaddV (o : OpV FTy) (s : State) : Host.Outcome State Fault Refusal :=
  arithV (.faddV o) o .add s

/-- FADD_VR (R256). -/
def execFaddVR (o : OpFR) (s : State) : Host.Outcome State Fault Refusal :=
  arithVR (.faddVR o) o .add s

/-- FSUB_V (R256). -/
def execFsubV (o : OpV FTy) (s : State) : Host.Outcome State Fault Refusal :=
  arithV (.fsubV o) o .sub s

/-- FSUB_VR (R256). -/
def execFsubVR (o : OpFR) (s : State) : Host.Outcome State Fault Refusal :=
  arithVR (.fsubVR o) o .sub s

/-- FMUL_V (R256). -/
def execFmulV (o : OpV FTy) (s : State) : Host.Outcome State Fault Refusal :=
  arithV (.fmulV o) o .mul s

/-- FMUL_VR (R256). -/
def execFmulVR (o : OpFR) (s : State) : Host.Outcome State Fault Refusal :=
  arithVR (.fmulVR o) o .mul s

/-- FMA (R256). -/
def execFma (o : OpFma) (s : State) : Host.Outcome State Fault Refusal :=
  roundOp (.fma o) o.d (FTy.is64 o.ty) o.rnd (fun x l rb =>
    Fp.arith .fma (Fp.tfFmt o.ty) (Ix.vw x l (FTy.is64 o.ty) o.a.val) (Ix.src x l (FTy.is64 o.ty) o.b)
      (Ix.vw x l (FTy.is64 o.ty) o.c.val) o.rnd o.sat rb) s

/-- FMIN_V (R257). -/
def execFminV (o : OpV FTy) (s : State) : Host.Outcome State Fault Refusal :=
  vectorV (.fminV o) o.d o.a o.b (FTy.is64 o.ty) (FTy.is64 o.ty) (Fp.minmax false (Fp.tfFmt o.ty)) s

/-- FMIN_VR (R257). -/
def execFminVR (o : OpVR FTy) (s : State) : Host.Outcome State Fault Refusal :=
  vectorVR (.fminVR o) o.d o.a o.b (FTy.is64 o.ty) (FTy.is64 o.ty) (Fp.minmax false (Fp.tfFmt o.ty)) s

/-- FMAX_V (R257). -/
def execFmaxV (o : OpV FTy) (s : State) : Host.Outcome State Fault Refusal :=
  vectorV (.fmaxV o) o.d o.a o.b (FTy.is64 o.ty) (FTy.is64 o.ty) (Fp.minmax true (Fp.tfFmt o.ty)) s

/-- FMAX_VR (R257). -/
def execFmaxVR (o : OpVR FTy) (s : State) : Host.Outcome State Fault Refusal :=
  vectorVR (.fmaxVR o) o.d o.a o.b (FTy.is64 o.ty) (FTy.is64 o.ty) (Fp.minmax true (Fp.tfFmt o.ty)) s

/-- FCMP (R258). -/
def execFcmp (o : OpFCmp) (s : State) : Host.Outcome State Fault Refusal :=
  condOp (.fcmp o) o.d (fun x l =>
    Fp.fcmp o.cmp (Fp.tfFmt o.ty) (Ix.vw x l (FTy.is64 o.ty) o.a.val) (Ix.src x l (FTy.is64 o.ty) o.b)) s

/-- FSEL (R259). -/
def execFsel (o : OpFSel) (s : State) : Host.Outcome State Fault Refusal :=
  vectorOp (.fsel o) o.d (FTy.is64 o.ty) (fun x l =>
    Fp.element (Fp.tfFmt o.ty)
      (if Fp.fselHolds o.cmp (Fp.tfFmt o.ty) (Ix.vw x l (FTy.is64 o.ty) o.c.val) then Ix.vw x l (FTy.is64 o.ty) o.a.val
       else Ix.src x l (FTy.is64 o.ty) o.b)) s

/-- FCLASS (R260). -/
def execFclass (o : OpFClass) (s : State) : Host.Outcome State Fault Refusal :=
  condOp (.fclass o) o.d (fun x l =>
    o.mask.getLsbD (Fp.classBit (Fp.tfFmt o.ty) (Ix.vw x l (FTy.is64 o.ty) o.a.val))) s

/-- FRND_V (R261). -/
def execFrndV (o : OpV1 FTy) (s : State) : Host.Outcome State Fault Refusal :=
  roundOp (.frndV o) o.d (FTy.is64 o.ty) .rn (fun x l _ =>
    Fp.toIntegral (Fp.tfFmt o.ty) (Ix.vw x l (FTy.is64 o.ty) o.a.val) .rn) s

/-- FRND_VR (R261). -/
def execFrndVR (o : OpFRnd) (s : State) : Host.Outcome State Fault Refusal :=
  roundOp (.frndVR o) o.d (FTy.is64 o.ty) o.rnd (fun x l _ =>
    Fp.toIntegral (Fp.tfFmt o.ty) (Ix.vw x l (FTy.is64 o.ty) o.a.val) o.rnd) s

/-- Conversion of one element, as the register holds it (R251, R263). -/
def convert (dst src : TyCode) (md : Rnd) (sat : Bool) (x : Nat) (rb : Nat) : Nat × Fp.Flags :=
  let r := Fp.codeRound dst (Fp.codeValue src x) md sat rb
  (Fp.widen dst r.1, r.2)

/-- CVT (R263). -/
def execCvt (o : OpCvt) (s : State) : Host.Outcome State Fault Refusal :=
  roundOp (.cvt o) o.d (TyCode.is64 o.dst) o.rnd (fun x l rb =>
    convert o.dst o.src o.rnd o.sat (Ix.vw x l (TyCode.is64 o.src) o.a.val) rb) s

/-- CVTSR (R263). -/
def execCvtsr (o : OpCvtsr) (s : State) : Host.Outcome State Fault Refusal :=
  roundOp (.cvtsr o) o.d (TyCode.is64 o.dst) .sr (fun x l rb =>
    convert o.dst o.src .sr o.sat (Ix.vw x l (TyCode.is64 o.src) o.a.val) rb) s

/-- The two elements of PACK: A first, then b (R264). -/
def packLane (o : OpPack) (x : Ix) (l : Nat) : Rounded :=
  let u := TyCode.bits o.dst
  let ra := roundWith o.rnd (Band.lane x.b l).gen fun rb =>
    Fp.codeRound o.dst (Fp.codeValue o.src (Ix.v x l o.a.val).toNat) o.rnd o.sat rb
  let rb := roundWith o.rnd ra.g fun r =>
    Fp.codeRound o.dst (Fp.codeValue o.src (Ix.src x l false o.b)) o.rnd o.sat r
  ⟨(Ix.v x l o.d.val).toNat / 2 ^ (2 * u) + (rb.v * 2 ^ u + ra.v) * 2 ^ (32 - 2 * u), ra.f ||| rb.f, rb.g⟩

/-- PACK (R264). -/
def execPack (o : OpPack) (s : State) : Host.Outcome State Fault Refusal :=
  issueWith (.pack o) noCause (fun x s =>
    let rs := x.act.map fun l => (l, packLane o x l)
    { s := noteRounded x.key rs (holdResults x.key (rs.flatMap fun r => heldV r.1 o.d.val false r.2.v) s) }) s

/-- UNPACK (R265). -/
def execUnpack (o : OpUnpack) (s : State) : Host.Outcome State Fault Refusal :=
  roundOp (.unpack o) o.d false .rn (fun x l rb =>
    let u := TyCode.bits o.src
    convert o.dst o.src .rn false ((Ix.v x l o.a.val).toNat / 2 ^ (u * o.idx.val) % 2 ^ u) rb) s

/-- A special function: the flags at issue, the value when it lands (R266, R37). -/
def sfuOp (i : Instr) (op : Fp.Sfu) (d a : VReg) (md : Rnd) (s : State) : Host.Outcome State Fault Refusal :=
  issueWith i noCause (fun x s =>
    let rs := x.act.map fun l => (l, Fp.sfu op (Ix.v x l a.val).toNat md)
    let accs := rs.map fun r => (⟨r.1, 0, 0, .out 0 0, 4, [], [], .performed, r.2.1⟩ : Acc)
    let n := newOp i x (.sfu d.val) none .band .rlx accs false 0 s
    { s := raiseFlags x.key (rs.foldl (fun f r => f ||| r.2.2) 0) (markPending x.key x.act [d.val] n.1 n.2) }) s

/-- RCP_V (R266). -/
def execRcpV (o : OpX) (s : State) : Host.Outcome State Fault Refusal :=
  sfuOp (.rcpV o) .rcp o.d o.a .rn s

/-- RCP_VR (R266). -/
def execRcpVR (o : OpXR) (s : State) : Host.Outcome State Fault Refusal :=
  sfuOp (.rcpVR o) .rcp o.d o.a o.rnd s

/-- RSQ_V (R266). -/
def execRsqV (o : OpX) (s : State) : Host.Outcome State Fault Refusal :=
  sfuOp (.rsqV o) .rsq o.d o.a .rn s

/-- RSQ_VR (R266). -/
def execRsqVR (o : OpXR) (s : State) : Host.Outcome State Fault Refusal :=
  sfuOp (.rsqVR o) .rsq o.d o.a o.rnd s

/-- SQRT_V (R266). -/
def execSqrtV (o : OpX) (s : State) : Host.Outcome State Fault Refusal :=
  sfuOp (.sqrtV o) .sqrt o.d o.a .rn s

/-- SQRT_VR (R266). -/
def execSqrtVR (o : OpXR) (s : State) : Host.Outcome State Fault Refusal :=
  sfuOp (.sqrtVR o) .sqrt o.d o.a o.rnd s

/-- EXP2_V (R219). -/
def execExp2V (o : OpX) (s : State) : Host.Outcome State Fault Refusal :=
  sfuOp (.exp2V o) .exp2 o.d o.a .rn s

/-- EXP2_VR (R219). -/
def execExp2VR (o : OpXR) (s : State) : Host.Outcome State Fault Refusal :=
  sfuOp (.exp2VR o) .exp2 o.d o.a o.rnd s

/-- LOG2_V (R220). -/
def execLog2V (o : OpX) (s : State) : Host.Outcome State Fault Refusal :=
  sfuOp (.log2V o) .log2 o.d o.a .rn s

/-- LOG2_VR (R220). -/
def execLog2VR (o : OpXR) (s : State) : Host.Outcome State Fault Refusal :=
  sfuOp (.log2VR o) .log2 o.d o.a o.rnd s

/-- Seed the generators of the active lanes (R267). -/
def seedLanes (x : Ix) (f : Nat → Word) (s : State) : State :=
  State.modBand s x.key fun b => Band.modLanes b x.act fun l y =>
    { y with gen := if f l = 0 then BitVec.ofNat 32 ((l + 1) * 0x9E3779B9) else f l }

/-- SRNG_V (R267). -/
def execSrngV (o : VReg) (s : State) : Host.Outcome State Fault Refusal :=
  issueWith (.srngV o) noCause (fun x s => { s := seedLanes x (fun l => Ix.v x l o.val) s }) s

/-- SRNG_VR (R267). -/
def execSrngVR (o : OpSrngR) (s : State) : Host.Outcome State Fault Refusal :=
  issueWith (.srngVR o) noCause
    (fun x s => { s := seedLanes x (fun l => Ix.v x l o.a.val ^^^ BitVec.ofNat 32 (Ix.src x l false o.b)) s }) s

end Sys2Proof.Machine
end

