-- ==== Sys2Proof/Machine/CrossLane.lean ====
section
/-!
DEFINITION. The cross-lane instructions and the exact accumulator (spec/11_float_crosslane_exact.md R268 to R276).
-/
namespace Sys2Proof.Machine

open Sys2Proof.Forms Sys2Proof.Arith

/-- Register A of another lane, as it stood when the cycle began (R268). -/
def otherLane (x : Ix) (k : Nat) (wide : Bool) (r : Nat) : Nat := pairOf (Lane.reg (Band.lane x.peers (k % x.b.width))) wide r

/-- XPULL_V (R269). -/
def execXpullV (o : OpV Wd) (s : State) : Host.Outcome State Fault Refusal :=
  vectorOp (.xpullV o) o.d (Wd.is64 o.ty) (fun x l => otherLane x (Ix.v x l o.b.val).toNat (Wd.is64 o.ty) o.a.val) s

/-- XPULL_VR (R269). -/
def execXpullVR (o : OpVR Wd) (s : State) : Host.Outcome State Fault Refusal :=
  vectorOp (.xpullVR o) o.d (Wd.is64 o.ty) (fun x l => otherLane x (Ix.src x l false o.b) (Wd.is64 o.ty) o.a.val) s

/-- The active lanes that push to lane `m` (R270). -/
def pushers (o : OpXPush) (x : Ix) (m : Nat) : List Nat := x.act.filter fun j => Ix.src x j false o.b % x.b.width == m

/-- XPUSH (R270). -/
def execXpush (o : OpXPush) (s : State) : Host.Outcome State Fault Refusal :=
  issueWith (.xpush o) noCause (fun x s =>
    { s := holdResults x.key (x.act.flatMap fun m =>
        let js := pushers o x m
        (match js.getLast? with
          | some j => heldV m o.d.val (Wd.is64 o.ty) (Ix.vw x j (Wd.is64 o.ty) o.a.val)
          | none => []) ++ [.cond m o.k.val (decide (2 ≤ js.length))]) s }) s

/-- XBCAST_VR (R269). -/
def execXbcastVR (o : OpXBcastR) (s : State) : Host.Outcome State Fault Refusal :=
  vectorOp (.xbcastVR o) o.d (Wd.is64 o.ty) (fun x _ => otherLane x (Ix.s x o.s.val).toNat (Wd.is64 o.ty) o.a.val) s

/-- XBCAST_VI (R269). -/
def execXbcastVI (o : OpXBcastI) (s : State) : Host.Outcome State Fault Refusal :=
  vectorOp (.xbcastVI o) o.d (Wd.is64 o.ty) (fun x _ => otherLane x o.lane.val (Wd.is64 o.ty) o.a.val) s

/-- XBALLOT (R271). -/
def execXballot (o : OpXBallot) (s : State) : Host.Outcome State Fault Refusal :=
  issueWith (.xballot o) noCause (fun x s =>
    { s := holdResults x.key
        (heldS (maskOf x.act) o.s.val true (maskOf (x.act.filter fun l => Ix.pred x l o.p)).toNat) s }) s

/-- XANY (R271). -/
def execXany (o : OpXVote) (s : State) : Host.Outcome State Fault Refusal :=
  condOp (.xany o) o.d (fun x _ => x.act.any fun l => Ix.pred x l o.p) s

/-- XALL (R271). -/
def execXall (o : OpXVote) (s : State) : Host.Outcome State Fault Refusal :=
  condOp (.xall o) o.d (fun x _ => x.act.all fun l => Ix.pred x l o.p) s

/-- One step of a prefix (R272). -/
def prefixStep (op : PfxOp) (ty : ITy) (acc a : Int) : Int :=
  let w := width (ITy.is64 ty)
  match op with
  | .add => val (ITy.signed ty) w (wrap w (acc + a))
  | .min => if a < acc then a else acc
  | .max => if acc < a then a else acc

def prefixIdentity (op : PfxOp) (ty : ITy) : Int :=
  match op with
  | .add => 0
  | .min => greatest (ITy.signed ty) (width (ITy.is64 ty))
  | .max => least (ITy.signed ty) (width (ITy.is64 ty))

/-- The prefix over the active lanes, ascending: each lane with its value (R272). -/
def prefixFrom (op : PfxOp) (ty : ITy) (ex : Bool) (a : Nat → Int) (acc : Int) : List Nat → List (Nat × Int)
  | [] => []
  | l :: ls =>
    let n := prefixStep op ty acc (a l)
    (l, if ex then acc else n) :: prefixFrom op ty ex a n ls

/-- XPFX (R272). -/
def execXpfx (o : OpXPfx) (s : State) : Host.Outcome State Fault Refusal :=
  let w := width (ITy.is64 o.ty)
  issueWith (.xpfx o) noCause (fun x s =>
    { s := holdResults x.key
        ((prefixFrom o.op o.ty o.ex (fun l => val (ITy.signed o.ty) w (Ix.vw x l (ITy.is64 o.ty) o.a.val))
          (prefixIdentity o.op o.ty) x.act).flatMap fun r => heldV r.1 o.d.val (ITy.is64 o.ty) (wrap w r.2)) s }) s

/-- KCLR (R273). -/
def execKclr (s : State) : Host.Outcome State Fault Refusal :=
  issueWith .kclr noCause (fun x s => { s := State.modBand s x.key fun b => { b with ka := Ka.zero } }) s

/-- kadd once in each active lane (R273). -/
def kaddLanes (x : Ix) (f : Fp.Fmt) (a : VReg) (s : State) : State :=
  State.modBand s x.key fun b => { b with ka := x.act.foldl (fun k l => Fp.kadd f (Ix.v x l a.val).toNat k) b.ka }

/-- KADD_V (R273). -/
def execKaddV (o : OpKAdd) (s : State) : Host.Outcome State Fault Refusal :=
  issueWith (.kaddV o) noCause (fun x s => { s := kaddLanes x (Fp.tgFmt o.ty) o.a s }) s

/-- KADD_VR (R273). -/
def execKaddVR (o : OpKAddR) (s : State) : Host.Outcome State Fault Refusal :=
  issueWith (.kaddVR o) noCause (fun x s => { s := kaddLanes x (Fp.tgFmt o.ty) o.a s }) s

/-- KRND (R274). -/
def execKrnd (o : OpKRnd) (s : State) : Host.Outcome State Fault Refusal :=
  issueWith (.krnd o) noCause (fun x s =>
    let r := Fp.kround (Fp.tgFmt o.ty) o.rnd x.b.ka
    { s := raiseFlags x.key r.2 (holdResults x.key (x.act.flatMap fun l => heldV l o.d.val false r.1) s) }) s

/-- The scan of R275: the accumulator, and each lane with its rounded value and flags. -/
def kscanFrom (f : Fp.Fmt) (md : Rnd) (ex : Bool) (a : Nat → Nat) (k : Ka) : List Nat → Ka × List (Nat × Nat × Fp.Flags)
  | [] => (k, [])
  | l :: ls =>
    let k1 := Fp.kadd f (a l) k
    let r := Fp.kround f md (if ex then k else k1)
    let t := kscanFrom f md ex a k1 ls
    (t.1, (l, r) :: t.2)

/-- KSCAN (R275). -/
def execKscan (o : OpKScan) (s : State) : Host.Outcome State Fault Refusal :=
  issueWith (.kscan o) noCause (fun x s =>
    let r := kscanFrom (Fp.tgFmt o.ty) o.rnd o.ex (fun l => (Ix.v x l o.a.val).toNat) x.b.ka x.act
    let s1 := State.modBand s x.key fun b => { b with ka := r.1 }
    { s := raiseFlags x.key (r.2.foldl (fun f e => f ||| e.2.2) 0)
        (holdResults x.key (r.2.flatMap fun e => heldV e.1 o.d.val false e.2.1) s1) }) s

/-- KSAVE (R276). -/
def execKsave (o : OpKImage) (s : State) : Host.Outcome State Fault Refusal :=
  issueWith (.ksave o) noCause (fun x s =>
    { s := holdResults x.key
        ((List.range 16).map fun i => .sca (maskOf x.act) (o.s.val + i) (Fp.kimage x.b.ka i)) s }) s

/-- KLOAD (R276). -/
def execKload (o : OpKImage) (s : State) : Host.Outcome State Fault Refusal :=
  issueWith (.kload o) noCause (fun x s =>
    { s := State.modBand s x.key fun b => { b with ka := Fp.kunimage fun i => Ix.s x (o.s.val + i) } }) s

end Sys2Proof.Machine
end

