-- ==== Sys2Proof/Machine/Access.lean ====
section
/-!
DEFINITION. Thread accesses at issue: addresses, causes, places (spec/08_loads_stores_atomics.md R172 to R192;
spec/07_copy_engines.md R164; spec/06_distributed_sram.md R133, R139), and the operations they start.
-/
namespace Sys2Proof.Machine

open Sys2Proof.Forms

/-- What an access does with its bytes: the permission bits of R91 and the locks of R164 depend on it. -/
inductive AccessKind where | load | store | atomic
  deriving DecidableEq, Repr

def AccessKind.need : AccessKind → Nat
  | .load => permRd
  | .store => permWr
  | .atomic => permRd + permWr + permAt

def AccessKind.writes : AccessKind → Bool
  | .load => false
  | _ => true

/-- The signed offset of OFF8 in bytes (R175). -/
def offsetBytes (off : BitVec 8) (z : Nat) : Int := off.toInt * z

/-- a(l) of the generic form (R175). -/
def genericAddr (x : Ix) (l : Nat) (sr : SReg) (a : VReg) (off : Int) : Nat :=
  ((((Ix.sw x true sr.val + Ix.vw x l true a.val : Nat) : Int) + off) % ((2 ^ 64 : Nat) : Int)).toNat

/-- a(l) of LDS and STS: the local window form x(l) with its tag (R175). -/
def localAddr (x : Ix) (l : Nat) (sr : SReg) (a : VReg) (off : Int) : Nat :=
  windowTag .loc
    + ((((Ix.s x sr.val).toNat + (Ix.v x l a.val).toNat : Nat) + off : Int) % ((2 ^ 32 : Nat) : Int)).toNat

/-- The virtual address in the memory window that a generic address denotes for a lane (R80, R82). -/
def memoryVa (x : Ix) (l a : Nat) : Option Nat :=
  match windowOf (BitVec.ofNat 64 a) with
  | some (.mem, v) => some v
  | some (.prv, f) => if f < x.gr.desc.psize then some (privateVa x.t x.b l x.gr f) else none
  | _ => none

/-- Where an access goes, once no cause is taken: an SRAM form outside its window's extent reaches no byte; the owner of a
byte is tested at its slice (R133, R143). -/
def accessPlace (x : Ix) (s : State) (l a need : Nat) : Place :=
  match memoryVa x l a with
  | some v =>
    match rangeCheck (State.ctx s (Ix.ctx x)) v need with
    | some c => .mem c
    | none => .out 4 v
  | none =>
    match windowOf (BitVec.ofNat 64 a) with
    | some (w, f) =>
      match sramForm (Ix.core x) x.t x.gr w f with
      | some g => .sram g
      | none => .out (windowCode w) f
    | none => .out 5 a

/-- The chip address of an access (R81, R94). -/
def chipOf : Place → Option Nat
  | .mem c => some c
  | .sram g => some (2 ^ 47 + g)
  | _ => none

/-- The lowest byte of `[c, c + n)` that a lock forbids (R164): a load meets write locks, a write any lock. -/
def lockedByte (s : State) (core : Nat) (writes : Bool) (c n : Nat) : Option Nat :=
  ((List.range n).map (fun i => c + i)).find? fun b =>
    (State.core s core).locks.any fun k => (writes || k.write) && decide (k.lo ≤ b) && decide (b ≤ k.hi)

/-- RANGE_PROT of an access at generic address `a` (R80, R82, R92). -/
def rangeFault (x : Ix) (s : State) (l a z need : Nat) : Option Nat :=
  match windowOf (BitVec.ofNat 64 a) with
  | none => some a
  | some (.mem, v) => firstFailing (State.ctx s (Ix.ctx x)) v need z
  | some (.prv, _) =>
    match memoryVa x l a with
    | none => some a
    | some v => (firstFailing (State.ctx s (Ix.ctx x)) v need z).map fun b => a + (b - v)
  | _ => none

/-- The first cause of an access at issue (R176, R77). -/
def accessCause (k : AccessKind) (locks : Bool) (addr : Ix → Nat → Nat) (z : Nat) : Own := fun x s l =>
  let a := addr x l
  if a % z ≠ 0 then some (causeMisaligned, BitVec.ofNat 64 a)
  else
    match rangeFault x s l a z (AccessKind.need k) with
    | some b => some (causeRangeProt, BitVec.ofNat 64 b)
    | none =>
      if locks then
        match chipOf (accessPlace x s l a (AccessKind.need k)) with
        | none => none
        | some c => (lockedByte s (Ix.core x) (AccessKind.writes k) c z).map fun b =>
            (causeRangeConflict, BitVec.ofNat 64 (a + (b - c)))
      else none

/-- The lanes whose access lies out of range, lowest first (R139). -/
def outLanes (as : List Acc) : List Acc := as.filter fun a =>
  match a.place with
  | .out _ _ => true
  | _ => false

/-- Latch the lowest lane's out-of-range access (R139); `op` numbers its instruction. -/
def latchOut (x : Ix) (op : Nat) (write : Bool) (as : List Acc) (s : State) : State :=
  match outLanes as with
  | [] => s
  | a :: _ =>
    match a.place with
    | .out w f => latchSpflag s (Ix.ctx x) (Ix.core x) op a.lane write w f
    | _ => s

/-- The stage an access starts in: out-of-range bytes have nothing to wait for (R139). -/
def firstStage : Place → AccStage
  | .out _ _ => .performed
  | _ => .waiting

/-- Only the highest of the lanes that name the same bytes stores them (R180). A lower lane's access is translated and
tested like any other, and stores nothing (R185, R139); to a peer it sends no request. -/
def suppressLower : List Acc → List Acc
  | [] => []
  | a :: t =>
    (if t.any fun b => b.place == a.place then
      match a.place with
      | .fabric _ => { a with stage := .dropped }
      | .out _ _ => a
      | _ => { a with data := [] }
    else a) :: suppressLower t

/-- The accesses of the active lanes. -/
def accesses (x : Ix) (s : State) (need z : Nat) (addr : Ix → Nat → Nat) (data cmp : Ix → Nat → List Byte) : List Acc :=
  x.act.map fun l =>
    let a := addr x l
    let p := accessPlace x s l a need
    { lane := l, addr := BitVec.ofNat 64 a, va := (memoryVa x l a).getD 0, place := p, size := z
      data := data x l, cmp := cmp x l, stage := firstStage p, value := 0 }

/-- A replay does not add to its counter again (R185). -/
def countIssue (x : Ix) (dc : Dc) (s : State) : State := if Ix.again x then s else countUp x.key dc s

/-- Start an access of a window: its operation, its pending destinations, its count. -/
def startAccess (i : Instr) (x : Ix) (k : OpKind) (write : Bool) (dc : Dc) (scope : Scope) (order : Order) (as : List Acc)
    (regs : List Nat) (s : State) : Res :=
  let n := newOp i x k dc scope order as false 0 (latchOut x s.nextKey write as s)
  { s := markPending x.key x.act regs n.1 (countIssue x dc n.2) }

/-- The registers of a destination. -/
def destRegs (d : VReg) (n : Nat) : List Nat := (List.range n).map fun j => d.val + j

/-- Bytes of a register group, little-endian (R180). -/
def regBytes (x : Ix) (l : Nat) (d : VReg) (z : Nat) : List Byte := natLe z (wordsOf (Ix.v x l) d.val ((z + 3) / 4))

def noBytes : Ix → Nat → List Byte := fun _ _ => []

def NTy.size : NTy → Nat
  | .n8 | .i8 => 1
  | .n16 | .i16 => 2
def NTy.signed : NTy → Bool
  | .i8 | .i16 => true
  | _ => false
def STy.size : STy → Nat
  | .b8 => 1
  | .b16 => 2
  | .b32 => 4
  | .b64 => 8
def WTy.size (t : WTy) : Nat := 4 * WTy.regs t
def AW.size (t : AW) : Nat := 4 * AW.regs t

/-- A load (R178). -/
def loadOp {τ : Type} (i : Instr) (o : OpMem τ) (z n : Nat) (sgn : Bool) (addr : Ix → Nat → Nat) (s : State) :
    Host.Outcome State Fault Refusal :=
  issueWith i (accessCause .load true addr z) (fun x s =>
    startAccess i x (.load o.d.val n sgn) false o.dc o.scope o.order (accesses x s permRd z addr noBytes noBytes)
      (destRegs o.d n) s) s

/-- A store (R180). -/
def storeOp {τ : Type} (i : Instr) (o : OpMem τ) (z : Nat) (addr : Ix → Nat → Nat) (s : State) :
    Host.Outcome State Fault Refusal :=
  issueWith i (accessCause .store true addr z) (fun x s =>
    startAccess i x .store true o.dc o.scope o.order
      (suppressLower (accesses x s permWr z addr (fun x l => regBytes x l o.d z) noBytes)) [] s) s

/-- The operand of an atomic, after the compare value for .cas (R181). -/
def atomOperand (o : OpAtom) (x : Ix) (l : Nat) : List Byte :=
  natLe (AW.size o.aw) (wordsOf (Ix.v x l) (if o.op = .cas then o.b.val + AW.regs o.aw else o.b.val) (AW.regs o.aw))

def atomCompare (o : OpAtom) (x : Ix) (l : Nat) : List Byte :=
  if o.op = .cas then natLe (AW.size o.aw) (wordsOf (Ix.v x l) o.b.val (AW.regs o.aw)) else []

def atomAddr (o : OpAtom) (x : Ix) (l : Nat) : Nat := genericAddr x l o.s o.a 0

/-- ATOM and RED (R182, R183). -/
def atomicOp (i : Instr) (o : OpAtom) (ret : Bool) (s : State) : Host.Outcome State Fault Refusal :=
  issueWith i (accessCause .atomic true (atomAddr o) (AW.size o.aw)) (fun x s =>
    startAccess i x (.atomic o.op o.sgn (if ret then some o.d.val else none)) true o.dc o.scope o.order
      (accesses x s (AccessKind.need .atomic) (AW.size o.aw) (atomAddr o) (atomOperand o) (atomCompare o))
      (if ret then destRegs o.d (AW.regs o.aw) else []) s) s

/-! ## When an access may be performed (log 10) -/

/-- An access as an event of its lane. -/
def Acc.event (o : Op) (a : Acc) : Event :=
  ⟨o.band, a.lane, o.seq, o.order, o.scope, OpKind.isWrite o.kind, a.place, a.size⟩

/-- Lanes of one atomic that name the same bytes are performed in ascending order (R183). -/
def lowerFirst (o : Op) (a : Acc) : Bool :=
  match o.kind with
  | .atomic .. => o.accs.any fun b => decide (b.lane < a.lane) && b.place == a.place && match b.stage with
    | .waiting | .sent _ => true
    | .translated => !Place.isFabric b.place
    | _ => false
  | _ => false

/-- The access may be performed now: nothing earlier of its lane stands before it. -/
def mayPerform (s : State) (o : Op) (a : Acc) : Bool := !eventWaits s (Acc.event o a) && !lowerFirst o a

def Op.acc (o : Op) (l : Nat) : Option Acc := o.accs.find? fun a => a.lane == l
def Op.setAcc (o : Op) (l : Nat) (f : Acc → Acc) : Op :=
  { o with accs := o.accs.map fun a => if a.lane == l then f a else a }

/-- The band, team and grid of a band's key. -/
def State.home (s : State) (key : Nat) : Option (Band × Team × Grid) :=
  match Table.find key s.bands with
  | none => none
  | some b =>
    match Table.find b.team s.teams with
    | none => none
    | some t =>
      match Table.find t.grid s.grids with
      | none => none
      | some g => some (b, t, g)

/-! ## The fabric at issue (R191 to R194) -/

def routeOf (f : Nat) : Nat := f / 2 ^ 48 % 16
def Ctx.route (c : Ctx) (k : Nat) : Nat := (Table.get 0 k c.routes).toNat

/-- RANGE_PROT of a fabric address (R192). -/
def fabricBad (c : Ctx) (f : Nat) : Bool :=
  f / 2 ^ 52 != 0 || !(Ctx.route c (routeOf f)).testBit 32 || f / 2 ^ 16 % 2 ^ 32 == 0xFFFFFFFF
    || f / 2 ^ 16 % 2 ^ 32 == 0xFFFFFFFE

def fabricCause (addr : Ix → Nat → Nat) (z : Nat) : Own := fun x s l =>
  let f := addr x l
  if f % z ≠ 0 then some (causeMisaligned, BitVec.ofNat 64 f)
  else if fabricBad (State.ctx s (Ix.ctx x)) f then some (causeRangeProt, BitVec.ofNat 64 f) else none

/-- Fabric accesses of the active lanes. -/
def fabricAccs (x : Ix) (z : Nat) (addr : Ix → Nat → Nat) (data cmp : Ix → Nat → List Byte) : List Acc :=
  x.act.map fun l =>
    { lane := l, addr := BitVec.ofNat 64 (addr x l), va := 0, place := .fabric (addr x l), size := z
      data := data x l, cmp := cmp x l, stage := .waiting, value := 0 }

/-- An earlier request of the core on the route to the line has not left: of an operation issued before, or of a lower lane
of this one (R193). -/
def behindRequest (s : State) (k : Nat) (o : Op) (a : Acc) : Bool :=
  s.ops.any fun e => e.2.band / 64 == o.band / 64 && Op.remote e.2
    && e.2.accs.any fun b => b.stage == .waiting && (decide (e.2.seq < o.seq) || (e.1 == k && decide (b.lane < a.lane)))
      && b.addr.toNat / 128 == a.addr.toNat / 128

/-- A lane's request leaves by its station, once it may be performed (R193, R330). -/
def sendRequest (k : Nat) (o : Op) (a : Acc) (s : State) : State :=
  let f := a.addr.toNat
  match a.place, State.home s o.band with
  | .fabric _, some (_, _, g) =>
    if a.stage == .waiting && mayPerform s o a && !behindRequest s k o a then
      let r := Ctx.route (State.ctx s g.ctx) (routeOf f)
      State.send (State.modOp s k fun p => Op.setAcc p a.lane fun b => { b with stage := .translated })
        (.fabric ((f / 128 % 2 ^ 41 + r % 1024) % 24) k a.lane f (r % 1024) (r / 2 ^ 16 % 256) (OpKind.isWrite o.kind)
          (a.data ++ a.cmp))
    else s
  | _, _ => s

/-- The requests of an operation leave in ascending lane order, those that may (R193). -/
def sendRequests (k : Nat) (s : State) : State :=
  match Table.find k s.ops with
  | none => s
  | some o => o.accs.foldl (fun s a => match Table.find k s.ops with
      | some o => sendRequest k o a s
      | none => s) s

/-- LDR, STR and ATOMR (R194): of the lanes of one STR that name the same bytes, only the highest sends (R180). -/
def fabricOp (i : Instr) (z : Nat) (addr : Ix → Nat → Nat) (k : OpKind) (dc : Dc) (order : Order)
    (data cmp : Ix → Nat → List Byte) (regs : List Nat) (s : State) : Host.Outcome State Fault Refusal :=
  issueWith i (fabricCause addr z) (fun x s =>
    let as := fabricAccs x z addr data cmp
    let n := newOp i x k dc .fab order (if k = .store then suppressLower as else as) false 0 s
    { s := sendRequests n.1 (markPending x.key x.act regs n.1 (countIssue x dc n.2)) }) s

/-! ## GCVT and GTEST (R84 to R87) -/

def ones : Nat := 2 ^ 64 - 1

/-- The byte's local form, where it is an own byte of the team (R85). -/
def ownLocalForm (core : Nat) (t : Team) (g : Grid) (b : Nat) : Option Nat :=
  let sz := g.hdr.scratch
  if t.pair then
    let e := core / 2 * 2 * 2 ^ 26 + t.lb
    let o := (core / 2 * 2 + 1) * 2 ^ 26 + t.lbo
    if e ≤ b ∧ b < e + sz then some (b - e) else if o ≤ b ∧ b < o + sz then some (sz + (b - o)) else none
  else
    let e := core * 2 ^ 26 + t.lb
    if e ≤ b ∧ b < e + sz then some (b - e) else none

/-- to_window of R85. -/
def toWindow (x : Ix) (l : Nat) (w : Window) (a : Nat) : Nat :=
  match windowOf (BitVec.ofNat 64 a) with
  | none => ones
  | some (v, f) =>
    if v = w then f
    else
      let form := sramForm (Ix.core x) x.t x.gr v f
      match w, v with
      | .glb, .loc | .glb, .par => form.getD ones
      | .par, .loc | .par, .glb =>
        match form with
        | some b => if b / 2 ^ 27 = Ix.core x / 2 then b % 2 ^ 27 else ones
        | none => ones
      | .loc, .par | .loc, .glb =>
        match form with
        | some b => (ownLocalForm (Ix.core x) x.t x.gr b).getD ones
        | none => ones
      | .mem, .prv => if f < x.gr.desc.psize then privateVa x.t x.b l x.gr f else ones
      | _, _ => ones

/-- The value of GCVT in a lane (R84). -/
def gcvtValue (o : OpGcvt) (x : Ix) (l : Nat) : Nat :=
  let a := genericAddr x l o.s o.a 0
  if o.toWin then toWindow x l o.win a
  else if a < (if o.win = .mem then 2 ^ 60 else 2 ^ 56) then windowTag o.win + a else ones

/-- A lane of this GCVT pins its team (R86). -/
def gcvtPins (o : OpGcvt) (x : Ix) (l : Nat) : Bool :=
  o.toWin && (o.win == .glb || o.win == .par)
    && (match windowOf (BitVec.ofNat 64 (genericAddr x l o.s o.a 0)) with
      | some (.loc, _) => true
      | _ => false)
    && gcvtValue o x l != ones

/-! ## The meanings -/

/-- LD_NARROW (R178). -/
def execLdNarrow (o : OpMem NTy) (s : State) : Host.Outcome State Fault Refusal :=
  loadOp (.ldNarrow o) o (NTy.size o.ty) 1 (NTy.signed o.ty)
    (fun x l => genericAddr x l o.s o.a (offsetBytes o.off (NTy.size o.ty))) s

/-- LD_WIDE (R178). -/
def execLdWide (o : OpMem WTy) (s : State) : Host.Outcome State Fault Refusal :=
  loadOp (.ldWide o) o (WTy.size o.ty) (WTy.regs o.ty) false
    (fun x l => genericAddr x l o.s o.a (offsetBytes o.off (WTy.size o.ty))) s

/-- ST_NARROW (R180). -/
def execStNarrow (o : OpMem STy) (s : State) : Host.Outcome State Fault Refusal :=
  storeOp (.stNarrow o) o (STy.size o.ty)
    (fun x l => genericAddr x l o.s o.a (offsetBytes o.off (STy.size o.ty))) s

/-- ST_B128 (R180). -/
def execStB128 (o : OpMem Unit) (s : State) : Host.Outcome State Fault Refusal :=
  storeOp (.stB128 o) o 16 (fun x l => genericAddr x l o.s o.a (offsetBytes o.off 16)) s

/-- LDS_NARROW (R178). -/
def execLdsNarrow (o : OpMem NTy) (s : State) : Host.Outcome State Fault Refusal :=
  loadOp (.ldsNarrow o) o (NTy.size o.ty) 1 (NTy.signed o.ty)
    (fun x l => localAddr x l o.s o.a (offsetBytes o.off (NTy.size o.ty))) s

/-- LDS_WIDE (R178). -/
def execLdsWide (o : OpMem WTy) (s : State) : Host.Outcome State Fault Refusal :=
  loadOp (.ldsWide o) o (WTy.size o.ty) (WTy.regs o.ty) false
    (fun x l => localAddr x l o.s o.a (offsetBytes o.off (WTy.size o.ty))) s

/-- STS_NARROW (R180). -/
def execStsNarrow (o : OpMem STy) (s : State) : Host.Outcome State Fault Refusal :=
  storeOp (.stsNarrow o) o (STy.size o.ty)
    (fun x l => localAddr x l o.s o.a (offsetBytes o.off (STy.size o.ty))) s

/-- STS_B128 (R180). -/
def execStsB128 (o : OpMem Unit) (s : State) : Host.Outcome State Fault Refusal :=
  storeOp (.stsB128 o) o 16 (fun x l => localAddr x l o.s o.a (offsetBytes o.off 16)) s

/-- ATOM (R182). -/
def execAtom (o : OpAtom) (s : State) : Host.Outcome State Fault Refusal := atomicOp (.atom o) o true s

/-- RED (R182). -/
def execRed (o : OpAtom) (s : State) : Host.Outcome State Fault Refusal := atomicOp (.red o) o false s

/-- ATOMR (R194). -/
def execAtomr (o : OpAtom) (s : State) : Host.Outcome State Fault Refusal :=
  fabricOp (.atomr o) (AW.size o.aw) (atomAddr o) (.atomic o.op o.sgn (some o.d.val)) o.dc o.order (atomOperand o)
    (atomCompare o) (destRegs o.d (AW.regs o.aw)) s

/-- LDR (R194). -/
def execLdr (o : OpMem WTy) (s : State) : Host.Outcome State Fault Refusal :=
  fabricOp (.ldr o) (WTy.size o.ty) (fun x l => genericAddr x l o.s o.a (offsetBytes o.off (WTy.size o.ty)))
    (.load o.d.val (WTy.regs o.ty) false) o.dc o.order noBytes noBytes (destRegs o.d (WTy.regs o.ty)) s

/-- STR (R194). -/
def execStr (o : OpMem WTy) (s : State) : Host.Outcome State Fault Refusal :=
  fabricOp (.str o) (WTy.size o.ty) (fun x l => genericAddr x l o.s o.a (offsetBytes o.off (WTy.size o.ty)))
    .store o.dc o.order (fun x l => regBytes x l o.d (WTy.size o.ty)) noBytes [] s

/-- GCVT (R84). -/
def execGcvt (o : OpGcvt) (s : State) : Host.Outcome State Fault Refusal :=
  issueWith (.gcvt o) noCause (fun x s =>
    let s1 := if x.act.any (gcvtPins o x) then State.modTeam s x.b.team fun t => { t with pinned := true } else s
    { s := holdResults x.key (x.act.flatMap fun l => heldV l o.d.val true (gcvtValue o x l)) s1 }) s

/-- GTEST (R87). -/
def execGtest (o : OpGcvt) (s : State) : Host.Outcome State Fault Refusal :=
  issueWith (.gtest o) noCause (fun x s =>
    { s := holdResults x.key (x.act.flatMap fun l =>
        heldV l o.d.val false (flagNat (gcvtValue o x l != ones))) s }) s

end Sys2Proof.Machine
end

