-- ==== Sys2Proof/Machine/OpLog.lean ====
section
/-!
DEFINITION. Operand-log entries as bytes of the firmware-reserved part of a slice (spec/18_traps_fragments_preemption.md
R440, R441, R444; spec/01_the_part.md R14).
-/
namespace Sys2Proof.Machine

def zeros (n : Nat) : List Byte := List.replicate n 0

/-- Pad a section to `n` bytes. -/
def padTo (n : Nat) (bs : List Byte) : List Byte := (bs ++ zeros n).take n

/-- The registers a log's instruction reads, in field order. -/
def logUses (l : Log) : Uses :=
  match decode l.w0 l.w1 with
  | .ok i => uses i
  | _ => {}

/-- The words of a lane's vector sources: an error-marked source is its request's fabric address (R440). -/
def laneRecordWords (l : Log) (u : Uses) (lane : Nat) : List Byte :=
  (regsOf u.v).flatMap fun r =>
    match Table.find r (Table.get [] lane l.err) with
    | some a => natLe 4 a.toNat
    | none => natLe 4 (Table.get 0 r (Table.get [] lane l.vrec)).toNat

/-- A log entry: the first, or with `more` its continuation (R440). -/
def logImage (id link : Nat) (more : Bool) (l : Log) (linked : Bool) : List Byte :=
  let u := logUses l
  let lane (n : Nat) : List Byte := if l.lanes.getLsbD n then laneRecordWords l u n else []
  let emask := maskOf (l.err.map Prod.fst)
  natLe 2 id ++ natLe 1 ((if linked then 1 else 0) + (if more then 2 else 0) + (if l.vok then 4 else 0)) ++ natLe 1 link
    ++ natLe 4 l.w0 ++ natLe 4 l.w1 ++ natLe 4 l.shape ++ natLe 8 l.lanes.toNat ++ natLe 8 emask.toNat
    ++ natLe 8 l.cmask.toNat ++ padTo 32 ((regsOf u.s).flatMap fun r => natLe 4 (Table.get 0 r l.sv).toNat) ++ zeros 184
    ++ (if more then padTo 1536 ((List.range 64).flatMap fun n => padTo 16 ((lane n).drop 24))
        else (List.range 64).flatMap fun n => padTo 24 (lane n)) ++ zeros 256

/-- The log entry or entries of a fragment, as the device writes them (R141, R440, R441). -/
def storeLog (core n : Nat) (f : Frag) (s : State) : State :=
  let id := core * 128 + n
  match f.cont with
  | none => writeSram s (logPlace core f.logNo) (logImage id 0 false f.log false)
  | some c => writeSram (writeSram s (logPlace core f.logNo) (logImage id c false f.log true)) (logPlace core c)
      (logImage id 0 true f.log false)

/-- Put a fragment into the table of its core, with its log. -/
def enterFrag (core n : Nat) (f : Frag) (s : State) : State :=
  storeLog core n f (State.modCore s core fun c => { c with frags := Table.set n f c.frags })

end Sys2Proof.Machine
end

