-- ==== Sys2Proof/Machine/Lsu.lean ====
section
/-!
DEFINITION. How accesses are performed and end: the L1 and the L2, landing, acknowledgement, faults at memory-side
translation and the fragments they form, fault records; prefetch and cache maintenance
(spec/08_loads_stores_atomics.md R177 to R198; spec/14_ordering_and_visibility.md R337, R338;
spec/04_addresses_and_translation.md R99 to R108; spec/18_traps_fragments_preemption.md R441 to R446).
-/
namespace Sys2Proof.Machine

/-! ## The end of an access -/

/-- An operation all of whose accesses are over, without fault: its counter falls and it is gone (R38). -/
def settle (k : Nat) (s : State) : State :=
  match Table.find k s.ops with
  | none => s
  | some o =>
    if o.accs.all Acc.over && !o.accs.any Acc.failed then
      countDown o.band o.dc { s with ops := Table.del k s.ops }
    else s

/-- Whether an acquire at this scope reaches beyond the core (R338). -/
def beyondCore (s : State) (key : Nat) (sc : Scope) : Bool :=
  match sc with
  | .band => false
  | .team =>
    match State.home s key with
    | some (_, t, _) => t.pair
    | none => false
  | _ => true

/-- An acquire that reaches beyond the core invalidates its L1 (R338). -/
def acquireEffect (key : Nat) (o : Order) (sc : Scope) (s : State) : State :=
  if Order.acquires o && beyondCore s key sc then State.modCore s (key / 64) fun c => { c with l1 := [] } else s

/-- The words a value lands as: narrow loads are extended (R178). -/
def landedWords (sgn : Bool) (size v : Nat) : List Word :=
  if size < 4 then [BitVec.ofNat 32 (if sgn then Arith.wrap 32 (Arith.val true (8 * size) v) else v)]
  else splitWords v (size / 4)

/-- The vector sources of a lane, as a log keeps them (R440, R445). -/
def laneSources (u : Uses) (y : Lane) : Table Word := (regsOf u.v).foldl (fun t r => Table.set r (Lane.reg y r) t) []
def laneMarks (u : Uses) (y : Lane) : Table Dword :=
  (regsOf u.v).foldl (fun t r => match Table.find r y.err with
    | some a => Table.set r a t
    | none => t) []

/-- A LANDING fragment whose lanes have no source pending copies their sources and turns READY (R445). -/
def turnReady (b : Band) (f : Frag) : Frag :=
  match decode f.log.w0 f.log.w1 with
  | .ok i =>
    let u := uses i
    let ls := lanesOf f.lanes
    if f.state == .landing && !(ls.any fun l => Lane.awaits (Band.lane b l) (regsOf u.v)) then
      { f with
        state := .ready
        log := { f.log with
          vok := true
          vrec := ls.foldl (fun t l => Table.set l (laneSources u (Band.lane b l)) t) []
          err := ls.foldl (fun t l =>
            let m := laneMarks u (Band.lane b l)
            if m.isEmpty then t else Table.set l m t) [] } }
    else f
  | .error _ => f

/-- Evaluate a band's LANDING fragments: one that turns READY writes its log again. -/
def landingReady (key : Nat) (s : State) : State :=
  match Table.find key s.bands with
  | none => s
  | some b =>
    ((State.core s (key / 64)).frags.filter fun e => e.2.band == key && e.2.state == .landing).foldl (fun s e =>
      let f := turnReady b e.2
      if f = e.2 then s else enterFrag (key / 64) e.1 f s) s

/-- A lane's value lands: D is written unless the lane has exited (R359), its acquire takes effect. -/
def landAcc (k : Nat) (o : Op) (a : Acc) (s : State) : State :=
  let s1 := State.modOp s k fun p => Op.setAcc p a.lane fun b => { b with stage := .done }
  let gone : Bool := match Table.find o.band s.bands with
    | some b => (Band.lane b a.lane).run == .exited
    | none => true
  let s2 := if gone then s1
    else
      match o.kind with
      | .load r _ sgn => landWords o.band a.lane r (landedWords sgn a.size a.value) k s1
      | .atomic _ _ (some r) => landWords o.band a.lane r (landedWords false a.size a.value) k s1
      | .sfu r => landWords o.band a.lane r [BitVec.ofNat 32 a.value] k s1
      | .take r => landWords o.band a.lane r (splitWords a.value 8) k s1
      | .jtab => State.modBand s1 o.band fun b => Band.modLane b a.lane fun y =>
          Lane.goto y ⟨branchTarget o.pc.clause (BitVec.ofNat 32 a.value).toInt, 0⟩
      | _ => s1
  landingReady o.band (settle k (acquireEffect o.band o.order o.scope s2))

/-- The lane makes no access: its pending marks of this operation go, and it takes a trap at the instruction (R119). -/
def trapAcc (k : Nat) (o : Op) (a : Acc) (cause : Nat) (addr : Nat) (s : State) : State :=
  let s1 := State.modOp s k fun p => Op.setAcc p a.lane fun b => { b with stage := .dropped }
  settle k (deliver o.band o.pc (dropPending o.band a.lane k s1) ⟨a.lane, cause, BitVec.ofNat 64 addr⟩)

/-- The access has been performed, with the value it read. -/
def performed (k lane v : Nat) (s : State) : State :=
  State.modOp s k fun p => Op.setAcc p lane fun b => { b with stage := .performed, value := v }

/-- The access has ended. -/
def endAcc (k lane : Nat) (s : State) : State :=
  settle k (State.modOp s k fun p => Op.setAcc p lane fun b => { b with stage := .done })

/-! ## Memory accesses at the L1 and the L2 (R122, R123, R179) -/

/-- The core has a store to the line that is not acknowledged (R338). -/
def storePending (s : State) (core line : Nat) : Bool :=
  s.ops.any fun e => e.2.band / 64 == core && OpKind.isWrite e.2.kind && e.2.accs.any fun a =>
    !Acc.over a && match a.place with
      | .mem c => c / 128 == line
      | _ => false

def Scope.near : Scope → Bool
  | .band | .team => true
  | _ => false

/-- The load may be served by the L1 (R179), and is no acquire that reaches beyond the core (R338). -/
def nearRead (s : State) (o : Op) : Bool := Scope.near o.scope && !(Order.acquires o.order && beyondCore s o.band o.scope)

/-- The line as a load finds it: in the L1 for a near read, else in the die's L2, with its marks (R118, R179). -/
def loadLine (s : State) (core : Nat) (near : Bool) (line : Nat) : Option (List Byte × BitVec 8 × Bool) :=
  match (if near then Table.find line (State.core s core).l1 else none) with
  | some x => some (x.1, x.2, true)
  | none => (Table.find line (State.die s (core / 16)).l2).map fun l => (l.bytes, l.poison, false)

/-- Make room in a full L1 of 2,048 lines (R13); which line is dropped is not fixed (log 42). -/
def roomInL1 (core line : Nat) (s : State) : State :=
  let l1 := (State.core s core).l1
  if l1.length < 2048 || l1.any (fun e => e.1 == line) then s
  else
    let d := State.draw s
    match l1[d.1 % l1.length]? with
    | some e => State.modCore d.2 core fun c => { c with l1 := Table.del e.1 c.l1 }
    | none => s

/-- Fill the L1 of a near read; a line with a store not acknowledged is not kept (R338). -/
def fillL1 (s : State) (core : Nat) (near : Bool) (line : Nat) (bs : List Byte) (p : BitVec 8) : State :=
  if near && !storePending s core line then
    State.modCore (roomInL1 core line s) core fun c => { c with l1 := Table.set line (bs, p) c.l1 }
  else s

/-- The die's L2 line, when in M. -/
def ownedLine (s : State) (die line : Nat) : Option Line :=
  match Table.find line (State.die s die).l2 with
  | some l => if l.st == .m then some l else none
  | none => none

/-- Bytes written through a core's L1, where the line is present (R123). -/
def putL1 (core c : Nat) (bs : List Byte) (s : State) : State :=
  State.modCore s core fun k => { k with l1 := Table.alter (lineOf c) (fun b => mergeLine b.1 b.2 (c % 128) bs) k.l1 }

/-- Merge bytes into the die's L2 line and into the core's L1 line, where present (R123). -/
def storeLine (s : State) (core c : Nat) (l : Line) (bs : List Byte) : State :=
  let m := mergeLine l.bytes l.poison (c % 128) bs
  putL1 core c bs (State.modDie s (core / 16) fun d => { d with l2 := Table.set (c / 128) ⟨.m, m.1, m.2⟩ d.l2 })

/-- A write within one line by an agent of a core that is no thread access: through the L1 where the line is present. -/
def writeThrough (core : Nat) (s : State) (c : Nat) (bs : List Byte) : Access × State :=
  match writeMem (core / 16) s c bs with
  | (.ok r, s1) => (.ok r, putL1 core c bs s1)
  | r => r

/-- Perform an atomic on old bytes: the new bytes, none where unchanged. -/
def atomicBytes (op : AOp) (sgn : Bool) (a : Acc) (old : Nat) : Option (List Byte) :=
  (atomicNew op sgn a.size old (leNat a.data) (leNat a.cmp)).map (natLe a.size)

/-- Perform an access in memory; the state is unchanged where the line is not yet there. -/
def performMem (k : Nat) (o : Op) (a : Acc) (c : Nat) (s : State) : State :=
  let core := o.band / 64
  match o.kind with
  | .load .. | .jtab =>
    match loadLine s core (nearRead s o) (c / 128) with
    | none => s
    | some (bs, p, l1) =>
      match poisonAt p (c % 128) a.size with
      | some b => trapAcc k o a causePoison (a.addr.toNat + (b - c % 128)) s
      | none =>
        performed k a.lane (leNat ((bs.drop (c % 128)).take a.size))
          (if l1 then s else fillL1 s core (nearRead s o) (c / 128) bs p)
  | .atomic op sgn _ =>
    match ownedLine s (core / 16) (c / 128) with
    | none => s
    | some l =>
      match poisonAt l.poison (c % 128) a.size with
      | some b => trapAcc k o a causePoison (a.addr.toNat + (b - c % 128)) s
      | none =>
        let old := leNat ((l.bytes.drop (c % 128)).take a.size)
        performed k a.lane old (match atomicBytes op sgn a old with
          | some bs => storeLine s core c l bs
          | none => s)
  | .store =>
    match ownedLine s (core / 16) (c / 128) with
    | none => s
    | some l => endAcc k a.lane (storeLine s core c l a.data)
  | _ => s

/-! ## SRAM accesses at a slice (R133, R139, R141, R143, R144) -/

/-- The window and form of an SRAM access that its slice finds to be of another owner, or of none (R133, R143). -/
def notOwned (s : State) (o : Op) (a : Acc) (g : Nat) : Option (Nat × Window × Nat) :=
  match windowOf a.addr, State.home s o.band with
  | some (w, f), some (_, _, gr) => if w == .loc || ownedBy s g gr.ctx then none else some (gr.ctx, w, f)
  | _, _ => none

/-- Perform an access at its slice: the owner is tested (R143), the word read passes its code (R141), a poisoned word is
consumed as a trap (R119). -/
def performSram (k : Nat) (o : Op) (a : Acc) (g : Nat) (s : State) : State :=
  match notOwned s o a g with
  | some (ctx, w, f) => performed k a.lane 0 (latchSpflag s ctx (o.band / 64) k a.lane (OpKind.isWrite o.kind) (windowCode w) f)
  | none =>
    match o.kind with
    | .store => performed k a.lane 0 (writeSram s g a.data)
    | .load .. | .jtab =>
      let s1 := senseSram g a.size s
      match sramPoisoned s1 g a.size with
      | some b => trapAcc k o a causePoison (a.addr.toNat + (b - g)) s1
      | none => performed k a.lane (leNat (readSram s1 g a.size)) s1
    | .atomic op sgn _ =>
      let s1 := senseSram g a.size s
      match sramPoisoned s1 g a.size with
      | some b => trapAcc k o a causePoison (a.addr.toNat + (b - g)) s1
      | none =>
        let old := leNat (readSram s1 g a.size)
        performed k a.lane old (match atomicBytes op sgn a old with
          | some bs => writeSram s1 g bs
          | none => touchSram s1 g a.size)
    | _ => s

/-- Whether a byte lies in the core's own slice. -/
def ownSlice (o : Op) (g : Nat) : Bool := g / 2 ^ 26 == o.band / 64

/-- Accesses of one core to the slice that holds `g`. -/
def toSlice (s : State) (core g : Nat) (f : Op → Acc → Bool) : Bool :=
  s.ops.any fun e => e.2.band / 64 == core && !OpKind.ofTile e.2.kind && e.2.accs.any fun b => (match b.place with
    | .sram h => h / 2 ^ 26 == g / 2 ^ 26
    | _ => false) && f e.2 b

/-- An earlier access of the core to that slice may be sent and has not been (R143). -/
def behindMessage (s : State) (o : Op) (a : Acc) (g : Nat) : Bool :=
  toSlice s (o.band / 64) g fun e b => b.stage == .waiting
    && (decide (e.seq < o.seq) || (e.seq == o.seq && decide (b.lane < a.lane))) && mayPerform s e b

/-- A message that was sent before `n` has not arrived, and stands before one from a core of `die` to the slice that holds `g`:
of the same core to that slice (R143), or of the same two dies, whose messages share the channel MSH (R129). -/
def behindSent (s : State) (die : Nat) (core : Option Nat) (g n : Nat) : Bool :=
  s.ops.any fun e => e.2.accs.any fun b => match b.place, b.stage with
    | .sram h, .sent m => decide (m < n) && ((core == some (e.2.band / 64) && h / 2 ^ 26 == g / 2 ^ 26)
        || (die != g / 2 ^ 30 && e.2.band / 1024 == die && h / 2 ^ 30 == g / 2 ^ 30))
    | _, _ => false

/-- No crossing between two dies is down. -/
def routeUp (s : State) (a b : Nat) : Bool := (crossingsOf a b).all fun c => !(Table.get Crossing.start c s.crossings).down

/-- An access that a die's agent, of a core or of none, sends to a slice now arrives at once: no crossing of its way is down
and every earlier message that it may not pass has arrived (R129, R143). -/
def meshClear (s : State) (die : Nat) (core : Option Nat) (g : Nat) : Bool :=
  routeUp s die (g / 2 ^ 30) && !behindSent s die core g s.nextKey

/-- The charge of one message between two dies, to the sender's (R406). -/
def chargeRoute (a b : Nat) (s : State) : State :=
  let n := (crossingsOf a b).length
  if n = 0 then s else chargeDie a (80 * n) s

/-- The charges of `n` bytes sent from a die to another, in messages of up to 128 bytes (R406; log 51). -/
def chargeBytes (a b n : Nat) (s : State) : State :=
  (List.range ((n + 127) / 128)).foldl (fun s _ => chargeRoute a b s) s

/-- The charges of a message to the slice that holds a byte, and of its answer (R406). -/
def chargeTrip (die g : Nat) (s : State) : State := chargeRoute (g / 2 ^ 30) die (chargeRoute die (g / 2 ^ 30) s)

/-- SRAM_REMOTE_ACCESS: an access to the slice of another core leaves over the mesh; when it arrives, in the order of
sending, it is performed there (R129, R143). -/
def execSramRemoteAccess (op lane : Nat) (s : State) : Host.Outcome State Fault Refusal :=
  match Table.find op s.ops with
  | none => .next s
  | some o =>
    match Op.acc o lane with
    | none => .next s
    | some a =>
      let here := o.band / 1024
      match a.place, a.stage with
      | .sram g, .waiting =>
        .next (if !ownSlice o g && !OpKind.ofTile o.kind && mayPerform s o a && !behindMessage s o a g then
            chargeRoute here (g / 2 ^ 30) (State.modOp { s with nextKey := s.nextKey + 1 } op fun p =>
              Op.setAcc p lane fun b => { b with stage := .sent s.nextKey })
          else s)
      | .sram g, .sent n =>
        .next (if routeUp s here (g / 2 ^ 30) && !behindSent s here (some (o.band / 64)) g n then
            chargeRoute (g / 2 ^ 30) here (performSram op o a g (goodFlits (crossingsOf here (g / 2 ^ 30)) s))
          else s)
      | _, _ => .next s

/-- A performed access ends: a result lands, a write is acknowledged. -/
def finishAcc (k : Nat) (o : Op) (a : Acc) (s : State) : State :=
  if OpKind.hasResult o.kind then landAcc k o a s
  else acquireEffect o.band o.order o.scope (endAcc k a.lane s)

/-- One step of an access towards its end. -/
def stepAcc (k : Nat) (o : Op) (a : Acc) (s : State) : State :=
  match a.stage with
  | .performed => finishAcc k o a s
  | .waiting | .translated =>
    if mayPerform s o a then
      match a.place with
      | .mem c => performMem k o a c s
      | .sram g => if ownSlice o g then performSram k o a g s else s
      | .fabric _ => sendRequest k o a s
      | _ => s
    else s
  | _ => s

/-! ## Cache maintenance and prefetch (R187 to R190) -/

/-- A store of the band to the line, issued before the operation, is not acknowledged (R189). -/
def storesBefore (s : State) (o : Op) (line : Nat) : Bool :=
  s.ops.any fun e => decide (e.2.seq < o.seq) && e.2.band == o.band && OpKind.isWrite e.2.kind
    && e.2.accs.any fun b => !Acc.over b && match b.place with
      | .mem c => lineOf c == line
      | _ => false

/-- CFLUSH.l2 at the die: the line leaves the L2, and the lane ends at PutAck, or at once for a line in S or I; a line whose
page meets a translation fault has nothing to flush (R189). -/
def flushHere (k : Nat) (die line lane : Nat) (s : State) : State :=
  match evictLine die line s with
  | none => s
  | some s1 =>
    if (Table.find line (State.die s1 die).evict).isSome then performed k lane 0 s1 else endAcc k lane s1

/-- CFLUSH.l2 at the home directory: as one line of R128. -/
def flushHome (k : Nat) (die line lane : Nat) (s : State) : State :=
  match xlate die (line * 128) .read s with
  | (.ok u _, s1) =>
    if (Die.entry (State.die s1 (unitDie u)) line).txn.isSome then s
    else performed k lane (unitDie u) (openFlush (unitDie u) line s1)
  | (.fault _ _, s1) => endAcc k lane s1
  | (_, s1) => s1

/-- One lane of CFLUSH (R189). -/
def flushStep (k : Nat) (o : Op) (a : Acc) (dev l2 : Bool) (s : State) : State :=
  let core := o.band / 64
  let die := core / 16
  match a.place with
  | .mem c =>
    let line := lineOf c
    if a.stage == .performed then
      if dev then (if flushing s a.value line then s else endAcc k a.lane s)
      else if (Table.find line (State.die s die).evict).isSome then s else endAcc k a.lane s
    else if storesBefore s o line then s
    else
      let s1 := State.modCore s core fun k => { k with l1 := Table.del line k.l1 }
      if !l2 then endAcc k a.lane s1 else if dev then flushHome k die line a.lane s1 else flushHere k die line a.lane s1
  | _ => endAcc k a.lane s

/-- The chip line of a cache-maintenance lane; none for an SRAM window (R189, R190). -/
def lineAccs (x : Ix) (s : State) (addr : Ix → Nat → Nat) : List Acc :=
  x.act.map fun l =>
    let a := addr x l
    let p := accessPlace x s l a permRd
    { lane := l, addr := BitVec.ofNat 64 a, va := (memoryVa x l a).getD 0, place := p, size := 128, data := [], cmp := []
      stage := .waiting, value := 0 }

def lineAddr (o : OpLine) (x : Ix) (l : Nat) : Nat := genericAddr x l o.s o.a (offsetBytes o.off 128)

/-- CFLUSH (R189). -/
def execCflush (o : OpLine) (s : State) : Host.Outcome State Fault Refusal :=
  issueWith (.cflush o) (accessCause .load false (lineAddr o) 128) (fun x s =>
    let dev := o.scope == .dev || o.scope == .fab
    let n := newOp (.cflush o) x (.flush dev (o.lvl == .l2)) o.dc o.scope .rlx (lineAccs x s (lineAddr o)) false 0 s
    { s := countIssue x o.dc n.2 }) s

/-- CINV (R190): dropped at once, so its count rises and falls in one step. -/
def execCinv (o : OpLine) (s : State) : Host.Outcome State Fault Refusal :=
  issueWith (.cinv o) (accessCause .load false (lineAddr o) 128) (fun x s =>
    { s := (lineAccs x s (lineAddr o)).foldl (fun s a =>
        match a.place with
        | .mem c => State.modCore s (Ix.core x) fun k => { k with l1 := Table.del (c / 128) k.l1 }
        | _ => s) s }) s

/-- One step of a prefetched line: it is asked for until the L2 holds it, and then fills the L1 where that is wanted; one
whose page faults is dropped (R105, R187). -/
def prefStep (k : Nat) (o : Op) (a : Acc) (l1 : Bool) (s : State) : State :=
  let core := o.band / 64
  match a.place with
  | .mem c =>
    match Table.find (lineOf c) (State.die s (core / 16)).l2 with
    | some l => endAcc k a.lane (if l.poison == 0 then fillL1 s core l1 (lineOf c) l.bytes l.poison else s)
    | none =>
      match askLine (core / 16) (lineOf c) false s with
      | (some _, s1) => endAcc k a.lane s1
      | (none, s1) => s1
  | _ => endAcc k a.lane s

/-- The lines of a PREF that are not dropped at once: those of the memory window that pass R90 and R91 and are not locked
(R164, R187). -/
def prefAccs (x : Ix) (s : State) (addr : Ix → Nat → Nat) : List Acc :=
  (lineAccs x s addr).filter fun a =>
    match a.place with
    | .mem c => (lockedByte s (Ix.core x) true c 128).isNone
    | _ => false

/-- PREF (R187): nothing waits for it. -/
def execPref (o : OpLine) (s : State) : Host.Outcome State Fault Refusal :=
  issueWith (.pref o)
    (fun x _ l => if lineAddr o x l % 128 = 0 then none else some (causeMisaligned, BitVec.ofNat 64 (lineAddr o x l)))
    (fun x s =>
      let as := prefAccs x s (lineAddr o)
      if as.isEmpty then { s := s }
      else { s := (newOp (.pref o) x (.pref (o.lvl == .l1)) none o.scope .rlx as false 0 s).2 }) s

/-- The range register that holds a byte, with its chip address (R188). -/
def rangeIndex (c : Ctx) (va : Nat) : Option Nat :=
  (List.range 8).find? fun k =>
    (Ctx.range c k 3).testBit 0 && Ctx.range c k 0 / 2 ^ 16 ≤ va / 2 ^ 16 && va / 2 ^ 16 ≤ Ctx.range c k 1 / 2 ^ 16

/-- A lock of the core names a byte of `[c, c + n)` (R164). -/
def lockedIn (s : State) (core c n : Nat) : Bool :=
  (State.core s core).locks.any fun k => decide (k.lo < c + n) && decide (c ≤ k.hi)

/-- One registration of PREFB (R188); a range with a locked byte is dropped (R164). -/
def registerRange (x : Ix) (a len : Nat) (s : State) : State :=
  let n := Nat.min len 16777216
  match windowOf (BitVec.ofNat 64 a) with
  | some (.mem, v) =>
    let c := State.ctx s (Ix.ctx x)
    match rangeCheck c v permRd, rangeCheck c (v + n - 1) permRd with
    | some p, some _ =>
      if 0 < n && rangeIndex c v == rangeIndex c (v + n - 1) && !lockedIn s (Ix.core x) p n then
        State.modCore s (Ix.core x) fun k =>
          { k with prefetch := (if 64 ≤ k.prefetch.length then k.prefetch.drop 1 else k.prefetch) ++ [(p, n, Ix.ctx x)] }
      else s
    | _, _ => s
  | _ => s

/-- PREFB (R188). -/
def execPrefb (o : OpPrefb) (s : State) : Host.Outcome State Fault Refusal :=
  let addr (x : Ix) (l : Nat) : Nat := genericAddr x l o.s o.a (offsetBytes o.off 128)
  issueWith (.prefb o) (fun x _ l => if addr x l % 128 = 0 then none else some (causeMisaligned, BitVec.ofNat 64 (addr x l)))
    (fun x s => { s := x.act.foldl (fun s l => registerRange x (addr x l) (Ix.v x l o.b.val).toNat s) s }) s

/-! ## Translation of waiting accesses (R99 to R104) -/

/-- The line that a thread's access waits for at its die's translation unit: it may be performed, and neither the L1 nor the
L2 holds the line as it needs it. -/
def Acc.needs (s : State) (o : Op) (a : Acc) : Option Nat :=
  match a.place with
  | .mem c =>
    let core := o.band / 64
    let there : Bool := if OpKind.isWrite o.kind then (ownedLine s (core / 16) (lineOf c)).isSome
      else (loadLine s core (nearRead s o) (lineOf c)).isSome
    if a.stage == .waiting && !OpKind.ofTile o.kind && !OpKind.quiet o.kind && !there && mayPerform s o a then some (lineOf c)
    else none
  | _ => none

/-- Change the waiting accesses of a die's threads that need a line `f` is about, to read it or, `excl`, in M. -/
def onNeeds (die : Nat) (f : Nat → Bool → Option AccStage) (s : State) : State :=
  { s with ops := s.ops.map fun e =>
      if e.2.band / 1024 == die then
        (e.1, { e.2 with accs := e.2.accs.map fun a =>
          match (Acc.needs s e.2 a).bind fun line => f line (OpKind.isWrite e.2.kind) with
          | some st => { a with stage := st }
          | none => a })
      else e }

/-- The walk of a page stands for a line: of the page, or of its region where the region entry translates the whole. -/
def onWalk (s : State) (page line : Nat) : Bool :=
  line / 512 == page || (line / 16384 == page / 32 && regionWhole s (page * 2 ^ 16))

/-- The accesses that wait for the walk of a page fault with the entry found (R105). -/
def faultAccs (die page kind entry : Nat) (s : State) : State :=
  onNeeds die (fun line _ => if onWalk s page line then some (.faulted kind entry) else none) s

/-- The accesses to a line are past translation: their lanes go on (log 14). -/
def markTranslated (die line : Nat) (excl : Bool) (s : State) : State :=
  onNeeds die (fun l e => if l == line && e == excl then some .translated else none) s

/-- The lines that a die's threads need, each with whether in M. -/
def needed (s : State) (die : Nat) : List (Nat × Bool) :=
  s.ops.foldl (fun t e =>
    if e.2.band / 1024 == die then
      e.2.accs.foldl (fun t a =>
        match Acc.needs s e.2 a with
        | some l => if t.elem (l, OpKind.isWrite e.2.kind) then t else t ++ [(l, OpKind.isWrite e.2.kind)]
        | none => t) t
    else t) []

def wanted (s : State) (die line : Nat) (excl : Bool) : Bool := (needed s die).elem (line, excl)

def kindOf (excl : Bool) : ReqKind := if excl then .write else .read

/-- A walk begins, with the ZERO entry it reads (R100, R102). -/
def beginWalk (die page : Nat) (excl : Bool) (s : State) : State :=
  let z := match entryOf s (page * 2 ^ 16) with
    | .zero _ z => some z
    | _ => none
  State.modDie s die fun d => { d with walks := d.walks ++ [⟨page, excl, z, false⟩] }

/-- TRANSLATION_REQUEST: a line's request leaves the die's L2 (R99, R125): RdS, RdX or Upg to the home the entry gives; a
walk where the entry is not cached. -/
def execTranslationRequest (die line : Nat) (excl : Bool) (s : State) : Host.Outcome State Fault Refusal :=
  if 4 ≤ die then .fault .noAgent
  else
    let d := State.die s die
    let c := line * 128
    if !wanted s die line excl || lineBusy d line || isHeld d line (kindOf excl) then .next s
    else
      match tlbFind d c with
      | some t =>
        match (if excl then dirtyHit die c t s else some (.ok (placeOf t.entry t.big c).1 (placeOf t.entry t.big c).2, s)) with
        | some (.ok u o, s1) => .next (sendReq die line excl u o (markTranslated die line excl s1))
        | _ => .next (State.modDie s die fun d => { d with tlb := Table.del (c / 2 ^ 16) (Table.del (c / 2 ^ 21 * 32) d.tlb) })
      | none => if walking s d c || 16 ≤ d.walks.length then .next s else .next (beginWalk die (c / 2 ^ 16) excl s)

/-- A held request leaves after its second walk (R103); one whose line has come or is being obtained needs none. -/
def releaseHeld (die : Nat) (s : State) (h : HoldReq) : State :=
  let d := State.die s die
  if h.kind != .back && (lineBusy d h.line || holdsLine d h.line (h.kind == .write)) then s
  else
    match xlate die (h.line * 128) h.kind s with
    | (.ok u o, s1) =>
      if h.kind == .back then sendPut die h.line u o s1
      else sendReq die h.line (h.kind == .write) u o (markTranslated die h.line (h.kind == .write) s1)
    | (.fault _ _, s1) => if h.kind == .back then State.modDie s1 die fun d => { d with evict := Table.del h.line d.evict } else s1
    | (.held, s1) => s1
    | (.wait, s1) => State.modDie s1 die fun d => { d with hold := d.hold ++ [{ h with again := false }] }

/-- The requests of a die that wait for the walk of a page meet MIGRATING: each takes a place in the hold queue, or faults
where it is full (R103). -/
def holdNeeds (die page e : Nat) (s : State) : State :=
  ((needed s die).filter fun n => onWalk s page n.1 && !isHeld (State.die s die) n.1 (kindOf n.2)).foldl (fun s n =>
    match holdReq die n.1 (kindOf n.2) e s with
    | (.fault k e, s1) => onNeeds die (fun l x => if l == n.1 && x == n.2 then some (.faulted k e) else none) s1
    | (_, s1) => s1) s

/-- The held requests whose second walk this is. -/
def secondOf (s : State) (die page : Nat) : List HoldReq :=
  (State.die s die).hold.filter fun h => h.again && onWalk s page h.line

def dropSecond (die page : Nat) (s : State) : State :=
  State.modDie s die fun d => { d with hold := d.hold.filter fun h => !(h.again && onWalk s page h.line) }

/-- TRANSLATION_WALK: a walk ends: the entry is cached, the requests go on, hold, or fault (R100 to R103, R105). -/
def execTranslationWalk (die page : Nat) (s : State) : Host.Outcome State Fault Refusal :=
  if 4 ≤ die then .fault .noAgent
  else
    match (State.die s die).walks.find? fun w => w.page == page with
    | none => .next s
    | some w =>
      let s0 := State.modDie s die fun d => { d with walks := d.walks.filter fun x => x.page != page }
      match walk die (page * 2 ^ 16) w.write w.zero s0 with
      | (.present _ e big, s1) =>
        .next ((secondOf s1 die page).foldl (releaseHeld die) (dropSecond die page (cacheEntry die (page * 2 ^ 16) e big s1)))
      | (.migrating e, s1) =>
        .next (holdNeeds die page e (State.modDie s1 die fun d =>
          { d with hold := d.hold.map fun h => if h.again && onWalk s1 page h.line then { h with again := false } else h }))
      | (.fault k e, s1) => .next (faultAccs die page k e ((secondOf s1 die page).foldl (fun s h =>
          if h.kind == .back then State.modDie s die fun d => { d with evict := Table.del h.line d.evict } else s)
          (dropSecond die page s1)))
      | (.zero _ _, s1) => .next s1

/-! ## Page faults (R105, R106, R185, R441, R446) -/

/-- The faulting entry is a region entry: PS of the record (R106). -/
def faultBig (s : State) (c : Nat) : Bool := State.dword s (regionKey s c) % 8 != 6

/-- ACC of a record (R106). -/
def accCode : OpKind → Nat
  | .load .. | .tld .. | .jtab => 0
  | .atomic .. => 2
  | _ => 1

/-- The page groups of the faulted accesses, in ascending order of the lowest lane (R105). -/
def faultPages (s : State) (k : OpKind) (as : List Acc) : List FaultPage :=
  as.foldl (fun ps a =>
    match a.stage, a.place with
    | .faulted kind e, .mem c =>
      let big := faultBig s c
      let same (p : FaultPage) : Bool :=
        if big then p.ps && p.caddr / 2 ^ 21 == c / 2 ^ 21 else !p.ps && p.caddr / 2 ^ 16 == c / 2 ^ 16
      if ps.any same then
        ps.map fun p => if same p then { p with lanes := p.lanes ||| BitVec.ofNat 64 (2 ^ a.lane) } else p
      else ps ++ [⟨kind, e, c, a.va, BitVec.ofNat 64 (2 ^ a.lane), accCode k, big⟩]
    | _, _ => ps) []

/-- The lowest free fragment-table entry of a core (R441, R444). -/
def freeEntry (c : Core) : Option Nat :=
  (List.range 128).find? fun n => (Table.find n c.frags).isNone && (Table.find n c.kept).isNone

/-- Log entries in use, two for a fragment with a continuation (R440). -/
def usedLogs (c : Core) : List Nat :=
  (c.frags ++ c.kept).flatMap fun e => e.2.logNo :: e.2.cont.toList

def freeLogs (c : Core) : List Nat := (List.range 256).filter fun n => !(usedLogs c).elem n

/-- Two log entries for an ATOM of .cas with 128 bits (R440): opcode 0x78, AOP 7, AW 2. -/
def needsCont (l : Log) : Bool := l.w0 / 2 ^ 24 % 256 == 0x78 && l.w1 / 2 ^ 14 % 16 == 7 && l.w1 / 2 ^ 12 % 4 == 2

/-- The records of a fragment, for the queue of its core's die (R105, R106). -/
def fragRecords (core ctx entry src uid : Nat) (ps : List FaultPage) : List FaultRec :=
  (List.range ps.length).filterMap fun i =>
    ps[i]?.map fun p =>
      { kind := p.kind, src := src, acc := p.acc, ps := p.ps, frag := core * 128 + entry, core := core, ctx := ctx
        caddr := p.caddr, vaddr := p.vaddr, lmask := p.lanes, entry := p.entry, seq := 0, nrec := ps.length, irec := i
        eng := 0, uid := uid }

/-- Park lanes at a PC, dropping their pending marks of an operation (R185, R441). -/
def parkLanes (key : Nat) (m : Dword) (pc : Pc) (op : Option Nat) (s : State) : State :=
  State.modBand (match op with
      | none => s
      | some k => (lanesOf m).foldl (fun s l => dropPending key l k s) s) key fun b =>
    Band.modLanes b (lanesOf m) fun _ y => { y with run := .parked, pc := pc, sw := false, barred := false, frag := 0xFFFF }

/-- The log entries of a fragment put into table entry `entry`: those the entry has kept, where a replay has faulted again
(R444), else the lowest free ones. -/
def logsFor (c : Core) (entry : Nat) (log : Log) : Nat × Option Nat :=
  match Table.find entry c.kept with
  | some f => (f.logNo, f.cont)
  | none => ((freeLogs c).getD 0 0, if needsCont log then some ((freeLogs c).getD 1 0) else none)

/-- Create a PAGE fragment in a given table entry (R441, R444). -/
def putFragment (key entry : Nat) (pc : Pc) (log : Log) (src : Nat) (ps : List FaultPage) (dc : Dc) (ctx : Nat)
    (s : State) : State :=
  let core := key / 64
  let ls := logsFor (State.core s core) entry log
  let f : Frag :=
    { band := key, ctx := ctx, late := false, state := .parked, lanes := log.lanes, pc := pc, nrec := ps.length, seq := 0
      logNo := ls.1, cont := ls.2, log := log, dc := dc, uid := s.nextKey }
  State.modDie (enterFrag core entry f (State.modCore { s with nextKey := s.nextKey + 1 } core fun c =>
      { c with kept := Table.del entry c.kept })) (core / 16) fun d =>
    { d with fqWait := d.fqWait ++ fragRecords core ctx entry src s.nextKey ps }

/-- The entry kept for a replay whose lanes fault again: those of the fragment all carry its identity (R444). -/
def keptFor (s : State) (key : Nat) (lanes : Dword) : Option Nat :=
  match Table.find key s.bands with
  | none => none
  | some b => ((State.core s (key / 64)).kept.find? fun e => e.2.band == key
      && (lanesOf lanes).all fun l => (Band.lane b l).frag == BitVec.ofNat 32 (key / 64 * 128 + e.1)).map Prod.fst

/-- The band parked longest with FRAG_FULL on a core. -/
def oldestFull (s : State) (core : Nat) : Option (Nat × Band × Overflow) :=
  (s.bands.filter fun e => e.1 / 64 == core).foldl (fun m e =>
    match e.2.overflow with
    | none => m
    | some o =>
      match m with
      | none => some (e.1, e.2, o)
      | some (_, _, q) => if o.since < q.since then some (e.1, e.2, o) else m) none

/-- The table entry that a new fragment of a core may take: none while a band is parked with FRAG_FULL, which takes the next
entry to be free (R446). -/
def openEntry (s : State) (core : Nat) : Option Nat :=
  if (oldestFull s core).isSome then none else freeEntry (State.core s core)

/-- Park a band with FRAG_FULL. DESIGN CHOICE (log 55): where it is so parked already, by another instruction of its own, the
record stands behind the first. -/
def Band.overflows (b : Band) (o : Overflow) : Band :=
  if b.overflow.isNone then { b with overflow := some o } else { b with more := b.more ++ [o] }

/-- Form the PAGE fragment of an instruction, or park its band with FRAG_FULL (R441, R446). -/
def formFragment (key : Nat) (pc : Pc) (log : Log) (src : Nat) (ps : List FaultPage) (dc : Dc) (again : Option Nat)
    (s : State) : State :=
  match State.home s key with
  | none => s
  | some (_, _, g) =>
    let s1 := parkLanes key log.lanes pc none s
    match (again.or (keptFor s key log.lanes)).or (openEntry s (key / 64)) with
    | some n => putFragment key n pc log src ps dc g.ctx s1
    | none =>
      State.modBand ({ s1 with nextKey := s1.nextKey + 1 } : State) key fun b =>
        Band.overflows b ⟨log, pc, src, ps, dc.map fun k => k.val, s1.nextKey⟩

/-- The log restricted to some lanes. -/
def Log.restrict (l : Log) (m : Dword) : Log :=
  { l with lanes := m, cmask := l.cmask &&& m, vrec := l.vrec.filter fun e => m.getLsbD e.1
           err := l.err.filter fun e => m.getLsbD e.1 }

/-- PAGE_FAULT_RESPONSE: once every lane's access is over, the faulting lanes form one fragment (R105, R185). -/
def execPageFaultResponse (op : Nat) (s : State) : Host.Outcome State Fault Refusal :=
  match Table.find op s.ops with
  | none => .next s
  | some o =>
    let ps := faultPages s o.kind o.accs
    if ps.isEmpty || !o.accs.all Acc.over then .next s
    else
      let m := ps.foldl (fun m p => m ||| p.lanes) 0
      let s1 := parkLanes o.band m o.pc (some op) { s with ops := Table.del op s.ops }
      .next (formFragment o.band o.pc (Log.restrict o.log m) 0 ps o.dc (o.replay.map fun r => r % 128) s1)

/-- The 64 bytes of a fault record (R106). -/
def faultBytes (r : FaultRec) : List Byte :=
  natLe 4 (causePage + r.kind % 16 * 2 ^ 8 + r.src % 4 * 2 ^ 12 + r.acc % 4 * 2 ^ 14 + if r.ps then 2 ^ 16 else 0)
    ++ natLe 2 r.frag ++ natLe 1 r.core ++ natLe 1 r.ctx ++ natLe 8 r.caddr ++ natLe 8 r.vaddr ++ natLe 8 r.lmask.toNat
    ++ natLe 8 r.entry ++ natLe 4 r.seq ++ natLe 2 r.nrec ++ natLe 2 r.irec ++ natLe 8 r.eng ++ natLe 8 0

/-- Write records into die `die`'s queue in hub SRAM, from position `head` and sequence number `seq` (R107). -/
def writeRecords (die : Nat) : List FaultRec → Nat → Nat → Table Byte → Table Byte
  | [], _, _, m => m
  | r :: rs, head, seq, m =>
    writeRecords die rs ((head + 1) % 2048) ((seq + 1) % 2 ^ 32)
      (Memory.store m (0x400000 + die * 0x20000 + head * 64) (faultBytes { r with seq := seq }))

/-- Records that a die's queue holds (R107). -/
def Die.fqCount (d : Die) : Nat :=
  let used := (d.fqHead + 2048 - d.fqTail) % 2048
  if used = 0 ∧ !d.fq.isEmpty then 2048 else used

/-- The records of the first poster do not fit (R107, R108). -/
def Die.posterWaits (d : Die) : Bool :=
  match d.fqWait with
  | [] => false
  | r :: _ => decide (2048 < Die.fqCount d + (d.fqWait.take r.nrec).length)

/-- FAULT_RECORD_POST: the records at the head of a die's posters go into its queue once they all fit (R107, R108). -/
def execFaultRecordPost (die : Nat) (s : State) : Host.Outcome State Fault Refusal :=
  if 4 ≤ die then .fault .noAgent
  else
    let d := State.die s die
    match d.fqWait with
    | [] => .next s
    | r :: _ =>
      let rs := d.fqWait.take r.nrec
      if Die.posterWaits d then .next s
      else
        let put (st : Die) (x : FaultRec) : Die :=
          { st with fq := Table.set st.fqHead { x with seq := st.fqSeq.toNat } st.fq, fqHead := (st.fqHead + 1) % 2048
                    fqSeq := st.fqSeq + 1 }
        let d1 := { rs.foldl put d with fqWait := d.fqWait.drop r.nrec }
        let s1 := goodFlits [4 + die] (State.setDie { s with hubSram := writeRecords die rs d.fqHead d.fqSeq.toNat s.hubSram } die d1)
        if r.src = 0 ∨ r.src = 3 then
          .next (State.modCore s1 (r.frag / 128) fun c =>
            { c with frags := Table.alter (r.frag % 128) (fun f => { f with seq := d.fqSeq.toNat }) c.frags })
        else .next s1

/-! ## Answers of a peer (R194 to R197) -/

/-- Record an error answer in FABERR of the core (R197). -/
def noteFabErr (core kind route ctx : Nat) (s : State) : State :=
  State.modCore s core fun c =>
    { c with faberr := BitVec.ofNat 64 (kind % 8 + route % 16 * 2 ^ 4 + ctx % 256 * 2 ^ 8 + 2 ^ 32) }

/-- Latch an error on a counter, keeping an earlier one (R168, R196). -/
def latchError (key : Nat) (dc : Dc) (m : Dword) (addr : Dword) (cause : Nat) (s : State) : State :=
  match dc with
  | none => s
  | some k => State.modBand s key fun b =>
      let b1 := tidyLatches b
      if (Table.find k.val b1.latch).isSome then b1 else { b1 with latch := Table.set k.val ⟨m, addr, cause⟩ b1.latch }

/-- The log of a fragment with the error marks of a lane's sources (R440). -/
def Log.mark (g : Log) (l : Nat) (marks : List (Nat × Dword)) : Log :=
  let m := (marks.filter fun x => (Table.find x.1 (Table.get [] l g.vrec)).isSome).foldl (fun t x => Table.set x.1 x.2 t)
    (Table.get [] l g.err)
  if m.isEmpty then g else { g with err := Table.set l m g.err }

/-- A fragment that this landing has turned READY takes the marks into its log entry (R440, R445). -/
def markLanded (key l : Nat) (marks : List (Nat × Dword)) (s : State) : State :=
  ((State.core s (key / 64)).frags.filter fun e =>
    e.2.band == key && e.2.late && e.2.state == .ready && e.2.lanes.getLsbD l).foldl (fun s e =>
      enterFrag (key / 64) e.1 { e.2 with log := Log.mark e.2.log l marks } s) s

/-- An error answer to a load or atomic: zeros with an error mark on each register (R195). -/
def landError (k : Nat) (o : Op) (a : Acc) (reg : Nat) (s : State) : State :=
  let n := a.size / 4
  let s1 := landAcc k o { a with value := 0 } s
  let marks := (List.range n).map fun i => (reg + i, a.addr)
  let s2 := State.modBand s1 o.band fun b => Band.modLane b a.lane fun y =>
    if y.run == .exited then y else { y with err := marks.foldl (fun t m => Table.set m.1 m.2 t) y.err }
  markLanded o.band a.lane marks s2

/-- A lane's write over the fabric ends; at the last one the failing lanes latch on the counter, with the address of the
lowest (R194, R196). A failed lane is kept as value 1. -/
def endFabricWrite (k : Nat) (o : Op) (a : Acc) (err : Bool) (s : State) : State :=
  let o1 := Op.setAcc o a.lane fun b => { b with stage := .done, value := if err then 1 else 0 }
  let s1 := State.modOp s k fun _ => o1
  if o1.accs.all Acc.over then
    let bad := o1.accs.filter fun b => b.value == 1
    match bad with
    | [] => settle k s1
    | b :: _ => settle k (latchError o.band o.dc (maskOf (bad.map fun b => b.lane)) b.addr causePoison s1)
  else s1

/-- The lane's record still stands in a stream's buffer: no answer to it can arrive (R201). -/
def stillBuffered (s : State) (core op lane : Nat) : Bool :=
  (State.core s core).streams.any fun e => e.2.owners.elem (op, lane)

/-- REMOTE_RESPONSE: the peer's answer to one lane's request (R194, R195). -/
def execRemoteResponse (op lane : Nat) (ans : PeerAnswer) (s : State) : Host.Outcome State Fault Refusal :=
  match Table.find op s.ops with
  | none => .next s
  | some o =>
    match Op.acc o lane with
    | none => .next s
    | some a =>
      match a.place with
      | .fabric f =>
        if a.stage != .translated || stillBuffered s (o.band / 64) op lane then .next s
        else
          let ctx := match State.home s o.band with
            | some (_, _, g) => g.ctx
            | none => 0
          match ans, o.kind with
          | .ok v, .load .. => .next (landAcc op o { a with value := v % 2 ^ (8 * a.size) } s)
          | .ok v, .atomic .. => .next (landAcc op o { a with value := v % 2 ^ (8 * a.size) } s)
          | .ok _, _ => .next (endFabricWrite op o a false s)
          | .error e, .load r _ _ => .next (landError op o a r (noteFabErr (o.band / 64) e (routeOf f) ctx s))
          | .error e, .atomic _ _ (some r) => .next (landError op o a r (noteFabErr (o.band / 64) e (routeOf f) ctx s))
          | .error e, _ => .next (endFabricWrite op o a true (noteFabErr (o.band / 64) e (routeOf f) ctx s))
      | _ => .next s

end Sys2Proof.Machine
end

