-- ==== Sys2Proof/Machine/Coherence.lean ====
section
/-!
DEFINITION. The home directory and the messages of its transactions, and the crossings
(spec/05_memory_tiers_and_coherence.md R118, R124 to R129).
-/
namespace Sys2Proof.Machine

/-! ## Messages (R129) -/

/-- Virtual channels: REQ, SNP, RSP. -/
def vcOf : MsgKind → Nat
  | .rdS | .rdX | .upg | .putM | .putE => 0
  | .fwd .. | .inv => 1
  | _ => 2

def isRequest (k : MsgKind) : Bool := vcOf k == 0

/-- A message may arrive: no earlier one of its channel and pair of dies is still under way, and no crossing is down. -/
def arrives (s : State) (key : Nat) (m : Msg) : Bool :=
  let queued := (State.die s m.dst).waitq.elem key
  (queued || !(s.msgs.any fun e => decide (e.1 < key) && e.2.src == m.src && e.2.dst == m.dst && vcOf e.2.kind == vcOf m.kind
      && !(State.die s m.dst).waitq.elem e.1))
    && (crossingsOf m.src m.dst).all fun c => !(Table.get Crossing.start c s.crossings).down

/-- A message is consumed. -/
def takeMsg (key : Nat) (m : Msg) (s : State) : State :=
  goodFlits (crossingsOf m.src m.dst) { s with msgs := Table.del key s.msgs }

/-- An event of a message of the given kind. -/
def onMsg (key : Nat) (k : MsgKind → Bool) (f : Msg → State → State) (s : State) : Host.Outcome State Fault Refusal :=
  match Table.find key s.msgs with
  | none => .next s
  | some m => .next (if k m.kind && arrives s key m then f m s else s)

/-! ## The directory (R125 to R127) -/

/-- Send the line's data from memory (R125). -/
def sendData (home req line mem : Nat) (shared : Bool) (ecc : Ecc) (s : State) : State :=
  let r := readLineAt mem ecc s
  sendMsg ⟨.data shared, line, home, req, r.1.1, r.1.2, mem⟩ r.2

def sendCmp (home req line : Nat) (s : State) : State := sendMsg ⟨.cmp, line, home, req, [], 0, 0⟩ s

/-- An entry of the snoop filter: a line that a die other than the home holds, or one in a transaction (R127). -/
def Dir.filtered (home : Nat) (e : Dir) : Bool :=
  e.txn.isSome || (e.owner.toList ++ e.sharers).any fun d => d != home

/-- The set of the snoop filter in which a line's entry lies. R127 gives no index; DESIGN CHOICE (log 42): the line number
modulo 65,536. -/
def filterSet (d : Die) (home line : Nat) : Table Dir :=
  d.dir.filter fun e => e.1 % 65536 == line % 65536 && Dir.filtered home e.2

/-- Room in the snoop filter for a request's entry (R127). -/
def roomInFilter (home req line : Nat) (s : State) : Bool :=
  let d := State.die s home
  req == home || Dir.filtered home (Die.entry d line) || decide ((filterSet d home line).length < 16)

/-- Begin the back-invalidation of the least recently used entry of a full set, unless one is under way there (R127). -/
def makeRoom (home line : Nat) (s : State) : State :=
  let set := filterSet (State.die s home) home line
  if set.any fun e => match e.2.txn with
      | some t => t.flush
      | none => false then s
  else
    match (set.filter fun e => e.2.txn.isNone).foldl (fun (b : Option (Nat × Dir)) e => match b with
        | none => some e
        | some x => if e.2.used < x.2.used then some e else b) none with
    | none => s
    | some v => openFlush home v.1 s

/-- Open or serve at once a transaction at the home. -/
def serve (home req line mem : Nat) (excl keep : Bool) (ecc : Ecc) (s : State) : State :=
  let e := Die.entry (State.die s home) line
  let others := e.sharers.filter fun d => d != req
  let owner := e.owner.filter fun d => d != req
  let acks := if excl then others ++ owner.toList else owner.toList
  let after : Dir :=
    if excl then ⟨some req, [], none, s.nextKey, mem⟩
    else
      match owner with
      | some w => ⟨some w, NatSet.add req others, none, s.nextKey, mem⟩
      | none =>
        if others.isEmpty then ⟨some req, [], none, s.nextKey, mem⟩ else ⟨none, NatSet.add req others, none, s.nextKey, mem⟩
  let s1 := if excl then others.foldl (fun s d => sendMsg ⟨.inv, line, home, d, [], 0, mem⟩ s) s else s
  let s2 :=
    match owner with
    | some w =>
      if keep then sendMsg ⟨.inv, line, home, w, [], 0, mem⟩ s1 else sendMsg ⟨.fwd req excl false, line, home, w, [], 0, mem⟩ s1
    | none => if keep then s1 else sendData home req line mem (!excl && !others.isEmpty) ecc s1
  if acks.isEmpty then sendCmp home req line (setDir home line after s2)
  else setDir home line { after with txn := some ⟨req, excl, acks, false, mem⟩ } s2

/-- An open transaction of the line, or a request for it that arrived earlier and waits, stands before a request: the queue
lists them in the order of arrival (R125). -/
def behindAtHome (key : Nat) (m : Msg) (s : State) : Bool :=
  let d := State.die s m.dst
  (Die.entry d m.line).txn.isSome || (d.waitq.takeWhile fun k => k != key).any fun k => match Table.find k s.msgs with
    | some x => x.line == m.line
    | none => false

/-- The request waits at the home, in arrival order. -/
def waitAtHome (key : Nat) (m : Msg) (s : State) : State :=
  if (State.die s m.dst).waitq.elem key then s else State.modDie s m.dst fun d => { d with waitq := d.waitq ++ [key] }

/-- The request is handled. -/
def takeRequest (key : Nat) (m : Msg) (s : State) : State :=
  State.modDie (takeMsg key m s) m.dst fun d => { d with waitq := d.waitq.filter fun x => x != key }

/-- A request for a line at its home, in its turn; one that needs an entry of a full set waits for the room (R125, R127). -/
def onRequest (key : Nat) (k : MsgKind) (fills : Bool) (f : Msg → State → State) (s : State) : Host.Outcome State Fault Refusal :=
  onMsg key (fun x => x == k) (fun m s =>
    if behindAtHome key m s then waitAtHome key m s
    else if fills && !roomInFilter m.dst m.src m.line s then makeRoom m.dst m.line (waitAtHome key m s)
    else f m (takeRequest key m s)) s

/-- RDS (R125). -/
def execCohRdS (msg : Nat) (ecc : Ecc) (s : State) : Host.Outcome State Fault Refusal :=
  onRequest msg .rdS true (fun m s => serve m.dst m.src m.line m.mem false false ecc s) s

/-- RDX (R125). -/
def execCohRdX (msg : Nat) (ecc : Ecc) (s : State) : Host.Outcome State Fault Refusal :=
  onRequest msg .rdX true (fun m s => serve m.dst m.src m.line m.mem true false ecc s) s

/-- UPG: handled as RdX when the requester's copy has been invalidated (R125, R126). -/
def execCohUpg (msg : Nat) (s : State) : Host.Outcome State Fault Refusal :=
  onRequest msg .upg true (fun m s =>
    let e := Die.entry (State.die s m.dst) m.line
    serve m.dst m.src m.line m.mem true (e.owner == some m.src || e.sharers.elem m.src) .clean s) s

/-- The sender gives up its ownership, where the directory names it as owner (R126). -/
def dropOwner (m : Msg) (write : State → State) (s : State) : State :=
  let e := Die.entry (State.die s m.dst) m.line
  if e.owner == some m.src then setDir m.dst m.line { e with owner := none } (write s) else s

def sendPutAck (m : Msg) (s : State) : State := sendMsg ⟨.putAck, m.line, m.dst, m.src, [], 0, m.mem⟩ s

/-- PUTM: memory is written where the directory names the sender as owner; PutAck (R125, R126). -/
def execCohPutM (msg : Nat) (s : State) : Host.Outcome State Fault Refusal :=
  onRequest msg .putM false (fun m s => sendPutAck m (dropOwner m (writeLineAt m.mem m.bytes m.poison) s)) s

/-- PUTE (R125). -/
def execCohPutE (msg : Nat) (s : State) : Host.Outcome State Fault Refusal :=
  onRequest msg .putE false (fun m s => sendPutAck m (dropOwner m id s)) s

/-! ## At the holders -/

/-- The home has closed this die's own transaction on the line, and its answer is still under way: a Fwd or Inv of a later
transaction waits for it. -/
def answerComing (s : State) (die line : Nat) : Bool :=
  (s.msgs.any fun e => e.2.line == line && e.2.dst == die && e.2.kind == .cmp)
    || match Table.find line (State.die s die).wants with
      | some w => w.cmp
      | none => false

/-- The holder's line as FWD finds it: in the L2, or kept until PutAck (R126). -/
def holderLine (d : Die) (line : Nat) : Option (Line × Bool) :=
  match Table.find line d.l2 with
  | some l => some (l, false)
  | none => (Table.find line d.evict).map fun l => (l, true)

/-- FWD: the owner sends Data to the requester and FwdAck to the home (R124, R125); first an access of its own that the line
has come for is performed. -/
def execCohFwd (msg : Nat) (s : State) : Host.Outcome State Fault Refusal :=
  onMsg msg (fun k => match k with
      | .fwd .. => true
      | _ => false) (fun m s =>
    match m.kind with
    | .fwd dest excl home =>
      if answerComing s m.dst m.line || usable s m.dst m.line then s
      else
        match holderLine (State.die s m.dst) m.line with
        | none => s
        | some (l, gone) =>
          let s1 := takeMsg msg m s
          let s2 := if gone then s1
            else if excl then State.modDie s1 m.dst fun d => { d with l2 := Table.del m.line d.l2 }
            else State.modDie s1 m.dst fun d =>
              { d with l2 := Table.set m.line { l with st := if l.st == .e then .s else .o } d.l2 }
          let s3 := if home then s2 else sendMsg ⟨.data (!excl), m.line, m.dst, dest, l.bytes, l.poison, m.mem⟩ s2
          -- the acknowledgement of a holder that was in E tells the home that it is now in S
          let tell := if home then l.bytes else if !excl && l.st == .e && !gone then [1] else []
          sendMsg ⟨.fwdAck, m.line, m.dst, m.src, tell, if home then l.poison else 0, m.mem⟩ s3
    | _ => s) s

/-- INV: a holder drops its copy and sends InvAck, also for a line it has dropped (R125, R126). -/
def execCohInv (msg : Nat) (s : State) : Host.Outcome State Fault Refusal :=
  onMsg msg (fun k => k == .inv) (fun m s =>
    if answerComing s m.dst m.line || usable s m.dst m.line then s
    else
      let s1 := State.modDie (takeMsg msg m s) m.dst fun d => { d with l2 := Table.del m.line d.l2 }
      sendMsg ⟨.invAck, m.line, m.dst, m.src, [], 0, m.mem⟩ s1) s

/-- Make room in a full set of an L2: one of its lines is evicted; which one is not fixed (R122, log 5). None while none of
them can leave. R122 gives the sets no index; DESIGN CHOICE (log 42): the line number modulo 32,768. -/
def roomInL2 (die line : Nat) (s : State) : Option State :=
  let set := (State.die s die).l2.filter fun e => e.1 % 32768 == line % 32768
  if set.length < 16 || set.any (fun e => e.1 == line) then some s
  else
    let d := State.draw s
    let n := d.1 % set.length
    (set.drop n ++ set.take n).findSome? fun e => evictLine die e.1 d.2

/-- The requester uses the line once its data and Cmp are both there (R125); none while its L2 has no room for it. -/
def install (die line : Nat) (s : State) : Option State :=
  match Table.find line (State.die s die).wants with
  | none => some s
  | some w =>
    let put (st : LineState) (bs : List Byte) (p : BitVec 8) (s : State) : State :=
      State.modDie s die fun d => { d with wants := Table.del line d.wants, l2 := Table.set line ⟨st, bs, p⟩ d.l2 }
    if !w.cmp then some s
    else
      match w.data, Table.find line (State.die s die).l2 with
      | some bs, _ => (roomInL2 die line s).map (put (if w.excl then .m else if w.shared then .s else .e) bs w.poison)
      | none, some l => some (if w.excl then put .m l.bytes l.poison s else s)
      | none, none => some s

/-- Data or Cmp of a line being obtained has arrived. -/
def onWant (msg : Nat) (k : MsgKind → Bool) (f : Msg → Want → Want) (s : State) : Host.Outcome State Fault Refusal :=
  onMsg msg k (fun m s =>
    (install m.dst m.line (State.modDie (takeMsg msg m s) m.dst fun d =>
      { d with wants := Table.alter m.line (f m) d.wants })).getD s) s

/-- DATA (R125). -/
def execCohData (msg : Nat) (s : State) : Host.Outcome State Fault Refusal :=
  onWant msg (fun k => match k with
      | .data _ => true
      | _ => false)
    (fun m w => { w with data := some m.bytes, poison := m.poison, shared := m.kind == .data true }) s

/-- CMP (R125). -/
def execCohCmp (msg : Nat) (s : State) : Host.Outcome State Fault Refusal :=
  onWant msg (fun k => k == .cmp) (fun _ w => { w with cmp := true }) s

/-! ## Acknowledgements at the home -/

/-- One acknowledgement less; with none left the home sends Cmp and the transaction closes (R125). -/
def ackHome (home line from_ : Nat) (nowS : Bool) (s : State) : State :=
  let e := Die.entry (State.die s home) line
  match e.txn with
  | none => s
  | some t =>
    let acks := t.acks.filter fun d => d != from_
    let e1 := if nowS then { e with owner := none, sharers := NatSet.add from_ e.sharers } else e
    if acks.isEmpty then
      let s1 := setDir home line { e1 with txn := none } s
      if t.flush then s1 else sendCmp home t.req line s1
    else setDir home line { e1 with txn := some { t with acks := acks } } s

/-- FWDACK; with the line's bytes when the owner wrote it back to the home (R127). -/
def execCohFwdAck (msg : Nat) (s : State) : Host.Outcome State Fault Refusal :=
  onMsg msg (fun k => k == .fwdAck) (fun m s =>
    let s1 := takeMsg msg m s
    let s2 := if m.bytes.length = 128 then writeLineAt m.mem m.bytes m.poison s1 else s1
    ackHome m.dst m.line m.src (m.bytes.length == 1) s2) s

/-- INVACK (R125). -/
def execCohInvAck (msg : Nat) (s : State) : Host.Outcome State Fault Refusal :=
  onMsg msg (fun k => k == .invAck) (fun m s => ackHome m.dst m.line m.src false (takeMsg msg m s)) s

/-- PUTACK: the evicted line's data is no longer kept (R126). -/
def execCohPutAck (msg : Nat) (s : State) : Host.Outcome State Fault Refusal :=
  onMsg msg (fun k => k == .putAck) (fun m s =>
    State.modDie (takeMsg msg m s) m.dst fun d => { d with evict := Table.del m.line d.evict }) s

end Sys2Proof.Machine
end

