-- ==== Sys2Proof/Machine/Control.lean ====
section
/-!
DEFINITION. Branches, jumps and calls, exit and no-operation, rejoin entries, shadow mode
(spec/15_control_flow.md R353 to R368; spec/16_barriers_tasks_grids.md R374).
-/
namespace Sys2Proof.Machine

/-! ## Going elsewhere (R354, R355) -/

/-- The active lanes go to a PC of their own through the switch point that ends the clause. -/
def goLanes (x : Ix) (p : Nat → Pc) (s : State) : Res :=
  { s := State.modBand s x.key fun b => Band.modLanes b x.act fun l y => Lane.goto y (p l), moved := x.act }

/-- Slot 0 of a word offset's target (R354). -/
def offsetPc (x : Ix) (imm : BitVec 16) : Pc := ⟨branchTarget x.pc.clause imm.toInt, 0⟩

/-- The link: F at slot 0 (R354). -/
def linkOf (x : Ix) : Nat := fallThrough x.hdr x.pc.clause

/-- The target of JMPX, CALLX and RET in a lane (R356). -/
def laneTarget (v : VReg) (x : Ix) (l : Nat) : Nat := Ix.vw x l true v.val

def targetCause (v : VReg) : Own := fun x _ l =>
  if laneTarget v x l % 4 = 0 then none else some (causeMisaligned, BitVec.ofNat 64 (laneTarget v x l))

/-- BRA (R355). -/
def execBra (o : OpCImm) (s : State) : Host.Outcome State Fault Refusal :=
  issueWith (.bra o) noCause (fun x s => goLanes x (fun _ => offsetPc x o.imm) s) s

/-- BRC (R355): the test is read once for the band. -/
def execBrc (o : OpBrc) (s : State) : Host.Outcome State Fault Refusal :=
  issueWith (.brc o) noCause (fun x s =>
    if (Ix.s x o.c.val != 0) == o.nz then goLanes x (fun _ => offsetPc x o.imm) s else { s := s }) s

/-- JMPX (R356). -/
def execJmpx (o : OpCV) (s : State) : Host.Outcome State Fault Refusal :=
  issueWith (.jmpx o) (targetCause o.v) (fun x s => goLanes x (fun l => Pc.ofNat (laneTarget o.v x l)) s) s

/-- The address of a lane's table word (R357). -/
def tableAddr (o : OpJtab) (x : Ix) (l : Nat) : Nat := (Ix.sw x true o.c.val + 4 * (Ix.v x l o.v.val).toNat) % 2 ^ 64

/-- The lane reads the table: its index is below n (R357). -/
def tableLane (o : OpJtab) (x : Ix) (l : Nat) : Bool := decide ((Ix.v x l o.v.val).toNat < o.n.toNat)

/-- JTAB (R357): the reading lanes wait for their words; the others go to F with the group, once every read has ended. -/
def execJtab (o : OpJtab) (s : State) : Host.Outcome State Fault Refusal :=
  issueWith (.jtab o)
    (fun x s l => if tableLane o x l then accessCause .load false (tableAddr o) 4 x s l else none)
    (fun x s =>
      let y := { x with act := x.act.filter (tableLane o x) }
      if y.act.isEmpty then { s := s }
      else
        let as := accesses y s permRd 4 (tableAddr o) noBytes noBytes
        let n := newOp (.jtab o) y .jtab none .band .rlx as true 0 (latchOut y s.nextKey false as s)
        { s := State.modOp n.2 n.1 fun p => { p with lanes := maskOf x.sel }, moved := y.act }) s

/-- CALL (R355, R358). -/
def execCall (o : OpCVImm) (s : State) : Host.Outcome State Fault Refusal :=
  issueWith (.call o) noCause (fun x s =>
    goLanes x (fun _ => offsetPc x o.imm)
      (holdResults x.key (x.act.flatMap fun l => heldV l o.v.val true (linkOf x)) s)) s

/-- CALLX (R356, R358). -/
def execCallx (o : OpCV) (s : State) : Host.Outcome State Fault Refusal :=
  issueWith (.callx o) (targetCause o.v) (fun x s =>
    goLanes x (fun l => Pc.ofNat (laneTarget o.v x l))
      (holdResults x.key (x.act.flatMap fun l => heldV l (o.v.val + 2) true (linkOf x)) s)) s

/-- RET (R356). -/
def execRet (o : OpCV) (s : State) : Host.Outcome State Fault Refusal :=
  issueWith (.ret o) (targetCause o.v) (fun x s => goLanes x (fun l => Pc.ofNat (laneTarget o.v x l)) s) s

/-! ## Rejoin (R361 to R364) -/

/-- The target J of an RJSET. -/
def rejoinTarget (o : OpCImm) (x : Ix) : Nat := branchTarget x.pc.clause o.imm.toInt

/-- Causes of RJSET (R362). -/
def rjsetCause (o : OpCImm) : Own := fun x _ l =>
  if x.gr.hdr.rjd ≤ (Band.lane x.b l).rdp then some (causeReservedReg, 0)
  else if rejoinTarget o x < x.gr.desc.image ∨ 2 ^ 32 ≤ rejoinTarget o x - x.gr.desc.image then
    some (causeRangeProt, BitVec.ofNat 64 (rejoinTarget o x))
  else none

/-- A lane records an entry at its next level (R361, R362). -/
def pushLevel (b : Band) (off : Nat) (y : Lane) : Lane :=
  { Lane.setReg y (levelReg b y.rdp) (BitVec.ofNat 32 (1 + 4 * (off / 4))) with rdp := y.rdp + 1 }

/-- RJSET (R362). -/
def execRjset (o : OpCImm) (s : State) : Host.Outcome State Fault Refusal :=
  issueWith (.rjset o) (rjsetCause o) (fun x s =>
    { s := evalLater (State.modBand s x.key fun b =>
        Band.modLanes b x.act fun _ y => pushLevel x.b (rejoinTarget o x - x.gr.desc.image) y) }) s

/-- A lane waits at its innermost entry: W := 1; the results of its run are applied in this cycle (R363, R227). -/
def waitLevel (b : Band) (y : Lane) : Lane :=
  { Lane.setReg y (levelReg b (y.rdp - 1)) (Lane.reg y (levelReg b (y.rdp - 1)) ||| 2#32) with run := .rejoin, sw := true }

/-- RJWAIT (R363). -/
def execRjwait (o : OpC) (s : State) : Host.Outcome State Fault Refusal :=
  issueWith (.rjwait o)
    (fun x _ l => if (Band.lane x.b l).rdp = 0 then some (causeRejoinDeadlock, 0) else none)
    (fun x s =>
      { s := evalLater (State.modBand s x.key fun b => Band.modLanes b x.act fun _ y => waitLevel x.b y)
        moved := x.act }) s

/-- A lane leaves its innermost entry (R364). -/
def dropLevel (b : Band) (y : Lane) : Lane :=
  if y.rdp = 0 then y else { Lane.setReg y (levelReg b (y.rdp - 1)) 0 with rdp := y.rdp - 1 }

/-- RJDROP (R364). -/
def execRjdrop (o : OpC) (s : State) : Host.Outcome State Fault Refusal :=
  issueWith (.rjdrop o) noCause (fun x s =>
    { s := evalLater (State.modBand s x.key fun b => Band.modLanes b x.act fun _ y => dropLevel x.b y) }) s

/-! ## Barriers of a team (R371 to R374) -/

/-- A lane released from barrier `n`: LA := 0, and it goes on past its BAR, the last instruction of its clause. -/
def freeLane (n : Nat) (y : Lane) : Lane :=
  if y.run == .barrier n then
    { Lane.goto y ⟨(y.pc.clause + 4 * (y.pc.slot + 2)) % 2 ^ 60, 0⟩ with
      run := .running, la := y.la &&& ~~~(BitVec.ofNat 16 (2 ^ n)) }
  else y

/-- A pair team's acquire at .team reaches beyond each core (R338, R343). -/
def teamAcquire (pair : Bool) (core : Nat) (s : State) : State :=
  if pair then State.modCore s core fun c => { c with l1 := [] } else s

/-- Release every thread of the team that waits on barrier `n` (R373). -/
def releaseBar (team n : Nat) (s : State) : State :=
  (State.bandsOf s team).foldl (fun s e =>
    if (List.range e.2.width).any (fun l => (Band.lane e.2 l).run == .barrier n) then
      let pair : Bool := match Table.find team s.teams with
        | some t => t.pair
        | none => false
      teamAcquire pair (e.1 / 64)
        (State.modBand s e.1 fun b => Band.modLanes b (List.range b.width) fun _ y => freeLane n y)
    else s) s

/-- A generation completes when A ≥ N and A > 0 (R373). -/
def completeBar (team n : Nat) (s : State) : State :=
  match Table.find team s.teams with
  | none => s
  | some t =>
    let x := Team.bar t n
    if x.n ≤ x.a ∧ 0 < x.a then
      releaseBar team n (State.modTeam s team fun t => Team.setBar t n { x with a := 0, p := !x.p })
    else s

/-- One barrier as a thread of the team exits (R374). -/
def exitBar (team n : Nat) (y : Lane) (s : State) : State :=
  match Table.find team s.teams with
  | none => s
  | some t =>
    let x := Team.bar t n
    if x.fixed then s
    else completeBar team n (State.modTeam s team fun t =>
      Team.setBar t n { x with n := x.n - 1, a := if Lane.arrived y n x.p then x.a - 1 else x.a })

/-- A lane as its exit leaves it; the results of its run are applied in this cycle (R359, R227). -/
def exitedLane (rjd : Nat) (b : Band) (y : Lane) : Lane :=
  { (List.range rjd).foldl (fun z i => Lane.setReg z (levelReg b i) 0) y with
    run := .exited, rdp := 0, pend := [], sw := true, trap := none }

/-- One lane exits (R168, R359, R374). -/
def exitLane (x : Ix) (s : State) (l : Nat) : State :=
  let y : Lane := match Table.find x.key s.bands with
    | some b => Band.lane b l
    | none => Lane.start
  let s1 := State.modBand s x.key fun b => tidyLatches (Band.modLane b l (exitedLane x.gr.hdr.rjd b))
  (List.range 16).foldl (fun s n => exitBar x.b.team n y s) s1

/-- EXIT (R359). -/
def execExit (o : OpC) (s : State) : Host.Outcome State Fault Refusal :=
  issueWith (.exit o) noCause (fun x s =>
    { s := evalLater (x.act.foldl (exitLane x) s), moved := x.act }) s

/-! ## NOP, YIELD and SHADOW (R360, R367) -/

/-- NOP (R360). -/
def execNop (o : OpC) (s : State) : Host.Outcome State Fault Refusal :=
  issueWith (.nop o) noCause (fun _ s => { s := s }) s

/-- YIELD (R360, R401). -/
def execYield (o : OpC) (s : State) : Host.Outcome State Fault Refusal :=
  issueWith (.yield o) noCause (fun x s => { s := State.modBand s x.key fun b => { b with yf := true } }) s

/-- SHADOW (R367). -/
def execShadow (o : OpShadow) (s : State) : Host.Outcome State Fault Refusal :=
  issueWith (.shadow o) noCause (fun x s => { s := State.modBand s x.key fun b => { b with shadow := o.on } }) s

end Sys2Proof.Machine
end

