-- ==== Sys2Proof/Machine/Sync.lean ====
section
/-!
DEFINITION. Barriers, phase words, waits on addresses and counters, fences, and the steps that release or end them
(spec/16_barriers_tasks_grids.md R371 to R381; spec/06_distributed_sram.md R145 to R147;
spec/14_ordering_and_visibility.md R336, R337; spec/15_control_flow.md R366; spec/07_copy_engines.md R168).
-/
namespace Sys2Proof.Machine

/-! ## Named barriers (R372 to R376) -/

/-- A lane's arrival, which may complete the generation (R373). -/
def arriveBar (key team n l : Nat) (s : State) : State :=
  match Table.find team s.teams with
  | none => s
  | some t =>
    let x := Team.bar t n
    let s1 := State.modBand s key fun b => Band.modLane b l fun y =>
      { y with la := y.la ||| BitVec.ofNat 16 (2 ^ n)
               ph := if x.p then y.ph ||| BitVec.ofNat 16 (2 ^ n) else y.ph &&& ~~~(BitVec.ofNat 16 (2 ^ n)) }
    completeBar team n (State.modTeam s1 team fun t => Team.setBar t n { x with a := x.a + 1 })

/-- The wait part of one lane: it goes on when its arrival's generation is complete, else it waits (R373). DESIGN CHOICE
(log 48): the time for which the arrival part of a BAR.sync has held the lane counts on while it then waits; R376 counts
either and does not say whether the one adds to the other. -/
def waitBar (key team n l : Nat) (s : State) : State :=
  match Table.find team s.teams, Table.find key s.bands with
  | some t, some b =>
    let y := Band.lane b l
    if y.la.getLsbD n && y.ph.getLsbD n != (Team.bar t n).p then
      teamAcquire t.pair (key / 64)
        (State.modBand s key fun b => Band.modLane b l fun y => { y with la := y.la &&& ~~~(BitVec.ofNat 16 (2 ^ n)) })
    else State.modBand s key fun b => Band.modLane b l fun y => { y with run := .barrier n, sw := true }
  | _, _ => s

/-- One lane of a BAR. -/
def barLane (x : Ix) (o : OpBar) (s : State) (l : Nat) : State :=
  match o.form with
  | .arrive => arriveBar x.key x.b.team o.b.val l s
  | .wait => waitBar x.key x.b.team o.b.val l s
  | .sync => waitBar x.key x.b.team o.b.val l (arriveBar x.key x.b.team o.b.val l s)

/-- A lane of the band is waiting. -/
def laneWaits (key : Nat) (s : State) (l : Nat) : Bool :=
  match Table.find key s.bands with
  | some b => (Band.lane b l).run != .running
  | none => false

/-- The lanes of a BAR in turn, with those that have waited: a later lane's arrival may have released them. -/
def barLanes (x : Ix) (o : OpBar) : List Nat → State → List Nat → Res
  | [], s, w => { s := s, moved := w }
  | l :: ls, s, w =>
    let s1 := barLane x o s l
    barLanes x o ls s1 (if laneWaits x.key s1 l then w ++ [l] else w)

/-- BAR (R373). -/
def execBar (o : OpBar) (s : State) : Host.Outcome State Fault Refusal :=
  issueWith (.bar o) noCause (fun x s =>
    barLanes x o x.act s []) s

/-- The threads of a team that have not exited (R375). -/
def liveThreads (s : State) (team : Nat) : Nat :=
  (State.bandsOf s team).foldl (fun n e =>
    n + ((List.range e.2.width).filter fun l => (Band.lane e.2 l).run != .exited).length) 0

/-- BARSET (R375). -/
def execBarset (o : OpBarset) (s : State) : Host.Outcome State Fault Refusal :=
  issueWith (.barset o) noCause (fun x s =>
    let n := (Ix.s x o.c.val).toNat
    let k := if n = 0 then liveThreads s x.b.team else Nat.min n 4096
    { s := completeBar x.b.team o.b.val (State.modTeam s x.b.team fun t =>
        Team.setBar t o.b.val { Team.bar t o.b.val with fixed := n != 0, n := k }) }) s

/-- The barrier at which a lane waits, or whose arrival part holds it (R376). -/
def barrierOf (s : State) (key l : Nat) : Option Nat :=
  match State.home s key with
  | none => none
  | some (b, _, g) =>
    let y := Band.lane b l
    match y.run with
    | .barrier n => some n
    | .running =>
      match (if y.barred then fetchAt s (key / 1024) g.ctx y.pc else .illegal) with
      | .ok (.bar o) => if o.form = .wait then none else some o.b.val
      | _ => none
    | _ => none

/-- BAR_WATCHDOG_EXPIRY: the lane's arrival is withdrawn and it takes BAR_WATCHDOG (R376). -/
def execBarWatchdogExpiry (band lane : Nat) (s : State) : Host.Outcome State Fault Refusal :=
  match State.home s band, barrierOf s band lane with
  | some (b, t, g), some n =>
    let y := Band.lane b lane
    if g.desc.bwdog = 0 ∨ y.waited ≤ g.desc.bwdog * 1024 then .next s
    else
      let x := Team.bar t n
      let s1 := if Lane.arrived y n x.p then
          State.modTeam (State.modBand s band fun b => Band.modLane b lane fun y =>
            { y with la := y.la &&& ~~~(BitVec.ofNat 16 (2 ^ n)) }) b.team fun t => Team.setBar t n { x with a := x.a - 1 }
        else s
      .next (deliver band y.pc s1 ⟨lane, causeBarWatchdog, BitVec.ofNat 64 n⟩)
  | _, _ => .next s

/-! ## Phase words (R379) -/

/-- Causes of PHARR and PHWAIT: a misaligned offset, a poisoned word (R379, R141). -/
def phaseCause (c : SReg) : Own := fun x s _ =>
  let o := (Ix.s x c.val).toNat
  if o % 4 ≠ 0 then some (causeMisaligned, BitVec.ofNat 64 (windowTag .loc + o))
  else
    match phaseWord x c with
    | some g => (sramMarked s g 4).map fun b => (causePoison, BitVec.ofNat 64 (windowTag .loc + o + (b - g)))
    | none => none

/-- The update of PHARR: PEND falls, and at 0 the phase flips and INIT is loaded (R378, R379). -/
def phaseNext (w : Nat) : Nat :=
  let p := w % 2 ^ 16 - 1
  if p = 0 then w / 2 ^ 16 % 2 ^ 15 + w / 2 ^ 16 % 2 ^ 15 * 2 ^ 16 + (1 - w / 2 ^ 31 % 2) * 2 ^ 31
  else p + w / 2 ^ 16 * 2 ^ 16

/-- The phase word's lanes watch it no longer. -/
def unwatchAll (x : Ix) (s : State) : State := x.act.foldl (unwatch x.key) s

/-- PHARR (R379). DESIGN CHOICE (log 48): an out-of-range PHARR reports WR = 1; R138 names a store, atomic or reduction,
and R379 makes the update of a phase word an indivisible one. -/
def execPharr (o : OpPhase) (s : State) : Host.Outcome State Fault Refusal :=
  issueWith (.pharr o) (phaseCause o.c) (fun x s =>
    match phaseWord x o.c with
    | none => { s := latchNow (Ix.ctx x) (Ix.core x) (x.act.headD 0) true (windowCode .loc) (Ix.s x o.c.val).toNat s }
    | some g =>
      { s := teamAcquire x.t.pair (Ix.core x)
          (writeSram (unwatchAll x s) g (natLe 4 (phaseNext (leNat (readSram s g 4))))) }) s

/-- PHWAIT (R379). -/
def execPhwait (o : OpPhase) (s : State) : Host.Outcome State Fault Refusal :=
  issueWith (.phwait o) (phaseCause o.c) (fun x s =>
    match phaseWord x o.c with
    | none => { s := latchNow (Ix.ctx x) (Ix.core x) (x.act.headD 0) false (windowCode .loc) (Ix.s x o.c.val).toNat s }
    | some g => { s := teamAcquire x.t.pair (Ix.core x) (senseSram g 4 (unwatchAll x s)) }) s

/-! ## WAITA and the monitor (R380, R145 to R147) -/

def waitaAddr (o : OpWaita) (x : Ix) (l : Nat) : Dword := BitVec.ofNat 64 (Ix.vw x l true o.v.val)

/-- The word of a generic address: its global form where in range, and how the access reports itself where not. -/
def waitaPlace (x : Ix) (s : State) (a : Dword) : Option Nat × Nat × Nat :=
  match windowOf a with
  | some (w, f) => (sramByte s (Ix.core x) x.t x.gr w f, windowCode w, f)
  | none => (none, 5, a.toNat)

/-- Causes of WAITA (R380). -/
def waitaCause (o : OpWaita) : Own := fun x s l =>
  let a := waitaAddr o x l
  if a.toNat % 4 ≠ 0 then some (causeMisaligned, a)
  else
    match windowOf a with
    | some (.loc, _) | some (.par, _) | some (.glb, _) =>
      match (waitaPlace x s a).1 with
      | some g => (sramMarked s g 4).map fun b => (causePoison, a + BitVec.ofNat 64 (b - g))
      | none => none
    | _ => some (causeRangeProt, a)

/-- The byte at which a lane's word lies now, where in range: an address may come into range, or leave it, while the lane
waits (R133, R147). -/
def waitaByte (s : State) (key : Nat) (w : Waita) : Option Nat :=
  match windowOf w.addr, State.home s key with
  | some (win, f), some (_, t, gr) => sramByte s (key / 64) t gr win f
  | _, _ => none

/-- The word a lane waits on; an out-of-range word reads 0 (R139). -/
def waitaValue (s : State) (key : Nat) (w : Waita) : Word :=
  match waitaByte s key w with
  | some g => BitVec.ofNat 32 (leNat (readSram s g 4))
  | none => 0

/-- The core reads the word by a message to its slice and an answer: the code's findings count (R141, R406). -/
def senseWord (key : Nat) (w : Waita) (s : State) : State :=
  match waitaByte s key w with
  | some g => chargeTrip (key / 1024) g (senseSram g 4 s)
  | none => s

/-- The word's slice can be reached from the core now (R129, R143). -/
def wordClear (s : State) (key : Nat) (w : Waita) : Bool :=
  match waitaByte s key w with
  | some g => meshClear s (key / 1024) (some (key / 64)) g
  | none => true

/-- A lane released from the waiting form goes to F, past the two slots of its WAITA. -/
def waitaOn (y : Lane) : Lane :=
  { Lane.goto y ⟨(y.pc.clause + 4 * (y.pc.slot + 3)) % 2 ^ 60, 0⟩ with run := .running }

/-- Release a lane from one of its words: the value read goes to VA + 2, and the final read is an acquire at .dev (R380). -/
def releaseWaita (key l : Nat) (w : Waita) (s : State) : State :=
  let v := waitaValue s key w
  let s1 := State.modBand s key fun b => Band.modLane b l fun y => { y with waita := y.waita.filter fun z => z.op != w.op }
  let s2 := match w.g with
    | some g => if w.polled then s1 else freeMonitor (key / 64) g s1
    | none => s1
  let s3 := State.modCore s2 (key / 64) fun c => { c with l1 := [] }
  match Table.find w.op s3.ops with
  | none => s3
  | some o =>
    let gone : Bool := match Table.find key s3.bands with
      | some b => (Band.lane b l).run == .exited
      | none => true
    let s4 := if gone then s3
      else if o.dc.isSome then landWords key l w.reg [v] w.op s3
      else holdResults key [.vec l w.reg v] (State.modBand s3 key fun b => Band.modLane b l waitaOn)
    settle w.op (State.modOp s4 w.op fun p => Op.setAcc p l fun a => { a with stage := .done })

/-- Arm one lane: register the watch, then read the word (R145). -/
def armLane (o : OpWaita) (x : Ix) (op : Nat) (s : State) (l : Nat) : State :=
  let a := waitaAddr o x l
  let p := waitaPlace x s a
  let s0 := if p.1.isNone then latchSpflag s (Ix.ctx x) (Ix.core x) op l false p.2.1 p.2.2 else s
  let m := armMonitor (Ix.core x) p.1 s0
  let w : Waita :=
    { op := op, addr := a, g := p.1, expect := Ix.v x l (o.v.val + 2)
      left := if o.limit = 0 then none else some (64 * o.limit.toNat), reg := o.v.val + 2, polled := m.1, since := 0 }
  let s1 := State.modBand m.2 x.key fun b => Band.modLane b l fun y =>
    { y with waita := y.waita ++ [w], run := if o.dc.isSome then y.run else .addr, sw := o.dc.isNone }
  let s2 := senseWord x.key w s1
  if waitaValue s2 x.key w != w.expect then releaseWaita x.key l w s2 else s2

/-- The accesses of a WAITA's operation: one for each lane, which ends at its release. -/
def waitaAccs (o : OpWaita) (x : Ix) : List Acc :=
  x.act.map fun l =>
    { lane := l, addr := waitaAddr o x l, va := 0, place := .out 0 0, size := 4, data := [], cmp := [], stage := .waiting
      value := 0 }

/-- A WAITA is held until its messages to the slices of its words pass no earlier one of its core and no crossing that is down
(R129, R143). -/
def waitaHold (o : OpWaita) (x : Ix) (s : State) : Bool :=
  x.act.any fun l => match waitaWord x l o.v.val with
    | .sram g => !meshClear s (Ix.die x) (some (Ix.core x)) g
    | _ => false

/-- WAITA (R380). -/
def execWaita (o : OpWaita) (s : State) : Host.Outcome State Fault Refusal :=
  issueUnless (.waita o) (waitaHold o) (waitaCause o) (fun x s =>
    let n := newOp (.waita o) x .waita o.dc .dev .acq (waitaAccs o x) false 0 s
    let s1 := countIssue x o.dc n.2
    let s2 := if o.dc.isSome then markPending x.key x.act [o.v.val + 2] n.1 s1 else s1
    { s := x.act.foldl (armLane o x n.1) s2, moved := if o.dc.isSome then [] else x.act }) s

/-- The lanes of a core with the words they wait on. -/
def waitersOf (s : State) (core : Nat) : List (Nat × Nat × Waita) :=
  (s.bands.filter fun e => e.1 / 64 == core).flatMap fun e =>
    e.2.lanes.flatMap fun l => l.2.waita.map fun w => (e.1, l.1, w)

/-- WATCH_WAKE: the slice's wake reaches the core, which reads the word again and releases each lane whose expected value differs
(R129, R146, R406). -/
def execWatchWake (core g : Nat) (s : State) : Host.Outcome State Fault Refusal :=
  if 64 ≤ core then .fault .noAgent
  else if !(State.core s (g / 2 ^ 26)).wakes.elem (core, g) || !meshClear s (core / 16) (some core) g then .next s
  else
    let s1 := chargeRoute (g / 2 ^ 30) (core / 16) (State.modCore s (g / 2 ^ 26) fun c =>
      { c with wakes := c.wakes.filter fun w => w != (core, g) })
    .next ((waitersOf s1 core).foldl (fun s e =>
      if e.2.2.g == some g && !e.2.2.polled then
        let s2 := senseWord e.1 e.2.2 s
        if waitaValue s2 e.1 e.2.2 != e.2.2.expect then releaseWaita e.1 e.2.1 e.2.2 s2 else s2
      else s) s1)

/-- The words of one lane. -/
def laneWords (s : State) (key l : Nat) : List Waita :=
  match Table.find key s.bands with
  | some b => (Band.lane b l).waita
  | none => []

/-- A lane reads the word again every 64 cycles: it has no watch, or its word lies out of range now (R147). -/
def pollDue (s : State) (key : Nat) (w : Waita) : Bool :=
  (w.polled || (waitaByte s key w).isNone) && decide (64 ≤ w.since) && wordClear s key w

/-- MONITOR_POLL: a lane without a watch, or with a word that has left the range, reads its word again every 64 cycles (R147).
DESIGN CHOICE (log 48): these reads, and the arming read of a restore, latch no %spflag; R139 names the access of a thread,
which is that of the first arming. -/
def execMonitorPoll (band lane : Nat) (s : State) : Host.Outcome State Fault Refusal :=
  let due := (laneWords s band lane).filter (pollDue s band)
  let s1 := State.modBand s band fun b => Band.modLane b lane fun y =>
    { y with waita := y.waita.map fun w => if pollDue s band w then { w with since := 0 } else w }
  .next (due.foldl (fun s w =>
    let s2 := senseWord band w s
    if waitaValue s2 band w != w.expect then releaseWaita band lane w s2 else s2) s1)

/-- WAITA_TIMEOUT: the limit of %brun cycles has passed (R380). -/
def execWaitaTimeout (band lane : Nat) (s : State) : Host.Outcome State Fault Refusal :=
  .next (((laneWords s band lane).filter fun w => w.left == some 0).foldl (fun s w => releaseWaita band lane w s) s)

/-! ## Latched errors and DWAIT (R168, R196, R381) -/

/-- The counters of a mask, ascending. -/
def countersOf (m : Nat) : List Nat := (List.range 6).filter fun k => m.testBit k

/-- The latch that a lane takes at a wait on these counters: the lowest-numbered that holds it (R168). -/
def latchFor (b : Band) (ks : List Nat) (l : Nat) : Option (Nat × Latch) :=
  ks.findSome? fun k =>
    match Table.find k b.latch with
    | some x => if x.mask.getLsbD l then some (k, x) else none
    | none => none

/-- Deliver one lane's latched error at a wait (R168). -/
def takeLatch (key : Nat) (pc : Pc) (ks : List Nat) (s : State) (l : Nat) : State :=
  match Table.find key s.bands with
  | none => s
  | some b =>
    match latchFor b ks l with
    | none => s
    | some (k, x) =>
      let s1 := State.modBand s key fun b => tidyLatches { b with
        latch := Table.set k { x with mask := x.mask &&& ~~~(BitVec.ofNat 64 (2 ^ l)) } b.latch }
      deliver key pc s1 ⟨l, x.cause, x.addr⟩

/-- The lanes of a wait that take a latched error. -/
def latchLanes (s : State) (key : Nat) (ks ls : List Nat) : List Nat :=
  match Table.find key s.bands with
  | none => []
  | some b => ls.filter fun l => (latchFor (tidyLatches b) ks l).isSome

/-- Every named counter reads zero. -/
def Band.drained (b : Band) (ks : List Nat) : Bool := ks.all fun k => Table.get 0 k b.dc == 0

/-- DWAIT (R381): the active lanes wait until COUNTER_WAIT_RELEASE. -/
def execDwait (o : OpDwait) (s : State) : Host.Outcome State Fault Refusal :=
  issueWith (.dwait o) noCause (fun x s =>
    { s := State.modBand s x.key fun b => Band.modLanes b x.act fun _ y => { y with run := .counter o.mask.toNat, sw := true }
      moved := x.act }) s

/-- Past a DWAIT, the last instruction of its clause. -/
def dwaitOn (y : Lane) : Lane :=
  { Lane.goto y ⟨(y.pc.clause + 4 * (y.pc.slot + 2)) % 2 ^ 60, 0⟩ with run := .running }

/-- COUNTER_WAIT_RELEASE: lanes of one DWAIT whose named counters read zero go on, or take a latched error (R381, R168). -/
def execCounterWaitRelease (band : Nat) (lanes : Dword) (s : State) : Host.Outcome State Fault Refusal :=
  match Table.find band s.bands with
  | none => .next s
  | some b =>
    .next ((lanesOf lanes).foldl (fun s l =>
      let y := Band.lane b l
      match y.run with
      | .counter m =>
        if !Band.drained b (countersOf m) then s
        else if (latchLanes s band (countersOf m) [l]).isEmpty then State.modBand s band fun b => Band.modLane b l dwaitOn
        else takeLatch band y.pc (countersOf m) s l
      | _ => s) s)

/-! ## FENCE (R336, R337) -/

def FenceKind.order : FenceKind → Order
  | .acq => .acq
  | .rel => .rel
  | .ar | .sc => .ar

/-- FENCE: a fence event in each active lane, completed by FENCE_COMPLETE. -/
def execFence (o : OpFence) (s : State) : Host.Outcome State Fault Refusal :=
  issueWith (.fence o) noCause (fun x s =>
    { s := countIssue x o.dc
        (newOp (.fence o) x (.fence o.kind) o.dc o.scope (FenceKind.order o.kind) [] false 0 s).2 }) s

/-- What a fence still waits for (R337). -/
def fenceWaits (s : State) (o : Op) : Bool :=
  s.ops.any fun e => decide (e.2.seq < o.seq) && e.2.band == o.band && (o.scope == .fab || !Op.remote e.2)
    && (lanesOf o.lanes).any fun l => Op.pendingIn e.2 l

/-- FENCE_COMPLETE (R337); a FENCE.sc, whose place in the one order of R335 binds later reads at any scope, leaves no line in
the L1. -/
def execFenceComplete (op : Nat) (s : State) : Host.Outcome State Fault Refusal :=
  match Table.find op s.ops with
  | none => .next s
  | some o =>
    match o.kind with
    | .fence k =>
      let s1 := countDown o.band o.dc { s with ops := Table.del op s.ops }
      .next (if fenceWaits s o then s
        else if k = .sc then State.modCore s1 (o.band / 64) fun c => { c with l1 := [] }
        else acquireEffect o.band o.order o.scope s1)
    | _ => .next s

/-! ## Rejoin deadlock (R366) -/

/-- The arrivals a barrier can still receive, for a band in which a lane waits on it (R366): those that stand, and those of
the team's threads that have not arrived, have not exited and do not wait at a rejoin entry of this band. -/
def canReceive (s : State) (key team n : Nat) (x : Barrier) : Nat :=
  (State.bandsOf s team).foldl (fun k e =>
    k + ((List.range e.2.width).filter fun l =>
      let y := Band.lane e.2 l
      !Lane.arrived y n x.p && y.run != .exited && !(e.1 == key && y.run == .rejoin)).length) x.a

/-- A band is in rejoin deadlock (R366). -/
def deadlocked (s : State) (key : Nat) : Bool :=
  match State.home s key with
  | none => false
  | some (b, t, _) =>
    let ls := (List.range b.width).map fun l => Band.lane b l
    ls.any (fun y => y.run == .rejoin)
      && ls.all (fun y => match y.run with
        | .exited | .rejoin => true
        | .barrier n => decide (canReceive s key b.team n (Team.bar t n) < (Team.bar t n).n)
        | _ => false)
      && ls.all fun y => y.run != .rejoin
        || !rejoinDone b (y.rdp - 1) (rejoinLanes b (y.rdp - 1) (Lane.level b y (y.rdp - 1) / 4))

/-- REJOIN_DEADLOCK_DETECT (R366). -/
def execRejoinDeadlockDetect (band : Nat) (s : State) : Host.Outcome State Fault Refusal :=
  match Table.find band s.bands with
  | none => .next s
  | some b =>
    if !deadlocked s band then .next s
    else .next ((List.range b.width).foldl (fun s l =>
      let y := Band.lane b l
      if y.run == .rejoin then deliver band y.pc s ⟨l, causeRejoinDeadlock, 0⟩ else s) s)

end Sys2Proof.Machine
end

