-- ==== Sys2Proof/Machine/System.lean ====
section
/-!
DEFINITION. TRAP, BRK, ECALL, PHINT, TMARM, FRAGQ and PWINT, and the steps of the timer and of power intents' ends
(spec/18_traps_fragments_preemption.md R434 to R438, R449; spec/17_scheduling_tokens_power.md R413, R414, R416).
-/
namespace Sys2Proof.Machine

/-- TRAP (R434): every active lane takes SWTRAP. -/
def execTrap (o : OpCImm) (s : State) : Host.Outcome State Fault Refusal :=
  issueWith (.trap o) (forAll (some (causeSwtrap, BitVec.setWidth 64 o.imm))) (fun _ s => { s := s }) s

/-- BRK (R434): every active lane takes BREAK. -/
def execBrk (o : OpCImm) (s : State) : Host.Outcome State Fault Refusal :=
  issueWith (.brk o) (forAll (some (causeBreak, BitVec.setWidth 64 o.imm))) (fun _ s => { s := s }) s

/-! ## ECALL (R435) -/

/-- RANGE_PROT, or POISON, of the fetches of SKIP in a lane (R435). -/
def ecallCause (o : OpEcall) : Own := fun x s l =>
  if o.skip then (skipReads x l).findSome? fun a =>
    match fetchWord s (Ix.die x) (Ix.ctx x) a with
    | .rangeProt => some (causeRangeProt, BitVec.ofNat 64 a)
    | .poison => some (causePoison, BitVec.ofNat 64 a)
    | _ => none
  else none

/-- The first fetch of a lane that faults at translation. -/
def ecallFault (x : Ix) (s : State) (l : Nat) : Option FaultPage :=
  (skipReads x l).findSome? fun a =>
    match fetchWord s (Ix.die x) (Ix.ctx x) a with
    | .fault k e c => some ⟨k, e, c, a, BitVec.ofNat 64 (2 ^ l), 3, faultBig s c⟩
    | _ => none

/-- One page record more, with its lanes joined to an earlier record of the same page (R105). -/
def joinPage (ps : List FaultPage) (p : FaultPage) : List FaultPage :=
  let same (q : FaultPage) : Bool :=
    if p.ps then q.ps && q.caddr / 2 ^ 21 == p.caddr / 2 ^ 21 else !q.ps && q.caddr / 2 ^ 16 == p.caddr / 2 ^ 16
  if ps.any same then ps.map fun q => if same q then { q with lanes := q.lanes ||| p.lanes } else q else ps ++ [p]

/-- The word of a fetch that succeeds. -/
def fetchedWord (s : State) (die ctx a : Nat) : Nat :=
  match fetchWord s die ctx a with
  | .ok w => w
  | _ => 0

/-- Where an ECALL sends a lane: none for the next instruction (R435). -/
def ecallPc (o : OpEcall) (x : Ix) (s : State) (l : Nat) : Option Pc :=
  let y := Band.lane x.b l
  let p := Pc.ofNat y.tepc.toNat
  if y.tcause = 0 then none
  else if o.skip then
    some (skipPc y.tcause.toNat p (fetchedWord s (Ix.die x) (Ix.ctx x) p.clause) (fetchedWord s (Ix.die x) (Ix.ctx x) (slotVa p)))
  else some p

/-- An empty log: that of an instruction fetch (R440). -/
def fetchLog (m : Dword) : Log := ⟨0, 0, 0, 0, m, 0, [], [], [], false⟩

/-- ECALL (R435, R105). -/
def execEcall (o : OpEcall) (s : State) : Host.Outcome State Fault Refusal :=
  issueWith (.ecall o) (ecallCause o) (fun x s =>
    let bad := if o.skip then x.act.filter (fun l => (ecallFault x s l).isSome) else []
    let ok := x.act.filter fun l => !bad.elem l && (ecallPc o x s l).isSome
    let s2 := State.modBand s x.key fun b => Band.modLanes b ok fun l y =>
      match ecallPc o x s l with
      | some p => Lane.goto y p
      | none => y
    let ps := (bad.filterMap (ecallFault x s)).foldl joinPage []
    { s := if bad.isEmpty then s2 else formFragment x.key x.pc (fetchLog (maskOf bad)) 3 ps none none s2
      moved := ok ++ bad }) s

/-! ## PHINT (R449) -/

/-- PHINT: stops its band for a requested save; the saved PC is the next instruction's (R448, R449). -/
def execPhint (o : OpPhint) (s : State) : Host.Outcome State Fault Refusal :=
  issueWith (.phint o)
    (fun x _ _ => if x.gr.hdr.nlive ≤ o.n.toNat then some (causeIllegalInsn, 0) else none)
    (fun x s =>
      if phintStops x then
        { s := State.modBand s x.key fun b =>
            Band.modLanes { b with stopped := true, record := some o.n.toNat } x.sel fun _ y =>
              { Lane.step y x.hdr 1 false with sw := true, entry := .check }
          moved := x.sel }
      else { s := s }) s

/-! ## The timer and FRAGQ (R436, R437) -/

/-- TMARM (R436). -/
def execTmarm (o : OpSwitchC) (s : State) : Host.Outcome State Fault Refusal :=
  issueWith (.tmarm o) noCause (fun x s =>
    let n := Ix.sw x true o.c.val
    { s := State.modBand s x.key fun b =>
        if o.off || n == 0 then { b with armed := false }
        else { b with armed := true, deadline := b.brun + BitVec.ofNat 64 n } }) s

/-- The lanes of the band parked in a fragment in state PARKED, READY or LANDING (R437). -/
def parkedLanes (s : State) (key : Nat) : Dword :=
  (State.core s (key / 64)).frags.foldl (fun m e =>
    if e.2.band == key && e.2.state != .replaying then m ||| e.2.lanes else m) 0

/-- FRAGQ (R437). -/
def execFragq (o : OpCS) (s : State) : Host.Outcome State Fault Refusal :=
  issueWith (.fragq o) noCause (fun x s =>
    { s := holdResults x.key (heldS (maskOf x.act) o.c.val true (parkedLanes s x.key).toNat) s }) s

/-! ## Power intents of bands (R414, R416) -/

/-- The core clock of a die in MHz (R18). -/
def coreMhz (s : State) (d : Nat) : Nat := 50 * Nat.max 20 (Nat.min 39 (State.die s d).coreclk.toNat)

/-- Whether PWINT intents open trough plans (R409 PLAN). -/
def Hub.planOn (h : Hub) : Bool := h.pwrgov.getLsbD 43

/-- The open intents: those of the bands, and those of teams that migrate (R414). -/
def openIntents (s : State) : List Nat :=
  s.bands.filterMap (fun e => e.2.intent) ++ s.saved.flatMap fun v => v.2.bands.filterMap fun b => b.band.intent

/-- A plan opens with the first open intent, at the grant then in force, and closes with the last (R416). -/
def refreshPlan (s : State) : State :=
  let any := Hub.planOn s.hub && !(openIntents s).isEmpty
  match s.hub.plan, any with
  | none, true => State.modHub s fun h => { h with plan := some h.g, planSaid := 0 }
  | some _, false => State.modHub s fun h => { h with plan := none, planSaid := 0 }
  | _, _ => s

/-- The end of an intent of `l` core cycles opened now (R414). -/
def intentEnd (s : State) (die l : Nat) : Nat :=
  s.hub.k + (l * 1000 + coreMhz s die - 1) / coreMhz s die

/-- PWINT (R414). -/
def execPwint (o : OpSwitchC) (s : State) : Host.Outcome State Fault Refusal :=
  issueWith (.pwint o) noCause (fun x s =>
    let l := (Ix.s x o.c.val).toNat
    { s := refreshPlan (State.modBand s x.key fun b =>
        if o.off then { b with intent := none }
        else if l = 0 then b else { b with intent := some (intentEnd s (Ix.die x) l) }) }) s

/-- PWINT_INTENT_EXPIRY: a band's intent closes when the hub cycle E passes (R414). -/
def execPwintIntentExpiry (band : Nat) (s : State) : Host.Outcome State Fault Refusal :=
  match Table.find band s.bands with
  | none => .next s
  | some b =>
    match b.intent with
    | none => .next s
    | some e =>
      if e < s.hub.k then .next (refreshPlan (State.modBand s band fun b => { b with intent := none })) else .next s

end Sys2Proof.Machine
end

