-- ==== Sys2Proof/Machine/Tasks.lean ====
section
/-!
DEFINITION. Tasks, launches and completion bitmaps as threads use them
(spec/16_barriers_tasks_grids.md R382 to R387, R393 to R395).
-/
namespace Sys2Proof.Machine

/-! ## Tasks (R382 to R386) -/

/-- The eight words of a lane's task. -/
def taskWords (x : Ix) (v : VReg) (l : Nat) : List Word := (List.range 8).map fun j => Ix.v x l (v.val + j)

/-- The 64 bytes of a deque entry (R382). -/
def taskBytes (t : Task) : List Byte := t.words.flatMap (fun w => natLe 4 w.toNat) ++ natLe 4 t.gridid ++ natLe 1 t.ctx ++ zeros 27

/-- How many entries two deques begin with alike. -/
def sameTop : List Task → List Task → Nat
  | x :: a, y :: b => if x = y then sameTop a b + 1 else 0
  | _, _ => 0

/-- The byte of a core's slice where its deque begins (R14). -/
def dequePlace (core : Nat) : Nat := core * 2 ^ 26 + 0x3F80000

/-- Change a core's deque. Its entries lie in the reserved part of the slice, the top one first; no rule says at which of
the 4,096 places (log 3). The entries that change are written (R141). -/
def setDeque (core : Nat) (q : List Task) (s : State) : State :=
  let old := (State.core s core).deque
  let n := sameTop old q
  State.modCore (writeSram s (dequePlace core + 64 * n) ((q.drop n).flatMap taskBytes ++ zeros (64 * (old.length - q.length))))
    core fun c => { c with deque := q }

/-- A core's deque is read for its entries: what the code of their bank words finds counts (R141). -/
def senseDeque (core : Nat) (s : State) : State := senseSram (dequePlace core) (64 * (State.core s core).deque.length) s

/-- SPAWN (R383): pushes at the bottom, in ascending lane order; complete at once. -/
def execSpawn (o : OpTask) (s : State) : Host.Outcome State Fault Refusal :=
  issueWith (.spawn o) noCause (fun x s =>
    { s := setDeque (Ix.core x) ((State.core s (Ix.core x)).deque
        ++ x.act.map fun l => ⟨taskWords x o.v l, x.gr.desc.gridid, Ix.ctx x⟩) s }) s

/-- An entry of the band's grid (R382, R390). -/
def ofGrid (x : Ix) (t : Task) : Bool := t.gridid == x.gr.desc.gridid && t.ctx == Ix.ctx x

/-- Take the bottom-most entry of the grid. -/
def takeBottom (x : Ix) (q : List Task) : Option (Task × List Task) :=
  match q.reverse.find? (ofGrid x) with
  | none => none
  | some t => some (t, (q.reverse.erase t).reverse)

/-- Take the `n` oldest entries of the grid, from the top. -/
def takeTop (x : Ix) : Nat → List Task → List Task × List Task
  | 0, q => ([], q)
  | _, [] => ([], [])
  | n + 1, t :: q =>
    if ofGrid x t then
      let r := takeTop x n q
      (t :: r.1, r.2)
    else
      let r := takeTop x (n + 1) q
      (r.1, t :: r.2)

/-- Serve lanes from the own deque: what each gets, and the lanes left (R384 step 1). -/
def serveOwn (x : Ix) : List Nat → State → List (Nat × Task) → List (Nat × Task) × List Nat × State
  | [], s, got => (got, [], s)
  | l :: ls, s, got =>
    match takeBottom x (State.core s (Ix.core x)).deque with
    | none => (got, l :: ls, s)
    | some (t, q) => serveOwn x ls (setDeque (Ix.core x) q s) (got ++ [(l, t)])

/-- The victims of R385, in order. -/
def victims (core : Nat) : List Nat :=
  let d := core / 16
  let q := core % 16
  ((List.range 16).drop 1).map (fun k => 16 * d + (q + k) % 16)
    ++ [1, 2, 3].flatMap fun e => (List.range 16).map fun k => 16 * (d ^^^ e) + (q + k) % 16

/-- The messages of a probe of a victim and of its answer, with the tasks it gives (R406; log 51). -/
def chargeProbe (core v n : Nat) (s : State) : State :=
  chargeBytes (v / 16) (core / 16) (Nat.max 1 (64 * n)) (chargeRoute (core / 16) (v / 16) s)

/-- Probe victims for the lanes still unserved (R384 step 2). -/
def steal (x : Ix) : List Nat → List Nat → State → List (Nat × Task) → List (Nat × Task) × State
  | [], _, s, got => (got, s)
  | v :: vs, ls, s, got =>
    if ls.isEmpty then (got, s)
    else
      let q := (State.core s v).deque
      let m := (q.filter (ofGrid x)).length
      let r := takeTop x (Nat.min ((m + 1) / 2) (ls.length + dequeRoom s (Ix.core x))) q
      let s0 := chargeProbe (Ix.core x) v r.1.length (senseDeque v s)
      if r.1.isEmpty then steal x vs ls s0 got
      else
        let s1 := setDeque v r.2 s0
        steal x vs (ls.drop r.1.length) (setDeque (Ix.core x) ((State.core s1 (Ix.core x)).deque ++ r.1.drop ls.length) s1)
          (got ++ ls.zip r.1)

/-- The value of a task in eight registers. -/
def taskValue (ws : List Word) : Nat := ws.foldr (fun w n => w.toNat + 2 ^ 32 * n) 0

/-- A TAKE is held until the acquires before it are performed, so that it meets the entries of every SPAWN that happens before
it (R343, R482), and until its probes of other cores pass no earlier message and no crossing that is down (R129, R143). -/
def takeHold (x : Ix) (s : State) : Bool :=
  !x.act.isEmpty && ((s.ops.any fun e => e.2.band == x.key && Order.acquires e.2.order && x.act.any fun l => Op.pendingIn e.2 l)
    || (decide (((State.core s (Ix.core x)).deque.filter (ofGrid x)).length < x.act.length)
      && (victims (Ix.core x)).any fun v => !meshClear s (Ix.die x) (some (Ix.core x)) (v * 2 ^ 26)))

/-- TAKE (R384): the tasks leave their deques at issue; each lane's lands later. -/
def execTake (o : OpTask) (s : State) : Host.Outcome State Fault Refusal :=
  issueUnless (.take o) takeHold noCause (fun x s =>
    let a := serveOwn x x.act (senseDeque (Ix.core x) s) []
    let b := steal x (victims (Ix.core x)) a.2.1 a.2.2 a.1
    let as := x.act.map fun l =>
      { lane := l, addr := 0, va := 0, place := .out 0 0, size := 32, data := [], cmp := [], stage := .performed
        value := match b.1.find? fun e => e.1 == l with
          | some e => taskValue e.2.words
          | none => 0 : Acc }
    let n := newOp (.take o) x (.take o.v.val) o.dc .dev .acq as false 0 b.2
    { s := markPending x.key x.act (destRegs o.v 8) n.1 (countIssue x o.dc n.2) }) s

/-! ## LAUNCH (R387) -/

/-- Causes of an access to bytes of one line at an address every active lane names: alignment, range, poison. DESIGN CHOICE
(log 48): a misaligned LAUNCH reports its descriptor's address, and a misaligned CBSET that of the dword it would change;
R387 and R393 give MISALIGNED no address. -/
def lineCause (addr : Ix → Nat) (align n need : Nat) : Own := fun x s _ =>
  let a := addr x
  if a % align ≠ 0 then some (causeMisaligned, BitVec.ofNat 64 a)
  else
    match lineLook x s a n need false with
    | none => some (causeRangeProt, BitVec.ofNat 64 a)
    | some (.poison b) => some (causePoison, BitVec.ofNat 64 (a + b))
    | _ => none

/-- All the active lanes park in one fragment at the instruction (R289, R387, R393). -/
def parkAll (i : Instr) (x : Ix) (ps : List FaultPage) (dc : Dc) (s : State) : Res :=
  { s := formFragment x.key x.pc (logOf i x 0) 0 ps dc (x.replay.map fun r => r.1) s, moved := x.act }

/-- The page record of a read that faults for all the active lanes. -/
def pageOf (x : Ix) (s : State) (a kind e acc : Nat) : FaultPage :=
  let c := (rangeCheck (State.ctx s (Ix.ctx x)) a 0).getD 0
  ⟨kind, e, c, a, maskOf x.act, acc, faultBig s c⟩

/-- A counted instruction parked before it has counted counts now: its count is held by the fragment (R185). -/
def countParked (x : Ix) (dc : Dc) (s : State) : State := countIssue x dc s

/-- An instruction that completes in this step: a replay gives back the count its fragment held (R185). -/
def countAtOnce (x : Ix) (dc : Dc) (s : State) : State := if Ix.again x then countDown x.key dc s else s

/-- LAUNCH (R387): the grid is queued or refused at once. -/
def execLaunch (o : OpEng2) (s : State) : Host.Outcome State Fault Refusal :=
  issueWith (.launch o) (lineCause (launchAddr o) 128 128 permRd) (fun x s =>
    let a := launchAddr o x
    match lineLook x s a 128 permRd false with
    | some (.ok bs) => { s := countAtOnce x o.dc (Try.state (launchGrid (Ix.ctx x) (launchQueue o x) bs none s)) }
    | some (.fault k e) => parkAll (.launch o) x [pageOf x s a k e 0] o.dc (countParked x o.dc s)
    | _ => { s := s }) s

/-! ## Bitmaps (R393 to R395) -/

/-- CBSET (R394): through the L1, where it holds the line (R123). -/
def execCbset (o : OpEng2) (s : State) : Host.Outcome State Fault Refusal :=
  issueWith (.cbset o) (lineCause (cbsetAddr o) 8 8 cbsetNeed) (fun x s =>
    let a := cbsetAddr o x
    match lineLook x s a 8 cbsetNeed true, rangeCheck (State.ctx s (Ix.ctx x)) a cbsetNeed with
    | some (.ok bs), some c =>
      { s := countAtOnce x o.dc
          (writeThrough (Ix.core x) s c (natLe 8 (leNat bs ||| 2 ^ ((Ix.s x o.b.val).toNat % 64)))).2 }
    | some (.fault k e), _ => parkAll (.cbset o) x [pageOf x s a k e 2] o.dc (countParked x o.dc s)
    | _, _ => { s := s }) s

/-- Bits of a dword that belong to a range. -/
def rangeBits (first count i : Nat) : Nat :=
  (List.range 64).foldl (fun m j => if first ≤ 64 * i + j ∧ 64 * i + j < first + count then m + 2 ^ j else m) 0

/-- Causes of CBWAIT: the base's alignment, then the first dword out of range (R393). DESIGN CHOICE (log 48): MISALIGNED
reports the base, for which R393 gives no address. -/
def cbwaitCause (o : OpEng3) : Own := fun x s _ =>
  let b := Ix.sw x true o.a.val
  if b % 8 ≠ 0 then some (causeMisaligned, BitVec.ofNat 64 b)
  else
    ((rangeDwords b (Ix.s x o.b.val).toNat (Ix.s x o.c.val).toNat).find? fun d =>
      !decide (d < 2 ^ 60) || (rangeCheck (State.ctx s (Ix.ctx x)) d permRd).isNone).map fun d =>
        (causeRangeProt, BitVec.ofNat 64 d)

/-- The pages of a range that fault, each by its first dword. -/
def cbwaitPages (o : OpEng3) (x : Ix) (s : State) : List FaultPage :=
  ((cbwaitChips o x s).filterMap fun d =>
    match lookMem s (Ix.die x) false d.2 8 with
    | .fault k e => some (pageOf x s d.1 k e 0)
    | _ => none).foldl joinPage []

/-- CBWAIT (R395): with no bits it is complete at once; else CBWAIT_POLL reads the range, first now. -/
def execCbwait (o : OpEng3) (s : State) : Host.Outcome State Fault Refusal :=
  issueWith (.cbwait o) (cbwaitCause o) (fun x s =>
    let b := Ix.sw x true o.a.val
    let f := (Ix.s x o.b.val).toNat
    let c := (Ix.s x o.c.val).toNat
    let ps := cbwaitPages o x s
    if c = 0 then { s := countAtOnce x o.dc s }
    else if !ps.isEmpty then parkAll (.cbwait o) x ps o.dc (countParked x o.dc s)
    else
      let n := newOp (.cbwait o) x (.cbwait b f c (rangeIndices f c)) o.dc .dev .acq [] false 0 s
      { s := State.modOp (countIssue x o.dc n.2) n.1 fun p => { p with since := 256 } }) s

/-- A read of 8 bytes by a CBWAIT waits for an earlier event of its lanes (R327). -/
def pollWaits (s : State) (o : Op) (c : Nat) : Bool :=
  (lanesOf o.lanes).any fun l => eventWaits s ⟨o.band, l, o.seq, o.order, o.scope, false, .mem c, 8⟩

/-- Read dwords of a range: those not found set; whether one of them could not be read now, its line being on its way or an
earlier event of the lanes standing before it; and the state the reads leave. -/
def readRange (o : Op) (ctx base first count : Nat) : List Nat → State → List Nat × Bool × State
  | [], s => ([], false, s)
  | i :: is, s =>
    let r := readRange o ctx base first count is s
    match rangeCheck (State.ctx s ctx) (bitmapDword base (64 * i)) permRd with
    | none => (i :: r.1, r.2)
    | some c =>
      if pollWaits s o c then (i :: r.1, true, r.2.2)
      else
        match readMem (o.band / 1024) r.2.2 c 8 with
        | (.ok bs, s1) =>
          (if leNat bs &&& rangeBits first count i = rangeBits first count i then r.1 else i :: r.1, r.2.1, s1)
        | (.busy, s1) => (i :: r.1, true, s1)
        | (_, s1) => (i :: r.1, r.2.1, s1)

/-- CBWAIT_POLL: reads the range again, every 256 cycles; complete when every bit is set (R395). A dword whose page faults
is read at the next poll (log 17). -/
def execCbwaitPoll (op : Nat) (s : State) : Host.Outcome State Fault Refusal :=
  match Table.find op s.ops with
  | none => .next s
  | some o =>
    match o.kind, State.home s o.band with
    | .cbwait base first count left, some (_, _, g) =>
      if o.since < 256 then .next s
      else
        match readRange o g.ctx base first count left s with
        | ([], _, s1) => .next (acquireEffect o.band .acq .dev (countDown o.band o.dc { s1 with ops := Table.del op s1.ops }))
        | (ds, late, s1) => .next (State.modOp s1 op fun p =>
            { p with since := if late then p.since else 0, kind := .cbwait base first count ds })
    | _, _ => .next s

end Sys2Proof.Machine
end

