-- ==== Sys2Proof/Machine/Tiles.lean ====
section
/-!
DEFINITION. Tile loads and stores, zeroing, and the steps by which rows move; the landing and acknowledgement of every
kind of operation (spec/12_tiles_and_matrix.md R277 to R291; spec/02_clauses_and_formats.md R37, R38).
-/
namespace Sys2Proof.Machine

/-! ## Shapes and elements (R277, R278) -/

def shapeEw (w : Nat) : Nat := w % 8
def shapeRows (w : Nat) : Nat := w / 16 % 128
def shapeRlen (w : Nat) : Nat := w / 2 ^ 16 % 32

/-- A shape is valid (R278). -/
def shapeOk (w : Nat) : Bool :=
  decide (shapeEw w ≤ 3) && !w.testBit 3 && decide (1 ≤ shapeRows w) && decide (shapeRows w ≤ 64)
    && w / 2 ^ 11 % 32 == 0 && decide (1 ≤ shapeRlen w) && decide (shapeRlen w ≤ 16) && w / 2 ^ 21 == 0

/-- Element width in bits. -/
def ewBits (ew : Nat) : Nat := 4 * 2 ^ ew

/-- Element `e` of a row of bytes read by `rd` from offset `base`, with elements of `w` bits. -/
def elemAt (rd : Nat → Byte) (base w e : Nat) : Nat :=
  let o := base + e * w / 8
  if w = 4 then (rd o).toNat / 2 ^ (e % 2 * 4) % 16
  else (List.range (w / 8)).foldl (fun n i => n + (rd (o + i)).toNat * 256 ^ i) 0

/-- Write element `e` of a tile row. -/
def setElem (m : Table Byte) (base w e x : Nat) : Table Byte :=
  let o := base + e * w / 8
  if w = 4 then
    let b := (Memory.read m o).toNat
    Memory.write m o (BitVec.ofNat 8 (if e % 2 = 0 then b / 16 * 16 + x % 16 else b % 16 + x % 16 * 16))
  else Memory.store m o (natLe (w / 8) x)

/-! ## Rows at issue (R287, R288) -/

/-- The shape an instruction captures: its log's at a replay (R279, R289). -/
def capturedShape (x : Ix) (t : Nat) : Nat :=
  match x.replay with
  | some (_, f) => f.log.shape
  | none => (Team.tile x.t (Ix.core x) t).shape.toNat

def tileAddr (o : OpTileMem) (x : Ix) : Nat := Ix.sw x true o.a.val
def tileStride (o : OpTileMem) (x : Ix) : Int := (Ix.s x o.s.val).toInt

/-- Memory rows a transfer touches and bytes of each (R287). -/
def rowCount (tr : Bool) (w : Nat) : Nat := if tr then shapeRlen w * 16 * 8 / ewBits (shapeEw w) else shapeRows w
def rowBytes (tr : Bool) (w : Nat) : Nat :=
  if tr then (shapeRows w * ewBits (shapeEw w) + 7) / 8 else shapeRlen w * 16

def rowAddr (a : Nat) (st : Int) (r : Nat) : Nat := (((a : Int) + r * st) % ((2 ^ 64 : Nat) : Int)).toNat

def tileRows (o : OpTileMem) (x : Ix) (w : Nat) : List (Nat × Nat) :=
  (List.range (rowCount o.tr w)).map fun r => (r, rowAddr (tileAddr o x) (tileStride o x) r)

/-- The 16-byte groups of a row of `n` bytes: address and bytes of each. -/
def rowGroups (a n : Nat) : List (Nat × Nat) :=
  (List.range ((n + 15) / 16)).map fun i => ((a + 16 * i) % 2 ^ 64, Nat.min 16 (n - 16 * i))

/-- The lowest byte of a group that fails its check (R80, R82, R90, R91). -/
def groupFault (x : Ix) (s : State) (need : Nat) (p : Nat × Nat) : Option Nat :=
  match windowOf (BitVec.ofNat 64 p.1) with
  | some (.mem, v) => firstFailing (State.ctx s (Ix.ctx x)) v need p.2
  | some (.prv, _) => some p.1
  | none => some p.1
  | _ => none

def leastOf (l : List Nat) : Option Nat := l.foldl (fun m x => match m with
  | none => some x
  | some y => some (Nat.min x y)) none

/-- RANGE_PROT of a tile transfer: at the lowest byte that fails (R288). -/
def tileRange (o : OpTileMem) (x : Ix) (s : State) (need w : Nat) : Option Nat :=
  match windowOf (BitVec.ofNat 64 (tileAddr o x)) with
  | some (.prv, _) => some (tileAddr o x)
  | _ => leastOf ((tileRows o x w).flatMap fun r => (rowGroups r.2 (rowBytes o.tr w)).filterMap (groupFault x s need))

/-- The chip address of a byte at a generic address, for the lock check and translation. -/
def byteChip (x : Ix) (s : State) (need a : Nat) : Option Nat := chipOf (accessPlace x s 0 a need)

/-- RANGE_CONFLICT of a tile transfer (R164, R288). -/
def tileLocked (o : OpTileMem) (x : Ix) (s : State) (write : Bool) (need w : Nat) : Option Nat :=
  if (State.core s (Ix.core x)).locks.isEmpty then none
  else leastOf ((tileRows o x w).flatMap fun r =>
    ((List.range (rowBytes o.tr w)).map fun i => r.2 + i).filter fun b =>
      match byteChip x s need b with
      | some c => (lockedByte s (Ix.core x) write c 1).isSome
      | none => false)

/-- Causes of TLD and TST (R288). -/
def tileCause (o : OpTileMem) (write : Bool) : Own := fun x s _ =>
  let a := tileAddr o x
  let w := capturedShape x o.t.val
  let need := if write then permWr else permRd
  if a % 16 ≠ 0 ∨ tileStride o x % 16 ≠ 0 then some (causeMisaligned, BitVec.ofNat 64 a)
  else if !shapeOk w then some (causeMisaligned, BitVec.ofNat 64 w)
  else
    match tileRange o x s need w with
    | some b => some (causeRangeProt, BitVec.ofNat 64 b)
    | none =>
      match tileLocked o x s write need w with
      | some b => some (causeRangeConflict, BitVec.ofNat 64 b)
      | none =>
        if write then
          match (Team.tile x.t (Ix.core x) o.t.val).poison with
          | some p => some (causePoison, p)
          | none => none
        else none

/-- The memory pages a transfer touches, each with the first byte of it that is met (R105, R289). -/
def tilePages (o : OpTileMem) (x : Ix) (s : State) (need w : Nat) : List (Nat × Nat) :=
  ((tileRows o x w).flatMap fun r => (rowGroups r.2 (rowBytes o.tr w)).map Prod.fst).foldl (fun ps b =>
    match accessPlace x s 0 b need with
    | .mem c => if ps.any (fun p => p.2 / 2 ^ 16 == c / 2 ^ 16) then ps else ps ++ [(b, c)]
    | _ => ps) []

def writeKind (write : Bool) : ReqKind := if write then .write else .read

/-- Translate every page (R289): the places of the pages, by unit × 2^40 + offset, and the faults. -/
def translatePages (x : Ix) (write : Bool) : List (Nat × Nat) → State → Table Nat × List FaultPage × State
  | [], s => ([], [], s)
  | (b, c) :: ps, s =>
    match xlate (Ix.die x) c (writeKind write) s with
    | (.ok u o, s1) =>
      let r := translatePages x write ps s1
      (Table.set (c / 2 ^ 16) (unitKey u (o - c % 2 ^ 16)) r.1, r.2)
    | (.fault k e, s1) =>
      let r := translatePages x write ps s1
      (r.1, ⟨k, e, c, b, maskOf x.act, if write then 1 else 0, faultBig s c⟩ :: r.2.1, r.2.2)
    | (_, s1) => translatePages x write ps s1

def tileNeed (write : Bool) : Nat := if write then permWr else permRd

/-- The pages of a transfer that takes no cause. -/
def pagesOf (o : OpTileMem) (x : Ix) (s : State) (write : Bool) : List (Nat × Nat) :=
  if (tileCause o write x s 0).isNone then tilePages o x s (tileNeed write) (capturedShape x o.t.val) else []

/-- A page's translation is not known yet: a walk, or a moving page, stands before it (R103, R289). -/
def pageOpen (s : State) (die c : Nat) (write : Bool) : Bool := xlateLook s die c (writeKind write) == .wait

/-- A transfer waits for the translation of its pages (R289). -/
def tileMoving (o : OpTileMem) (x : Ix) (s : State) (write : Bool) : Bool :=
  (pagesOf o x s write).any fun p => pageOpen s (Ix.die x) p.2 write

/-- The pages of a transfer that waits are asked for (R289). -/
def askTile (o : OpTileMem) (write : Bool) (x : Ix) (s : State) : State :=
  (pagesOf o x s write).foldl (fun s p =>
    if pageOpen s (Ix.die x) p.2 write then (xlate (Ix.die x) p.2 (writeKind write) s).2 else s) s

/-- The place of a byte in a page already translated. -/
def pagePlace (t : Table Nat) (p : Place) : Nat :=
  match p with
  | .mem c => Table.get 0 (c / 2 ^ 16) t
  | _ => 0

/-- The rows of a transfer as accesses: one for each memory row. A row keeps the places of the page it begins in, and of the
one it ends in, as its value. -/
def rowAccs (o : OpTileMem) (x : Ix) (s : State) (need w : Nat) (t : Table Nat) : List Acc :=
  (tileRows o x w).map fun r =>
    let n := rowBytes o.tr w
    { lane := r.1, addr := BitVec.ofNat 64 r.2, va := 0, place := accessPlace x s 0 r.2 need, size := n
      data := [], cmp := [], stage := .translated
      value := pagePlace t (accessPlace x s 0 r.2 need) + 2 ^ 64 * pagePlace t (accessPlace x s 0 ((r.2 + n - 1) % 2 ^ 64) need) }

/-- All the active lanes park at the transfer, nothing having moved (R289). -/
def parkTile (i : Instr) (x : Ix) (w : Nat) (ps : List FaultPage) (dc : Dc) (s : State) : Res :=
  { s := formFragment x.key x.pc (logOf i x w) 0 (ps.foldl joinPage []) dc (x.replay.map fun r => r.1) (countIssue x dc s)
    moved := x.act }

/-- A transfer's hold: the marks of its tile (R280), the translation of its pages (R103, R289). -/
def tileHold (o : OpTileMem) (write : Bool) (x : Ix) (s : State) : Bool :=
  !x.act.isEmpty
    && ((if write then tilePending x o.t.val else tileBusy x s o.t.val) || tileMoving o x s write)

/-- An instruction that writes a whole tile is held by its marks (R280). -/
def writeHold (t : TReg) (x : Ix) (s : State) : Bool := !x.act.isEmpty && tileBusy x s t.val

/-- TLD (R286 to R290). -/
def execTld (o : OpTileMem) (s : State) : Host.Outcome State Fault Refusal :=
  issueUnless (.tld o) (tileHold o false) (tileCause o false) (fun x s =>
    let w := capturedShape x o.t.val
    match translatePages x false (tilePages o x s permRd w) s with
    | (t, [], s1) =>
      let n := newOp (.tld o) x (.tld o.t.val o.tr (shapeRows w) (shapeRlen w * 16) (Ix.s x o.s.val).toNat (shapeEw w)) o.dc
        o.scope o.order (rowAccs o x s permRd w t) false w s1
      { s := State.modTeam (countIssue x o.dc n.2) x.b.team fun t =>
          Team.modTile t (Ix.core x) o.t.val fun y => { y with bytes := [], pend := some n.1 } }
    | (_, ps, s1) => parkTile (.tld o) x w ps o.dc s1) s

/-- TST (R286 to R290). -/
def execTst (o : OpTileMem) (s : State) : Host.Outcome State Fault Refusal :=
  issueUnless (.tst o) (tileHold o true) (tileCause o true) (fun x s =>
    let w := capturedShape x o.t.val
    match translatePages x true (tilePages o x s permWr w) s with
    | (t, [], s1) =>
      let n := newOp (.tst o) x (.tst o.t.val (shapeRows w) (shapeRlen w * 16) (Ix.s x o.s.val).toNat) o.dc o.scope o.order
        (rowAccs o x s permWr w t) false w s1
      { s := State.modTeam (countIssue x o.dc n.2) x.b.team fun t =>
          Team.modTile t (Ix.core x) o.t.val fun y => { y with readers := y.readers + 1 } }
    | (_, ps, s1) => parkTile (.tst o) x w ps o.dc s1) s

/-- TZERO (R291). -/
def execTzero (o : OpTile) (s : State) : Host.Outcome State Fault Refusal :=
  issueUnless (.tzero o) (writeHold o.t) noCause (fun x s =>
    let a : Acc := ⟨0, 0, 0, .out 0 0, 0, [], [], .performed, 0⟩
    let n := newOp (.tzero o) x (.tzero o.t.val) none .band .rlx [a] false 0 s
    { s := State.modTeam n.2 x.b.team fun t => Team.modTile t (Ix.core x) o.t.val fun y => { y with pend := some n.1 } }) s

/-! ## Moving one row (R287, R290) -/

/-- The place of a 16-byte group for the team as it stands now. -/
def groupPlace (s : State) (key : Nat) (t : Team) (g : Grid) (need a : Nat) : Place :=
  match windowOf (BitVec.ofNat 64 a) with
  | some (.mem, v) =>
    match rangeCheck (State.ctx s g.ctx) v need with
    | some c => .mem c
    | none => .out 4 v
  | some (w, f) =>
    match sramByte s (key / 64) t g w f with
    | some b => .sram b
    | none => .out (windowCode w) f
  | none => .out 5 a

/-- A group of a row as it is to be moved: its offset in the row, address, bytes and place. -/
structure Part where
  o : Nat
  a : Nat
  n : Nat
  place : Place
  deriving DecidableEq, Repr

def rowParts (s : State) (key : Nat) (t : Team) (g : Grid) (need : Nat) (a : Acc) : List Part :=
  (rowGroups a.addr.toNat a.size).mapIdx fun i p => ⟨16 * i, p.1, p.2, groupPlace s key t g need p.1⟩

/-- Where a group's line lies, as the translation of its row found it. -/
def partMem (a : Acc) (c : Nat) : Nat :=
  (match a.place with
    | .mem d => if d / 2 ^ 16 = c / 2 ^ 16 then a.value % 2 ^ 64 else a.value / 2 ^ 64
    | _ => a.value / 2 ^ 64) + c % 2 ^ 16

/-- A row waits for earlier events of its lanes, and for an earlier FENCE of its band (R290, R327, R342). -/
def rowWaits (s : State) (o : Op) (write : Bool) (ps : List Part) : Bool :=
  (s.ops.any fun e => decide (e.2.seq < o.seq) && e.2.band == o.band && match e.2.kind with
    | .fence _ => true
    | _ => false)
    || (lanesOf o.lanes).any fun l => ps.any fun p => eventWaits s ⟨o.band, l, o.seq, o.order, o.scope, write, p.place, p.n⟩

/-- A group can be moved by a core now: its line is in the die's L2, or its slice can be reached (R129, R143). -/
def partReady (s : State) (core : Nat) (write : Bool) (p : Part) : Bool :=
  match p.place with
  | .mem c => holdsLine (State.die s (core / 16)) (lineOf c) write
  | .sram g => meshClear s (core / 16) (some core) g
  | _ => true

/-- Ask for the lines of a row. -/
def askRow (die : Nat) (write : Bool) (a : Acc) (ps : List Part) (s : State) : State :=
  ps.foldl (fun s p =>
    match p.place with
    | .mem c => askPlaced die (lineOf c) write (partMem a c) s
    | _ => s) s

/-- The charges of a row's messages to the slices of other dies and back (R406). -/
def chargeRow (die : Nat) (ps : List Part) (s : State) : State :=
  (ps.foldl (fun t p => match p.place with
    | .sram g => NatSet.add (g / 2 ^ 30) t
    | _ => t) []).foldl (fun s d => chargeRoute d die (chargeRoute die d s)) s

/-- The lane that stands for the active ones of a tile operation. -/
def Op.first (o : Op) : Nat := (lanesOf o.lanes).headD 0

/-- Read a group: its bytes, and the address of its lowest poisoned one (R119, R141). -/
def readPart (k : Nat) (o : Op) (ctx : Nat) (p : Part) (s : State) : List Byte × Option Nat × State :=
  match p.place with
  | .mem c =>
    match Table.find (lineOf c) (State.die s (o.band / 1024)).l2 with
    | some l => ((l.bytes.drop (c % 128)).take p.n, (poisonAt l.poison (c % 128) p.n).map fun b => p.a + (b - c % 128), s)
    | none => ([], none, s)
  | .sram g =>
    let s1 := senseSram g p.n s
    (readSram s1 g p.n, (sramPoisoned s1 g p.n).map fun b => p.a + (b - g), s1)
  | .out w f => (List.replicate p.n 0, none, latchSpflag s ctx (o.band / 64) k (Op.first o) false w f)
  | .fabric _ => ([], none, s)

/-- Write a group; the core's L1 line takes it too (R123). -/
def writePart (k : Nat) (o : Op) (ctx : Nat) (bs : List Byte) (s : State) (p : Part) : State :=
  let b := (bs.drop p.o).take p.n
  match p.place with
  | .mem c =>
    match ownedLine s (o.band / 1024) (lineOf c) with
    | some l => storeLine s (o.band / 64) c l b
    | none => s
  | .sram g => writeSram s g b
  | .out w f => latchSpflag s ctx (o.band / 64) k (Op.first o) true w f
  | .fabric _ => s

/-- Read a row group by group: its bytes, with the lowest poisoned address met. -/
def readRow (k : Nat) (o : Op) (ctx : Nat) : List Part → State → List Byte × Option Nat × State
  | [], s => ([], none, s)
  | p :: ps, s =>
    let a := readPart k o ctx p s
    let r := readRow k o ctx ps a.2.2
    ((if a.2.1.isSome then List.replicate p.n 0 else a.1) ++ r.1, leastOf (a.2.1.toList ++ r.2.1.toList), r.2.2)

/-- Put a memory row's elements into column `e` of the tile rows (R287 .tr). -/
def putColumn (m : Table Byte) (bs : List Byte) (rows w e : Nat) : Table Byte :=
  (List.range rows).foldl (fun m r => setElem m (256 * r) w e (elemAt (fun i => bs.getD i 0) 0 w r)) m

/-- The end of an operation on a tile: its mark goes, its counter falls (R280, R281, R38). -/
def endTile (k : Nat) (o : Op) (n : Nat) (f : Tile → Tile) (s : State) : State :=
  match Table.find o.band s.bands with
  | none => { s with ops := Table.del k s.ops }
  | some b =>
    countDown o.band o.dc
      (State.modTeam { s with ops := Table.del k s.ops } b.team fun t => Team.modTile t (o.band / 64) n f)

/-- A row has moved; the last one ends the operation. -/
def rowDone (k n : Nat) (row : Nat) (f : Op → Tile → Tile) (s : State) : State :=
  match Table.find k s.ops with
  | none => s
  | some o =>
    let o1 := Op.setAcc o row fun a => { a with stage := .done }
    let s1 := acquireEffect o.band o.order o.scope (State.modOp s k fun _ => o1)
    if o1.accs.all Acc.over then endTile k o1 n (f o1) s1 else s1

/-- Note the lowest poisoned address that a TLD has met (R281). -/
def notePoison (k : Nat) (q : Option Nat) (s : State) : State :=
  match q with
  | none => s
  | some q => State.modOp s k fun o => { o with poison := some (match o.poison with
      | some r => if r.toNat ≤ q then r else BitVec.ofNat 64 q
      | none => BitVec.ofNat 64 q) }

/-- Put bank word `j` of a memory row into column `e` of the tile rows (R287 .tr, R479). -/
def putWord (m : Table Byte) (bs : List Byte) (rows w e j : Nat) : Table Byte :=
  ((List.range rows).filter fun r => r * w / 128 == j).foldl (fun m r =>
    setElem m (256 * r) w e (elemAt (fun i => bs.getD i 0) 0 w (r - j * 128 / w))) m

/-- Bank word `j` of one memory row of a beat is read and put into its column (R479). -/
def beatRow (k : Nat) (o : Op) (b : Band) (t : Team) (g : Grid) (n rows ew j : Nat) (s : State) (a : Acc) : State :=
  match (rowParts s o.band t g permRd a)[j]? with
  | none => s
  | some p =>
    let r := readPart k o g.ctx p s
    let s1 := if r.2.1.isSome then r.2.2
      else State.modTeam r.2.2 b.team fun t => Team.modTile t (o.band / 64) n fun y =>
        { y with bytes := putWord y.bytes r.1 rows (ewBits ew) a.lane j }
    State.modOp (notePoison k r.2.1 s1) k fun p => Op.setAcc p a.lane fun c => { c with value := j + 1 }

/-- The rows of the beat that a transposing TLD from SRAM makes next, and which bank word of each: rows in groups of 64, the
beats one at a time, in ascending order of group and of bank word (R479). A row keeps as its value how many of its bank words
have landed. -/
def nextBeat (o : Op) : Option (Nat × List Acc) :=
  (o.accs.find? fun a => !Acc.over a).map fun f => (f.value, o.accs.filter fun a => !Acc.over a && a.lane / 64 == f.lane / 64)

/-- The next beat of a transposing TLD from SRAM (R137, R479). -/
def moveBeat (k : Nat) (o : Op) (n rows ew : Nat) (s : State) : State :=
  match State.home s o.band, nextBeat o with
  | some (b, t, g), some (j, as) =>
    let ps := as.flatMap fun a => ((rowParts s o.band t g permRd a)[j]?).toList
    if rowWaits s o false ps || !ps.all (partReady s (o.band / 64) false) then s
    else
      let s1 := as.foldl (beatRow k o b t g n rows ew j) (chargeRow (o.band / 1024) ps s)
      as.foldl (fun s a => if a.size ≤ 16 * (j + 1) then rowDone k n a.lane (fun o y => { y with pend := none, poison := o.poison }) s
        else s) s1
  | _, _ => s

/-- A transposing TLD from an SRAM window (R479). -/
def byBeats (o : Op) (tr : Bool) : Bool :=
  tr && o.accs.any fun a => match windowOf a.addr with
    | some (.mem, _) | none => false
    | _ => true

/-- A row of a TLD without .tr from SRAM moves as a beat after those of the rows below it (R479). -/
def laterBeat (o : Op) (a : Acc) : Bool :=
  (match a.place with
    | .mem _ => false
    | _ => true) && o.accs.any fun b => decide (b.lane < a.lane) && !Acc.over b

/-- One row of a TLD lands (R287, R290). -/
def moveTld (k : Nat) (o : Op) (a : Acc) (n : Nat) (tr : Bool) (rows ew : Nat) (s : State) : State :=
  match State.home s o.band with
  | none => s
  | some (b, t, g) =>
    let die := o.band / 1024
    let ps := rowParts s o.band t g permRd a
    if laterBeat o a || rowWaits s o false ps then s
    else if !ps.all (partReady s (o.band / 64) false) then askRow die false a ps s
    else
      let r := readRow k o g.ctx ps (chargeRow die ps s)
      let s2 := State.modTeam r.2.2 b.team fun t => Team.modTile t (o.band / 64) n fun y =>
        if r.2.1.isSome then y
        else if tr then { y with bytes := putColumn y.bytes r.1 rows (ewBits ew) a.lane }
        else { y with bytes := Memory.store y.bytes (256 * a.lane) r.1 }
      rowDone k n a.lane (fun o y => { y with pend := none, poison := o.poison }) (notePoison k r.2.1 s2)

/-- A TST with .rel waits for the earlier accesses of its lanes (R338). -/
def tstWaits (s : State) (o : Op) : Bool :=
  Order.releases o.order && s.ops.any fun e => decide (e.2.seq < o.seq) && e.2.band == o.band
    && (o.scope == .fab || !Op.remote e.2) && (lanesOf o.lanes).any fun l => Op.pendingIn e.2 l

/-- One row of a TST is written. Where two rows overlap, the higher is written later (R287). -/
def moveTst (k : Nat) (o : Op) (a : Acc) (n : Nat) (s : State) : State :=
  let lower := o.accs.any fun b => decide (b.lane < a.lane) && !Acc.over b
  match State.home s o.band with
  | none => s
  | some (_, t, g) =>
    let die := o.band / 1024
    let ps := rowParts s o.band t g permWr a
    if lower || tstWaits s o || rowWaits s o true ps then s
    else if !ps.all (partReady s (o.band / 64) true) then askRow die true a ps s
    else
      rowDone k n a.lane (fun _ y => { y with readers := y.readers - 1 })
        (ps.foldl (writePart k o g.ctx (Memory.bytes (Team.tile t (o.band / 64) n).bytes (256 * a.lane) a.size)) (chargeRow die ps s))

/-- A tile transfer has translated the page, and has rows of it to move. -/
def Op.usesPage (page : Nat) (o : Op) : Bool :=
  match o.kind with
  | .tld .. | .tst .. => o.accs.any fun a => !Acc.over a && match a.place with
    | .mem c => decide (c / 2 ^ 16 ≤ page) && decide (page ≤ (c + a.size - 1) / 2 ^ 16)
    | _ => false
  | _ => false

/-- A TLD of a saved team has translated the page, and has rows of it to move (R301; log 49). -/
def savedUses (s : State) (page : Nat) : Bool := s.saved.any fun v => v.2.ops.any (Op.usesPage page)

/-- A tile transfer under way, or of a saved team, has translated the page, and has rows of it to move (R289, R301). -/
def tileUses (s : State) (page : Nat) : Bool := (s.ops.any fun e => Op.usesPage page e.2) || savedUses s page

/-- Elements of an accumulator tile as bytes of a tile (R291). -/
def accBytes (es : Table Word) : Table Byte :=
  es.foldl (fun m e => Memory.store m (4 * e.1) (natLe 4 e.2.toNat)) []

/-- The words of a tile's bytes. -/
def tileWords (m : Table Byte) : Table Word :=
  m.foldl (fun t e => Table.put 0 (e.1 / 4) (Table.get 0 (e.1 / 4) t + BitVec.ofNat 32 (e.2.toNat * 256 ^ (e.1 % 4))) t) []

def Core.accum (c : Core) (id : Nat) : Accum := Table.get Accum.start id c.acc
def State.modAccum (s : State) (core id : Nat) (f : Accum → Accum) : State :=
  State.modCore s core fun c => { c with acc := Table.set id (f (Core.accum c id)) c.acc }

/-- The rows of an ARD or TZERO land (R291). -/
def landTile (k : Nat) (o : Op) (s : State) : State :=
  match o.kind with
  | .tzero n => endTile k o n (fun y => { y with bytes := [], pend := none, poison := none }) s
  | .ard n id =>
    let core := o.band / 64
    let a := Core.accum (State.core s core) id
    State.modAccum (endTile k o n (fun y => { y with bytes := accBytes a.elems, pend := none, poison := none }) s) core id
      fun a => { a with busy := a.busy - 1 }
  | _ => s

/-! ## Landing and acknowledgement (R37, R38, R123) -/

/-- LONG_LATENCY_RESULT_LANDS: a lane's value, or a tile's row, lands (R37). -/
def execLongLatencyResultLands (op lane : Nat) (s : State) : Host.Outcome State Fault Refusal :=
  match Table.find op s.ops with
  | none => .next s
  | some o =>
    match Op.acc o lane with
    | none => .next s
    | some a =>
      match o.kind with
      | .tld n tr rows _ _ ew =>
        .next (if Acc.over a then s else if byBeats o tr then moveBeat op o n rows ew s else moveTld op o a n tr rows ew s)
      | .tzero _ | .ard .. => .next (landTile op o s)
      | _ => .next (if OpKind.hasResult o.kind then stepAcc op o a s else s)

/-- STORE_ACKNOWLEDGE: a write, reduction or flush of one lane, or a row of a TST, completes (R123, R177). -/
def execStoreAcknowledge (op lane : Nat) (s : State) : Host.Outcome State Fault Refusal :=
  match Table.find op s.ops with
  | none => .next s
  | some o =>
    match Op.acc o lane with
    | none => .next s
    | some a =>
      match o.kind with
      | .store => .next (stepAcc op o a s)
      | .atomic _ _ none => .next (stepAcc op o a s)
      | .flush dev l2 => .next (if Acc.over a then s else flushStep op o a dev l2 s)
      | .pref l1 => .next (if Acc.over a then s else prefStep op o a l1 s)
      | .tst n _ _ _ => .next (if Acc.over a then s else moveTst op o a n s)
      | _ => .next s

end Sys2Proof.Machine
end

