-- ==== Sys2Proof/Machine/Matrix.lean ====
section
/-!
DEFINITION. Accumulator tokens, matrix operations and their units (spec/12_tiles_and_matrix.md R282, R291 to R301).
-/
namespace Sys2Proof.Machine

open Sys2Proof.Forms

/-! ## Tokens (R291 to R293) -/

/-- The identifier in SA. -/
def accId (a : SReg) (x : Ix) : Nat := (Ix.s x a.val).toNat

def tokenOf (s : State) (core id : Nat) : Token := (Core.accum (State.core s core) id).token
def setToken (core id : Nat) (t : Token) (s : State) : State := State.modAccum s core id fun a => { a with token := t }

/-- Acquire a free accumulator: its contents are all +0. -/
def acquireAcc (core id team : Nat) (s : State) : State := State.modAccum s core id fun _ => ⟨.held team, [], 0⟩

/-- Free a token: its contents are gone. -/
def freeAcc (core id : Nat) (s : State) : State :=
  State.modCore s core fun c => { c with acc := Table.del id c.acc }

/-- The team acts on a token of its own. -/
def Token.ofTeam (t : Token) (team : Nat) : Bool :=
  match t with
  | .free => false
  | .held x | .lent x _ _ | .rst x => x == team

/-- Hold of ARD, AWR, MREL and MWAIT: the accumulator of the team's own token is busy (R291). -/
def accBusy (a : SReg) (x : Ix) (s : State) : Bool :=
  decide (accId a x < 64) && Token.ofTeam (tokenOf s (Ix.core x) (accId a x)) x.b.team
    && decide (0 < (Core.accum (State.core s (Ix.core x)) (accId a x)).busy)

/-- MACQ waits for another team's token to become FREE (R293). -/
def macqHold (o : OpTileS) (x : Ix) (s : State) : Bool :=
  !x.act.isEmpty && decide (accId o.a x < 64) && tokenOf s (Ix.core x) (accId o.a x) != .free
    && !Token.ofTeam (tokenOf s (Ix.core x) (accId o.a x)) x.b.team

def macqCause (o : OpTileS) : Own := fun x s _ =>
  if 64 ≤ accId o.a x then some (causeAccToken, 0)
  else if tokenOf s (Ix.core x) (accId o.a x) = .rst x.b.team then some (causeMxReset, 0) else none

/-- MACQ (R293). -/
def execMacq (o : OpTileS) (s : State) : Host.Outcome State Fault Refusal :=
  issueUnless (.macq o) (macqHold o) (macqCause o) (fun x s =>
    { s := if tokenOf s (Ix.core x) (accId o.a x) = .free then acquireAcc (Ix.core x) (accId o.a x) x.b.team s else s }) s

def mrelCause (o : OpTileS) : Own := fun x s _ =>
  if 64 ≤ accId o.a x then some (causeAccToken, 0)
  else
    match tokenOf s (Ix.core x) (accId o.a x) with
    | .held t | .rst t => if t = x.b.team then none else some (causeAccToken, 0)
    | _ => some (causeAccToken, 0)

def busyHold (a : SReg) (x : Ix) (s : State) : Bool := !x.act.isEmpty && accBusy a x s

/-- MREL (R293). -/
def execMrel (o : OpTileS) (s : State) : Host.Outcome State Fault Refusal :=
  issueUnless (.mrel o) (busyHold o.a) (mrelCause o) (fun x s => { s := freeAcc (Ix.core x) (accId o.a x) s }) s

/-! ## TFMT, ARD, AWR (R282, R284, R291) -/

/-- TFMT (R282). -/
def execTfmt (o : OpTileS) (s : State) : Host.Outcome State Fault Refusal :=
  issueWith (.tfmt o) noCause (fun x s => { s := State.modBand s x.key fun b => { b with fmt := Ix.s x o.a.val } }) s

/-- Causes of ARD and AWR from the token (R291). -/
def heldCause (a : SReg) (ard : Bool) (x : Ix) (s : State) : Option (Nat × Dword) :=
  if 64 ≤ accId a x then some (causeAccToken, 0)
  else
    match tokenOf s (Ix.core x) (accId a x) with
    | .held t => if t = x.b.team then none else some (causeAccToken, 0)
    | .rst t => some (if ard ∧ t = x.b.team then causeMxReset else causeAccToken, 0)
    | _ => some (causeAccToken, 0)

def ardHold (o : OpTileAcc) (x : Ix) (s : State) : Bool := writeHold o.t x s || busyHold o.a x s
def awrHold (o : OpTileAcc) (x : Ix) (s : State) : Bool :=
  !x.act.isEmpty && tilePending x o.t.val || busyHold o.a x s

/-- ARD (R291): 64 rows land later. -/
def execArd (o : OpTileAcc) (s : State) : Host.Outcome State Fault Refusal :=
  issueUnless (.ard o) (ardHold o) (fun x s _ => heldCause o.a true x s) (fun x s =>
    let a : Acc := ⟨0, 0, 0, .out 0 0, 0, [], [], .performed, 0⟩
    let n := newOp (.ard o) x (.ard o.t.val (accId o.a x)) none .band .rlx [a] false 0 s
    let s1 := State.modAccum n.2 (Ix.core x) (accId o.a x) fun a => { a with busy := a.busy + 1 }
    { s := State.modTeam s1 x.b.team fun t => Team.modTile t (Ix.core x) o.t.val fun y => { y with pend := some n.1 } }) s

def awrCause (o : OpTileAcc) : Own := fun x s _ =>
  match heldCause o.a false x s with
  | some c => some c
  | none => (Team.tile x.t (Ix.core x) o.t.val).poison.map fun p => (causePoison, p)

/-- AWR (R291): the group is released once the bytes are in the accumulator. -/
def execAwr (o : OpTileAcc) (s : State) : Host.Outcome State Fault Refusal :=
  issueUnless (.awr o) (awrHold o) (awrCause o) (fun x s =>
    { s := State.modAccum s (Ix.core x) (accId o.a x) fun a =>
        { a with elems := tileWords (Team.tile x.t (Ix.core x) o.t.val).bytes } }) s

/-! ## The parameter block and the formats (R282, R294) -/

/-- Element type codes of the format register. -/
def mxType (n : Nat) : Option TyCode :=
  match n with
  | 0 => some .i8
  | 10 => some .f16
  | 11 => some .bf16
  | 12 => some .e4m3
  | 13 => some .e5m2
  | 14 => some .e2m1
  | _ => none

def fmtA (w : Nat) : Nat := w % 16
def fmtB (w : Nat) : Nat := w / 16 % 16
def fmtSma (w : Nat) : Nat := w / 2 ^ 8 % 4
def fmtSmb (w : Nat) : Nat := w / 2 ^ 10 % 4

/-- G of a valid format word (R282). -/
def fmtPairs (w : Nat) : Option Nat :=
  let a := fmtA w
  let b := fmtB w
  if w / 2 ^ 12 ≠ 0 ∨ fmtSma w = 3 ∨ fmtSmb w = 3 then none
  else if 12 ≤ a ∧ a ≤ 14 ∧ 12 ≤ b ∧ b ≤ 14 then some (if a = 14 ∧ b = 14 then 768 else 384)
  else if a ≠ b ∨ fmtSma w ≠ 0 ∨ fmtSmb w ≠ 0 then none
  else if a = 0 then some 384
  else if a = 10 ∨ a = 11 then some 192
  else none

def blkTa (b : List Byte) : Nat := fieldAt b 0 1
def blkTb (b : List Byte) : Nat := fieldAt b 1 1
def blkTsa (b : List Byte) : Nat := fieldAt b 2 1
def blkTsb (b : List Byte) : Nat := fieldAt b 3 1
def blkAcc (b : List Byte) : Nat := fieldAt b 4 4
def blkM (b : List Byte) : Nat := fieldAt b 8 1
def blkN (b : List Byte) : Nat := fieldAt b 9 1
def blkSeg (b : List Byte) : Nat := fieldAt b 10 1
def blkNseg (b : List Byte) : Nat := fieldAt b 11 1
def blkZa (b : List Byte) : Bool := (fieldAt b 12 4).testBit 0

/-- The tiles in use, by operand: A, B, scales of A, scales of B (R294). -/
def tilesInUse (w : Nat) (b : List Byte) : List (Nat × Nat) :=
  [(0, blkTa b), (1, blkTb b)] ++ (if fmtSma w = 0 then [] else [(2, blkTsa b)])
    ++ (if fmtSmb w = 0 then [] else [(3, blkTsb b)])

/-- Those below the tile count. -/
def realTiles (x : Ix) (b : List Byte) : List (Nat × Nat) :=
  (tilesInUse x.b.fmt.toNat b).filter fun t => decide (t.2 < x.gr.hdr.tiles)

/-! ## MMA (R294) -/

def mmaOffset (o : OpTileS) (x : Ix) : Nat := (Ix.s x o.a.val).toNat
def mmaAddr (o : OpTileS) (x : Ix) : Dword := BitVec.ofNat 64 (windowTag .loc + mmaOffset o x)

/-- The block's place in its slice. -/
def mmaPlace (o : OpTileS) (x : Ix) : Option Nat := sramForm (Ix.core x) x.t x.gr .loc (mmaOffset o x)

def mmaBlock (o : OpTileS) (x : Ix) (s : State) : List Byte :=
  match mmaPlace o x with
  | some g => readSram s g 64
  | none => []

/-- Causes of steps 1 to 3 (R294). -/
def mmaEarly (o : OpTileS) (x : Ix) (s : State) : Option (Nat × Dword) :=
  if mmaOffset o x % 64 ≠ 0 then some (causeMisaligned, mmaAddr o x)
  else if localExtent x.t x.gr < mmaOffset o x + 64 then some (causeRangeProt, mmaAddr o x)
  else
    let id := blkAcc (mmaBlock o x s)
    if 64 ≤ id then some (causeAccToken, 0)
    else
      match tokenOf s (Ix.core x) id with
      | .held t => if t = x.b.team then none else some (causeAccToken, 0)
      | .rst t => some (if t = x.b.team then causeMxReset else causeAccToken, 0)
      | _ => some (causeAccToken, 0)

/-- The poison of step 5: of the block, or of a tile in use (R294, R281). -/
def mmaPoison (o : OpTileS) (x : Ix) (s : State) : Option Dword :=
  match mmaPlace o x with
  | none => none
  | some g =>
    match sramMarked s g 64 with
    | some b => some (mmaAddr o x + BitVec.ofNat 64 (b - g))
    | none => (realTiles x (mmaBlock o x s)).findSome? fun t => (Team.tile x.t (Ix.core x) t.2).poison

def mmaCause (o : OpTileS) : Own := fun x s _ =>
  match mmaEarly o x s with
  | some c => some c
  | none => (mmaPoison o x s).map fun p => (causePoison, p)

def Core.mxUnit (c : Core) (u : Nat) : Mx := Table.get Mx.start u c.mx
def State.modMx (s : State) (core u : Nat) (f : Mx → Mx) : State :=
  State.modCore s core fun c => { c with mx := Table.set u (f (Core.mxUnit c u)) c.mx }

/-- The block's read waits for earlier events of the lanes (R290, R327, R342). -/
def blockWaits (o : OpTileS) (x : Ix) (s : State) : Bool :=
  match mmaPlace o x with
  | none => false
  | some g => issueWaits s x.key x.act false (.sram g) 64

/-- Steps 4 and 6 (R294). -/
def mmaHold (o : OpTileS) (x : Ix) (s : State) : Bool :=
  !x.act.isEmpty && (blockWaits o x s || (mmaEarly o x s).isNone
    && (decide (0 < (Core.accum (State.core s (Ix.core x)) (blkAcc (mmaBlock o x s))).busy)
      || (realTiles x (mmaBlock o x s)).any (fun t => tilePending x t.2)
      || ((mmaPoison o x s).isNone
        && decide (8 ≤ (Core.mxUnit (State.core s (Ix.core x)) (blkAcc (mmaBlock o x s) / 16)).queue.length))))

/-- Captured shapes of the four operands; 0 for one not in use. -/
def mmaShapes (x : Ix) (b : List Byte) : List Word :=
  (List.range 4).map fun k =>
    match (realTiles x b).find? fun t => t.1 == k with
    | some t => (Team.tile x.t (Ix.core x) t.2).shape
    | none => 0

/-- A read-hold on each tile, counted. -/
def holdTiles (core : Nat) (ts : List Nat) (t : Team) : Team :=
  ts.foldl (fun t n => Team.modTile t core n fun y => { y with readers := y.readers + 1 }) t

def dropTiles (core : Nat) (ts : List Nat) (t : Team) : Team :=
  ts.foldl (fun t n => Team.modTile t core n fun y => { y with readers := y.readers - 1 }) t

/-- MMA (R294): step 7. -/
def execMma (o : OpTileS) (s : State) : Host.Outcome State Fault Refusal :=
  issueUnless (.mma o) (mmaHold o) (mmaCause o) (fun x s =>
    let b := mmaBlock o x s
    let id := blkAcc b
    let ts := (realTiles x b).map fun t => t.2
    let op : MxOp :=
      { team := x.b.team, band := x.key, ctx := Ix.ctx x, acc := id, block := b, addr := mmaAddr o x, fmt := x.b.fmt
        shapes := mmaShapes x b, tiles := ts, count := x.gr.hdr.tiles, pw := 0, checked := false }
    let s0 := match mmaPlace o x with
      | some g => senseSram g 64 s
      | none => s
    let s1 := State.modTeam (setToken (Ix.core x) id (.lent x.b.team false 0) s0) x.b.team (holdTiles (Ix.core x) ts)
    { s := State.modMx s1 (Ix.core x) (id / 16) fun m => { m with queue := m.queue ++ [op] } }) s

/-! ## MWAIT (R293, R298) -/

/-- The operation that holds a lent accumulator, executing or queued. -/
def mxOpOf (s : State) (core id : Nat) : Option MxOp :=
  let m := Core.mxUnit (State.core s core) (id / 16)
  (m.exec.toList ++ m.queue).find? fun o => o.acc == id

def mwaitCause (o : OpTileS) : Own := fun x s _ =>
  if 64 ≤ accId o.a x then some (causeAccToken, 0)
  else
    match tokenOf s (Ix.core x) (accId o.a x) with
    | .held t | .lent t _ _ => if t = x.b.team then none else some (causeAccToken, 0)
    | .rst t => some (if t = x.b.team then causeMxReset else causeAccToken, 0)
    | .free => some (causeAccToken, 0)

/-- MWAIT (R293): with the operation still to end, the lanes wait; their run goes on after it (R36). -/
def execMwait (o : OpTileS) (s : State) : Host.Outcome State Fault Refusal :=
  issueUnless (.mwait o) (busyHold o.a) (mwaitCause o) (fun x s =>
    let id := accId o.a x
    match tokenOf s (Ix.core x) id with
    | .lent t err addr =>
      if (mxOpOf s (Ix.core x) id).isSome then
        { s := State.modBand s x.key fun b =>
            Band.modLanes b x.act fun _ y => { y with pc := x.pc, run := .acc id x.hdr }
          moved := x.act }
      else
        { s := setToken (Ix.core x) id (.held t) s
          traps := if err then x.act.map fun l => ⟨l, causeEngineError, addr⟩ else [] }
    | _ => { s := s }) s

/-- The groups of a team's bands on a core that wait on an accumulator: band, PC, header, lanes. -/
def accWaiters (s : State) (core team id : Nat) : List (Nat × Pc × Nat × List Nat) :=
  ((State.bandsOf s team).filter fun e => e.1 / 64 == core).flatMap fun e =>
    ((List.range e.2.width).filterMap fun l =>
      match (Band.lane e.2 l).run with
      | .acc n h => if n = id then some ((Band.lane e.2 l).pc, h, l) else none
      | _ => none).foldl (fun gs w =>
        if gs.any fun g => g.2.1 == w.1 then
          gs.map fun g => if g.2.1 == w.1 then (g.1, g.2.1, g.2.2.1, g.2.2.2 ++ [w.2.2]) else g
        else gs ++ [(e.1, w.1, w.2.1, [w.2.2])]) []

/-- Release a waiting group past its MWAIT. -/
def passMwait (g : Nat × Pc × Nat × List Nat) (s : State) : State :=
  State.modBand s g.1 fun b => Band.modLanes b g.2.2.2 fun _ y => Lane.step { y with run := .running } g.2.2.1 1 false

/-- A waiting group takes a cause at its MWAIT. -/
def trapMwait (cause : Nat) (addr : Dword) (s : State) (g : Nat × Pc × Nat × List Nat) : State :=
  deliverAll g.1 g.2.1 (g.2.2.2.map fun l => ⟨l, cause, addr⟩) s

/-! ## Operations at their unit (R295 to R298) -/

/-- An operation leaves its unit: its tiles are no longer held for reading. -/
def leaveUnit (core u : Nat) (o : MxOp) (s : State) : State :=
  State.modTeam (State.modMx s core u fun m => { m with exec := none, stall := 0 }) o.team (dropTiles core o.tiles)

/-- An operation ends, in error or not (R296 to R298); a team that has gone frees its token (R293). -/
def endMx (core u : Nat) (o : MxOp) (err : Bool) (s : State) : State :=
  let s1 := leaveUnit core u o s
  if (Table.find o.team s1.teams).isNone then freeAcc core o.acc s1
  else
    match accWaiters s1 core o.team o.acc with
    | [] => setToken core o.acc (.lent o.team err o.addr) s1
    | g :: gs =>
      let s2 := setToken core o.acc (.held o.team) s1
      gs.foldl (fun s g => passMwait g s) (if err then trapMwait causeEngineError o.addr s2 g else passMwait g s2)

/-- Kind FORMAT, DESC or SHAPE of the first failed check (R297). -/
def descBad (o : MxOp) : Bool :=
  let b := o.block
  let w := o.fmt.toNat
  fieldAt b 12 4 / 2 != 0 || !zeroAt b 16 48 || blkM b == 0 || decide (64 < blkM b) || blkN b == 0 || decide (64 < blkN b)
    || decide (15 < blkSeg b) || blkNseg b == 0 || decide (16 < blkSeg b + blkNseg b)
    || decide (o.count ≤ blkTa b) || decide (o.count ≤ blkTb b)
    || (if fmtSma w = 0 then blkTsa b != 0 else decide (o.count ≤ blkTsa b))
    || (if fmtSmb w = 0 then blkTsb b != 0 else decide (o.count ≤ blkTsb b))

/-- An operand's shape is wrong: `rows` of the result, element type code `ty`. -/
def operandBad (shape rows segs ty : Nat) : Bool :=
  let bits := match mxType ty with
    | some t => TyCode.bits t
    | none => 0
  !shapeOk shape || ewBits (shapeEw shape) != bits || decide (shapeRows shape < rows)
    || decide (shapeRlen shape * 128 / bits < segs * 32)

/-- A scale tile's shape is wrong for mode `sm`. -/
def scaleBad (shape rows segs sm : Nat) : Bool :=
  if sm = 0 then false
  else
    !shapeOk shape || shapeEw shape != 1
      || (if sm = 1 then decide (shapeRows shape < rows) || decide (shapeRlen shape * 16 < segs)
        else decide (shapeRows shape < (rows + 31) / 32) || decide (shapeRlen shape * 16 < segs * 32))

def shapeBad (o : MxOp) : Bool :=
  let b := o.block
  let w := o.fmt.toNat
  let g := blkSeg b + blkNseg b
  let sh (k : Nat) : Nat := (o.shapes.getD k 0).toNat
  operandBad (sh 0) (blkM b) g (fmtA w) || operandBad (sh 1) (blkN b) g (fmtB w)
    || scaleBad (sh 2) (blkM b) g (fmtSma w) || scaleBad (sh 3) (blkN b) g (fmtSmb w)

def mxFailure (o : MxOp) : Option Nat :=
  if (fmtPairs o.fmt.toNat).isNone then some 1
  else if descBad o then some 2
  else if shapeBad o then some 3
  else none

/-- Record an error in MXERRc (R297). -/
def noteMxErr (core : Nat) (o : MxOp) (kind : Nat) (s : State) : State :=
  State.modCore s core fun c =>
    { c with mxerr := BitVec.ofNat 64 (kind + o.acc / 16 * 2 ^ 8 + o.acc % 16 * 2 ^ 10 + o.ctx % 256 * 2 ^ 16 + 2 ^ 32) }

/-- ZA: the elements of the result are set to zero before step 0 (R294). -/
def clearAcc (b : List Byte) (t : Table Word) : Table Word :=
  t.filter fun e => !(decide (e.1 / 64 < blkM b) && decide (e.1 % 64 < blkN b))

/-- MMA_OPERATION_START: the unit takes its next operation and checks it (R296, R297). A restored operation goes on. -/
def execMmaOperationStart (core unit : Nat) (s : State) : Host.Outcome State Fault Refusal :=
  if 64 ≤ core ∨ 4 ≤ unit then .fault .noAgent
  else
    let m := Core.mxUnit (State.core s core) unit
    if m.exec.isSome then .next s
    else
      match m.queue.find? fun o => !quiesced s o.team (64 + core) with
      | none => .next s
      | some o =>
        let s1 := State.modMx s core unit fun m => { m with exec := some { o with checked := true }, queue := m.queue.erase o }
        if o.checked then .next s1
        else
          match mxFailure o with
          | some k => .next (endMx core unit o true (noteMxErr core o k s1))
          | none =>
            .next (if blkZa o.block then State.modAccum s1 core o.acc fun a => { a with elems := clearAcc o.block a.elems }
              else s1)

/-- A tile of the operation's team; all zero once the team has gone. -/
def mxTile (s : State) (core : Nat) (o : MxOp) (n : Nat) : Table Byte :=
  match Table.find o.team s.teams with
  | some t => (Team.tile t core n).bytes
  | none => []

/-- scale() of R295. -/
def mxScale (m : Table Byte) (mode r k : Nat) : Fp.Num :=
  if mode = 0 then .fin false 1 0 false
  else if mode = 1 then Fp.value8 (Memory.read m (256 * r + k / 32)).toNat
  else Fp.value8 (Memory.read m (256 * (r / 32) + k)).toNat

/-- Element `k` of row `r` of an operand. -/
def mxElem (m : Table Byte) (ty r k : Nat) : Nat :=
  match mxType ty with
  | some t => elemAt (Memory.read m) (256 * r) (TyCode.bits t) k
  | none => 0

def mxValue (m : Table Byte) (ty r k : Nat) : Fp.Num :=
  match mxType ty with
  | some t => Fp.codeValue t (mxElem m ty r k)
  | none => .nan

/-- seg() of R295 for the types with a .f32 accumulator. -/
def segFloat (w : Nat) (a b sa sb : Table Byte) (seg i j : Nat) (c : Word) : Word :=
  let sum := (List.range 32).foldl (fun (v : Fp.Num) n =>
    let k := 32 * seg + n
    let p := (Fp.mulN (Fp.mulN (mxValue a (fmtA w) i k) (mxScale sa (fmtSma w) i k)).1
      (Fp.mulN (mxValue b (fmtB w) j k) (mxScale sb (fmtSmb w) j k)).1).1
    (Fp.addN v p .rn).1) (Fp.value .f32 c.toNat)
  BitVec.ofNat 32 (Fp.round .f32 sum .rn false 0).1

/-- seg() of R295 for .i32. -/
def segInt (a b : Table Byte) (seg i j : Nat) (c : Word) : Word :=
  (List.range 32).foldl (fun (v : Word) n =>
    let k := 32 * seg + n
    v + BitVec.ofInt 32 (Arith.val true 8 (mxElem a 0 i k) * Arith.val true 8 (mxElem b 0 j k))) c

/-- One pair (R295). -/
def mxPair (s : State) (core : Nat) (o : MxOp) (es : Table Word) (p : Nat) : Table Word :=
  let b := o.block
  let m := blkM b
  let n := blkN b
  let seg := blkSeg b + p / (m * n)
  let i := p % (m * n) / n
  let j := p % n
  let w := o.fmt.toNat
  let c := Table.get 0 (64 * i + j) es
  let ta := mxTile s core o (blkTa b)
  let tb := mxTile s core o (blkTb b)
  Table.put 0 (64 * i + j)
    (if fmtA w = 0 then segInt ta tb seg i j c
      else segFloat w ta tb (mxTile s core o (blkTsa b)) (mxTile s core o (blkTsb b)) seg i j c) es

/-- The pairs of an operation. -/
def mxTotal (o : MxOp) : Nat := blkM o.block * blkN o.block * blkNseg o.block

/-- MMA_STEP: one step, charged to the core's bucket (R296, R403). -/
def execMmaStep (core unit : Nat) (s : State) : Host.Outcome State Fault Refusal :=
  if 64 ≤ core ∨ 4 ≤ unit then .fault .noAgent
  else
    match (Core.mxUnit (State.core s core) unit).exec with
    | none => .next s
    | some o =>
      if (State.core s core).bucket < 2000 then .next s
      else
        let hi := Nat.min (o.pw + (fmtPairs o.fmt.toNat).getD 192) (mxTotal o)
        let es := (List.range (hi - o.pw)).foldl (fun t n => mxPair s core o t (o.pw + n))
          (Core.accum (State.core s core) o.acc).elems
        let s1 := State.modAccum (chargeCore core 2000 s) core o.acc fun a => { a with elems := es }
        let o1 := { o with pw := hi }
        if hi = mxTotal o then .next (endMx core unit o1 false s1)
        else .next (State.modMx s1 core unit fun m => { m with exec := some o1, stall := 0 })

/-- MATRIX_QUIESCE: a team's marker reaches the units of a core; its operation stops at the end of its step and the marker
returns (R300). -/
def execMatrixQuiesce (core team : Nat) (s : State) : Host.Outcome State Fault Refusal :=
  if 64 ≤ core then .fault .noAgent
  else
    .next ((List.range 4).foldl (fun s u =>
      match (Core.mxUnit (State.core s core) u).exec with
      | some o =>
        if o.team = team then State.modMx s core u fun m => { m with exec := none, queue := o :: m.queue, stall := 0 } else s
      | none => s) (returnMark team (64 + core) s))

/-! ## Reset of a unit (R299) -/

/-- Discard the executing operation of a unit. -/
def resetMx (core u : Nat) (s : State) : State :=
  match (Core.mxUnit (State.core s core) u).exec with
  | none => s
  | some o =>
    let s1 := leaveUnit core u o s
    if (Table.find o.team s1.teams).isNone then freeAcc core o.acc s1
    else
      (accWaiters s1 core o.team o.acc).foldl (trapMwait causeMxReset 0)
        (State.modAccum s1 core o.acc fun a => { a with token := .rst o.team, elems := [] })

/-- MRESET (R299). -/
def execMreset (o : OpTileS) (s : State) : Host.Outcome State Fault Refusal :=
  issueWith (.mreset o) (fun x _ _ => if Ix.ctx x = 0 then none else some (causePriv, 0)) (fun x s =>
    { s := if (Ix.s x o.a.val).toNat < 4 then resetMx (Ix.core x) (Ix.s x o.a.val).toNat s else s }) s

end Sys2Proof.Machine
end

