-- ==== Sys2Proof/Machine/Copy.lean ====
section
/-!
DEFINITION. The copy engines: issue, acceptance, units, completion, errors, faults and their resumption, quiesce
(spec/07_copy_engines.md R148 to R171).
-/
namespace Sys2Proof.Machine

/-! ## Issue (R149 to R152) -/

/-- The six copy instructions, by opcode (R150). -/
def copyKind : Instr → Option (Nat × OpCopy)
  | .cpy o => some (0xA0, o)
  | .cpy2 o => some (0xA1, o)
  | .cpyt o => some (0xA2, o)
  | .cpyg o => some (0xA3, o)
  | .cpys o => some (0xA4, o)
  | .cfill o => some (0xA5, o)
  | _ => none

/-- The operands as the instruction reads them: SA pair, SB pair or word, SC, g, the completion value. -/
def copySa (o : OpCopy) (x : Ix) : Nat := Ix.sw x true o.a.val
def copySb (o : OpCopy) (x : Ix) : Nat := Ix.sw x true o.b.val
def copySc (o : OpCopy) (x : Ix) : Nat := (Ix.s x o.c.val).toNat
def copyG (o : OpCopy) (x : Ix) : Nat := (Ix.s x (o.c.val + 1)).toNat

/-- MISALIGNED of a copy instruction, the first of its values in the order of R151. -/
def copyCause (op : Nat) (o : OpCopy) : Own := fun x _ _ =>
  if copySa o x % 4 ≠ 0 then some (causeMisaligned, BitVec.ofNat 64 (copySa o x))
  else if op ≠ 0xA5 ∧ copySb o x % 4 ≠ 0 then some (causeMisaligned, BitVec.ofNat 64 (copySb o x))
  else if (op = 0xA0 ∨ op = 0xA5) ∧ copySc o x % 4 ≠ 0 then some (causeMisaligned, BitVec.ofNat 64 (copySc o x))
  else if (op = 0xA1 ∨ op = 0xA3 ∨ op = 0xA4) ∧ copySc o x % 32 ≠ 0 then
    some (causeMisaligned, BitVec.ofNat 64 (copySc o x))
  else if op = 0xA2 ∧ copySc o x % 128 ≠ 0 then some (causeMisaligned, BitVec.ofNat 64 (copySc o x))
  else if o.cw.isSome ∧ copyG o x % 4 ≠ 0 then some (causeMisaligned, BitVec.ofNat 64 (copyG o x))
  else none

/-- Post a command: the group is held until its engine accepts it, and has paid nothing (R152, R308, R405). -/
def postOffer (i : Instr) (x : Ix) (put : Offer → State → State) (s : State) : Res :=
  match s.issue with
  | none => { s := s }
  | some iss =>
    let o : Offer := ⟨x.key, maskOf x.sel, x.pc, x.hdr, i, s.nextKey, iss.grp.price⟩
    { s := put o { refund iss s with nextKey := s.nextKey + 1 }, moved := x.sel }

def putCopyOffer (o : Offer) (s : State) : State :=
  State.modCore s (o.band / 64) fun c => { c with offers := c.offers ++ [o] }

/-- A copy instruction at issue: its causes, then its command stands at the engine. -/
def copyIssue (i : Instr) (op : Nat) (o : OpCopy) (s : State) : Host.Outcome State Fault Refusal :=
  issueWith i (copyCause op o) (fun x s => postOffer i x putCopyOffer s) s

/-- CPY (R150). -/
def execCpy (o : OpCopy) (s : State) : Host.Outcome State Fault Refusal := copyIssue (.cpy o) 0xA0 o s
/-- CPY2 (R154). -/
def execCpy2 (o : OpCopy) (s : State) : Host.Outcome State Fault Refusal := copyIssue (.cpy2 o) 0xA1 o s
/-- CPYT (R156). -/
def execCpyt (o : OpCopy) (s : State) : Host.Outcome State Fault Refusal := copyIssue (.cpyt o) 0xA2 o s
/-- CPYG (R155). -/
def execCpyg (o : OpCopy) (s : State) : Host.Outcome State Fault Refusal := copyIssue (.cpyg o) 0xA3 o s
/-- CPYS (R155). -/
def execCpys (o : OpCopy) (s : State) : Host.Outcome State Fault Refusal := copyIssue (.cpys o) 0xA4 o s
/-- CFILL (R157). -/
def execCfill (o : OpCopy) (s : State) : Host.Outcome State Fault Refusal := copyIssue (.cfill o) 0xA5 o s

/-! ## Descriptors (R154 to R156) -/

def parse2d (b : List Byte) : Option CopyDesc :=
  let rows := fieldAt b 0 4
  let rb := fieldAt b 4 4
  let ss := fieldAt b 8 4
  let ds := fieldAt b 12 4
  if rb % 4 = 0 ∧ ss % 4 = 0 ∧ ds % 4 = 0 ∧ rb ≤ ds ∧ rows * rb ≤ 0xFFFFFFFC ∧ zeroAt b 16 16 then
    some (.two rows rb ss ds)
  else none

/-- `ext` is the extent of the local window. DESIGN CHOICE (log 28): the list of COUNT = 0 must lie within it too. -/
def parseIndex (scatter : Bool) (ext : Nat) (b : List Byte) : Option CopyDesc :=
  let list := fieldAt b 0 4
  let count := fieldAt b 4 4
  let rb := fieldAt b 8 4
  let bound := fieldAt b 12 4
  let pitch := fieldAt b 16 8
  if list % 4 = 0 ∧ list + 4 * count ≤ ext ∧ rb % 4 = 0 ∧ count * rb ≤ 0xFFFFFFFC ∧ 1 ≤ bound ∧ pitch % 4 = 0
      ∧ zeroAt b 24 8 then
    some (.gather scatter list count rb bound pitch)
  else none

def wordsAt (b : List Byte) (o size n : Nat) : List Nat := (List.range n).map fun k => fieldAt b (o + size * k) size

/-- Bytes of a box. -/
def boxBytes (esz : Nat) (box : List Nat) : Nat := esz * box.foldl (· * ·) 1

def parseTensor (b : List Byte) : Option CopyDesc :=
  let nd := fieldAt b 0 1
  let esc := fieldAt b 1 1
  let dir := fieldAt b 2 1
  let e := 2 ^ esc
  let box := wordsAt b 8 4 5
  let nt := wordsAt b 0x20 4 5
  let str := e :: wordsAt b 0x38 8 4
  let start := (wordsAt b 0x58 4 5).map fun w => (BitVec.ofNat 32 w).toInt
  let unused (k : Nat) : Bool :=
    box.getD k 0 == 1 && nt.getD k 0 == 1 && (k == 0 || str.getD k 0 == 0) && start.getD k 0 == 0
  if 1 ≤ nd ∧ nd ≤ 5 ∧ esc ≤ 4 ∧ dir ≤ 1 ∧ zeroAt b 3 5 ∧ zeroAt b 0x1C 4 ∧ zeroAt b 0x34 4 ∧ zeroAt b 0x6C 20
      ∧ box.all (fun x => decide (1 ≤ x) && decide (x ≤ 65536)) ∧ box.getD 0 0 * e % 4 = 0 ∧ boxBytes e box ≤ 0xFFFFFFFC
      ∧ nt.all (fun x => decide (1 ≤ x)) ∧ str.all (fun x => x % e == 0)
      ∧ ((List.range 5).filter fun k => decide (nd ≤ k)).all unused then
    some (.tensor nd e (dir == 0) box nt str start)
  else none

/-! ## Extents (R153) -/

/-- Bytes of a whole tensor. -/
def tensorBytes (e : Nat) (nt str : List Nat) : Nat := (List.zip nt str).foldl (fun n p => n + (p.1 - 1) * p.2) 0 + e

/-- Payload bytes, source extent and destination extent lengths (R153); a source of `none` is CFILL's. -/
def copySizes : CopyDesc → Nat × Option Nat × Nat
  | .flat l => (l, some l, l)
  | .fill l _ => (l, none, l)
  | .two r b s d => (r * b, some ((r - 1) * s + b), (r - 1) * d + b)
  | .gather sc _ c b n p =>
    if sc then (c * b, some (c * b), (n - 1) * p + b) else (c * b, some ((n - 1) * p + b), c * b)
  | .tensor _ e tb box nt str _ =>
    if tb then (boxBytes e box, some (tensorBytes e nt str), boxBytes e box)
    else (boxBytes e box, some (boxBytes e box), tensorBytes e nt str)

/-- ENGINE_ERROR kinds (R166). -/
def errRange : Nat := 1
def errSram : Nat := 2
def errPoison : Nat := 3
def errDesc : Nat := 4
def errOverlap : Nat := 5
def errIndex : Nat := 6
def errSpan : Nat := 7
def errAbort : Nat := 8

/-- The chip addresses of an extent, its first and last, or the kind and address of its failure (R153). -/
inductive Extent where
  | empty
  | run (lo hi : Nat)
  | bad (kind addr : Nat)
  deriving DecidableEq, Repr

/-- Extent of a window of SRAM, in window form (R79). -/
def windowSize (t : Team) (g : Grid) : Window → Nat
  | .loc => localExtent t g
  | .par => 2 ^ 27
  | .glb => 2 ^ 32
  | _ => 0

/-- The lowest byte of `[v, v + n)` that fails R90 or R91: the outcome changes only where a range register begins or ends, or
where its chip addresses reach 2^43. -/
def firstDenied (c : Ctx) (v n need : Nat) : Option Nat :=
  let edges := (List.range 8).flatMap fun k =>
    let base := Ctx.range c k 0 / 2 ^ 16 * 2 ^ 16
    [base, Ctx.range c k 1 / 2 ^ 16 * 2 ^ 16 + 2 ^ 16, base + (2 ^ 43 - Ctx.range c k 2 / 2 ^ 16 % 2 ^ 32 * 2 ^ 16)]
  leastOf ((v :: edges.filter fun e => decide (v < e) && decide (e < v + n)).filter fun b => (rangeCheck c b need).isNone)

/-- Resolve an extent of `n` bytes at a generic address, for an engine of the given permission (R153, R91). DESIGN CHOICE (log
28): a memory extent that runs past 2^60 gives SPAN. -/
def resolveExtent (s : State) (core : Nat) (t : Team) (g : Grid) (a n need : Nat) : Extent :=
  if n = 0 then .empty
  else
    match windowOf (BitVec.ofNat 64 a) with
    | none | some (.prv, _) => .bad errSpan 0
    | some (.mem, v) =>
      let c := State.ctx s g.ctx
      if 2 ^ 60 < v + n then .bad errSpan 0
      else
        match rangeIndex c v, rangeIndex c (v + n - 1) with
        | some i, some j =>
          if i ≠ j then .bad errSpan 0
          else
            match firstDenied c v n need, rangeCheck c v need, rangeCheck c (v + n - 1) need with
            | some b, _, _ => .bad errRange b
            | none, some p, some q => .run p q
            | none, none, _ => .bad errRange v
            | none, _, none => .bad errRange (v + n - 1)
        | none, _ => .bad errRange v
        | _, none => .bad errRange (v + n - 1)
    | some (w, x) =>
      let ext := windowSize t g w
      if ext < x + n then .bad errSram (windowTag w + Nat.max x ext)
      else
        match sramForm core t g w x, sramForm core t g w (x + n - 1) with
        | some p, some q => if q = p + n - 1 then .run (2 ^ 47 + p) (2 ^ 47 + q) else .bad errSpan 0
        | _, _ => .bad errSpan 0

def Extent.overlaps : Extent → Extent → Bool
  | .run a b, .run c d => decide (a ≤ d) && decide (c ≤ b)
  | _, _ => false

/-- The geometry of a command, or DESC with POISON for a poisoned descriptor (R153 step 1). -/
def copyDesc (s : State) (op : Nat) (o : OpCopy) (x : Ix) : CopyDesc ⊕ (Nat × Nat) :=
  if op = 0xA0 then .inl (.flat (copySc o x))
  else if op = 0xA5 then .inl (.fill (copySc o x) (Ix.s x o.b.val))
  else
    let n := if op = 0xA2 then 128 else 32
    if localExtent x.t x.gr < copySc o x + n then .inr (errDesc, 0)
    else
      match sramForm (Ix.core x) x.t x.gr .loc (copySc o x) with
      | none => .inr (errDesc, 0)
      | some g =>
        match sramMarked s g n with
        | some b => .inr (errPoison, windowTag .loc + copySc o x + (b - g))
        | none =>
          let bs := readSram s g n
          let d := if op = 0xA1 then parse2d bs
            else if op = 0xA2 then parseTensor bs
            else parseIndex (op == 0xA4) (localExtent x.t x.gr) bs
          match d with
          | some d => .inl d
          | none => .inr (errDesc, 0)

/-- What acceptance finds: the geometry with its two extents, or the failure (R153). -/
structure Checked where
  desc : CopyDesc
  src : Extent
  dst : Extent
  deriving DecidableEq, Repr

/-- Source and destination generic addresses; CFILL has its destination in SA. -/
def copySrc (o : OpCopy) (x : Ix) : Nat := copySa o x
def copyDst (op : Nat) (o : OpCopy) (x : Ix) : Nat := if op = 0xA5 then copySa o x else copySb o x

/-- The completion word fails its check (R153 step 4). -/
def cwBad (s : State) (ctx g : Nat) : Bool := !ownedBy s g ctx

/-- Extents of an engine's command on a core (R153, R170). -/
def copyExtents (s : State) (core : Nat) (t : Team) (g : Grid) (d : CopyDesc) (src dst : Nat) : Extent × Extent :=
  let z := copySizes d
  if z.1 = 0 then (.empty, .empty)
  else
    ((match z.2.1 with
      | none => .empty
      | some n => resolveExtent s core t g src n (permCe + permRd)),
      resolveExtent s core t g dst z.2.2 (permCe + permWr))

/-- The checks of R153, in order. -/
def copyCheck (s : State) (op : Nat) (o : OpCopy) (x : Ix) : Checked ⊕ (Nat × Nat) :=
  match copyDesc s op o x with
  | .inr e => .inr e
  | .inl d =>
    let e := copyExtents s (Ix.core x) x.t x.gr d (copySrc o x) (copyDst op o x)
    match e.1, e.2 with
    | .bad k a, _ => .inr (k, a)
    | _, .bad k a => .inr (k, a)
    | a, b =>
      if Extent.overlaps a b then .inr (errOverlap, 0)
      else if o.cw.isSome && cwBad s (Ix.ctx x) (copyG o x) then .inr (errSram, windowTag .glb + copyG o x)
      else .inl ⟨d, a, b⟩

/-! ## Acceptance (R152) -/

def Extent.locks (slot : Nat) (write : Bool) : Extent → List Lock
  | .run a b => [⟨a, b, write, slot⟩]
  | _ => []

/-- The lowest free slot of a core's copy engine (R148). -/
def freeSlot (c : Core) : Option Nat := (List.range 32).find? fun n => (Table.find n c.copy).isNone

def lockRoom (c : Core) (n : Nat) : Bool := decide (c.locks.length + n ≤ 64)

/-- Record an engine error (R166, R321). -/
def engineRecord (kind slot ctx : Nat) : Dword := BitVec.ofNat 64 (kind + slot * 2 ^ 8 + ctx % 256 * 2 ^ 16 + 2 ^ 32)

def copyCommand (op : Nat) (o : OpCopy) (x : Ix) (c : Checked) (seq : Nat) : CopyCmd :=
  { band := x.key, team := x.b.team, ctx := Ix.ctx x, op := op, lanes := maskOf x.act, dc := o.dc
    src := BitVec.ofNat 64 (copySrc o x), dst := BitVec.ofNat 64 (copyDst op o x), sc := copySc o x, desc := c.desc, cw := o.cw
    cwg := if o.cw.isSome then copyG o x else 0, cwv := if o.cw.isSome then Ix.s x (o.c.val + 2) else 0
    n := (copySizes c.desc).1, p := 0, work := none, parked := false, seq := seq
    uid := 0 }

/-- The engine reads the descriptor: the code's findings count (R141). -/
def senseDesc (op : Nat) (o : OpCopy) (x : Ix) (s : State) : State :=
  if op = 0xA0 ∨ op = 0xA5 then s
  else
    match sramForm (Ix.core x) x.t x.gr .loc (copySc o x) with
    | some g => senseSram g (if op = 0xA2 then 128 else 32) s
    | none => s

/-- The effect of an accepted copy instruction: the command takes its slot and its locks, or ends at once in error. -/
def acceptCopy (op : Nat) (o : OpCopy) (slot : Nat) (x : Ix) (s0 : State) : Res :=
  let s := senseDesc op o x s0
  match copyCheck s op o x with
  | .inr (k, a) =>
    { s := latchError x.key (some o.dc) (maskOf x.act) (BitVec.ofNat 64 a) causeEngineError
        (State.modCore s (Ix.core x) fun c => { c with ceerr := engineRecord k slot (Ix.ctx x) }) }
  | .inl c =>
    { s := countUp x.key (some o.dc) (State.modCore { s with nextKey := s.nextKey + 1 } (Ix.core x) fun k =>
        { k with copy := Table.set slot (copyCommand op o x c s.nextKey) k.copy
                 locks := k.locks ++ Extent.locks slot false c.src ++ Extent.locks slot true c.dst }) }

/-- The posted instruction as it stands now, where its lanes still wait at it. -/
def offerIx (s : State) (o : Offer) : Option Ix :=
  match indexOf s o.band ⟨o.lanes, o.pc, o.hdr, none, o.price⟩ (uses o.instr).g with
  | none => none
  | some x =>
    if x.t.halted || x.b.stopped || x.sel.any (fun l =>
        let y := Band.lane x.b l
        y.pc != o.pc || y.run != .running || y.sw || y.entry != .inside) then none
    else some x

/-- A posted copy command can be accepted now (R152). -/
def copyReady (s : State) (o : Offer) : Bool :=
  match offerIx s o, copyKind o.instr with
  | some x, some (op, c) =>
    let k := State.core s (Ix.core x)
    !quiesced s x.b.team (Ix.core x) && decide (o.price ≤ k.bucket) && !counterFull o.instr x && !bandFence s x.key
      && (freeSlot k).isSome
      && match copyCheck s op c x with
        | .inr _ => true
        | .inl e => lockRoom k ((Extent.locks 0 false e.src).length + (Extent.locks 0 true e.dst).length)
  | _, _ => false

/-- The issue that an acceptance completes. -/
def offerIssue (o : Offer) : Issue :=
  { band := o.band, grp := ⟨o.lanes, o.pc, o.hdr, none, o.price⟩, borrowed := false, second := none, upset := 0
    shadow := false, reeval := false, ready := 0, done := 0, prior := none }

/-- COPY_ACCEPT: a posted command that can be accepted is, and its instruction completes its issue (R152). DESIGN CHOICE (log
28): of several, the first in the order of posting. A group that no longer waits at its instruction withdraws its command. -/
def execCopyAccept (core : Nat) (s : State) : Host.Outcome State Fault Refusal :=
  if 64 ≤ core then .fault .noAgent
  else
    let s1 := State.modCore s core fun c => { c with offers := c.offers.filter fun o => (offerIx s o).isSome }
    match (State.core s1 core).offers.find? (copyReady s1) with
    | none => .next s1
    | some o =>
      match offerIx s1 o, copyKind o.instr, freeSlot (State.core s1 core) with
      | some x, some (op, c), some slot =>
        let s2 := State.modCore s1 core fun k => { k with offers := k.offers.erase o }
        .next (perform o.instr (copyCause op c) (acceptCopy op c slot) (offerIssue o) x (chargeCore core o.price s2))
      | _, _, _ => .next s1

/-! ## Units (R154 to R159) -/

/-- The index word of row `i` (R155): its value, or the kind and address of its error. -/
def indexWord (s : State) (core : Nat) (t : Team) (g : Grid) (list i : Nat) : Nat ⊕ (Nat × Nat) :=
  match sramForm core t g .loc (list + 4 * i) with
  | none => .inr (errSram, windowTag .loc + list + 4 * i)
  | some b =>
    match sramMarked s b 4 with
    | some p => .inr (errPoison, windowTag .loc + list + 4 * i + (p - b))
    | none => .inl (leNat (readSram s b 4))

/-- Coordinates of box element `e`, and whether they are in bounds, with its tensor offset (R156). -/
def boxElement (box nt str : List Nat) (start : List Int) (e : Nat) : Bool × Int :=
  let r := (List.range 5).foldl (fun (st : Bool × Int × Nat) k =>
    let x := start.getD k 0 + ((st.2.2 % box.getD k 1 : Nat) : Int)
    (st.1 && decide (0 ≤ x) && decide (x < (nt.getD k 1 : Int)), st.2.1 + x * (str.getD k 0 : Int),
      st.2.2 / box.getD k 1)) (true, 0, e)
  (r.1, r.2.1)

def addrPlus (a : Nat) (d : Int) : Nat := (((a : Int) + d) % ((2 ^ 64 : Nat) : Int)).toNat

/-- The run of payload bytes at `j` before its cut at lines: its length, source, destination; or an error (R154 to R157). -/
def payloadRun (s : State) (core : Nat) (t : Team) (g : Grid) (c : CopyCmd) (j : Nat) : CopyRun ⊕ (Nat × Nat) :=
  let a := c.src.toNat
  let b := c.dst.toNat
  match c.desc with
  | .flat l => .inl ⟨j, l - j, some (a + j), none, some (b + j)⟩
  | .fill l w => .inl ⟨j, l - j, none, some w, some (b + j)⟩
  | .two _ rb ss ds =>
    let r := j / rb
    .inl ⟨j, rb - j % rb, some (a + r * ss + j % rb), none, some (b + r * ds + j % rb)⟩
  | .gather sc list _ rb bound pitch =>
    let i := j / rb
    match indexWord s core t g list i with
    | .inr e => .inr e
    | .inl x =>
      if bound ≤ x then .inr (errIndex, windowTag .loc + list + 4 * i)
      else if sc then .inl ⟨j, rb - j % rb, some (a + j), none, some (b + x * pitch + j % rb)⟩
      else .inl ⟨j, rb - j % rb, some (a + x * pitch + j % rb), none, some (b + j)⟩
  | .tensor _ e tb box nt str start =>
    let m := boxElement box nt str start (j / e)
    let o := j % e
    if tb then
      .inl ⟨j, e - o, if m.1 then some (addrPlus a (m.2 + o)) else none, if m.1 then none else some 0, some (b + j)⟩
    else .inl ⟨j, e - o, if m.1 then some (a + j) else none, none, if m.1 then some (addrPlus b (m.2 + o)) else none⟩

/-- Bytes up to the end of the line an address lies in. -/
def toLine : Option Nat → Nat
  | none => 128
  | some a => 128 - a % 128

/-- The place of an engine's access at a generic address; a failing check is an error (R92, R140, R166). -/
def enginePlace (s : State) (core : Nat) (t : Team) (g : Grid) (a need : Nat) : Place ⊕ (Nat × Nat) :=
  match windowOf (BitVec.ofNat 64 a) with
  | none | some (.prv, _) => .inr (errSpan, 0)
  | some (.mem, v) =>
    match rangeCheck (State.ctx s g.ctx) v need with
    | some c => .inl (.mem c)
    | none => .inr (errRange, a)
  | some (w, x) =>
    match sramByte s core t g w x with
    | some b => .inl (.sram b)
    | none => .inr (errSram, a)

/-- How one run of payload bytes is performed: nothing is written; a check fails; or from one place to another. -/
inductive Way where
  | idle
  | bad (kind addr : Nat)
  | go (src : Option Place) (dst : Place)
  deriving DecidableEq, Repr

def wayOf (s : State) (core : Nat) (t : Team) (g : Grid) (perm : Nat) (r : CopyRun) : Way :=
  match r.dst with
  | none => .idle
  | some d =>
    match r.src.map (fun a => enginePlace s core t g a (perm + permRd)), enginePlace s core t g d (perm + permWr) with
    | some (.inr e), _ => .bad e.1 e.2
    | _, .inr e => .bad e.1 e.2
    | some (.inl p), .inl q => .go (some p) q
    | none, .inl q => .go none q

/-- A line that an engine needs at a memory place, with the virtual address of its access there. -/
structure Need where
  c : Nat
  va : Nat
  write : Bool
  deriving DecidableEq, Repr

def needAt (p : Option Place) (a : Option Nat) (write : Bool) : List Need :=
  match p with
  | some (.mem c) => [⟨c, a.getD 0, write⟩]
  | _ => []

def Way.needs (r : CopyRun) : Way → List Need
  | .go p q => needAt p r.src false ++ needAt (some q) r.dst true
  | _ => []

/-- Ask for the lines that an access of an engine or row unit needs and its die does not hold: the first that faults at
translation, and whether one is still to come (R99, R122). -/
def askNeeds (die : Nat) : List Need → State → Option Halt_ × Bool × State
  | [], s => (none, false, s)
  | n :: ns, s =>
    if holdsLine (State.die s die) (lineOf n.c) n.write then askNeeds die ns s
    else
      let a := askLine die (lineOf n.c) n.write s
      let r := askNeeds die ns a.2
      match a.1 with
      | some (k, e) => (some (.fault k e n.c n.va n.write), r.2)
      | none => (r.1, true, r.2.2)

/-- A place that an engine of a core reaches over the mesh can be reached now (R129, R143). -/
def placeClear (s : State) (core : Nat) : Place → Bool
  | .sram g => meshClear s (core / 16) (some core) g
  | _ => true

def Way.clear (s : State) (core : Nat) : Way → Bool
  | .go p q => (match p with
      | some p => placeClear s core p
      | none => true) && placeClear s core q
  | _ => true

/-- Read from a place whose line, if any, is there: the bytes, or the offset of the lowest poisoned one (R119, R141). The way
from another die is charged (R406). -/
def readPlace (core : Nat) (p : Place) (n : Nat) (s : State) : (List Byte ⊕ Nat) × State :=
  match p with
  | .mem c =>
    match Table.find (lineOf c) (State.die s (core / 16)).l2 with
    | some l =>
      match poisonAt l.poison (c % 128) n with
      | some b => (.inr (b - c % 128), s)
      | none => (.inl ((l.bytes.drop (c % 128)).take n), s)
    | none => (.inl [], s)
  | .sram b =>
    let s1 := senseSram b n (chargeRoute (b / 2 ^ 30) (core / 16) (chargeRoute (core / 16) (b / 2 ^ 30) s))
    match sramPoisoned s1 b n with
    | some q => (.inr (q - b), s1)
    | none => (.inl (readSram s1 b n), s1)
  | _ => (.inl (List.replicate n 0), s)

def writePlace (core : Nat) (p : Place) (bs : List Byte) (s : State) : State :=
  match p with
  | .mem c => (writeMem (core / 16) s c bs).2
  | .sram b => writeSram (chargeRoute (core / 16) (b / 2 ^ 30) s) b bs
  | _ => s

/-- The fill word's bytes from payload byte `j`. -/
def fillBytes (w : Word) (j n : Nat) : List Byte :=
  (List.range n).map fun k => BitVec.ofNat 8 (w.toNat / 256 ^ ((j + k) % 4))

/-- Perform one run whose lines are there. -/
def performRun (core : Nat) (r : CopyRun) (w : Way) (s : State) : Option Halt_ × State :=
  match w with
  | .idle => (none, s)
  | .bad k a => (some (.error k a), s)
  | .go none q => (none, writePlace core q (fillBytes (r.fill.getD 0) r.j r.n) s)
  | .go (some p) q =>
    match readPlace core p r.n s with
    | (.inr b, s1) => (some (.error errPoison (r.src.getD 0 + b)), s1)
    | (.inl bs, s1) => (none, writePlace core q bs s1)

/-- The runs of the payload bytes from `j` up to `hi`, cut at lines, each index read once; and the index error that ends
them (R155, R158). -/
def unitRuns (s : State) (core : Nat) (t : Team) (g : Grid) (c : CopyCmd) (hi : Nat) : Nat → Nat → List CopyRun × Option Halt_
  | 0, _ => ([], none)
  | k + 1, j =>
    if hi ≤ j then ([], none)
    else
      match payloadRun s core t g c j with
      | .inr e => ([], some (.error e.1 e.2))
      | .inl r =>
        let n := Nat.max 1 (Nat.min (Nat.min r.n (hi - j)) (Nat.min (toLine r.src) (toLine r.dst)))
        let u := unitRuns s core t g c hi k (j + n)
        ({ r with n := n } :: u.1, u.2)

/-- The index words of a unit are read: the code's findings count (R141, R155). -/
def senseIndices (core : Nat) (t : Team) (g : Grid) (c : CopyCmd) (lo hi : Nat) (s : State) : State :=
  match c.desc with
  | .gather _ list _ rb _ _ =>
    if rb = 0 then s
    else (List.range ((hi - 1) / rb + 1 - lo / rb)).foldl (fun s i =>
      match sramForm core t g .loc (list + 4 * (lo / rb + i)) with
      | some b => senseSram b 4 s
      | none => s) s
  | _ => s

/-! ## The end of a command (R160, R162, R166, R168) -/

/-- Take a command out of its slot, with its locks; its counter falls. -/
def dropCommand (core slot : Nat) (c : CopyCmd) (s : State) : State :=
  countDown c.band (some c.dc) (State.modCore s core fun k =>
    { k with copy := Table.del slot k.copy, locks := k.locks.filter fun l => l.slot != slot })

/-- The lines of a core's L1 that a command's destination overlaps go (R160 step 1). -/
def dropDestination (slot : Nat) (k : Core) : Core :=
  { k with l1 := k.l1.filter fun e => !(k.locks.any fun l =>
      l.slot == slot && l.write && decide (l.lo ≤ 128 * e.1 + 127) && decide (128 * e.1 ≤ l.hi)) }

/-- End a command with ENGINE_ERROR (R166). What it has written is visible to near reads after its counter has fallen (R340). -/
def failCommand (core slot : Nat) (c : CopyCmd) (kind addr : Nat) (s : State) : State :=
  latchError c.band (some c.dc) c.lanes (BitVec.ofNat 64 (if kind = errSpan ∨ kind = errAbort then 0 else addr))
    causeEngineError
    (State.modCore (dropCommand core slot c (State.modCore s core (dropDestination slot))) core fun k =>
      { k with ceerr := engineRecord kind slot c.ctx })

/-- A fault record of an engine (R105, R106): SRC and ENG given. -/
def engineFault (uid core ctx src eng kind entry caddr vaddr : Nat) (write big : Bool) : FaultRec :=
  { kind := kind, src := src, acc := if write then 1 else 0, ps := big, frag := 0xFFFF, core := core, ctx := ctx
    caddr := caddr, vaddr := vaddr, lmask := 0, entry := entry, seq := 0, nrec := 1, irec := 0, eng := eng, uid := uid }

/-- Post a record to a die's queue, once there is room (R107, R108). -/
def postFault (die : Nat) (r : FaultRec) (s : State) : State :=
  State.modDie s die fun d => { d with fqWait := d.fqWait ++ [r] }

/-- An earlier command of the core whose lock forbids this one to begin (R162). -/
def mustWait (k : Core) (slot : Nat) (c : CopyCmd) : Bool :=
  k.locks.any fun a => a.slot == slot && k.locks.any fun b =>
    b.slot != slot && (a.write || b.write) && decide (a.lo ≤ b.hi) && decide (b.lo ≤ a.hi)
      && match Table.find b.slot k.copy with
        | some e => decide (e.seq < c.seq)
        | none => false

def unitCount (c : CopyCmd) : Nat := (c.n + 127) / 128

/-- The fault parks the command and posts its record (R166). -/
def parkCommand (core slot : Nat) (c : CopyCmd) (kind entry caddr vaddr : Nat) (write : Bool) (s : State) : State :=
  postFault (core / 16) (engineFault s.nextKey core c.ctx 1 slot kind entry caddr vaddr write (faultBig s caddr))
    (State.modCore { s with nextKey := s.nextKey + 1 } core fun k =>
      { k with copy := Table.set slot { c with parked := true, uid := s.nextKey } k.copy })

/-- Keep a command in its slot. -/
def putCommand (core slot : Nat) (c : CopyCmd) (s : State) : State :=
  State.modCore s core fun k => { k with copy := Table.set slot c k.copy }

/-- An attempt at the unit at P begins: its indices are read, and it is charged (R155, R158, R403). -/
def beginUnit (core slot : Nat) (t : Team) (g : Grid) (c : CopyCmd) (s : State) : State :=
  let lo := 128 * c.p
  let hi := Nat.min (lo + 128) c.n
  let s0 := senseIndices core t g c lo hi s
  let u := unitRuns s0 core t g c hi 128 lo
  putCommand core slot { c with work := some ⟨u.1, none, u.2⟩ } (chargeCore core 24 s0)

/-- The attempt ends: the unit is complete, or the command fails or parks (R158, R166). -/
def endUnit (core slot : Nat) (c : CopyCmd) (w : CopyWork) (s : State) : State :=
  match w.found.or w.last with
  | none => putCommand core slot { c with p := c.p + 1, work := none } s
  | some (.error e b) => failCommand core slot { c with work := none } e b s
  | some (.fault kd e ca va wr) => parkCommand core slot { c with work := none } kd e ca va wr s

/-- The next run of an attempt is performed on its own, once the lines that it needs are in the die's L2 and its slices can be
reached; one that faults is left out (R122, R166). -/
def stepUnit (core slot : Nat) (t : Team) (g : Grid) (c : CopyCmd) (w : CopyWork) (s : State) : State :=
  match w.runs with
  | [] => endUnit core slot c w s
  | r :: rs =>
    let way := wayOf s core t g permCe r
    if !Way.clear s core way then s
    else
      match askNeeds (core / 16) (Way.needs r way) s with
      | (_, true, s1) => s1
      | (f, false, s1) =>
        let p := match f with
          | some h => (some h, s1)
          | none => performRun core r way s1
        putCommand core slot { c with work := some ⟨rs, w.found.or p.1, w.last⟩ } p.2

/-- COPY_UNIT: a step of the attempt at the unit at P of a command: it begins, performs its next run, or ends (R158, R166).
DESIGN CHOICE (log 28): the units are worked on one at a time, in ascending order. -/
def execCopyUnit (core slot : Nat) (s : State) : Host.Outcome State Fault Refusal :=
  if 64 ≤ core then .fault .noAgent
  else
    let k := State.core s core
    match Table.find slot k.copy with
    | none => .next s
    | some c =>
      match State.home s c.band with
      | none => .next s
      | some (_, t, g) =>
        match c.work with
        | some w => .next (stepUnit core slot t g c w s)
        | none =>
          if c.parked || unitCount c ≤ c.p || mustWait k slot c || marked s c.team || k.bucket < 24 then .next s
          else .next (beginUnit core slot t g c s)

/-- COPY_COMPLETE: the four steps of R160; a completion word that has gone out of range ends the command in error (R140). -/
def execCopyComplete (core slot : Nat) (s : State) : Host.Outcome State Fault Refusal :=
  if 64 ≤ core then .fault .noAgent
  else
    match Table.find slot (State.core s core).copy with
    | none => .next s
    | some c =>
      if c.parked || c.p < unitCount c || mustWait (State.core s core) slot c || quiesced s c.team core
          || (c.cw.isSome && !placeClear s core (.sram c.cwg)) then .next s
      else
        let s1 := State.modCore s core (dropDestination slot)
        .next (if c.cw.isSome && cwBad s c.ctx c.cwg then failCommand core slot c errSram (windowTag .glb + c.cwg) s1
          else dropCommand core slot c (if c.cw.isSome then writePlace core (.sram c.cwg) (natLe 4 c.cwv.toNat) s1 else s1))

/-! ## CERESc (R167) and quiesce (R169) -/

/-- CERESc after a GO: the fields written, GO clear, BAD set or kept. -/
def resumeReg (slot : Nat) (abort bad : Bool) (r : Word) : Word :=
  BitVec.ofNat 32 (slot % 32 + (if abort then 2 ^ 8 else 0) + (if bad || r.getLsbD 17 then 2 ^ 17 else 0))

/-- A GO of CERESc. -/
def goCopy (core slot : Nat) (abort : Bool) (act : CopyCmd → State → State) (s : State) :
    Host.Outcome State Fault Refusal :=
  if 64 ≤ core then .fault .noAgent
  else
    let reg (bad : Bool) (s : State) : State :=
      State.modCore s core fun k => { k with ceres := resumeReg slot abort bad k.ceres }
    match Table.find slot (State.core s core).copy with
    | some c => if c.parked && slot < 32 then .next (act c (reg false s)) else .next (reg true s)
    | none => .next (reg true s)

/-- CERES_RESUME: a parked command goes on from unit P (R167). -/
def execCeresResume (core slot : Nat) (s : State) : Host.Outcome State Fault Refusal :=
  goCopy core slot false (fun c s => State.modCore s core fun k =>
    { k with copy := Table.set slot { c with parked := false } k.copy }) s

/-- CERES_ABORT: a parked command ends with kind ABORT (R167). -/
def execCeresAbort (core slot : Nat) (s : State) : Host.Outcome State Fault Refusal :=
  goCopy core slot true (fun c s => failCommand core slot c errAbort 0 s) s

/-- COPY_QUIESCE: a team's marker reaches the engine, and its commands begin no further unit; it returns once none of them is
at work on one (R169). -/
def execCopyQuiesce (core team : Nat) (s : State) : Host.Outcome State Fault Refusal :=
  if 64 ≤ core then .fault .noAgent
  else .next (if (State.core s core).copy.any fun e => e.2.team == team && e.2.work.isSome then s else returnMark team core s)

end Sys2Proof.Machine
end

