-- ==== Sys2Proof/Machine/Encke.lean ====
section
/-!
DEFINITION. The Encke fronts and row units: issue, acceptance, staging, queries, row work, completion, errors, faults and
their resumption, quiesce (spec/13_encke_product_key.md R302 to R324; spec/23_program_product_key_layer.md R483, R484).
-/
namespace Sys2Proof.Machine

/-! ## Issue (R306 to R308) -/

/-- The four Encke instructions. -/
def enckeKind : Instr → Option (EkKind × OpEncke)
  | .pkload o => some (.load, o)
  | .pkq o => some (.query, o)
  | .pku o => some (.update, o)
  | .pkstat o => some (.stat, o)
  | _ => none

/-- Alignment, which is also the size, of what SA points at (R307). -/
def EkKind.size : EkKind → Nat
  | .load => 128
  | .query | .update => 64
  | .stat => 16

def ekSa (o : OpEncke) (x : Ix) : Nat := (Ix.s x o.a.val).toNat

def enckeCause (k : EkKind) (o : OpEncke) : Own := fun x _ _ =>
  if ekSa o x % EkKind.size k = 0 then none
  else some (causeMisaligned, BitVec.ofNat 64 (windowTag .loc + ekSa o x))

def putEnckeOffer (o : Offer) (s : State) : State :=
  State.modDie s (o.band / 1024) fun d => { d with ekOffers := d.ekOffers ++ [o] }

/-- An Encke instruction at issue: its causes, then its command stands at the front (R307, R308). -/
def enckeIssue (i : Instr) (k : EkKind) (o : OpEncke) (s : State) : Host.Outcome State Fault Refusal :=
  issueWith i (enckeCause k o) (fun x s => postOffer i x putEnckeOffer s) s

/-- PKLOAD (R311). -/
def execPkload (o : OpEncke) (s : State) : Host.Outcome State Fault Refusal := enckeIssue (.pkload o) .load o s
/-- PKQ (R312). -/
def execPkq (o : OpEncke) (s : State) : Host.Outcome State Fault Refusal := enckeIssue (.pkq o) .query o s
/-- PKU (R315). -/
def execPku (o : OpEncke) (s : State) : Host.Outcome State Fault Refusal := enckeIssue (.pku o) .update o s
/-- PKSTAT (R319). -/
def execPkstat (o : OpEncke) (s : State) : Host.Outcome State Fault Refusal := enckeIssue (.pkstat o) .stat o s

/-! ## Blocks and batches (R304, R309) -/

def f32Finite (w : Nat) : Bool := w / 2 ^ 23 % 256 != 255
/-- Positive and finite. -/
def f32Positive (w : Nat) : Bool := decide (0 < w) && decide (w < 0x7F800000)

def pow2In (x lo hi : Nat) : Bool := decide (lo ≤ x) && decide (x ≤ hi) && x == 2 ^ Nat.log2 x

/-- Bytes of an element of the value table. -/
def valueSize (vfmt : Nat) : Nat := if vfmt = 0 then 2 else 4

/-- The block of R304. Whether a BETA of −0 is "at least +0" is open: it is refused (log 50). -/
def parseKeySet (b : List Byte) : Option KeySet :=
  let logn := fieldAt b 0 1
  let vf := fieldAt b 1 1
  let fl := fieldAt b 2 1
  let mom := fl == 1
  let hd := fieldAt b 4 2
  let rl := fieldAt b 6 2
  let k1 := fieldAt b 8 8
  let k2 := fieldAt b 0x10 8
  let vt := fieldAt b 0x18 8
  let rs := fieldAt b 0x20 8
  let mt := fieldAt b 0x28 8
  let ms := fieldAt b 0x30 8
  let clip := fieldAt b 0x38 4
  let lr := fieldAt b 0x3C 4
  let beta := fieldAt b 0x40 4
  let g := fieldAt b 0x44 4
  let sizes := decide (8 ≤ logn) && decide (logn ≤ 12) && decide (vf ≤ 1) && decide (fl ≤ 1) && fieldAt b 3 1 == 0
    && decide (64 ≤ hd) && decide (hd ≤ 512) && hd % 32 == 0 && decide (64 ≤ rl) && decide (rl ≤ 4096) && rl % 64 == 0
  let tables := k1 % 128 == 0 && k2 % 128 == 0 && vt % 65536 == 0 && pow2In rs 128 65536
    && decide (rl * valueSize vf ≤ rs)
    && (if mom then mt % 65536 == 0 && pow2In ms 128 65536 && decide (rl * 4 ≤ ms) else mt == 0 && ms == 0)
  let reals := decide (0 < clip) && decide (clip ≤ 0x7F800000) && f32Finite lr
    && (if mom then decide (beta < 0x7F800000) else beta == 0)
  if sizes && tables && reals && g % 4 == 0 && zeroAt b 0x4C 52 then
    some
      { logn := logn, vfmt := vf, mom := mom, hd := hd, rlen := rl, k1 := k1, k2 := k2, vt := vt, rstr := rs, mt := mt
        mstr := ms, clip := BitVec.ofNat 32 clip, lr := BitVec.ofNat 32 lr, beta := BitVec.ofNat 32 beta, cwg := g
        cwv := BitVec.ofNat 32 (fieldAt b 0x48 4) }
  else none

/-- The batch descriptor of a PKQ or, `upd`, a PKU of a set. -/
def parseBatch (upd : Bool) (k : KeySet) (b : List Byte) : Option Batch :=
  let x : Batch :=
    { nq := fieldAt b 0 4, k := fieldAt b 4 1, wmode := fieldAt b 5 1, smf := BitVec.ofNat 32 (fieldAt b 0x0C 4)
      qg := fieldAt b 0x10 4, qstr := fieldAt b 0x14 4, og := fieldAt b 0x18 4, ostr := fieldAt b 0x1C 4
      sg := fieldAt b 0x20 4, sstr := fieldAt b 0x24 4, cwg := fieldAt b 0x28 4, cwv := BitVec.ofNat 32 (fieldAt b 0x2C 4) }
  let both := decide (x.nq ≤ 65536) && decide (1 ≤ x.k) && decide (x.k ≤ 64) && zeroAt b 6 6 && x.qg % 16 == 0
    && x.qstr % 16 == 0 && x.sg % 8 == 0 && x.sstr % 8 == 0 && decide (8 * x.k ≤ x.sstr) && x.cwg % 4 == 0
    && zeroAt b 0x30 16
  let own :=
    if upd then x.wmode == 0 && x.smf == 0 && decide (4 * k.rlen ≤ x.qstr) && x.og == 0 && x.ostr == 0
    else decide (x.wmode ≤ 1) && (if x.wmode = 1 then f32Positive x.smf.toNat else x.smf == 0)
      && decide (4 * k.hd ≤ x.qstr) && x.og % 16 == 0 && x.ostr % 16 == 0 && decide (4 * k.rlen ≤ x.ostr)
  if both && own then some x else none

/-! ## The checks at acceptance (R308) -/

def errSet : Nat := 9

/-- Keys of one half. -/
def KeySet.n (k : KeySet) : Nat := 2 ^ k.logn

/-- The tables of a set: base, bytes, and whether a PKU writes them. -/
def KeySet.tables (k : KeySet) : List (Nat × Nat × Bool) :=
  let n := KeySet.n k
  [(k.k1, 2 * k.hd * n, false), (k.k2, 2 * k.hd * n, false),
    (k.vt, (n * n - 1) * k.rstr + k.rlen * valueSize k.vfmt, true)]
    ++ if k.mom then [(k.mt, (n * n - 1) * k.mstr + k.rlen * 4, true)] else []

/-- SPAN, then RANGE, of the tables (R308). A table is within one range register where its first and last bytes resolve through
the same one; of bytes between that a lower-numbered register covers only the permissions count (log 50). -/
def tablesBad (c : Ctx) (k : KeySet) (upd : Bool) : Option (Nat × Nat) :=
  let ts := KeySet.tables k
  if ts.any (fun t => decide (2 ^ 60 < t.1 + t.2.1)) then some (errSpan, 0)
  else if ts.any (fun t => (rangeIndex c t.1).isNone || rangeIndex c t.1 != rangeIndex c (t.1 + t.2.1 - 1)) then
    some (errSpan, 0)
  else
    (ts.findSome? fun t => firstDenied c t.1 t.2.1 (permEk + permRd + if upd && t.2.2 then permWr else 0)).map fun a =>
      (errRange, a)

/-- The SRAM extents of a batch: base, bytes, write (R309). -/
def batchExtents (upd : Bool) (k : KeySet) (b : Batch) : List (Nat × Nat × Bool) :=
  if b.nq = 0 then []
  else
    let span (stride n : Nat) : Nat := (b.nq - 1) * stride + n
    if upd then [(b.qg, span b.qstr (4 * k.rlen), false), (b.sg, span b.sstr (8 * b.k), false)]
    else [(b.qg, span b.qstr (4 * k.hd), false), (b.og, span b.ostr (4 * k.rlen), true), (b.sg, span b.sstr (8 * b.k), true)]

/-- The first byte of a global extent that is out of the window or not the context's (R133). -/
def globalBad (s : State) (ctx g n : Nat) : Option Nat :=
  let firsts := g :: ((List.range ((g + n - 1) / 1024 - g / 1024)).map fun i => (g / 1024 + i + 1) * 1024)
  firsts.find? fun b => decide (2 ^ 32 ≤ b) || !ownedBy s b ctx

def extentsOverlap (es : List (Nat × Nat × Bool)) : Bool :=
  match es with
  | [] => false
  | a :: t => (t.any fun b => (a.2.2 || b.2.2) && decide (a.1 < b.1 + b.2.1) && decide (b.1 < a.1 + a.2.1))
      || extentsOverlap t

/-- What acceptance finds. -/
structure EkChecked where
  block : Option KeySet
  batch : Option Batch
  locks : List (Nat × Nat × Bool)
  deriving DecidableEq, Repr

def Ctx.set (c : Ctx) (n : Nat) : SetState := Table.get SetState.start n c.sets

/-- The bytes at SA: none outside the local window; the poisoned address where poisoned. -/
def ekBytes (s : State) (k : EkKind) (o : OpEncke) (x : Ix) : List Byte ⊕ (Nat × Nat) :=
  let n := EkKind.size k
  if localExtent x.t x.gr < ekSa o x + n then .inr (errDesc, 0)
  else
    match sramForm (Ix.core x) x.t x.gr .loc (ekSa o x) with
    | none => .inr (errDesc, 0)
    | some g =>
      match (if k == .stat then none else sramMarked s g n) with
      | some b => .inr (errPoison, windowTag .loc + ekSa o x + (b - g))
      | none => .inl (readSram s g n)

/-- The completion word of a command with .cw fails its check. -/
def ekCwBad (s : State) (o : OpEncke) (ctx g : Nat) : Option (Nat × Nat) :=
  if o.cw.isSome && !ownedBy s g ctx then some (errSram, windowTag .glb + g) else none

/-- The checks of a PKLOAD's block. -/
def checkLoad (s : State) (o : OpEncke) (x : Ix) (b : List Byte) : EkChecked ⊕ (Nat × Nat) :=
  match parseKeySet b with
  | none => .inr (errDesc, 0)
  | some k =>
    match tablesBad (State.ctx s (Ix.ctx x)) k false with
    | some e => .inr e
    | none =>
      match ekCwBad s o (Ix.ctx x) k.cwg with
      | some e => .inr e
      | none => .inl ⟨some k, none, []⟩

/-- The checks of a batch of a loaded set. -/
def checkBatch (s : State) (upd : Bool) (o : OpEncke) (x : Ix) (k : KeySet) (b : List Byte) : EkChecked ⊕ (Nat × Nat) :=
  match parseBatch upd k b with
  | none => .inr (errDesc, 0)
  | some d =>
    match tablesBad (State.ctx s (Ix.ctx x)) k upd with
    | some e => .inr e
    | none =>
      let es := batchExtents upd k d
      match es.findSome? fun e => globalBad s (Ix.ctx x) e.1 e.2.1 with
      | some a => .inr (errSram, windowTag .glb + a)
      | none =>
        match ekCwBad s o (Ix.ctx x) d.cwg with
        | some e => .inr e
        | none => if extentsOverlap es then .inr (errOverlap, 0) else .inl ⟨some k, some d, es⟩

/-- The checks of R308 step 2, in order. -/
def enckeCheck (s : State) (k : EkKind) (o : OpEncke) (x : Ix) : EkChecked ⊕ (Nat × Nat) :=
  let set := (Ix.s x o.b.val).toNat
  let st := Ctx.set (State.ctx s (Ix.ctx x)) set
  if 15 < set then .inr (errDesc, 0)
  else if k ≠ .load ∧ st.block.isNone then .inr (errSet, 0)
  else
    match ekBytes s k o x, k, st.block with
    | .inr e, _, _ => .inr e
    | .inl b, .load, _ => checkLoad s o x b
    | .inl b, .query, some ks => checkBatch s false o x ks b
    | .inl b, .update, some ks => checkBatch s true o x ks b
    | .inl _, _, _ => .inl ⟨none, none, []⟩

/-! ## Acceptance (R308) -/

def freeEkSlot (d : Die) : Option Nat := (List.range 32).find? fun n => (Table.find n d.ek).isNone

/-- Set a table set's state: loaded with a block or not; staged copies go in all four fronts, the counts clear (R311). -/
def loadSet (ctx set : Nat) (b : Option KeySet) (s : State) : State :=
  let s1 := State.modCtx s ctx fun c => { c with sets := Table.set set ⟨b, 0, 0⟩ c.sets }
  (List.range 4).foldl (fun s d => State.modDie s d fun x =>
    { x with staged := x.staged.map fun g =>
        if g.ctx == ctx && g.set == set && g.upto.isNone then { g with upto := some s1.nextKey } else g }) s1

/-- EKERRd (R321). -/
def ekRecord (kind slot ctx core : Nat) : Dword := engineRecord kind slot ctx + BitVec.ofNat 64 (core * 2 ^ 24)

/-- Record an error and latch it on the counter (R321, R168). -/
def noteEkError (die slot core ctx band : Nat) (dc : Fin 6) (m : Dword) (kind addr : Nat) (s : State) : State :=
  latchError band (some dc) m
    (BitVec.ofNat 64 (if kind = errDesc ∨ kind = errOverlap ∨ kind = errSpan ∨ kind = errAbort ∨ kind = errSet then 0 else addr))
    causeEngineError (State.modDie s die fun d => { d with ekerr := ekRecord kind slot ctx core })

/-- The block or descriptor is read: the code's findings count (R141). -/
def senseBlock (k : EkKind) (o : OpEncke) (x : Ix) (s : State) : State :=
  if k == .stat then s
  else
    match sramForm (Ix.core x) x.t x.gr .loc (ekSa o x) with
    | some g => senseSram g (EkKind.size k) s
    | none => s

/-- The effect of an accepted Encke instruction. -/
def acceptEncke (k : EkKind) (o : OpEncke) (slot : Nat) (x : Ix) (s0 : State) : Res :=
  let s := senseBlock k o x s0
  let set := (Ix.s x o.b.val).toNat
  match enckeCheck s k o x with
  | .inr (e, a) =>
    let s1 := if k = .load ∧ set ≤ 15 then loadSet (Ix.ctx x) set none s else s
    { s := noteEkError (Ix.die x) slot (Ix.core x) (Ix.ctx x) x.key o.dc (maskOf x.act) e a s1 }
  | .inl c =>
    let cmd : EkCmd :=
      { kind := k, band := x.key, team := x.b.team, ctx := Ix.ctx x, core := Ix.core x, lanes := maskOf x.act, dc := o.dc
        set := set, block := c.block, batch := c.batch, sa := ekSa o x, cw := o.cw, qp := 0, cur := none, parked := false
        written := false, seq := s.nextKey, uid := 0 }
    let s1 := State.modDie { s with nextKey := s.nextKey + 1 } (Ix.die x) fun d => { d with ek := Table.set slot cmd d.ek }
    let ls := c.locks.map fun e => (⟨2 ^ 47 + e.1, 2 ^ 47 + e.1 + e.2.1 - 1, e.2.2, 32 + slot⟩ : Lock)
    { s := countUp x.key (some o.dc) (State.modCore s1 (Ix.core x) fun q => { q with locks := q.locks ++ ls }) }

/-- A posted command can be accepted now (R308). -/
def enckeReady (s : State) (o : Offer) : Bool :=
  match offerIx s o, enckeKind o.instr with
  | some x, some (k, e) =>
    !marked s x.b.team && decide (o.price ≤ (State.core s (Ix.core x)).bucket) && !counterFull o.instr x
      && !bandFence s x.key && (freeEkSlot (State.die s (Ix.die x))).isSome
      && match enckeCheck s k e x with
        | .inr _ => true
        | .inl c => lockRoom (State.core s (Ix.core x)) c.locks.length
  | _, _ => false

/-- ENCKE_ACCEPT: the first posted command that can be accepted is (R308). -/
def execEnckeAccept (die : Nat) (s : State) : Host.Outcome State Fault Refusal :=
  if 4 ≤ die then .fault .noAgent
  else
    let s1 := State.modDie s die fun d => { d with ekOffers := d.ekOffers.filter fun o => (offerIx s o).isSome }
    match (State.die s1 die).ekOffers.find? (enckeReady s1) with
    | none => .next s1
    | some o =>
      match offerIx s1 o, enckeKind o.instr, freeEkSlot (State.die s1 die) with
      | some x, some (k, e), some slot =>
        let s2 := State.modDie s1 die fun d => { d with ekOffers := d.ekOffers.erase o }
        .next (perform o.instr (enckeCause k e) (acceptEncke k e slot) (offerIssue o) x (chargeCore (Ix.core x) o.price s2))
      | _, _, _ => .next s1

/-! ## Order between commands (R310) -/

/-- The command may do its work: what R310 makes it wait for has ended. -/
def ekMayWork (d : Die) (c : EkCmd) : Bool :=
  !d.ek.any fun e => decide (e.2.seq < c.seq) && e.2.ctx == c.ctx && e.2.set == c.set
    && (c.kind != .query || e.2.kind == .load || e.2.kind == .update)

/-- The command may begin a query now. -/
def ekMayBegin (s : State) (die : Nat) (c : EkCmd) : Bool :=
  !c.parked && c.cur.isNone && !marked s c.team && ekMayWork (State.die s die) c
    && match c.batch with
      | some b => decide (c.qp < b.nq)
      | none => false

def State.modEk (s : State) (die slot : Nat) (f : EkCmd → EkCmd) : State :=
  State.modDie s die fun d => { d with ek := Table.alter slot f d.ek }

/-! ## The end of a command (R317, R321) -/

/-- The command leaves its slot, its locks go and its counter falls. -/
def dropEk (die slot : Nat) (c : EkCmd) (s : State) : State :=
  countDown c.band (some c.dc)
    (State.modCore (State.modDie s die fun d => { d with ek := Table.del slot d.ek }) c.core fun k =>
      { k with locks := k.locks.filter fun l => l.slot != 32 + slot })

/-- A PKU invalidates the issuing core's L1 before its counter falls, so that a lane that found the counter at zero reads its
rows (R317, R340). -/
def clearL1 (c : EkCmd) (s : State) : State :=
  if c.kind = .update then State.modCore s c.core fun k => { k with l1 := [] } else s

/-- A command ends in error; of a PKU some rows may be written (R321), and what R340 orders after it holds as well. -/
def failEk (die slot : Nat) (c : EkCmd) (kind addr : Nat) (s : State) : State :=
  noteEkError die slot c.core c.ctx c.band c.dc c.lanes kind addr (dropEk die slot c (clearL1 c s))

/-- A fault parks the command and posts its record (R320). -/
def parkEk (die slot : Nat) (c : EkCmd) (kind entry caddr vaddr : Nat) (write : Bool) (s : State) : State :=
  postFault die (engineFault s.nextKey c.core c.ctx 2 slot kind entry caddr vaddr write (faultBig s caddr))
    (State.modEk { s with nextKey := s.nextKey + 1 } die slot fun x =>
      { x with parked := true, cur := none, uid := s.nextKey })

/-- An error or a fault found by the command's work. -/
def haltEk (die slot : Nat) (c : EkCmd) (h : Halt_) (s : State) : State :=
  match h with
  | .error k a => failEk die slot c k a s
  | .fault k e ca va w => parkEk die slot c k e ca va w s

/-! ## Reading and writing for a command -/

/-- A span of global SRAM is reached from a die now: its messages pass no earlier one and no crossing that is down (R129). -/
def spanClear (s : State) (die g n : Nat) : Bool := meshClear s die none g && meshClear s die none (g + n - 1)

/-- Read a span of global SRAM for a context at a die: its bytes, or the error it gives (R140, R141, R406). -/
def ekSramRead (s : State) (die ctx g n : Nat) : (List Byte ⊕ Halt_) × State :=
  match globalBad s ctx g n with
  | some b => (.inr (.error errSram (windowTag .glb + b)), s)
  | none =>
    let s1 := senseSram g n (chargeBytes (g / 2 ^ 30) die n (chargeBytes die (g / 2 ^ 30) n s))
    match sramPoisoned s1 g n with
    | some b => (.inr (.error errPoison (windowTag .glb + b)), s1)
    | none => (.inl (readSram s1 g n), s1)

def ekSramWrite (s : State) (die ctx g : Nat) (bs : List Byte) : State ⊕ Halt_ :=
  match globalBad s ctx g bs.length with
  | some b => .inr (.error errSram (windowTag .glb + b))
  | none => .inl (writeSram (chargeBytes die (g / 2 ^ 30) bs.length s) g bs)

/-- Translate the pages of rows at the front's die before any is read: the rows' chip and memory addresses once all are
translated, none while a request waits or holds (R103, R305, R320). -/
def ekTranslate (die ctx need : Nat) (write : Bool) : List Nat → State → Option (List (Nat × Nat) ⊕ Halt_) × State
  | [], s => (some (.inl []), s)
  | va :: vs, s =>
    match rangeCheck (State.ctx s ctx) va need with
    | none => (some (.inr (.error errRange va)), s)
    | some c =>
      match xlate die c (if write then .write else .read) s with
      | (.held, s1) | (.wait, s1) => (none, s1)
      | (.fault k e, s1) => (some (.inr (.fault k e c va write)), s1)
      | (.ok u o, s1) =>
        match ekTranslate die ctx need write vs s1 with
        | (some (.inl ps), s2) => (some (.inl ((c, unitKey u o) :: ps)), s2)
        | r => r

/-- The die of the row unit that serves a memory address (R16, R305). -/
def memDie (m : Nat) : Nat := unitDie (m / 2 ^ 40)

/-- Lines of a row of `n` bytes. -/
def rowLines (n : Nat) : Nat := (n + 127) / 128

/-- Ask for the lines of a row that its home unit's die does not hold well enough; their page is translated (R122, R320). -/
def askLines (die : Nat) (p : Nat × Nat) (n : Nat) (write : Bool) (s : State) : State :=
  (List.range (rowLines n)).foldl (fun s i => askPlaced die (lineOf p.1 + i) write (p.2 + 128 * i) s) s

/-- All lines of a row are there. -/
def linesReady (s : State) (die : Nat) (p : Nat × Nat) (n : Nat) (write : Bool) : Bool :=
  (List.range (rowLines n)).all fun i => holdsLine (State.die s die) (lineOf p.1 + i) write

/-- Read a row whose lines are there: its bytes, or the offset of its lowest poisoned byte (R119). -/
def ekRead (die c n : Nat) (s : State) : List Byte ⊕ Nat :=
  (List.range (rowLines n)).foldl (fun r i =>
    match r with
    | .inr b => .inr b
    | .inl bs =>
      match (readMem die s (c + 128 * i) (Nat.min 128 (n - 128 * i))).1 with
      | .ok x => .inl (bs ++ x)
      | .poison b => .inr (128 * i + b)
      | _ => .inl bs) (.inl [])

/-- Write a row whose lines are there in M (R122). -/
def ekWrite (die c : Nat) (bs : List Byte) (s : State) : State :=
  (List.range (rowLines bs.length)).foldl (fun s i => (writeMem die s (c + 128 * i) ((bs.drop (128 * i)).take 128)).2) s

/-! ## Staging (R311) -/

/-- Bytes of both key tables. -/
def KeySet.keyBytes (k : KeySet) : Nat := 4 * k.hd * KeySet.n k

/-- The buffer holds the tables that this command uses, whole. -/
def stagedFor (d : Die) (c : EkCmd) : Bool :=
  match d.staged, c.block with
  | some g, some k => g.ctx == c.ctx && g.set == c.set && g.block == k && g.done == KeySet.keyBytes k
      && (match g.upto with
        | none => true
        | some q => decide (c.seq < q))
  | _, _ => false

/-- The buffer is being filled for another command that still wants it. -/
def stagingElse (s : State) (die slot : Nat) : Bool :=
  match (State.die s die).staged with
  | none => false
  | some g => g.done != KeySet.keyBytes g.block && g.slot != slot
      && match Table.find g.slot (State.die s die).ek with
        | some c => c.kind == .query && ekMayBegin s die c
        | none => false

/-- Address of byte `o` of the two key tables, one after the other. -/
def keyVa (k : KeySet) (o : Nat) : Nat :=
  if o < KeySet.keyBytes k / 2 then k.k1 + o else k.k2 + (o - KeySet.keyBytes k / 2)

/-- KEY_STAGING: the next line of the key tables that a command needs goes into the buffer, through the L2 of the front's die
(R311, R320). -/
def execKeyStaging (die slot : Nat) (s : State) : Host.Outcome State Fault Refusal :=
  if 4 ≤ die then .fault .noAgent
  else
    let d := State.die s die
    match Table.find slot d.ek with
    | none => .next s
    | some c =>
      match c.block with
      | none => .next s
      | some k =>
        if c.kind != .query || !ekMayBegin s die c || stagedFor d c || stagingElse s die slot then .next s
        else
          let g : Staged := match d.staged with
            | some g => if g.slot == slot && g.ctx == c.ctx && g.set == c.set && g.block == k
                && g.done != KeySet.keyBytes k then g else ⟨c.ctx, c.set, none, k, [], 0, slot⟩
            | none => ⟨c.ctx, c.set, none, k, [], 0, slot⟩
          let va := keyVa k g.done
          match rangeCheck (State.ctx s c.ctx) va (permEk + permRd) with
          | none => .next (failEk die slot c errRange va s)
          | some a =>
            match readMem die s a 128 with
            | (.busy, s1) => .next s1
            | (.poison b, s1) => .next (failEk die slot c errPoison (va + b) s1)
            | (.fault f e, s1) => .next (parkEk die slot c f e a va false s1)
            | (.ok bs, s1) =>
              .next (State.modDie (chargeDie die 24 s1) die fun d =>
                { d with staged := some { g with keys := Memory.store g.keys g.done bs, done := g.done + 128 } })

/-! ## Scoring (R312, R313) -/

/-- The half-word at an offset. -/
def halfAt (rd : Nat → Byte) (o : Nat) : Nat := (rd o).toNat + 256 * (rd (o + 1)).toNat

def f32Round (x : Fp.Num) : Word := BitVec.ofNat 32 (Fp.round .f32 x .rn false 0).1
def f32Value (w : Word) : Fp.Num := Fp.value .f32 w.toNat

/-- An exact zero sum is +0. -/
def plusZero : Fp.Num := .fin false 0 0 false

/-- score(h, i) of R312: query half at `q`, key at `k`. -/
def score (hd : Nat) (q k : Nat → Nat) : Word :=
  f32Round ((List.range hd).foldl (fun v e =>
    (Fp.addN v (Fp.mulN (Fp.value .bf16 (q e)) (Fp.value .bf16 (k e))).1 .rn).1) plusZero)

/-- Item (i, a) ranks before (j, b): the greater value, NaNs last, equals by the lower index. -/
def ranksBefore (x y : Nat × Word) : Bool :=
  let nx := Fp.patNan .f32 x.2.toNat
  let ny := Fp.patNan .f32 y.2.toNat
  let kx := Fp.key0 .f32 x.2.toNat
  let ky := Fp.key0 .f32 y.2.toNat
  if nx then ny && decide (x.1 < y.1)
  else if ny then true
  else decide (ky < kx) || (kx == ky && decide (x.1 < y.1))

/-- Put an item at its rank. -/
def rankIn (x : Nat × Word) : List (Nat × Word) → List (Nat × Word)
  | [] => [x]
  | y :: t => if ranksBefore x y then x :: y :: t else y :: rankIn x t

/-- The first `k` items by rank. -/
def topK (k : Nat) (xs : List (Nat × Word)) : List (Nat × Word) :=
  xs.foldl (fun t x => (rankIn x t).take k) []

/-- The keys of one half, ranked. -/
def rankHalf (b : KeySet) (k half : Nat) (keys : Table Byte) (q : List Byte) : List (Nat × Word) :=
  let base := half * (KeySet.keyBytes b / 2)
  topK k ((List.range (KeySet.n b)).map fun i =>
    (i, score b.hd (fun e => halfAt (fun o => q.getD o 0) (2 * (half * b.hd + e)))
      fun e => halfAt (Memory.read keys) (base + 2 * b.hd * i + 2 * e)))

/-- The ranked candidates: row index and sum (R312). -/
def candidates (b : KeySet) (k : Nat) (keys : Table Byte) (q : List Byte) : List (Nat × Word) :=
  let h1 := rankHalf b k 0 keys q
  let h2 := rankHalf b k 1 keys q
  topK k (h1.flatMap fun x => h2.map fun y =>
    (x.1 * KeySet.n b + y.1,
      f32Round (Fp.addN plusZero (Fp.addN (f32Value x.2) (f32Value y.2) .rn).1 .rn).1))

/-- The exact quotient of two positive numbers, kept to 64 bits more than either with a sticky bit. -/
def quotN (x y : Fp.Num) : Fp.Num :=
  match x, y with
  | .fin s m e _, .fin t n f _ =>
    if n = 0 then .nan
    else
      let b := Nat.log2 n + 64
      .fin (s != t) (m * 2 ^ b / n) (e - f - b) (m * 2 ^ b % n != 0)
  | _, _ => .nan

def isSpecial (w : Word) : Bool := !f32Finite w.toNat

/-- The weights of R313. -/
def weights (wmode : Nat) (smf : Word) (s : List Word) : List Word :=
  if wmode = 0 then s
  else if s.any isSpecial then s.map fun _ => BitVec.ofNat 32 (Fp.Fmt.nan .f32)
  else
    let s0 := f32Value (s.headD 0)
    let es := s.map fun x =>
      BitVec.ofNat 32 (Fp.sfu .exp2 (f32Round (Fp.mulN (Fp.addN (f32Value x) (Fp.neg s0) .rn).1 (f32Value smf)).1).toNat .rn).1
    let z := f32Round (es.foldl (fun v e => (Fp.addN v (f32Value e) .rn).1) plusZero)
    es.map fun e => f32Round (quotN (f32Value e) (f32Value z))

/-- A selection record's bytes (R309). -/
def recordOf (sel : List (Nat × Word)) : List Byte := sel.flatMap fun e => natLe 4 e.1 ++ natLe 4 e.2.toNat

/-! ## A query (R312 to R316) -/

def rowVa (k : KeySet) (r : Nat) : Nat := k.vt + r * k.rstr
def momVa (k : KeySet) (r : Nat) : Nat := k.mt + r * k.mstr

/-- The words of a vector of .f32. -/
def f32Words (bs : List Byte) (n : Nat) : List Word := (wordsAt bs 0 4 n).map (BitVec.ofNat 32)

/-- A query ends: QP and NQDONE rise (R319, R320). -/
def finishQuery (die slot : Nat) (c : EkCmd) (s : State) : State :=
  State.modCtx (State.modEk s die slot fun x => { x with qp := x.qp + 1, cur := none }) c.ctx fun y =>
    { y with sets := Table.alter c.set (fun z => { z with nqdone := z.nqdone + 1 }) y.sets }

/-- The query in progress has all its pages translated: its row work goes on (R320). -/
def EkCmd.rows (c : EkCmd) : Option (EkQuery × List (Nat × Nat)) :=
  match c.cur with
  | some q => q.place.map fun p => (q, p)
  | none => none

/-- The query in progress waits for the translation of its pages. -/
def EkCmd.waiting (c : EkCmd) : Option EkQuery :=
  match c.cur with
  | some q => if q.place.isNone then some q else none
  | none => none

/-- The pages of a query's rows are translated, whole or in part (R320): a fault parks the command, the last lets the row work
begin. -/
def placeRows (die slot : Nat) (c : EkCmd) (q : EkQuery) (need : Nat) (write : Bool) (rows : List Nat)
    (fin : State → State ⊕ Halt_) (s : State) : State :=
  match ekTranslate die c.ctx need write rows s with
  | (none, s1) => s1
  | (some (.inr h), s1) => haltEk die slot c h s1
  | (some (.inl ps), s1) =>
    match fin s1 with
    | .inr h => haltEk die slot c h s1
    | .inl s2 => State.modEk s2 die slot fun x => { x with cur := some { q with place := some ps } }

/-- PKQ_QUERY: the front reads, scores, ranks and weights the query at QP; then it translates its value rows' pages and writes
its selection record (R312, R313, R320, R406). A PKQ reads no momentum row, and the momentum pages of a set with MOM = 1 are not
translated (log 50). -/
def execPkqQuery (die slot : Nat) (s : State) : Host.Outcome State Fault Refusal :=
  if 4 ≤ die then .fault .noAgent
  else
    let d := State.die s die
    match Table.find slot d.ek with
    | none => .next s
    | some c =>
      match c.block, c.batch with
      | some k, some b =>
        if c.kind != .query then .next s
        else
          match EkCmd.waiting c, d.staged with
          | some q, _ =>
            if !spanClear s die (b.sg + q.q * b.sstr) (8 * b.k) then .next s
            else
              .next (placeRows die slot c q (permEk + permRd) false (q.sel.map fun x => rowVa k x.1)
                (fun s1 => ekSramWrite s1 die c.ctx (b.sg + q.q * b.sstr) (recordOf q.sel)) s)
          | none, some g =>
            if !ekMayBegin s die c || !stagedFor d c || !spanClear s die (b.qg + c.qp * b.qstr) (4 * k.hd) then .next s
            else
              match ekSramRead s die c.ctx (b.qg + c.qp * b.qstr) (4 * k.hd) with
              | (.inr h, s1) => .next (haltEk die slot c h s1)
              | (.inl q, s1) =>
                let cs := candidates k b.k g.keys q
                let sel := (cs.map fun x => x.1).zip (weights b.wmode b.smf (cs.map fun x => x.2))
                .next (State.modEk (chargeDie die (KeySet.n k * k.hd / 16) s1) die slot fun x =>
                  { x with cur := some ⟨c.qp, sel, 0, List.replicate k.rlen 0, none⟩ })
          | none, none => .next s
      | _, _ => .next s

/-- Element `e` of a value row. -/
def rowElem (k : KeySet) (row : List Byte) (e : Nat) : Fp.Num :=
  let z := valueSize k.vfmt
  Fp.value (if k.vfmt = 0 then .bf16 else .f32) (fieldAt row (z * e) z)

/-- Add a weighted row into the accumulator (R314). -/
def gatherRow (k : KeySet) (w : Word) (row : List Byte) (acc : List Word) : List Word :=
  (List.range k.rlen).map fun e => f32Round (Fp.fmaN (f32Value w) (rowElem k row e) (f32Value (acc.getD e 0)) .rn).1

/-- The last rank is done: the output vector is written and the query ends (R314). -/
def writeOutput (die slot src : Nat) (c : EkCmd) (b : Batch) (q : EkQuery) (acc : List Word) (s : State) : State :=
  match ekSramWrite s src c.ctx (b.og + q.q * b.ostr) (acc.flatMap fun w => natLe 4 w.toNat) with
  | .inr h => haltEk die slot c h s
  | .inl s1 => finishQuery die slot c s1

/-- The die an accumulator comes from to the row of its rank (R314). -/
def accFrom (die : Nat) (ps : List (Nat × Nat)) (rank : Nat) : Nat :=
  if rank = 0 then die else (ps[rank - 1]?.map fun p => memDie p.2).getD die

/-- ENCKE_ROW_GATHER: the home unit of the next rank's row, once its die's L2 holds the row, adds it into the accumulator
(R122, R314). -/
def execEnckeRowGather (die slot : Nat) (s : State) : Host.Outcome State Fault Refusal :=
  if 4 ≤ die then .fault .noAgent
  else
    match Table.find slot (State.die s die).ek with
    | none => .next s
    | some c =>
      match c.block, c.batch, EkCmd.rows c with
      | some k, some b, some (q, ps) =>
        if c.kind != .query then .next s
        else
          match q.sel[q.rank]?, ps[q.rank]? with
          | some (r, w), some p =>
            let n := k.rlen * valueSize k.vfmt
            let home := memDie p.2
            if !linesReady s home p n false then .next (askLines home p n false s)
            else if q.rank + 1 = q.sel.length ∧ !spanClear s home (b.og + q.q * b.ostr) (4 * k.rlen) then .next s
            else
              match ekRead home p.1 n s with
              | .inr o => .next (failEk die slot c errPoison (rowVa k r + o) s)
              | .inl row =>
                let acc := gatherRow k w row q.acc
                let s1 := chargeDie home (8 * k.rlen) (chargeBytes (accFrom die ps q.rank) home (4 * k.rlen) s)
                if q.rank + 1 = q.sel.length then .next (writeOutput die slot home c b q acc s1)
                else .next (State.modEk s1 die slot fun x => { x with cur := some { q with rank := q.rank + 1, acc := acc } })
          | _, _ => .next s
      | _, _, _ => .next s

/-- Entries of a selection record as read. -/
def readSelection (bs : List Byte) (n : Nat) : List (Nat × Word) :=
  (List.range n).map fun r => (fieldAt bs (8 * r) 4, BitVec.ofNat 32 (fieldAt bs (8 * r + 4) 4))

/-- Addresses of a query's rows, momentum rows among them (R320). -/
def updateRows (k : KeySet) (sel : List (Nat × Word)) : List Nat :=
  sel.flatMap fun e => rowVa k e.1 :: if k.mom then [momVa k e.1] else []

/-- PKU_QUERY: the front reads and checks every row of the query at QP; then it translates their pages (R315, R320). -/
def execPkuQuery (die slot : Nat) (s : State) : Host.Outcome State Fault Refusal :=
  if 4 ≤ die then .fault .noAgent
  else
    match Table.find slot (State.die s die).ek with
    | none => .next s
    | some c =>
      match c.block, c.batch with
      | some k, some b =>
        if c.kind != .update then .next s
        else
          match EkCmd.waiting c with
          | some q =>
            .next (placeRows die slot c q (permEk + permRd + permWr) true (updateRows k q.sel) (fun s1 => .inl s1) s)
          | none =>
            if !ekMayBegin s die c || !spanClear s die (b.sg + c.qp * b.sstr) (8 * b.k)
                || !spanClear s die (b.qg + c.qp * b.qstr) (4 * k.rlen) then .next s
            else
              match ekSramRead s die c.ctx (b.sg + c.qp * b.sstr) (8 * b.k) with
              | (.inr h, s1) => .next (haltEk die slot c h s1)
              | (.inl rb, s1) =>
                match ekSramRead s1 die c.ctx (b.qg + c.qp * b.qstr) (4 * k.rlen) with
                | (.inr h, s2) => .next (haltEk die slot c h s2)
                | (.inl gb, s2) =>
                  let sel := readSelection rb b.k
                  match (List.range b.k).find? fun r => decide (KeySet.n k * KeySet.n k ≤ (sel.getD r (0, 0)).1) with
                  | some r => .next (failEk die slot c errIndex (windowTag .glb + b.sg + c.qp * b.sstr + 8 * r) s2)
                  | none => .next (State.modEk s2 die slot fun x =>
                      { x with cur := some ⟨c.qp, sel, 0, f32Words gb k.rlen, none⟩ })
      | _, _ => .next s

/-- S > CLIP², exactly (R315). -/
def exceeds (sum clip : Fp.Num) : Bool :=
  match (Fp.addN sum (Fp.neg (Fp.mulN clip clip).1) .rn).1 with
  | .fin s m _ _ => !s && m != 0
  | _ => false

/-- round(.f32, CLIP / sqrt(S)) for finite numbers (R315). -/
def clipFactor (sum clip : Fp.Num) : Word :=
  match (Fp.mulN clip clip).1, sum with
  | .fin _ m e _, .fin _ n f _ =>
    let odd := ((e - f) % 2).toNat
    let b := Nat.log2 n + 160
    let num := m * 2 ^ (odd + 2 * b)
    let q := num / n
    let r := Fp.isqrt q
    f32Round (.fin false r ((e - f - odd) / 2 - b) (num % n != 0 || r * r != q))
  | _, _ => 0

/-- One block of 64 elements of a row (R315): its value elements, its momentum elements, whether it is skipped. -/
def updateBlock (k : KeySet) (w : Word) (dy : List Word) (row mom : List Byte) (blk : Nat) : List Nat × List Nat × Bool :=
  let vf : Fp.Fmt := if k.vfmt = 0 then .bf16 else .f32
  let es := (List.range 64).map fun i => 64 * blk + i
  let g := es.map fun e => BitVec.ofNat 32 (Fp.arith .mul .f32 w.toNat (dy.getD e 0).toNat 0 .rn false 0).1
  let old (e : Nat) : Nat := fieldAt row (valueSize k.vfmt * e) (valueSize k.vfmt)
  let oldM (e : Nat) : Nat := fieldAt mom (4 * e) 4
  if g.any isSpecial then (es.map old, if k.mom then es.map oldM else [], true)
  else
    let sum := g.foldl (fun v x => (Fp.addN v (Fp.mulN (f32Value x) (f32Value x)).1 .rn).1) plusZero
    let f := clipFactor sum (f32Value k.clip)
    let g1 := if exceeds sum (f32Value k.clip) then g.map fun x => f32Round (Fp.mulN (f32Value x) (f32Value f)).1 else g
    let ms := if k.mom then (es.zip g1).map fun p =>
        (f32Round (Fp.fmaN (f32Value k.beta) (Fp.value .f32 (oldM p.1)) (f32Value p.2) .rn).1) else g1
    (((es.zip ms).map fun p =>
        (Fp.round vf (Fp.fmaN (Fp.neg (f32Value k.lr)) (f32Value p.2) (Fp.value vf (old p.1)) .rn).1 .rn false 0).1),
      if k.mom then ms.map fun m => m.toNat else [], false)

/-- The whole row: new value bytes, new momentum bytes, blocks skipped. -/
def updateRow (k : KeySet) (w : Word) (dy : List Word) (row mom : List Byte) : List Byte × List Byte × Nat :=
  let bs := (List.range (k.rlen / 64)).map (updateBlock k w dy row mom)
  (bs.flatMap (fun b => b.1.flatMap (natLe (valueSize k.vfmt))), bs.flatMap (fun b => b.2.1.flatMap (natLe 4)),
    (bs.filter fun b => b.2.2).length)

/-- Read, update and write one row and its momentum row, whose lines are there in M: the blocks skipped, or the address of the
lowest poisoned byte (R315, R316). -/
def applyRow (k : KeySet) (r : Nat) (w : Word) (dy : List Word) (p : Nat × Nat) (m : Option (Nat × Nat)) (s : State) :
    (Nat ⊕ Nat) × State :=
  match ekRead (memDie p.2) p.1 (k.rlen * valueSize k.vfmt) s with
  | .inr o => (.inr (rowVa k r + o), s)
  | .inl row =>
    match m with
    | none =>
      let u := updateRow k w dy row []
      (.inl u.2.2, ekWrite (memDie p.2) p.1 u.1 s)
    | some m =>
      match ekRead (memDie m.2) m.1 (k.rlen * 4) s with
      | .inr o => (.inr (momVa k r + o), s)
      | .inl mom =>
        let u := updateRow k w dy row mom
        (.inl u.2.2, ekWrite (memDie m.2) m.1 u.2.1 (ekWrite (memDie p.2) p.1 u.1 s))

/-- The places of a rank's value row and, with MOM, its momentum row. -/
def rowPlaces (k : KeySet) (ps : List (Nat × Nat)) (rank : Nat) : Option (Nat × Nat) × Option (Nat × Nat) :=
  if k.mom then (ps[2 * rank]?, ps[2 * rank + 1]?) else (ps[rank]?, none)

/-- ENCKE_ROW_UPDATE: the home unit of the next rank's row, once the row and its momentum row are held in M, updates it,
indivisibly (R122, R315, R316). -/
def execEnckeRowUpdate (die slot : Nat) (s : State) : Host.Outcome State Fault Refusal :=
  if 4 ≤ die then .fault .noAgent
  else
    match Table.find slot (State.die s die).ek with
    | none => .next s
    | some c =>
      match c.block, EkCmd.rows c with
      | some k, some (q, ps) =>
        if c.kind != .update then .next s
        else
          match q.sel[q.rank]?, rowPlaces k ps q.rank with
          | some (r, w), (some p, m) =>
            let n := k.rlen * valueSize k.vfmt
            let ready := linesReady s (memDie p.2) p n true && (match m with
              | some m => linesReady s (memDie m.2) m (k.rlen * 4) true
              | none => true)
            if !ready then
              let s1 := askLines (memDie p.2) p n true s
              .next (match m with
                | some m => askLines (memDie m.2) m (k.rlen * 4) true s1
                | none => s1)
            else
              match applyRow k r w q.acc p m s with
              | (.inr a, s1) => .next (failEk die slot c errPoison a s1)
              | (.inl skips, s1) =>
                let s2 := State.modCtx (chargeDie (memDie p.2) (8 * k.rlen) (chargeBytes die (memDie p.2) (4 * k.rlen) s1)) c.ctx
                  fun y => { y with sets := Table.alter c.set (fun z => { z with nskip := z.nskip + BitVec.ofNat 32 skips }) y.sets }
                if q.rank + 1 = q.sel.length then .next (finishQuery die slot c s2)
                else .next (State.modEk s2 die slot fun x => { x with cur := some { q with rank := q.rank + 1 } })
          | _, _ => .next s
      | _, _ => .next s

/-- A query with its pages translated has row work to do on a page (R320; log 49). -/
def enckeUses (s : State) (page : Nat) : Bool :=
  (List.range 4).any fun d => (State.die s d).ek.any fun e =>
    match EkCmd.rows e.2 with
    | some (_, ps) => ps.any fun p => p.1 / 2 ^ 16 == page
    | none => false

/-! ## Status and completion (R317, R319) -/

/-- Commands of a set that are in flight at any front, but for one. -/
def inFlight (s : State) (ctx set seq : Nat) : Nat :=
  (List.range 4).foldl (fun n d => n + ((State.die s d).ek.filter fun e =>
    e.2.ctx == ctx && e.2.set == set && e.2.seq != seq).length) 0

/-- STATE of PKSTAT (R319). -/
def setStatus (s : State) (ctx set : Nat) : Nat :=
  (if (Ctx.set (State.ctx s ctx) set).block.isSome then 1 else 0)
    + (List.range 4).foldl (fun n d =>
        match (State.die s d).staged with
        | some g => if g.ctx == ctx && g.set == set && g.upto.isNone && g.done == KeySet.keyBytes g.block then n + 2 ^ (4 + d)
            else n
        | none => n) 0

/-- PKSTAT_STATUS_WRITE: the 16 bytes of status, once earlier commands of the set have ended (R319, R310). -/
def execPkstatStatusWrite (die slot : Nat) (s : State) : Host.Outcome State Fault Refusal :=
  if 4 ≤ die then .fault .noAgent
  else
    match Table.find slot (State.die s die).ek with
    | none => .next s
    | some c =>
      if c.kind != .stat || c.written || c.parked || marked s c.team || !ekMayWork (State.die s die) c then .next s
      else
        match State.home s c.band with
        | none => .next s
        | some (_, t, g) =>
          match sramForm c.core t g .loc c.sa with
          | none => .next (failEk die slot c errDesc 0 s)
          | some b =>
            let x := Ctx.set (State.ctx s c.ctx) c.set
            if !spanClear s die b 16 then .next s
            else .next (State.modEk (writeSram (chargeBytes die (b / 2 ^ 30) 16 s) b (natLe 4 (setStatus s c.ctx c.set) ++ natLe 4 x.nqdone.toNat
              ++ natLe 4 x.nskip.toNat ++ natLe 4 (inFlight s c.ctx c.set c.seq))) die slot fun y => { y with written := true })

/-- The command has finished its work. -/
def ekDone (c : EkCmd) : Bool :=
  match c.kind, c.batch with
  | .load, _ => true
  | .stat, _ => c.written
  | _, some b => c.cur.isNone && c.qp == b.nq
  | _, none => false

/-- The completion word and value of a command (R304, R309). -/
def ekWord (c : EkCmd) : Option (Nat × Word) :=
  if c.cw.isNone then none
  else
    match c.batch, c.block with
    | some b, _ => some (b.cwg, b.cwv)
    | none, some k => some (k.cwg, k.cwv)
    | none, none => none

/-- ENCKE_COMPLETE: a PKLOAD changes its set, a PKU invalidates the L1, then the steps of R317 (R311, R483). -/
def execEnckeComplete (die slot : Nat) (s : State) : Host.Outcome State Fault Refusal :=
  if 4 ≤ die then .fault .noAgent
  else
    match Table.find slot (State.die s die).ek with
    | none => .next s
    | some c =>
      if c.parked || !ekDone c || quiesced s c.team (128 + die) || !ekMayWork (State.die s die) c then .next s
      else
        let s1 := if c.kind = .load then loadSet c.ctx c.set c.block s else s
        let s2 := clearL1 c s1
        if (match ekWord c with
          | some (g, _) => !spanClear s die g 4
          | none => false) then .next s
        else .next (match ekWord c with
          | some (g, v) =>
            if cwBad s2 c.ctx g then failEk die slot c errSram (windowTag .glb + g) s2
            else dropEk die slot c (writeSram (chargeRoute die (g / 2 ^ 30) s2) g (natLe 4 v.toNat))
          | none => dropEk die slot c s2)

/-! ## EKRESd (R322) and quiesce (R323) -/

/-- A GO of EKRESd. -/
def goEncke (die slot : Nat) (abort : Bool) (act : EkCmd → State → State) (s : State) : Host.Outcome State Fault Refusal :=
  if 4 ≤ die then .fault .noAgent
  else
    let reg (bad : Bool) (s : State) : State :=
      State.modDie s die fun d => { d with ekres := resumeReg slot abort bad d.ekres }
    match Table.find slot (State.die s die).ek with
    | some c => if c.parked && slot < 32 then .next (act c (reg false s)) else .next (reg true s)
    | none => .next (reg true s)

/-- EKRES_RESUME (R322). -/
def execEkresResume (die slot : Nat) (s : State) : Host.Outcome State Fault Refusal :=
  goEncke die slot false (fun _ s => State.modEk s die slot fun c => { c with parked := false }) s

/-- EKRES_ABORT (R322). -/
def execEkresAbort (die slot : Nat) (s : State) : Host.Outcome State Fault Refusal :=
  goEncke die slot true (fun c s => failEk die slot c errAbort 0 s) s

/-- ENCKE_QUIESCE: the marker returns once no query of the team is in progress (R323). -/
def execEnckeQuiesce (die team : Nat) (s : State) : Host.Outcome State Fault Refusal :=
  if 4 ≤ die then .fault .noAgent
  else if (State.die s die).ek.any fun e => e.2.team == team && e.2.cur.isSome then .next s
  else .next (returnMark team (128 + die) s)

end Sys2Proof.Machine
end

