-- ==== Sys2Proof/Machine/Fabric.lean ====
section
/-!
DEFINITION. Header-compressed streams, sent and received, and requests from peers
(spec/08_loads_stores_atomics.md R193 to R202; spec/19_firmware_host_fabric.md R477, R478).
-/
namespace Sys2Proof.Machine

/-! ## Sending records (R199 to R202) -/

def Core.stream (c : Core) (k : Nat) : Option SendStream := Table.find k c.streams
def State.setStream (s : State) (core k : Nat) (x : SendStream) : State :=
  State.modCore s core fun c => { c with streams := Table.set k x c.streams }
def State.dropStream (s : State) (core k : Nat) : State :=
  State.modCore s core fun c => { c with streams := Table.del k c.streams }

/-- SID of a core and route. -/
def streamId (core k : Nat) : Nat := core + 64 * k

/-- The station a stream's records leave by. -/
def streamStation (peer k core : Nat) : Nat := (peer + k + core) % 24

/-- Data padded with zero bytes to a multiple of 8. -/
def padTo8 (bs : List Byte) : List Byte := bs ++ List.replicate ((8 - bs.length % 8) % 8) 0

/-- SZ of a record (R200). -/
def sizeCode (z : Nat) : Nat := if z = 4 then 0 else if z = 8 then 1 else 2

/-- An OPEN (1) or FULL (2) record. -/
def fullRecord (kind core k pctx va : Nat) (data : List Byte) : List Byte :=
  natLe 1 kind ++ natLe 1 (sizeCode data.length) ++ natLe 2 (streamId core k) ++ natLe 4 (pctx % 256) ++ natLe 8 va ++ padTo8 data

/-- A DATA record. -/
def dataRecord (tag : Nat) (delta : Int) (data : List Byte) : List Byte :=
  natLe 1 3 ++ natLe 1 (sizeCode data.length) ++ natLe 2 tag ++ natLe 4 (delta % ((2 ^ 32 : Nat) : Int)).toNat ++ padTo8 data

def closeRecord (tag : Nat) : List Byte := natLe 1 4 ++ natLe 1 0 ++ natLe 2 tag ++ natLe 4 0

/-- Send a stream's buffer as one write (R201). -/
def sendBuffer (core k : Nat) (x : SendStream) (s : State) : SendStream × State :=
  if x.buf.isEmpty then (x, s)
  else ({ x with buf := [], owners := [], age := 0 }, State.send s (.strm (streamStation x.peer k core) x.peer x.buf))

/-- Put a record into the buffer, sending it where the record does not fit or fills it. -/
def putRecord (core k : Nat) (r : List Byte) (who : List (Nat × Nat)) (x : SendStream) (s : State) : SendStream × State :=
  let y := if 256 < x.buf.length + r.length then sendBuffer core k x s else (x, s)
  let z : SendStream := { y.1 with buf := y.1.buf ++ r, owners := y.1.owners ++ who, idle := 0 }
  if 256 ≤ z.buf.length then sendBuffer core k z y.2 else (z, y.2)

/-- Close a stream. DESIGN CHOICE (log 18): one whose OPEN was refused is forgotten with it, and with it the time that it was to
wait (R200). Its records leave, with CLOSE last where it is open. One that is opening stays until its TAG is known, and
then closes (R202). -/
def closeStream (core k : Nat) (s : State) : State :=
  match Core.stream (State.core s core) k with
  | none => s
  | some x =>
    let y := if x.phase = 1 then putRecord core k (closeRecord x.tag) [] x s else (x, s)
    let z := sendBuffer core k y.1 y.2
    if x.phase = 0 then State.setStream z.2 core k { z.1 with closing := true } else State.dropStream z.2 core k

/-- The record of one lane's request, by the stream's state (R200). -/
def laneRecord (core k : Nat) (x : SendStream) (va : Nat) (data : List Byte) : List Byte :=
  let d : Int := (va : Int) - (x.addr : Int)
  if x.phase = 1 ∧ -(2 ^ 31 : Int) ≤ d ∧ d ≤ 2 ^ 31 - 1 then dataRecord x.tag d data
  else fullRecord 2 core k x.pctx va data

/-- One lane of STR.strm: its record goes into the stream of its route. DESIGN CHOICE (log 18): a stream keeps the PEER and PCTX
that the route had when it was opened. -/
def streamLane (core ctx op : Nat) (s : State) (a : Acc) : State :=
  let f := a.addr.toNat
  let k := routeOf f
  let va := f % 2 ^ 48
  let r := Ctx.route (State.ctx s ctx) k
  let s1 := match Core.stream (State.core s core) k with
    | some x => if x.ctx = ctx then s else closeStream core k s
    | none => s
  let y := match Core.stream (State.core s1 core) k with
    | some x => putRecord core k (laneRecord core k x va a.data) [(op, a.lane)] x s1
    | none =>
      let x : SendStream := ⟨ctx, 0, 0, va, r % 1024, r / 2 ^ 16 % 256, 0, 0, 0, [], [], false⟩
      putRecord core k (fullRecord 1 core k x.pctx va a.data) [(op, a.lane)] x s1
  State.setStream y.2 core k { y.1 with addr := va }

/-- STR.strm waits while the stream of a lane's route is being opened by another context, or is to close once its TAG is
known (log 18). -/
def streamHold (addr : Ix → Nat → Nat) (x : Ix) (s : State) : Bool :=
  x.act.any fun l =>
    match Core.stream (State.core s (Ix.core x)) (routeOf (addr x l)) with
    | some y => y.closing || (y.ctx != Ix.ctx x && y.phase == 0)
    | none => false

/-- Its record is made as it issues: until then it waits for what stands before the request of one of its lanes (R200, R327,
R330). -/
def streamWaits (order : Order) (z : Nat) (addr : Ix → Nat → Nat) (x : Ix) (s : State) : Bool :=
  x.act.any fun l => eventWaits s ⟨x.key, l, s.nextKey, order, .fab, true, .fabric (addr x l), z⟩

def strmAddr (o : OpMem WTy) (x : Ix) (l : Nat) : Nat := genericAddr x l o.s o.a (offsetBytes o.off (WTy.size o.ty))

/-- The hold of STR.strm. -/
def strmHold (o : OpMem WTy) (x : Ix) (s : State) : Bool :=
  streamHold (strmAddr o) x s || streamWaits o.order (WTy.size o.ty) (strmAddr o) x s

/-- STR.strm (R199 to R201): of the lanes that name the same bytes only the highest makes a record (R180). -/
def execStrStrm (o : OpMem WTy) (s : State) : Host.Outcome State Fault Refusal :=
  issueUnless (.strStrm o) (strmHold o) (fabricCause (strmAddr o) (WTy.size o.ty)) (fun x s =>
    let as := (suppressLower (fabricAccs x (WTy.size o.ty) (strmAddr o) (fun x l => regBytes x l o.d (WTy.size o.ty)) noBytes)).map
      fun a => if a.stage == .waiting then { a with stage := .translated } else a
    let n := newOp (.strStrm o) x .store o.dc .fab o.order as false 0 s
    { s := (as.filter fun a => a.stage == .translated).foldl (streamLane (Ix.core x) (Ix.ctx x) n.1) (countIssue x o.dc n.2) }) s

/-- ACK: the sender learns its TAG, or that the peer's table is full (R200). -/
def execStreamAck (ok : Bool) (sid tag : Nat) (s : State) : Host.Outcome State Fault Refusal :=
  let core := sid % 64
  let k := sid / 64 % 16
  match Core.stream (State.core s core) k with
  | none => .next s
  | some x =>
    if x.phase = 0 then
      let s1 := State.setStream s core k
        (if ok then { x with phase := 1, tag := tag, closing := false } else { x with phase := 2, refused := 0, closing := false })
      .next (if x.closing then closeStream core k s1 else s1)
    else .next s

/-- STREAM_BUFFER_TIMEOUT: 32 cycles after the buffer's first record it is sent (R201). -/
def execStreamBufferTimeout (core route : Nat) (s : State) : Host.Outcome State Fault Refusal :=
  if 64 ≤ core then .fault .noAgent
  else
    match Core.stream (State.core s core) route with
    | none => .next s
    | some x =>
      if x.buf.isEmpty ∨ x.age < 32 then .next s
      else
        let y := sendBuffer core route x s
        .next (State.setStream y.2 core route y.1)

/-- STREAM_IDLE_CLOSE: a stream without a record for 4,096 cycles is closed (R202). -/
def execStreamIdleClose (core route : Nat) (s : State) : Host.Outcome State Fault Refusal :=
  if 64 ≤ core then .fault .noAgent
  else
    match Core.stream (State.core s core) route with
    | none => .next s
    | some x => if x.phase = 1 ∧ 4096 ≤ x.idle then .next (closeStream core route s) else .next s

/-- STREAM_REOPEN_TIMEOUT: 65,536 cycles after a refused OPEN the stream may send OPEN again (R200). -/
def execStreamReopenTimeout (core route : Nat) (s : State) : Host.Outcome State Fault Refusal :=
  if 64 ≤ core then .fault .noAgent
  else
    match Core.stream (State.core s core) route with
    | none => .next s
    | some x => if x.phase = 2 ∧ 65536 ≤ x.refused then .next (closeStream core route s) else .next s

/-! ## Requests from peers (R193, R195, R478) -/

def errDenied : Nat := 1
def errNotMapped : Nat := 2
def errPeerPoison : Nat := 3
def errNoRoute : Nat := 4

/-- The context is live: it exists and has not been stopped. -/
def liveCtx (s : State) (n : Nat) : Bool :=
  match Table.find n s.ctxs with
  | some c => !c.stopped
  | none => false

/-- What a request gets: an answer, or none where it must wait. -/
abbrev Answered := Option PeerAnswer × State

/-- The hub's access of `n` bytes within one line for a peer, with the die whose unit and L2 it goes through (log 44). -/
structure HubNeed where
  die : Nat
  c : Nat
  va : Nat
  n : Nat
  deriving DecidableEq, Repr

/-- The accesses of `n` bytes from `va` up, cut at lines; none where a byte fails its check (R90, R91, R193). -/
def hubNeeds (s : State) (ctx need : Nat) : Nat → Nat → Nat → Option (List HubNeed)
  | 0, _, _ => some []
  | k + 1, va, n =>
    if n = 0 then some []
    else
      match rangeCheck (State.ctx s ctx) va need with
      | none => none
      | some c =>
        let m := Nat.min n (128 - c % 128)
        (hubNeeds s ctx need k (va + m) (n - m)).map fun t => ⟨hubDie s c, c, va, m⟩ :: t

/-- Ask for the lines of accesses by the hub: the first fault, and whether a line is still to come (R99, R125). -/
def askHub (write : Bool) : List HubNeed → State → Option Halt_ × Bool × State
  | [], s => (none, false, s)
  | n :: ns, s =>
    let a := askNeeds n.die [⟨n.c, n.va, write⟩] s
    let r := askHub write ns a.2.2
    (a.1.or r.1, a.2.1 || r.2.1, r.2.2)

/-- Read the lines of accesses that are there: the bytes up to the first poisoned one, and whether one is (R119). -/
def hubRead : List HubNeed → State → List Byte × Bool
  | [], _ => ([], false)
  | n :: ns, s =>
    match (readMem n.die s n.c n.n).1 with
    | .ok bs =>
      let r := hubRead ns s
      (bs ++ r.1, r.2)
    | .poison o =>
      match (readMem n.die s n.c o).1 with
      | .ok bs => (bs, true)
      | _ => ([], true)
    | _ => ([], true)

/-- Write accesses whose lines are there in M. -/
def hubWrite : List HubNeed → List Byte → State → State
  | [], _, s => s
  | n :: ns, bs, s => hubWrite ns (bs.drop n.n) (writeMem n.die s n.c (bs.take n.n)).2

/-- Permission bits a request needs beside RM (R91). -/
def peerNeed : PeerOp → Nat
  | .read _ => permRd
  | .write _ => permWr
  | .atomic .. => permRd + permWr + permAt

def peerSize : PeerOp → Nat
  | .read n => n
  | .write bs => bs.length
  | .atomic _ n _ _ _ => n

/-- Permissions of a request beside RM, and whether it writes. -/
def peerWrites : PeerOp → Bool
  | .write _ | .atomic .. => true
  | .read _ => false

/-- The effect of a request whose lines are there: its answer. -/
def peerEffect (op : PeerOp) (ns : List HubNeed) (s : State) : PeerAnswer × State :=
  match op with
  | .write bs => (.ok 0, hubWrite ns bs s)
  | .read _ =>
    let r := hubRead ns s
    (if r.2 then .error errPeerPoison else .ok (leNat r.1), s)
  | .atomic o n sgn cmp val =>
    let r := hubRead ns s
    if r.2 then (.error errPeerPoison, s)
    else
      match atomicNew o sgn n (leNat r.1) val cmp with
      | none => (.ok (leNat r.1), s)
      | some x => (.ok (leNat r.1), hubWrite ns (natLe n x) s)

/-- The request is checked, translated and, once all its lines are there, performed whole (R193, R195). -/
def peerPerform (pctx va : Nat) (op : PeerOp) (s : State) : Answered :=
  if !liveCtx s pctx then (some (.error errDenied), s)
  else
    match hubNeeds s pctx (permRm + peerNeed op) 3 va (peerSize op) with
    | none => (some (.error errDenied), s)
    | some ns =>
      match askHub (peerWrites op) ns s with
      | (some _, _, s1) => (some (.error errNotMapped), s1)
      | (none, true, s1) => (none, s1)
      | (none, false, s1) =>
        let r := peerEffect op ns s1
        (some r.1, r.2)

/-- The device accepts the request: reads and atomics of 4, 8 or 16 bytes, naturally aligned, and writes of up to 256
(R477). -/
def peerAccepts (r : PeerReq) : Bool :=
  decide (r.va < 2 ^ 48) && decide (r.va / 2 ^ 16 < 0xFFFFFFFE)
    && match r.op with
      | .write bs => decide (bs.length ≤ 256)
      | .read n | .atomic _ n _ _ _ => (n == 4 || n == 8 || n == 16) && r.va % n == 0

/-- The switch to which a station connects, as the applied blob sets the number of switches; none before a blob is applied
(R477). -/
def switchOf (s : State) (station : Nat) : Option Nat := s.fw.blob.applied.map fun b => station % b.nsw

/-! ## Receiving records (R200 to R202) -/

def Station.start : Station := ⟨false, [], []⟩

def State.station (s : State) (n : Nat) : Station := Table.get Station.start n s.stations
def State.modStation (s : State) (n : Nat) (f : Station → Station) : State :=
  { s with stations := Table.set n (f (State.station s n)) s.stations }

/-- Bytes of a record's data. -/
def recordData (sz : Nat) (data : List Byte) : List Byte := data.take (4 * 2 ^ (sz % 4))

/-- The stream's address moves with each record (R200). -/
def moveStream (station peer sid va : Nat) (s : State) : State :=
  State.modStation s station fun t =>
    { t with recv := t.recv.map fun e => if e.2.peer == peer && e.2.sid == sid then (e.1, { e.2 with addr := va }) else e }

/-- A peer's request: its answer (R193, R478). -/
def serveRequest (r : PeerReq) (s : State) : Try :=
  match peerPerform r.pctx r.va r.op s with
  | (none, s1) => .busy s1
  | (some a, s1) => .done (State.send s1 (.answer r.station a))

/-- The completion of a stream-window write is no error; it reports the kind of each record's error, for its lane (R196, R201,
R202, R478). -/
def recordDone (station : Nat) (a : PeerAnswer) (s : State) : State :=
  State.send s (.recordDone station (match a with
    | .ok _ => 0
    | .error k => k))

/-- OPEN: the write is performed, a context is allocated where the table has room, and the sender is told (R200, R202). -/
def serveOpen (r : StreamFullRec) (s : State) : Try :=
  match peerPerform r.pctx r.va (.write (recordData r.sz r.data)) s with
  | (none, s1) => .busy s1
  | (some a, s1) =>
    let s2 := recordDone r.station a s1
    let free := (List.range 256).find? fun n => (Table.find n (State.station s2 r.station).recv).isNone
    match (if a = .error errDenied then none else free) with
    | none => .done (State.send s2 (.streamAck r.station r.peer r.sid false 0))
    | some n =>
      .done (State.send (State.modStation s2 r.station fun t =>
        { t with recv := Table.set n ⟨r.peer, r.sid, r.pctx, r.va⟩ t.recv }) (.streamAck r.station r.peer r.sid true n))

/-- FULL: the write is performed at its full address (R200). -/
def serveFull (r : StreamFullRec) (s : State) : Try :=
  match peerPerform r.pctx r.va (.write (recordData r.sz r.data)) s with
  | (none, s1) => .busy s1
  | (some a, s1) => .done (moveStream r.station r.peer r.sid r.va (recordDone r.station a s1))

/-- DATA: the write is performed at the stream's address plus DELTA (R200). DESIGN CHOICE (log 29): a TAG that names no context
is reported DENIED for its record. -/
def serveData (r : StreamDataRec) (s : State) : Try :=
  match Table.find r.tag (State.station s r.station).recv with
  | none => .done (recordDone r.station (.error errDenied) s)
  | some x =>
    let va := (((x.addr : Int) + r.delta.toInt) % ((2 ^ 48 : Nat) : Int)).toNat
    match peerPerform x.pctx va (.write (recordData r.sz r.data)) s with
    | (none, s1) => .busy s1
    | (some a, s1) =>
      .done (State.modStation (recordDone r.station a s1) r.station fun t =>
        { t with recv := Table.alter r.tag (fun y => { y with addr := va }) t.recv })

/-- CLOSE: the receive context is freed (R202). -/
def serveClose (station tag : Nat) (s : State) : State :=
  State.modStation s station fun t => { t with recv := Table.del tag t.recv }

/-- One arrival at a station, performed once its lines are there. -/
def serveArrival (n : Nat) (a : Arrival) (s : State) : Try :=
  match a with
  | .request r => serveRequest r s
  | .opened r => serveOpen r s
  | .full r => serveFull r s
  | .data r => serveData r s
  | .closed tag => .done (serveClose n tag s)

/-- An arrival is performed at once, or waits behind those that wait: a station's arrivals are performed in order (R193, R194,
R201; log 18). Nothing arrives at a station that is down (R477). -/
def arriveAt (n : Nat) (a : Arrival) (s : State) : State :=
  let wait (s : State) : State := State.modStation s n fun t => { t with queue := t.queue ++ [a] }
  if (State.station s n).down then s
  else if (State.station s n).queue.isEmpty then
    match serveArrival n a s with
    | .done s1 => s1
    | .busy s1 => wait s1
  else wait s

/-- The oldest arrival that waits at a station is tried again. -/
def serveStation (n : Nat) (s : State) : State :=
  match (if (State.station s n).down then [] else (State.station s n).queue) with
  | [] => s
  | a :: t =>
    match serveArrival n a s with
    | .done s1 => State.modStation s1 n fun x => { x with queue := t }
    | .busy s1 => s1

/-- PEER_REQUEST (R193, R478). -/
def execPeerRequest (r : PeerReq) (s : State) : Host.Outcome State Fault Refusal :=
  if 24 ≤ r.station then .fault .noAgent
  else if !peerAccepts r then .next s
  else .next (arriveAt r.station (.request r) s)

/-- STREAM_OPEN (R200, R202). -/
def execStreamOpen (r : StreamFullRec) (s : State) : Host.Outcome State Fault Refusal :=
  if 24 ≤ r.station then .fault .noAgent else .next (arriveAt r.station (.opened r) s)

/-- STREAM_FULL (R200). -/
def execStreamFull (r : StreamFullRec) (s : State) : Host.Outcome State Fault Refusal :=
  if 24 ≤ r.station then .fault .noAgent else .next (arriveAt r.station (.full r) s)

/-- STREAM_DATA (R200). -/
def execStreamData (r : StreamDataRec) (s : State) : Host.Outcome State Fault Refusal :=
  if 24 ≤ r.station then .fault .noAgent else .next (arriveAt r.station (.data r) s)

/-- STREAM_CLOSE (R202). -/
def execStreamClose (station tag : Nat) (s : State) : Host.Outcome State Fault Refusal :=
  if 24 ≤ station then .fault .noAgent else .next (arriveAt station (.closed tag) s)

end Sys2Proof.Machine
end

