-- ==== Sys2Proof/Machine/Prices.lean ====
section
/-!
DEFINITION. The addresses an instruction names in a lane, and its price at issue
(spec/17_scheduling_tokens_power.md R404, R405; spec/18_traps_fragments_preemption.md R442).
-/
namespace Sys2Proof.Machine

open Sys2Proof.Forms

/-- The generic address that an access names in a lane, and its bytes; none for an instruction that makes none. -/
def laneAccess (i : Instr) (x : Ix) (l : Nat) : Option (Nat × Nat) :=
  match i with
  | .ldNarrow o => some (genericAddr x l o.s o.a (offsetBytes o.off (NTy.size o.ty)), NTy.size o.ty)
  | .ldWide o => some (genericAddr x l o.s o.a (offsetBytes o.off (WTy.size o.ty)), WTy.size o.ty)
  | .stNarrow o => some (genericAddr x l o.s o.a (offsetBytes o.off (STy.size o.ty)), STy.size o.ty)
  | .stB128 o => some (genericAddr x l o.s o.a (offsetBytes o.off 16), 16)
  | .ldsNarrow o => some (localAddr x l o.s o.a (offsetBytes o.off (NTy.size o.ty)), NTy.size o.ty)
  | .ldsWide o => some (localAddr x l o.s o.a (offsetBytes o.off (WTy.size o.ty)), WTy.size o.ty)
  | .stsNarrow o => some (localAddr x l o.s o.a (offsetBytes o.off (STy.size o.ty)), STy.size o.ty)
  | .stsB128 o => some (localAddr x l o.s o.a (offsetBytes o.off 16), 16)
  | .atom o => some (atomAddr o x l, AW.size o.aw)
  | .red o => some (atomAddr o x l, AW.size o.aw)
  | .pref o => some (lineAddr o x l, 128)
  | .cflush o => some (lineAddr o x l, 128)
  | .cinv o => some (lineAddr o x l, 128)
  | .prefb o => some (genericAddr x l o.s o.a (offsetBytes o.off 128), 128)
  | .jtab o => some (tableAddr o x l, 4)
  | .tld o => (leastOf ((tileRows o x (capturedShape x o.t.val)).map Prod.snd)).map fun a => (a, 16)
  | .tst o => (leastOf ((tileRows o x (capturedShape x o.t.val)).map Prod.snd)).map fun a => (a, 16)
  | .launch o => some (Ix.sw x true o.a.val, 128)
  | .cbset o => some (bitmapDword (Ix.sw x true o.a.val) (Ix.s x o.b.val).toNat, 8)
  | .cbwait o => some (bitmapDword (Ix.sw x true o.a.val) (Ix.s x o.b.val).toNat, 8)
  | _ => none

/-- An address in an SRAM window. -/
def inSram (a : Nat) : Bool :=
  match windowOf (BitVec.ofNat 64 a) with
  | some (.loc, _) | some (.par, _) | some (.glb, _) => true
  | _ => false

/-- What an access to SRAM of `z` bytes costs a lane (R404). -/
def sramLane (z : Nat) : Nat := if z = 16 then 6 else 3

/-- The amounts of class PA, by where each lane's access goes (R404): base, and the sum over the active lanes. -/
def accessPrice (i : Instr) (x : Ix) : Nat × Nat :=
  let as := x.act.filterMap (laneAccess i x)
  (if as.any fun a => !inSram a.1 then 12 else 10,
    as.foldl (fun n a => n + if inSram a.1 then sramLane a.2 else 4) 0)

/-- The row charge of class PT (R404). -/
def rowCharge (i : Instr) (x : Ix) : Nat :=
  match i with
  | .tld o => 40 * shapeRows (capturedShape x o.t.val)
  | .tst o => 40 * shapeRows (capturedShape x o.t.val)
  | .tzero _ | .ard _ | .awr _ => 40 * 64
  | _ => 0

/-- The price of an instruction (R404, R405, R368). -/
def priceOf (i : Instr) (x : Ix) (shadow : Bool) : Nat :=
  let op := opcodeOf i
  let cls := priceClass op i
  let n := x.act.length
  let base := match cls with
    | .pa => (accessPrice i x).1
    | p => priceBase p
  if n = 0 then (if cls = .pa then 10 else if cls = .ps ∧ shadow then 12 else base)
  else
    let lanes := match cls with
      | .pa => (accessPrice i x).2
      | .pl => (x.act.filterMap (laneAccess i x)).foldl (fun n a => n + sramLane a.2) 0
      | p => pricePerLane p * n
    let twice := shadow && (classOf op == some .salu || classOf op == some .valu)
    let more := if shadow && classOf op == some .mem then n else 0
    (if cls = .ps ∧ shadow then 12 else base) + (if twice then 2 * lanes else lanes) + more + rowCharge i x

/-- Passes of an instruction of a band (R28, R368). -/
def passesOf (width passCount : Nat) (shadow : Bool) : Nat :=
  Nat.max 1 (((if shadow then 2 else 1) * width * passCount + 31) / 32)

end Sys2Proof.Machine
end

