-- ==== Sys2Proof/Machine/Frags.lean ====
section
/-!
DEFINITION. Firmware's acts on a fragment, a replay's entries, and a band released from FRAG_FULL
(spec/18_traps_fragments_preemption.md R442 to R446; spec/08_loads_stores_atomics.md R185).
-/
namespace Sys2Proof.Machine

/-- FRCTLc after a GO (R442): ENTRY and ACT as written, GO cleared, BAD set where the GO was refused. -/
def frctlAfter (entry act : Nat) (bad : Bool) (old : Word) : Word :=
  BitVec.ofNat 32 (entry % 128 + act * 2 ^ 8 + (if bad || old.getLsbD 17 then 2 ^ 17 else 0))

/-- One GO on an entry: done where the entry permits it, else BAD (R442). -/
def goFrag (core entry act : Nat) (ok : Frag → Bool) (f : Frag → State → State) (s : State) :
    Host.Outcome State Fault Refusal :=
  if 64 ≤ core then .fault .noAgent
  else
    let done (bad : Bool) (s : State) : State :=
      State.modCore s core fun c => { c with frctl := frctlAfter entry act bad c.frctl }
    match Table.find entry (State.core s core).frags with
    | none => .next (done true s)
    | some g => if ok g then .next (done false (f g s)) else .next (done true s)

/-- The group of a fragment, as its replay issues it (R443). -/
def fragGroup (entry : Nat) (f : Frag) (price : Nat) : Group := ⟨f.lanes, f.pc, f.log.hdr, some entry, price⟩

/-- The fragment of an instruction fetch (R440). -/
def Frag.ofFetch (f : Frag) : Bool := f.log.w0 == 0 && f.log.w1 == 0

/-- The lowest byte that a lane's instruction fetch names, as it now fails: the header, the slot's words, or for an ECALL
the words it reads (R441). -/
def fetchByte (s : State) (ctx : Nat) (b : Band) (f : Frag) (l : Nat) : Nat :=
  let bad (a : Nat) : Bool := match fetchWord s (f.band / 1024) ctx a with
    | .ok _ | .busy => false
    | _ => true
  let y := Band.lane b l
  let p := Pc.ofNat y.tepc.toNat
  ([f.pc.clause, slotVa f.pc, slotVa f.pc + 4] ++ (if y.tcause = 0 then [] else [p.clause, slotVa p])).find? bad
    |>.getD f.pc.clause

/-- The generic address of the lowest byte that a lane's parked access names, from the log (R442). -/
def fragByte (s : State) (entry : Nat) (f : Frag) (l : Nat) : Nat :=
  match State.home s f.band with
  | none => 0
  | some (b, _, _) =>
    if Frag.ofFetch f then fetchByte s f.ctx b f l
    else
      match decode f.log.w0 f.log.w1, indexOf s f.band (fragGroup entry f 0) ⟨false, 7⟩ with
      | .ok i, some x => ((laneAccess i x l).map Prod.fst).getD 0
      | _, _ => 0

/-- The entry and its log entries go, and its count (R442, R185). -/
def endFrag (core entry : Nat) (f : Frag) (s : State) : State :=
  countDown f.band f.dc (State.modCore s core fun c => { c with frags := Table.del entry c.frags })

/-- FRAG_READY: ACT 0, legal for a PAGE fragment in state PARKED (R442). -/
def execFragReady (core entry : Nat) (s : State) : Host.Outcome State Fault Refusal :=
  goFrag core entry 0 (fun f => f.state == .parked && !f.late) (fun f s =>
    State.modCore s core fun c => { c with frags := Table.set entry { f with state := .ready } c.frags }) s

/-- A step that has to wait is tried again (log 4). -/
def retry (d : Due) (s : State) : State := if s.waiting.elem d then s else { s with waiting := s.waiting ++ [d] }

/-- FRAG_POISON: ACT 1, legal for any fragment not replaying; each lane takes POISON at the parked PC (R442), once its
uncounted results have landed (R430). -/
def execFragPoison (core entry : Nat) (s : State) : Host.Outcome State Fault Refusal :=
  goFrag core entry 1 (fun f => f.state != .replaying) (fun f s =>
    let trs : List Trap := (lanesOf f.lanes).map fun l => ⟨l, causePoison, BitVec.ofNat 64 (fragByte s entry f l)⟩
    deliverAll f.band f.pc trs (endFrag core entry f s)) s

/-- FRAG_DISCARD: ACT 2, legal for any fragment not replaying; its lanes stay parked for ever (R442). -/
def execFragDiscard (core entry : Nat) (s : State) : Host.Outcome State Fault Refusal :=
  goFrag core entry 2 (fun f => f.state != .replaying) (fun f s => endFrag core entry f s) s

/-! ## Entries kept for a replay (R444) -/

/-- A lane of the band still carries the identity, or an access of its replay is under way. -/
def stillReplaying (s : State) (key id : Nat) : Bool :=
  (match Table.find key s.bands with
    | none => false
    | some b => (List.range b.width).any fun l =>
        (Band.lane b l).run != .exited && (Band.lane b l).frag == BitVec.ofNat 32 id)
    || s.ops.any fun e => e.2.replay == some id && !e.2.accs.all Acc.over

/-- Free the kept entries of a band whose replays have passed their switch points (R444). -/
def freeKept (key : Nat) (s : State) : State :=
  let core := key / 64
  if (State.core s core).kept.isEmpty then s
  else State.modCore s core fun c => { c with kept := c.kept.filter fun e => e.2.band != key || stillReplaying s key (core * 128 + e.1) }

/-! ## FRAG_FULL (R446) -/

/-- FRAG_FULL_RESUME: once an entry is free, the oldest band parked with FRAG_FULL creates its fragment from its overflow
record and its lanes' vector registers, and runs on (R446). -/
def execFragFullResume (core : Nat) (s : State) : Host.Outcome State Fault Refusal :=
  if 64 ≤ core then .fault .noAgent
  else
    match oldestFull s core, freeEntry (State.core s core) with
    | some (key, _, o), some n =>
      match State.home s key with
      | none => .next s
      | some (_, _, g) =>
        let s1 := State.modBand s key fun b => { b with overflow := b.more.head?, more := b.more.tail }
        .next (putFragment key n o.pc o.log o.src o.pages (o.op.map fun k => Fin.ofNat 6 k) g.ctx s1)
    | _, _ => .next s

end Sys2Proof.Machine
end

