-- ==== Sys2Proof/Machine/Issue.lean ====
section
/-!
DEFINITION. How a quarter chooses what issues: entering a clause, the WAIT field, switch points, PC groups, the choice of
band and groups, payment, the timer, the split of late lanes, replays (spec/02_clauses_and_formats.md R29 to R38;
spec/15_control_flow.md R347 to R352; spec/17_scheduling_tokens_power.md R401 to R405;
spec/18_traps_fragments_preemption.md R436, R443, R445).
-/
namespace Sys2Proof.Machine

/-! ## The clause check (R30, R31, R349) -/

def Class.code : Class → Nat
  | .valu => 0
  | .mem => 1
  | .tile => 2
  | .engine => 3
  | .ctrl => 4
  | .sys => 5
  | .salu => 6

/-- A slot's instruction stands where R30 admits it: `last` says that it ends the clause. -/
def classFits (cls w : Nat) (last : Bool) : Bool :=
  match classOf (w / 2 ^ 24 % 256) with
  | none | some .salu => true
  | some .ctrl => last
  | some c => Class.code c == cls

/-- The slots of a clause from slot `i` up; `ext` says that slot `i` holds an extension word (R31). -/
def slotsLegal (h n : Nat) : Nat → Bool → List Nat → Bool
  | _, ext, [] => !ext
  | i, true, _ :: ws => slotsLegal h n (i + 1) false ws
  | i, false, w :: ws =>
    let long := slotsOf w == 2
    classFits (h / 2 ^ 25 % 8) w (decide (i + slotsOf w = n)) && (!long || (decide (i + 1 < n) && !h.testBit (10 + i)))
      && slotsLegal h n (i + 1) long ws

/-- No switch marker at or above slot NSLOT − 1 (R31). -/
def markersLegal (h n : Nat) : Bool := ((List.range 15).filter fun i => h.testBit (10 + i)).all fun i => decide (i + 1 < n)

/-- The header's own conditions (R31). -/
def headerLegal (h : Nat) : Bool :=
  h / 2 ^ 28 % 16 != 0 && h / 2 ^ 25 % 8 != 7 && h % 8 == 0 && markersLegal h (h / 2 ^ 28 % 16)

/-- A clause of header `h` and slot words `ws` is legal (R31). -/
def clauseLegal (h : Nat) (ws : List Nat) : Bool := headerLegal h && slotsLegal h (h / 2 ^ 28 % 16) 0 false ws

/-- Slot `i` holds the extension word of a long instruction. -/
def isExtension : List Nat → Nat → Bool
  | [], _ => false
  | w :: ws, i =>
    if slotsOf w = 2 then
      match ws, i with
      | _, 0 => false
      | _, 1 => true
      | [], _ => false
      | _ :: t, i + 2 => isExtension t i
    else
      match i with
      | 0 => false
      | i + 1 => isExtension ws i

/-- The words of a clause, or the first fetch that fails. -/
inductive ClauseWords where
  | ok (h : Nat) (ws : List Nat)
  | failed (va : Nat) (f : Fetch)
  deriving DecidableEq, Repr

/-- Fetch `n` words from `va` up. -/
def fetchWords (s : State) (die ctx : Nat) : Nat → Nat → List Nat → List Nat ⊕ (Nat × Fetch)
  | 0, _, got => .inl got
  | n + 1, va, got =>
    match fetchWord s die ctx va with
    | .ok w => fetchWords s die ctx n (va + 4) (got ++ [w])
    | f => .inr (va, f)

def fetchClause (s : State) (die ctx clause : Nat) : ClauseWords :=
  match fetchWord s die ctx clause with
  | .ok h =>
    match fetchWords s die ctx (h / 2 ^ 28 % 16) (clause + 4) [] with
    | .inl ws => .ok h ws
    | .inr (va, f) => .failed va f
  | f => .failed clause f

/-- Charge 6 for a clause that takes ILLEGAL_CLAUSE (R405): none where the core cannot pay now. -/
def payIllegal (core : Nat) (s : State) : Option State := if 6 ≤ (State.core s core).bucket then some (chargeCore core 6 s) else none

/-- The lanes of a group whose instruction fetch fails (R91, R105, R119, R441). -/
def fetchFails (key : Nat) (pc : Pc) (ls : List Nat) (va : Nat) (f : Fetch) (s : State) : State :=
  match f with
  | .rangeProt => deliverAll key pc (ls.map fun l => ⟨l, causeRangeProt, BitVec.ofNat 64 va⟩) s
  | .poison => deliverAll key pc (ls.map fun l => ⟨l, causePoison, BitVec.ofNat 64 va⟩) s
  | .fault k e c =>
    formFragment key pc (fetchLog (maskOf ls)) 3 [⟨k, e, c, va, maskOf ls, 3, faultBig s c⟩] none none s
  | _ => s

/-- Set where lanes stand in entering their clause. -/
def setEntry (key : Nat) (ls : List Nat) (e : Entry) (s : State) : State :=
  State.modBand s key fun b => Band.modLanes b ls fun _ y => { y with entry := e }

/-- The clause check of one group (R31, R349): on a pass the lanes wait for the WAIT field, or, above slot 0, are in. A line of
the clause that is not there is asked for. -/
def checkGroup (key ctx : Nat) (pc : Pc) (ls : List Nat) (s : State) : State :=
  match fetchClause s (key / 1024) ctx pc.clause with
  | .failed _ .busy => askClause (key / 1024) ctx pc.clause s
  | .failed va f => fetchFails key pc ls va f s
  | .ok h ws =>
    if clauseLegal h ws && (pc.slot == 0 || (decide (pc.slot < ws.length) && !isExtension ws pc.slot)) then
      setEntry key ls (if pc.slot = 0 then .wait else .inside) s
    else
      match payIllegal (key / 64) s with
      | some s2 => deliverAll key ⟨pc.clause, 0⟩ (ls.map fun l => ⟨l, causeIllegalClause, 0⟩) s2
      | none => s

/-! ## PC groups (R347) -/

/-- A lane is eligible (R347). -/
def Lane.eligible (y : Lane) : Bool := y.run == .running && !y.sw

/-- Put a lane into the groups, by its PC. -/
def putGroup (pc : Pc) (l : Nat) : List (Pc × List Nat) → List (Pc × List Nat)
  | [] => [(pc, [l])]
  | (p, ls) :: t => if p = pc then (p, ls ++ [l]) :: t else (p, ls) :: putGroup pc l t

/-- The PC groups of the lanes of a band that `f` selects. -/
def groupsWhere (f : Lane → Bool) (b : Band) : List (Pc × List Nat) :=
  ((List.range b.width).filter fun l => f (Band.lane b l)).foldl (fun gs l => putGroup (Band.lane b l).pc l gs) []

/-- The lanes of one PC that `f` selects. -/
def lanesAt (f : Lane → Bool) (b : Band) (pc : Pc) : List Nat :=
  (List.range b.width).filter fun l => f (Band.lane b l) && (Band.lane b l).pc == pc

/-- The band's team is at the end of its pre-emption budget: its groups stop at their switch points (R448). -/
def budgetSpent (t : Team) : Bool :=
  match t.save with
  | some r => r.left == 0
  | none => false

/-- The outcome of every earlier access of the lanes is known: until then they enter no clause and take no cause at it (log
14). -/
def unblocked (s : State) (key : Nat) (ls : List Nat) : Bool := ls.all fun l => !laneBlocked s key l

/-- Nothing of the band issues (R432, R446, R448, R113). -/
def bandStill (s : State) (b : Band) (t : Team) (g : Grid) : Bool :=
  b.stopped || t.halted || b.overflow.isSome || (State.ctx s g.ctx).stopped

/-! ## The WAIT field (R33, R168) -/

/-- The counters of a header's WAIT field. -/
def waitMask (h : Nat) : Nat := h / 2 ^ 4 % 2 ^ 6

/-- One group at its clause's WAIT: when every named counter reads zero, lanes of a latched error take it, and the others
enter the clause. -/
def releaseWait (key ctx : Nat) (pc : Pc) (ls : List Nat) (s : State) : State :=
  match Table.find key s.bands with
  | none => s
  | some b =>
    match fetchWord s (key / 1024) ctx pc.clause with
    | .busy => askClause (key / 1024) ctx pc.clause s
    | .ok h =>
      let ks := countersOf (waitMask h)
      if Band.drained b ks then
        let bad := latchLanes s key ks ls
        bad.foldl (takeLatch key pc ks) (setEntry key (ls.filter fun l => !bad.elem l) .inside s)
      else s
    | _ => setEntry key ls .check s

/-- CLAUSE_WAIT_RELEASE: the groups among these lanes that stand at a WAIT field (R33, R168). -/
def execClauseWaitRelease (band : Nat) (lanes : Dword) (s : State) : Host.Outcome State Fault Refusal :=
  match State.home s band with
  | none => .next s
  | some (b, _, g) =>
    let b1 := { b with lanes := b.lanes.filter fun e => lanes.getLsbD e.1 }
    .next ((groupsWhere (fun y => Lane.eligible y && y.entry == .wait) b1).foldl (fun s p =>
      let ls := p.2.filter fun l => lanes.getLsbD l
      if unblocked s band ls then releaseWait band g.ctx p.1 ls s else s) s)

/-- Every group of a band enters its clause as far as it now can. -/
def enterBand (key : Nat) (s : State) : State :=
  match State.home s key with
  | none => s
  | some (b, t, g) =>
    if bandStill s b t g || budgetSpent t then s
    else
      let s1 := (groupsWhere (fun y => Lane.eligible y && y.entry == .check) b).foldl (fun s p =>
        if unblocked s key p.2 then checkGroup key g.ctx p.1 p.2 s else s) s
      match Table.find key s1.bands with
      | none => s1
      | some b1 =>
        (groupsWhere (fun y => Lane.eligible y && y.entry == .wait) b1).foldl (fun s p =>
          if unblocked s key p.2 then releaseWait key g.ctx p.1 p.2 s else s) s1

/-! ## Switch points (R34, R36, R444) -/

/-- A lane stands at a switch point; one whose trap waits for its results does not pass it. -/
def Lane.atSwitch (y : Lane) : Bool := y.run == .running && y.sw && y.trap.isNone

/-- A lane that waits or has exited went through its switch point in this cycle (R359, R363, R373, R380, R381). -/
def Lane.wentThrough (y : Lane) : Bool := y.run != .running && y.sw

/-- The uncounted long-latency results of every lane of the group have landed (R34). -/
def groupLanded (s : State) (key : Nat) (ls : List Nat) : Bool := ls.all fun l => !uncounted s key l

/-- A lane past its switch point; at the end of a pre-emption budget it stops there (R34, R448). -/
def passSwitch (spent : Bool) (y : Lane) : Lane :=
  { y with sw := false, frag := 0xFFFF, entry := if spent then .check else y.entry }

/-- The lanes of the groups that pass their switch points now, and those that have gone through theirs. -/
def passing (s : State) (key : Nat) (lanes : Dword) (b : Band) : List Nat :=
  (((groupsWhere Lane.atSwitch b).filter fun p => p.2.any (fun l => lanes.getLsbD l) && groupLanded s key p.2).flatMap Prod.snd)
    ++ (List.range b.width).filter fun l => lanes.getLsbD l && Lane.wentThrough (Band.lane b l)

/-- The held results of lanes that pass in one cycle are applied: those of the primary decoder's group, then those of the
secondary's, each in the order of issue (R36, R227, R352; log 13). -/
def applyPassing (key : Nat) (b : Band) (ls : List Nat) (s : State) : State :=
  applyHeld key (maskOf (ls.filter fun l => (Band.lane b l).second))
    (applyHeld key (maskOf (ls.filter fun l => !(Band.lane b l).second)) s)

/-- Traps that waited for the results of their lanes are taken (R430). -/
def takeDueTraps (key : Nat) (lanes : Dword) (b : Band) (s : State) : State :=
  (List.range b.width).foldl (fun s l =>
    let y := Band.lane b l
    match y.trap with
    | some (c, a) => if lanes.getLsbD l && !uncounted s key l then deliver key y.pc s ⟨l, c, a⟩ else s
    | none => s) s

/-- SWITCH_POINT: of the groups at their switch points among these lanes, those whose results are in pass, and their held
results are applied (R34, R36, R227, R352, R443, R444). -/
def execSwitchPoint (band : Nat) (lanes : Dword) (s : State) : Host.Outcome State Fault Refusal :=
  match State.home s band with
  | none => .next s
  | some (b, t, _) =>
    let s0 := takeDueTraps band lanes b s
    let b0 := Table.get b band s0.bands
    let ls := passing s0 band lanes b0
    .next (freeKept band (if ls.isEmpty then s0
      else State.modBand (applyPassing band b0 ls s0) band fun b => Band.modLanes b ls fun _ y => passSwitch (budgetSpent t) y))

/-! ## Ready groups (R347) -/

/-- The further holds of instructions whose chapters set their own (R143, R201, R280, R291 to R294, R482). -/
def extraHold (i : Instr) (x : Ix) (s : State) : Bool :=
  match i with
  | .tld o => tileHold o false x s
  | .tst o => tileHold o true x s
  | .tzero o => writeHold o.t x s
  | .macq o => macqHold o x s
  | .mrel o => busyHold o.a x s
  | .mwait o => busyHold o.a x s
  | .ard o => ardHold o x s
  | .awr o => awrHold o x s
  | .mma o => mmaHold o x s
  | .strStrm o => strmHold o x s
  | .take _ => takeHold x s
  | .waita o => waitaHold o x s
  | _ => false

/-- A ready group: its lanes, PC, header, price; for a READY fragment its entry, and whether it is one of a fetch. -/
structure Cand where
  lanes : List Nat
  pc : Pc
  hdr : Nat
  price : Nat
  replay : Option Nat
  fetch : Bool
  deriving DecidableEq, Repr

/-- What the quarter finds of one PC group in a cycle. -/
structure Look where
  ready : Option Cand
  /-- Held for a pending source (R37, R445). -/
  pending : List Nat
  /-- Held by the arrival part of a BAR (R376). -/
  barred : List Nat
  deriving DecidableEq, Repr

def Look.none : Look := ⟨Option.none, [], []⟩

/-- The lanes whose arrival part holds a BAR. -/
def barredLanes (i : Instr) (x : Ix) : List Nat :=
  match i with
  | .bar o => if o.form != .wait && arrivalHeld x o.b.val then x.act else []
  | _ => []

/-- The lanes at a PC that are neither exited nor parked: those that take ILLEGAL_INSN there (R43). -/
def lanesHere (b : Band) (pc : Pc) : List Nat := lanesAt (fun y => y.run != .exited && y.run != .parked) b pc

/-- Look at a group whose lanes are in their clause. -/
def lookGroup (s : State) (key : Nat) (b : Band) (g : Grid) (pc : Pc) (ls : List Nat) : Look :=
  if ls.any fun l => (Band.lane b l).entry != .inside then Look.none
  else
    match fetchWord s (key / 1024) g.ctx pc.clause with
    | .ok h =>
      let cand (price : Nat) : Look := ⟨some ⟨ls, pc, h, price, none, false⟩, [], []⟩
      match fetchAt s (key / 1024) g.ctx pc with
      | .busy => Look.none
      | .illegal => if unblocked s key (lanesHere b pc) then cand 6 else Look.none
      | .ok i =>
        match indexOf s key ⟨maskOf ls, pc, h, none, 0⟩ (uses i).g with
        | none => Look.none
        | some x =>
          if heldUp i x s || extraHold i x s then
            ⟨none, if sourcePending i x s then ls else [], barredLanes i x⟩
          else cand (priceOf i x b.shadow)
      | _ => if unblocked s key ls then cand 0 else Look.none
    | _ => Look.none

/-- What a held instruction does meanwhile: it asks for what it reads or writes as it issues. -/
def askHeld (i : Instr) (x : Ix) (s : State) : State :=
  match i with
  | .tld o => askTile o false x s
  | .tst o => askTile o true x s
  | _ => askFor i x s

/-- The instruction at which the group of some lanes in its clause is held at issue (R347). -/
def heldInstr (s : State) (key : Nat) (g : Grid) (pc : Pc) (ls : List Nat) : Option (Instr × Ix) :=
  match fetchWord s (key / 1024) g.ctx pc.clause, fetchAt s (key / 1024) g.ctx pc with
  | .ok h, .ok i =>
    match indexOf s key ⟨maskOf ls, pc, h, none, 0⟩ (uses i).g with
    | none => none
    | some x => if heldUp i x s || extraHold i x s then some (i, x) else none
  | _, _ => none

/-- A group in its clause asks for the words it is to issue, or for what its held instruction waits for. -/
def askGroup (key : Nat) (b : Band) (g : Grid) (pc : Pc) (ls : List Nat) (s : State) : State :=
  if ls.any fun l => (Band.lane b l).entry != .inside then s
  else
    match heldInstr s key g pc ls with
    | some (i, x) => askHeld i x s
    | none =>
      match fetchWord s (key / 1024) g.ctx pc.clause, fetchAt s (key / 1024) g.ctx pc with
      | .busy, _ | _, .busy => askClause (key / 1024) g.ctx pc.clause s
      | _, _ => s

/-- A READY fragment's group, where its instruction can issue (R443). -/
def lookFrag (s : State) (key n : Nat) (f : Frag) (b : Band) : Option Cand :=
  if f.state != .ready then none
  else if Frag.ofFetch f then some ⟨lanesOf f.lanes, f.pc, 0, 0, some n, true⟩
  else
    match decode f.log.w0 f.log.w1 with
    | .error _ => none
    | .ok i =>
      match indexOf s key (fragGroup n f 0) (uses i).g with
      | none => none
      | some x =>
        if heldUp i x s || extraHold i x s then none
        else some ⟨lanesOf f.lanes, f.pc, f.log.hdr, priceOf i x b.shadow, some n, false⟩

/-- A READY fragment whose replay is held asks like any group. -/
def askFrag (key n : Nat) (f : Frag) (s : State) : State :=
  if f.state != .ready || Frag.ofFetch f then s
  else
    match decode f.log.w0 f.log.w1 with
    | .error _ => s
    | .ok i =>
      match indexOf s key (fragGroup n f 0) (uses i).g with
      | none => s
      | some x => if heldUp i x s || extraHold i x s then askHeld i x s else s

/-- The ready groups of a band. -/
def readyGroups (s : State) (key : Nat) : List Cand :=
  match State.home s key with
  | none => []
  | some (b, t, g) =>
    if bandStill s b t g then []
    else
      ((groupsWhere Lane.eligible b).filterMap fun p => (lookGroup s key b g p.1 p.2).ready)
        ++ (if budgetSpent t then [] else
          (State.core s (key / 64)).frags.filterMap fun e =>
            if e.2.band == key then lookFrag s key e.1 e.2 b else none)

/-! ## The choice of groups (R350, R436) -/

def Cand.lowest (c : Cand) : Nat := c.lanes.headD 0

/-- Lane count descending, then the lowest lane ascending. -/
def Cand.before (a b : Cand) : Bool :=
  decide (b.lanes.length < a.lanes.length) || (a.lanes.length == b.lanes.length && decide (Cand.lowest a < Cand.lowest b))

def insertCand (c : Cand) : List Cand → List Cand
  | [] => [c]
  | d :: t => if Cand.before c d then c :: d :: t else d :: insertCand c t

def sortCands (cs : List Cand) : List Cand := cs.foldl (fun out c => insertCand c out) []

/-- starve(g) (R350). -/
def starveOf (b : Band) (c : Cand) : Nat := c.lanes.foldl (fun n l => Nat.max n (Band.lane b l).starve) 0

/-- The group with the greatest starvation count of 256 or more, ties to the lowest lane. -/
def starved (b : Band) (cs : List Cand) : Option Cand :=
  (cs.filter fun c => decide (256 ≤ starveOf b c)).foldl (fun m c =>
    match m with
    | none => some c
    | some d =>
      if starveOf b d < starveOf b c ∨ (starveOf b d = starveOf b c ∧ Cand.lowest c < Cand.lowest d) then some c else m) none

/-- p of R350 among some groups. -/
def chooseP (b : Band) (cs : List Cand) : Option Cand :=
  match starved b cs with
  | some c => some c
  | none => (sortCands cs).head?

/-- q of R350. -/
def chooseQ (b : Band) (p : Cand) (cs : List Cand) : Option Cand :=
  if b.shadow then none else (sortCands cs).find? fun c => c != p

/-- The timer fires for this choice (R436). -/
def timerDue (b : Band) : Bool := b.armed && decide (b.deadline.toNat ≤ b.brun.toNat)

/-- A band with ready groups: its group p, its q, whether p takes TIMER in place of its issue, and what p costs. -/
structure Choice where
  key : Nat
  band : Band
  p : Cand
  q : Option Cand
  timer : Bool
  deriving DecidableEq, Repr

def Choice.cost (c : Choice) : Nat := if c.timer then 0 else c.p.price

def choiceOf (s : State) (key : Nat) (b : Band) : Option Choice :=
  let cs := readyGroups s key
  let fresh := cs.filter fun c => c.replay.isNone
  if timerDue b && !fresh.isEmpty then
    (chooseP b fresh).map fun p => ⟨key, b, p, chooseQ b p cs, true⟩
  else (chooseP b cs).map fun p => ⟨key, b, p, chooseQ b p cs, false⟩

/-! ## The timer and late lanes -/

/-- The lanes of a group take TIMER at its PC, and the timer is disarmed (R436). -/
def fireTimer (key : Nat) (c : Cand) (s : State) : State :=
  State.modBand (deliverAll key c.pc (c.lanes.map fun l => ⟨l, causeTimer, 0⟩) s) key fun b => { b with armed := false }

/-- TIMER_FIRE: the band's group p takes TIMER (R436). -/
def execTimerFire (band : Nat) (s : State) : Host.Outcome State Fault Refusal :=
  match Table.find band s.bands with
  | none => .next s
  | some b =>
    if !timerDue b then .next s
    else
      match chooseP b ((readyGroups s band).filter fun c => c.replay.isNone) with
      | none => .next s
      | some p => .next (fireTimer band p s)

/-- A source of the lane is pending from LDR or ATOMR (R445). -/
def lateLane (s : State) (u : Uses) (b : Band) (l : Nat) : Bool :=
  (Band.lane b l).pend.any fun p => (regsOf u.v).elem p.1 && match Table.find p.2 s.ops with
    | some o => Op.remote o
    | none => false

/-- An instruction that a LATE fragment can park: none that reads another lane's register, and of the control instructions
only JTAB (R353, R445). -/
def maySplit (i : Instr) : Bool :=
  (uses i).xv.isEmpty && (classOf (opcodeOf i) != some .ctrl || match i with
    | .jtab _ => true
    | _ => false)

/-- A group split for its late lanes: the fragment's lanes, with the instruction (R445); none where no split is made. -/
def lateGroup (s : State) (key : Nat) (pc : Pc) (ls : List Nat) : Option (Instr × Ix × List Nat) :=
  match State.home s key with
  | none => none
  | some (b, t, g) =>
    if bandStill s b t g || b.lthresh == 0 || ls.isEmpty || ls.any (fun l =>
        let y := Band.lane b l
        !Lane.eligible y || y.entry != .inside || y.pc != pc || decide (y.stalled < b.lthresh.toNat)) then none
    else
      match fetchWord s (key / 1024) g.ctx pc.clause, fetchAt s (key / 1024) g.ctx pc with
      | .ok h, .ok i =>
        match indexOf s key ⟨maskOf ls, pc, h, none, 0⟩ (uses i).g with
        | none => none
        | some x =>
          let late := x.act.filter (lateLane s (uses i) b)
          if late.isEmpty || late.length == x.act.length || !maySplit i
              || (openEntry s (key / 64)).isNone then none
          else some (i, x, late)
      | _, _ => none

/-- LATE_SPLIT: the late lanes of a group become a fragment in state LANDING, whose log entry is written at once, and the
others can issue (R440, R445). -/
def execLateSplit (band : Nat) (lanes : Dword) (s : State) : Host.Outcome State Fault Refusal :=
  match Table.find band s.bands with
  | none => .next s
  | some b =>
    let ls := lanesOf lanes
    match lateGroup s band (Band.lane b (ls.headD 0)).pc ls, openEntry s (band / 64) with
    | some (i, x, late), some n =>
      let log := logOf i { x with act := late } 0
      let c := State.core s (band / 64)
      let f : Frag :=
        { band := band, ctx := Ix.ctx x, late := true, state := .landing, lanes := maskOf late, pc := x.pc, nrec := 0
          seq := 0, logNo := (freeLogs c).getD 0 0, cont := if needsCont log then some ((freeLogs c).getD 1 0) else none
          log := { log with vrec := [], vok := false }, dc := none, uid := s.nextKey }
      .next (landingReady band (enterFrag (band / 64) n f
        { parkLanes band (maskOf late) x.pc none s with nextKey := s.nextKey + 1 }))
    | _, _ => .next s

/-! ## Replays (R443, R444) -/

/-- The lanes of a fetch fragment run again at the parked PC; the entry is free but for them (R443, R444). -/
def endFetchFrag (key n : Nat) (ls : List Nat) (s : State) : State :=
  match Table.find n (State.core s (key / 64)).frags with
  | none => s
  | some f =>
    State.modBand (State.modCore s (key / 64) fun c => { c with frags := Table.del n c.frags, kept := Table.set n f c.kept }) key
      fun b => Band.modLanes b ls fun _ y =>
        { y with run := .running, sw := false, entry := .check, frag := BitVec.ofNat 32 (key / 64 * 128 + n) }

def Cand.group (c : Cand) : Group := ⟨maskOf c.lanes, c.pc, c.hdr, c.replay, c.price⟩

/-- The decoders that the lanes of the chosen groups issue in (R350). -/
def noteDecoders (key : Nat) (p q : Option Cand) (s : State) : State :=
  let lanes (c : Option Cand) : List Nat := (c.map Cand.lanes).getD []
  State.modBand s key fun b => Band.modLanes (Band.modLanes b (lanes p) fun _ y => { y with second := false }) (lanes q)
    fun _ y => { y with second := true }

/-- Start the chosen groups: fetch fragments end here; the others issue next, p before q. What either reads of other lanes is
the band as it stood at the choice, `b` (R268). -/
def startGroups (key : Nat) (upset : Dword) (borrowed : Bool) (b : Band) (ready : Dword) (p q : Option Cand) (s : State) :
    State :=
  let go (o : Option Cand) (s : State) : Option Group × State :=
    match o with
    | none => (none, s)
    | some c =>
      if c.fetch then (none, endFetchFrag key (c.replay.getD 0) c.lanes s) else (some (Cand.group c), s)
  let a := go p (noteDecoders key p q s)
  let r := go q a.2
  let prior := some b
  match a.1, r.1 with
  | some g, h => { r.2 with issue := some ⟨key, g, borrowed, h, upset, b.shadow, false, ready, 0, prior⟩ }
  | none, some h => { r.2 with issue := some ⟨key, h, false, none, upset, b.shadow, false, ready, 0, prior⟩ }
  | none, none => r.2

/-- The lanes of the ready groups of a band. -/
def readyLanes (s : State) (key : Nat) : Dword := maskOf ((readyGroups s key).flatMap fun d => d.lanes)

/-- FRAGMENT_REPLAY: a READY fragment's group begins its replay, where the core can pay (R443). -/
def execFragmentReplay (core entry : Nat) (s : State) : Host.Outcome State Fault Refusal :=
  if 64 ≤ core then .fault .noAgent
  else if s.issue.isSome then .next s
  else
    match Table.find entry (State.core s core).frags with
    | none => .next s
    | some f =>
      match State.home s f.band with
      | none => .next s
      | some (b, t, g) =>
        if bandStill s b t g || budgetSpent t then .next s
        else
          match lookFrag s f.band entry f b with
          | none => .next s
          | some c =>
            if c.price ≤ (State.core s core).bucket then
              .next (startGroups f.band 0 false b (readyLanes s f.band) (some c) none (chargeCore core c.price s))
            else .next s

/-! ## The choice of band (R402) -/

/-- The order of C: YF = 0 first, then AGE at 64 or above, then the lowest SEQ. -/
def Choice.before (a b : Choice) : Bool :=
  if a.band.yf != b.band.yf then !a.band.yf
  else if decide (64 ≤ a.band.age) != decide (64 ≤ b.band.age) then decide (64 ≤ a.band.age)
  else decide (a.band.seq < b.band.seq)

def firstChoice (f : Choice → Choice → Bool) (cs : List Choice) : Option Choice :=
  cs.foldl (fun m c => match m with
    | none => some c
    | some d => if f c d then some c else m) none

/-- The band chosen, and whether its price is borrowed from the die (R402). -/
def selectBand (bucket : Nat) (cs : List Choice) : Option (Choice × Bool) :=
  let forced := cs.filter fun c => decide (496 ≤ c.band.flr)
  match firstChoice (fun a b => decide (a.band.seq < b.band.seq)) forced with
  | some c => some (c, !decide (Choice.cost c ≤ bucket))
  | none => (firstChoice Choice.before (cs.filter fun c => decide (Choice.cost c ≤ bucket))).map fun c => (c, false)

/-- AGE, FLR and YF after the choice (R401, R402; log 21). -/
def ageBand (chosen : Bool) (b : Band) : Band :=
  if chosen then { b with age := 0, flr := 0, yf := false }
  else { b with age := Nat.min 255 (b.age + 1), flr := Nat.min 511 (b.flr + 1), yf := false }

/-- The groups of a band that do not issue ask for what they wait for. -/
def askBand (key : Nat) (s : State) : State :=
  match State.home s key with
  | none => s
  | some (b, t, g) =>
    if bandStill s b t g then s
    else
      let s1 := (groupsWhere Lane.eligible b).foldl (fun s p => askGroup key b g p.1 p.2 s) s
      (State.core s1 (key / 64)).frags.foldl (fun s e => if e.2.band == key then askFrag key e.1 e.2 s else s) s1

/-- How groups are held: for late lanes (R445), and by the arrival part of a BAR, which counts in every cycle until the next
look (R376). -/
def noteHolds (s : State) (key : Nat) : State :=
  match State.home s key with
  | none => s
  | some (b, t, g) =>
    if bandStill s b t g then s
    else
      let ks := (groupsWhere Lane.eligible b).map fun p => lookGroup s key b g p.1 p.2
      let pend := ks.flatMap fun k => k.pending
      let bar := ks.flatMap fun k => k.barred
      State.modBand s key fun b => Band.modLanes b (List.range b.width) fun l y =>
        if y.run == .running then
          { y with stalled := if pend.elem l then y.stalled + 1 else 0, barred := bar.elem l }
        else y

/-- The groups of a band that are due to be split (R445). -/
def splitsDue (s : State) (key : Nat) (b : Band) : List Due :=
  (groupsWhere (fun y => Lane.eligible y && y.entry == .inside) b).filterMap fun p =>
    (lateGroup s key p.1 p.2).map fun _ => .lateSplit key (maskOf p.2)

/-- The bands of a quarter, by key. -/
def quarterBands (s : State) (core quarter : Nat) : List Nat :=
  (s.bands.filter fun e => e.1 / 16 == core * 4 + quarter).map Prod.fst

/-- A band whose slot an earlier instruction still takes: one pass fewer (R28, R402). -/
def passBusy (key : Nat) (s : State) : State := State.modBand s key fun b => { b with busy := b.busy - 1 }

/-- Pay for the choice and start it. -/
def startChoice (core : Nat) (upset : Dword) (c : Choice) (borrow : Bool) (s : State) : State :=
  let s1 := if c.timer then fireTimer c.key c.p s
    else if borrow then chargeDie (core / 16) c.p.price s else chargeCore core c.p.price s
  let q := match c.q with
    | none => none
    | some q => if q.price ≤ (State.core s1 core).bucket then some q else none
  let s2 := match q with
    | some q => chargeCore core q.price s1
    | none => s1
  let p := if c.timer then none else some c.p
  let s3 := if (p.toList ++ q.toList).all fun d => d.fetch then s2
    else State.modBand s2 c.key fun b => { b with busy := passesOf b.width (State.passCount s core) b.shadow - 1 }
  startGroups c.key upset borrow c.band (readyLanes s c.key) p q s3

/-- The level %tokq reads is taken when step 4 of the cycle begins, with quarter 0 (R403, R485). -/
def takeLevel (core quarter : Nat) (s : State) : State :=
  if quarter = 0 then State.modCore s core fun c => { c with tokq := c.bucket } else s

/-- BAND_SELECT: one cycle of a quarter: lanes enter clauses, a band is chosen that can pay, its groups issue next
(R31, R33, R347 to R352, R402). The lanes that `upset` names compute unequal copies in shadow mode (R369). -/
def execBandSelect (core quarter : Nat) (upset : Dword) (s : State) : Host.Outcome State Fault Refusal :=
  if 64 ≤ core ∨ 4 ≤ quarter then .fault .noAgent
  else if s.issue.isSome then .next s
  else
    let ks := quarterBands s core quarter
    let held := ks.filter fun k => match Table.find k s.bands with
      | some b => decide (0 < b.busy)
      | none => false
    let s1 := held.foldl (fun s k => passBusy k s) (takeLevel core quarter s)
    let free := ks.filter fun k => !held.elem k
    let s2 := free.foldl (fun s k => noteHolds (askBand k (enterBand k s)) k) (held.foldl noteHolds s1)
    let cs := free.filterMap fun k => match Table.find k s2.bands with
      | some b => choiceOf s2 k b
      | none => none
    let due := ks.flatMap fun k => match Table.find k s2.bands with
      | some b => splitsDue s2 k b
      | none => []
    let s3 : State := { s2 with agenda := due ++ s2.agenda }
    let sel := selectBand (State.core s3 core).bucket cs
    let s4 := cs.foldl (fun s c => State.modBand s c.key (ageBand (match sel with
      | some (d, _) => d.key == c.key
      | none => false))) s3
    match sel with
    | none => .next s4
    | some (c, borrow) => .next (startChoice core upset c borrow s4)

end Sys2Proof.Machine
end

