-- ==== Sys2Proof/Machine/Pages.lean ====
section
/-!
DEFINITION. Firmware's work on pages: entries of the chip page table, frames, flushes, invalidations, moves, evictions
(spec/04_addresses_and_translation.md R95 to R98, R103, R104, R109, R110, R114, R115;
spec/21_program_faulting_gather.md R480). Pages are numbered by chip address over 65,536.
-/
namespace Sys2Proof.Machine

/-! ## Entries -/

/-- Key of the entry that covers a page, and whether it is a region entry (R95). -/
def coverKey (s : State) (page : Nat) : Nat × Bool :=
  let k := regionKey s (page * 2 ^ 16)
  let e := State.dword s k
  if e % 8 = 6 then (unitKey (e / 2 ^ 6 % 8) (e / 2 ^ 20 % 2 ^ 28 * 256 + page % 32 * 8), false) else (k, true)

/-- The entry that covers a page. -/
def pageEntry (s : State) (page : Nat) : Nat := State.dword s (coverKey s page).1

/-- Firmware writes an entry, by an uncached access (R95, R406). -/
def putEntry (key e : Nat) (s : State) : State := State.setDword (chargeLine (key / 2 ^ 40) s) key e

/-- Firmware reads the words of the table that lead to a page's entry, by uncached accesses, with what their code finds (R95,
R118, R406; log 12). -/
def readCover (page : Nat) (s : State) : State :=
  (walkKeys s (page * 2 ^ 16)).foldl (fun s k =>
    senseDram k 8 (countUe (k / 2 ^ 40) (if entryBad s k then 1 else 0) (chargeLine (k / 2 ^ 40) s))) s

def setPageEntry (s : State) (page e : Nat) : State := putEntry (coverKey s page).1 e s

/-- Where firmware keeps the leaf block of a region: behind the region quarter, in the same stack (log 12). -/
def leafEntry (region : Nat) : Nat := 6 + 2 * (region % 4) * 2 ^ 6 + (2 ^ 15 + region / 4) * 2 ^ 20

/-- Write a 64 KiB entry, with an empty leaf block of two lines for its region where there is none (R406). -/
def setLeaf (s : State) (page e : Nat) : State :=
  let k := regionKey s (page * 2 ^ 16)
  let t := leafEntry (page / 32)
  let s1 := if State.dword s k % 8 = 6 then s
    else putEntry k t (chargeLines (t / 2 ^ 6 % 8) 2
      { s with dram := Memory.store s.dram (unitKey (t / 2 ^ 6 % 8) (t / 2 ^ 20 * 256)) (List.replicate 256 0) })
  setPageEntry s1 page e

/-- Write an entry of either size. -/
def setEntryOf (big : Bool) (page e : Nat) (s : State) : State :=
  if big then putEntry (regionKey s (page * 2 ^ 16)) e s else setLeaf s page e

/-- TIER and UNIT of an entry (R97). -/
def unitBits (unit : Nat) : Nat := if unit < 8 then unit * 2 ^ 6 else 2 ^ 5 + (unit - 8) * 2 ^ 6

/-- A PRESENT entry (R97). -/
def presentEntry (unit frame : Nat) (a d rg : Bool) : Nat :=
  1 + (if a then 8 else 0) + (if d then 16 else 0) + unitBits unit + (if rg then 2 ^ 10 else 0) + frame * 2 ^ 16

/-- Pages that an entry covers. -/
def pageSpan (big : Bool) : Nat := if big then 32 else 1

/-! ## Frames (log 12) -/

/-- Frames of a stack that hold the region quarter and the leaf blocks. -/
def reservedFrames (unit : Nat) : Nat := if unit < 8 ∧ unit % 2 = 0 then 4224 else 0

/-- The lowest run of free frames for a page on a unit. -/
def freeFrame (s : State) (big : Bool) (unit : Nat) : Option Nat :=
  let used := (s.fw.frames.filter fun f => f / 2 ^ 22 == unit).map fun f => f % 2 ^ 22
  let n := pageSpan big
  leastOf ((reservedFrames unit :: used.map fun f => (f / n + 1) * n).filter fun c =>
    decide (reservedFrames unit ≤ c) && decide (c + n ≤ (State.unit s unit).frames)
      && used.all fun f => decide (f < c) || decide (c + n ≤ f))

def useFrames (unit frame : Nat) (big : Bool) (s : State) : State :=
  State.modFw s fun f =>
    { f with frames := (List.range (pageSpan big)).foldl (fun l i => NatSet.add (unit * 2 ^ 22 + frame + i) l) f.frames }

def dropFrames (unit frame : Nat) (big : Bool) (s : State) : State :=
  State.modFw s fun f =>
    { f with frames := f.frames.filter fun k =>
        !(decide (unit * 2 ^ 22 + frame ≤ k) && decide (k < unit * 2 ^ 22 + frame + pageSpan big)) }

/-- Zero the frames of a page, line by line at their controller (R406). -/
def zeroPage (unit frame : Nat) (big : Bool) (s : State) : State :=
  chargeLines unit (512 * pageSpan big) ((List.range (pageSpan big)).foldl (fun s i => zeroFrame s unit (frame + i)) s)

/-- Copy a page's frames, with their poison marks and what their codes find: a marked granule reads as uncorrectable (R114
step 5, R118, R406). -/
def copyPage (u f v g : Nat) (big : Bool) (s : State) : State :=
  let lo := unitKey u (f * 2 ^ 16)
  let n := pageSpan big * 2 ^ 16
  let tgt := unitKey v (g * 2 ^ 16)
  let marks := (s.dramPoison.filter fun e => decide (lo ≤ e) && decide (e < lo + n)).length
  let s0 := senseDram lo n (countUe u marks (chargeLines u (512 * pageSpan big) s))
  let s1 := zeroPage v g big s0
  { s1 with
    dram := (s0.dram.filter fun e => decide (lo ≤ e.1) && decide (e.1 < lo + n)).foldl
      (fun m e => Memory.write m (tgt + (e.1 - lo)) e.2) s1.dram
    dramPoison := (s0.dramPoison.filter fun e => decide (lo ≤ e) && decide (e < lo + n)).foldl
      (fun m e => NatSet.add (tgt + (e - lo)) m) s1.dramPoison }

/-! ## Lines of a page -/

/-- A line lies in the pages. -/
def lineIn (page n line : Nat) : Bool := decide (page * 512 ≤ line) && decide (line < (page + n) * 512)

/-- No tile transfer or Encke query that has translated its pages uses one of them (log 49). -/
def pagesFree (s : State) (page n : Nat) : Bool := (List.range n).all fun i => !(tileUses s (page + i) || enckeUses s (page + i))

/-- Every request for the pages that was translated before has completed (R114 step 3), those of tile transfers and Encke
queries among them (log 49); a write-back that holds was not translated (R103). -/
def pagesIdle (s : State) (page n : Nat) : Bool :=
  pagesFree s page n && !(s.msgs.any fun m => lineIn page n m.2.line)
    && (List.range 4).all fun d =>
      let x := State.die s d
      !(x.wants.any fun e => lineIn page n e.1) && !(x.evict.any fun e => lineIn page n e.1 && !isHeld x e.1 .back)
        && !(x.dir.any fun e => lineIn page n e.1 && e.2.txn.isSome)

/-- Begin the flush of the pages at their home's directory (R114 step 4, R127, R128). -/
def flushPages (home page n : Nat) (s : State) : State :=
  (((State.die s home).dir.filter fun e => lineIn page n e.1 && e.2.txn.isNone).map Prod.fst).foldl
    (fun s line => openFlush home line s) s

/-- The flush is over: no L2 holds a line of the pages, and the home's directory lists none. -/
def pagesFlushed (s : State) (home page n : Nat) : Bool :=
  !((State.die s home).dir.any fun e => lineIn page n e.1)
    && (List.range 4).all fun d => !((State.die s d).l2.any fun e => lineIn page n e.1)

/-! ## MTINV (R98, R104) -/

/-- Fields of MTINV that a write sets: ALL, START and NPAGE. -/
def mtinvFields : Dword := BitVec.ofNat 64 (2 ^ 64 - 2 ^ 16 + 2)

/-- The pages that an MTINV covers: the first, and how many (R98). -/
def mtinvRange (v : Dword) : Nat × Nat :=
  if v.getLsbD 1 then (0, 2 ^ 32)
  else (v.toNat / 2 ^ 16 % 2 ^ 32, if v.toNat / 2 ^ 48 = 0 then 65536 else v.toNat / 2 ^ 48)

/-- The walk of a page, or of its region, reads an entry of the covered pages. -/
def walkCovered (s : State) (r : Nat × Nat) (page : Nat) : Bool :=
  if regionWhole s (page * 2 ^ 16) then decide (r.1 < page / 32 * 32 + 32) && decide (page / 32 * 32 < r.1 + r.2)
  else decide (r.1 ≤ page) && decide (page < r.1 + r.2)

/-- An invalidation begins: it waits for the walks of covered pages begun before it (R104). -/
def beginMtinv (v : Dword) (s : State) : State :=
  let r := mtinvRange v
  (List.range 4).foldl (fun s d => State.modDie s d fun x =>
    { x with walks := x.walks.map fun w => if walkCovered s r w.page then { w with due := true } else w })
    (State.modHub s fun h => { h with mtinv := v ||| 1, mtrun := v })

/-- MTINV_GO: a write of MTINV (R98). ALL, START and NPAGE are written in any case; GO = 1 starts an invalidation of the pages
they name. DESIGN CHOICE (log 12): while one runs, GO = 1 starts no second one, and the one that runs keeps its own pages. -/
def execMtinvGo (value : Dword) (s : State) : Host.Outcome State Fault Refusal :=
  let v := value &&& mtinvFields
  if s.hub.mtinv.getLsbD 0 then .next (State.modHub s fun h => { h with mtinv := v ||| 1 })
  else if value.getLsbD 0 then .next (beginMtinv v s)
  else .next (State.modHub s fun h => { h with mtinv := v })

/-- No invalidation runs. -/
def mtinvFree (s : State) : Bool := !s.hub.mtinv.getLsbD 0

/-- Firmware starts an invalidation of some pages, of at most 65,536. -/
def startMtinv (page n : Nat) (s : State) : State :=
  beginMtinv (BitVec.ofNat 64 (page % 2 ^ 32 * 2 ^ 16 + n % 65536 * 2 ^ 48)) s

/-- Drop the cached entries of covered pages. -/
def dropCached (r : Nat × Nat) (s : State) : State :=
  (List.range 4).foldl (fun s d => State.modDie s d fun x =>
    { x with tlb := x.tlb.filter fun e =>
        if e.2.big then !(decide (e.1 < r.1 + r.2) && decide (r.1 < e.1 + 32))
        else !(decide (r.1 ≤ e.1) && decide (e.1 < r.1 + r.2)) }) s

/-- Begin the second walk of a held request, where one of the 16 walks is free; one walk serves all requests of its page
(R100, R104). -/
def walkAgain (die : Nat) (s : State) (h : HoldReq) : State :=
  let d := State.die s die
  let page := h.line / 512
  let mark (s : State) : State :=
    State.modDie s die fun x => { x with hold := x.hold.map fun q => if q == h then { q with again := true } else q }
  if walking s d (h.line * 128) then mark s
  else if 16 ≤ d.walks.length then s
  else mark (beginWalk die page (h.kind == .write) s)

/-- The held requests of a die for covered pages whose second walk has not begun. -/
def heldAwait (s : State) (r : Nat × Nat) (die : Nat) : List HoldReq :=
  (State.die s die).hold.filter fun h => !h.again && decide (r.1 ≤ h.line / 512) && decide (h.line / 512 < r.1 + r.2)

/-- MTINV_COMPLETE: with no walk left of those begun before, cached entries go and held requests are walked again; GO clears
when the second walk of each has begun (R104). -/
def execMtinvComplete (s : State) : Host.Outcome State Fault Refusal :=
  if mtinvFree s || (List.range 4).any (fun d => (State.die s d).walks.any fun w => w.due) then .next s
  else
    let r := mtinvRange s.hub.mtrun
    let s1 := (List.range 4).foldl (fun s d => (heldAwait s r d).foldl (walkAgain d) s) (dropCached r s)
    if (List.range 4).all fun d => (heldAwait s1 r d).isEmpty then
      .next (State.modHub s1 fun h => { h with mtinv := h.mtinv &&& ~~~1#64 })
    else .next s1

/-- FFADD_WRITE: firmware appends a free frame to a unit's queue of 64, and FRAME reads as written; a write is ignored while the
queue is full (R98). -/
def execFfaddWrite (unit : Nat) (value : Word) (s : State) : Host.Outcome State Fault Refusal :=
  if 24 ≤ unit then .fault .noAgent
  else .next (State.modUnit s unit fun u =>
    let f := value.toNat % 2 ^ 22
    if 64 ≤ u.ffq.length then u else { u with ffadd := BitVec.ofNat 22 f, ffq := u.ffq ++ [f] })

/-- FQTAIL_WRITE: RIDX moves, and the positions before it are free (R107). -/
def execFqtailWrite (die : Nat) (value : Word) (s : State) : Host.Outcome State Fault Refusal :=
  if 4 ≤ die then .fault .noAgent
  else .next (State.modDie s die fun d =>
    let n := (value.toNat % 2048 + 2048 - d.fqTail) % 2048
    { d with
      fq := d.fq.filter fun e => !decide ((e.1 + 2048 - d.fqTail) % 2048 < n)
      fqTail := value.toNat % 2048 })

/-! ## The access-bit scan (R110) -/

/-- AGE of a PRESENT entry, and the entry with another AGE and A clear. -/
def ageOf (e : Nat) : Nat := e / 2 ^ 48 % 2 ^ 8
def withAge (e age : Nat) : Nat := e % 2 ^ 48 + age * 2 ^ 48 - (if e.testBit 3 then 8 else 0)

/-- The scan of one page: the entry is read, with what its code finds, and a PRESENT one written with its new AGE and A clear
(R101, R110, R118). -/
def agePage (s0 : State) (p : Nat × PageRec) : State :=
  let s := readCover p.1 s0
  let c := coverKey s p.1
  let e := State.dword s c.1
  if e % 8 = 1 ∧ entryBad s c.1 = false then putEntry c.1 (withAge e (if e.testBit 3 then 0 else Nat.min (ageOf e + 1) 255)) s
  else s

/-- ACCESS_BIT_SCAN: AGE rises or restarts in every mapped page, A is cleared, and an MTINV of every page begins (R110, R101);
it waits for one that runs. -/
def execAccessBitScan (s : State) : Host.Outcome State Fault Refusal :=
  if !mtinvFree s then .next s
  else .next (beginMtinv 2 (s.fw.pages.foldl agePage s))

/-! ## Moves (R114, R115, R480) -/

/-- A NOTPRESENT entry of a page set aside in a DDR-5 frame (R480). -/
def asideEntry (unit frame : Nat) : Nat := 3 + unitBits unit + 2 ^ 10 + frame * 2 ^ 16

/-- The entry that ends a move (R110, R114 step 6, R480). -/
def Move.last (m : Move) : Nat :=
  let kept (u f : Nat) (rg : Bool) : Nat := presentEntry u f (m.old.testBit 3) (m.old.testBit 4) rg + ageOf m.old * 2 ^ 48
  match m.goal with
  | .frame u f aside =>
    if m.old % 8 = 3 then presentEntry u f true false false else if aside then asideEntry u f else kept u f (m.old.testBit 10)
  | .regen k => 5 + k * 2 ^ 4
  | .backing u f => kept u f false
  | .unmap e => e

/-- The bytes that step 5 copies: to the new frame; to the backing frame only where the page has been written since. -/
def Move.copy (m : Move) (s : State) : State :=
  let put (u f : Nat) : State := copyPage (entryUnit m.old) (entryFrame m.old) u f m.big s
  match m.goal with
  | .frame u f _ => put u f
  | .backing u f => if m.old.testBit 4 then put u f else s
  | _ => s

/-- A step of R114 is journalled (R426); a page brought back is not moved by R114. -/
def Move.note (m : Move) (n : Nat) (s : State) : State := if m.old % 8 = 3 then s else journal (.moved m.page n) s

def setMove (m : Move) (s : State) : State :=
  State.modFw s fun f => { f with moves := f.moves.map fun x => if x.page == m.page then m else x }

def dropMove (m : Move) (s : State) : State := State.modFw s fun f => { f with moves := f.moves.filter fun x => x.page != m.page }

/-- What firmware keeps as a page's backing frame. -/
def backingOf (s : State) (page : Nat) : Option (Nat × Nat) := (Table.find page s.fw.pages).bind PageRec.backing

def setBacking (page : Nat) (b : Option (Nat × Nat)) (s : State) : State :=
  State.modFw s fun f => { f with pages := Table.alter page (fun r => { r with backing := b }) f.pages }

/-- Drop a page's backing frame. -/
def dropBacking (page : Nat) (big : Bool) (s : State) : State :=
  match backingOf s page with
  | some b => setBacking page none (dropFrames b.1 b.2 big s)
  | none => s

/-- What a move leaves: the old frame is free, but a clean page's DDR-5 frame stays as its backing copy (R110). -/
def Move.leave (m : Move) (s : State) : State :=
  let u := entryUnit m.old
  let f := entryFrame m.old
  match m.goal with
  | .frame v _ aside =>
    let s1 := dropBacking m.page m.big s
    if m.old % 8 = 1 ∧ 8 ≤ u ∧ v < 8 ∧ !m.old.testBit 4 ∧ !aside then setBacking m.page (some (u, f)) s1
    else dropFrames u f m.big s1
  | .regen _ => dropFrames u f m.big s
  | .backing _ _ => setBacking m.page none (dropFrames u f m.big s)
  | .unmap _ =>
    let s1 := dropFrames u f m.big (dropBacking m.page m.big s)
    State.modFw s1 fun w => { w with pages := Table.del m.page w.pages }

/-- A move given up before its first step: the frame taken for it is free again. -/
def Move.undo (m : Move) (s : State) : State :=
  match m.goal with
  | .frame u f _ => dropMove m (dropFrames u f m.big s)
  | _ => dropMove m s

/-- The next of the steps of R114 that can be taken. -/
def Move.next (m : Move) (s : State) : State :=
  let n := pageSpan m.big
  let home := unitDie (entryUnit m.old)
  let step (k : Nat) (s : State) : State := setMove { m with step := k } s
  match m.step with
  | 0 =>
    let s0 := readCover m.page s
    let e := pageEntry s0 m.page
    if e % 8 != 1 then Move.undo m s0
    else setMove { m with old := e, step := 1 } (setPageEntry (Move.note m 1 s0) m.page 4)
  | 1 => if mtinvFree s then step 2 (startMtinv m.page n (Move.note m 2 s)) else s
  | 2 => if mtinvFree s && pagesIdle s m.page n then step 3 (Move.note m 3 s) else s
  | 3 => step 4 (flushPages home m.page n (Move.note m 4 s))
  | 4 => if pagesFlushed s home m.page n then step 5 (Move.copy m (Move.note m 5 s)) else s
  | 5 => step 6 (setPageEntry (Move.note m 6 s) m.page (Move.last m))
  | 6 => if mtinvFree s then step 7 (startMtinv m.page n (Move.note m 7 s)) else s
  | _ => if mtinvFree s then Move.leave m (dropMove m s) else s

/-- A TLD of a saved team has translated one of the pages: firmware chooses none of them to move until the team is back (log
49). -/
def inSavedTld (s : State) (page n : Nat) : Bool := (List.range n).any fun i => savedUses s (page + i)

/-- Firmware decides on a move. -/
def addMove (m : Move) (s : State) : State := State.modFw s fun f => { f with moves := f.moves ++ [m] }

def moveOf (s : State) (page : Nat) : Option Move := s.fw.moves.find? fun m => m.page == page

/-- PAGE_MOVE: the next step of a page's move; for a page that is not moving, firmware decides to move it to a unit, on DDR-5
perhaps setting it aside (R114, R480; log 12). -/
def execPageMove (page unit : Nat) (s : State) : Host.Outcome State Fault Refusal :=
  if 24 ≤ unit then .fault .noAgent
  else
    match moveOf s page with
    | some m => .next (Move.next m s)
    | none =>
      let c := coverKey s page
      let e := State.dword s c.1
      if (Table.find page s.fw.pages).isNone || e % 8 != 1 || inSavedTld s page (pageSpan c.2) then .next s
      else
        match freeFrame s c.2 unit with
        | none => .next s
        | some f =>
          let d := State.draw s
          .next (addMove ⟨page, e, c.2, .frame unit f (decide (8 ≤ unit) && d.1 % 2 == 1), 0⟩ (useFrames unit f c.2 d.2))

/-! ## Eviction (R110) -/

/-- A page that could be evicted: its number, entry, size, record. -/
structure Victim where
  page : Nat
  e : Nat
  big : Bool
  rgk : Option Nat
  backing : Option (Nat × Nat)
  deriving DecidableEq, Repr

/-- The HBM4 pages of some stacks that are neither pinned nor on the move (R109, R110). DESIGN CHOICE (log 12): for a frame of
2 MiB only 2 MiB pages are candidates, since the spec does not say how 64 KiB pages make room for one. -/
def victimsOn (units : List Nat) (big : Bool) (s : State) : List Victim :=
  s.fw.pages.filterMap fun p =>
    let c := coverKey s p.1
    let e := State.dword s c.1
    if e % 8 == 1 && !p.2.pinned && decide (entryUnit e < 8) && units.elem (entryUnit e) && (!big || c.2)
        && (moveOf s p.1).isNone && !inSavedTld s p.1 (pageSpan c.2) then
      some ⟨p.1, e, c.2, p.2.rgk, p.2.backing⟩
    else none

/-- The class of a victim (R110). -/
def Victim.rank (v : Victim) : Nat :=
  if v.e.testBit 10 && v.rgk.isSome then 1 else if !v.e.testBit 4 && v.backing.isSome then 2 else 3

/-- The order of R110: class, then AGE in classes 2 and 3, then the lower chip address. -/
def Victim.before (a b : Victim) : Bool :=
  if Victim.rank a != Victim.rank b then decide (Victim.rank a < Victim.rank b)
  else if Victim.rank a != 1 && ageOf a.e != ageOf b.e then decide (ageOf b.e < ageOf a.e)
  else decide (a.page < b.page)

def firstVictim (vs : List Victim) : Option Victim :=
  vs.foldl (fun m v => match m with
    | none => some v
    | some w => if Victim.before v w then some v else m) none

/-- What an attempt to obtain a frame gives. -/
inductive Got where
  | frame (unit frame : Nat) (s : State)
  /-- A page is on its way out: try again. -/
  | busy (s : State)
  /-- No frame can be freed in either tier (R113). -/
  | none
  deriving DecidableEq, Repr

/-- The first free frame of some units. -/
def freeOn (s : State) (big : Bool) (units : List Nat) : Option (Nat × Nat) :=
  units.findSome? fun u => (freeFrame s big u).map fun f => (u, f)

/-- Begin to evict a page; none where no DDR-5 frame is free for it. -/
def evictPage (v : Victim) (s : State) : Option State :=
  let go (g : MoveGoal) (s : State) : State := addMove ⟨v.page, v.e, v.big, g, 0⟩ s
  match Victim.rank v, v.rgk, v.backing with
  | 1, some k, _ => some (go (.regen k) s)
  | 2, _, some (bu, bf) => some (go (.backing bu bf) s)
  | _, _, _ => (freeOn s v.big ((List.range 24).drop 8)).map fun d => go (.frame d.1 d.2 false) (useFrames d.1 d.2 v.big s)

/-- A page is on its way out of one of the units. -/
def leaving (s : State) (units : List Nat) : Bool := s.fw.moves.any fun m => m.old % 8 == 1 && units.elem (entryUnit m.old)

/-- Firmware reads the entry of every mapped page before it chooses one to evict (R110, R406; log 12). -/
def readTable (s : State) : State := s.fw.pages.foldl (fun s p => readCover p.1 s) s

/-- Obtain a frame on one of `near`, else on one of `far`, else by eviction from `far` (R110, R480). -/
def obtainFrame (near far : List Nat) (big : Bool) (s : State) : Got :=
  match freeOn s big (near ++ far) with
  | some (u, f) => .frame u f (useFrames u f big s)
  | none =>
    if leaving s far then .busy s
    else
      match (firstVictim (victimsOn far big (readTable s))).bind fun v => evictPage v (readTable s) with
      | none => .none
      | some s1 => .busy s1

/-! ## View pages (R471) -/

/-- The registers a view page shows. -/
def viewBytes (c : Ctx) : List Byte :=
  ((List.range 32).flatMap fun i => natLe 8 (Table.get 0 i c.ranges).toNat)
    ++ (List.range 16).flatMap fun k => natLe 8 (Table.get 0 k c.routes).toNat

/-- Write bytes to a context's memory line by line, leaving out a line that its check or its translation refuses. -/
def writeLines (ctx : Nat) : Nat → Nat → List Byte → State → Try
  | 0, _, _, s => .done s
  | k + 1, va, bs, s =>
    if bs.isEmpty then .done s
    else
      let n := 128 - va % 128
      match rangeCheck (State.ctx s ctx) va permWr with
      | none => writeLines ctx k (va + n) (bs.drop n) s
      | some c =>
        match writeMem (hubDie s c) s c (bs.take n) with
        | (.busy, s1) => .busy s1
        | (_, s1) => writeLines ctx k (va + n) (bs.drop n) s1

/-- Firmware writes a context's view page after a change of its range or route registers; busy while a line is on its way. -/
def writeView (ctx : Nat) (s : State) : Try :=
  match Table.find ctx s.ctxs with
  | none => .done s
  | some c => if c.view < 2 ^ 60 then writeLines ctx 4 c.view (viewBytes c) s else .done s

/-- VIEW_WRITE: the view page is written, and the command that changed the registers answered (R465, R471). -/
def execViewWrite (ctx : Nat) (reply : Option Reply) (s : State) : Host.Outcome State Fault Refusal :=
  match writeView ctx s with
  | .busy s1 => .next { s1 with waiting := s1.waiting ++ [.viewWrite ctx reply] }
  | .done s1 =>
    match reply with
    | some r => .next (answer r s1)
    | none => .next s1

/-- A context's view page follows its registers. -/
def followView (ctx : Nat) (reply : Option Reply) (s : State) : State :=
  if (Table.find ctx s.ctxs).isNone then s else { s with waiting := s.waiting ++ [.viewWrite ctx reply] }

end Sys2Proof.Machine
end

