-- ==== Sys2Proof/Machine/Service.lean ====
section
/-!
DEFINITION. How firmware serves fault records: set-aside pages, empty frame queues, moving pages, regeneration, the stop of
a context (spec/04_addresses_and_translation.md R107, R111 to R113, R490; spec/21_program_faulting_gather.md R480, R481).
-/
namespace Sys2Proof.Machine

/-! ## Stopping a context (R113) -/

/-- Answer the held WAITs of a context. -/
def answerAllWaits (ctx status : Nat) (s : State) : State :=
  (s.fw.sessions.flatMap fun e => (e.2.waits.filter fun w => w.ctx == ctx).map fun w => w.gridid).foldl
    (fun s g => answerWaits ctx g status .none s) s

/-- A regeneration whose kernel runs in a stopped context can no longer end by itself. DESIGN CHOICE (log 52): firmware ends it
as after a delivered trap, from the step it has come to. -/
def quitRegen (g : Regen) (s : State) : State :=
  let put (n : Nat) (s : State) : State := State.modFw s fun f =>
    { f with regens := f.regens.map fun x => if x.page == g.page then { x with ended := some false, phase := n } else x }
  if g.ended.isSome then s
  else if g.phase = 0 then put 5 (setPageEntry s g.page g.entry)
  else if g.phase = 1 then put 3 s
  else put g.phase s

/-- Firmware stops a context: no lane of it issues again, and its WAITs are answered STOPPED (R113, R466). -/
def stopCtx (ctx : Nat) (s : State) : State :=
  if (Table.find ctx s.ctxs).isNone || (State.ctx s ctx).stopped then s
  else
    let s1 := answerAllWaits ctx 8 (State.modCtx (journal (.stopped ctx) s) ctx fun c => { c with stopped := true })
    (s1.fw.regens.filter fun g => g.ctx == ctx).foldl (fun s g => quitRegen g s) s1

/-! ## What a record belongs to (R455, R481) -/

/-- The state a step leaves. -/
def took (s : State) (r : Host.Outcome State Fault Refusal) : State :=
  match r with
  | .next t => t
  | _ => s

/-- The fragment of an identity as firmware follows it: core and entry. -/
def fragOf (s : State) (uid : Nat) : Option (Nat × Nat × Frag) :=
  s.cores.findSome? fun c => (c.2.frags.find? fun e => e.2.uid == uid && !e.2.late).map fun e => (c.1, e.1, e.2)

/-- The parked command of a copy engine: core and slot. -/
def copyOf (s : State) (uid : Nat) : Option (Nat × Nat) :=
  s.cores.findSome? fun c => (c.2.copy.find? fun e => e.2.uid == uid && e.2.parked).map fun e => (c.1, e.1)

/-- The parked command of an Encke front: die and slot. -/
def enckeOf (s : State) (uid : Nat) : Option (Nat × Nat) :=
  s.dies.findSome? fun d => (d.2.ek.find? fun e => e.2.uid == uid && e.2.parked).map fun e => (d.1, e.1)

/-- Its team is saved: the record waits until the restore. -/
def inSaved (s : State) (uid : Nat) : Bool :=
  s.saved.any fun e => e.2.frags.any (fun f => f.2.2.uid == uid) || e.2.copies.any (fun c => c.2.uid == uid)
    || e.2.eks.any fun c => c.2.uid == uid

/-- A record of the same fragment or command is not yet served (R481). -/
def recordsOpen (s : State) (uid : Nat) : Bool :=
  (List.range 4).any (fun d =>
    (State.die s d).fq.any (fun e => e.2.uid == uid) || (State.die s d).fqWait.any fun r => r.uid == uid)
    || s.fw.parked.any (fun p => p.2.uid == uid) || s.fw.regens.any fun g => g.recs.any fun p => p.2.uid == uid

/-- Firmware ends a fragment by POISON or aborts a command (R490), or notes to do so once its team is back (R455). -/
def endRecord (uid : Nat) (s : State) : State :=
  match fragOf s uid, copyOf s uid, enckeOf s uid with
  | some (c, n, _), _, _ => took s (execFragPoison c n s)
  | none, some (c, n), _ => took s (execCeresAbort c n s)
  | none, none, some (d, n) => took s (execEkresAbort d n s)
  | none, none, none => if inSaved s uid then State.modFw s fun f => { f with doomed := NatSet.add uid f.doomed } else s

/-- The fragments and commands that are parked: identity and context. -/
def parkedUids (s : State) : List (Nat × Nat) :=
  s.cores.flatMap (fun c => (c.2.frags.filterMap fun e => if e.2.late || e.2.state != .parked then none else some (e.2.uid, e.2.ctx))
    ++ c.2.copy.filterMap fun e => if e.2.parked then some (e.2.uid, e.2.ctx) else none)
    ++ s.dies.flatMap fun d => d.2.ek.filterMap fun e => if e.2.parked then some (e.2.uid, e.2.ctx) else none

/-- Firmware readies a fragment or resumes a command, once all its records are served (R481). One of a stopped context has a
record that was not served (R113). -/
def readyRecord (uid : Nat) (s : State) : State :=
  if recordsOpen s uid || (parkedUids s).any (fun p => p.1 == uid && (State.ctx s p.2).stopped) then s
  else
    match fragOf s uid, copyOf s uid, enckeOf s uid with
    | some (c, n, f), _, _ => if f.state == .parked then took s (execFragReady c n s) else s
    | none, some (c, n), _ => took s (execCeresResume c n s)
    | none, none, some (d, n) => took s (execEkresResume d n s)
    | none, none, none => s

/-- What firmware decided about a fragment or command while its team was saved takes effect once it is back, under the identity
that the notice gives (R455, R481). -/
def settleRecord (uid : Nat) (s : State) : State :=
  if s.fw.doomed.elem uid then endRecord uid (State.modFw s fun f => { f with doomed := NatSet.del uid f.doomed })
  else readyRecord uid s

/-- A parked fragment or command, of a context that runs, with every record served: its team has come back from a save. -/
def toSettle (s : State) : Option Nat :=
  ((parkedUids s).find? fun p => s.fw.doomed.elem p.1 || (!recordsOpen s p.1 && !(State.ctx s p.2).stopped)).map Prod.fst

/-! ## Serving by kind (R490, R480) -/

/-- The stacks of a die, and all of them. -/
def diestacks (d : Nat) : List Nat := [2 * d, 2 * d + 1]
def allStacks : List Nat := List.range 8

/-- What serving a record comes to. -/
inductive Served where
  /-- The record is served. -/
  | done (s : State)
  /-- Its service is under way, and firmware stays with it. -/
  | work (s : State)
  /-- It waits on something else: firmware sets it aside. -/
  | aside
  deriving DecidableEq, Repr

/-- Bring a page back from its backing frame: it is copied once a frame is there (R480, case 3). -/
def bringBack (page core ctx : Nat) (e : Nat) (s : State) : Served :=
  let big := (coverKey s page).2
  match obtainFrame (diestacks (core / 16)) allStacks big s with
  | .frame u f s1 => .work (addMove ⟨page, e, big, .frame u f false, 4⟩ s1)
  | .busy s1 => .work s1
  | .none => .done (stopCtx ctx s)

/-- Fill the frame queue of the unit an entry names, with up to 64 frames (R490; log 12). -/
def refillQueue (unit : Nat) : Nat → State → Try
  | 0, s => .done s
  | n + 1, s =>
    if 64 ≤ (State.unit s unit).ffq.length then .done s
    else
      match obtainFrame [unit] (if unit < 8 then [unit] else []) false s with
      | .frame u f s1 => refillQueue unit n (took s1 (execFfaddWrite u (BitVec.ofNat 32 f) s1))
      | .busy s1 => if (State.unit s1 unit).ffq.isEmpty then .busy s1 else .done s1
      | .none => .done s

/-- A page number of a record. -/
def recordPage (r : FaultRec) : Nat := r.caddr / 2 ^ 16

/-! ## Regeneration (R111, R112) -/

/-- The lowest range of `n` free chip pages, aligned to `n`, above those of every valid range register (R465). -/
def freeChip (s : State) (n align : Nat) : Option Nat :=
  let used := (s.ctxs.flatMap fun c => (List.range 8).filterMap fun k =>
    if (Ctx.range c.2 k 3).testBit 0 then
      some (Ctx.range c.2 k 2 / 2 ^ 16 % 2 ^ 32,
        Ctx.range c.2 k 2 / 2 ^ 16 % 2 ^ 32 + (Ctx.range c.2 k 1 / 2 ^ 16 - Ctx.range c.2 k 0 / 2 ^ 16) + 1)
    else none)
  leastOf ((0 :: used.map fun u => (u.2 + align - 1) / align * align).filter fun p =>
    decide (p + n ≤ 2 ^ 27) && used.all fun u => decide (p + n ≤ u.1) || decide (u.2 ≤ p))

/-- The lowest virtual page, from 2^59 bytes up, outside every valid range of a context. -/
def freeVirtual (c : Ctx) (n : Nat) : Option Nat :=
  let used := (List.range 8).filterMap fun k =>
    if (Ctx.range c k 3).testBit 0 then some (Ctx.range c k 0 / 2 ^ 16, Ctx.range c k 1 / 2 ^ 16 + 1) else none
  leastOf ((2 ^ 43 :: used.map fun u => (u.2 + n - 1) / n * n).filter fun p =>
    decide (2 ^ 43 ≤ p) && decide (p + n ≤ 2 ^ 44) && used.all fun u => decide (p + n ≤ u.1) || decide (u.2 ≤ p))

/-- Set the four registers of a range. -/
def setRange (ctx k base lim cb ctl : Nat) (s : State) : State :=
  State.modCtx s ctx fun c =>
    { c with ranges := Table.set (4 * k + 3) (BitVec.ofNat 64 ctl) (Table.set (4 * k + 2) (BitVec.ofNat 64 cb)
      (Table.set (4 * k + 1) (BitVec.ofNat 64 lim) (Table.set (4 * k) (BitVec.ofNat 64 base) c.ranges))) }

/-- The teams of a context that are resident. -/
def teamsOfCtx (s : State) (ctx : Nat) : List Nat :=
  (s.teams.filter fun e => match Table.find e.2.grid s.grids with
    | some g => g.ctx == ctx
    | none => false).map Prod.fst

/-- A context has a resident band. -/
def ctxResident (s : State) (ctx : Nat) : Bool := !(teamsOfCtx s ctx).isEmpty

/-- A context has a resident band, or a copy or Encke command in flight: its range registers stay as they are (R93). -/
def ctxBusy (s : State) (ctx : Nat) : Bool :=
  ctxResident s ctx || s.cores.any (fun c => c.2.copy.any fun k => k.2.ctx == ctx)
    || s.dies.any fun d => d.2.ek.any fun k => k.2.ctx == ctx

/-- An identifier no queued or running grid of the context has, from the highest down. -/
def freeGridid (s : State) (ctx : Nat) : Nat :=
  let used := (s.grids.filter fun e => e.2.ctx == ctx).map fun e => e.2.desc.gridid
  (((2 ^ 32 - 1) :: used.map fun g => g - 1).filter fun g => !used.elem g).foldl Nat.max 0

/-- The bytes of a regeneration kernel's descriptor: one team, no dependency (R388). -/
def regenDesc (image gridid : Nat) : List Byte :=
  natLe 8 image ++ natLe 4 1 ++ natLe 4 gridid ++ List.replicate 112 0

/-- The parameters of R111 step 4. -/
def regenParams (va page size : Nat) (arg : Dword) : List Byte :=
  natLe 8 va ++ natLe 8 (page * 2 ^ 16) ++ natLe 8 size ++ natLe 8 arg.toNat

/-- Give a context its staging window, while it is not busy: its highest range register that is free, 32 virtual pages, 32 chip
pages (R93, R111 step 3; log 52). None where one of them is lacking. -/
def giveStaging (ctx : Nat) (s : State) : Option State :=
  let c := State.ctx s ctx
  if c.staging.isSome then some s
  else if ctxBusy s ctx then none
  else
    match ((List.range 8).reverse).find? (fun k => !(Ctx.range c k 3).testBit 0), freeChip s 32 32, freeVirtual c 32 with
    | some k, some p, some va =>
      some (followView ctx none (setRange ctx k (va * 2 ^ 16) ((va + 31) * 2 ^ 16) (p * 2 ^ 16) 15
        (State.modCtx s ctx fun c => { c with staging := some ⟨k, va, p⟩ })))
    | _, _, _ => none

/-- Start a regeneration: step 1 of R111; the rest follows by REGEN_COMPLETE. DESIGN CHOICE (log 52): an entry that names no
registered kernel, or one in a stopped context, ends its requests by POISON; without a staging window, or while another regeneration of the kernel's
context uses it, the record is set aside. -/
def startRegen (page : Nat) (rec_ : Nat × FaultRec) (s : State) : Served :=
  let e := pageEntry s page
  match Table.find (e / 2 ^ 4 % 2 ^ 12) s.fw.kernels with
  | none => .done (endRecord rec_.2.uid s)
  | some kn =>
    if (State.ctx s kn.ctx).stopped then .done (endRecord rec_.2.uid s)
    else if s.fw.regens.any fun g => g.ctx == kn.ctx then .aside
    else
      match giveStaging kn.ctx s with
      | none => .aside
      | some s1 =>
        let g : Regen := ⟨page, (coverKey s page).2, e, kn.ctx, 0, freeGridid s kn.ctx, none, none, [rec_]⟩
        .done (State.modFw (setPageEntry s1 page 4) fun w => { w with regens := w.regens ++ [g] })

/-- The grid of a saved fragment. -/
def savedGrid (s : State) (uid : Nat) : Option Grid :=
  (s.saved.findSome? fun e => if e.2.frags.any (fun f => f.2.2.uid == uid) then some e.2.grid else none).bind fun g =>
    Table.find g s.grids

/-- The record comes from the grid that regenerates the page (R111). -/
def fromItself (s : State) (r : FaultRec) : Bool :=
  match fragOf s r.uid with
  | none => (savedGrid s r.uid).any fun g => g.regen == some (recordPage r)
  | some (_, _, f) =>
    match State.home s f.band with
    | none => false
    | some (_, _, g) => g.regen == some (recordPage r)

/-- Attach a record to the regeneration of its page. -/
def joinRegen (page die : Nat) (r : FaultRec) (s : State) : State :=
  State.modFw s fun f => { f with regens := f.regens.map fun g =>
    if g.page == page then { g with recs := g.recs ++ [(die, r)] } else g }

/-- Serve one record (R490, R480, R111). An entry that is PRESENT counts as served, once a page brought back for it is
usable. DESIGN CHOICE (log 12): firmware stays with a record whose page is on the move. -/
def serveRecord (die : Nat) (r : FaultRec) (s0 : State) : Served :=
  let s := readCover (recordPage r) s0
  let c := coverKey s (recordPage r)
  let page := if c.2 then recordPage r / 32 * 32 else recordPage r
  let e := State.dword s c.1
  let done (s : State) : Served := .done (readyRecord r.uid s)
  if fromItself s { r with caddr := page * 2 ^ 16 } && e % 8 != 1 then .done (endRecord r.uid s)
  else if (moveOf s page).any fun m => m.old % 8 == 3 || (decide (0 < m.step) && r.kind == kindMigrating) then .work s
  else if e % 8 = 1 then done s
  else if e % 8 = 4 then
    if s.fw.regens.any fun g => g.page == page then .done (joinRegen page die r s) else .work s
  else
    match r.kind with
    | 2 =>
      if e % 8 = 3 then
        if !e.testBit 10 then .done (endRecord r.uid s) else bringBack page r.core r.ctx e s
      else done s
    | 3 => done s
    | 4 => if e % 8 = 5 then startRegen page (die, r) s else done s
    | 5 =>
      match refillQueue (entryUnit r.entry) 64 s with
      | .busy s1 => .work s1
      | .done s1 =>
        if (State.unit s1 (entryUnit r.entry)).ffq.isEmpty then .done (stopCtx r.ctx s1) else done s1
    | _ => .done (endRecord r.uid s)

/-! ## The steps -/

/-- Try the records set aside, in order: whether one has been served, whether firmware stays with one, and the state. -/
def serveParked : List (Nat × FaultRec) → Bool → State → Bool × Bool × State
  | [], w, s => (false, w, s)
  | p :: ps, w, s =>
    let without : State := State.modFw s fun f => { f with parked := f.parked.erase p }
    match serveRecord p.1 p.2 without with
    | .done t => (true, w, t)
    | .work t => serveParked ps true (State.modFw t fun f => { f with parked := s.fw.parked })
    | .aside => serveParked ps w s

/-- The next die in turn whose queue holds an unserved record (R107). -/
def nextFaultDie (s : State) : Option Nat :=
  ((List.range 4).map fun i => (s.hub.lastDie + 1 + i) % 4).find? fun d =>
    (Table.find (State.die s d).fqTail (State.die s d).fq).isSome

/-- Take the oldest record of a die's queue. -/
def takeRecord (d : Nat) (s : State) : State :=
  State.modHub (State.modDie s d fun x =>
    { x with fq := Table.del x.fqTail x.fq, fqTail := (x.fqTail + 1) % 2048 }) fun h => { h with lastDie := d }

/-- FAULT_RECORD_SERVE: firmware serves one record: one set aside that can go on, else the next in the order of R107. While it
stays with a record, it takes no other. Between the failure of Phobos and Deimos's fourth step none is served (R427). -/
def execFaultRecordServe (s : State) : Host.Outcome State Fault Refusal :=
  if Hub.onHold s.hub && !s.fw.draining then .next s
  else
  match toSettle s with
  | some uid => .next (settleRecord uid s)
  | none =>
  match serveParked s.fw.parked false s with
  | (true, _, t) | (false, true, t) => .next t
  | (false, false, t) =>
    match nextFaultDie t with
    | none => .next t
    | some d =>
      match Table.find (State.die t d).fqTail (State.die t d).fq with
      | none => .next t
      | some r =>
        let s1 := takeRecord d (journal (.served d r.seq) t)
        match serveRecord d r s1 with
        | .done t => .next t
        | .work t => .next (State.modFw t fun f => { f with parked := f.parked ++ [(d, r)] })
        | .aside => .next (State.modFw s1 fun f => { f with parked := f.parked ++ [(d, r)] })

/-! ## Regeneration, step by step (R111) -/

def setRegen (g : Regen) (s : State) : State :=
  State.modFw s fun f => { f with regens := f.regens.map fun x => if x.page == g.page then g else x }

/-- The staging window of a regeneration. -/
def stagingOf (g : Regen) (s : State) : Staging := (State.ctx s g.ctx).staging.getD ⟨8, 0, 0⟩

/-- Steps 2 and 3: a frame, zero-filled, at the staging page; with none to be had, the context of each waiting request stops
and the entry is restored (R113). -/
def frameRegen (g : Regen) (s : State) : State :=
  let core := (g.recs.head?.map fun r => r.2.core).getD 0
  match obtainFrame (diestacks (core / 16)) allStacks g.big s with
  | .frame u f s1 =>
    setRegen { g with place := some (u, f), phase := 1 }
      (setEntryOf g.big (stagingOf g s).chip (presentEntry u f true false false) (zeroPage u f g.big s1))
  | .busy s1 => s1
  | .none =>
    setRegen { g with ended := some false, phase := 5 }
      (setPageEntry (g.recs.foldl (fun s p => stopCtx p.2.ctx s) s) g.page g.entry)

/-- Step 4: the grid is journalled and queued, once the queue has room (R396, R426). -/
def launchRegen (g : Regen) (s : State) : State :=
  match Table.find (g.entry / 2 ^ 4 % 2 ^ 12) s.fw.kernels with
  | none => setRegen { g with ended := some false, phase := 3 } s
  | some kn =>
    if 256 ≤ (Table.get [] 0 s.hub.queues).length then s
    else
      let n := pageSpan g.big
      let launch (s : State) : Try := launchGrid kn.ctx 0 (regenDesc kn.image g.gridid)
        (some (g.page, regenParams ((stagingOf g s).va * 2 ^ 16) g.page (n * 2 ^ 16) kn.arg)) s
      match launch s with
      | .busy s1 => s1
      | .done _ =>
        let s1 := Try.state (launch (journal (.queued kn.ctx g.gridid 0) s))
        if (gridNamed s1 kn.ctx g.gridid).isSome then setRegen { g with phase := 2 } s1
        else setRegen { g with ended := some false, phase := 3 } s1

/-- The end: the frame is the page's or free again, the records are answered (R111 step 8). -/
def endRegen (g : Regen) (s : State) : State :=
  let s1 := State.modFw s fun f => { f with regens := f.regens.filter fun x => x.page != g.page }
  if g.ended = some true then
    g.recs.foldl (fun s p => readyRecord p.2.uid s) (State.modFw s1 fun f =>
      { f with pages := Table.alter g.page (fun r => { r with rgk := some (g.entry / 2 ^ 4 % 2 ^ 12) }) f.pages })
  else
    g.recs.foldl (fun s p => endRecord p.2.uid s) (match g.place with
      | some (u, f) => dropFrames u f g.big s1
      | none => s1)

/-- REGEN_COMPLETE: the next step of a regeneration that can be taken: a frame, the grid, and, once the grid has ended, the
flush of the staging page, the entry, PRESENT or REGEN again, the invalidations, the answers (R111). -/
def execRegenComplete (page : Nat) (s : State) : Host.Outcome State Fault Refusal :=
  match s.fw.regens.find? fun g => g.page == page with
  | none => .next s
  | some g =>
    let n := pageSpan g.big
    let st := (stagingOf g s).chip
    let home := unitDie ((g.place.map Prod.fst).getD 0)
    let step (k : Nat) (s : State) : State := setRegen { g with phase := k } s
    .next (match g.phase with
    | 0 => frameRegen g s
    | 1 => launchRegen g s
    | 2 => if g.ended.isSome && pagesIdle s st n then step 3 s else s
    | 3 => step 4 (flushPages home st n s)
    | 4 =>
      if mtinvFree s && pagesFlushed s home st n then
        let e := match g.ended, g.place with
          | some true, some (u, f) => presentEntry u f true false true
          | _, _ => g.entry
        step 5 (startMtinv st n (setPageEntry (setEntryOf g.big st 0 s) g.page e))
      else s
    | 5 => if mtinvFree s then step 6 (startMtinv g.page n s) else s
    | _ => if mtinvFree s then endRegen g s else s)

end Sys2Proof.Machine
end

