-- ==== Sys2Proof/Machine/Place.lean ====
section
/-!
DEFINITION. Where a team fits and how it is made resident: band slots, registers, tiles, windows, owner records
(spec/01_the_part.md R24, R25; spec/04_addresses_and_translation.md R81; spec/06_distributed_sram.md R131, R132;
spec/17_scheduling_tokens_power.md R398; spec/15_control_flow.md R346).
-/
namespace Sys2Proof.Machine

/-! ## What is resident -/

/-- The bands of a quarter. -/
def bandsIn (s : State) (core q : Nat) : List (Nat × Band) := s.bands.filter fun e => e.1 / 16 == core * 4 + q

/-- The free slots of a quarter, ascending. -/
def slotsFree (s : State) (core q : Nat) : List Nat :=
  (List.range 16).filter fun n => (Table.find (core * 64 + q * 16 + n) s.bands).isNone

/-- The quarters of some cores as placement sees them (R24). -/
def poolsOf (s : State) (cores : List Nat) : List Pool :=
  cores.flatMap fun c => (List.range 4).map fun q =>
    ⟨c, q, (slotsFree s c q).length, 131072 - (bandsIn s c q).foldl (fun n e => n + e.2.width * e.2.vbud) 0⟩

/-- The teams resident on a core, with their grids. -/
def teamsOn (s : State) (core : Nat) : List (Nat × Team × Grid) :=
  s.teams.filterMap fun e =>
    if e.2.core == core || (e.2.pair && e.2.core + 1 == core) then
      (Table.find e.2.grid s.grids).map fun g => (e.1, e.2, g)
    else none

/-- A team's window on a core: base and bytes. -/
def windowOn (core : Nat) (t : Team) (g : Grid) : Nat × Nat :=
  (if t.pair && core % 2 == 1 then t.lbo else t.lb, g.hdr.scratch)

/-- The lowest free run of a slice that holds `n` bytes (R81). -/
def freeRun (s : State) (core n : Nat) : Option Nat :=
  let used := (teamsOn s core).map fun e => windowOn core e.2.1 e.2.2
  leastOf ((0 :: used.map fun w => w.1 + w.2).filter fun b =>
    decide (b + n ≤ allocatable) && used.all fun w => decide (b + n ≤ w.1) || decide (w.1 + w.2 ≤ b))

/-- A given run of a slice is free. -/
def runFree (s : State) (core b n : Nat) : Bool :=
  decide (b + n ≤ allocatable) && (teamsOn s core).all fun e =>
    let w := windowOn core e.2.1 e.2.2
    decide (b + n ≤ w.1) || decide (w.1 + w.2 ≤ b)

/-- The cores of a kernel's team placed at `core`. -/
def coresOf (pair : Bool) (core : Nat) : List Nat := if pair then [core, core + 1] else [core]

/-- The shared limits of a core hold with one more team (R24). -/
def coreFits (s : State) (h : Header) (core : Nat) : Bool :=
  let ts := teamsOn s core
  decide (ts.length < 64) && decide (ts.foldl (fun n e => n + e.2.2.hdr.tiles) 0 + h.tiles ≤ 32)
    && decide (ts.foldl (fun n e => n + e.2.2.hdr.scratch) 0 + h.scratch ≤ allocatable)
    && (freeRun s core h.scratch).isSome

/-- The quarters of a team's bands, where the team fits at `core` (R24, R398). -/
def placeBands (s : State) (g : Grid) (core : Nat) : Option (List (Nat × Nat)) :=
  let cs := coresOf (Header.pair g.hdr) core
  if cs.all (coreFits s g.hdr) then assignBands (bandNeeds g.hdr g.roles) (poolsOf s cs) [] else none

/-- The cores at which a team of the grid may be placed: every core, or the even ones. -/
def sitesOf (g : Grid) : List Nat := if Header.pair g.hdr then (List.range 32).map (2 * ·) else List.range 64

/-- Free band slots of a site before placement: the order of R398 is the same after it. -/
def freeSlots (s : State) (g : Grid) (core : Nat) : Nat :=
  (coresOf (Header.pair g.hdr) core).foldl (fun n c => n + (List.range 4).foldl (fun n q => n + (slotsFree s c q).length) 0) 0

/-- The site of R398 among those that fit: dies named by DIES first, the most free slots, the lower number. -/
def chooseSite (s : State) (g : Grid) (sites : List Nat) : Option Nat :=
  let named := sites.filter fun c => g.desc.dies.testBit (c / 16)
  (if named.isEmpty then sites else named).foldl (fun m c => match m with
    | none => some c
    | some d => if freeSlots s g d < freeSlots s g c then some c else m) none

/-! ## Making a team resident -/

/-- Set the owner records of a window's blocks (R131), and zero its bytes (R132); the core's L1 starts empty, so that the team
reads nothing older than what happened before it (R343). -/
def takeWindow (core base n ctx swz : Nat) (s : State) : State :=
  let lo := core * 2 ^ 26 + base
  let s1 : State :=
    { s with
      sram := s.sram.filter fun e => decide (e.1 < lo) || decide (lo + n ≤ e.1)
      sramFlips := s.sramFlips.filter fun e => decide (e.1 < lo) || decide (lo + n ≤ e.1)
      sramPoison := s.sramPoison.filter fun b => decide (b < lo) || decide (lo + n ≤ b) }
  State.modCore s1 core fun k =>
    { k with l1 := [], owners := (List.range (n / 1024)).foldl (fun t i => Table.set (base / 1024 + i) (ctx, swz) t) k.owners }

/-- Clear the owner records of a window's blocks (R131). -/
def dropWindow (core base n : Nat) (s : State) : State :=
  State.modCore s core fun k =>
    { k with owners := k.owners.filter fun e => decide (e.1 < base / 1024) || decide ((base + n) / 1024 ≤ e.1) }

/-- A team's windows on its cores are given up. -/
def dropWindows (t : Team) (g : Grid) (s : State) : State :=
  (coresOf t.pair t.core).foldl (fun s c => dropWindow c (windowOn c t g).1 g.hdr.scratch s) s

/-- A thread as its band starts: PC, %tid in v0, G (R203, R346). -/
def startLane (tid l entry : Nat) : Lane :=
  { Lane.start with
    pc := ⟨entry, 0⟩
    v := Table.put 0 0 (BitVec.ofNat 32 tid) []
    gen := BitVec.ofNat 32 ((l + 1) * 0x9E3779B9) }

/-- The parameters in the scalar registers (R56). -/
def paramRegs (ps : List Byte) : Nat → Nat → Table Word
  | 0, _ => []
  | n + 1, r => Table.put 0 r (BitVec.ofNat 32 (fieldAt ps (4 * r) 4)) (paramRegs ps n (r + 1))

/-- A band as it starts (R203, R205, R346, R401). -/
def startBand (team : Nat) (g : Grid) (n seq : Nat) : Band :=
  let r := bandRole g.hdr g.roles n
  let w := Header.width g.hdr
  { team := team, num := n, width := w, vbud := r.1, sbud := r.2.1
    lanes := (List.range w).map fun l => (l, startLane (n * w + l) l r.2.2)
    s := paramRegs g.params (g.hdr.paramsz / 4) 0
    dc := [], latch := [], ka := Ka.zero, fflags := 0, fmt := 0, lthresh := 1024, brun := 0, armed := false, deadline := 0
    shadow := false, seq := seq, age := 0, flr := 0, yf := false, intent := none, overflow := none, more := [], held := [], busy := 0
    stopped := false, record := none }

/-- Put a band into the lowest free slot of a quarter. -/
def seatBand (core q : Nat) (b : Band) (s : State) : State :=
  match slotsFree s core q with
  | [] => s
  | n :: _ => { s with bands := Table.set (core * 64 + q * 16 + n) b s.bands, nextKey := s.nextKey + 1 }

/-- The barriers of a team at its first placement (R371). -/
def startBars (g : Grid) : Table Barrier :=
  (List.range 16).map fun n => (n, ⟨false, g.hdr.nbands * Header.width g.hdr, 0, false⟩)

/-- Place team `num` of a grid for the first time at `core` (R398, R131, R132, R371). -/
def seatTeam (gk : Nat) (g : Grid) (num core : Nat) (where_ : List (Nat × Nat)) (s : State) : State :=
  let pair := Header.pair g.hdr
  let lb := (freeRun s core g.hdr.scratch).getD 0
  let lbo := if pair then (freeRun s (core + 1) g.hdr.scratch).getD 0 else 0
  let k := s.nextKey
  let t : Team :=
    { grid := gk, num := num, core := core, pair := pair, lb := lb, lbo := lbo, tiles := [], bars := startBars g
      pinned := false, halted := false, save := none, placed := k, ended := 0 }
  let s1 : State := { s with nextKey := k + 1, teams := Table.set k t s.teams }
  let s2 := (coresOf pair core).foldl (fun s c =>
    takeWindow c (windowOn c t g).1 g.hdr.scratch g.ctx g.desc.swz s) s1
  let s3 := (List.range where_.length).foldl (fun s n => match where_[n]? with
    | none => s
    | some (c, q) => seatBand c q (startBand k g n s.nextKey) s) s2
  State.modGrid s3 gk fun g => { g with running := g.running + 1 }

end Sys2Proof.Machine
end

