-- ==== Sys2Proof/Machine/Image.lean ====
section
/-!
DEFINITION. The save record: its sections as bytes (spec/18_traps_fragments_preemption.md R439, R440, R446, R452 to R454;
spec/07_copy_engines.md R154 to R156, R169; spec/13_encke_product_key.md R304, R309).
-/
namespace Sys2Proof.Machine

/-! ## Descriptors as read at acceptance (R154 to R156, R304, R309) -/

/-- A signed 32-bit value. -/
def word32 (x : Int) : List Byte := natLe 4 (x % ((2 ^ 32 : Nat) : Int)).toNat

/-- The descriptor of a copy command: CPY and CFILL have none. -/
def copyImage : CopyDesc → List Byte
  | .flat _ | .fill .. => []
  | .two r b s d => natLe 4 r ++ natLe 4 b ++ natLe 4 s ++ natLe 4 d
  | .gather _ l c b n p => natLe 4 l ++ natLe 4 c ++ natLe 4 b ++ natLe 4 n ++ natLe 8 p
  | .tensor nd e tb box nt str start =>
    natLe 1 nd ++ natLe 1 (Nat.log2 e) ++ natLe 1 (if tb then 0 else 1) ++ zeros 5 ++ box.flatMap (natLe 4) ++ zeros 4
      ++ nt.flatMap (natLe 4) ++ zeros 4 ++ (str.drop 1).flatMap (natLe 8) ++ start.flatMap word32 ++ zeros 20

/-- A table-set parameter block. -/
def keySetImage (k : KeySet) : List Byte :=
  natLe 1 k.logn ++ natLe 1 k.vfmt ++ natLe 1 (if k.mom then 1 else 0) ++ zeros 1 ++ natLe 2 k.hd ++ natLe 2 k.rlen
    ++ natLe 8 k.k1 ++ natLe 8 k.k2 ++ natLe 8 k.vt ++ natLe 8 k.rstr ++ natLe 8 k.mt ++ natLe 8 k.mstr
    ++ natLe 4 k.clip.toNat ++ natLe 4 k.lr.toNat ++ natLe 4 k.beta.toNat ++ natLe 4 k.cwg ++ natLe 4 k.cwv.toNat

/-- A batch descriptor. -/
def batchImage (b : Batch) : List Byte :=
  natLe 4 b.nq ++ natLe 1 b.k ++ natLe 1 b.wmode ++ zeros 6 ++ natLe 4 b.smf.toNat ++ natLe 4 b.qg ++ natLe 4 b.qstr
    ++ natLe 4 b.og ++ natLe 4 b.ostr ++ natLe 4 b.sg ++ natLe 4 b.sstr ++ natLe 4 b.cwg ++ natLe 4 b.cwv.toNat

/-! ## Fragments (R439, R440) -/

def fragStateCode : FragState → Nat
  | .parked => 0
  | .ready => 1
  | .replaying => 2
  | .landing => 3

/-- The table-entry image of a fragment (R439). -/
def fragEntryImage (core n : Nat) (f : Frag) : List Byte :=
  natLe 4 (1 + fragStateCode f.state * 2 + (if f.late then 0x14 else 6) * 2 ^ 8 + f.band / 16 % 4 * 2 ^ 16
    + f.band % 16 * 2 ^ 18 + f.logNo * 2 ^ 24) ++ natLe 1 f.ctx
    ++ natLe 1 f.nrec ++ natLe 2 (core * 128 + n) ++ natLe 8 f.lanes.toNat ++ natLe 8 (Pc.toDword f.pc).toNat
    ++ natLe 4 f.seq ++ zeros 4

/-- A saved fragment: its table entry, its log entry and its continuation or zeros (R454). -/
def fragImage (core n : Nat) (f : Frag) : List Byte :=
  let id := core * 128 + n
  fragEntryImage core n f ++ (match f.cont with
    | none => logImage id 0 false f.log false ++ zeros 2048
    | some c => logImage id c false f.log true ++ logImage id 0 true f.log false)

/-! ## Bands and threads (R453) -/

def runCode : Run → Nat
  | .running => 0
  | .rejoin => 1
  | .barrier _ => 2
  | .addr => 3
  | .parked => 4
  | .exited => 5
  | .counter _ => 6
  | .acc _ _ => 7

/-- A thread record of 64 bytes. -/
def threadImage (y : Lane) : List Byte :=
  natLe 8 (Pc.toDword y.pc).toNat ++ natLe 1 (runCode y.run)
    ++ natLe 1 (match y.run with
      | .barrier b => b
      | _ => 0)
    ++ natLe 1 y.rdp ++ natLe 1 y.c.toNat ++ natLe 4 y.gen.toNat ++ natLe 8 y.tepc.toNat ++ natLe 8 y.taddr.toNat
    ++ natLe 4 y.tcause.toNat ++ natLe 4 y.frag.toNat ++ natLe 4 (y.la.toNat + y.ph.toNat * 2 ^ 16)
    ++ natLe 4 (match y.waita with
      | w :: _ => w.left.getD 0xFFFFFFFF
      | [] => 0xFFFFFFFF)
    ++ natLe 16 (y.err.foldl (fun n e => n + 2 ^ e.1) 0)

/-- The overflow record (R446). -/
def overflowImage (o : Option Overflow) : List Byte :=
  match o with
  | none => zeros 80
  | some o => padTo 80 (natLe 8 (Pc.toDword o.pc).toNat ++ natLe 4 o.log.w0 ++ natLe 4 o.log.w1 ++ natLe 4 o.log.shape
      ++ zeros 4 ++ natLe 8 o.log.lanes.toNat ++ natLe 8 o.log.cmask.toNat
      ++ (regsOf (logUses o.log).s).flatMap fun r => natLe 4 (Table.get 0 r o.log.sv).toNat)

/-- Bytes at an offset of the record. -/
abbrev Piece := Nat × List Byte

def bandBytes (b : Band) : Nat := 512 + 64 * b.width + 4 * b.sbud + 4 * b.vbud * b.width

/-- The registers of a band that its save keeps (R55, R204, R448). -/
structure Kept_ where
  v : Nat → Bool
  s : Nat → Bool

/-- A band record at offset `o`. -/
def bandImage (b : Band) (k : Kept_) (o : Nat) : List Piece :=
  let flags := (if b.armed then 1 else 0) + (if b.shadow then 2 else 0) + (if b.record.isNone then 4 else 0)
    + (if b.overflow.isSome then 8 else 0)
  let head := natLe 8 b.brun.toNat ++ natLe 8 b.deadline.toNat ++ natLe 4 flags ++ natLe 4 b.fflags.toNat
    ++ natLe 4 b.fmt.toNat ++ natLe 4 b.lthresh.toNat ++ natLe 4 (b.record.getD 0xFFFFFFFF)
    ++ ((List.range 6).flatMap fun i => natLe 1 (Table.get 0 i b.dc)) ++ zeros 6
    ++ ((List.range 6).flatMap fun i => match Table.find i b.latch with
      | some x => natLe 8 x.mask.toNat ++ natLe 8 x.addr.toNat
      | none => zeros 16)
    ++ ((List.range 16).flatMap fun i => natLe 4 (Fp.kimage b.ka i).toNat) ++ overflowImage b.overflow ++ zeros 224
    ++ (List.range b.width).flatMap fun l => threadImage (Band.lane b l)
  let so := o + 512 + 64 * b.width
  let vo := so + 4 * b.sbud
  (o, head)
    :: (((List.range b.sbud).filter k.s).map fun r => (so + 4 * r, natLe 4 (Band.sreg b r).toNat))
    ++ ((List.range b.vbud).filter k.v).map fun r =>
      (vo + 4 * (r * b.width), (List.range b.width).flatMap fun l => natLe 4 (Lane.reg (Band.lane b l) r).toNat)

/-! ## Engine records (R454) -/

def scopeBits : Option Scope → Nat
  | some .band => 1
  | some .team => 1 + 2 ^ 2
  | some .pair => 1 + 2 * 2 ^ 2
  | some .dev => 1 + 3 * 2 ^ 2
  | some .fab => 1 + 4 * 2 ^ 2
  | none => 0

/-- One engine record of 256 bytes. -/
def engineImage (kind op flags dc p lanes sa sb sc w g : Nat) (rest : List Byte) : List Byte :=
  padTo 256 (natLe 1 kind ++ natLe 1 op ++ natLe 1 flags ++ natLe 1 dc ++ natLe 4 p ++ natLe 8 lanes ++ natLe 8 sa ++ natLe 8 sb
    ++ natLe 4 sc ++ natLe 4 w ++ natLe 4 g ++ zeros 20 ++ padTo 128 rest)

/-- SA and SB of a copy command, as R150 gives them. -/
def CopyCmd.operands (c : CopyCmd) : Nat × Nat :=
  match c.desc with
  | .fill _ w => (c.dst.toNat, w.toNat)
  | _ => (c.src.toNat, c.dst.toNat)

/-- A copy command (R150, R169). DESIGN CHOICE (log 32): the table gives the place of the completion word no field: it stands
in the word after CWV. -/
def copyRecord (c : CopyCmd) : List Byte :=
  engineImage 1 c.op (scopeBits c.cw + if c.parked then 2 else 0) c.dc.val c.p c.lanes.toNat (CopyCmd.operands c).1
    (CopyCmd.operands c).2 c.sc c.cwv.toNat c.cwg (copyImage c.desc)

def ekOpcode : EkKind → Nat
  | .load => 0xB0
  | .query => 0xB1
  | .update => 0xB2
  | .stat => 0xB3

def ekRecordImage (c : EkCmd) : List Byte :=
  engineImage 2 (ekOpcode c.kind) (scopeBits c.cw + if c.parked then 2 else 0) c.dc.val c.qp c.lanes.toNat c.sa c.set 0
    (match c.batch with
      | some b => b.cwv.toNat
      | none => 0) 0
    (match c.batch, c.block with
      | some b, _ => batchImage b
      | none, some k => keySetImage k
      | none, none => [])

def mxRecord (o : MxOp) : List Byte :=
  engineImage 3 0x94 0 0 o.pw 0 o.addr.toNat 0 0 o.acc 0 (o.block ++ natLe 4 o.fmt.toNat
    ++ o.shapes.flatMap fun w => natLe 4 w.toNat)

/-- A TLD that is not complete: Q is its first row not yet done. DESIGN CHOICE (log 32): .tr stands in bit 5 of its flags, since
the spec gives it no place. -/
def tldRecord (o : Op) : Option (List Byte) :=
  match o.kind with
  | .tld t tr _ _ st _ =>
    let q := ((List.range o.accs.length).find? fun i => match o.accs[i]? with
      | some a => !Acc.over a
      | none => false).getD 0
    some (engineImage 4 0x90 (scopeBits (some o.scope) - 1 + if tr then 2 ^ 5 else 0) (match o.dc with
      | some k => k.val
      | none => 7) q o.lanes.toNat (match o.accs with
      | a :: _ => a.addr.toNat
      | [] => 0) 0 st t 0 (natLe 4 o.log.shape))
  | _ => none

/-! ## The whole record (R452 to R454) -/

/-- The offset of the next section. -/
def align256 (n : Nat) : Nat := (n + 255) / 256 * 256

/-- Sizes of the sections: bands, tiles, accumulators, engine records, fragments, SRAM ranges. -/
structure Sizes where
  bands : Nat
  tiles : Nat
  toks : Nat
  cmds : Nat
  frags : Nat
  sram : Nat
  deriving DecidableEq, Repr

/-- The offsets of the six sections and TOTAL. -/
def Sizes.offsets (z : Sizes) : List Nat × Nat :=
  let b := 256
  let t := align256 (b + z.bands)
  let a := align256 (t + z.tiles)
  let e := align256 (a + z.toks)
  let f := align256 (e + z.cmds)
  let r := align256 (f + z.frags)
  ([b, t, a, e, f, r], r + z.sram)

/-- A barrier word. -/
def barWord (b : Barrier) : Nat :=
  b.n % 2 ^ 13 + b.a % 2 ^ 13 * 2 ^ 13 + (if b.p then 2 ^ 26 else 0) + (if b.fixed then 2 ^ 27 else 0)

/-- The state of a token as saved. -/
def tokenCode : Token → Nat
  | .free => 0
  | .held _ => 1
  | .lent _ _ _ => 2
  | .rst _ => 3

/-- A tile header. -/
def tileHead (kept : Bool) (x : Tile) : List Byte :=
  natLe 4 x.shape.toNat
    ++ natLe 4 ((if kept then 1 else 0) + (if x.poison.isSome then 2 else 0) + if x.pend.isSome then 4 else 0)
    ++ natLe 8 (match x.poison with
      | some a => a.toNat
      | none => 0)

/-! ## The record read back (R455, R456) -/

/-- A field of the record. -/
def readNat (m : Table Byte) (o n : Nat) : Nat := leNat (Memory.bytes m o n)
def readWord (m : Table Byte) (o : Nat) : Word := BitVec.ofNat 32 (readNat m o 4)
def readDword (m : Table Byte) (o : Nat) : Dword := BitVec.ofNat 64 (readNat m o 8)

/-- The registers of `rs` from their words. -/
def readRegs (m : Table Byte) (word : Nat → Nat) (rs : List Nat) : Table Word :=
  rs.foldl (fun t r => Table.put 0 r (readWord m (word r)) t) []

/-- A thread from its record at `o` and the vector registers `vs` at `reg`. -/
def laneBack (m : Table Byte) (o : Nat) (reg : Nat → Nat) (vs : List Nat) (y : Lane) : Lane :=
  { y with
    pc := Pc.ofNat (readNat m o 8), rdp := readNat m (o + 10) 1, c := BitVec.ofNat 7 (readNat m (o + 11) 1), gen := readWord m (o + 12)
    tepc := readDword m (o + 16), taddr := readDword m (o + 24), tcause := readWord m (o + 32), frag := readWord m (o + 36)
    la := BitVec.ofNat 16 (readNat m (o + 40) 2), ph := BitVec.ofNat 16 (readNat m (o + 42) 2), v := readRegs m reg vs }

/-- A band from its record at `o`. -/
def bandBack (m : Table Byte) (k : Kept_) (o : Nat) (b : Band) : Band :=
  let so := o + 512 + 64 * b.width
  let vo := so + 4 * b.sbud
  { b with
    brun := readDword m o, deadline := readDword m (o + 8), armed := (readNat m (o + 16) 4).testBit 0
    shadow := (readNat m (o + 16) 4).testBit 1, fflags := BitVec.ofNat 5 (readNat m (o + 20) 4), fmt := readWord m (o + 24)
    lthresh := readWord m (o + 28), dc := (List.range 6).map fun i => (i, readNat m (o + 36 + i) 1)
    ka := Fp.kunimage fun i => readWord m (o + 144 + 4 * i)
    s := readRegs m (fun r => so + 4 * r) ((List.range b.sbud).filter k.s)
    lanes := b.lanes.map fun e => (e.1, laneBack m (o + 512 + 64 * e.1) (fun r => vo + 4 * (r * b.width + e.1))
      ((List.range b.vbud).filter k.v) e.2) }

/-- A barrier from its word. -/
def barBack (w : Nat) : Barrier := ⟨w.testBit 27, w % 2 ^ 13, w / 2 ^ 13 % 2 ^ 13, w.testBit 26⟩

/-- A tile or accumulator's 16,384 bytes. -/
def blockBack (m : Table Byte) (o : Nat) : Table Byte := Memory.store [] 0 (Memory.bytes m (o + 16) 16384)

/-- Pieces one after another from an offset. -/
def inRow (o : Nat) : List (List Byte) → List Piece
  | [] => []
  | x :: t => (o, x) :: inRow (o + x.length) t

end Sys2Proof.Machine
end

