-- ==== Sys2Proof/Machine/Save.lean ====
section
/-!
DEFINITION. Saving a team and restoring it (spec/18_traps_fragments_preemption.md R448 to R456;
spec/07_copy_engines.md R169, R170; spec/12_tiles_and_matrix.md R300, R301; spec/13_encke_product_key.md R323;
spec/14_ordering_and_visibility.md R339).
-/
namespace Sys2Proof.Machine

/-! ## The request (R448) -/

/-- A band none of whose lanes runs. -/
def bandIdle (b : Band) : Bool := (List.range b.width).all fun l => (Band.lane b l).run != .running

/-- Stop a band for its save. -/
def stopBand (record : Option Nat) (b : Band) : Band := { b with stopped := true, record := record }

/-- Stop the team's bands that have no running lane (R448). -/
def stopIdle (team : Nat) (s : State) : State :=
  (State.bandsOf s team).foldl (fun s e =>
    if !e.2.stopped && bandIdle e.2 then State.modBand s e.1 (stopBand none) else s) s

/-- Request a save; a migration names its destination (R448, R423). -/
def requestSave (team : Nat) (dest : Option Nat) (s : State) : State :=
  match Table.find team s.teams with
  | none => s
  | some t =>
    if t.save.isSome || t.halted then s
    else
      stopIdle team (State.modTeam s team fun t => { t with save := some ⟨s.hub.preempt.toNat % 2 ^ 24, dest, none, none⟩ })

/-- A group may stop: it stands at the entry of its clause, past a switch point, or is held at issue (R448, R453). -/
def groupRests (s : State) (key : Nat) (g : Grid) (b : Band) (pc : Pc) (ls : List Nat) : Bool :=
  ls.any (fun l => (Band.lane b l).entry != .inside) || (heldInstr s key g pc ls).isSome

/-- A band whose groups may all stop (R448). -/
def bandHalts (s : State) (key : Nat) (g : Grid) (b : Band) : Bool :=
  (groupsWhere (fun y => y.run == .running) b).all fun p =>
    p.2.all (fun l => !(Band.lane b l).sw && !uncounted s key l && !laneBlocked s key l) && groupRests s key g b p.1 p.2

/-- The band stops, as at a switch point: the results that its lanes hold are applied. DESIGN CHOICE (log 32): so do groups
held at issue inside their clause. -/
def haltBand (key : Nat) (b : Band) (s : State) : State :=
  let ls := (List.range b.width).filter fun l => (Band.lane b l).run == .running
  freeKept key (State.modBand (applyHeld key (maskOf ls) s) key fun b => Band.modLanes (stopBand none b) ls fun _ => passSwitch true)

/-- PREEMPT_BUDGET_EXPIRY: BUDGET cycles after the request each group stops at its next switch point (R448). -/
def execPreemptBudgetExpiry (team : Nat) (s : State) : Host.Outcome State Fault Refusal :=
  match Table.find team s.teams with
  | none => .next s
  | some t =>
    match t.save with
    | some ⟨0, _, _, _⟩ =>
      match Table.find t.grid s.grids with
      | none => .next s
      | some g =>
        .next ((State.bandsOf s team).foldl (fun s e =>
          if !e.2.stopped && bandHalts s e.1 g e.2 then haltBand e.1 e.2 s else s) s)
    | _ => .next s

/-! ## What is saved (R448, R453, R454, R300) -/

/-- An operation that a save keeps: it continues after the restore (R301, R380, R395). -/
def OpKind.saveable : OpKind → Bool
  | .tld .. | .waita | .cbwait .. => true
  | _ => false

/-- The bands of a team in %band order, with their keys. -/
def bandsByNum (s : State) (team : Nat) : List (Nat × Band) :=
  (List.range 64).filterMap fun n => (State.bandsOf s team).find? fun e => e.2.num == n

def liveOf (g : Grid) (b : Band) : Option LiveRec :=
  match b.record with
  | none => none
  | some n => g.live[n]?

/-- The registers kept: those of the record and the rejoin levels, or all (R204, R448). -/
def keptBand (g : Grid) (b : Band) : Kept_ :=
  match liveOf g b with
  | none => ⟨fun _ => true, fun _ => true⟩
  | some r => ⟨fun v => r.v.getLsbD v || (decide (b.vbud ≤ v + g.hdr.rjd) && decide (v < b.vbud)), fun n => r.s.getLsbD n⟩

/-- A band without what is not saved (R204, R414, R456). -/
def stripBand (k : Kept_) (keepIntent : Bool) (b : Band) : Band :=
  { b with
    lanes := b.lanes.map fun e =>
      (e.1, { e.2 with
        v := e.2.v.filter (fun r => k.v r.1), err := e.2.err.filter (fun r => k.v r.1), sw := false, starve := 0, stalled := 0
        barred := false, watch := none })
    s := b.s.filter fun r => k.s r.1
    intent := if keepIntent then b.intent else none, age := 0, flr := 0, yf := false, busy := 0, stopped := false }

/-- Join ranges in ascending order. -/
def joinRanges : List (Nat × Nat) → List (Nat × Nat)
  | [] => []
  | (a, n) :: t =>
    match joinRanges t with
    | (b, m) :: r => if b ≤ a + n then (a, Nat.max (a + n) (b + m) - a) :: r else (a, n) :: (b, m) :: r
    | [] => [(a, n)]

/-- Insert a range by its offset. -/
def insertRange (x : Nat × Nat) : List (Nat × Nat) → List (Nat × Nat)
  | [] => [x]
  | y :: t => if x.1 ≤ y.1 then x :: y :: t else y :: insertRange x t

/-- The ranges of the local window saved for the team. -/
def savedRanges (t : Team) (g : Grid) (bs : List (Nat × Band)) : List (Nat × Nat) :=
  if bs.any fun e => (liveOf g e.2).isNone then [(0, localExtent t g)]
  else
    joinRanges ((bs.flatMap fun e => ((liveOf g e.2).map LiveRec.ranges).getD []).foldl (fun l x =>
      if x.2 = 0 then l else insertRange x l) [])

/-- The runs of a slice under a range of the local window: a pair team's window lies in two slices (R81). -/
def windowRuns (core : Nat) (t : Team) (g : Grid) (o n : Nat) : List (Nat × Nat) :=
  let z := g.hdr.scratch
  let a := if o < z then [(core * 2 ^ 26 + t.lb + o, Nat.min n (z - o))] else []
  let b := if z < o + n then
      [((core + 1) * 2 ^ 26 + t.lbo + (Nat.max o z - z), o + n - Nat.max o z)] else []
  if t.pair then a ++ b else [(core * 2 ^ 26 + t.lb + o, n)]

def readWindow (s : State) (core : Nat) (t : Team) (g : Grid) (o n : Nat) : List Byte :=
  (windowRuns core t g o n).flatMap fun r => readSram s r.1 r.2

/-- The save reads the ranges through their bank words' codes (R141). -/
def senseWindow (core : Nat) (t : Team) (g : Grid) (rs : List (Nat × Nat)) (s : State) : State :=
  (rs.flatMap fun r => windowRuns core t g r.1 r.2).foldl (fun s r => if r.2 = 0 then s else senseSram r.1 r.2 s) s

/-- The bank words under the byte at a window offset. -/
def bankWords (core : Nat) (t : Team) (g : Grid) (o : Nat) : List Nat := (windowRuns core t g o 1).map fun r => r.1 / 16 * 16

/-- The offsets of the poisoned bank words under some ranges. -/
def markedOffsets (s : State) (core : Nat) (t : Team) (g : Grid) (rs : List (Nat × Nat)) : List Nat :=
  if s.sramPoison.isEmpty then []
  else rs.flatMap fun r => ((List.range ((r.1 + r.2 + 15) / 16)).map (16 * ·)).filter fun o =>
    decide (r.1 < o + 16) && (bankWords core t g o).any fun b => s.sramPoison.elem b

def writeRuns : List (Nat × Nat) → List Byte → State → State
  | [], _, s => s
  | (a, n) :: t, bs, s => writeRuns t (bs.drop n) (writeSram s a (bs.take n))

/-- The team's tiles that are saved, by their key: those of the liveness records, and those that are pending or held for
reading, by an operation or by a parked TST (R300, R448). -/
def keepTile (g : Grid) (v : Saved) (key : Nat) (x : Tile) : Bool :=
  v.full || ((v.bands.filterMap fun b => liveOf g b.band).any fun r => r.t.getLsbD (key % 32))
    || decide (0 < x.readers) || x.pend.isSome
    || v.frags.any (fun f => f.1 % 2 == key / 32 && !f.2.2.late && Log.reads f.2.2.log (key % 32))
    || v.bands.any fun b => b.key / 64 % 2 == key / 32 && (b.band.overflow.toList ++ b.band.more).any fun w => Log.reads w.log (key % 32)

/-- A save without the bytes of the tiles that it does not keep. -/
def stripTiles (g : Grid) (v : Saved) : Saved :=
  { v with team := { v.team with tiles := v.team.tiles.map fun e =>
    (e.1, if keepTile g v e.1 e.2 then e.2 else { e.2 with bytes := [] }) } }

/-- The content of a team's save; a migration, which names its destination, keeps the open power intents (R414). -/
def savedOf (s : State) (team slot : Nat) (t : Team) (g : Grid) (dest : Option Nat) : Saved :=
  let bs := bandsByNum s team
  let full := bs.any fun e => (liveOf g e.2).isNone
  let cs := coresOf t.pair t.core
  let mine (b : Nat) : Bool := bs.any fun e => e.1 == b
  stripTiles g
  { key := team, grid := t.grid, team := t, slot := slot
    bands := bs.map fun e => ⟨stripBand (keptBand g e.2) dest.isSome e.2, e.1⟩
    accs := cs.flatMap fun c => ((State.core s c).acc.filter fun a => Token.ofTeam a.2.token team).map fun a => (c * 64 + a.1, a.2)
    mx := cs.flatMap fun c => (List.range 4).flatMap fun u =>
      ((Core.mxUnit (State.core s c) u).queue.filter fun o => o.team == team).map fun o => (c * 4 + u, o)
    copies := cs.flatMap fun c => ((State.core s c).copy.filter fun e => e.2.team == team).map fun e => (c * 32 + e.1, e.2)
    eks := ((State.die s (t.core / 16)).ek.filter fun e => e.2.team == team).map fun e => (t.core / 16 * 32 + e.1, e.2)
    ops := (s.ops.filter fun e => mine e.2.band && OpKind.saveable e.2.kind && !e.2.accs.all Acc.over
      || (mine e.2.band && match e.2.kind with
        | .cbwait _ _ _ l => !l.isEmpty
        | _ => false)).map Prod.snd
    frags := cs.flatMap fun c => ((State.core s c).frags.filter fun e => mine e.2.band).map fun e => (c, e.1, e.2)
    sram := (savedRanges t g bs).map fun r => (r.1, readWindow s t.core t g r.1 r.2)
    marks := markedOffsets s t.core t g (savedRanges t g bs)
    full := full, dest := dest, base := 0, got := 0, seen := [] }

/-- Commands of a list in order of acceptance. -/
def bySeq {α : Type} (seq : α → Nat) : List α → List α
  | [] => []
  | x :: t =>
    let r := bySeq seq t
    r.takeWhile (fun y => seq y < seq x) ++ x :: r.dropWhile fun y => seq y < seq x

/-- The engine records of a save, in acceptance order for each engine. -/
def engineRecords (v : Saved) : List (List Byte) :=
  (bySeq (fun c : Nat × CopyCmd => c.2.seq) v.copies).map (fun c => copyRecord c.2)
    ++ (bySeq (fun c : Nat × EkCmd => c.2.seq) v.eks).map (fun c => ekRecordImage c.2) ++ v.mx.map (fun o => mxRecord o.2)
    ++ v.ops.filterMap tldRecord

/-- The sizes of a save's sections. -/
def savedSizes (g : Grid) (v : Saved) : Sizes :=
  { bands := v.bands.foldl (fun n b => n + bandBytes b.band) 0
    tiles := (coresOf v.team.pair v.team.core).length * g.hdr.tiles * 16400, toks := v.accs.length * 16400
    cmds := (engineRecords v).length * 256, frags := v.frags.length * 4128
    sram := v.sram.foldl (fun n r => n + 8 + r.2.length) 0 }

/-- The bytes of a save record, by offset: what is not saved is not written (R452). -/
def recordPieces (g : Grid) (v : Saved) : List Piece :=
  let t := v.team
  let z := Sizes.offsets (savedSizes g v)
  let o (i : Nat) : Nat := z.1.getD i 0
  let head := natLe 4 0x53463648 ++ natLe 2 1
    ++ natLe 2 ((if t.pair then 1 else 0) + (if t.pinned then 2 else 0) + if v.full then 4 else 0)
    ++ natLe 4 g.desc.gridid ++ natLe 4 t.num ++ natLe 1 t.core ++ natLe 1 v.bands.length ++ zeros 2
    ++ natLe 1 v.accs.length ++ zeros 1 ++ natLe 2 v.sram.length ++ natLe 4 t.lb ++ natLe 4 t.lbo
    ++ ((List.range 16).flatMap fun n => natLe 4 (barWord (Team.bar t n))) ++ ((List.range 6).flatMap fun i => natLe 8 (o i))
    ++ natLe 8 z.2 ++ natLe 2 v.frags.length ++ natLe 2 (engineRecords v).length ++ zeros 100
  let bands := (v.bands.foldl (fun (p : Nat × List Piece) b =>
    (p.1 + bandBytes b.band, p.2 ++ bandImage b.band (keptBand g b.band) p.1)) (o 0, [])).2
  let tiles := (List.range (coresOf t.pair t.core).length).flatMap fun p => (List.range g.hdr.tiles).flatMap fun n =>
    let x := Team.tile t (t.core + p) n
    let a := o 1 + (p * g.hdr.tiles + n) * 16400
    let kept := keepTile g v ((t.core + p) % 2 * 32 + n) x
    (a, tileHead kept x) :: if kept then [(a + 16, Memory.bytes x.bytes 0 16384)] else []
  let toks := inRow (o 2) (v.accs.map fun a =>
    natLe 4 (a.1 % 64) ++ natLe 4 (tokenCode a.2.token) ++ zeros 8 ++ Memory.bytes (accBytes a.2.elems) 0 16384)
  [(0, head)] ++ bands ++ tiles ++ toks ++ inRow (o 3) (engineRecords v)
    ++ inRow (o 4) (v.frags.map fun f => fragImage f.1 f.2.1 f.2.2)
    ++ inRow (o 5) (v.sram.map fun r => natLe 4 r.1 ++ natLe 4 r.2.length ++ r.2)

/-- What a restore takes from the record as it has read it: the registers and the words of bands and threads, tiles,
accumulators, barriers, SRAM ranges. Engine and fragment records are as they were written (log 32). -/
def readBack (g : Grid) (v : Saved) : Saved :=
  let m := v.seen
  let z := Sizes.offsets (savedSizes g v)
  let o (i : Nat) : Nat := z.1.getD i 0
  let bands := (v.bands.foldl (fun (p : Nat × List SavedBand) b =>
    (p.1 + bandBytes b.band, p.2 ++ [{ b with band := bandBack m (keptBand g b.band) p.1 b.band }])) (o 0, [])).2
  let tileAt (key : Nat) : Nat := o 1 + ((if v.team.pair then key / 32 else 0) * g.hdr.tiles + key % 32) * 16400
  let sram := (v.sram.foldl (fun (p : Nat × List (Nat × List Byte)) r =>
    (p.1 + 8 + r.2.length, p.2 ++ [(r.1, Memory.bytes m (p.1 + 8) r.2.length)])) (o 5, [])).2
  { v with
    bands := bands, sram := sram
    accs := (List.range v.accs.length).zip v.accs |>.map fun e =>
      (e.2.1, { e.2.2 with elems := tileWords (blockBack m (o 2 + e.1 * 16400)) })
    team := { v.team with
      bars := (List.range 16).map fun n => (n, barBack (readNat m (32 + 4 * n) 4))
      tiles := v.team.tiles.map fun e => (e.1,
        if decide (e.1 % 32 < g.hdr.tiles) && keepTile g v e.1 e.2 then
          { e.2 with bytes := blockBack m (tileAt e.1), shape := readWord m (tileAt e.1) }
        else e.2) } }

/-! ## The save pool (R451) -/

def Ctx.slotBytes (c : Ctx) : Nat := c.svsize.toNat % 2 ^ 24 * 2 ^ 16
def Ctx.poolAt (c : Ctx) (slot : Nat) : Nat := c.svbase.toNat / 2 ^ 16 % 2 ^ 27 * 2 ^ 16 + slot * Ctx.slotBytes c
/-- The lowest free slot of the pool. -/
def Ctx.freePoolSlot (c : Ctx) : Option Nat := (List.range (c.svbase.toNat / 2 ^ 48 % 2 ^ 8)).find? fun n => !c.slots.elem n

/-- A team may be chosen for a save: its record fits a slot, and a slot is free (R451). -/
def mayBeSaved (s : State) (team : Nat) : Bool :=
  match Table.find team s.teams with
  | none => false
  | some t =>
    match Table.find t.grid s.grids with
    | none => false
    | some g =>
      let c := State.ctx s g.ctx
      let v := savedOf s team 0 t g none
      let z := { savedSizes g v with sram := 8 + localExtent t g }
      !t.halted && t.save.isNone && (Ctx.freePoolSlot c).isSome && decide ((Sizes.offsets z).2 ≤ Ctx.slotBytes c)

/-- The pieces of a record cut into parts of single lines, by chip address. -/
def cutLine : Nat → Nat → List Byte → List Piece
  | 0, _, _ => []
  | k + 1, a, bs => if bs.isEmpty then [] else (a, bs.take (128 - a % 128)) :: cutLine k (a + (128 - a % 128)) (bs.drop (128 - a % 128))

def cutPieces (base : Nat) (ps : List Piece) : List Piece := ps.flatMap fun p => cutLine (p.2.length / 128 + 2) (base + p.1) p.2

/-- Write them through a die's L2 (R451): how many are written, and the state. A line that faults is left out. -/
def writePieces (die : Nat) : List Piece → Nat → State → Nat × Bool × State
  | [], n, s => (n, true, s)
  | p :: ps, n, s =>
    match writeMem die s p.1 p.2 with
    | (.busy, s1) => (n, false, s1)
    | (_, s1) => writePieces die ps (n + 1) s1

/-- Read them through a die's L2 (R451): how many are read, whether all are, their bytes by offset, and the state. DESIGN CHOICE
(log 32): what is poisoned or faults stands as it was written. -/
def readPieces (die base : Nat) : List Piece → Nat → Table Byte → State → Nat × Bool × Table Byte × State
  | [], n, m, s => (n, true, m, s)
  | p :: ps, n, m, s =>
    match readMem die s p.1 p.2.length with
    | (.busy, s1) => (n, false, m, s1)
    | (.ok bs, s1) => readPieces die base ps (n + 1) (Memory.store m (p.1 - base) bs) s1
    | (_, s1) => readPieces die base ps (n + 1) (Memory.store m (p.1 - base) p.2) s1

/-- A restore reads the record of a saved team, as far as its lines are there (R451): the team as read, once all of it is. -/
def readSaved (sv : Nat) (v : Saved) (g : Grid) (core : Nat) (s : State) : Option Saved × State :=
  match readPieces (core / 16) v.base ((cutPieces v.base (recordPieces g v)).drop v.got) v.got v.seen s with
  | (n, false, m, s1) => (none, { s1 with saved := Table.set sv { v with got := n, seen := m } s1.saved })
  | (_, true, m, s1) => (some (readBack g { v with seen := m }), s1)

/-! ## Freeing a team -/

/-- A core without a team's commands, locks, fragments, tokens, operations and posted commands. -/
def clearCore (team : Nat) (mine : Nat → Bool) (eks : List Nat) (c : Core) : Core :=
  let gone := ((c.copy.filter fun e => e.2.team == team).map Prod.fst) ++ eks.map fun n => 32 + n
  { c with
    copy := c.copy.filter fun e => e.2.team != team
    locks := c.locks.filter fun l => !gone.elem l.slot
    offers := c.offers.filter fun o => !mine o.band
    frags := c.frags.filter fun e => !mine e.2.band
    kept := c.kept.filter fun e => !mine e.2.band
    acc := c.acc.filter fun a => !Token.ofTeam a.2.token team
    mx := c.mx.map fun m => (m.1, { m.2 with queue := m.2.queue.filter fun o => o.team != team }) }

/-- A team leaves its cores with everything it holds (R450). -/
def removeTeam (team : Nat) (t : Team) (g : Grid) (s : State) : State :=
  let bs := State.bandsOf s team
  let mine (b : Nat) : Bool := bs.any fun e => e.1 == b
  let d := t.core / 16
  let eks := ((State.die s d).ek.filter fun e => e.2.team == team).map Prod.fst
  let watched := bs.flatMap fun e => e.2.lanes.flatMap fun l => (l.2.watch.toList ++ l.2.waita.filterMap fun w =>
    if w.polled then none else w.g).map fun a => (e.1 / 64, a)
  let s1 : State :=
    { s with bands := s.bands.filter (fun e => e.2.team != team), teams := Table.del team s.teams
             ops := s.ops.filter fun e => !mine e.2.band }
  let s2 := (coresOf t.pair t.core).foldl (fun s c => State.modCore s c (clearCore team mine eks)) s1
  let s3 := State.modDie s2 d fun x =>
    { x with ek := x.ek.filter (fun e => e.2.team != team), ekOffers := x.ekOffers.filter fun o => !mine o.band }
  let s4 := match t.save.bind SaveReq.pool with
    | some p => State.modCtx s3 g.ctx fun c => { c with slots := NatSet.del p.1 c.slots }
    | none => s3
  refreshPlan (watched.foldl (fun s w => freeMonitor w.1 w.2 s) (dropWindows t g s4))

/-- A saved team goes to the front of its queue's unplaced teams (R400): before them, not into the list of grids (firstSaved;
log 48). -/
def requeueSaved (gk sv : Nat) (s : State) : State :=
  match Table.find gk s.grids with
  | none => s
  | some g => kickQueue g.queue (State.modGrid s gk fun g => { g with saved := sv :: g.saved, running := g.running - 1 })

/-! ## Restoring (R455, R456, R170, R301) -/

/-- The core of the team as placed now that stands for a core of the team as saved. -/
def coreNow (v : Saved) (core old : Nat) : Nat := if v.team.pair then core + old % 2 else core

/-- Lane-registers of the saved bands. -/
def savedNeeds (v : Saved) : List Nat := v.bands.map fun b => b.band.width * b.band.vbud

/-- The saved team's windows are to be had at a core (R81, R455). -/
def windowsFit (s : State) (v : Saved) (g : Grid) (core : Nat) : Bool :=
  if v.team.pinned then
    core == v.team.core && (coresOf v.team.pair core).all fun c => runFree s c (windowOn c v.team g).1 g.hdr.scratch
  else true

/-- The locks of a saved copy command under the new allocation (R170). -/
def copyLocks (s : State) (core slot : Nat) (t : Team) (g : Grid) (c : CopyCmd) : List Lock :=
  let e := copyExtents s core t g c.desc c.src.toNat c.dst.toNat
  Extent.locks slot false e.1 ++ Extent.locks slot true e.2

/-- The locks of a saved Encke command (R308, R323). -/
def ekLocks (slot : Nat) (c : EkCmd) : List Lock :=
  match c.block, c.batch with
  | some k, some b => (batchExtents (c.kind == .update) k b).map fun e => ⟨2 ^ 47 + e.1, 2 ^ 47 + e.1 + e.2.1 - 1, e.2.2, 32 + slot⟩
  | _, _ => []

/-- The quarters of the saved bands, where everything of the team fits at `core` (R455). The entries of its fragments are not
those that a band parked with FRAG_FULL waits for (R446). -/
def restoreFits (s : State) (v : Saved) (g : Grid) (core : Nat) : Option (List (Nat × Nat)) :=
  let cs := coresOf v.team.pair core
  let here {α : Type} (f : α → Nat) (xs : List α) (c : Nat) : List α := xs.filter fun x => coreNow v core (f x) == c
  let engines := cs.all fun c =>
    let k := State.core s c
    let cps := here (fun e : Nat × CopyCmd => e.1 / 32) v.copies c
    let eks := here (fun e : Nat × EkCmd => e.2.core) v.eks c
    let locks := (cps.flatMap fun e => copyLocks s c 0 v.team g e.2) ++ eks.flatMap fun e => ekLocks 0 e.2
    decide (k.copy.length + cps.length ≤ 32) && lockRoom k locks.length
  let frags := cs.all fun c =>
    let k := State.core s c
    let fs := here (fun e : Nat × Nat × Frag => e.1) v.frags c
    decide (k.frags.length + k.kept.length + fs.length ≤ 128)
      && decide ((fs.foldl (fun n f => n + 1 + f.2.2.cont.toList.length) 0) ≤ (freeLogs k).length)
  let toks := v.accs.all fun a => (Core.accum (State.core s (coreNow v core (a.1 / 64))) (a.1 % 64)).token == .free
  let first := v.frags.isEmpty || cs.all fun c => (oldestFull s c).isNone
  if cs.all (fun c => decide (c < 64)) && cs.all (coreFits s g.hdr) && windowsFit s v g core && engines && frags && first && toks
      && decide ((State.die s (core / 16)).ek.length + v.eks.length ≤ 32) then
    assignBands (savedNeeds v) (poolsOf s cs) []
  else none

/-- Where a saved operation's access lies now. -/
def replaceAcc (core : Nat) (t : Team) (g : Grid) (a : Acc) : Acc :=
  match a.place with
  | .sram _ =>
    match windowOf a.addr with
    | some (w, x) =>
      match sramForm core t g w x with
      | some b => { a with place := .sram b }
      | none => a
    | none => a
  | _ => a

/-- Seat the saved bands, giving each its new key. -/
def seatSaved : List SavedBand → List (Nat × Nat) → List (Nat × Nat) → State → List (Nat × Nat) × State
  | b :: bs, (c, q) :: ps, m, s =>
    match slotsFree s c q with
    | n :: _ =>
      let k := c * 64 + q * 16 + n
      seatSaved bs ps (m ++ [(b.key, k)])
        { s with bands := Table.set k { b.band with seq := s.nextKey } s.bands, nextKey := s.nextKey + 1 }
    | [] => (m, s)
  | _, _, m, s => (m, s)

/-- The new key of a band. -/
def keyNow (m : List (Nat × Nat)) (k : Nat) : Nat := ((m.find? fun e => e.1 == k).map Prod.snd).getD k

/-- A saved copy command is accepted again (R170). -/
def restoreCopy (core : Nat) (v : Saved) (t : Team) (g : Grid) (m : List (Nat × Nat)) (s : State) (e : Nat × CopyCmd) : State :=
  let c := coreNow v core (e.1 / 32)
  match freeSlot (State.core s c) with
  | none => s
  | some n =>
    let s1 := State.modCore { s with nextKey := s.nextKey + 1 } c fun k =>
      { k with copy := Table.set n { e.2 with band := keyNow m e.2.band, seq := s.nextKey } k.copy
               locks := k.locks ++ copyLocks s c n t g e.2 }
    if e.2.parked then
      postNotice ⟨3, g.ctx, c, 1, g.desc.gridid, t.num, 0, 0,
        BitVec.ofNat 64 (e.1 % 32 + e.1 / 32 * 2 ^ 5 + n * 2 ^ 16 + c * 2 ^ 21), 0⟩ s1
    else s1

/-- A saved Encke command goes to the front of the receiving core's die (R323). -/
def restoreEk (core : Nat) (v : Saved) (t : Team) (g : Grid) (m : List (Nat × Nat)) (s : State) (e : Nat × EkCmd) : State :=
  let c := coreNow v core e.2.core
  let d := core / 16
  match freeEkSlot (State.die s d) with
  | none => s
  | some n =>
    let s1 := State.modDie { s with nextKey := s.nextKey + 1 } d fun x =>
      { x with ek := Table.set n { e.2 with band := keyNow m e.2.band, core := c, seq := s.nextKey } x.ek }
    let s2 := State.modCore s1 c fun k => { k with locks := k.locks ++ ekLocks n e.2 }
    if e.2.parked then
      postNotice ⟨3, g.ctx, c, 2, g.desc.gridid, t.num, 0, 0,
        BitVec.ofNat 64 (e.1 % 32 + e.2.core * 2 ^ 5 + n * 2 ^ 16 + c * 2 ^ 21), 0⟩ s2
    else s2

/-- A saved fragment takes the lowest free entry and log entries (R455). -/
def restoreFrag (core : Nat) (v : Saved) (t : Team) (g : Grid) (m : List (Nat × Nat)) (s : State) (e : Nat × Nat × Frag) : State :=
  let c := coreNow v core e.1
  match freeEntry (State.core s c) with
  | none => s
  | some n =>
    let ls := freeLogs (State.core s c)
    let f := { e.2.2 with
      band := keyNow m e.2.2.band, logNo := ls.getD 0 0, cont := e.2.2.cont.map fun _ => ls.getD 1 0 }
    let s1 := enterFrag c n f s
    let old := e.1 * 128 + e.2.1
    let new := c * 128 + n
    if f.state == .parked && old != new then
      postNotice ⟨2, g.ctx, c, 0, g.desc.gridid, t.num, 0, 0, BitVec.ofNat 64 (old + new * 2 ^ 16), 0⟩ s1
    else s1

/-- A lane waiting at WAITA arms again (R455, R147). -/
def rearmLane (t : Team) (g : Grid) (key l : Nat) (s : State) (w : Waita) : State :=
  let place := match windowOf w.addr with
    | some (x, f) => sramByte s (key / 64) t g x f
    | none => none
  let m := armMonitor (key / 64) place s
  let w1 := { w with g := place, polled := m.1, since := 0 }
  let s1 := State.modBand m.2 key fun b => Band.modLane b l fun y =>
    { y with waita := y.waita.map fun z => if z.op == w.op then w1 else z }
  if waitaValue s1 key w1 != w1.expect then releaseWaita key l w1 s1 else s1

/-- Restore a saved team at a core where it fits, with the quarters of its bands (R455, R456). -/
def restoreTeam (sv : Nat) (v : Saved) (g : Grid) (core : Nat) (where_ : List (Nat × Nat)) (s : State) : State :=
  let team := v.key
  let lb := if v.team.pinned then v.team.lb else (freeRun s core g.hdr.scratch).getD 0
  let lbo := if !v.team.pair then 0 else if v.team.pinned then v.team.lbo else (freeRun s (core + 1) g.hdr.scratch).getD 0
  let t : Team :=
    { v.team with
      core := core, lb := lb, lbo := lbo, save := none, placed := s.nextKey
      tiles := if v.team.pair then v.team.tiles else v.team.tiles.map fun e => (core % 2 * 32 + e.1 % 32, e.2) }
  let cs := coresOf t.pair core
  let s1 : State := { s with nextKey := s.nextKey + 1, teams := Table.set team t s.teams, saved := Table.del sv s.saved }
  let s2 := cs.foldl (fun s c => takeWindow c (windowOn c t g).1 g.hdr.scratch g.ctx g.desc.swz s) s1
  let s3 := v.sram.foldl (fun s r => writeRuns (windowRuns core t g r.1 r.2.length) r.2 s) s2
  let s3 : State := { s3 with sramPoison := (v.marks.flatMap (bankWords core t g)).foldl (fun p b => NatSet.add b p) s3.sramPoison }
  let p := seatSaved v.bands where_ [] s3
  let m := p.1
  let s4 := v.accs.foldl (fun s a => State.modAccum s (coreNow v core (a.1 / 64)) (a.1 % 64) fun _ => a.2) p.2
  let s5 := v.mx.foldl (fun s o => State.modMx s (coreNow v core (o.1 / 4)) (o.1 % 4) fun u =>
    { u with queue := u.queue ++ [{ o.2 with band := keyNow m o.2.band }] }) s4
  let s6 := (bySeq (fun c : Nat × CopyCmd => c.2.seq) v.copies).foldl (restoreCopy core v t g m) s5
  let s7 := (bySeq (fun c : Nat × EkCmd => c.2.seq) v.eks).foldl (restoreEk core v t g m) s6
  let s8 := v.frags.foldl (restoreFrag core v t g m) s7
  let s9 : State := { s8 with
    ops := v.ops.foldl (fun t' o => Table.set o.seq
      { o with band := keyNow m o.band, accs := o.accs.map (replaceAcc (keyNow m o.band / 64) t g), replay := none } t') s8.ops }
  let s10 := cs.foldl (fun s c => State.modCore s c fun k => { k with l1 := [] }) s9
  let s11 := (State.bandsOf s10 team).foldl (fun s e => e.2.lanes.foldl (fun s l =>
    l.2.waita.foldl (rearmLane t g e.1 l.1) s) s) s10
  refreshPlan (State.modGrid (State.modCtx s11 g.ctx fun c => { c with slots := NatSet.del v.slot c.slots }) v.grid fun g =>
    { g with saved := g.saved.filter (fun k => k != sv), running := g.running + 1 })

/-- Place a saved team at a core where it fits, once its record has been read (R451, R455). -/
def restoreAt (sv : Nat) (v : Saved) (g : Grid) (core : Nat) (where_ : List (Nat × Nat)) (s : State) : State :=
  match readSaved sv v g core s with
  | (some w, s1) => restoreTeam sv w g core where_ s1
  | (none, s1) => s1

/-- TEAM_RESTORE: a saved team is placed again at a core where all of it fits (R455). -/
def execTeamRestore (saved core : Nat) (s : State) : Host.Outcome State Fault Refusal :=
  if 64 ≤ core then .fault .noAgent
  else
    match Table.find saved s.saved with
    | none => .next s
    | some v =>
      match Table.find v.grid s.grids with
      | none => .next s
      | some g =>
        if v.team.pair && core % 2 == 1 then .next s
        else
          match restoreFits s v g core with
          | some ps => .next (restoreAt saved v g core ps s)
          | none => .next s

/-! ## The save (R450) -/

/-- The engines that a team's markers go to. -/
def markersOf (t : Team) : List Nat :=
  let cs := coresOf t.pair t.core
  cs ++ (cs.map fun c => 64 + c) ++ [128 + t.core / 16]

/-- Nothing of the team is under way but what a save keeps (R450). -/
def teamQuiet (s : State) (team : Nat) (t : Team) : Bool :=
  let bs := State.bandsOf s team
  let mine (b : Nat) : Bool := bs.any fun e => e.1 == b
  (s.ops.all fun e => !mine e.2.band || OpKind.saveable e.2.kind)
    && (bs.all fun e => e.2.lanes.all fun y => !y.2.sw)
    && (coresOf t.pair t.core).all fun c =>
      (State.core s c).frags.all (fun e => !mine e.2.band || e.2.state == .parked || e.2.state == .ready)
        && (State.core s c).kept.all fun e => !mine e.2.band

/-- The streams of a context are closed and its prefetch entries removed (R202, R188). -/
def leaveFabric (ctx : Nat) (s : State) : State :=
  (s.cores.map Prod.fst).foldl (fun s c =>
    let s1 := (((State.core s c).streams.filter fun x => x.2.ctx == ctx).map Prod.fst).foldl (fun s k => closeStream c k s) s
    if (State.core s1 c).prefetch.any fun p => p.2.2 == ctx then
      State.modCore s1 c fun k => { k with prefetch := k.prefetch.filter fun p => p.2.2 != ctx }
    else s1) s

/-- The context is switched out with its last team (R188, R202). -/
def leaveIfGone (ctx : Nat) (s : State) : State := if (teamsOfCtx s ctx).isEmpty then leaveFabric ctx s else s

/-- The record is written: free what the team holds, and put it at the front of the unplaced teams; one that migrates is
placed at its destination, where it fits (R450, R451, R400, R422; siteFor). -/
def moveOut (team slot : Nat) (t : Team) (g : Grid) (v : Saved) (s : State) : State :=
  let sv := s.nextKey
  let s2 := removeTeam team t g { s with nextKey := sv + 1, saved := Table.set sv v s.saved }
  let s3 := requeueSaved t.grid sv (State.modCtx s2 g.ctx fun c => { c with slots := NatSet.add slot c.slots })
  if v.dest.isSome then s3 else leaveIfGone g.ctx s3

/-- Write the record, as far as its lines are there, into the lowest free slot (R451). -/
def saveTeam (team : Nat) (t : Team) (r : SaveReq) (s : State) : State :=
  match Table.find t.grid s.grids with
  | none => s
  | some g =>
    let c := State.ctx s g.ctx
    match r.pool.or ((Ctx.freePoolSlot c).map fun n => (n, 0)) with
    | none => s
    | some (slot, n) =>
      let s := if r.pool.isSome then s else senseWindow t.core t g (savedRanges t g (bandsByNum s team)) s
      let v := { savedOf s team slot t g r.dest with base := Ctx.poolAt c slot }
      let s0 := State.modCtx s g.ctx fun c => { c with slots := NatSet.add slot c.slots }
      match writePieces (t.core / 16) ((cutPieces (Ctx.poolAt c slot) (recordPieces g v)).drop n) n s0 with
      | (k, false, s1) => State.modTeam s1 team fun t => { t with save := some { r with pool := some (slot, k) } }
      | (_, true, s1) => moveOut team slot t g v s1

/-- TEAM_SAVE: bands that have come to rest stop; the markers go out; once they are back and nothing is under way the
record is written (R448, R450). -/
def execTeamSave (team : Nat) (s : State) : Host.Outcome State Fault Refusal :=
  match Table.find team s.teams with
  | none => .next s
  | some t =>
    match t.save with
    | none => .next s
    | some r =>
      let s0 := stopIdle team s
      if !((State.bandsOf s0 team).all fun e => e.2.stopped) then .next s0
      else
        match r.marks with
        | none => .next (State.modTeam s0 team fun t => { t with save := some { r with marks := some (markersOf t) } })
        | some [] =>
          if teamQuiet s0 team t then
            .next (saveTeam team t r s0)
          else .next s0
        | some _ => .next s0

end Sys2Proof.Machine
end

