-- ==== Sys2Proof/Machine/Teams.lean ====
section
/-!
DEFINITION. The dispatcher, and how bands, teams and grids end (spec/17_scheduling_tokens_power.md R396 to R400;
spec/15_control_flow.md R359; spec/16_barriers_tasks_grids.md R386, R391, R392; spec/12_tiles_and_matrix.md R293;
spec/18_traps_fragments_preemption.md R432, R450).
-/
namespace Sys2Proof.Machine

/-! ## The end of a band and of its team (R359, R293) -/

/-- Every access, command, fragment and posted command of the band is over (R359). -/
def bandDone (s : State) (key : Nat) (b : Band) : Bool :=
  let c := State.core s (key / 64)
  let d := State.die s (key / 1024)
  (List.range b.width).all (fun l => (Band.lane b l).run == .exited && !(Band.lane b l).sw) && b.dc.all (fun e => e.2 == 0)
    && s.ops.all (fun e => e.2.band != key) && c.copy.all (fun e => e.2.band != key) && c.offers.all (fun o => o.band != key)
    && d.ek.all (fun e => e.2.band != key) && d.ekOffers.all (fun o => o.band != key)
    && c.frags.all (fun e => e.2.band != key) && b.overflow.isNone && b.more.isEmpty

/-- The tokens of a team that ends: a lent one with its operation still queued waits for it (R293). -/
def freeTokens (team : Nat) (core : Nat) (s : State) : State :=
  ((State.core s core).acc.filter fun a => Token.ofTeam a.2.token team).foldl (fun s a =>
    match a.2.token with
    | .lent _ _ _ => if (mxOpOf s core a.1).isSome then s else freeAcc core a.1 s
    | _ => freeAcc core a.1 s) s

/-- A team counts as ended for its grid (R392, R397). -/
def countEnded (gk : Nat) (s : State) : State :=
  match Table.find gk s.grids with
  | none => s
  | some g => kickQueue g.queue (State.modGrid s gk fun g => { g with running := g.running - 1, ended := g.ended + 1 })

/-- The last band of a team has ended. -/
def endTeam (team : Nat) (t : Team) (g : Grid) (s : State) : State :=
  let s1 := (coresOf t.pair t.core).foldl (fun s c => freeTokens team c s) s
  countEnded t.grid (dropWindows t g { s1 with teams := Table.del team s1.teams })

/-- A band ends: its slot and registers are free (R359, R414). -/
def endBand (key : Nat) (b : Band) (s : State) : State :=
  let s1 := freeKept key { s with bands := Table.del key s.bands }
  let s2 := refreshPlan (State.modTeam s1 b.team fun t => { t with ended := t.ended + 1 })
  match Table.find b.team s2.teams with
  | none => s2
  | some t =>
    match Table.find t.grid s2.grids with
    | none => s2
    | some g => if t.ended = g.hdr.nbands then endTeam b.team t g s2 else s2

/-! ## The end of a halted team (R432) -/

/-- The first parked command of a team, aborted by firmware through CERESc or EKRESd. -/
def abortParked (team : Nat) (t : Team) (s : State) : Option State :=
  let c := (coresOf t.pair t.core).findSome? fun c =>
    ((State.core s c).copy.find? fun e => e.2.team == team && e.2.parked).map fun e => (c, e.1)
  match c with
  | some (c, n) => some (took s (execCeresAbort c n s))
  | none =>
    ((State.die s (t.core / 16)).ek.find? fun e => e.2.team == team && e.2.parked).map fun e =>
      took s (execEkresAbort (t.core / 16) e.1 s)

/-- A command, operation or access of the team still goes on. -/
def teamWorks (s : State) (team : Nat) (t : Team) : Bool :=
  let bs := State.bandsOf s team
  let mine (b : Nat) : Bool := bs.any fun e => e.1 == b
  s.ops.any (fun e => mine e.2.band && !OpKind.saveable e.2.kind)
    || (State.die s (t.core / 16)).ek.any (fun e => e.2.team == team)
    || (coresOf t.pair t.core).any fun c =>
      (State.core s c).copy.any (fun e => e.2.team == team)
        || (State.core s c).mx.any fun m => (match m.2.exec with
          | some o => o.team == team
          | none => false) || m.2.queue.any fun o => o.team == team

/-- Firmware ends a halted team: it aborts parked commands, waits for those that execute, discards the fragments (R432). -/
def endHalted (team : Nat) (t : Team) (g : Grid) (s : State) : State :=
  let s0 := State.modTeam s team fun t => { t with save := none }
  match abortParked team t s0 with
  | some s1 => s1
  | none =>
    if teamWorks s0 team t then s0
    else
      countEnded t.grid (State.modGrid (removeTeam team t g s0) t.grid fun g => { g with code := if g.code = 4 then 4 else 3 })

/-- BAND_END (R359); for a band of a halted team, what firmware does to end the team (R432). -/
def execBandEnd (band : Nat) (s : State) : Host.Outcome State Fault Refusal :=
  match State.home s band with
  | none => .next s
  | some (b, t, g) =>
    if t.halted then .next (endHalted b.team t g s)
    else if bandDone s band b then .next (endBand band b s)
    else .next s

/-! ## Grids complete (R392, R386, R427) -/

/-- Remove a grid's tasks from every deque: how many, and the state (R386). -/
def dropTasks (g : Grid) (s : State) : Nat × State :=
  let ofGrid (t : Task) : Bool := t.gridid == g.desc.gridid && t.ctx == g.ctx
  (s.cores.foldl (fun n c => n + (c.2.deque.filter ofGrid).length) 0,
    s.cores.foldl (fun s c => if c.2.deque.any ofGrid then setDeque c.1 (c.2.deque.filter fun t => !ofGrid t) s else s) s)

/-- The grids that wait for this one have their dependency met, and their queues are kicked (R391, R397). -/
def kickDependents (g : Grid) (s : State) : State :=
  s.grids.foldl (fun s e =>
    if e.2.ctx == g.ctx && e.2.desc.depk == 1 && e.2.desc.depgrid == g.desc.gridid then
      kickQueue e.2.queue (State.modGrid s e.1 fun x => { x with met := true })
    else s) s

/-- The regeneration whose grid this was learns how it ended (R111). -/
def noteRegen (g : Grid) (r : Regen) : Regen :=
  if g.regen == some r.page && g.desc.gridid == r.gridid then { r with ended := some (g.code == 1 && !g.trapped) } else r

/-- The grid completes, once its completion record can be written (R392). -/
def completeGrid (k : Nat) (g : Grid) (s : State) : State :=
  let d := dropTasks g s
  let c : Completion := ⟨g.desc.gridid, g.code, 0, g.ndrop + d.1⟩
  match writeStat g.ctx g.desc.stat c s with
  | .busy s1 => s1
  | .done s1 =>
    let s2 := answerWaits g.ctx g.desc.gridid 0 (.record c) (noteCompletion g.ctx c (journal (.notified g.ctx g.desc.gridid) (dropTasks g s1).2))
    let s3 := State.modFw s2 fun f => { f with regens := f.regens.map (noteRegen g) }
    let s4 : State := State.modHub { s3 with grids := Table.del k s3.grids } fun h =>
      { h with queues := h.queues.map (fun q => (q.1, q.2.filter fun x => x != k)), heldRecs := h.heldRecs.filter fun x => x != k }
    kickDependents g s4

/-- GRID_COMPLETE: a grid all of whose teams have ended completes; under HOLD its record is held, and held records are
released in their order (R392, R427). -/
def execGridComplete (grid : Nat) (s : State) : Host.Outcome State Fault Refusal :=
  match Table.find grid s.grids with
  | none => .next s
  | some g =>
    if g.ended ≠ g.desc.nteam then .next s
    else if Hub.onHold s.hub then
      if g.held || 256 ≤ s.hub.heldRecs.length then .next s
      else .next (State.modGrid (State.modHub s fun h => { h with heldRecs := h.heldRecs ++ [grid] }) grid fun g => { g with held := true })
    else
      match s.hub.heldRecs with
      | h :: _ => if h = grid then .next (completeGrid grid g s) else .next s
      | [] => .next (completeGrid grid g s)

/-! ## Choosing a team (R391, R398) -/

/-- What reading a team's bits comes to. -/
inductive Bits where
  | set
  /-- A bit is not set, or cannot be read. -/
  | unset
  /-- A line of the bitmap is on its way. -/
  | busy
  deriving DecidableEq, Repr

/-- The bits `[i, i + n)` of a bitmap, read as the hub's requester (R391, R393); an unreadable bit counts as not set. -/
def bitsSet (ctx base : Nat) : Nat → Nat → State → Bits × State
  | 0, _, s => (.set, s)
  | n + 1, i, s =>
    match readSpan ctx permRd (bitmapDword base i) 8 s with
    | (.ok bs, s1) => if (leNat bs).testBit (i % 64) then bitsSet ctx base n (i + 1) s1 else (.unset, s1)
    | (.bad, s1) => (.unset, s1)
    | (.busy, s1) => (.busy, s1)

/-- The team may be placed as far as its bitmap goes. -/
def teamReady (g : Grid) (n : Nat) (s : State) : Bits × State :=
  if g.desc.depk = 2 then bitsSet g.ctx g.desc.bmap g.desc.bcnt (g.desc.bfirst + n * g.desc.bper) s else (.set, s)

/-- A team still to be placed: a saved one, or a number never placed. -/
inductive Unplaced where
  | saved (sv : Nat)
  | fresh (n : Nat)
  deriving DecidableEq, Repr

/-- What an examination of a grid or a queue gives. -/
inductive Offered (α : Type) where
  | found (x : α)
  | nothing
  /-- A line of a bitmap is on its way: it is examined again. -/
  | busy
  deriving DecidableEq, Repr

/-- The lowest of `k` team numbers from `n` up that has not been placed and whose bitmap is met. -/
def firstReady (g : Grid) : Nat → Nat → State → Offered Nat × State
  | 0, _, s => (.nothing, s)
  | k + 1, n, s =>
    if g.ahead.elem n then firstReady g k (n + 1) s
    else
      match teamReady g n s with
      | (.set, s1) => (.found n, s1)
      | (.unset, s1) => firstReady g k (n + 1) s1
      | (.busy, s1) => (.busy, s1)

/-- The next team of a grid, of those never placed. -/
def nextTeam (g : Grid) (s : State) : Offered Unplaced × State :=
  match firstReady g (g.desc.nteam - g.next) g.next s with
  | (.found n, s1) => (.found (.fresh n), s1)
  | (.nothing, s1) => (.nothing, s1)
  | (.busy, s1) => (.busy, s1)

/-- Teams of the grid have never been placed. -/
def Grid.unplaced (g : Grid) : Bool := decide (g.next < g.desc.nteam)

/-- The saved team that stands first in queue `q`, with its grid: the one saved last, of a context that runs. DESIGN CHOICE
(log 48): the order among several. -/
def firstSaved (s : State) (q : Nat) : Option (Nat × Grid × Nat) :=
  s.grids.foldl (fun m e =>
    match e.2.saved with
    | [] => m
    | sv :: _ =>
      if e.2.queue != q || (State.ctx s e.2.ctx).stopped then m
      else
        match m with
        | none => some (e.1, e.2, sv)
        | some (_, _, w) => if w < sv then some (e.1, e.2, sv) else m) none

/-- The grid whose teams queue `q` places (R398, R391): the earliest with teams never placed and its dependency met, of no
stopped context. -/
def gridOf (s : State) (q : Nat) : Option (Nat × Grid) :=
  (Table.get [] q s.hub.queues).findSome? fun k =>
    match Table.find k s.grids with
    | none => none
    | some g => if Grid.unplaced g && g.met && !(State.ctx s g.ctx).stopped then some (k, g) else none

/-- The quarters for a team at a site, where it fits. -/
def fitsAt (s : State) (g : Grid) (u : Unplaced) (core : Nat) : Option (List (Nat × Nat)) :=
  match u with
  | .fresh _ => placeBands s g core
  | .saved sv =>
    match Table.find sv s.saved with
    | some v => restoreFits s v g core
    | none => none

/-- The core that a team migrates to. -/
def destOf (s : State) (u : Unplaced) : Option Nat :=
  match u with
  | .fresh _ => none
  | .saved sv => (Table.find sv s.saved).bind Saved.dest

/-- The site of R398 for a team; a team that migrates goes to its destination, where it fits (R422). -/
def siteFor (s : State) (g : Grid) (u : Unplaced) : Option Nat :=
  match (destOf s u).filter fun c => (fitsAt s g u c).isSome with
  | some c => some c
  | none => chooseSite s g ((sitesOf g).filter fun c => (fitsAt s g u c).isSome)

/-- Team numbers placed for the first time: the lowest unplaced, and those ahead of it. -/
def notePlaced (n : Nat) (g : Grid) : Grid :=
  let a := NatSet.add n g.ahead
  let k := ((List.range (a.length + 1)).find? fun i => !a.elem (g.next + i)).getD 0
  { g with next := g.next + k, ahead := a.filter fun x => decide (g.next + k ≤ x) }

/-- A grid all of whose teams have been placed leaves its queue's list. -/
def leaveQueue (gk : Nat) (s : State) : State :=
  match Table.find gk s.grids with
  | none => s
  | some g =>
    if Grid.unplaced g then s
    else State.modHub s fun h => { h with queues := Table.alter g.queue (fun q => q.filter fun x => x != gk) h.queues }

/-- Place a team at a site; a saved one's record is read first. -/
def placeAt (gk : Nat) (g : Grid) (u : Unplaced) (core : Nat) (s : State) : State :=
  match u, fitsAt s g u core with
  | .fresh n, some ps => leaveQueue gk (State.modGrid (seatTeam gk g n core ps s) gk (notePlaced n))
  | .saved sv, some ps =>
    match Table.find sv s.saved with
    | some v => restoreAt sv v g core ps s
    | none => s
  | _, none => s

/-- What a queue offers: its team, the site, and the state its bitmap reads leave. -/
def lookQueue (q : Nat) (s : State) : Offered (Nat × Grid × Unplaced × Option Nat) × State :=
  match firstSaved s q, gridOf s q with
  | some (k, g, sv), _ => (.found (k, g, .saved sv, siteFor s g (.saved sv)), s)
  | none, none => (.nothing, s)
  | none, some (k, g) =>
    match nextTeam g s with
    | (.nothing, s1) => (.nothing, s1)
    | (.busy, s1) => (.busy, s1)
    | (.found u, s1) => (.found (k, g, u, siteFor s1 g u), s1)

/-- The first of some queues with a team that fits (R399). -/
def placeLower : List Nat → State → State
  | [], s => s
  | q :: qs, s =>
    match lookQueue q s with
    | (.found (k, g, u, some core), s1) => placeAt k g u core s1
    | (_, s1) => placeLower qs s1

/-! ## Pre-emption (R400) -/

/-- The teams of a site that a team of queue `q` may remove, in the order of R400. -/
def victimOrder (s : State) (q : Nat) (cores : List Nat) : List (Nat × Team × Grid) :=
  let all := (cores.flatMap (teamsOn s)).foldl (fun l e => if l.any (fun x => x.1 == e.1) then l else l ++ [e]) []
  let low := all.filter fun e => decide (q < e.2.2.queue) && mayBeSaved s e.1
  low.foldl (fun l e => l.takeWhile (fun x => decide (e.2.2.queue < x.2.2.queue)
    || (x.2.2.queue == e.2.2.queue && decide (e.2.1.placed < x.2.1.placed))) ++ e
      :: l.dropWhile fun x => decide (e.2.2.queue < x.2.2.queue)
        || (x.2.2.queue == e.2.2.queue && decide (e.2.1.placed < x.2.1.placed))) []

/-- The fewest removals, in that order, after which the team fits. -/
def removalsAt (g : Grid) (u : Unplaced) (core : Nat) : List (Nat × Team × Grid) → State → List Nat → Option (List Nat)
  | vs, s, out =>
    if (fitsAt s g u core).isSome then some out
    else
      match vs with
      | [] => none
      | v :: t => removalsAt g u core t (removeTeam v.1 v.2.1 v.2.2 s) (out ++ [v.1])

/-- The state without the teams that are already being saved. -/
def withoutSaves (s : State) : State :=
  s.teams.foldl (fun s e =>
    if e.2.save.isSome then
      match Table.find e.2.grid s.grids with
      | some g => removeTeam e.1 e.2 g s
      | none => s
    else s) s

/-- Request the saves that make room for a waiting team at the site that needs the fewest. -/
def preemptFor (q : Nat) (g : Grid) (u : Unplaced) (s : State) : State :=
  let w := withoutSaves s
  let best := (sitesOf g).foldl (fun m c =>
    match removalsAt g u c (victimOrder w q (coresOf (Header.pair g.hdr) c)) w [] with
    | none => m
    | some vs =>
      match m with
      | none => some vs
      | some us => if vs.length < us.length then some vs else m) none
  (best.getD []).foldl (fun s v => requestSave v none s) s

/-! ## The dispatcher's steps (R397) -/

/-- The lowest set bit of KICK. -/
def Hub.kicked (h : Hub) : Option Nat := (List.range 8).find? fun q => h.kick.getLsbD q

def clearKick (q : Nat) (s : State) : State :=
  State.modHub s fun h => { h with kick := h.kick &&& ~~~(BitVec.ofNat 8 (2 ^ q)) }

/-- TEAM_PLACE: one examination of a queue by the dispatcher (R397 to R400). -/
def execTeamPlace (s : State) : Host.Outcome State Fault Refusal :=
  match Hub.kicked s.hub with
  | none => .next s
  | some q =>
    match lookQueue q s with
    | (.nothing, s1) => .next (clearKick q s1)
    | (.busy, s1) => .next s1
    | (.found (k, g, u, some core), s1) => .next (placeAt k g u core s1)
    | (.found (_, g, u, none), s1) =>
      .next (placeLower ((List.range 8).filter fun p => decide (q < p)) (preemptFor q g u (clearKick q s1)))

/-- KICK_WRITE: PEND is set by writing 1 (R397). -/
def execKickWrite (value : Word) (s : State) : Host.Outcome State Fault Refusal :=
  .next (State.modHub s fun h => { h with kick := h.kick ||| value.setWidth 8 })

/-- KICK_DEPK2_TIMER: every 4,096 hub cycles the queues that hold a DEPK 2 grid are kicked (R397). -/
def execKickDepk2Timer (s : State) : Host.Outcome State Fault Refusal :=
  if s.hub.k % 4096 ≠ 0 then .next s
  else
    .next ((List.range 8).foldl (fun s q =>
      if (Table.get [] q s.hub.queues).any fun k => match Table.find k s.grids with
        | some g => g.desc.depk == 2
        | none => false then kickQueue q s
      else s) s)

/-! ## Context switches (R450, R202, R188) -/

/-- CONTEXT_SWITCH: a save of every team of the context is requested, as far as its pool has room (R450, R451). -/
def execContextSwitch (ctx : Nat) (s : State) : Host.Outcome State Fault Refusal :=
  .next ((teamsOfCtx s ctx).foldl (fun s t => if mayBeSaved s t then requestSave t none s else s) (leaveFabric ctx s))

end Sys2Proof.Machine
end

