-- ==== Sys2Proof/Machine/Ballast.lean ====
section
/-!
DEFINITION. Ballast: what the excess of the package bucket is spent on (spec/17_scheduling_tokens_power.md R411, R412;
spec/05_memory_tiers_and_coherence.md R120; spec/06_distributed_sram.md R142; spec/08_loads_stores_atomics.md R188;
spec/24_program_metered_gemm.md R487).
-/
namespace Sys2Proof.Machine

/-- Ballast is paid from the excess alone: the die buckets and the count of work stay as they were (R411). -/
def unpaid (s t : State) : State :=
  State.modHub { t with dies := t.dies.map fun d => (d.1, { d.2 with tokens := (State.die s d.1).tokens }) } fun h =>
    { h with w := s.hub.w }

/-! ## Kind 1: prefetch (R188, R487) -/

/-- What a ballast request of a line comes to. -/
inductive BallastLine where
  /-- Served: the line is there, or it faults or meets poison and nothing is reported (R105, R119). -/
  | done (s : State)
  /-- Something else goes on with the line: the request waits (R125, R412). -/
  | later
  deriving DecidableEq, Repr

/-- Put a line into a die's L2, where its set has room, with its directory entry. -/
def putShared (home die line : Nat) (st : LineState) (bytes : List Byte) (e : Dir) (s : State) : BallastLine :=
  match roomInL2 die line s with
  | none => .later
  | some s1 => .done (setDir home line e (State.modDie s1 die fun d => { d with l2 := Table.set line ⟨st, bytes, 0⟩ d.l2 }))

/-- The whole RdS transaction of a line of which nothing is under way, at once (R125). -/
def takeShared (die line : Nat) (unit off : Nat) (s : State) : BallastLine :=
  let home := unitDie unit
  let mem := unitKey unit (off / 128 * 128)
  let e := Die.entry (State.die s home) line
  let others := e.sharers.filter fun d => d != die
  if !roomInFilter home die line s then .later
  else
    match e.owner with
    | some w =>
      match Table.find line (State.die s w).l2 with
      | none => .later
      | some l =>
        if l.poison ≠ 0 then .done s
        else
          let s1 := State.modDie s w fun d => { d with l2 := Table.set line { l with st := if l.st == .e then .s else .o } d.l2 }
          putShared home die line .s l.bytes (if l.st == .e then ⟨none, NatSet.add w (NatSet.add die others), none, s.nextKey, mem⟩
            else ⟨some w, NatSet.add die others, none, s.nextKey, mem⟩) s1
    | none =>
      let r := readLineAt mem .clean s
      if r.1.2 ≠ 0 then .done r.2
      else if others.isEmpty then putShared home die line .e r.1.1 ⟨some die, [], none, s.nextKey, mem⟩ r.2
      else putShared home die line .s r.1.1 ⟨none, NatSet.add die others, none, s.nextKey, mem⟩ r.2

/-- Fetch a line into a die's L2 (R99, R122). -/
def fetchBallast (die line : Nat) (s : State) : BallastLine :=
  let c := line * 128
  match xlateLook s die c .read with
  | .fault _ _ => .done s
  | _ =>
    let usable : Bool := match entryOf s c with
      | .present _ _ _ | .zero _ _ => true
      | _ => false
    if !usable || !lineIdle s line then .later
    else
      match xlate die c .read s with
      | (.ok u o, s1) => takeShared die line u o s1
      | _ => .later

/-- Request a line for a die (R487): it is served at once, or once what goes on with the line is over. -/
def askBallast (die line : Nat) (s : State) : State :=
  let s1 := State.modDie s die fun d => { d with asked := NatSet.add line d.asked }
  match fetchBallast die line s1 with
  | .done s2 => s2
  | .later => State.modDie s1 die fun d => { d with asking := NatSet.add line d.asking }

/-- The requests of a die that waited are served, where they now can be. -/
def serveBallast (s : State) (die : Nat) : State :=
  (State.die s die).asking.foldl (fun s line =>
    let served (s : State) : State := State.modDie s die fun d => { d with asking := NatSet.del line d.asking }
    if (Table.find line (State.die s die).l2).isSome then served s
    else
      match fetchBallast die line s with
      | .done s1 => served s1
      | .later => s) s

/-- A scanned line is skipped: the die holds it, or it has been requested for the die. -/
def skipsLine (s : State) (die line : Nat) : Bool :=
  (Table.find line (State.die s die).l2).isSome || (State.die s die).asked.elem line

/-- Scan the lines of one prefetch entry: where it stands, bytes left, lines paid for so far. -/
def ballastEntry (core cap : Nat) : Nat → Nat → Nat → Nat → State → Nat × Nat × Nat × State
  | 0, p, n, used, s => (p, n, used, s)
  | k + 1, p, n, used, s =>
    if n = 0 then (p, 0, used, s)
    else
      let step := Nat.min n (128 - p % 128)
      if skipsLine s (core / 16) (p / 128) then ballastEntry core cap k (p + step) (n - step) used s
      else if cap ≤ used then (p, n, used, s)
      else ballastEntry core cap k (p + step) (n - step) (used + 1) (askBallast (core / 16) (p / 128) s)

/-- The entries of a core's list, oldest first; one whose last line has been fetched goes. -/
def ballastList (core cap : Nat) : List (Nat × Nat × Nat) → Nat → State → List (Nat × Nat × Nat) × Nat × State
  | [], used, s => ([], used, s)
  | (p, n, c) :: t, used, s =>
    let r := ballastEntry core cap (n / 128 + 2) p n used s
    let q := ballastList core cap t r.2.2.1 r.2.2.2
    (if r.2.1 = 0 then q.1 else (r.1, r.2.1, c) :: q.1, q.2.1, q.2.2)

/-- A line of a die's prefetch lists. -/
def registered (s : State) (die line : Nat) : Bool :=
  s.cores.any fun c => c.1 / 16 == die && c.2.prefetch.any fun e => decide (e.1 / 128 ≤ line) && decide (line * 128 < e.1 + e.2.1)

/-- DESIGN CHOICE (log 53): that a line has been requested is forgotten once no entry of the die's lists holds it. -/
def forgetAsked (s : State) : State :=
  { s with dies := s.dies.map fun d => (d.1, if d.2.asked.isEmpty then d.2
    else { d.2 with asked := d.2.asked.filter (registered s d.1) }) }

/-- Kind 1: at most 24 lines in the package, 3,000 tokens each. -/
def ballastFetch (p : Nat × State) : Nat × State :=
  let cap := Nat.min 24 (p.1 / 3000)
  let r := (p.2.cores.filter fun c => !c.2.prefetch.isEmpty).foldl (fun (q : Nat × State) c =>
    let r := ballastList c.1 cap c.2.prefetch q.1 q.2
    (r.2.1, State.modCore r.2.2 c.1 fun k => { k with prefetch := r.1 })) (0, (List.range 4).foldl serveBallast p.2)
  (p.1 - 3000 * r.1, unpaid p.2 (forgetAsked r.2))

/-! ## Kind 2: scrubbing (R120, R142) -/

/-- A die holds the line in M or O, or such a line until its PutAck. -/
def heldDirty (s : State) (line : Nat) : Bool :=
  (List.range 4).any fun d =>
    let dirty (t : Table Line) : Bool := match Table.find line t with
      | some l => l.st == .m || l.st == .o
      | none => false
    dirty (State.die s d).l2 || dirty (State.die s d).evict

/-- The directory entry of the line at a place of a unit, with its line. -/
def entryAt (s : State) (unit mem : Nat) : Option (Nat × Dir) := (State.die s (unitDie unit)).dir.find? fun e => e.2.mem == mem

/-- Read the next line of a unit, unless a transaction of it is open: errors count, and corrected data is written back unless a
die holds the line in M or O (R120, R118). -/
def scrubLine (unit : Nat) (s : State) : Option State :=
  let u := State.unit s unit
  let mem := unitKey unit (u.scrub * 128)
  let e := entryAt s unit mem
  if u.frames = 0 || e.any fun x => x.2.txn.isSome then none
  else
    let s1 := senseDram mem 128 (countUe unit (marksIn (unitPoison s unit (u.scrub * 128))) s)
    let s2 : State := if e.any fun x => heldDirty s x.1 then s1
      else { s1 with dramFlips := s1.dramFlips.filter fun f => decide (f.1 < mem) || decide (mem + 128 ≤ f.1) }
    some (State.modUnit s2 unit fun u => { u with scrub := (u.scrub + 1) % (u.frames * 512) })

/-- Read the next bank word of a slice, and write it back corrected in the same bank cycle (R142). -/
def scrubWord (core : Nat) (s : State) : State :=
  let g := core * 2 ^ 26 + 16 * (State.core s core).scrub
  let s1 := senseSram g 16 s
  State.modCore { s1 with sramFlips := s1.sramFlips.filter fun f => decide (f.1 + 16 ≤ g) || decide (g + 16 ≤ f.1) } core fun k =>
    { k with scrub := (k.scrub + 1) % 2 ^ 22 }

/-- Kind 2: one line per controller in every 16th hub cycle, 2,500 tokens each; one bank word per slice, 40 tokens each. -/
def ballastScrub (k : Nat) (p : Nat × State) : Nat × State :=
  let lines := if k % 16 ≠ 0 then p
    else (List.range 24).foldl (fun (q : Nat × State) m =>
      if q.1 < 2500 then q
      else match scrubLine m q.2 with
        | some t => (q.1 - 2500, t)
        | none => q) p
  (List.range 64).foldl (fun (q : Nat × State) c => if q.1 < 40 then q else (q.1 - 40, scrubWord c q.2)) lines

/-! ## Kind 3: self-tests of the matrix units (R412) -/

/-- The unit-clocks of a core that end in hub cycle `k` (R17; log 53). -/
def unitClocks (s : State) (core k : Nat) : Nat :=
  k * coreMhz s (core / 16) / 1000 - (k - 1) * coreMhz s (core / 16) / 1000

/-- The unit has nothing queued or executing, and has not failed a test. -/
def mayTest (s : State) (core unit : Nat) : Bool :=
  let c := State.core s core
  (Core.mxUnit c unit).exec.isNone && (Core.mxUnit c unit).queue.isEmpty && !c.balfail.getLsbD unit

/-- Kind 3: 2,000 tokens per unit-clock of each idle unit; a unit whose answer is wrong sets its bit. -/
def ballastTest (k : Nat) (fails : List (Nat × Nat)) (p : Nat × State) : Nat × State :=
  (List.range 256).foldl (fun (q : Nat × State) i =>
    let n := Nat.min (unitClocks q.2 (i / 4) k) (q.1 / 2000)
    if n = 0 || !mayTest q.2 (i / 4) (i % 4) then q
    else (q.1 - 2000 * n, if fails.elem (i / 4, i % 4) then
        State.modCore q.2 (i / 4) fun c => { c with balfail := c.balfail ||| BitVec.ofNat 32 (2 ^ (i % 4)) }
      else q.2)) p

/-- The excess of hub cycle `k`, spent in the order of R411 on the kinds that BEN enables; the filler takes the rest. -/
def spendExcess (excess k : Nat) (fails : List (Nat × Nat)) (s : State) : State :=
  let on (i : Nat) (f : Nat × State → Nat × State) (p : Nat × State) : Nat × State :=
    if s.hub.pwrgov.getLsbD (40 + i) then f p else p
  (on 2 (ballastTest k fails) (on 1 (ballastScrub k) (on 0 ballastFetch (excess, s)))).2

end Sys2Proof.Machine
end

