-- ==== Sys2Proof/Machine/Power.lean ====
section
/-!
DEFINITION. Core cycles and hub cycles: buckets, the ramp governor, charge, heat, power intents between devices
(spec/17_scheduling_tokens_power.md R403, R407 to R412, R416 to R424; spec/24_program_metered_gemm.md R485 to R487).
-/
namespace Sys2Proof.Machine

/-! ## A core cycle of a die (R403, R407) -/

def dieDepth : Nat := 16777216
def coreDepth : Nat := 4194304
def packageDepth : Nat := 33554432

/-- RFL of a core (R408). -/
def Core.refill (c : Core) : Nat := Nat.min (c.corerfl.toNat % 2 ^ 23) coreDepth

/-- Refill one core from its die's bucket; what it lacks counts for the governor (R407, R409). -/
def refillCore (d : Nat) (s : State) (c : Nat) : State :=
  let k := State.core s c
  let want := Nat.min (Core.refill k) (coreDepth - k.bucket)
  let got := Nat.min want (State.die s d).tokens.toNat
  let s1 := if got = 0 then s
    else State.modDie (State.modCore s c fun x => { x with bucket := x.bucket + got }) d fun x => { x with tokens := x.tokens - got }
  if want = got then s1 else State.modHub s1 fun h => { h with v := h.v + (want - got) }

/-- STALL of a core's units: a unit that executes counts a cycle in which it does not wait for tokens, which it does where the
units before it leave the bucket too little for its step; an idle unit counts none (R299, R403). -/
def tickUnits : List (Nat × Mx) → Nat → List (Nat × Mx)
  | [], _ => []
  | (n, m) :: t, b =>
    if m.exec.isNone then (n, { m with stall := 0 }) :: tickUnits t b
    else if b < 2000 then (n, m) :: tickUnits t b
    else (n, { m with stall := if m.stall = 0xFFFF then m.stall else m.stall + 1 }) :: tickUnits t (b - 2000)

/-- The counters of one core that count its cycles (R205, R201, R202, R299). -/
def tickCore (c : Core) : Core :=
  { c with
    cycles := c.cycles + 1
    streams := c.streams.map fun x => (x.1, { x.2 with
      idle := x.2.idle + 1, age := if x.2.buf.isEmpty then 0 else x.2.age + 1
      refused := if x.2.phase = 2 then x.2.refused + 1 else x.2.refused })
    mx := tickUnits c.mx c.bucket }

/-- A lane waits at a barrier, or is held by its arrival part (R376). DESIGN CHOICE (log 48): the time of both counts as one. -/
def Lane.atBar (y : Lane) : Bool :=
  match y.run with
  | .barrier _ => true
  | .running => y.barred && !y.sw
  | _ => false

/-- One cycle of a waiting lane (R376, R380, R147). -/
def tickLane (y : Lane) : Lane :=
  { y with
    waited := if Lane.atBar y then y.waited + 1 else y.waited
    waita := y.waita.map fun w => { w with left := w.left.map (· - 1), since := w.since + 1 } }

/-- One cycle of a resident band: %brun and what is counted in it. -/
def tickBand (b : Band) : Band :=
  { b with brun := b.brun + 1, lanes := b.lanes.map fun l => (l.1, tickLane l.2) }

/-- The lanes of a die whose time at a barrier passes the limit in this cycle (R376). -/
def watchdogDue (s : State) (die : Nat) : List Due :=
  s.bands.flatMap fun e =>
    match (if e.1 / 1024 = die then State.home s e.1 else none) with
    | some (b, _, g) =>
      if g.desc.bwdog = 0 then []
      else ((List.range b.width).filter fun l =>
        Lane.atBar (Band.lane b l) && decide (g.desc.bwdog * 1024 < (Band.lane b l).waited)).map fun l => .barWatchdogExpiry e.1 l
    | none => []

/-- Work of one core in this cycle, in the order of R403; then its bands pass their switch points, by ascending quarter (R227). -/
def coreAgenda (s : State) (c : Nat) : List Due :=
  let k := State.core s c
  (((List.range 4).filter fun u => (Core.mxUnit k u).exec.isSome).map fun u => .mmaStep c u)
    ++ (k.copy.map fun e => .copyUnit c e.1)
    ++ (if s.bands.any fun e => e.1 / 64 == c then (List.range 4).map fun q => .bandSelect c q 0 else [])
    ++ (s.bands.filter fun e => e.1 / 64 == c).map fun e => .switchPoint e.1 (maskOf (List.range e.2.width))

/-- CORE_BUCKET_REFILL: a core cycle of a die: its cores are refilled in turn, and the cycle's work is due (R403, R407). -/
def execCoreBucketRefill (die : Nat) (s : State) : Host.Outcome State Fault Refusal :=
  if 4 ≤ die then .fault .noAgent
  else
    let n := (State.die s die).n
    let cores := (List.range 16).map fun i => die * 16 + (n + i) % 16
    let s1 := cores.foldl (refillCore die) (State.modDie s die fun d => { d with n := d.n + 1 })
    let s2 := ((List.range 16).map fun i => die * 16 + i).foldl (fun s c => State.modCore s c tickCore) s1
    let s3 : State :=
      { s2 with
        bands := s2.bands.map fun e => (e.1, if e.1 / 1024 == die then tickBand e.2 else e.2)
        teams := s2.teams.map fun e => (e.1, if e.2.core / 16 == die then
          { e.2 with save := e.2.save.map fun r => { r with left := r.left - 1 } } else e.2)
        ops := s2.ops.map fun e => (e.1, if e.2.band / 1024 == die then { e.2 with since := e.2.since + 1 } else e.2) }
    .next { s3 with agenda := s3.agenda ++ watchdogDue s3 die ++ ((List.range 16).map fun i => die * 16 + i).flatMap (coreAgenda s3) }

/-! ## The law of the grant (R409, R410, R416, R420, R421) -/

def Hub.slew (h : Hub) : Nat := Nat.max 5 (Nat.min 400 (h.pwrgov.toNat % 2 ^ 9))
/-- GMAX under the cap of the PLIM straps (R476). -/
def Hub.gmax (h : Hub) (plim : Nat) : Nat := Nat.min (2400 - 400 * plim) (h.pwrgov.toNat / 2 ^ 28 % 2 ^ 12)
def Hub.gmin (h : Hub) (plim : Nat) : Nat := Nat.min (Hub.gmax h plim) (h.pwrgov.toNat / 2 ^ 16 % 2 ^ 12)
def Hub.groupSlew (h : Hub) : Nat := h.pgcfg.toNat / 2 ^ 32 % 2 ^ 16

/-- The slew in one direction in the current slot of the calendar (R421). -/
def Hub.slewIn (h : Hub) (up : Bool) : Nat :=
  if Hub.groupSlew h = 0 then Hub.slew h
  else
    let peers := (h.calendar.filter fun e => e.2.1 == up && e.2.2.1 == 0).foldl (fun n e => n + e.2.2.2.2) 0
    Nat.max 5 (Nat.min (Hub.slew h) (Hub.groupSlew h - peers))

/-- The stagger in hub cycles (R421). -/
def Hub.offset (h : Hub) : Nat := h.pgcfg.toNat % 2 ^ 10 * 661 % 1024 * (h.pgcfg.toNat / 2 ^ 16 % 16)

/-- The latest end among the open intents (R416). -/
def latestEnd (s : State) : Nat := (openIntents s).foldl Nat.max 0

/-- What the law calls for in hub cycle `k`, from `d` and the last grant (R409). -/
def lawTarget (h : Hub) (plim e k d : Nat) : Int :=
  let t0 : Int := Nat.max d (Hub.gmin h plim * 1000)
  let t1 : Int := match h.plan with
    | some g0 => max t0 ((g0 : Int) - (Hub.slewIn h true : Int) * ((e : Int) - Hub.offset h - k))
    | none => t0
  min t1 (Hub.gmax h plim * 1000)

/-- The grant before the stagger of a rise. -/
def lawGrant (h : Hub) (plim e k d : Nat) : Nat :=
  (min (max (lawTarget h plim e k d) ((h.g : Int) - Hub.slewIn h false)) ((h.g : Int) + Hub.slewIn h true)).toNat

/-- The hub cycle from which the rise in hand was called for: a rise from rest is new (R421). -/
def riseCalled (h : Hub) (k g : Nat) : Option Nat :=
  if g ≤ h.g then none
  else
    match h.rise with
    | some c => some c
    | none => if h.moved then some (k - Hub.offset h) else some k

/-- The grant of hub cycle `k` and the fields that follow it. -/
def nextGrant (h : Hub) (plim e k d : Nat) : Hub :=
  let g := lawGrant h plim e k d
  let r := riseCalled h k g
  let g1 := match r with
    | some c => if h.plan.isNone && decide (k < c + Hub.offset h) then h.g else g
    | none => g
  let held : Bool := decide (g1 ≤ h.steadyG + 1000) && decide (h.steadyG ≤ g1 + 1000)
  { h with
    g := g1, rise := r, moved := g1 != h.g, rising := decide (h.g < g1), steady := if held then h.steady + 1 else 0, steadyG := if held then h.steadyG else g1 }

/-- The lowest grant that a plan can reach, and the hub cycles until then, from the hub cycle `k` in which it opened (R409,
R420): g falls at its slew down to where the plan's term, which rises at the slew of that direction, meets it, or to its floor. -/
def planLowest (h : Hub) (plim g0 e k d : Nat) : Nat × Nat :=
  let down := Hub.slewIn h false
  let up := Hub.slewIn h true
  let n := e - Hub.offset h - k
  let t := up * n / (down + up)
  let drop := Nat.max (down * t) (up * (n - t - 1))
  let fl := Nat.max d (Hub.gmin h plim * 1000)
  if g0 ≤ fl + drop then (Nat.min g0 fl, (g0 - fl + down - 1) / down)
  else (g0 - drop, if drop = down * t then t else t + 1)

/-- The intent that this hub cycle calls for (R420): `h` before the law and `n` after it. A plan opened in the hub cycle before;
its lowest point is behind once g no longer falls. -/
def intentDue (h n : Hub) (plim e k d : Nat) : Option PowerIntent × Hub :=
  let id := h.pgcfg.toNat % 2 ^ 10
  let hold (m : Hub) : Option PowerIntent × Hub :=
    if 10000 ≤ m.steady then (some ⟨3, id, 0, 0, 10000⟩, { m with steady := 0 }) else (none, m)
  match n.plan with
  | some g0 =>
    if n.planSaid = 0 then
      let l := planLowest n plim g0 e (k - 1) d
      (some ⟨1, id, (g0 - l.1) / 1000, 0, l.2 - 1⟩, { n with planSaid := 1 })
    else if n.planSaid = 1 ∧ h.g ≤ n.g then
      (some ⟨2, id, (g0 - h.g) / 1000, 0, e - Hub.offset n - k⟩, { n with planSaid := 2 })
    else hold n
  | none =>
    let m := { n with planSaid := 0 }
    if n.rising && !h.rising then (some ⟨2, id, (d - h.g) / 1000, 0, (d - h.g) / Hub.slewIn n true⟩, m) else hold m

/-- The intent takes its place as the one to be sent (R420). -/
def holdIntent (k : Nat) (i : Option PowerIntent) (h : Hub) : Hub :=
  match i with
  | none => h
  | some i => if h.pgcfg.getLsbD 48 then { h with heldIntent := some (i, k) } else h

/-! ## Package bucket, top-ups (R407) -/

/-- Top up one die from the package bucket. -/
def topUp (s : State) (d : Nat) : State :=
  let want : Nat := ((dieDepth : Int) - (State.die s d).tokens).toNat
  let got := Nat.min want s.hub.pkg
  State.modHub (if got = 0 then s else State.modDie s d fun x => { x with tokens := x.tokens + got }) fun h =>
    { h with pkg := h.pkg - got, v := h.v + (want - got) }

/-! ## Samples (R417, R418, R422, R486) -/

/-- HOT and COOL (R422). -/
def Hub.hot (h : Hub) : Nat := Nat.min 110 (h.thermcfg.toNat % 2 ^ 8)
def Hub.cool (h : Hub) : Nat := Nat.min (Hub.hot h - 1) (h.thermcfg.toNat / 2 ^ 8 % 2 ^ 8)

/-- PCLO and PCHI (R418). -/
def Hub.pclo (h : Hub) : Nat := h.passcfg.toNat % 2 ^ 16
def Hub.pchi (h : Hub) : Nat := Nat.max (Hub.pclo h + 1) (h.passcfg.toNat / 2 ^ 16)

/-- One core's sensor: how long it has been hot or cool. -/
def tickHeat (h : Hub) (c : Core) : Core :=
  { c with hotFor := if Hub.hot h ≤ c.temp.toNat then c.hotFor + 1 else 0
           coolFor := if c.temp.toNat < Hub.cool h then c.coolFor + 1 else 0 }

/-- One die's charge: how long it has been low or high. -/
def tickCharge (h : Hub) (d : Die) : Die :=
  { d with lowFor := if chargeOf d < Hub.pclo h then d.lowFor + 1 else 0
           highFor := if Hub.pchi h ≤ chargeOf d then d.highFor + 1 else 0 }

/-- A cell loses its value: a dword of a unit, or a bank word of a slice, with one wrong bit or more (R118, R141). -/
def upset (s : State) (x : Upset) : State :=
  if x.sram then
    let g := x.cell % 2 ^ 32 / 16 * 16
    { s with sramFlips := Table.set g (x.double || (Table.find g s.sramFlips).isSome) s.sramFlips }
  else
    let k := x.cell / 8 * 8
    if 24 ≤ k / 2 ^ 40 ∨ (State.unit s (k / 2 ^ 40)).frames * 2 ^ 16 ≤ k % 2 ^ 40 then s
    else { s with dramFlips := Table.set k (x.double || (Table.find k s.dramFlips).isSome) s.dramFlips }

/-- Take the samples of a hub cycle. -/
def takeSample (x : HubSample) (s : State) : State :=
  let s1 := x.temps.foldl (fun s t => if t.1 < 64 then State.modCore s t.1 fun c => { c with temp := BitVec.ofNat 8 (Nat.min t.2 150) } else s) s
  let s2 := x.charges.foldl (fun s t =>
    if t.1 < 4 then State.modDie s t.1 fun d => { d with chgNow := BitVec.ofNat 32 (Nat.min t.2 131070) } else s) s1
  let s3 := (List.range 64).foldl (fun s c => State.modCore s c (tickHeat s.hub)) s2
  x.flips.foldl upset ((List.range 4).foldl (fun s d => State.modDie s d (tickCharge s.hub)) s3)

/-- Time passes for what firmware and the hub count in hub cycles (R458, R463, R466). -/
def tickFirmware (s : State) : State :=
  State.modFw s fun f =>
    { f with
      sessions := f.sessions.map fun e => (e.1, { e.2 with
        idle := e.2.idle + 1, waits := e.2.waits.map fun w => { w with left := w.left.map (· - 1) } })
      partials := f.partials.map fun p => { p with age := p.age + 1 } }

/-- Work of the hub and of firmware due in hub cycle `k`. -/
def hubAgenda (s : State) : List Due :=
  (List.range 4).map .passCountChargeAdjust ++ [.teamPlace] ++ (if s.hub.k % 4096 = 0 then [.kickDepk2Timer] else [])
    ++ (if s.hub.k % 1000 = 0 then [.calendarAdvance] else []) ++ [.powerIntentSend]
    ++ ((List.range 64).filter fun c => decide (8192 ≤ (State.core s c).hotFor)).map .thermalMigration
    ++ ((List.range 64).filter fun c => decide (65536 ≤ (State.core s c).coolFor)).map .thermalPassFall

/-- The intents whose end has passed before hub cycle `k` close; then the plan is as PLAN and the open intents have it (R410,
R414, R416). -/
def closeIntents (k : Nat) (s : State) : State :=
  let past (i : Option Nat) : Option Nat := i.filter fun e => decide (k ≤ e)
  refreshPlan { s with
    bands := s.bands.map fun e => (e.1, if e.2.intent.isSome then { e.2 with intent := past e.2.intent } else e.2)
    saved := s.saved.map fun v => (v.1, { v.2 with bands := v.2.bands.map fun b =>
      { b with band := { b.band with intent := past b.band.intent } } }) }

/-- GOVERNOR_HUB_CYCLE: one hub cycle: the intents that end, the grant by the law, the package bucket, the top-ups, the excess as ballast, the
samples (R407 to R412, R417, R422). -/
def execGovernorHubCycle (sample : HubSample) (s : State) : Host.Outcome State Fault Refusal :=
  if s.fw.power ≠ .ready then .next s
  else
    let k := s.hub.k + 1
    let s := closeIntents k s
    let h := s.hub
    let d := h.w + h.v
    let plim := s.fw.plim.toNat
    let n := if h.k = 0 then { h with g := Hub.gmin h plim * 1000, moved := false } else nextGrant h plim (latestEnd s) k d
    let i := if h.k = 0 then (none, n) else intentDue h n plim (latestEnd s) k d
    let s1 : State := { s with hub :=
      { holdIntent k i.1 i.2 with k := k, w := sample.draw, v := 0, pkg := h.pkg + n.g - sample.draw } }
    let s2 := ((List.range 4).map fun j => (k + j) % 4).foldl topUp s1
    let s3 := State.modHub (spendExcess (s2.hub.pkg - packageDepth) k sample.mxfail s2) fun h => { h with pkg := Nat.min h.pkg packageDepth }
    let s4 := tickFirmware (takeSample sample s3)
    .next { s4 with agenda := s4.agenda ++ hubAgenda s4 }

/-! ## Pass count (R418) -/

/-- One step up or down of a value 1, 2 or 4. -/
def stepUp (x : BitVec 3) : BitVec 3 := if x = 1 then 2 else 4
def stepDown (x : BitVec 3) : BitVec 3 := if x = 4 then 2 else 1

/-- PASS_COUNT_CHARGE_ADJUST: the charge value of a die follows its banks (R418). -/
def execPassCountChargeAdjust (die : Nat) (s : State) : Host.Outcome State Fault Refusal :=
  if 4 ≤ die then .fault .noAgent
  else
    let d := State.die s die
    if 1024 ≤ d.lowFor then .next (State.setDie s die { d with chgVal := stepUp d.chgVal, lowFor := 0 })
    else if 4096 ≤ d.highFor then .next (State.setDie s die { d with chgVal := stepDown d.chgVal, highFor := 0 })
    else .next s

/-! ## Heat (R422 to R424) -/

/-- A team may be migrated from its core (R423). -/
def mayMigrate (s : State) (team : Nat) (t : Team) : Bool :=
  let k := State.core s t.core
  !t.pair && !t.pinned && t.save.isNone && mayBeSaved s team && k.copy.all (fun e => e.2.team != team)
    && (State.die s (t.core / 16)).ek.all (fun e => e.2.team != team)
    && k.acc.all fun a => match a.2.token with
      | .lent x _ _ => x != team
      | _ => true

/-- The coolest core below COOL on which the team fits (R422). -/
def coolSite (s : State) (t : Team) (g : Grid) : Option Nat :=
  ((List.range 64).filter fun c =>
    c != t.core && decide ((State.core s c).temp.toNat < Hub.cool s.hub) && (placeBands s g c).isSome).foldl (fun m c =>
      match m with
      | none => some c
      | some b => if (State.core s c).temp.toNat < (State.core s b).temp.toNat then some c else m) none

/-- A team to migrate from a core, with its destination. -/
def migration (s : State) (core : Nat) : Option (Nat × Nat) :=
  (teamsOn s core).findSome? fun e =>
    if mayMigrate s e.1 e.2.1 then (coolSite s e.2.1 e.2.2).map fun c => (e.1, c) else none

/-- THERMAL_MIGRATION: a core hot for 8,192 hub cycles gives up a team, or its pair's thermal value rises (R422, R423). -/
def execThermalMigration (core : Nat) (s : State) : Host.Outcome State Fault Refusal :=
  if 64 ≤ core then .fault .noAgent
  else if (State.core s core).hotFor < 8192 then .next s
  else
    let s1 := State.modCore s core fun c => { c with hotFor := 0 }
    match migration s1 core with
    | some (team, dest) => .next (requestSave team (some dest) s1)
    | none => .next (State.modPair s1 (core / 2) fun p => { p with therm := stepUp p.therm })

/-- THERMAL_PASS_FALL: after 65,536 hub cycles below COOL the pair's thermal value falls one step (R422). -/
def execThermalPassFall (core : Nat) (s : State) : Host.Outcome State Fault Refusal :=
  if 64 ≤ core then .fault .noAgent
  else if (State.core s core).coolFor < 65536 then .next s
  else
    .next (State.modPair (State.modCore s core fun c => { c with coolFor := 0 }) (core / 2) fun p =>
      { p with therm := stepDown p.therm })

/-- THERMAL_TRIP: the comparators of `dies` (bits 0 to 3: C0 to C3; bit 4: hub) cut the rails: all state but TRIPRSN is
lost (R424); the blob accepted and its owner key are kept, so that the power-on that follows runs as usual (R467). What the
device has sent and what is on its way to it are no state of it. -/
def execThermalTrip (dies : Nat) (s : State) : Host.Outcome State Fault Refusal :=
  let n := s.hub.triprsn.toNat / 2 ^ 16
  .next { State.reset with
    hub := { Hub.start with triprsn := BitVec.ofNat 32 (1 + dies % 32 * 2 + Nat.min 65535 (n + 1) * 2 ^ 16) }
    fw := { Fw.start with blob := { s.fw.blob with applied := none } }
    outbox := s.outbox, inbox := s.inbox, fresh := s.fresh }

/-! ## Power intents between devices (R419 to R421) -/

/-- The members of the group but for this device. -/
def Hub.peers (h : Hub) : List Nat :=
  (List.range 1024).filter fun n => h.members.getLsbD n && n != h.pgcfg.toNat % 2 ^ 10

/-- POWER_INTENT_SEND: the intent held is sent once 1,000 hub cycles have passed since the last (R420), to each member by
station (member identifier) mod 24 (R468). -/
def execPowerIntentSend (s : State) : Host.Outcome State Fault Refusal :=
  match s.hub.heldIntent with
  | none => .next s
  | some (i, k) =>
    if !s.hub.pgcfg.getLsbD 48 then .next s
    else if (match s.hub.lastIntent with
        | some l => decide (s.hub.k < l + 1000)
        | none => false) then .next s
    else
      let age := s.hub.k - k
      let j := if i.kind = 3 then i else { i with dur := i.dur - age }
      if i.kind ≠ 3 ∧ j.dur = 0 ∧ 0 < age then .next (State.modHub s fun h => { h with heldIntent := none })
      else
        let s1 := (Hub.peers s.hub).foldl (fun s m => State.send s (.intent (m % 24) m j)) s
        .next (State.modHub s1 fun h => { h with heldIntent := none, lastIntent := some h.k })

/-- POWER_INTENT_RECEIVE: a peer's intent enters the calendar; one of no member is discarded (R419, R421, R468). -/
def execPowerIntentReceive (i : PowerIntent) (s : State) : Host.Outcome State Fault Refusal :=
  if !s.hub.pgcfg.getLsbD 48 || !s.hub.members.getLsbD i.src then .next s
  else
    match i.kind with
    | 3 => .next (State.modHub s fun h => { h with calendar := h.calendar.filter fun e => e.1 != i.src })
    | 1 | 2 =>
      if i.dur = 0 ∨ 63000 < i.delay then .next s
      else
        .next (State.modHub s fun h => { h with calendar := h.calendar ++
          [(i.src, i.kind == 2, i.delay / 1000, Nat.min 63 ((i.delay + i.dur) / 1000), i.amount * 1000 / i.dur)] })
    | _ => .next s

/-- A calendar entry one slot later. -/
def nextSlot (e : Nat × Bool × Nat × Nat × Nat) : Option (Nat × Bool × Nat × Nat × Nat) :=
  if e.2.2.2.1 = 0 then none else some (e.1, e.2.1, e.2.2.1 - 1, e.2.2.2.1 - 1, e.2.2.2.2)

/-- CALENDAR_ADVANCE: a µs passes, and its slot is cleared (R421). -/
def execCalendarAdvance (s : State) : Host.Outcome State Fault Refusal :=
  .next (State.modHub s fun h => { h with calendar := h.calendar.filterMap nextSlot })

/-! ## Notices (R433) -/

/-- The 32 bytes of a notice (R433). -/
def noticeBytes (n : Notice) : List Byte :=
  natLe 1 n.kind ++ natLe 1 n.ctx ++ natLe 1 n.core ++ natLe 1 n.aux ++ natLe 4 n.grid ++ natLe 4 n.team ++ natLe 2 n.band
    ++ natLe 1 n.lane ++ natLe 1 0 ++ natLe 8 n.a.toNat ++ natLe 8 n.b.toNat

/-- NOTICE_POST: the notice at the head of the posters enters the queue while there is space. -/
def execNoticePost (s : State) : Host.Outcome State Fault Refusal :=
  match s.hub.noticeWait with
  | [] => .next s
  | n :: ns =>
    if 256 ≤ s.hub.notices.length then .next s
    else
      .next (State.modHub
        { s with hubSram := Memory.store s.hubSram (0x480000 + s.hub.nqw.toNat * 32) (noticeBytes n) } fun h =>
        { h with notices := h.notices ++ [n], nqw := h.nqw + 1, noticeWait := ns })

/-- NQ_WRITE: RIDX moves, and the records before it are free (R433). -/
def execNqWrite (value : Word) (s : State) : Host.Outcome State Fault Refusal :=
  let r := BitVec.ofNat 8 (value.toNat / 2 ^ 8 % 2 ^ 8)
  let n := (r - s.hub.nqr).toNat
  .next (State.modHub s fun h =>
    { h with nqr := r, notices := if h.notices.length < n then [] else h.notices.drop n })

end Sys2Proof.Machine
end

