-- ==== Sys2Proof/Machine/Firmware.lean ====
section
/-!
DEFINITION. Messages, sessions, status, contexts' registers, configuration, counters, resets, power-on
(spec/19_firmware_host_fabric.md R460 to R476, R491; spec/04_addresses_and_translation.md R114).
-/
namespace Sys2Proof.Machine

/-! ## How a message is executed (R461 to R464) -/

/-- Who may issue a command (R464). -/
inductive Issuer where
  | any | session | auth
  deriving DecidableEq, Repr

def stOk : Nat := 0
def stBadMsg : Nat := 1
def stBadCmd : Nat := 2
def stDenied : Nat := 3
def stBusy : Nat := 4
def stNotReady : Nat := 5
def stNoRes : Nat := 6
def stTimeout : Nat := 7
def stStopped : Nat := 8

/-- What a command does: status, payload and the state it leaves. One that is `busy` has done part of its work, or none, and
goes on later; one that answers `later` is held as a WAIT; one with `view` is answered once that context's view page is
written. -/
structure Done where
  status : Nat
  payload : Payload := .none
  s : State
  later : Bool := false
  busy : Bool := false
  view : Option Nat := none

abbrev Command := State → Done

def refuseWith (status : Nat) (s : State) : Done := { status := status, s := s }

/-- The command has to wait, in the state it has come to. -/
def waitIn (s : State) : Done := { status := stOk, s := s, busy := true }

/-- The device answers with its MAC alone: neither scheduler core runs (R428), or has passed stage 1 (R473). -/
def macOnly (s : State) : Bool :=
  match s.fw.power with
  | .failed 0 => true
  | .failed 1 => s.fw.noCore
  | _ => false

def Power.isFailed : Power → Bool
  | .failed _ => true
  | _ => false

/-- The SESSION field of a reply: the message's, or the identifier of the session that it opened (R491). -/
def replySession (h : MsgHead) (p : Payload) : Nat :=
  match p with
  | .opened id _ _ => id
  | _ => h.session

/-- A reply that is not kept: the message was not executed (R461), or has no session (R463). -/
def replyOnce (op : Nat) (h : MsgHead) (status : Nat) (p : Payload) (s : State) : State :=
  sendReply ⟨op, replySession h p, h.msgnum, status, p, h.src⟩ s

/-- A message of a session has come, whatever becomes of it (R462). -/
def touchSession (n : Nat) (s : State) : State :=
  State.modFw s fun f => { f with sessions := Table.alter n (fun x => { x with idle := 0 }) f.sessions }

/-- The context that a command acts on (R463). -/
def commandCtx : Due → Option Nat
  | .sessionCtxend _ ctx | .fwUnmap _ ctx _ _ | .loadRoute _ ctx _ _ | .loadSavepool _ ctx _ _ | .regenRegister _ ctx _ _
  | .hostLaunch _ ctx _ _ | .resetUnitStopContext _ ctx => some ctx
  | .fwMap _ m => some m.ctx
  | _ => none

def Running.of (h : MsgHead) (c : Running) : Bool := c.session == h.session && c.msgnum == h.msgnum

/-- How far the message's command is, where it is under way. -/
def stageOf (s : State) (h : MsgHead) : Option Nat := (s.fw.running.find? (Running.of h)).map Running.stage

def setStage (h : MsgHead) (n : Nat) (s : State) : State :=
  State.modFw s fun f => { f with running := f.running.map fun c => if Running.of h c then { c with stage := n } else c }

/-- A command begins, where it is not under way: it is journalled first (R426). -/
def beginCommand (h : MsgHead) (ctx : Option Nat) (s : State) : State :=
  if (stageOf s h).isSome then s
  else State.modFw (journal (.command h.session h.msgnum) s) fun f => { f with running := f.running ++ [⟨h.session, h.msgnum, ctx, 0⟩] }

/-- A command that began earlier acts on the same context and is still under way (R463). -/
def notItsTurn (h : MsgHead) (ctx : Option Nat) (s : State) : Bool :=
  ctx.isSome && (s.fw.running.takeWhile fun c => !Running.of h c).any fun c => c.ctx == ctx

/-- The command runs, and its reply goes out; a session's is kept (R463). -/
def runCommand (op : Nat) (h : MsgHead) (act : Command) (again : Due) (s : State) : State :=
  let ctx := commandCtx again
  let s1 := beginCommand h ctx s
  if notItsTurn h ctx s1 then retry again s1
  else
    let d := act s1
    let r : Reply := ⟨op, h.session, h.msgnum, d.status, d.payload, h.src⟩
    if d.busy then retry again d.s
    else if d.later then executed h.session h.msgnum d.s
    else match d.view with
      | some c => followView c (some r) (setStage h 2 d.s)
      | none => answer r d.s

/-- May this session issue the command (R464)? -/
def mayIssue (who : Issuer) (x : Session) : Bool :=
  match who with
  | .any | .session => true
  | .auth => x.proved

/-- The message's request has been executed, and its reply is still to come: it is a WAIT. -/
def replyHeld (h : MsgHead) (x : Session) (s : State) : Bool :=
  x.waits.any (fun w => w.msgnum == h.msgnum) || s.fw.heldReplies.any fun r => r.session == h.session && r.msgnum == h.msgnum

/-- A message of an open session (R462, R463). -/
def sessionMessage (op : Nat) (h : MsgHead) (who : Issuer) (act : Command) (again : Due) (x : Session) (s0 : State) : State :=
  let s := touchSession h.session s0
  if (x.proved && !(h.signed && h.sigOk)) || (h.signed && !h.sigOk) then replyOnce op h stBadMsg .none s
  else if stageOf s h == some 2 then s
  else if h.msgnum = x.last + 1 then
    runCommand op h (if mayIssue who x then act else refuseWith stDenied) again s
  else
    match x.replies.find? fun r => r.msgnum == h.msgnum with
    | some r => sendReply { r with dst := h.src } s
    | none => if replyHeld h x s then s else replyOnce op h stBadMsg .none s

/-- A message with its command, of opcode `op`: `inFailure` commands run in the failure state too (R464). A step that has to
wait is tried again as `again`. DESIGN CHOICE (log 37): one that is signed without a session, whose key it could be signed
with, is answered BADMSG, an OPEN among them. -/
def command (op : Nat) (h : MsgHead) (who : Issuer) (inFailure : Bool) (again : Due) (act : Command) (s : State) :
    Host.Outcome State Fault Refusal :=
  match s.fw.power with
  | .booting _ => .next (if s.fw.linkUp then replyOnce op h stNotReady .none s else s)
  | p =>
    if !s.fw.linkUp || macOnly s then .next s
    else if Power.isFailed p && !inFailure then .next (replyOnce op h stNotReady .none s)
    else if h.session = 0 then
      if h.signed then .next (replyOnce op h stBadMsg .none s)
      else if who = .any then
        let d := act (journal (.command h.session h.msgnum) s)
        .next (replyOnce op h d.status d.payload d.s)
      else .next (replyOnce op h stDenied .none s)
    else
      match Table.find h.session s.fw.sessions with
      | none => .next (replyOnce op h stBadMsg .none s)
      | some x => .next (sessionMessage op h who act again x s)

/-- A step that no command waits in. -/
def noWait : Due := .noticePost

/-! ## STATUS, DIAG (R474, R475, R464) -/

def stateCode : Power → Nat
  | .booting _ => 0
  | .ready => 1
  | .failed _ => 2

def stageCode : Power → Nat
  | .booting n => n
  | .ready => 0
  | .failed n => n

/-- SCHEDSTAT with its HELD field (R427). -/
def Hub.sched (h : Hub) : Nat := h.schedstat.toNat + h.heldRecs.length * 2 ^ 8

/-- A mask of bits. -/
def bitsOf (n : Nat) (f : Nat → Bool) : Nat := Arith.tabulate n f

/-- The status block (R474). -/
def statusBlock (s : State) : List Byte :=
  natLe 1 (stateCode s.fw.power) ++ natLe 1 (stageCode s.fw.power) ++ natLe 2 (s.hub.pgcfg.toNat % 2 ^ 10)
    ++ natLe 2 (bitsOf 16 fun m => (State.unit s (8 + m)).frames == 0)
    ++ natLe 1 (bitsOf 8 fun k => (Table.get Crossing.start k s.crossings).down)
    ++ natLe 1 (s.fw.boot.toNat + s.fw.plim.toNat * 4 + if s.fw.pgen then 16 else 0)
    ++ natLe 4 (bitsOf 24 fun n => (State.station s n).down) ++ natLe 4 s.hub.triprsn.toNat ++ natLe 4 (Hub.sched s.hub)
    ++ natLe 4 Config.romVersion

/-- STATUS (R474): it is answered in every state in which the link is up (R473). -/
def execFwStatus (h : MsgHead) (s : State) : Host.Outcome State Fault Refusal :=
  if macOnly s || stateCode s.fw.power == 0 then .next (if s.fw.linkUp then replyOnce 1 h stOk (.status (statusBlock s)) s else s)
  else command 1 h .any true noWait (fun s => { status := stOk, payload := .status (statusBlock s), s := s }) s

/-- The failure record (R475); zeros where no stage has failed. -/
def failureRecord (f : Option StageFailure) : List Byte :=
  match f with
  | none => zeros 16
  | some f => natLe 1 f.stage ++ natLe 1 f.unit ++ natLe 2 f.index ++ natLe 4 f.code ++ natLe 8 f.detail

/-- DIAG_FAILURE_RECORD (R464). -/
def execDiagFailureRecord (h : MsgHead) (s : State) : Host.Outcome State Fault Refusal :=
  command 2 h .session true noWait (fun s => { status := stOk, payload := .failure (failureRecord s.fw.failure), s := s }) s

/-- The safe state of a failure: the core buckets are empty, the stations down (R473). -/
def safeState (s : State) : State :=
  { s with
    cores := (List.range 64).map fun c => (c, { State.core s c with bucket := 0 })
    stations := (List.range 24).map fun n => (n, { State.station s n with down := true }) }

/-- Stage 5 runs again: whether a core fails it, and which, with the first failing address, is the part's (free values; log
54). A failure ends in the failure state (R473, R475). -/
def rerunStage5 (s : State) : State :=
  let a := State.draw s
  if a.1 % 2 = 0 then a.2
  else
    let b := State.draw a.2
    let c := State.draw b.2
    safeState (State.modFw c.2 fun f => { f with power := .failed 5, failure := some ⟨5, 6, b.1 % 64, 1, c.1 % 2 ^ 64⟩ })

/-- DIAG_RERUN_STAGE5: stage 5 runs again when no context exists (R464). -/
def execDiagRerunStage5 (h : MsgHead) (s : State) : Host.Outcome State Fault Refusal :=
  command 2 h .auth false noWait (fun s =>
    if s.ctxs.any fun c => c.1 != 0 then refuseWith stBusy s else { status := stOk, s := rerunStage5 s }) s

/-! ## SESSION (R462, R463, R491) -/

/-- The lowest number from `n` up that no session has. -/
def freshSession (s : State) (n : Nat) : Nat :=
  ((List.range 17).map fun i => (n + i) % (2 ^ 64 - 1) + 1).find? (fun k => (Table.find k s.fw.sessions).isNone) |>.getD 1

/-- The applied blob sets the key. -/
def keySet (s : State) (k : Nat) : Bool :=
  match s.fw.blob.applied with
  | some b => (b.keys.getD k none).isSome
  | none => false

/-- SESSION_OPEN. -/
def execSessionOpen (h : MsgHead) (key : Nat) (s : State) : Host.Outcome State Fault Refusal :=
  if h.session ≠ 0 ∨ h.msgnum ≠ 0 then
    command 3 h .any false noWait (refuseWith stBadCmd) s
  else
    command 3 h .any false noWait (fun s =>
      if key ≠ 0xFF ∧ 7 < key then refuseWith stBadCmd s
      else if key ≠ 0xFF ∧ !keySet s key then refuseWith stDenied s
      else if 16 ≤ s.fw.sessions.length then refuseWith stNoRes s
      else
        let a := State.draw s
        let b := State.draw a.2
        let c := State.draw b.2
        let id := freshSession s a.1
        let x : Session :=
          { key := if key = 0xFF then none else some key, proved := false, nonce := b.1 % 2 ^ 256, rkey := c.1 % 2 ^ 24, last := 0
            replies := [], waits := [], idle := 0 }
        { status := stOk, payload := .opened id x.nonce x.rkey
          s := State.modFw c.2 fun f => { f with sessions := Table.set id x f.sessions } }) s

/-- SESSION_PROVE: a wrong nonce or signature leaves the session open, unauthorised, and the message not executed (R462). -/
def execSessionProve (h : MsgHead) (nonce : Nat) (s : State) : Host.Outcome State Fault Refusal :=
  let bad : Bool := match Table.find h.session s.fw.sessions with
    | some x => h.msgnum == x.last + 1 && !(x.key.isSome && h.signed && h.sigOk && nonce == x.nonce)
    | none => false
  if bad && s.fw.power == .ready && s.fw.linkUp then .next (replyOnce 3 h stBadMsg .none (touchSession h.session s))
  else
    command 3 h .session false noWait (fun s =>
      { status := stOk
        s := State.modFw s fun f => { f with sessions := Table.alter h.session (fun x => { x with proved := true }) f.sessions } }) s

/-- A session ends, with the commands of it that are under way. -/
def closeSession (n : Nat) (s : State) : State :=
  State.modFw s fun f => { f with sessions := Table.del n f.sessions, running := f.running.filter fun c => c.session != n }

/-- SESSION_CLOSE. -/
def execSessionClose (h : MsgHead) (s : State) : Host.Outcome State Fault Refusal :=
  command 3 h .session false noWait (fun s => { status := stOk, s := closeSession h.session s }) s

/-- SESSION_IDLE_TIMEOUT: 60 s without a message close a session (R462). -/
def execSessionIdleTimeout (session : Nat) (s : State) : Host.Outcome State Fault Refusal :=
  match Table.find session s.fw.sessions with
  | none => .next s
  | some x =>
    if x.idle < 60000000000 then .next s
    else .next (closeSession session s)

/-- SESSION_CTXNEW: the lowest free number from 1 to 255, with its view page (R464, R471). -/
def execSessionCtxnew (h : MsgHead) (view : Nat) (s : State) : Host.Outcome State Fault Refusal :=
  command 3 h .auth false (.sessionCtxnew h view) (fun s =>
    if view % 512 ≠ 0 then refuseWith stBadCmd s
    else
      match ((List.range 256).drop 1).find? fun n => (Table.find n s.ctxs).isNone with
      | none => refuseWith stNoRes s
      | some n => { status := stOk, payload := .ctx n, view := some n, s := { s with ctxs := Table.set n (Ctx.start view) s.ctxs } }) s

/-! ## Unmapping pages (R114) -/

/-- What a page without a frame of its own still holds: a DDR-5 frame set aside (R480). -/
def dropAside (e : Nat) (big : Bool) (s : State) : State :=
  if e % 8 = 3 ∧ e.testBit 10 then dropFrames (entryUnit e) (entryFrame e) big s else s

/-- Unmap one page: a PRESENT one goes by the steps of R114; any other is written at once. -/
def unmapPage (e page : Nat) (big : Bool) (s0 : State) : State :=
  let s := readCover page s0
  let old := pageEntry s page
  if (Table.find page s.fw.pages).isNone || (moveOf s page).isSome || old % 8 == 4 then s
  else if old % 8 = 1 then addMove ⟨page, old, big, .unmap e, 0⟩ s
  else
    let s1 := dropBacking page big (dropAside old big (setPageEntry s page e))
    State.modFw s1 fun f => { f with pages := Table.del page f.pages }

/-- Unmap the pages from `page` on, `n` of them, in order: entries `e`. -/
def unmapFrom (e : Nat) : Nat → Nat → Nat → State → State
  | 0, _, _, s => s
  | k + 1, n, page, s =>
    if n = 0 then s
    else
      let big := (coverKey s page).2
      unmapFrom e k (n - pageSpan big) (page + pageSpan big) (unmapPage e page big s)

/-- Unmap the pages of a range: first page and count. -/
def unmapPages (e : Nat) (r : Nat × Nat) (s : State) : State := unmapFrom e r.2 r.2 r.1 s

/-- A page of the range is still mapped. -/
def stillMapped (r : Nat × Nat) (s : State) : Bool := s.fw.pages.any fun p => decide (r.1 ≤ p.1) && decide (p.1 < r.1 + r.2)

/-- The chip pages of a range register: first and count. -/
def rangePages (c : Ctx) (k : Nat) : Nat × Nat :=
  (Ctx.range c k 2 / 2 ^ 16 % 2 ^ 32, Ctx.range c k 1 / 2 ^ 16 - Ctx.range c k 0 / 2 ^ 16 + 1)

/-! ## CTXEND (R464, R113) -/

/-- Drop the L1 of every core on which the context has a resident band (R114). -/
def dropL1s (ctx : Nat) (s : State) : State :=
  (teamsOfCtx s ctx).foldl (fun s t => match Table.find t s.teams with
    | none => s
    | some t => (coresOf t.pair t.core).foldl (fun s c => State.modCore s c fun k => { k with l1 := [] }) s) s

/-- The executing operations of a team end with it. -/
def dropMx (team core : Nat) (s : State) : State :=
  State.modCore s core fun c => { c with mx := c.mx.map fun m => (m.1, match m.2.exec with
    | some o => if o.team == team then { m.2 with exec := none, stall := 0 } else m.2
    | none => m.2) }

/-- Remove every team of a context. -/
def removeTeams (ctx : Nat) (s : State) : State :=
  (teamsOfCtx s ctx).foldl (fun s k => match Table.find k s.teams with
    | none => s
    | some t => match Table.find t.grid s.grids with
      | none => s
      | some g => removeTeam k t g ((coresOf t.pair t.core).foldl (fun s c => dropMx k c s) s)) s

/-- Remove the grids of a context, with their tasks and saved teams. -/
def removeGrids (ctx : Nat) (s : State) : State :=
  let gone := (s.grids.filter fun e => e.2.ctx == ctx).map Prod.fst
  let s1 := State.modHub { s with grids := s.grids.filter (fun e => e.2.ctx != ctx)
                                  saved := s.saved.filter fun e => !gone.elem e.2.grid } fun h =>
    { h with queues := h.queues.map (fun q => (q.1, q.2.filter fun k => !gone.elem k))
             heldRecs := h.heldRecs.filter fun k => !gone.elem k }
  (s1.cores.map Prod.fst).foldl (fun s c =>
    let q := (State.core s c).deque
    if q.any fun t => t.ctx == ctx then setDeque c (q.filter fun t => t.ctx != ctx) s else s) s1

/-- Firmware's records of a context. What peers have opened in it stays until they close it (R202). -/
def removeRecords (ctx : Nat) (s : State) : State :=
  let s1 := State.modFw s fun f =>
    { f with kernels := f.kernels.filter (fun k => k.2.ctx != ctx), parked := f.parked.filter fun p => p.2.ctx != ctx }
  { s1 with ctxs := Table.del ctx s1.ctxs }

/-- The valid ranges of a context. -/
def validRanges (s : State) (ctx : Nat) : List (Nat × Nat) :=
  let c := State.ctx s ctx
  ((List.range 8).filter fun k => (Ctx.range c k 3).testBit 0).map (rangePages c)

/-- SESSION_CTXEND: the context is stopped and all its state freed, its pages last (R464); a regeneration in it ends first. -/
def execSessionCtxend (h : MsgHead) (ctx : Nat) (s : State) : Host.Outcome State Fault Refusal :=
  command 3 h .auth false (.sessionCtxend h ctx) (fun s =>
    if ctx = 0 ∨ (Table.find ctx s.ctxs).isNone then refuseWith stBadCmd s
    else
      let s1 := removeGrids ctx (removeTeams ctx (leaveFabric ctx (dropL1s ctx (stopCtx ctx s))))
      let rs := validRanges s1 ctx
      let s2 := rs.foldl (fun s r => unmapPages 0 r s) s1
      if (rs.any fun r => stillMapped r s2) || s2.fw.regens.any fun g => g.ctx == ctx then waitIn s2
      else { status := stOk, s := removeRecords ctx s2 }) s

/-! ## MAP and UNMAP (R465, R114) -/

/-- The units named, ascending: stacks, or channels. -/
def unitsOf (m : MapArgs) : List Nat :=
  ((List.range 16).filter fun u => m.units.testBit u).map fun u => if m.tier = 0 then u else 8 + u

/-- The MAP payload's fields hold allowed values. -/
def mapOk (s : State) (m : MapArgs) : Bool :=
  let big := m.flags.testBit 1
  let size := if big then 2 ^ 21 else 2 ^ 16
  liveCtx s m.ctx && decide (m.k < 8) && decide (m.flags < 16)
    && !(m.flags.testBit 3 && (m.flags.testBit 0 || m.flags.testBit 2))
    && (!big || m.flags.testBit 0 || m.flags.testBit 2 || m.flags.testBit 3) && decide (m.tier < 2) && m.units != 0
    && decide (m.units < if m.tier = 0 then 2 ^ 8 else 2 ^ 16) && (unitsOf m).all (fun u => decide (0 < (State.unit s u).frames))
    && decide (m.perm < 128) && m.va % size == 0 && decide (m.va < 2 ^ 60) && m.len % size == 0 && m.len != 0
    && if m.flags.testBit 3 then (Table.find m.rgk s.fw.kernels).isSome else m.rgk == 0

/-- Frames gathered for a MAP. -/
inductive Gathered where
  | all (frames : List (Nat × Nat)) (s : State)
  | busy (s : State)
  | lacking

/-- Obtain a frame for each of the pages from the `i`-th on (R465 step 2); where one is not yet, or not, to be had, those
obtained before are free again. -/
def gather (us : List Nat) (big : Bool) : Nat → Nat → List (Nat × Nat) → State → Gathered
  | 0, _, fs, s => .all fs s
  | n + 1, i, fs, s =>
    let u := us.getD (i % us.length) 0
    match obtainFrame [u] (if u < 8 then [u] else []) big s with
    | .frame v f s1 => gather us big n (i + 1) (fs ++ [(v, f)]) s1
    | .busy s1 => .busy (fs.foldl (fun s f => dropFrames f.1 f.2 big s) s1)
    | .none => .lacking

/-- Write the entries of the pages from the `i`-th on (R465 step 3). -/
def mapPages (m : MapArgs) (us : List Nat) (fs : List (Nat × Nat)) : Nat → Nat → Nat → State → State
  | 0, _, _, s => s
  | n + 1, i, page, s =>
    let big := m.flags.testBit 1
    let s1 := State.modFw s fun f => { f with pages := Table.set page ⟨m.flags.testBit 0, none, none⟩ f.pages }
    mapPages m us fs n (i + 1) (page + pageSpan big) (
      if m.flags.testBit 3 then setEntryOf big page (5 + m.rgk * 2 ^ 4) s1
      else
        match fs[i]? with
        | some (u, f) => setEntryOf big page (presentEntry u f false false false) (zeroPage u f big s1)
        | none => setEntryOf big page (2 + unitBits (us.getD (i % us.length) 0)) s1)

/-- A MAP whose frames are there (R465 steps 3 to 5); for REGEN pages the context of the kernel has its staging window (log
52). -/
def finishMap (m : MapArgs) (p n : Nat) (fs : List (Nat × Nat)) (s : State) : Done :=
  let s1 := setRange m.ctx m.k m.va (m.va + m.len - 2 ^ 16) (p * 2 ^ 16) (1 + m.perm * 2) (mapPages m (unitsOf m) fs n 0 p s)
  let s2 := match (if m.flags.testBit 3 then Table.find m.rgk s1.fw.kernels else none) with
    | some kn => (giveStaging kn.ctx s1).getD s1
    | none => s1
  { status := stOk, payload := .cbase p, view := some m.ctx, s := s2 }

/-- MAP (R465). -/
def execFwMap (h : MsgHead) (m : MapArgs) (s : State) : Host.Outcome State Fault Refusal :=
  command 4 h .auth false (.fwMap h m) (fun s =>
    if !mapOk s m then refuseWith stBadCmd s
    else if ctxBusy s m.ctx || (Ctx.range (State.ctx s m.ctx) m.k 3).testBit 0 then refuseWith stBusy s
    else
      let big := m.flags.testBit 1
      let n := m.len / 2 ^ 16 / pageSpan big
      match freeChip s (m.len / 2 ^ 16) (pageSpan big) with
      | none => refuseWith stNoRes s
      | some p =>
        match gather (unitsOf m) big (if m.flags.testBit 0 || m.flags.testBit 2 then n else 0) 0 [] s with
        | .busy s1 => waitIn s1
        | .lacking => refuseWith stNoRes s
        | .all fs s1 => finishMap m p n fs s1) s

/-- The last step of UNMAP: the register is no longer valid; a staging window that it held is given up. -/
def clearRange (ctx k : Nat) (s : State) : State :=
  State.modCtx s ctx fun c =>
    { c with
      ranges := Table.set (4 * k + 3) (Table.get 0 (4 * k + 3) c.ranges &&& ~~~(1#64)) c.ranges
      staging := c.staging.filter fun g => g.reg != k }

/-- UNMAP (R464, R114): BUSY as MAP when it begins; V is cleared when no page is left and the context is not busy (R93). -/
def execFwUnmap (h : MsgHead) (ctx k kind : Nat) (s : State) : Host.Outcome State Fault Refusal :=
  command 5 h .auth false (.fwUnmap h ctx k kind) (fun s =>
    let c := State.ctx s ctx
    let fresh : Bool := stageOf s h != some 1
    if fresh && (!liveCtx s ctx || 8 ≤ k || 2 ≤ kind) then refuseWith stBadCmd s
    else if fresh && ctxBusy s ctx then refuseWith stBusy s
    else if fresh && !(Ctx.range c k 3).testBit 0 then refuseWith stBadCmd s
    else
      let r := rangePages c k
      let s1 := unmapPages (if kind = 0 then 0 else 3) r (setStage h 1 s)
      if stillMapped r s1 then waitIn s1
      else
        let s2 := dropL1s ctx s1
        if ctxBusy s2 ctx || s2.fw.regens.any fun g => g.ctx == ctx then waitIn s2
        else { status := stOk, view := some ctx, s := clearRange ctx k s2 }) s

/-! ## LOAD (R464, R467) -/

/-- The blob's fields hold allowed values. -/
def blobOk (b : Blob) : Bool :=
  decide (b.vlan < 4096) && decide (b.prio < 8) && decide (b.id < 1024) && decide (b.keys.length ≤ 8)
    && [1, 2, 3, 4, 6, 8, 12, 24].elem b.nsw && (b.coreclk.length == 0 || b.coreclk.length == 4) && decide (1500 ≤ b.mtu) && decide (b.mtu ≤ 9216)

/-- LOAD_CONFIG: the first blob fixes the owner; it is applied at the next power-on (R467, R476). -/
def execLoadConfig (h : MsgHead) (b : Blob) (s : State) : Host.Outcome State Fault Refusal :=
  command 6 h .session false noWait (fun s =>
    if s.fw.boot = 2 then refuseWith stDenied s
    else if !blobOk b then refuseWith stBadCmd s
    else if !b.sigOk || (match s.fw.blob.owner with
        | some o => o != b.owner
        | none => false) then refuseWith stDenied s
    else { status := stOk, s := State.modFw s fun f => { f with blob := { f.blob with stored := some b, owner := some b.owner } } }) s

/-- A value with only the bits of a mask. -/
def maskBits (m : Nat) (v : Dword) : Dword := v &&& BitVec.ofNat 64 m

/-- Bits of FRTk (R191). -/
def routeMask : Nat := 0x100FF03FF

/-- LOAD_ROUTE (R464). DESIGN CHOICE (log 54): bits of the value that lie in reserved fields are ignored, as in any write of the
register (R6); R464 lists no allowed values for them. -/
def execLoadRoute (h : MsgHead) (ctx k : Nat) (value : Dword) (s : State) : Host.Outcome State Fault Refusal :=
  command 6 h .auth false (.loadRoute h ctx k value) (fun s =>
    if !liveCtx s ctx || 16 ≤ k then refuseWith stBadCmd s
    else if ctxResident s ctx then refuseWith stBusy s
    else
      { status := stOk, view := some ctx
        s := State.modCtx s ctx fun c => { c with routes := Table.set k (maskBits routeMask value) c.routes } }) s

/-- Bits of SVBASE and SVSIZE (R451). -/
def svbaseMask : Nat := (2 ^ 43 - 2 ^ 16) + (2 ^ 56 - 2 ^ 48)
def svsizeMask : Nat := 2 ^ 24 - 1

/-- LOAD_SAVEPOOL (R464): bits in reserved fields are ignored (R6; log 54). -/
def execLoadSavepool (h : MsgHead) (ctx : Nat) (base size : Dword) (s : State) : Host.Outcome State Fault Refusal :=
  command 6 h .auth false (.loadSavepool h ctx base size) (fun s =>
    if !liveCtx s ctx then refuseWith stBadCmd s
    else if ctxResident s ctx then refuseWith stBusy s
    else
      { status := stOk
        s := State.modCtx s ctx fun c => { c with svbase := maskBits svbaseMask base, svsize := maskBits svsizeMask size } }) s

/-! ## REGEN_REGISTER, LAUNCH, WAIT (R464, R466) -/

/-- REGEN_REGISTER: the image must have FLAGS bit 0 set (R111); the context gets its staging window while it can (log 52).
A regeneration kernel runs in a context other than 0 (R472). -/
def execRegenRegister (h : MsgHead) (ctx image : Nat) (arg : Dword) (s : State) : Host.Outcome State Fault Refusal :=
  command 7 h .auth false (.regenRegister h ctx image arg) (fun s =>
    if ctx = 0 ∨ !liveCtx s ctx ∨ image % 128 ≠ 0 then refuseWith stBadCmd s
    else
      match readSpan ctx permRd image 8 s with
      | (.busy, s1) => waitIn s1
      | (.bad, s1) => refuseWith stBadCmd s1
      | (.ok bs, s1) =>
        if !(fieldAt bs 6 2).testBit 0 then refuseWith stBadCmd s1
        else
          match (List.range 4096).find? fun n => (Table.find n s1.fw.kernels).isNone with
          | none => refuseWith stNoRes s1
          | some n =>
            let s2 := (giveStaging ctx s1).getD s1
            { status := stOk, payload := .rgk n
              s := State.modFw s2 fun f => { f with kernels := Table.set n ⟨ctx, image, arg⟩ f.kernels } }) s

/-- HOST_LAUNCH: queued, or refused under R389 (R387 to R391, R464); none after a crossing has gone down (R129), and none in
context 0, which runs ROM kernels alone (R472). -/
def execHostLaunch (h : MsgHead) (ctx queue : Nat) (desc : List Byte) (s : State) : Host.Outcome State Fault Refusal :=
  command 8 h .auth false (.hostLaunch h ctx queue desc) (fun s =>
    if ctx = 0 ∨ (Table.find ctx s.ctxs).isNone ∨ 7 < queue ∨ desc.length ≠ 128 then refuseWith stBadCmd s
    else if (State.ctx s ctx).stopped then refuseWith stStopped s
    else if s.fw.noLaunch then refuseWith stNoRes s
    else if 256 ≤ (Table.get [] queue s.hub.queues).length then refuseWith stNoRes s
    else
      match launchGrid ctx queue desc none s with
      | .busy s1 => waitIn s1
      | .done _ =>
        let s1 := journal (.queued ctx (parseDesc desc).gridid queue) s
        { status := stOk, s := Try.state (launchGrid ctx queue desc none s1) }) s

/-- HOST_WAIT (R466). Its reply is held while completions are (answer). -/
def execHostWait (h : MsgHead) (ctx gridid limit : Nat) (s : State) : Host.Outcome State Fault Refusal :=
  command 9 h .auth false (.hostWait h ctx gridid limit) (fun s =>
    if (Table.find ctx s.ctxs).isNone then refuseWith stBadCmd s
    else if (State.ctx s ctx).stopped then refuseWith stStopped s
    else if (gridNamed s ctx gridid).isSome then
      match Table.find h.session s.fw.sessions with
      | none => refuseWith stDenied s
      | some x =>
        if 8 ≤ x.waits.length then refuseWith stNoRes s
        else
          let w : HeldWait := ⟨h.msgnum, ctx, gridid, if limit = 0 then none else some (limit * 1000000), h.src⟩
          let s1 := State.modFw s fun f =>
            { f with sessions := Table.alter h.session (fun x => { x with waits := x.waits ++ [w] }) f.sessions }
          { status := stOk, later := true, s := s1 }
    else
      match (State.ctx s ctx).done.find? fun c => c.gridid == gridid with
      | some c => { status := stOk, payload := .record c, s := s }
      | none => refuseWith stBadCmd s) s

/-- WAIT_TIMEOUT: the limit has passed (R466). -/
def execWaitTimeout (session msgnum : Nat) (s : State) : Host.Outcome State Fault Refusal :=
  match Table.find session s.fw.sessions with
  | none => .next s
  | some x =>
    if Hub.onHold s.hub then .next s
    else
      match x.waits.find? fun w => w.msgnum == msgnum with
      | none => .next s
      | some w =>
        if w.left = some 0 then
          .next (answer ⟨9, session, msgnum, stTimeout, .none, w.src⟩ (State.modFw s fun f =>
            { f with sessions := Table.alter session (fun x => { x with waits := x.waits.filter fun w => w.msgnum != msgnum })
                       f.sessions }))
        else .next s

/-! ## READ_COUNTERS (R470) -/

def perCore (s : State) (f : Core → Nat) : List Nat := (List.range 64).map fun c => f (State.core s c)
def perDie (s : State) (f : Die → Nat) : List Nat := (List.range 4).map fun d => f (State.die s d)

/-- PASSp (R418). -/
def passReg (s : State) (p : Nat) : Nat :=
  let x := State.pair s p
  State.passCount s (2 * p) + x.force.toNat * 2 ^ 3 + x.therm.toNat * 2 ^ 6 + (State.die s (p / 8)).chgVal.toNat * 2 ^ 9

/-- PWRSTAT (R409). -/
def pwrstat (h : Hub) : Nat := h.g + (if h.plan.isSome then 2 ^ 22 else 0) + h.pkg * 2 ^ 32

/-- XLERRk (R129). -/
def xlerr (c : Crossing) : Nat := c.rpl.toNat + if c.down then 2 ^ 32 else 0

/-- FQSTATd (R107). -/
def fqstat (d : Die) : Nat :=
  Die.fqCount d + if Die.posterWaits d then 2 ^ 12 else 0

/-- NQ (R433). -/
def nqReg (h : Hub) : Nat :=
  h.nqw.toNat + h.nqr.toNat * 2 ^ 8 + h.notices.length * 2 ^ 16 + if h.noticeWait.isEmpty then 0 else 2 ^ 25

/-- MXHANGc (R299). -/
def mxHang (c : Core) : Nat := (List.range 4).foldl (fun n u => n + (Core.mxUnit c u).stall.toNat * 2 ^ (16 * u)) 0

/-- The registers of a group, in the table's order. -/
def groupRegs (s : State) (group ctx : Nat) : Option (List Nat) :=
  let h := s.hub
  match group with
  | 1 => some ((List.range 24).map fun m => (State.unit s m).memerr.toNat)
  | 2 => some (perCore s fun c => c.sramerr.toNat)
  | 3 => some ((List.range 8).map fun k => xlerr (Table.get Crossing.start k s.crossings))
  | 4 => some (perCore s (fun c => c.ceerr.toNat) ++ perCore s (fun c => c.mxerr.toNat) ++ perCore s (fun c => c.faberr.toNat)
      ++ perCore s (fun c => c.balfail.toNat) ++ perDie s fun d => d.ekerr.toNat)
  | 5 => some ([pwrstat h, h.pgcfg.toNat] ++ (List.range 32).map (passReg s)
      ++ perDie s (fun d => (BitVec.ofInt 32 d.tokens).toNat) ++ perDie s fun d => d.coreclk.toNat)
  | 6 => some (perCore s (fun c => c.temp.toNat) ++ [h.thermcfg.toNat, h.triprsn.toNat])
  | 7 => some ([Hub.sched h, h.kick.toNat, nqReg h] ++ perDie s fqstat)
  | 8 => some ([h.pwrgov.toNat, h.passcfg.toNat, h.preempt.toNat] ++ perCore s (fun c => c.corerfl.toNat)
      ++ perDie s (fun d => d.chgNow.toNat + d.chgNom.toNat * 2 ^ 32) ++ perCore s mxHang)
  | 13 => let c := State.ctx s ctx
    some (((List.range 4).flatMap fun f => (List.range 8).map fun k => Ctx.range c k f)
      ++ ((List.range 16).map fun k => Ctx.route c k) ++ [c.svbase.toNat, c.svsize.toNat])
  | _ => none

/-- READ_COUNTERS: the unprivileged view holds groups 1 to 7 (R470). -/
def execReadCounters (h : MsgHead) (group ctx : Nat) (s : State) : Host.Outcome State Fault Refusal :=
  command 10 h .session true noWait (fun s =>
    let auth : Bool := match Table.find h.session s.fw.sessions with
      | some x => x.proved
      | none => false
    match groupRegs s group ctx with
    | none => refuseWith stBadCmd s
    | some rs =>
      if 8 ≤ group && !auth then refuseWith stDenied s
      else if group = 13 ∧ (Table.find ctx s.ctxs).isNone then refuseWith stBadCmd s
      else { status := stOk, payload := .counters rs, s := s }) s

/-! ## POWER_GROUP and RESET_UNIT (R468, R469) -/

/-- POWER_GROUP: PGCFG and the member list; PGEN = 0 forces EN to 0 (R468). -/
def execPowerGroup (h : MsgHead) (id stag gslew : Nat) (en : Bool) (members : Nat) (s : State) :
    Host.Outcome State Fault Refusal :=
  command 11 h .auth false noWait (fun s =>
    if 1024 ≤ id ∨ 16 ≤ stag ∨ 65536 ≤ gslew ∨ 2 ^ 1024 ≤ members then refuseWith stBadCmd s
    else
      { status := stOk
        s := State.modHub s fun h =>
          { h with pgcfg := BitVec.ofNat 64 (id + stag * 2 ^ 16 + gslew * 2 ^ 32 + if en && s.fw.pgen then 2 ^ 48 else 0)
                   members := BitVec.ofNat 1024 members } }) s

/-- RESET_UNIT_MRESET: MRESET of a unit from context 0 (R469, R299). -/
def execResetUnitMreset (h : MsgHead) (core unit : Nat) (s : State) : Host.Outcome State Fault Refusal :=
  command 12 h .auth false noWait (fun s =>
    if 64 ≤ core ∨ 4 ≤ unit then refuseWith stBadCmd s else { status := stOk, s := resetMx core unit s }) s

/-- Halt every team of a context without notice, and give up its unplaced and saved ones (R469). -/
def stopTeams (ctx : Nat) (s : State) : State :=
  let s1 := (teamsOfCtx s ctx).foldl (fun s k => State.modTeam s k fun t => { t with halted := true }) s
  (s1.grids.filter fun e => e.2.ctx == ctx).foldl (fun s e =>
    let g := e.2
    let s2 := g.saved.foldl (fun s v => match Table.find v s.saved with
      | none => s
      | some x => State.modCtx { s with saved := Table.del v s.saved } ctx fun c => { c with slots := NatSet.del x.slot c.slots }) s
    let s3 := State.modGrid s2 e.1 fun g =>
      { g with code := 4, saved := [], next := g.desc.nteam, ahead := [], ended := g.desc.nteam - g.running }
    leaveQueue e.1 s3) s1

/-- RESET_UNIT_STOP_CONTEXT: every team of the context stops; its grids complete with CODE 4 (R469). -/
def execResetUnitStopContext (h : MsgHead) (ctx : Nat) (s : State) : Host.Outcome State Fault Refusal :=
  command 12 h .auth false (.resetUnitStopContext h ctx) (fun s =>
    if (Table.find ctx s.ctxs).isNone then refuseWith stBadCmd s else { status := stOk, s := stopTeams ctx s }) s

/-- Write 0 to CE and UE. -/
def clearCounts (r : Dword) : Dword := r &&& ~~~(0xFFFFFFFF#64)

/-- RESET_UNIT_CLEAR_COUNTS (R469). -/
def execResetUnitClearCounts (h : MsgHead) (s : State) : Host.Outcome State Fault Refusal :=
  command 12 h .auth false noWait (fun s =>
    { status := stOk
      s := { s with
        units := s.units.map fun u => (u.1, { u.2 with memerr := clearCounts u.2.memerr })
        cores := s.cores.map fun c => (c.1, { c.2 with sramerr := clearCounts c.2.sramerr })
        crossings := s.crossings.map fun c => (c.1, { c.2 with rpl := 0 }) } }) s

/-- Steps that the Ethernet port brings. -/
def byEthernet : Instr → Bool
  | .fwStatus _ | .diagFailureRecord _ | .diagRerunStage5 _ | .sessionOpen _ _ | .sessionProve _ _ | .sessionClose _
  | .sessionCtxnew _ _ | .sessionCtxend _ _ | .fwMap _ _ | .fwUnmap _ _ _ _ | .loadConfig _ _ | .loadRoute _ _ _ _
  | .loadSavepool _ _ _ _ | .regenRegister _ _ _ _ | .hostLaunch _ _ _ _ | .hostWait _ _ _ _ | .readCounters _ _ _
  | .powerGroup _ _ _ _ _ _ | .resetUnitMreset _ _ _ | .resetUnitStopContext _ _ | .resetUnitClearCounts _
  | .resetUnitRetrainEthernet _ | .resetUnitRetrainStation _ _ | .fwAttest _ _ | .ipFragmentReceive _ | .arpRequest _ _
  | .neighbourDiscovery _ _ | .icmpEcho _ _ _ | .priorityFlowControl _ _ | .rdmaWrite _ _ _ _ | .rdmaRead _ _ _ _
  | .unknownOpcode _ => true
  | _ => false

/-- RESET_UNIT_RETRAIN_ETHERNET: messages in flight are lost, and the link forms anew (R469). -/
def execResetUnitRetrainEthernet (h : MsgHead) (s : State) : Host.Outcome State Fault Refusal :=
  command 12 h .auth false noWait (fun s =>
    { status := stOk
      s := State.modFw { s with inbox := s.inbox.filter fun i => !byEthernet i } fun f => { f with linkUp := false, partials := [], paused := [] } }) s

/-- The operation is an STR.strm. -/
def Op.isStream (o : Op) : Bool :=
  match decode o.log.w0 o.log.w1 with
  | .ok (.strStrm _) => true
  | _ => false

/-- The station by which a lane's request has left: by its line (R193), or that of its stream (R199). -/
def stationOf (s : State) (o : Op) (ctx f : Nat) : Nat :=
  let k := routeOf f
  let core := o.band / 64
  let peer := Ctx.route (State.ctx s ctx) k % 1024
  if Op.isStream o then
    streamStation (match Core.stream (State.core s core) k with
      | some x => if x.ctx = ctx then x.peer else peer
      | none => peer) k core
  else (f / 128 % 2 ^ 41 + peer) % 24

/-- The requests in flight by a station, with their lanes. -/
def inFlightBy (s : State) (station : Nat) : List (Nat × Nat) :=
  s.ops.flatMap fun o => o.2.accs.filterMap fun a =>
    match a.place, State.home s o.2.band with
    | .fabric f, some (_, _, g) =>
      if (a.stage == .waiting || a.stage == .translated) && stationOf s o.2 g.ctx f == station then some (o.1, a.lane) else none
    | _, _ => none

/-- A station trained anew: whether its link forms is not fixed (R473 stage 6; log 54). What had arrived and not been performed
is lost with the link (log 29). -/
def retrainStation (n : Nat) (s : State) : State :=
  let d := State.draw s
  State.modStation d.2 n fun t => { t with down := d.1 % 2 == 1, queue := [] }

/-- RESET_UNIT_RETRAIN_STATION: its requests in flight are answered NOROUTE, and it is trained anew (R469). -/
def execResetUnitRetrainStation (h : MsgHead) (station : Nat) (s : State) : Host.Outcome State Fault Refusal :=
  command 12 h .auth false noWait (fun s =>
    if 24 ≤ station then refuseWith stBadCmd s
    else
      { status := stOk
        s := retrainStation station
          ((inFlightBy s station).foldl (fun s p => took s (execRemoteResponse p.1 p.2 (.error errNoRoute) s)) s) }) s

/-! ## ATTEST, and opcodes no row names (R467, R461) -/

/-- The report of ATTEST, signed by the identity key (R467). -/
def attestReport (nonce : Nat) (s : State) : Payload :=
  let blob := Config.blobDigest s.fw.blob.applied
  let st := stateCode s.fw.power
  .report nonce Config.romDigest blob s.fw.blob.owner st Config.certificate
    (Config.signature nonce Config.romDigest blob s.fw.blob.owner st Config.certificate)

/-- ATTEST (R467). -/
def execFwAttest (h : MsgHead) (nonce : Nat) (s : State) : Host.Outcome State Fault Refusal :=
  command 13 h .any true noWait (fun s =>
    { status := stOk
      payload := attestReport nonce s
      s := s }) s

/-- Who may issue the command of an opcode; what may be sent without a session is STATUS, SESSION and ATTEST (R464). -/
def issuerOf (opcode : Nat) : Issuer :=
  if opcode = 1 ∨ opcode = 3 ∨ opcode = 13 then .any
  else if opcode = 4 ∨ opcode = 5 ∨ opcode = 7 ∨ opcode = 8 ∨ opcode = 9 ∨ opcode = 11 ∨ opcode = 12 then .auth
  else .session

/-- UNKNOWN_OPCODE: answered BADCMD (R461), as is a payload that no row of its command has (R491); DENIED to whoever may not
issue the command, and for an unknown one without a session (R463, R464); in the failure state NOTREADY, but for the commands
that execute there. -/
def execUnknownOpcode (m : RawMsg) (s : State) : Host.Outcome State Fault Refusal :=
  command m.opcode m.head (issuerOf m.opcode) (m.opcode == 1 || m.opcode == 10 || m.opcode == 13) noWait (refuseWith stBadCmd) s

end Sys2Proof.Machine
end

