-- ==== Sys2Proof/Machine/Message.lean ====
section
/-!
DEFINITION. A reassembled datagram as the message it holds (spec/19_firmware_host_fabric.md R458, R460, R464, R465, R467, R491).
-/
namespace Sys2Proof.Machine

/-! ## The port's addresses (R457, R458) -/

/-- The MAC address: 0x0A, and the first five bytes of the digest of the identity public key (R457). -/
def macAddress : List Byte := 0x0A :: (List.range 5).map Config.identityDigest

/-- Bytes as a number, the first the most significant. -/
def beNat (bs : List Byte) : Nat := bs.foldl (fun n b => n * 256 + b.toNat) 0

/-- The link-local address: fe80::/64 with the interface identifier that the modified EUI-64 rule forms from the MAC (R458). -/
def linkLocal : Nat :=
  let m := macAddress
  0xFE80 * 2 ^ 112 + beNat (m.take 3 ++ [0xFF, 0xFE] ++ m.drop 3) % 2 ^ 57 + (beNat (m.take 1) ^^^ 2) / 2 * 2 ^ 57

/-! ## The head of a message (R460) -/

structure Head where
  signed : Bool
  opcode : Nat
  session : Nat
  msgnum : Nat
  len : Nat
  /-- The other fields hold what R460 gives a request. -/
  sound : Bool
  deriving DecidableEq, Repr

/-- The head of a request, with its payload and signature of the lengths it says (R458, R460): none where the bytes are no
message, or are a reply. DESIGN CHOICE (log 37): MAGIC, RESP and the length tell a message; one of them that breaks R460 in
another field is malformed, and is answered BADMSG (R461). -/
def parseHead (m : List Byte) : Option Head :=
  let flags := fieldAt m 3 1
  let len := fieldAt m 0x18 4
  if fieldAt m 0 2 == 0x4846 && decide (32 ≤ m.length) && !flags.testBit 0
      && m.length == 32 + len + (if flags.testBit 1 then 64 else 0) then
    some ⟨flags.testBit 1, fieldAt m 4 2, fieldAt m 8 8, fieldAt m 0x10 8, len,
      fieldAt m 2 1 == 1 && decide (flags < 4) && zeroAt m 6 2 && zeroAt m 0x1C 4 && decide (len ≤ 8192)⟩
  else none

/-! ## Payloads (R464, R465, R491) -/

/-- The payload of SESSION (R491): none where it is no row's. -/
def parseSession (h : MsgHead) (p : List Byte) : Option Due :=
  if !zeroAt p 1 7 then none
  else
    match fieldAt p 0 1, p.length with
    | 1, 16 => if zeroAt p 9 7 then some (.sessionOpen h (fieldAt p 8 1)) else none
    | 2, 40 => some (.sessionProve h (fieldAt p 8 32))
    | 3, 8 => some (.sessionClose h)
    | 4, 16 => some (.sessionCtxnew h (fieldAt p 8 8))
    | 5, 16 => if zeroAt p 9 7 then some (.sessionCtxend h (fieldAt p 8 1)) else none
    | _, _ => none

/-- The payload of MAP (R465). -/
def parseMap (h : MsgHead) (p : List Byte) : Option Due :=
  if p.length = 0x1A ∧ zeroAt p 7 1 then
    some (.fwMap h
      { ctx := fieldAt p 0 1, k := fieldAt p 1 1, flags := fieldAt p 2 1, tier := fieldAt p 3 1, units := fieldAt p 4 2
        perm := fieldAt p 6 1, va := fieldAt p 8 8, len := fieldAt p 0x10 8, rgk := fieldAt p 0x18 2 })
  else none

/-- The configuration blob of a LOAD payload whose fields are `f` (R467); its layout is not given. -/
def blobOf (f : Nat → Nat) (p : List Byte) : Blob :=
  { owner := f 1, sigOk := Config.verifies (f 1) p, ips := (List.range (f 2 % 3)).map fun i => f (16 + i), vlan := f 3, prio := f 4
    id := f 5, keys := (List.range 8).map fun i => if (f 6).testBit i then some (f (32 + i)) else none, nsw := f 7
    coreclk := (List.range (f 8 % 5)).map (fun i => f (48 + i)), mtu := f 9 }

/-- The kinds of RESET_UNIT (R469). -/
def parseReset (h : MsgHead) (f : Nat → Nat) : Option Due :=
  match f 0 with
  | 1 => some (.resetUnitMreset h (f 1) (f 2))
  | 2 => some (.resetUnitStopContext h (f 1))
  | 3 => some (.resetUnitClearCounts h)
  | 4 => some (.resetUnitRetrainEthernet h)
  | 5 => some (.resetUnitRetrainStation h (f 1))
  | _ => none

/-- The kinds of LOAD (R464). -/
def parseLoad (h : MsgHead) (f : Nat → Nat) (p : List Byte) : Option Due :=
  match f 0 with
  | 1 => some (.loadConfig h (blobOf f p))
  | 2 => some (.loadRoute h (f 1) (f 2) (BitVec.ofNat 64 (f 3)))
  | 3 => some (.loadSavepool h (f 1) (BitVec.ofNat 64 (f 2)) (BitVec.ofNat 64 (f 3)))
  | _ => none

/-- The command of an opcode and a payload (R464): none where there is none. Payloads whose layout the spec does not give are
read by Config.payloadField (log 54). -/
def parseCommand (h : MsgHead) (opcode : Nat) (p : List Byte) : Option Due :=
  let f (i : Nat) : Nat := Config.payloadField opcode i p
  match opcode with
  | 1 => some (.fwStatus h)
  | 2 => match f 0 with
    | 1 => some (.diagFailureRecord h)
    | 2 => some (.diagRerunStage5 h)
    | _ => none
  | 3 => parseSession h p
  | 4 => parseMap h p
  | 5 => some (.fwUnmap h (f 0) (f 1) (f 2))
  | 6 => parseLoad h f p
  | 7 => some (.regenRegister h (f 0) (f 1) (BitVec.ofNat 64 (f 2)))
  | 8 => if p.length = 132 ∧ zeroAt p 2 2 then some (.hostLaunch h (fieldAt p 0 1) (fieldAt p 1 1) (p.drop 4)) else none
  | 9 => some (.hostWait h (f 0) (f 1) (f 2))
  | 10 => some (.readCounters h (f 0) (f 1))
  | 11 => some (.powerGroup h (f 0) (f 1) (f 2) (f 3 % 2 == 1) (f 4))
  | 12 => parseReset h f
  | 13 => if p.length = 32 then some (.fwAttest h (leNat p)) else none
  | _ => none

/-! ## A message (R458, R460, R462) -/

/-- The public key under which a session's messages are signed (R462, R467). -/
def sessionKey (s : State) (session : Nat) : Option Nat :=
  match Table.find session s.fw.sessions, s.fw.blob.applied with
  | some x, some b => x.key.bind fun k => b.keys.getD k none
  | _, _ => none

/-- What a datagram holds. -/
inductive Received where
  /-- A command, as the step that executes it. -/
  | due (d : Due)
  /-- A message with a malformed header: its opcode and head. -/
  | malformed (opcode : Nat) (h : MsgHead)
  | nothing
  deriving DecidableEq, Repr

/-- The message of a datagram to port 7216 (R458). -/
def readMessage (s : State) (src : Nat) (v6 : Bool) (tag : Option (Nat × Nat)) (udp : List Byte) : Received :=
  let m := udp.drop 8
  if beNat ((udp.drop 2).take 2) = 7216 ∧ beNat ((udp.drop 4).take 2) = udp.length then
    match parseHead m with
    | none => .nothing
    | some e =>
      let h : MsgHead :=
        { session := e.session, msgnum := e.msgnum, signed := e.signed
          sigOk := match sessionKey s e.session with
            | some k => Config.verifies k m
            | none => false
          src := ⟨src, v6, beNat (udp.take 2), tag⟩ }
      let p := (m.drop 32).take e.len
      if e.sound then .due ((parseCommand h e.opcode p).getD (.unknownOpcode ⟨h, e.opcode, e.len⟩)) else .malformed e.opcode h
  else .nothing

end Sys2Proof.Machine
end

