-- ==== Sys2Proof/Machine/Startup.lean ====
section
/-!
DEFINITION. Power-on, register writes, the Ethernet port, RDMA (spec/19_firmware_host_fabric.md R457 to R459, R467, R472,
R473, R476; spec/00_scope.md R6; spec/01_the_part.md R15; spec/05_memory_tiers_and_coherence.md R117).
-/
namespace Sys2Proof.Machine

/-! ## Power-on (R473, R476, R467) -/

/-- Frames of an HBM4 stack of 64 GiB (R15). -/
def stackFrames : Nat := 2 ^ 20

/-- Frames of a DIMM of `gib` GiB: 16 to 256 are supported, any other is absent (R117). -/
def dimmFrames (gib : Nat) : Nat := if 16 ≤ gib ∧ gib ≤ 256 then gib * 2 ^ 14 else 0

/-- The module of a channel, where there is exactly one, registered and with ECC (R117). -/
def fittedModule (dimms : List Module) (channel : Nat) : Option Module :=
  match dimms.filter fun d => d.channel == channel with
  | [d] => if d.registered && d.ecc then some d else none
  | _ => none

/-- The memory controllers as stage 3 finds them. -/
def powerUnits (dimms : List Module) : Table Unit_ :=
  (List.range 24).filterMap fun m =>
    let n := if m < 8 then stackFrames else ((fittedModule dimms (m - 8)).map fun d => dimmFrames d.gib).getD 0
    if n = 0 then none else some (m, ⟨n, 0, [], 0, 0⟩)

/-- Stations that stage 6 leaves down. -/
def powerStations (down : Nat) : Table Station :=
  (List.range 24).filterMap fun n => if down.testBit n then some (n, { Station.start with down := true }) else none

/-- The failure that ends power-on: stages 2 and 6 never fail (R473). -/
def realFailure (f : Option StageFailure) : Option StageFailure :=
  match f with
  | some x => if x.stage = 2 ∨ x.stage = 6 then none else some x
  | none => none

/-- The core clocks that a blob sets (R18, R467). -/
def powerDies (b : Option Blob) : Table Die :=
  match b with
  | none => []
  | some b => (List.range 4).map fun d => (d, { Die.start with coreclk := BitVec.ofNat 6 (Nat.min 63 (b.coreclk.getD d 32)) })

/-- What power-on keeps of the state before: the always-on register, the blob store and owner key; and what has left the
device or is on its way to it (R424, R467). -/
def freshState (s : State) (b : Option Blob) : State :=
  { State.reset with
    hub := { Hub.start with triprsn := s.hub.triprsn }
    fw := { Fw.start with blob := ⟨s.fw.blob.stored, b, s.fw.blob.owner⟩ }
    outbox := s.outbox, inbox := s.inbox, fresh := s.fresh }

/-- POWER_ON: the stages as the surroundings let them pass, up to the link (R473). After a failure at stage 1 the MAC alone
goes on; a stored blob whose signature fails is not applied. Firmware creates context 0 (R472). -/
def execPowerOn (env : PowerOnEnv) (s : State) : Host.Outcome State Fault Refusal :=
  let f := realFailure env.failure
  let strap (n : State) : State := State.modFw n fun w =>
    { w with boot := if env.boot % 4 = 3 then 0 else BitVec.ofNat 2 env.boot, plim := BitVec.ofNat 2 env.plim, pgen := env.pgen
             failure := f }
  match f with
  | some ⟨1, _, _, _, _⟩ => .next (safeState (State.modFw (strap (freshState s none)) fun w => { w with power := .failed 1, noCore := env.noCore }))
  | _ =>
    let b := if env.blobBad then none else s.fw.blob.stored
    let s1 := strap (freshState s b)
    let s2 := State.modHub s1 fun h => { h with pgcfg := match b with
      | some b => BitVec.ofNat 64 (b.id % 1024)
      | none => 0 }
    .next (State.modFw { s2 with
      units := powerUnits env.dimms, stations := powerStations env.stationsDown, dies := powerDies b
      ctxs := [(0, Ctx.start 0)] } fun w => { w with power := .booting 2 })

/-- ETHERNET_LINK_FORMED: the link is up; power-on, which repeats stage 2 until then, runs its later stages (R473). -/
def execEthernetLinkFormed (s : State) : Host.Outcome State Fault Refusal :=
  let s1 := State.modFw s fun w => { w with linkUp := true }
  match s.fw.power, s.fw.failure with
  | .booting 2, some f => .next (safeState (State.modFw s1 fun w => { w with power := .failed f.stage }))
  | .booting 2, none => .next (State.modFw s1 fun w => { w with power := .ready })
  | .booting _, _ => .next s
  | _, _ => .next s1

/-! ## Register writes (R6, R470) -/

/-- Bits written by 1 are cleared; the rest keeps its value. -/
def clearOnes (m : Nat) (old v : Dword) : Dword := old &&& ~~~(v &&& BitVec.ofNat 64 m)

/-- Bits of `m` take the value written; bits of `c` are cleared by 1; the others stay. -/
def writeBits {w : Nat} (m c : Nat) (old : BitVec w) (v : Dword) : BitVec w :=
  let x := v.setWidth w
  ((old &&& ~~~(BitVec.ofNat w m)) ||| (x &&& BitVec.ofNat w m)) &&& ~~~(x &&& BitVec.ofNat w c &&& ~~~(BitVec.ofNat w m))

/-- Bits of an error count register: CE and UE are written, SAT is cleared by 1. -/
def writeCount (old v : Dword) : Dword := writeBits (2 ^ 32 - 1) (2 ^ 32) old v

/-- A range or route register of a context, with its view page: firmware writes none while the context has a resident band or
a command in flight (R93, R471; log 52). -/
def writeCtx (ctx : Nat) (f : Ctx → Ctx) (s : State) : State :=
  if (Table.find ctx s.ctxs).isNone || ctxBusy s ctx then s else followView ctx none (State.modCtx s ctx f)

/-- A register of a context that exists. -/
def writeOwn (ctx : Nat) (f : Ctx → Ctx) (s : State) : State :=
  if (Table.find ctx s.ctxs).isNone then s else State.modCtx s ctx f

/-- A write of FRCTLc: a GO with ACT 3 does nothing and sets BAD (R442). -/
def writeFrctl (v : Dword) (old : Word) : Word :=
  let x := writeBits 0x37F (2 ^ 17) old v
  if v.getLsbD 16 ∧ v.toNat / 2 ^ 8 % 4 = 3 then x ||| BitVec.ofNat 32 (2 ^ 17) else x

/-- A core clock is written during power-on only (R18). -/
def writeClock (d : Nat) (v : Dword) (s : State) : State :=
  match s.fw.power with
  | .booting _ => State.modDie s d fun x => { x with coreclk := v.setWidth 6 }
  | _ => s

/-- Write one register of the privileged view. -/
def writeReg (r : RegName) (v : Dword) (s : State) : Option State :=
  let inCore (c : Nat) (f : Core → Core) : Option State := if c < 64 then some (State.modCore s c f) else none
  let inDie (d : Nat) (f : Die → Die) : Option State := if d < 4 then some (State.modDie s d f) else none
  let range (ctx k f m : Nat) : Option State :=
    if k < 8 then some (writeCtx ctx (fun c => { c with ranges := Table.set (4 * k + f) (maskBits m v) c.ranges }) s) else none
  match r with
  | .rgbase ctx k => range ctx k 0 (2 ^ 64 - 2 ^ 16)
  | .rglim ctx k => range ctx k 1 (2 ^ 64 - 2 ^ 16)
  | .rgcb ctx k => range ctx k 2 (2 ^ 48 - 2 ^ 16)
  | .rgctl ctx k => range ctx k 3 0xFF
  | .frt ctx k =>
    if k < 16 then some (writeCtx ctx (fun c => { c with routes := Table.set k (maskBits routeMask v) c.routes }) s) else none
  | .svbase ctx => some (writeOwn ctx (fun c => { c with svbase := maskBits svbaseMask v }) s)
  | .svsize ctx => some (writeOwn ctx (fun c => { c with svsize := maskBits svsizeMask v }) s)
  | .cptbase d => inDie d fun x => { x with cptbase := maskBits (2 ^ 37 - 2 ^ 23) v }
  | .mtinvArgs =>
    some (State.modHub s fun h => { h with mtinv := (v &&& mtinvFields) ||| (h.mtinv &&& 1) })
  | .memerr m => if m < 24 then some (State.modUnit s m fun u => { u with memerr := writeCount u.memerr v }) else none
  | .sramerr c => inCore c fun x => { x with sramerr := writeCount x.sramerr v }
  | .xlerr k =>
    if k < 8 then
      some { s with crossings := Table.set k { Table.get Crossing.start k s.crossings with rpl := v.setWidth 32 } s.crossings }
    else none
  | .ceerr c => inCore c fun x => { x with ceerr := clearOnes (2 ^ 32) x.ceerr v }
  | .mxerr c => inCore c fun x => { x with mxerr := clearOnes (2 ^ 32) x.mxerr v }
  | .faberr c => inCore c fun x => { x with faberr := clearOnes (2 ^ 32) x.faberr v }
  | .balfail c => inCore c fun x => { x with balfail := x.balfail &&& ~~~(v.setWidth 32 &&& 15) }
  | .ekerr d => inDie d fun x => { x with ekerr := clearOnes (2 ^ 32) x.ekerr v }
  | .cores c => inCore c fun x => { x with ceres := writeBits 0x11F (2 ^ 17) x.ceres v }
  | .ekres d => inDie d fun x => { x with ekres := writeBits 0x11F (2 ^ 17) x.ekres v }
  | .frctl c => inCore c fun x => { x with frctl := writeFrctl v x.frctl }
  | .corerfl c => inCore c fun x => { x with corerfl := (maskBits (2 ^ 23 - 1) v).setWidth 32 }
  | .pwrgov => some (State.modHub s fun h => { h with pwrgov := maskBits (0x1FF + (2 ^ 44 - 2 ^ 16)) v })
  | .passcfg => some (State.modHub s fun h => { h with passcfg := v.setWidth 32 })
  | .pass p => if p < 32 then some (State.modPair s p fun x => { x with force := BitVec.ofNat 3 (v.toNat / 2 ^ 3) }) else none
  | .pgcfg =>
    some (State.modHub s fun h =>
      { h with pgcfg := maskBits (0x3FF + 0xF0000 + (2 ^ 48 - 2 ^ 32) + if s.fw.pgen then 2 ^ 48 else 0) v })
  | .thermcfg => some (State.modHub s fun h => { h with thermcfg := (maskBits 0xFFFF v).setWidth 32 })
  | .triprsn => some (State.modHub s fun h => { h with triprsn := h.triprsn &&& ~~~(v.setWidth 32 &&& 1) })
  | .schedstat =>
    some (State.modHub s fun h => { h with schedstat := h.schedstat &&& ~~~(v.setWidth 32 &&& BitVec.ofNat 32 (8 + 2 ^ 17)) })
  | .preempt => some (State.modHub s fun h => { h with preempt := (maskBits (2 ^ 24 - 1) v).setWidth 32 })
  | .coreclk d => if d < 4 then some (writeClock d v s) else none

/-- REGISTER_WRITE: firmware writes a register (R6); a GO bit that starts an action is a step of its own. -/
def execRegisterWrite (r : RegName) (value : Dword) (s : State) : Host.Outcome State Fault Refusal :=
  match writeReg r value s with
  | some t => .next t
  | none => .fault .noAgent

/-! ## The Ethernet port (R457, R458) -/

/-- Fragments of one datagram. -/
def sameDatagram (f : IpFragment) (p : Partial_) : Bool :=
  p.src == f.src && p.ident == f.ident && p.parts.all fun g => g.dst == f.dst

/-- The device's addresses: link-local, and those a blob sets (R458; log 37). An IPv4 address lies below 2^32. -/
def ownAddress (s : State) (v6 : Bool) (a : Nat) : Bool :=
  (v6 && a == linkLocal) || (v6 == decide (2 ^ 32 ≤ a) && match s.fw.blob.applied with
    | some b => b.ips.elem a
    | none => false)

/-- The address at which messages are answered: by the MAC alone at the link-local one (R458, R473). -/
def answersAt (s : State) (v6 : Bool) (a : Nat) : Bool := if macOnly s then v6 && a == linkLocal else ownAddress s v6 a

/-- The IP packet of a fragment, which a frame of up to 9,216 bytes carries, and which has no extension header but the fragment
header (R457). DEDUCED (log 37): as an MTU of 9,216 bytes is allowed (R458), the limit counts the packet. -/
def packetOk (f : IpFragment) : Bool :=
  let head := if f.v6 then (if f.more || f.offset != 0 then 48 else 40) else 20
  !(f.v6 && f.ext) && decide (head + f.bytes.length ≤ 9216)

/-- Byte range of a fragment: offsets count 8 bytes. -/
def IpFragment.lo (f : IpFragment) : Nat := 8 * f.offset
def IpFragment.hi (f : IpFragment) : Nat := 8 * f.offset + f.bytes.length

/-- Every byte up to the last fragment's end has come. -/
def datagramWhole (fs : List IpFragment) : Bool :=
  match fs.find? fun f => !f.more with
  | none => false
  | some l => (List.range ((IpFragment.hi l + 7) / 8)).all fun i =>
      fs.any fun f => decide (IpFragment.lo f ≤ 8 * i) && decide (8 * i < IpFragment.hi f)

/-- The bytes of a whole datagram: each from the first fragment that has it. -/
def datagramBytes (fs : List IpFragment) : List Byte :=
  match fs.find? fun f => !f.more with
  | none => []
  | some l => (List.range (IpFragment.hi l)).map fun i =>
      match fs.find? fun f => decide (IpFragment.lo f ≤ i) && decide (i < IpFragment.hi f) with
      | some f => f.bytes.getD (i - IpFragment.lo f) 0
      | none => 0

/-- A malformed message is answered BADMSG and not executed (R461); the MAC alone discards it (R473). -/
def takeMalformed (opcode : Nat) (h : MsgHead) (s : State) : State :=
  if macOnly s then s else replyOnce opcode h stBadMsg .none (touchSession h.session s)

/-- The message of a whole datagram comes in; a datagram that holds none is discarded (R458). -/
def takeDatagram (f : IpFragment) (fs : List IpFragment) (s : State) : State :=
  match readMessage s f.src f.v6 f.tag (datagramBytes fs) with
  | .due d => { s with waiting := s.waiting ++ [d] }
  | .malformed n h => takeMalformed n h s
  | .nothing => s

/-- IP_FRAGMENT_RECEIVE: up to 16 partial datagrams of up to 9,216 bytes are held; a whole one leaves the store, and the
message it carries is executed as a step of its own (R458). What is not sent to an address of the device is not its. -/
def execIpFragmentReceive (f : IpFragment) (s : State) : Host.Outcome State Fault Refusal :=
  if !s.fw.linkUp || !answersAt s f.v6 f.dst || !packetOk f || 9216 < IpFragment.hi f then .next s
  else
    let old := s.fw.partials.find? (sameDatagram f)
    let rest := s.fw.partials.filter fun p => !sameDatagram f p
    let p : Partial_ := match old with
      | some p => { p with parts := p.parts ++ [f] }
      | none => ⟨f.src, f.ident, [f], 0⟩
    if datagramWhole p.parts then .next (takeDatagram f p.parts (State.modFw s fun w => { w with partials := rest }))
    else if old.isNone && 16 ≤ rest.length then .next s
    else .next (State.modFw s fun w => { w with partials := rest ++ [p] })

/-- REASSEMBLY_TIMEOUT: a datagram not complete within 1 s is discarded (R458). -/
def execReassemblyTimeout (src ident : Nat) (s : State) : Host.Outcome State Fault Refusal :=
  .next (State.modFw s fun w => { w with
    partials := w.partials.filter fun p => !(p.src == src && p.ident == ident && decide (1000000000 ≤ p.age)) })

/-- The port answers: the link is up and the device has begun to boot. -/
def portUp (s : State) : Bool := s.fw.linkUp

/-- ARP_REQUEST: answered, with the MAC, for an address a blob has set (R457, R458). -/
def execArpRequest (sender target : Nat) (s : State) : Host.Outcome State Fault Refusal :=
  if portUp s && ownAddress s false target then .next (sendFrame 0 (.arp sender target macAddress) s) else .next s

/-- ff02::1, the all-nodes address. -/
def allNodes : Nat := 0xFF02 * 2 ^ 112 + 1

/-- NEIGHBOUR_DISCOVERY: a solicitation of an own address is answered, with the MAC (R457, R458). -/
def execNeighbourDiscovery (sender target : Nat) (s : State) : Host.Outcome State Fault Refusal :=
  if portUp s && ownAddress s true target then .next (sendFrame 0 (.neighbour sender target macAddress) s) else .next s

/-- ICMP_ECHO: an echo to an own address or to all nodes is answered (R457, R458), where its packet fits a frame: 48 bytes of
IPv6 and ICMP heads, or 28 of IPv4. -/
def execIcmpEcho (sender target : Nat) (bytes : List Byte) (s : State) : Host.Outcome State Fault Refusal :=
  let v6 : Bool := decide (2 ^ 32 ≤ target)
  if portUp s && (ownAddress s v6 target || target == allNodes) && decide ((if v6 then 48 else 28) + bytes.length ≤ 9216) then
    .next (sendFrame 0 (.echo sender target bytes) s)
  else .next s

/-- What waited for its priority leaves in order. -/
def releaseFrames (prio : Nat) (s : State) : State :=
  (s.fw.paused.filter fun p => p.1 == prio).foldl (fun s p => State.send s p.2)
    (State.modFw s fun w => { w with paused := w.paused.filter fun p => p.1 != prio })

/-- PRIORITY_FLOW_CONTROL: the priority is paused, or released with what waited for it (R457). -/
def execPriorityFlowControl (prio : Nat) (pause : Bool) (s : State) : Host.Outcome State Fault Refusal :=
  if prio < 8 then
    let bit := BitVec.ofNat 8 (2 ^ prio)
    if pause then .next (State.modFw s fun w => { w with pause := w.pause ||| bit })
    else .next (releaseFrames prio (State.modFw s fun w => { w with pause := w.pause &&& ~~~bit }))
  else .next s

/-! ## RDMA (R459) -/

/-- The context that an R_Key names, where its value is that of an open session. -/
def rkeyCtx (s : State) (rkey : Nat) : Option Nat :=
  if s.fw.sessions.any (fun x => x.2.rkey == rkey / 2 ^ 8 % 2 ^ 24) && liveCtx s (rkey % 2 ^ 8) then some (rkey % 2 ^ 8) else none

/-- Lines of a range. -/
def lineCount (va n : Nat) : Nat := (va % 128 + n + 127) / 128

/-- Translate the pages of some accesses: whether one faults, and whether one has to wait (R99, R102). -/
def hubPages (write : Bool) : Option Nat → List HubNeed → State → Bool × Bool × State
  | _, [], s => (false, false, s)
  | last, n :: ns, s =>
    if last = some (n.c / 2 ^ 16) then hubPages write last ns s
    else
      match xlate n.die n.c (if write then .write else .read) s with
      | (.fault _ _, s1) => (true, false, s1)
      | (.ok _ _, s1) => hubPages write (some (n.c / 2 ^ 16)) ns s1
      | (_, s1) =>
        let r := hubPages write (some (n.c / 2 ^ 16)) ns s1
        (r.1, true, r.2.2)

/-- Lines of a transfer that the hub accesses at once. -/
def hubWindow : Nat := 64

/-- What a transfer comes to. -/
inductive Rdma where
  /-- A byte fails its check or its translation. -/
  | bad (s : State)
  | wait (s : State)
  /-- Every page is translated, and the first lines, as many as the window takes, are there. -/
  | go (ns : List HubNeed) (s : State)
  deriving DecidableEq, Repr

/-- Check and translate every byte of a transfer, and obtain its first lines (R459). -/
def rdmaLines (write : Bool) (rkey va n : Nat) (s : State) : Rdma :=
  match rkeyCtx s rkey with
  | none => .bad s
  | some ctx =>
    if 2 ^ 60 < va + n then .bad s
    else
      match hubNeeds s ctx (permRm + if write then permWr else permRd) (lineCount va n) va n with
      | none => .bad s
      | some ns =>
        match hubPages write none ns s with
        | (true, _, s1) => .bad s1
        | (false, true, s1) => .wait s1
        | (false, false, s1) =>
          match askHub write (ns.take hubWindow) s1 with
          | (some _, _, s2) => .bad s2
          | (none, true, s2) => .wait s2
          | (none, false, s2) => .go ns s2

/-- Bytes of the lines in the window. -/
def windowBytes (ns : List HubNeed) : Nat := (ns.take hubWindow).foldl (fun n x => n + x.n) 0

/-- A remote access error, or with `operational` a remote operational error after the packets sent (R459). -/
def rdmaNak (qp : Nat) (operational : Bool) (sent : List Byte) (s : State) : State := sendFrame 0 (.nak qp operational sent) s

/-- RDMA_WRITE: nothing is written unless every byte passes; the lines are written in order, and the last acknowledges it
(R459). DESIGN CHOICE (log 44): a page taken away while a long transfer goes on ends it by an error. -/
def execRdmaWrite (qp rkey va : Nat) (bytes : List Byte) (s : State) : Host.Outcome State Fault Refusal :=
  if 64 ≤ qp || !s.fw.linkUp || s.fw.power != .ready then .next s
  else
    match rdmaLines true rkey va bytes.length s with
    | .bad s1 => .next (rdmaNak qp false [] s1)
    | .wait s1 => .next (retry (.rdmaWrite qp rkey va bytes) s1)
    | .go ns s1 =>
      let s2 := hubWrite (ns.take hubWindow) bytes s1
      let m := windowBytes ns
      .next (if ns.length ≤ hubWindow then sendFrame 0 (.ack qp) s2 else retry (.rdmaWrite qp rkey (va + m) (bytes.drop m)) s2)

/-- A READ goes on from `va`, with the bytes `got` before it. -/
def readMore (qp rkey va len : Nat) (got : List Byte) (s : State) : State :=
  match rdmaLines false rkey va len s with
  | .bad s1 => rdmaNak qp false [] s1
  | .wait s1 => retry (.rdmaRead qp rkey va len got) s1
  | .go ns s1 =>
    let r := hubRead (ns.take hubWindow) s1
    let bs := got ++ r.1
    let m := windowBytes ns
    if r.2 then
      let mtu := 1024 * 2 ^ (Config.pathMtu qp % 3)
      rdmaNak qp true (bs.take (bs.length / mtu * mtu)) s1
    else if ns.length ≤ hubWindow then sendFrame 0 (.readData qp bs) s1
    else retry (.rdmaRead qp rkey (va + m) (len - m) bs) s1

/-- RDMA_READ: the bytes, a remote access error, or at poison a remote operational error after the packets before it (R459). -/
def execRdmaRead (qp rkey va len : Nat) (s : State) : Host.Outcome State Fault Refusal :=
  if 64 ≤ qp || !s.fw.linkUp || s.fw.power != .ready then .next s else .next (readMore qp rkey va len [] s)

end Sys2Proof.Machine
end

