-- ==== Sys2Proof/Machine/Recovery.lean ====
section
/-!
DEFINITION. What follows a failure: of a crossing, of Phobos, of Deimos (spec/05_memory_tiers_and_coherence.md R129;
spec/17_scheduling_tokens_power.md R427, R428).
-/
namespace Sys2Proof.Machine

/-! ## Crossings (R129) -/

/-- A crossing after one more flit received in error: the replay is counted, and 255 failed ones in a row take it down. -/
def Crossing.replayed (x : Crossing) : Crossing :=
  { rpl := if x.rpl = 0xFFFFFFFF then x.rpl else x.rpl + 1, fails := x.fails + 1, down := x.down || decide (254 ≤ x.fails) }

/-- Firmware stops every context, answering its WAITs, and accepts no launch until the next power-on. -/
def stopAll (s : State) : State :=
  let s1 := (s.ctxs.map Prod.fst).foldl (fun s c => stopCtx c s) s
  { s1 with
    fw := { s1.fw with noLaunch := true }
    ctxs := s1.ctxs.map fun e => (e.1, { e.2 with stopped := true }) }

/-- FLIT_CRC_REPLAY: a flit received in error is replayed and counted (R129). -/
def execFlitCrcReplay (crossing : Nat) (s : State) : Host.Outcome State Fault Refusal :=
  if 8 ≤ crossing then .fault .noAgent
  else
    let x := Table.get Crossing.start crossing s.crossings
    let y := Crossing.replayed x
    let s1 : State := { s with crossings := Table.set crossing y s.crossings }
    .next (if y.down && !x.down then stopAll s1 else s1)

/-! ## The scheduler cores (R427, R428) -/

/-- A LAUNCH that has begun and has not been performed. -/
def isLaunch : Due → Bool
  | .hostLaunch .. => true
  | _ => false

/-- Perform a journalled LAUNCH that has had no effect. -/
def redoLaunch (s : State) (d : Due) : State :=
  match d with
  | .hostLaunch h ctx q desc => took s (execHostLaunch h ctx q desc { s with waiting := s.waiting.erase d })
  | _ => s

/-- Set KICK for every queue that is not empty. -/
def kickAll (s : State) : State :=
  (List.range 8).foldl (fun s q =>
    if !(Table.get [] q s.hub.queues).isEmpty || (firstSaved s q).isSome then kickQueue q s else s) s

/-- SCHEDULER_TAKEOVER: the hub starts Deimos and holds completions; while it holds them, Deimos's steps (R427). The queues
are the dispatcher's own, and a grid is queued in the step that journals it: what is journalled without effect is a command
under way. Deimos performs the LAUNCHes among them, sets KICK, resumes draining the fault queues, and clears HOLD last. -/
def execSchedulerTakeover (cause : Nat) (s : State) : Host.Outcome State Fault Refusal :=
  if Hub.onHold s.hub then
    if s.hub.schedstat.getLsbD 17 then .next s
    else if s.fw.draining then
      .next (sendHeld (State.modFw (State.modHub s fun h => { h with schedstat := h.schedstat &&& ~~~(4#32) }) fun f =>
        { f with draining := false }))
    else
      let s1 := (s.waiting.filter isLaunch).foldl redoLaunch s
      if s1.waiting.any isLaunch then .next s1
      else .next (State.modFw (kickAll s1) fun f => { f with draining := true })
  else if s.hub.schedstat.getLsbD 0 then .next s
  else .next (State.modHub s fun h => { h with schedstat := BitVec.ofNat 32 (1 + 4 + 8 + cause % 16 * 16) })

/-- DEIMOS_FAILURE: with no standby left the device enters the failure state (R428, R473). -/
def execDeimosFailure (s : State) : Host.Outcome State Fault Refusal :=
  if s.hub.schedstat.getLsbD 0 then
    let s1 := State.modFw (State.modHub s fun h => { h with schedstat := h.schedstat ||| BitVec.ofNat 32 (2 ^ 17) })
      fun f => { f with power := .failed 0 }
    .next { safeState s1 with agenda := [], waiting := [], issue := none }
  else .next s

end Sys2Proof.Machine
end

