-- ==== Sys2Proof/Machine/Dispatch.lean ====
section
/-!
DEFINITION. The dispatch: one arm per constructor of Instr, each one direct call of its meaning.
-/
namespace Sys2Proof.Machine

def exec (i : Instr) (s : State) : Host.Outcome State Fault Refusal :=
  match i with
  | .smov o => Sys2Proof.Machine.execSmov o s
  | .smovi o => Sys2Proof.Machine.execSmovi o s
  | .saddS o => Sys2Proof.Machine.execSaddS o s
  | .saddSR o => Sys2Proof.Machine.execSaddSR o s
  | .saddSI o => Sys2Proof.Machine.execSaddSI o s
  | .ssubS o => Sys2Proof.Machine.execSsubS o s
  | .ssubSR o => Sys2Proof.Machine.execSsubSR o s
  | .ssubSI o => Sys2Proof.Machine.execSsubSI o s
  | .smulS o => Sys2Proof.Machine.execSmulS o s
  | .smulSR o => Sys2Proof.Machine.execSmulSR o s
  | .smulSI o => Sys2Proof.Machine.execSmulSI o s
  | .smulhS o => Sys2Proof.Machine.execSmulhS o s
  | .smulhSR o => Sys2Proof.Machine.execSmulhSR o s
  | .sdivS o => Sys2Proof.Machine.execSdivS o s
  | .sdivSR o => Sys2Proof.Machine.execSdivSR o s
  | .sdivSI o => Sys2Proof.Machine.execSdivSI o s
  | .sremS o => Sys2Proof.Machine.execSremS o s
  | .sremSR o => Sys2Proof.Machine.execSremSR o s
  | .sremSI o => Sys2Proof.Machine.execSremSI o s
  | .sandS o => Sys2Proof.Machine.execSandS o s
  | .sandSR o => Sys2Proof.Machine.execSandSR o s
  | .sandSI o => Sys2Proof.Machine.execSandSI o s
  | .sorS o => Sys2Proof.Machine.execSorS o s
  | .sorSR o => Sys2Proof.Machine.execSorSR o s
  | .sorSI o => Sys2Proof.Machine.execSorSI o s
  | .sxorS o => Sys2Proof.Machine.execSxorS o s
  | .sxorSR o => Sys2Proof.Machine.execSxorSR o s
  | .sxorSI o => Sys2Proof.Machine.execSxorSI o s
  | .sshlS o => Sys2Proof.Machine.execSshlS o s
  | .sshlSR o => Sys2Proof.Machine.execSshlSR o s
  | .sshlSI o => Sys2Proof.Machine.execSshlSI o s
  | .sshrS o => Sys2Proof.Machine.execSshrS o s
  | .sshrSR o => Sys2Proof.Machine.execSshrSR o s
  | .sshrSI o => Sys2Proof.Machine.execSshrSI o s
  | .ssraS o => Sys2Proof.Machine.execSsraS o s
  | .ssraSR o => Sys2Proof.Machine.execSsraSR o s
  | .ssraSI o => Sys2Proof.Machine.execSsraSI o s
  | .scmpI32S o => Sys2Proof.Machine.execScmpI32S o s
  | .scmpI32SR o => Sys2Proof.Machine.execScmpI32SR o s
  | .scmpI32SI o => Sys2Proof.Machine.execScmpI32SI o s
  | .scmpN32S o => Sys2Proof.Machine.execScmpN32S o s
  | .scmpN32SR o => Sys2Proof.Machine.execScmpN32SR o s
  | .scmpN32SI o => Sys2Proof.Machine.execScmpN32SI o s
  | .ssel o => Sys2Proof.Machine.execSsel o s
  | .sldc o => Sys2Proof.Machine.execSldc o s
  | .srdlane o => Sys2Proof.Machine.execSrdlane o s
  | .smovt o => Sys2Proof.Machine.execSmovt o s
  | .srd o => Sys2Proof.Machine.execSrd o s
  | .swr o => Sys2Proof.Machine.execSwr o s
  | .movV o => Sys2Proof.Machine.execMovV o s
  | .movVR o => Sys2Proof.Machine.execMovVR o s
  | .movi o => Sys2Proof.Machine.execMovi o s
  | .vmovs o => Sys2Proof.Machine.execVmovs o s
  | .iaddV o => Sys2Proof.Machine.execIaddV o s
  | .iaddVR o => Sys2Proof.Machine.execIaddVR o s
  | .iaddVI o => Sys2Proof.Machine.execIaddVI o s
  | .iaddc o => Sys2Proof.Machine.execIaddc o s
  | .isubV o => Sys2Proof.Machine.execIsubV o s
  | .isubVR o => Sys2Proof.Machine.execIsubVR o s
  | .isubVI o => Sys2Proof.Machine.execIsubVI o s
  | .imulV o => Sys2Proof.Machine.execImulV o s
  | .imulVR o => Sys2Proof.Machine.execImulVR o s
  | .imulVI o => Sys2Proof.Machine.execImulVI o s
  | .imulhV o => Sys2Proof.Machine.execImulhV o s
  | .imulhVR o => Sys2Proof.Machine.execImulhVR o s
  | .imad o => Sys2Proof.Machine.execImad o s
  | .iminV o => Sys2Proof.Machine.execIminV o s
  | .iminVR o => Sys2Proof.Machine.execIminVR o s
  | .iminVI o => Sys2Proof.Machine.execIminVI o s
  | .imaxV o => Sys2Proof.Machine.execImaxV o s
  | .imaxVR o => Sys2Proof.Machine.execImaxVR o s
  | .imaxVI o => Sys2Proof.Machine.execImaxVI o s
  | .iabsV o => Sys2Proof.Machine.execIabsV o s
  | .iabsVR o => Sys2Proof.Machine.execIabsVR o s
  | .inegV o => Sys2Proof.Machine.execInegV o s
  | .inegVR o => Sys2Proof.Machine.execInegVR o s
  | .isad o => Sys2Proof.Machine.execIsad o s
  | .icmpVR o => Sys2Proof.Machine.execIcmpVR o s
  | .icmpVI o => Sys2Proof.Machine.execIcmpVI o s
  | .isel o => Sys2Proof.Machine.execIsel o s
  | .shlV o => Sys2Proof.Machine.execShlV o s
  | .shlVR o => Sys2Proof.Machine.execShlVR o s
  | .shlVI o => Sys2Proof.Machine.execShlVI o s
  | .shrV o => Sys2Proof.Machine.execShrV o s
  | .shrVR o => Sys2Proof.Machine.execShrVR o s
  | .shrVI o => Sys2Proof.Machine.execShrVI o s
  | .sraV o => Sys2Proof.Machine.execSraV o s
  | .sraVR o => Sys2Proof.Machine.execSraVR o s
  | .sraVI o => Sys2Proof.Machine.execSraVI o s
  | .rotV o => Sys2Proof.Machine.execRotV o s
  | .rotVR o => Sys2Proof.Machine.execRotVR o s
  | .rotVI o => Sys2Proof.Machine.execRotVI o s
  | .lmux o => Sys2Proof.Machine.execLmux o s
  | .bfx o => Sys2Proof.Machine.execBfx o s
  | .bfi o => Sys2Proof.Machine.execBfi o s
  | .popcV o => Sys2Proof.Machine.execPopcV o s
  | .popcVR o => Sys2Proof.Machine.execPopcVR o s
  | .clzV o => Sys2Proof.Machine.execClzV o s
  | .clzVR o => Sys2Proof.Machine.execClzVR o s
  | .brevV o => Sys2Proof.Machine.execBrevV o s
  | .brevVR o => Sys2Proof.Machine.execBrevVR o s
  | .bytep o => Sys2Proof.Machine.execBytep o s
  | .faddV o => Sys2Proof.Machine.execFaddV o s
  | .faddVR o => Sys2Proof.Machine.execFaddVR o s
  | .fsubV o => Sys2Proof.Machine.execFsubV o s
  | .fsubVR o => Sys2Proof.Machine.execFsubVR o s
  | .fmulV o => Sys2Proof.Machine.execFmulV o s
  | .fmulVR o => Sys2Proof.Machine.execFmulVR o s
  | .fma o => Sys2Proof.Machine.execFma o s
  | .fminV o => Sys2Proof.Machine.execFminV o s
  | .fminVR o => Sys2Proof.Machine.execFminVR o s
  | .fmaxV o => Sys2Proof.Machine.execFmaxV o s
  | .fmaxVR o => Sys2Proof.Machine.execFmaxVR o s
  | .fcmp o => Sys2Proof.Machine.execFcmp o s
  | .fsel o => Sys2Proof.Machine.execFsel o s
  | .fclass o => Sys2Proof.Machine.execFclass o s
  | .frndV o => Sys2Proof.Machine.execFrndV o s
  | .frndVR o => Sys2Proof.Machine.execFrndVR o s
  | .cvt o => Sys2Proof.Machine.execCvt o s
  | .cvtsr o => Sys2Proof.Machine.execCvtsr o s
  | .pack o => Sys2Proof.Machine.execPack o s
  | .unpack o => Sys2Proof.Machine.execUnpack o s
  | .rcpV o => Sys2Proof.Machine.execRcpV o s
  | .rcpVR o => Sys2Proof.Machine.execRcpVR o s
  | .rsqV o => Sys2Proof.Machine.execRsqV o s
  | .rsqVR o => Sys2Proof.Machine.execRsqVR o s
  | .sqrtV o => Sys2Proof.Machine.execSqrtV o s
  | .sqrtVR o => Sys2Proof.Machine.execSqrtVR o s
  | .exp2V o => Sys2Proof.Machine.execExp2V o s
  | .exp2VR o => Sys2Proof.Machine.execExp2VR o s
  | .log2V o => Sys2Proof.Machine.execLog2V o s
  | .log2VR o => Sys2Proof.Machine.execLog2VR o s
  | .srngV o => Sys2Proof.Machine.execSrngV o s
  | .srngVR o => Sys2Proof.Machine.execSrngVR o s
  | .xpullV o => Sys2Proof.Machine.execXpullV o s
  | .xpullVR o => Sys2Proof.Machine.execXpullVR o s
  | .xpush o => Sys2Proof.Machine.execXpush o s
  | .xbcastVR o => Sys2Proof.Machine.execXbcastVR o s
  | .xbcastVI o => Sys2Proof.Machine.execXbcastVI o s
  | .xballot o => Sys2Proof.Machine.execXballot o s
  | .xany o => Sys2Proof.Machine.execXany o s
  | .xall o => Sys2Proof.Machine.execXall o s
  | .xpfx o => Sys2Proof.Machine.execXpfx o s
  | .kclr => Sys2Proof.Machine.execKclr s
  | .kaddV o => Sys2Proof.Machine.execKaddV o s
  | .kaddVR o => Sys2Proof.Machine.execKaddVR o s
  | .krnd o => Sys2Proof.Machine.execKrnd o s
  | .kscan o => Sys2Proof.Machine.execKscan o s
  | .ksave o => Sys2Proof.Machine.execKsave o s
  | .kload o => Sys2Proof.Machine.execKload o s
  | .ldNarrow o => Sys2Proof.Machine.execLdNarrow o s
  | .ldWide o => Sys2Proof.Machine.execLdWide o s
  | .stNarrow o => Sys2Proof.Machine.execStNarrow o s
  | .stB128 o => Sys2Proof.Machine.execStB128 o s
  | .ldsNarrow o => Sys2Proof.Machine.execLdsNarrow o s
  | .ldsWide o => Sys2Proof.Machine.execLdsWide o s
  | .stsNarrow o => Sys2Proof.Machine.execStsNarrow o s
  | .stsB128 o => Sys2Proof.Machine.execStsB128 o s
  | .atom o => Sys2Proof.Machine.execAtom o s
  | .red o => Sys2Proof.Machine.execRed o s
  | .atomr o => Sys2Proof.Machine.execAtomr o s
  | .ldr o => Sys2Proof.Machine.execLdr o s
  | .str o => Sys2Proof.Machine.execStr o s
  | .strStrm o => Sys2Proof.Machine.execStrStrm o s
  | .pref o => Sys2Proof.Machine.execPref o s
  | .prefb o => Sys2Proof.Machine.execPrefb o s
  | .cflush o => Sys2Proof.Machine.execCflush o s
  | .cinv o => Sys2Proof.Machine.execCinv o s
  | .gcvt o => Sys2Proof.Machine.execGcvt o s
  | .gtest o => Sys2Proof.Machine.execGtest o s
  | .tld o => Sys2Proof.Machine.execTld o s
  | .tst o => Sys2Proof.Machine.execTst o s
  | .tzero o => Sys2Proof.Machine.execTzero o s
  | .tfmt o => Sys2Proof.Machine.execTfmt o s
  | .mma o => Sys2Proof.Machine.execMma o s
  | .macq o => Sys2Proof.Machine.execMacq o s
  | .mrel o => Sys2Proof.Machine.execMrel o s
  | .mwait o => Sys2Proof.Machine.execMwait o s
  | .ard o => Sys2Proof.Machine.execArd o s
  | .awr o => Sys2Proof.Machine.execAwr o s
  | .mreset o => Sys2Proof.Machine.execMreset o s
  | .cpy o => Sys2Proof.Machine.execCpy o s
  | .cpy2 o => Sys2Proof.Machine.execCpy2 o s
  | .cpyt o => Sys2Proof.Machine.execCpyt o s
  | .cpyg o => Sys2Proof.Machine.execCpyg o s
  | .cpys o => Sys2Proof.Machine.execCpys o s
  | .cfill o => Sys2Proof.Machine.execCfill o s
  | .pkload o => Sys2Proof.Machine.execPkload o s
  | .pkq o => Sys2Proof.Machine.execPkq o s
  | .pku o => Sys2Proof.Machine.execPku o s
  | .pkstat o => Sys2Proof.Machine.execPkstat o s
  | .spawn o => Sys2Proof.Machine.execSpawn o s
  | .take o => Sys2Proof.Machine.execTake o s
  | .launch o => Sys2Proof.Machine.execLaunch o s
  | .cbset o => Sys2Proof.Machine.execCbset o s
  | .cbwait o => Sys2Proof.Machine.execCbwait o s
  | .bra o => Sys2Proof.Machine.execBra o s
  | .brc o => Sys2Proof.Machine.execBrc o s
  | .jmpx o => Sys2Proof.Machine.execJmpx o s
  | .jtab o => Sys2Proof.Machine.execJtab o s
  | .call o => Sys2Proof.Machine.execCall o s
  | .callx o => Sys2Proof.Machine.execCallx o s
  | .ret o => Sys2Proof.Machine.execRet o s
  | .rjset o => Sys2Proof.Machine.execRjset o s
  | .rjwait o => Sys2Proof.Machine.execRjwait o s
  | .rjdrop o => Sys2Proof.Machine.execRjdrop o s
  | .exit o => Sys2Proof.Machine.execExit o s
  | .nop o => Sys2Proof.Machine.execNop o s
  | .yield o => Sys2Proof.Machine.execYield o s
  | .bar o => Sys2Proof.Machine.execBar o s
  | .barset o => Sys2Proof.Machine.execBarset o s
  | .pharr o => Sys2Proof.Machine.execPharr o s
  | .phwait o => Sys2Proof.Machine.execPhwait o s
  | .waita o => Sys2Proof.Machine.execWaita o s
  | .dwait o => Sys2Proof.Machine.execDwait o s
  | .trap o => Sys2Proof.Machine.execTrap o s
  | .brk o => Sys2Proof.Machine.execBrk o s
  | .ecall o => Sys2Proof.Machine.execEcall o s
  | .phint o => Sys2Proof.Machine.execPhint o s
  | .tmarm o => Sys2Proof.Machine.execTmarm o s
  | .fence o => Sys2Proof.Machine.execFence o s
  | .pwint o => Sys2Proof.Machine.execPwint o s
  | .shadow o => Sys2Proof.Machine.execShadow o s
  | .fragq o => Sys2Proof.Machine.execFragq o s
  | .bandSelect core quarter upset => Sys2Proof.Machine.execBandSelect core quarter upset s
  | .clauseWaitRelease band lanes => Sys2Proof.Machine.execClauseWaitRelease band lanes s
  | .switchPoint band lanes => Sys2Proof.Machine.execSwitchPoint band lanes s
  | .longLatencyResultLands op lane => Sys2Proof.Machine.execLongLatencyResultLands op lane s
  | .storeAcknowledge op lane => Sys2Proof.Machine.execStoreAcknowledge op lane s
  | .sramRemoteAccess op lane => Sys2Proof.Machine.execSramRemoteAccess op lane s
  | .translationRequest die line excl => Sys2Proof.Machine.execTranslationRequest die line excl s
  | .translationWalk die page => Sys2Proof.Machine.execTranslationWalk die page s
  | .pageFaultResponse op => Sys2Proof.Machine.execPageFaultResponse op s
  | .faultRecordPost die => Sys2Proof.Machine.execFaultRecordPost die s
  | .faultRecordServe => Sys2Proof.Machine.execFaultRecordServe s
  | .regenComplete page => Sys2Proof.Machine.execRegenComplete page s
  | .accessBitScan => Sys2Proof.Machine.execAccessBitScan s
  | .pageMove page unit => Sys2Proof.Machine.execPageMove page unit s
  | .mtinvGo value => Sys2Proof.Machine.execMtinvGo value s
  | .mtinvComplete => Sys2Proof.Machine.execMtinvComplete s
  | .ffaddWrite unit value => Sys2Proof.Machine.execFfaddWrite unit value s
  | .fqtailWrite die value => Sys2Proof.Machine.execFqtailWrite die value s
  | .cohRdS msg ecc => Sys2Proof.Machine.execCohRdS msg ecc s
  | .cohRdX msg ecc => Sys2Proof.Machine.execCohRdX msg ecc s
  | .cohUpg msg => Sys2Proof.Machine.execCohUpg msg s
  | .cohPutM msg => Sys2Proof.Machine.execCohPutM msg s
  | .cohPutE msg => Sys2Proof.Machine.execCohPutE msg s
  | .cohFwd msg => Sys2Proof.Machine.execCohFwd msg s
  | .cohInv msg => Sys2Proof.Machine.execCohInv msg s
  | .cohData msg => Sys2Proof.Machine.execCohData msg s
  | .cohCmp msg => Sys2Proof.Machine.execCohCmp msg s
  | .cohFwdAck msg => Sys2Proof.Machine.execCohFwdAck msg s
  | .cohInvAck msg => Sys2Proof.Machine.execCohInvAck msg s
  | .cohPutAck msg => Sys2Proof.Machine.execCohPutAck msg s
  | .flitCrcReplay crossing => Sys2Proof.Machine.execFlitCrcReplay crossing s
  | .watchWake core g => Sys2Proof.Machine.execWatchWake core g s
  | .monitorPoll band lane => Sys2Proof.Machine.execMonitorPoll band lane s
  | .copyAccept core => Sys2Proof.Machine.execCopyAccept core s
  | .copyUnit core slot => Sys2Proof.Machine.execCopyUnit core slot s
  | .copyComplete core slot => Sys2Proof.Machine.execCopyComplete core slot s
  | .ceresResume core slot => Sys2Proof.Machine.execCeresResume core slot s
  | .ceresAbort core slot => Sys2Proof.Machine.execCeresAbort core slot s
  | .copyQuiesce core team => Sys2Proof.Machine.execCopyQuiesce core team s
  | .peerRequest r => Sys2Proof.Machine.execPeerRequest r s
  | .remoteResponse op lane ans => Sys2Proof.Machine.execRemoteResponse op lane ans s
  | .lateSplit band lanes => Sys2Proof.Machine.execLateSplit band lanes s
  | .streamOpen r => Sys2Proof.Machine.execStreamOpen r s
  | .streamFull r => Sys2Proof.Machine.execStreamFull r s
  | .streamData r => Sys2Proof.Machine.execStreamData r s
  | .streamClose station tag => Sys2Proof.Machine.execStreamClose station tag s
  | .streamAck ok sid tag => Sys2Proof.Machine.execStreamAck ok sid tag s
  | .streamBufferTimeout core route => Sys2Proof.Machine.execStreamBufferTimeout core route s
  | .streamIdleClose core route => Sys2Proof.Machine.execStreamIdleClose core route s
  | .streamReopenTimeout core route => Sys2Proof.Machine.execStreamReopenTimeout core route s
  | .mmaOperationStart core unit => Sys2Proof.Machine.execMmaOperationStart core unit s
  | .mmaStep core unit => Sys2Proof.Machine.execMmaStep core unit s
  | .matrixQuiesce core team => Sys2Proof.Machine.execMatrixQuiesce core team s
  | .enckeAccept die => Sys2Proof.Machine.execEnckeAccept die s
  | .keyStaging die slot => Sys2Proof.Machine.execKeyStaging die slot s
  | .pkqQuery die slot => Sys2Proof.Machine.execPkqQuery die slot s
  | .enckeRowGather die slot => Sys2Proof.Machine.execEnckeRowGather die slot s
  | .pkuQuery die slot => Sys2Proof.Machine.execPkuQuery die slot s
  | .enckeRowUpdate die slot => Sys2Proof.Machine.execEnckeRowUpdate die slot s
  | .enckeComplete die slot => Sys2Proof.Machine.execEnckeComplete die slot s
  | .pkstatStatusWrite die slot => Sys2Proof.Machine.execPkstatStatusWrite die slot s
  | .ekresResume die slot => Sys2Proof.Machine.execEkresResume die slot s
  | .ekresAbort die slot => Sys2Proof.Machine.execEkresAbort die slot s
  | .enckeQuiesce die team => Sys2Proof.Machine.execEnckeQuiesce die team s
  | .fenceComplete op => Sys2Proof.Machine.execFenceComplete op s
  | .rejoinDeadlockDetect band => Sys2Proof.Machine.execRejoinDeadlockDetect band s
  | .timerFire band => Sys2Proof.Machine.execTimerFire band s
  | .bandEnd band => Sys2Proof.Machine.execBandEnd band s
  | .barWatchdogExpiry band lane => Sys2Proof.Machine.execBarWatchdogExpiry band lane s
  | .waitaTimeout band lane => Sys2Proof.Machine.execWaitaTimeout band lane s
  | .counterWaitRelease band lanes => Sys2Proof.Machine.execCounterWaitRelease band lanes s
  | .teamPlace => Sys2Proof.Machine.execTeamPlace s
  | .kickWrite value => Sys2Proof.Machine.execKickWrite value s
  | .kickDepk2Timer => Sys2Proof.Machine.execKickDepk2Timer s
  | .gridComplete grid => Sys2Proof.Machine.execGridComplete grid s
  | .cbwaitPoll op => Sys2Proof.Machine.execCbwaitPoll op s
  | .coreBucketRefill die => Sys2Proof.Machine.execCoreBucketRefill die s
  | .governorHubCycle sample => Sys2Proof.Machine.execGovernorHubCycle sample s
  | .pwintIntentExpiry band => Sys2Proof.Machine.execPwintIntentExpiry band s
  | .passCountChargeAdjust die => Sys2Proof.Machine.execPassCountChargeAdjust die s
  | .thermalMigration core => Sys2Proof.Machine.execThermalMigration core s
  | .thermalPassFall core => Sys2Proof.Machine.execThermalPassFall core s
  | .thermalTrip dies => Sys2Proof.Machine.execThermalTrip dies s
  | .powerIntentSend => Sys2Proof.Machine.execPowerIntentSend s
  | .powerIntentReceive p => Sys2Proof.Machine.execPowerIntentReceive p s
  | .calendarAdvance => Sys2Proof.Machine.execCalendarAdvance s
  | .schedulerTakeover cause => Sys2Proof.Machine.execSchedulerTakeover cause s
  | .deimosFailure => Sys2Proof.Machine.execDeimosFailure s
  | .noticePost => Sys2Proof.Machine.execNoticePost s
  | .nqWrite value => Sys2Proof.Machine.execNqWrite value s
  | .fragReady core entry => Sys2Proof.Machine.execFragReady core entry s
  | .fragPoison core entry => Sys2Proof.Machine.execFragPoison core entry s
  | .fragDiscard core entry => Sys2Proof.Machine.execFragDiscard core entry s
  | .fragmentReplay core entry => Sys2Proof.Machine.execFragmentReplay core entry s
  | .fragFullResume core => Sys2Proof.Machine.execFragFullResume core s
  | .preemptBudgetExpiry team => Sys2Proof.Machine.execPreemptBudgetExpiry team s
  | .teamSave team => Sys2Proof.Machine.execTeamSave team s
  | .teamRestore saved core => Sys2Proof.Machine.execTeamRestore saved core s
  | .registerWrite r value => Sys2Proof.Machine.execRegisterWrite r value s
  | .powerOn env => Sys2Proof.Machine.execPowerOn env s
  | .fwStatus h => Sys2Proof.Machine.execFwStatus h s
  | .diagFailureRecord h => Sys2Proof.Machine.execDiagFailureRecord h s
  | .diagRerunStage5 h => Sys2Proof.Machine.execDiagRerunStage5 h s
  | .sessionOpen h key => Sys2Proof.Machine.execSessionOpen h key s
  | .sessionProve h nonce => Sys2Proof.Machine.execSessionProve h nonce s
  | .sessionClose h => Sys2Proof.Machine.execSessionClose h s
  | .sessionCtxnew h view => Sys2Proof.Machine.execSessionCtxnew h view s
  | .sessionCtxend h ctx => Sys2Proof.Machine.execSessionCtxend h ctx s
  | .fwMap h m => Sys2Proof.Machine.execFwMap h m s
  | .fwUnmap h ctx k kind => Sys2Proof.Machine.execFwUnmap h ctx k kind s
  | .loadConfig h b => Sys2Proof.Machine.execLoadConfig h b s
  | .loadRoute h ctx k value => Sys2Proof.Machine.execLoadRoute h ctx k value s
  | .loadSavepool h ctx base size => Sys2Proof.Machine.execLoadSavepool h ctx base size s
  | .regenRegister h ctx image arg => Sys2Proof.Machine.execRegenRegister h ctx image arg s
  | .hostLaunch h ctx queue desc => Sys2Proof.Machine.execHostLaunch h ctx queue desc s
  | .hostWait h ctx gridid limit => Sys2Proof.Machine.execHostWait h ctx gridid limit s
  | .waitTimeout session msgnum => Sys2Proof.Machine.execWaitTimeout session msgnum s
  | .readCounters h group ctx => Sys2Proof.Machine.execReadCounters h group ctx s
  | .powerGroup h id stag gslew en members => Sys2Proof.Machine.execPowerGroup h id stag gslew en members s
  | .resetUnitMreset h core unit => Sys2Proof.Machine.execResetUnitMreset h core unit s
  | .resetUnitStopContext h ctx => Sys2Proof.Machine.execResetUnitStopContext h ctx s
  | .resetUnitClearCounts h => Sys2Proof.Machine.execResetUnitClearCounts h s
  | .resetUnitRetrainEthernet h => Sys2Proof.Machine.execResetUnitRetrainEthernet h s
  | .resetUnitRetrainStation h station => Sys2Proof.Machine.execResetUnitRetrainStation h station s
  | .fwAttest h nonce => Sys2Proof.Machine.execFwAttest h nonce s
  | .sessionIdleTimeout session => Sys2Proof.Machine.execSessionIdleTimeout session s
  | .ipFragmentReceive f => Sys2Proof.Machine.execIpFragmentReceive f s
  | .reassemblyTimeout src ident => Sys2Proof.Machine.execReassemblyTimeout src ident s
  | .arpRequest sender target => Sys2Proof.Machine.execArpRequest sender target s
  | .neighbourDiscovery sender target => Sys2Proof.Machine.execNeighbourDiscovery sender target s
  | .icmpEcho sender target bytes => Sys2Proof.Machine.execIcmpEcho sender target bytes s
  | .priorityFlowControl prio pause => Sys2Proof.Machine.execPriorityFlowControl prio pause s
  | .rdmaWrite qp rkey va bytes => Sys2Proof.Machine.execRdmaWrite qp rkey va bytes s
  | .rdmaRead qp rkey va len => Sys2Proof.Machine.execRdmaRead qp rkey va len s
  | .contextSwitch ctx => Sys2Proof.Machine.execContextSwitch ctx s
  | .ethernetLinkFormed => Sys2Proof.Machine.execEthernetLinkFormed s
  | .unknownOpcode m => Sys2Proof.Machine.execUnknownOpcode m s

end Sys2Proof.Machine
end

