-- ==== Sys2Proof/Machine/Schedule.lean ====
section
/-!
DEFINITION. What happens next: the instruction of the group under issue, the step due in the cycle under way, or one of
the steps that can happen now, chosen freely (R489; log 4). A step can happen now when performing it changes something.
-/
namespace Sys2Proof.Machine

/-- A due step, performed: the meaning of the instruction of the same name. -/
def Due.run (d : Due) (s : State) : Host.Outcome State Fault Refusal :=
  match d with
  | .bandSelect core quarter upset => execBandSelect core quarter upset s
  | .clauseWaitRelease band lanes => execClauseWaitRelease band lanes s
  | .switchPoint band lanes => execSwitchPoint band lanes s
  | .longLatencyResultLands op lane => execLongLatencyResultLands op lane s
  | .storeAcknowledge op lane => execStoreAcknowledge op lane s
  | .sramRemoteAccess op lane => execSramRemoteAccess op lane s
  | .translationRequest die line excl => execTranslationRequest die line excl s
  | .translationWalk die page => execTranslationWalk die page s
  | .pageFaultResponse op => execPageFaultResponse op s
  | .faultRecordPost die => execFaultRecordPost die s
  | .faultRecordServe => execFaultRecordServe s
  | .regenComplete page => execRegenComplete page s
  | .accessBitScan => execAccessBitScan s
  | .pageMove page unit => execPageMove page unit s
  | .mtinvGo value => execMtinvGo value s
  | .mtinvComplete => execMtinvComplete s
  | .ffaddWrite unit value => execFfaddWrite unit value s
  | .fqtailWrite die value => execFqtailWrite die value s
  | .cohRdS msg ecc => execCohRdS msg ecc s
  | .cohRdX msg ecc => execCohRdX msg ecc s
  | .cohUpg msg => execCohUpg msg s
  | .cohPutM msg => execCohPutM msg s
  | .cohPutE msg => execCohPutE msg s
  | .cohFwd msg => execCohFwd msg s
  | .cohInv msg => execCohInv msg s
  | .cohData msg => execCohData msg s
  | .cohCmp msg => execCohCmp msg s
  | .cohFwdAck msg => execCohFwdAck msg s
  | .cohInvAck msg => execCohInvAck msg s
  | .cohPutAck msg => execCohPutAck msg s
  | .flitCrcReplay crossing => execFlitCrcReplay crossing s
  | .watchWake core g => execWatchWake core g s
  | .monitorPoll band lane => execMonitorPoll band lane s
  | .copyAccept core => execCopyAccept core s
  | .copyUnit core slot => execCopyUnit core slot s
  | .copyComplete core slot => execCopyComplete core slot s
  | .ceresResume core slot => execCeresResume core slot s
  | .ceresAbort core slot => execCeresAbort core slot s
  | .copyQuiesce core team => execCopyQuiesce core team s
  | .stationServe n => .next (serveStation n s)
  | .lateSplit band lanes => execLateSplit band lanes s
  | .streamBufferTimeout core route => execStreamBufferTimeout core route s
  | .streamIdleClose core route => execStreamIdleClose core route s
  | .streamReopenTimeout core route => execStreamReopenTimeout core route s
  | .mmaOperationStart core unit => execMmaOperationStart core unit s
  | .mmaStep core unit => execMmaStep core unit s
  | .matrixQuiesce core team => execMatrixQuiesce core team s
  | .enckeAccept die => execEnckeAccept die s
  | .keyStaging die slot => execKeyStaging die slot s
  | .pkqQuery die slot => execPkqQuery die slot s
  | .enckeRowGather die slot => execEnckeRowGather die slot s
  | .pkuQuery die slot => execPkuQuery die slot s
  | .enckeRowUpdate die slot => execEnckeRowUpdate die slot s
  | .enckeComplete die slot => execEnckeComplete die slot s
  | .pkstatStatusWrite die slot => execPkstatStatusWrite die slot s
  | .ekresResume die slot => execEkresResume die slot s
  | .ekresAbort die slot => execEkresAbort die slot s
  | .enckeQuiesce die team => execEnckeQuiesce die team s
  | .fenceComplete op => execFenceComplete op s
  | .rejoinDeadlockDetect band => execRejoinDeadlockDetect band s
  | .timerFire band => execTimerFire band s
  | .bandEnd band => execBandEnd band s
  | .barWatchdogExpiry band lane => execBarWatchdogExpiry band lane s
  | .waitaTimeout band lane => execWaitaTimeout band lane s
  | .counterWaitRelease band lanes => execCounterWaitRelease band lanes s
  | .teamPlace => execTeamPlace s
  | .kickWrite value => execKickWrite value s
  | .kickDepk2Timer => execKickDepk2Timer s
  | .gridComplete grid => execGridComplete grid s
  | .cbwaitPoll op => execCbwaitPoll op s
  | .coreBucketRefill die => execCoreBucketRefill die s
  | .governorHubCycle sample => execGovernorHubCycle sample s
  | .pwintIntentExpiry band => execPwintIntentExpiry band s
  | .passCountChargeAdjust die => execPassCountChargeAdjust die s
  | .thermalMigration core => execThermalMigration core s
  | .thermalPassFall core => execThermalPassFall core s
  | .thermalTrip dies => execThermalTrip dies s
  | .powerIntentSend => execPowerIntentSend s
  | .calendarAdvance => execCalendarAdvance s
  | .schedulerTakeover cause => execSchedulerTakeover cause s
  | .deimosFailure => execDeimosFailure s
  | .noticePost => execNoticePost s
  | .nqWrite value => execNqWrite value s
  | .fragReady core entry => execFragReady core entry s
  | .fragPoison core entry => execFragPoison core entry s
  | .fragDiscard core entry => execFragDiscard core entry s
  | .fragmentReplay core entry => execFragmentReplay core entry s
  | .fragFullResume core => execFragFullResume core s
  | .preemptBudgetExpiry team => execPreemptBudgetExpiry team s
  | .teamSave team => execTeamSave team s
  | .teamRestore saved core => execTeamRestore saved core s
  | .registerWrite r value => execRegisterWrite r value s
  | .powerOn env => execPowerOn env s
  | .fwStatus h => execFwStatus h s
  | .diagFailureRecord h => execDiagFailureRecord h s
  | .sessionOpen h key => execSessionOpen h key s
  | .sessionProve h nonce => execSessionProve h nonce s
  | .sessionClose h => execSessionClose h s
  | .loadConfig h b => execLoadConfig h b s
  | .readCounters h group ctx => execReadCounters h group ctx s
  | .powerGroup h id stag gslew en members => execPowerGroup h id stag gslew en members s
  | .fwAttest h nonce => execFwAttest h nonce s
  | .unknownOpcode m => execUnknownOpcode m s
  | .diagRerunStage5 h => execDiagRerunStage5 h s
  | .sessionCtxnew h view => execSessionCtxnew h view s
  | .sessionCtxend h ctx => execSessionCtxend h ctx s
  | .fwMap h m => execFwMap h m s
  | .fwUnmap h ctx k kind => execFwUnmap h ctx k kind s
  | .loadRoute h ctx k value => execLoadRoute h ctx k value s
  | .loadSavepool h ctx base size => execLoadSavepool h ctx base size s
  | .regenRegister h ctx image arg => execRegenRegister h ctx image arg s
  | .hostLaunch h ctx queue desc => execHostLaunch h ctx queue desc s
  | .hostWait h ctx gridid limit => execHostWait h ctx gridid limit s
  | .waitTimeout session msgnum => execWaitTimeout session msgnum s
  | .resetUnitMreset h core unit => execResetUnitMreset h core unit s
  | .resetUnitStopContext h ctx => execResetUnitStopContext h ctx s
  | .resetUnitClearCounts h => execResetUnitClearCounts h s
  | .resetUnitRetrainEthernet h => execResetUnitRetrainEthernet h s
  | .resetUnitRetrainStation h station => execResetUnitRetrainStation h station s
  | .sessionIdleTimeout session => execSessionIdleTimeout session s
  | .reassemblyTimeout src ident => execReassemblyTimeout src ident s
  | .rdmaWrite qp rkey va bytes => execRdmaWrite qp rkey va bytes s
  | .rdmaRead qp rkey va len got => .next (if s.fw.linkUp then readMore qp rkey va len got s else s)
  | .contextSwitch ctx => execContextSwitch ctx s
  | .ethernetLinkFormed => execEthernetLinkFormed s
  | .viewWrite ctx reply => execViewWrite ctx reply s

/-! ## The instruction of the group under issue (R43, R347) -/

/-- The group's instruction acts; a word that decodes to none gives ILLEGAL_INSN to every lane at the PC that is neither
exited nor parked (R43); a word that cannot be fetched gives what its fetch gives (R91, R105, R119); a word whose line is
in transit is fetched again, and the group has not issued. -/
def runIssue (iss : Issue) (s : State) : Host.Outcome State Fault Refusal :=
  match State.home s iss.band with
  | none => .next (endIssue iss (refund iss s))
  | some (b, _, g) =>
    let pc := iss.grp.pc
    let fails (va : Nat) (f : Fetch) : Host.Outcome State Fault Refusal :=
      .next (endIssue (Issue.issued iss) (fetchFails iss.band pc (lanesOf iss.grp.lanes) va f s))
    match instrOf s iss.band g.ctx pc iss.grp.replay with
    | .ok i => exec i s
    | .illegal =>
      .next (endIssue (Issue.issued iss) (deliverAll iss.band pc ((lanesHere b pc).map fun l => ⟨l, causeIllegalInsn, 0⟩) s))
    | .rangeProt va => fails va .rangeProt
    | .poison va => fails va .poison
    | .fault k e c va => fails va (.fault k e c)
    | .busy => .next (endIssue iss (askClause (iss.band / 1024) g.ctx pc.clause (refund iss s)))

/-! ## What can happen now -/

/-- Steps of the bands: waits, ends (R33, R359, R366, R380, R381). Switch points, watchdogs and the ends of intents come with
the cycles (R34, R376, R414). -/
def bandCands (s : State) : List Due :=
  s.bands.flatMap fun e =>
    (groupsWhere (fun y => Lane.eligible y && y.entry == .wait) e.2).map (fun p => .clauseWaitRelease e.1 (maskOf p.2))
      ++ (groupsWhere (fun y => match y.run with
        | .counter _ => true
        | _ => false) e.2).map (fun p => .counterWaitRelease e.1 (maskOf p.2))
      ++ [.rejoinDeadlockDetect e.1, .bandEnd e.1]
      ++ (List.range e.2.width).flatMap fun l => [.waitaTimeout e.1 l, .monitorPoll e.1 l]

/-- The line a waiting access needs (R99). -/
def lineCand (o : Op) (a : Acc) : List Due :=
  match a.place with
  | .mem c =>
    if a.stage == .waiting || a.stage == .translated then
      [.translationRequest (o.band / 1024) (c / 128) (OpKind.isWrite o.kind)] else []
  | _ => []

/-- Steps of the operations in flight (R37, R105, R143, R177, R337, R395). -/
def opCands (s : State) : List Due :=
  s.ops.flatMap fun e =>
    (e.2.accs.flatMap fun a => [.longLatencyResultLands e.1 a.lane, .storeAcknowledge e.1 a.lane, .sramRemoteAccess e.1 a.lane]
      ++ lineCand e.2 a)
      ++ [.pageFaultResponse e.1, .fenceComplete e.1, .cbwaitPoll e.1]

/-- A message's step, received without an error of a controller's code. -/
def msgCand (n : Nat) : MsgKind → Due
  | .rdS => .cohRdS n .clean
  | .rdX => .cohRdX n .clean
  | .upg => .cohUpg n
  | .putM => .cohPutM n
  | .putE => .cohPutE n
  | .fwd .. => .cohFwd n
  | .inv => .cohInv n
  | .data _ => .cohData n
  | .cmp => .cohCmp n
  | .fwdAck => .cohFwdAck n
  | .invAck => .cohInvAck n
  | .putAck => .cohPutAck n

/-- Steps of the dies: walks, fault posts, Encke fronts (R100, R107, R308 to R320). -/
def dieCands (s : State) : List Due :=
  s.msgs.map (fun e => msgCand e.1 e.2.kind)
    ++ (List.range 4).flatMap fun d =>
      let x := State.die s d
      x.walks.map (fun w => .translationWalk d w.page) ++ [.faultRecordPost d]
        ++ (if x.ekOffers.isEmpty then [] else [.enckeAccept d])
        ++ x.ek.flatMap fun e => [.keyStaging d e.1, .pkqQuery d e.1, .enckeRowGather d e.1, .pkuQuery d e.1,
          .enckeRowUpdate d e.1, .enckeComplete d e.1, .pkstatStatusWrite d e.1]

/-- Steps of the cores: wakes, copy engines, streams, matrix units, parked bands (R146, R152, R160, R200 to R202, R296,
R446). -/
def coreCands (s : State) : List Due :=
  s.cores.flatMap fun e =>
    e.2.wakes.map (fun w => .watchWake w.1 w.2)
      ++ (if e.2.offers.isEmpty then [] else [.copyAccept e.1])
      ++ e.2.copy.map (fun c => .copyComplete e.1 c.1)
      ++ e.2.streams.flatMap (fun r => [.streamBufferTimeout e.1 r.1, .streamIdleClose e.1 r.1, .streamReopenTimeout e.1 r.1])
      ++ e.2.mx.map (fun m => .mmaOperationStart e.1 m.1)
      ++ [.fragFullResume e.1]

/-- The step of a quiesce marker (R169, R300, R323). -/
def markCand (team m : Nat) : Due :=
  if m < 64 then .copyQuiesce m team else if m < 128 then .matrixQuiesce (m - 64) team else .enckeQuiesce (m - 128) team

/-- Steps of a requested save (R448, R450). -/
def saveCands (s : State) : List Due :=
  s.teams.flatMap fun e =>
    match e.2.save with
    | none => []
    | some r => (r.marks.getD []).map (markCand e.1) ++ [.preemptBudgetExpiry e.1, .teamSave e.1]

/-- A page move that firmware may begin: a page and a unit of its choice (R114; log 12). -/
def moveCand (s : State) : List Due :=
  match s.fw.pages[Config.free s.fresh % Nat.max 1 s.fw.pages.length]? with
  | some p => [.pageMove p.1 (Config.free (s.fresh + 1) % 24)]
  | none => []

/-- Steps of hub and firmware (R104, R107, R110, R111, R114, R392, R427, R433, R458, R462, R466). -/
def hubCands (s : State) : List Due :=
  s.grids.map (fun e => .gridComplete e.1)
    ++ [.noticePost, .faultRecordServe, .mtinvComplete, .accessBitScan]
    ++ (if Hub.onHold s.hub then [.schedulerTakeover 0] else [])
    ++ s.fw.regens.map (fun g => .regenComplete g.page)
    ++ s.fw.moves.map (fun m => .pageMove m.page 0)
    ++ moveCand s
    ++ s.fw.sessions.flatMap (fun e => .sessionIdleTimeout e.1 :: e.2.waits.map fun w => .waitTimeout e.1 w.msgnum)
    ++ s.fw.partials.map (fun p => .reassemblyTimeout p.src p.ident)
    ++ (s.stations.filter fun t => !t.2.queue.isEmpty).map fun t => .stationServe t.1

/-- What the sensors and meters give in the next hub cycle: each core's temperature, each die's charge and the draw are
free (R406, R417, R422; log 5); no stored code changes and no unit fails by itself: such upsets are inputs (log 45, log 53). -/
def freeSample (k : Nat) : HubSample :=
  { draw := Config.free k
    temps := (List.range 64).map fun c => (c, Config.free (k + 1 + c))
    charges := (List.range 4).map fun d => (d, Config.free (k + 65 + d))
    flips := [], mxfail := [] }

/-- Time: a core cycle of a die, a hub cycle (R403, R407). -/
def timeCands (s : State) : List Due :=
  (List.range 4).map (fun d => .coreBucketRefill d) ++ [.governorHubCycle (freeSample s.fresh)]

/-- Surroundings that give no more than power: no modules, straps 0 with PGEN, every station up, no stage failing (log 8). -/
def bareEnv : PowerOnEnv := ⟨[], 0, 0, true, 0, false, none, false⟩

/-- The steps that may be tried (R473 for a device that is not ready). -/
def cands (s : State) : List Due :=
  match s.fw.power with
  | .booting 1 => [.powerOn bareEnv]
  | .booting _ => [.ethernetLinkFormed]
  | .failed _ => if s.fw.linkUp then [] else [.ethernetLinkFormed]
  | .ready => bandCands s ++ opCands s ++ dieCands s ++ coreCands s ++ saveCands s ++ hubCands s ++ timeCands s

/-- Performing the step changes something. -/
def Due.able (s : State) (d : Due) : Bool :=
  match Due.run d s with
  | .next t => t != s
  | _ => true

/-- The steps that can happen now. -/
def enabled (s : State) : List Due := (cands s).filter (Due.able s)

/-- Which of `n` things happens: the only one, or a free choice (log 4). A choice also takes the numbers a sample or a move
was drawn with, so that none is drawn twice. -/
def choose (n : Nat) (s : State) : Nat × State :=
  if n = 1 then (0, s) else (Config.pick s.fresh % n, { s with fresh := s.fresh + 72 })

/-- One of the steps that can happen now, one that was put off, or the next input; nothing where there is none. -/
def runNext (s : State) : Host.Outcome State Fault Refusal :=
  let ds := enabled s ++ s.waiting
  let n := ds.length + (if s.inbox.isEmpty then 0 else 1)
  if n = 0 then .next s
  else
    let r := choose n s
    match ds[r.1]? with
    | some d => Due.run d { r.2 with waiting := r.2.waiting.erase d }
    | none =>
      match s.inbox with
      | i :: t => exec i { r.2 with inbox := t }
      | [] => .next s

end Sys2Proof.Machine
end

