-- ==== Sys2Proof/Machine/Step.lean ====
section
/-!
DEFINITION. One step of the package, and an instruction placed where the next step fetches it (log 1, log 4).
-/
namespace Sys2Proof.Machine

/-- One step: the group under issue acts, else the next step due in the cycle under way happens, else one of the steps
that can happen now. -/
def step (s : State) : Host.Outcome State Fault Refusal :=
  match s.issue with
  | some iss => runIssue iss s
  | none =>
    match s.agenda with
    | d :: ds => Due.run d { s with agenda := ds }
    | [] => runNext s

/-! ## An instruction placed for the next step -/

/-- Virtual address of the clause that holds the placed instruction. -/
def benchClause : Nat := 0x1000

/-- Context 1 with one range register: 2 MiB from address 0, every permission. -/
def benchCtx : Ctx := { Ctx.start 0 with ranges := [(1, 0x1FFFFF), (3, 0xFF)] }

/-- A clause header for one instruction (R29): NSLOT, and CLASS of its opcode. -/
def benchHdr (w : Nat) : Nat :=
  slotsOf w * 2 ^ 28 + (match classOf (w / 2 ^ 24 % 256) with
    | some .mem => 1
    | some .tile => 2
    | some .engine => 3
    | some .ctrl => 4
    | some .sys => 5
    | _ => 0) * 2 ^ 25

/-- A grid of one team of one band of 8 lanes, with 128 vector and 1,024 scalar registers and 32 tiles. -/
def benchGrid : Grid :=
  { ctx := 1, queue := 0
    desc := { image := benchClause, nteam := 1, gridid := 1, pbase := 0x100000, psize := 256, swz := 0, dies := 0, bwdog := 0
              param := 0, stat := 0, depk := 0, depgrid := 0, bmap := 0, bfirst := 0, bper := 0, bcnt := 0 }
    hdr := { flags := 0, entry := benchClause, trape := 0x2000, bwc := 0, vbud := 16, sbud := 128, rjd := 0, tiles := 32
             nbands := 1, nrole := 0, scratch := 0, roletab := 0, livetab := 0, nlive := 0, paramsz := 0, constsz := 0
             const := 0 }
    roles := [], live := [], params := [], consts := [], next := 1, ahead := [], saved := [], running := 1, ended := 0
    ndrop := 0, code := 0, met := true, held := false, regen := none, trapped := false }

def benchTeam : Team :=
  { grid := 0, num := 0, core := 0, pair := false, lb := 0, lbo := 0, tiles := []
    bars := (List.range 16).map fun n => (n, ⟨false, 8, 0, false⟩), pinned := false, halted := false, save := none
    placed := 0, ended := 0 }

/-- A band as it starts, its lanes in the clause at slot 0. -/
def benchBand : Band :=
  { team := 0, num := 0, width := 8, vbud := 128, sbud := 1024
    lanes := (List.range 8).map fun l => (l, { startLane l l benchClause with entry := .inside })
    s := [], dc := [], latch := [], ka := Ka.zero, fflags := 0, fmt := 0, lthresh := 1024, brun := 0, armed := false
    deadline := 0, shadow := false, seq := 0, age := 0, flr := 0, yf := false, intent := none, overflow := none, more := [], held := []
    busy := 0, stopped := false, record := none }

/-- The group of its 8 lanes. -/
def benchIssue (w : Nat) : Issue :=
  { band := 0, grp := ⟨0xFF, ⟨benchClause, 0⟩, benchHdr w, none, 0⟩, borrowed := false, second := none, upset := 0
    shadow := false, reeval := false, ready := 0xFF, done := 0, prior := none }

/-- A die with no copy and no transaction of a line. -/
def benchDie (line : Nat) (d : Die) : Die :=
  { d with l2 := Table.del line d.l2, wants := Table.del line d.wants, evict := Table.del line d.evict
           dir := Table.del line d.dir, waitq := [], hold := d.hold.filter (fun h => h.line != line), cptbase := 0 }

/-- The bytes of the line that starts with the clause of the placed word or words. -/
def benchBytes (w : Nat) : List Byte := natLe 4 (benchHdr (w % 2 ^ 32)) ++ natLe 8 w ++ List.replicate 116 0

/-- Die 0 with that line in its L2 and its directory. -/
def benchHome (w : Nat) (d : Die) : Die :=
  let x := benchDie (benchClause / 128) d
  { x with
    l2 := Table.set (benchClause / 128) ⟨.e, benchBytes w, 0⟩ x.l2
    dir := Table.set (benchClause / 128) ⟨some 0, [], none, 0, 2 ^ 21 + benchClause⟩ x.dir }

/-- The clause with the placed word or words, behind a page-table entry for 2 MiB of unit 0. -/
def benchDram (w : Nat) (m : Table Byte) : Table Byte :=
  Memory.store (Memory.store m 0 (natLe 8 (25 + 32 * 2 ^ 16))) (2 ^ 21 + benchClause) (benchBytes w)

/-- `s` with the instruction of bits `w` stored in a clause of a resident grid of context 1, whose one band issues it
next. -/
def State.withFetchWord (s : State) (nbits w : Nat) : State :=
  let w := w % 2 ^ nbits
  { s with
    bands := Table.set 0 benchBand s.bands, teams := Table.set 0 benchTeam s.teams, grids := Table.set 0 benchGrid s.grids
    ctxs := Table.set 1 benchCtx s.ctxs, nextKey := Nat.max 1 s.nextKey
    units := Table.set 0 { State.unit s 0 with frames := 2 ^ 20 } s.units
    dies := (List.range 4).map fun d =>
      (d, if d = 0 then benchHome w (State.die s 0) else benchDie (benchClause / 128) (State.die s d))
    msgs := s.msgs.filter fun m => m.2.line != benchClause / 128
    dram := benchDram w s.dram
    dramPoison := s.dramPoison.filter fun g => decide (2 ^ 21 + benchClause + 128 ≤ g)
    dramFlips := s.dramFlips.filter fun e => decide (2 ^ 21 + benchClause + 128 ≤ e.1)
    fw := { s.fw with power := .ready }
    agenda := [], issue := some (benchIssue (w % 2 ^ 32)) }

end Sys2Proof.Machine
end

