-- ==== Sys2Proof/Safety.lean ====
section
/-!
DEFINITION. The terms that claims are stated in: what a state keeps in every step, a run without a stop, an instruction
that acts at its issue and where its group goes then.
-/
namespace Sys2Proof.Machine

open Sys2Proof.Forms

/-! ## Memories and runs -/

/-- The three byte memories of the package are in their canonical form. -/
def State.memOk (s : State) : Prop := Memory.wf s.dram = true ∧ Memory.wf s.sram = true ∧ Memory.wf s.hubSram = true

/-- A state that `n` steps reach from `s` without a stop. -/
inductive Reaches : Nat → State → State → Prop where
  | zero (s : State) : Reaches 0 s s
  | succ {n : Nat} {s t u : State} : step s = .next t → Reaches n t u → Reaches (n + 1) s u

/-- No run from `s` stops with a fault or a refusal. -/
def NeverStops (s : State) : Prop := ∀ n t, Reaches n s t → ∃ u, step t = .next u

/-! ## An instruction at its issue -/

/-- Instruction `i` acts at its issue `x`: the group under issue is `x`'s, nothing holds it (R347, and the holds of its own chapter), no active lane takes a
cause (R77, `own` being the instruction's own causes), the copies of shadow mode agree (R369), and some lane is active. -/
structure Goes (i : Instr) (own : Own) (s : State) (iss : Issue) (x : Ix) : Prop where
  issue : s.issue = some iss
  index : indexOf s iss.band iss.grp (uses i).g = some x
  free : heldUp i x s = false
  ready : extraHold i x s = false
  clean : ∀ l ∈ x.act, causeOf i own x s l = none
  agree : mismatched i (uses i) iss (opcodeOf i) x.act = []
  active : x.act ≠ []

/-- The state once the instruction has left `t`: its lanes `ls` go to the next instruction (R348), and the issue ends. -/
def afterIssue (i : Instr) (iss : Issue) (x : Ix) (ls : List Nat) (t : State) : State :=
  endIssue (Issue.issued iss) (State.modBand t x.key (advance x (slotCount i) ls))

/-- The state after a short-latency instruction whose results are held until the switch point (R36). -/
def afterHeld (i : Instr) (iss : Issue) (x : Ix) (hs : List Held) (s : State) : State :=
  afterIssue i iss x x.sel (holdResults x.key hs (beginReplay x s))

/-! ## The values the rules of chapter 10 give, in plain arithmetic

`w` is the width, `x` and `y` are patterns below 2^w. These tables are written from the rules and share nothing with the
meanings but the operand forms. -/

/-- val(x) (R228). -/
def intOf (sg : Bool) (w x : Nat) : Int := if sg = true ∧ 2 ^ (w - 1) ≤ x then (x : Int) - ((2 ^ w : Nat) : Int) else (x : Int)

/-- wrap(y) (R228). -/
def wrapTo (w : Nat) (y : Int) : Nat := (y % ((2 ^ w : Nat) : Int)).toNat

/-- sat(y) where .sat is given, then wrap (R228). -/
def satTo (sg sat : Bool) (w : Nat) (y : Int) : Nat :=
  let lo : Int := if sg then -((2 ^ (w - 1) : Nat) : Int) else 0
  let hi : Int := if sg then ((2 ^ (w - 1) : Nat) : Int) - 1 else ((2 ^ w : Nat) : Int) - 1
  wrapTo w (if sat then max lo (min hi y) else y)

/-- IMM16 extended to `w` bits (R229). -/
def immTo (sg : Bool) (w : Nat) (x : BitVec 16) : Nat := if sg then (x.signExtend w).toNat else x.toNat

def bits (wide : Bool) : Nat := if wide then 64 else 32

/-- Bits [2w − 1:w] of the exact product (R233, R242). -/
def highHalf (sg : Bool) (w x y : Nat) : Nat := wrapTo w ((intOf sg w x * intOf sg w y) / ((2 ^ w : Nat) : Int))

/-- SDIV (R234). -/
def quotient (sg : Bool) (w x y : Nat) : Nat :=
  if y = 0 then 2 ^ w - 1
  else if sg = true ∧ x = 2 ^ (w - 1) ∧ y = 2 ^ w - 1 then x
  else wrapTo w ((intOf sg w x).tdiv (intOf sg w y))

/-- SREM (R234). -/
def remainder (sg : Bool) (w x y : Nat) : Nat :=
  if y = 0 then x
  else if sg = true ∧ x = 2 ^ (w - 1) ∧ y = 2 ^ w - 1 then 0
  else wrapTo w (intOf sg w x - (intOf sg w x).tdiv (intOf sg w y) * intOf sg w y)

/-- The three shifts and the rotation, by `n` modulo w (R233, R245). -/
def shiftLeft (w x n : Nat) : Nat := (x <<< (n % w)) % 2 ^ w
def shiftRight (w x n : Nat) : Nat := x >>> (n % w)
def shiftArith (w x n : Nat) : Nat := ((BitVec.ofNat w x).sshiftRight (n % w)).toNat
def rotateLeft (w x n : Nat) : Nat := ((BitVec.ofNat w x).rotateLeft (n % w)).toNat

/-- The six comparisons (R235, R244). -/
def holds (c : Cmp) (x y : Int) : Bool :=
  match c with
  | .eq => decide (x = y)
  | .ne => !decide (x = y)
  | .lt => decide (x < y)
  | .le => decide (x ≤ y)
  | .gt => decide (y < x)
  | .ge => decide (y ≤ x)

/-! ### Scalar results: the destination, its width, the value the band computes (R233 to R236) -/

abbrev ScalarRes : Type := Option (SReg × Bool × (Ix → Nat))

/-- Format S: SD is a source and the destination; `cw` is the width of SA. -/
def fmtS {τ : Type} (o : OpS τ) (wide cw : Bool) (f : Nat → Nat → Nat) : ScalarRes :=
  some (o.d, wide, fun x => f (x.sw wide o.d.val) (x.sw cw o.a.val))
def fmtSR {τ : Type} (o : OpSR τ) (wide cw : Bool) (f : Nat → Nat → Nat) : ScalarRes :=
  some (o.d, wide, fun x => f (x.sw wide o.a.val) (x.sw cw o.s.val))
def fmtSI (o : OpSI ITy) (f : Nat → Nat → Nat) : ScalarRes :=
  some (o.d, ITy.is64 o.ty, fun x => f (x.sw (ITy.is64 o.ty) o.a.val) (immTo (ITy.signed o.ty) (bits (ITy.is64 o.ty)) o.imm))

def scalarValue : Instr → ScalarRes
  | .smov o => some (o.d, Wd.is64 o.ty, fun x => x.sw (Wd.is64 o.ty) o.a.val)
  | .smovi o => some (o.d, false, fun x =>
      match o.ty with
      | .i32 => immTo true 32 o.imm
      | .n32 => o.imm.toNat
      | .hi => o.imm.toNat * 65536 + (x.s o.d.val).toNat % 65536)
  | .saddS o => fmtS o (Wd.is64 o.ty) (Wd.is64 o.ty) (fun p q => (p + q) % 2 ^ bits (Wd.is64 o.ty))
  | .saddSR o => fmtSR o (Wd.is64 o.ty) (Wd.is64 o.ty) (fun p q => (p + q) % 2 ^ bits (Wd.is64 o.ty))
  | .saddSI o => fmtSI o (fun p q => (p + q) % 2 ^ bits (ITy.is64 o.ty))
  | .ssubS o => fmtS o (Wd.is64 o.ty) (Wd.is64 o.ty) (fun p q => (p + 2 ^ bits (Wd.is64 o.ty) - q) % 2 ^ bits (Wd.is64 o.ty))
  | .ssubSR o => fmtSR o (Wd.is64 o.ty) (Wd.is64 o.ty) (fun p q => (p + 2 ^ bits (Wd.is64 o.ty) - q) % 2 ^ bits (Wd.is64 o.ty))
  | .ssubSI o => fmtSI o (fun p q => (p + 2 ^ bits (ITy.is64 o.ty) - q) % 2 ^ bits (ITy.is64 o.ty))
  | .smulS o => fmtS o (Wd.is64 o.ty) (Wd.is64 o.ty) (fun p q => p * q % 2 ^ bits (Wd.is64 o.ty))
  | .smulSR o => fmtSR o (Wd.is64 o.ty) (Wd.is64 o.ty) (fun p q => p * q % 2 ^ bits (Wd.is64 o.ty))
  | .smulSI o => fmtSI o (fun p q => p * q % 2 ^ bits (ITy.is64 o.ty))
  | .smulhS o => fmtS o (ITy.is64 o.ty) (ITy.is64 o.ty) (highHalf (ITy.signed o.ty) (bits (ITy.is64 o.ty)))
  | .smulhSR o => fmtSR o (ITy.is64 o.ty) (ITy.is64 o.ty) (highHalf (ITy.signed o.ty) (bits (ITy.is64 o.ty)))
  | .sdivS o => fmtS o (ITy.is64 o.ty) (ITy.is64 o.ty) (quotient (ITy.signed o.ty) (bits (ITy.is64 o.ty)))
  | .sdivSR o => fmtSR o (ITy.is64 o.ty) (ITy.is64 o.ty) (quotient (ITy.signed o.ty) (bits (ITy.is64 o.ty)))
  | .sdivSI o => fmtSI o (quotient (ITy.signed o.ty) (bits (ITy.is64 o.ty)))
  | .sremS o => fmtS o (ITy.is64 o.ty) (ITy.is64 o.ty) (remainder (ITy.signed o.ty) (bits (ITy.is64 o.ty)))
  | .sremSR o => fmtSR o (ITy.is64 o.ty) (ITy.is64 o.ty) (remainder (ITy.signed o.ty) (bits (ITy.is64 o.ty)))
  | .sremSI o => fmtSI o (remainder (ITy.signed o.ty) (bits (ITy.is64 o.ty)))
  | .sandS o => fmtS o (Wd.is64 o.ty) (Wd.is64 o.ty) (fun p q => p &&& q)
  | .sandSR o => fmtSR o (Wd.is64 o.ty) (Wd.is64 o.ty) (fun p q => p &&& q)
  | .sandSI o => fmtSI o (fun p q => p &&& q)
  | .sorS o => fmtS o (Wd.is64 o.ty) (Wd.is64 o.ty) (fun p q => p ||| q)
  | .sorSR o => fmtSR o (Wd.is64 o.ty) (Wd.is64 o.ty) (fun p q => p ||| q)
  | .sorSI o => fmtSI o (fun p q => p ||| q)
  | .sxorS o => fmtS o (Wd.is64 o.ty) (Wd.is64 o.ty) (fun p q => p ^^^ q)
  | .sxorSR o => fmtSR o (Wd.is64 o.ty) (Wd.is64 o.ty) (fun p q => p ^^^ q)
  | .sxorSI o => fmtSI o (fun p q => p ^^^ q)
  | .sshlS o => fmtS o (Wd.is64 o.ty) false (shiftLeft (bits (Wd.is64 o.ty)))
  | .sshlSR o => fmtSR o (Wd.is64 o.ty) false (shiftLeft (bits (Wd.is64 o.ty)))
  | .sshlSI o => fmtSI o (shiftLeft (bits (ITy.is64 o.ty)))
  | .sshrS o => fmtS o (Wd.is64 o.ty) false (shiftRight (bits (Wd.is64 o.ty)))
  | .sshrSR o => fmtSR o (Wd.is64 o.ty) false (shiftRight (bits (Wd.is64 o.ty)))
  | .sshrSI o => fmtSI o (shiftRight (bits (ITy.is64 o.ty)))
  | .ssraS o => fmtS o (Wd.is64 o.ty) false (shiftArith (bits (Wd.is64 o.ty)))
  | .ssraSR o => fmtSR o (Wd.is64 o.ty) false (shiftArith (bits (Wd.is64 o.ty)))
  | .ssraSI o => fmtSI o (shiftArith (bits (ITy.is64 o.ty)))
  | .scmpI32S o => fmtS o false false (fun p q => if holds o.ty (intOf true 32 p) (intOf true 32 q) then 1 else 0)
  | .scmpI32SR o => fmtSR o false false (fun p q => if holds o.ty (intOf true 32 p) (intOf true 32 q) then 1 else 0)
  | .scmpI32SI o => some (o.d, false, fun x =>
      if holds o.ty (intOf true 32 (x.sw false o.a.val)) (intOf true 32 (immTo true 32 o.imm)) then 1 else 0)
  | .scmpN32S o => fmtS o false false (fun p q => if holds o.ty (intOf false 32 p) (intOf false 32 q) then 1 else 0)
  | .scmpN32SR o => fmtSR o false false (fun p q => if holds o.ty (intOf false 32 p) (intOf false 32 q) then 1 else 0)
  | .scmpN32SI o => some (o.d, false, fun x =>
      if holds o.ty (intOf false 32 (x.sw false o.a.val)) (intOf false 32 (immTo false 32 o.imm)) then 1 else 0)
  | .ssel o => some (o.d, Wd.is64 o.ty, fun x =>
      if x.sw (Wd.is64 o.ty) o.d.val ≠ 0 then x.sw (Wd.is64 o.ty) o.a.val else x.sw (Wd.is64 o.ty) o.s.val)
  | .srdlane o => some (o.d, Wd.is64 o.ty, fun x =>
      if (x.s o.a.val).toNat < x.b.width then pairOf (Lane.reg (Band.lane x.peers (x.s o.a.val).toNat)) (Wd.is64 o.ty) o.c.val else 0)
  | _ => none

/-! ### Vector results: the destination, its width, the value of each active lane (R242 to R250, R257, R259, R269) -/

abbrev VectorRes : Type := Option (VReg × Bool × (Ix → Nat → Nat))

def fmtV {τ : Type} (o : OpV τ) (wide cw : Bool) (f : Nat → Nat → Nat) : VectorRes :=
  some (o.d, wide, fun x l => f (x.vw l wide o.a.val) (x.vw l cw o.b.val))
def fmtVR {τ : Type} (o : OpVR τ) (wide cw : Bool) (f : Nat → Nat → Nat) : VectorRes :=
  some (o.d, wide, fun x l => f (x.vw l wide o.a.val) (x.src l cw o.b))
def fmtVRs (o : OpVRs ITy) (f : Nat → Nat → Nat) : VectorRes :=
  some (o.d, ITy.is64 o.ty, fun x l => f (x.vw l (ITy.is64 o.ty) o.a.val) (x.src l (ITy.is64 o.ty) o.b))
def fmtVIs (o : OpVIs ITy) (f : Nat → Nat → Nat) : VectorRes :=
  some (o.d, ITy.is64 o.ty, fun x l => f (x.vw l (ITy.is64 o.ty) o.a.val) (immTo (ITy.signed o.ty) (bits (ITy.is64 o.ty)) o.imm))
def fmtVI {τ : Type} (o : OpVI τ) (wide sg : Bool) (f : Nat → Nat → Nat) : VectorRes :=
  some (o.d, wide, fun x l => f (x.vw l wide o.a.val) (immTo sg (bits wide) o.imm))
def oneV {τ : Type} (o : OpV1 τ) (wide dw : Bool) (f : Nat → Nat) : VectorRes :=
  some (o.d, dw, fun x l => f (x.vw l wide o.a.val))
def oneVR {τ : Type} (o : OpVR1 τ) (wide dw : Bool) (f : Nat → Nat) : VectorRes :=
  some (o.d, dw, fun x l => f (x.vw l wide o.a.val))
def oneVRs (o : OpVR1s ITy) (f : Nat → Nat) : VectorRes :=
  some (o.d, ITy.is64 o.ty, fun x l => f (x.vw l (ITy.is64 o.ty) o.a.val))

/-- An exact integer result of two sources, written by sat or wrap (R228, R242). -/
def exact2 (ty : ITy) (sat : Bool) (f : Int → Int → Int) (p q : Nat) : Nat :=
  satTo (ITy.signed ty) sat (bits (ITy.is64 ty)) (f (intOf (ITy.signed ty) (bits (ITy.is64 ty)) p) (intOf (ITy.signed ty) (bits (ITy.is64 ty)) q))
def exact1 (ty : ITy) (sat : Bool) (f : Int → Int) (p : Nat) : Nat :=
  satTo (ITy.signed ty) sat (bits (ITy.is64 ty)) (f (intOf (ITy.signed ty) (bits (ITy.is64 ty)) p))

/-- A pattern given by its bits. -/
def fromBits (w : Nat) (f : Nat → Bool) : Nat := (List.range w).foldr (fun i n => n + if f i then 2 ^ i else 0) 0

/-- Bit j of a 4-bit table at index 2·A[i] + b[i] (R246). -/
def tableBit (t : BitVec 4) (a b : Bool) : Bool := t.getLsbD ((if a then 2 else 0) + if b then 1 else 0)

/-- BFX (R247). -/
def extract (sg : Bool) (w a pos len : Nat) : Nat :=
  if len = 0 then 0
  else
    let f := a >>> pos % 2 ^ len
    if sg = true ∧ f.testBit (len - 1) then wrapTo w ((f : Int) - ((2 ^ len : Nat) : Int)) else f

/-- The number of 1 bits; the number of leading 0 bits (R248). -/
def onesIn (w x : Nat) : Nat := (List.range w).countP fun i => x.testBit i
def leadingZeros (w x : Nat) : Nat := ((List.range w).takeWhile fun i => !x.testBit (w - 1 - i)).length

/-- Byte j of BYTEP (R249). -/
def bytepByte (a b : Nat) (sel : BitVec 16) (j : Nat) : Nat :=
  let s := sel.toNat >>> (4 * j) % 16
  let z (k : Nat) : Nat := if k < 4 then a >>> (8 * k) % 256 else b >>> (8 * (k - 4)) % 256
  if s < 8 then z s else if 128 ≤ z (s - 8) then 255 else 0

def vectorValue : Instr → VectorRes
  | .movV o => oneV o (Wd.is64 o.ty) (Wd.is64 o.ty) (fun p => p)
  | .movVR o => oneVR o (Wd.is64 o.ty) (Wd.is64 o.ty) (fun p => p)
  | .movi o => some (o.d, false, fun x l =>
      match o.ty with
      | .i32 => immTo true 32 o.imm
      | .n32 => o.imm.toNat
      | .hi => o.imm.toNat * 65536 + (x.v l o.d.val).toNat % 65536)
  | .vmovs o => some (o.d, Wd.is64 o.ty, fun x _ => x.sw (Wd.is64 o.ty) o.s.val)
  | .iaddV o => fmtV o (ITy.is64 o.ty) (ITy.is64 o.ty) (exact2 o.ty false (· + ·))
  | .iaddVR o => fmtVRs o (exact2 o.ty o.sat (· + ·))
  | .iaddVI o => fmtVIs o (exact2 o.ty o.sat (· + ·))
  | .isubV o => fmtV o (ITy.is64 o.ty) (ITy.is64 o.ty) (exact2 o.ty false (· - ·))
  | .isubVR o => fmtVRs o (exact2 o.ty o.sat (· - ·))
  | .isubVI o => fmtVIs o (exact2 o.ty o.sat (· - ·))
  | .imulV o => fmtV o (ITy.is64 o.ty) (ITy.is64 o.ty) (exact2 o.ty false (· * ·))
  | .imulVR o => fmtVRs o (exact2 o.ty o.sat (· * ·))
  | .imulVI o => fmtVIs o (exact2 o.ty o.sat (· * ·))
  | .imulhV o => fmtV o (ITy.is64 o.ty) (ITy.is64 o.ty) (highHalf (ITy.signed o.ty) (bits (ITy.is64 o.ty)))
  | .imulhVR o => fmtVR o (ITy.is64 o.ty) (ITy.is64 o.ty) (highHalf (ITy.signed o.ty) (bits (ITy.is64 o.ty)))
  | .imad o => some (o.d, ITy.is64 o.ty, fun x l => satTo (ITy.signed o.ty) o.sat (bits (ITy.is64 o.ty))
      (intOf (ITy.signed o.ty) (bits (ITy.is64 o.ty)) (x.vw l (ITy.is64 o.ty) o.a.val) * intOf (ITy.signed o.ty) (bits (ITy.is64 o.ty)) (x.src l (ITy.is64 o.ty) o.b)
        + intOf (ITy.signed o.ty) (bits (ITy.is64 o.ty)) (x.vw l (ITy.is64 o.ty) o.c.val)))
  | .iminV o => fmtV o (ITy.is64 o.ty) (ITy.is64 o.ty) (exact2 o.ty false min)
  | .iminVR o => fmtVR o (ITy.is64 o.ty) (ITy.is64 o.ty) (exact2 o.ty false min)
  | .iminVI o => fmtVI o (ITy.is64 o.ty) (ITy.signed o.ty) (exact2 o.ty false min)
  | .imaxV o => fmtV o (ITy.is64 o.ty) (ITy.is64 o.ty) (exact2 o.ty false max)
  | .imaxVR o => fmtVR o (ITy.is64 o.ty) (ITy.is64 o.ty) (exact2 o.ty false max)
  | .imaxVI o => fmtVI o (ITy.is64 o.ty) (ITy.signed o.ty) (exact2 o.ty false max)
  | .iabsV o => oneV o (ITy.is64 o.ty) (ITy.is64 o.ty) (exact1 o.ty false (fun a => if a < 0 then -a else a))
  | .iabsVR o => oneVRs o (exact1 o.ty o.sat (fun a => if a < 0 then -a else a))
  | .inegV o => oneV o (ITy.is64 o.ty) (ITy.is64 o.ty) (exact1 o.ty false (fun a => -a))
  | .inegVR o => oneVRs o (exact1 o.ty o.sat (fun a => -a))
  | .isad o => some (o.d, ITy.is64 o.ty, fun x l =>
      let a := intOf (ITy.signed o.ty) (bits (ITy.is64 o.ty)) (x.vw l (ITy.is64 o.ty) o.a.val)
      let b := intOf (ITy.signed o.ty) (bits (ITy.is64 o.ty)) (x.src l (ITy.is64 o.ty) o.b)
      wrapTo (bits (ITy.is64 o.ty)) ((if a < b then b - a else a - b) + intOf (ITy.signed o.ty) (bits (ITy.is64 o.ty)) (x.vw l (ITy.is64 o.ty) o.c.val)))
  | .isel o => some (o.d, Wd.is64 o.ty, fun x l =>
      if x.pred l o.p then x.vw l (Wd.is64 o.ty) o.a.val else x.src l (Wd.is64 o.ty) o.b)
  | .shlV o => fmtV o (Wd.is64 o.ty) false (shiftLeft (bits (Wd.is64 o.ty)))
  | .shlVR o => fmtVR o (Wd.is64 o.ty) false (shiftLeft (bits (Wd.is64 o.ty)))
  | .shlVI o => fmtVI o (Wd.is64 o.ty) false (shiftLeft (bits (Wd.is64 o.ty)))
  | .shrV o => fmtV o (Wd.is64 o.ty) false (shiftRight (bits (Wd.is64 o.ty)))
  | .shrVR o => fmtVR o (Wd.is64 o.ty) false (shiftRight (bits (Wd.is64 o.ty)))
  | .shrVI o => fmtVI o (Wd.is64 o.ty) false (shiftRight (bits (Wd.is64 o.ty)))
  | .sraV o => fmtV o (Wd.is64 o.ty) false (shiftArith (bits (Wd.is64 o.ty)))
  | .sraVR o => fmtVR o (Wd.is64 o.ty) false (shiftArith (bits (Wd.is64 o.ty)))
  | .sraVI o => fmtVI o (Wd.is64 o.ty) false (shiftArith (bits (Wd.is64 o.ty)))
  | .rotV o => fmtV o (Wd.is64 o.ty) false (rotateLeft (bits (Wd.is64 o.ty)))
  | .rotVR o => fmtVR o (Wd.is64 o.ty) false (rotateLeft (bits (Wd.is64 o.ty)))
  | .rotVI o => fmtVI o (Wd.is64 o.ty) false (rotateLeft (bits (Wd.is64 o.ty)))
  | .lmux o => some (o.d, Wd.is64 o.ty, fun x l => fromBits (bits (Wd.is64 o.ty)) fun i =>
      let a := (x.vw l (Wd.is64 o.ty) o.a.val).testBit i
      let b := (x.src l (Wd.is64 o.ty) o.b).testBit i
      if (x.vw l (Wd.is64 o.ty) o.c.val).testBit i then tableBit o.f a b else tableBit o.h a b)
  | .bfx o => some (o.d, ITy.is64 o.ty, fun x l =>
      extract (ITy.signed o.ty) (bits (ITy.is64 o.ty)) (x.vw l (ITy.is64 o.ty) o.a.val) o.pos.val o.len.val)
  | .bfi o => some (o.d, Wd.is64 o.ty, fun x l => fromBits (bits (Wd.is64 o.ty)) fun i =>
      if o.pos.val ≤ i ∧ i < o.pos.val + o.len.val then (x.vw l (Wd.is64 o.ty) o.b.val).testBit (i - o.pos.val)
      else (x.vw l (Wd.is64 o.ty) o.a.val).testBit i)
  | .popcV o => oneV o (Wd.is64 o.ty) false (onesIn (bits (Wd.is64 o.ty)))
  | .popcVR o => oneVR o (Wd.is64 o.ty) false (onesIn (bits (Wd.is64 o.ty)))
  | .clzV o => oneV o (Wd.is64 o.ty) false (leadingZeros (bits (Wd.is64 o.ty)))
  | .clzVR o => oneVR o (Wd.is64 o.ty) false (leadingZeros (bits (Wd.is64 o.ty)))
  | .brevV o => oneV o (Wd.is64 o.ty) (Wd.is64 o.ty) (fun p => fromBits (bits (Wd.is64 o.ty)) fun i => p.testBit (bits (Wd.is64 o.ty) - 1 - i))
  | .brevVR o => oneVR o (Wd.is64 o.ty) (Wd.is64 o.ty) (fun p => fromBits (bits (Wd.is64 o.ty)) fun i => p.testBit (bits (Wd.is64 o.ty) - 1 - i))
  | .bytep o => some (o.d, false, fun x l =>
      let y := bytepByte (x.v l o.a.val).toNat (x.v l o.b.val).toNat o.sel
      y 0 + 256 * y 1 + 65536 * y 2 + 16777216 * y 3)
  | .fminV o => fmtV o (FTy.is64 o.ty) (FTy.is64 o.ty) (Fp.minmax false (Fp.tfFmt o.ty))
  | .fminVR o => fmtVR o (FTy.is64 o.ty) (FTy.is64 o.ty) (Fp.minmax false (Fp.tfFmt o.ty))
  | .fmaxV o => fmtV o (FTy.is64 o.ty) (FTy.is64 o.ty) (Fp.minmax true (Fp.tfFmt o.ty))
  | .fmaxVR o => fmtVR o (FTy.is64 o.ty) (FTy.is64 o.ty) (Fp.minmax true (Fp.tfFmt o.ty))
  | .fsel o => some (o.d, FTy.is64 o.ty, fun x l => Fp.element (Fp.tfFmt o.ty)
      (if Fp.fselHolds o.cmp (Fp.tfFmt o.ty) (x.vw l (FTy.is64 o.ty) o.c.val) then x.vw l (FTy.is64 o.ty) o.a.val else x.src l (FTy.is64 o.ty) o.b))
  | .xpullV o => some (o.d, Wd.is64 o.ty, fun x l =>
      pairOf (Lane.reg (Band.lane x.peers ((x.v l o.b.val).toNat % x.b.width))) (Wd.is64 o.ty) o.a.val)
  | .xpullVR o => some (o.d, Wd.is64 o.ty, fun x l =>
      pairOf (Lane.reg (Band.lane x.peers (x.src l false o.b % x.b.width))) (Wd.is64 o.ty) o.a.val)
  | .xbcastVR o => some (o.d, Wd.is64 o.ty, fun x _ =>
      pairOf (Lane.reg (Band.lane x.peers ((x.s o.s.val).toNat % x.b.width))) (Wd.is64 o.ty) o.a.val)
  | .xbcastVI o => some (o.d, Wd.is64 o.ty, fun x _ =>
      pairOf (Lane.reg (Band.lane x.peers (o.lane.val % x.b.width))) (Wd.is64 o.ty) o.a.val)
  | _ => none

/-- A condition bit written in each active lane (R244, R258, R260, R271). -/
def condValue : Instr → Option (CDst × (Ix → Nat → Bool))
  | .icmpVR o => some (o.d, fun x l => holds o.cmp (intOf (ITy.signed o.ty) (bits (ITy.is64 o.ty)) (x.vw l (ITy.is64 o.ty) o.a.val))
      (intOf (ITy.signed o.ty) (bits (ITy.is64 o.ty)) (x.src l (ITy.is64 o.ty) o.b)))
  | .icmpVI o => some (o.d, fun x l => holds o.cmp (intOf (ITy.signed o.ty) (bits (ITy.is64 o.ty)) (x.vw l (ITy.is64 o.ty) o.a.val))
      (intOf (ITy.signed o.ty) (bits (ITy.is64 o.ty)) (immTo (ITy.signed o.ty) (bits (ITy.is64 o.ty)) o.imm)))
  | .fcmp o => some (o.d, fun x l => Fp.fcmp o.cmp (Fp.tfFmt o.ty) (x.vw l (FTy.is64 o.ty) o.a.val) (x.src l (FTy.is64 o.ty) o.b))
  | .fclass o => some (o.d, fun x l => o.mask.getLsbD (Fp.classBit (Fp.tfFmt o.ty) (x.vw l (FTy.is64 o.ty) o.a.val)))
  | .xany o => some (o.d, fun x _ => x.act.any fun l => x.pred l o.p)
  | .xall o => some (o.d, fun x _ => x.act.all fun l => x.pred l o.p)
  | _ => none

/-! ### Rounded results: destination, width, rounding mode, value and flags from the random bits (R256 to R265) -/

abbrev RoundedRes : Type := Option (VReg × Bool × Rnd × (Ix → Nat → Nat → Nat × Fp.Flags))

/-- FADD, FSUB and FMUL: format V rounds to nearest, format VR by RND with SAT (R253, R256). -/
def roundV (o : OpV FTy) (op : Fp.FOp) : RoundedRes :=
  some (o.d, FTy.is64 o.ty, .rn, fun x l rb => Fp.arith op (Fp.tfFmt o.ty) (x.vw l (FTy.is64 o.ty) o.a.val)
    (x.vw l (FTy.is64 o.ty) o.b.val) 0 .rn false rb)
def roundVR (o : OpFR) (op : Fp.FOp) : RoundedRes :=
  some (o.d, FTy.is64 o.ty, o.rnd, fun x l rb => Fp.arith op (Fp.tfFmt o.ty) (x.vw l (FTy.is64 o.ty) o.a.val)
    (x.src l (FTy.is64 o.ty) o.b) 0 o.rnd o.sat rb)

def roundedValue : Instr → RoundedRes
  | .faddV o => roundV o .add
  | .faddVR o => roundVR o .add
  | .fsubV o => roundV o .sub
  | .fsubVR o => roundVR o .sub
  | .fmulV o => roundV o .mul
  | .fmulVR o => roundVR o .mul
  | .fma o => some (o.d, FTy.is64 o.ty, o.rnd, fun x l rb => Fp.arith .fma (Fp.tfFmt o.ty) (x.vw l (FTy.is64 o.ty) o.a.val)
      (x.src l (FTy.is64 o.ty) o.b) (x.vw l (FTy.is64 o.ty) o.c.val) o.rnd o.sat rb)
  | .frndV o => some (o.d, FTy.is64 o.ty, .rn, fun x l _ =>
      Fp.toIntegral (Fp.tfFmt o.ty) (x.vw l (FTy.is64 o.ty) o.a.val) .rn)
  | .frndVR o => some (o.d, FTy.is64 o.ty, o.rnd, fun x l _ =>
      Fp.toIntegral (Fp.tfFmt o.ty) (x.vw l (FTy.is64 o.ty) o.a.val) o.rnd)
  | .cvt o => some (o.d, TyCode.is64 o.dst, o.rnd, fun x l rb =>
      convert o.dst o.src o.rnd o.sat (x.vw l (TyCode.is64 o.src) o.a.val) rb)
  | .cvtsr o => some (o.d, TyCode.is64 o.dst, .sr, fun x l rb =>
      convert o.dst o.src .sr o.sat (x.vw l (TyCode.is64 o.src) o.a.val) rb)
  | .unpack o => some (o.d, false, .rn, fun x l rb =>
      convert o.dst o.src .rn false ((x.v l o.a.val).toNat >>> (TyCode.bits o.src * o.idx.val) % 2 ^ TyCode.bits o.src) rb)
  | _ => none

/-- The special functions: function, destination, source, rounding mode (R266). -/
def sfuForm : Instr → Option (Fp.Sfu × VReg × VReg × Rnd)
  | .rcpV o => some (.rcp, o.d, o.a, .rn)
  | .rcpVR o => some (.rcp, o.d, o.a, o.rnd)
  | .rsqV o => some (.rsq, o.d, o.a, .rn)
  | .rsqVR o => some (.rsq, o.d, o.a, o.rnd)
  | .sqrtV o => some (.sqrt, o.d, o.a, .rn)
  | .sqrtVR o => some (.sqrt, o.d, o.a, o.rnd)
  | .exp2V o => some (.exp2, o.d, o.a, .rn)
  | .exp2VR o => some (.exp2, o.d, o.a, o.rnd)
  | .log2V o => some (.log2, o.d, o.a, .rn)
  | .log2VR o => some (.log2, o.d, o.a, o.rnd)
  | _ => none

/-! ### Accesses: what a load, store or atomic names (R173 to R182), in plain arithmetic -/

/-- An access instruction: its kind, the bytes and address of each lane, what it stores and compares, its counter, scope,
order and destination registers; whether only the highest of the lanes that name the same bytes stores them (R180). -/
structure MemForm where
  kind : OpKind
  acc : AccessKind
  size : Nat
  addr : Ix → Nat → Nat
  data : Ix → Nat → List Byte
  cmp : Ix → Nat → List Byte
  dc : Dc
  scope : Scope
  order : Order
  regs : List Nat
  once : Bool

/-- The bytes of `n` registers from `r` up, the first lowest, little-endian; of the low `z` bytes where `z` is less. -/
def lowBytes (z : Nat) (v : Nat) : List Byte := (List.range z).map fun i => BitVec.ofNat 8 (v / 256 ^ i)
def regsValue (x : Ix) (l r n : Nat) : Nat := (List.range n).foldr (fun i v => (x.v l (r + i)).toNat + 2 ^ 32 * v) 0

/-- a(l) = SS pair + A pair + OFF8 × size, modulo 2^64 (R175). -/
def pairAddr (ss : SReg) (a : VReg) (off : Int) (x : Ix) (l : Nat) : Nat :=
  (((x.s ss.val).toNat + 2 ^ 32 * (x.s (ss.val + 1)).toNat + (x.v l a.val).toNat + 2 ^ 32 * (x.v l (a.val + 1)).toNat : Nat)
    + off : Int) % ((2 ^ 64 : Nat) : Int) |>.toNat
/-- a(l) of LDS and STS: the local form (SS + A + OFF8 × size) modulo 2^32, under the tag 0xF2 (R175). -/
def shortAddr (ss : SReg) (a : VReg) (off : Int) (x : Ix) (l : Nat) : Nat :=
  0xF200000000000000 + ((((x.s ss.val).toNat + (x.v l a.val).toNat : Nat) + off : Int) % ((2 ^ 32 : Nat) : Int)).toNat

def nySize (t : NTy) : Nat := match t with
  | .n8 | .i8 => 1
  | .n16 | .i16 => 2
def wySize (t : WTy) : Nat := match t with
  | .b32 => 4
  | .b64 => 8
  | .b128 => 16
def sySize (t : STy) : Nat := match t with
  | .b8 => 1
  | .b16 => 2
  | .b32 => 4
  | .b64 => 8
def aySize (t : AW) : Nat := match t with
  | .b32 => 4
  | .b64 => 8
  | .b128 => 16
def regsFrom (r z : Nat) : List Nat := (List.range (z / 4)).map fun j => r + j

def loadForm {τ : Type} (o : OpMem τ) (z n : Nat) (sg : Bool) (addr : Ix → Nat → Nat) : Option MemForm :=
  some ⟨.load o.d.val n sg, .load, z, addr, fun _ _ => [], fun _ _ => [], o.dc, o.scope, o.order,
    (List.range n).map fun j => o.d.val + j, false⟩
def storeForm {τ : Type} (o : OpMem τ) (z : Nat) (addr : Ix → Nat → Nat) : Option MemForm :=
  some ⟨.store, .store, z, addr, fun x l => lowBytes z (regsValue x l o.d.val ((z + 3) / 4)), fun _ _ => [], o.dc, o.scope,
    o.order, [], true⟩
/-- The operand stands in B, or above the comparison value of .cas (R181). -/
def atomForm (o : OpAtom) (ret : Bool) : Option MemForm :=
  let z := aySize o.aw
  some ⟨.atomic o.op o.sgn (if ret then some o.d.val else none), .atomic, z, pairAddr o.s o.a 0,
    fun x l => lowBytes z (regsValue x l (if o.op = .cas then o.b.val + z / 4 else o.b.val) (z / 4)),
    fun x l => if o.op = .cas then lowBytes z (regsValue x l o.b.val (z / 4)) else [],
    o.dc, o.scope, o.order, if ret then regsFrom o.d.val z else [], false⟩

def memForm : Instr → Option MemForm
  | .ldNarrow o => loadForm o (nySize o.ty) 1 (o.ty = .i8 || o.ty = .i16) (pairAddr o.s o.a (o.off.toInt * nySize o.ty))
  | .ldWide o => loadForm o (wySize o.ty) (wySize o.ty / 4) false (pairAddr o.s o.a (o.off.toInt * wySize o.ty))
  | .stNarrow o => storeForm o (sySize o.ty) (pairAddr o.s o.a (o.off.toInt * sySize o.ty))
  | .stB128 o => storeForm o 16 (pairAddr o.s o.a (o.off.toInt * 16))
  | .ldsNarrow o => loadForm o (nySize o.ty) 1 (o.ty = .i8 || o.ty = .i16) (shortAddr o.s o.a (o.off.toInt * nySize o.ty))
  | .ldsWide o => loadForm o (wySize o.ty) (wySize o.ty / 4) false (shortAddr o.s o.a (o.off.toInt * wySize o.ty))
  | .stsNarrow o => storeForm o (sySize o.ty) (shortAddr o.s o.a (o.off.toInt * sySize o.ty))
  | .stsB128 o => storeForm o 16 (shortAddr o.s o.a (o.off.toInt * 16))
  | .atom o => atomForm o true
  | .red o => atomForm o false
  | _ => none

/-- The value of `z` bytes after an atomic on the old value `m`, with operand `b` and comparison value `c` (R182). -/
def atomicResult (op : AOp) (sg : Bool) (z m b c : Nat) : Nat :=
  match op with
  | .add => (m + b) % 2 ^ (8 * z)
  | .min => if intOf sg (8 * z) b < intOf sg (8 * z) m then b else m
  | .max => if intOf sg (8 * z) m < intOf sg (8 * z) b then b else m
  | .and => m &&& b
  | .or => m ||| b
  | .xor => m ^^^ b
  | .exch => b
  | .cas => if m = c then b else m
  | .fadd => (Fp.arith .add (if z = 8 then .f64 else .f32) m b 0 .rn false 0).1
  | .fmin => Fp.minmax false (if z = 8 then .f64 else .f32) m b
  | .fmax => Fp.minmax true (if z = 8 then .f64 else .f32) m b

/-- LDR, STR and ATOMR (R194). -/
def fabricForm : Instr → Option MemForm
  | .ldr o => (loadForm o (wySize o.ty) (wySize o.ty / 4) false (pairAddr o.s o.a (o.off.toInt * wySize o.ty)))
  | .str o => (storeForm o (wySize o.ty) (pairAddr o.s o.a (o.off.toInt * wySize o.ty)))
  | .atomr o => atomForm o true
  | _ => none

/-! ## Commands of a session (R461 to R464) -/

/-- What a command of a session that begins leaves before its own effect: it is journalled and under way, and the session is
not idle (R426, R463). -/
def begun (h : MsgHead) (ctx : Option Nat) (s : State) : State :=
  State.modFw (journal (.command h.session h.msgnum) s) fun f =>
    { f with running := f.running ++ [⟨h.session, h.msgnum, ctx, 0⟩]
             sessions := Table.alter h.session (fun x => { x with idle := 0 }) f.sessions }

/-- The reply of a session's command of opcode `op`, kept with the session. -/
def replied (op : Nat) (h : MsgHead) (status : Nat) (p : Payload) (s : State) : State :=
  answer ⟨op, h.session, h.msgnum, status, p, h.src⟩ s

/-- The device is ready and the message is the next one of an open session `x` that may issue the command (R461 to R464). -/
structure Commands (h : MsgHead) (who : Issuer) (s : State) (x : Session) : Prop where
  ready : s.fw.power = .ready
  link : s.fw.linkUp = true
  named : h.session ≠ 0
  found : Table.find h.session s.fw.sessions = some x
  sound : h.signed = true → h.sigOk = true
  proof : x.proved = true → h.signed = true
  inTurn : h.msgnum = x.last + 1
  fresh : ∀ c ∈ s.fw.running, Running.of h c = false
  may : who = .auth → x.proved = true

/-- No command under way acts on the context (R463). -/
def CtxFree (s : State) (ctx : Nat) : Prop := ∀ c ∈ s.fw.running, c.ctx ≠ some ctx

end Sys2Proof.Machine
end

