-- ==== Sys2Proof/Certificates/Slice0/Obligations.lean ====
section
/-!
DEFINITION. The statements about this model, one definition each: reset and invariants, decoding and the step, what every
instruction does at its issue, what every device event does.
-/
open Sys2Proof Sys2Proof.Forms Sys2Proof.Machine

/-! ## Reset, memories, decoding, the step -/

/-- O1. What reset leaves, where the spec gives a value: TRIPRSN (R424), PGCFG (R419), MTINV (R98), NQ (R433), the error
registers of cores (R166, R197, R297, R141), dies (R321) and units (R121), and %cycles (R205) read 0, CHGABS.NOM 65,535 (R418),
the pass counts 1 (R417), THERMCFG 95 and 85 (R422). That no band, operation, message, cached line or issue stands at reset is
the model's choice (log 1, log 41). -/
def Obligations.ResetValues : Prop :=
  State.reset.hub.triprsn = 0 ∧ State.reset.hub.pgcfg = 0 ∧ State.reset.hub.thermcfg.toNat = 95 + 85 * 2 ^ 8
    ∧ State.reset.hub.mtinv = 0 ∧ State.reset.hub.nqr = 0
    ∧ (∀ c, (State.core State.reset c).ceerr = 0 ∧ (State.core State.reset c).faberr = 0 ∧ (State.core State.reset c).mxerr = 0
        ∧ (State.core State.reset c).sramerr = 0 ∧ (State.core State.reset c).cycles = 0)
    ∧ (∀ d, (State.die State.reset d).ekerr = 0 ∧ (State.die State.reset d).chgNom = 65535 ∧ (State.die State.reset d).l2 = [])
    ∧ (∀ m, (State.unit State.reset m).memerr = 0) ∧ (∀ p, (State.pair State.reset p).force = 1 ∧ (State.pair State.reset p).therm = 1)
    ∧ State.reset.bands = [] ∧ State.reset.ops = [] ∧ State.reset.msgs = [] ∧ State.reset.issue = none

/-- O2. The memories are in their canonical form at reset. The canonical form and the byte 0 of an unlisted address are the
model's choice (log 2, log 3). -/
def Obligations.ResetMemory : Prop := State.memOk State.reset

/-- O3. Every step keeps the memories of the package in their canonical form: addresses strictly rising, no listed byte
equal to what an unlisted address reads as. The form is the model's choice (log 2, log 3). -/
def Obligations.StepKeepsMemory : Prop := ∀ s t : State, State.memOk s → step s = .next t → State.memOk t

/-- O4. Decoding the encoded words of a well-formed instruction gives that instruction, every operand at every value. -/
def Obligations.DecodeEncode : Prop := ∀ i : Instr, wellFormed i = true → decodeBytes (encodeBytes i) = .ok (i, [])

/-- O5. A first word of opcode 0x00 or 0xF0 to 0xFF decodes to no instruction, no word decodes to one whose fields are
reserved or whose registers are misaligned, and the words of an instruction that decodes are the ones its encoding gives back, bit
for bit: an unassigned opcode, another L or X bit or a bit in an unused field decodes to nothing (R43, R45, R75). -/
def Obligations.DecodeRejects : Prop :=
  (∀ w0 w1 : Nat, w0 / 2 ^ 24 % 256 = 0 ∨ 0xF0 ≤ w0 / 2 ^ 24 % 256 → ∃ r, decode w0 w1 = .error r)
    ∧ (∀ (w0 w1 : Nat) (i : Instr), decode w0 w1 = .ok i → wellFormed i = true)
    ∧ (∀ (w0 w1 : Nat) (i : Instr), w0 < 2 ^ 32 → w1 < 2 ^ 32 → decode w0 w1 = .ok i →
      encode i = if slotsOf w0 = 2 then [BitVec.ofNat 32 w0, BitVec.ofNat 32 w1] else [BitVec.ofNat 32 w0])

/-- O6. The worked encodings of the spec decode to the instructions they stand for. -/
def Obligations.DecodeWords : Prop :=
  decode 0x23C28200 0x2860000C = .ok (.iaddVR ⟨⟨true, 2⟩, .i64, true, 10, 4, .sca 12⟩)
    ∧ decode 0x3480C082 0x1F901400 = .ok (.lmux ⟨⟨false, 7⟩, .w32, 3, 1, .vec 2, 5, 0xE, 0x8⟩)
    ∧ decode 0x43820100 0x04E01428 = .ok (.fma ⟨⟨false, 1⟩, .f32, .rz, true, 8, 2, .sca 40, 5⟩)
    ∧ decode 0x71A28200 0x89A82014 = .ok (.ldWide ⟨⟨false, 2⟩, .b64, .dev, .acq, some 2, 8, 10, 4, 20⟩)
    ∧ decode 0x78820109 0xA5E80004 = .ok (.atom ⟨⟨true, 1⟩, .add, .b32, false, .dev, .ar, some 2, 8, 2, 9, 4⟩)
    ∧ decode 0x90928008 0x88A4000C = .ok (.tld ⟨⟨false, 2⟩, true, .team, .acq, some 1, 5, 8, 12⟩)
    ∧ decode 0xB190300B 0xCC40000E = .ok (.pkq ⟨⟨false, 7⟩, some .team, 1, 12, 11⟩)
    ∧ decode 0x9A000002 0 = .ok (.mreset ⟨2⟩)
    ∧ decode 0xCD270003 0 = .ok (.bar ⟨⟨false, 7⟩, .sync, 3⟩)
    ∧ decode 0xBA805016 0xC0C0000E = .ok (.launch ⟨⟨false, 7⟩, some 3, 20, 22⟩)
    ∧ decode 0xD2070003 0 = .ok (.dwait ⟨⟨false, 7⟩, 3⟩)

/-- O7. A step with a group under issue runs the instruction its words decode to: fetched at the group's PC, whose slot i
stands 4 × (i + 1) bytes above its clause, or, for a replay, kept in the fragment's log. With no group under issue the next
due step of the cycle runs. The agenda is the model's order of steps (log 4). -/
def Obligations.StepRunsDecodedInstruction : Prop :=
  (∀ (s : State) (iss : Issue) (b : Band) (t : Team) (g : Grid) (w0 w1 : Nat) (i : Instr),
    s.issue = some iss → State.home s iss.band = some (b, t, g) → iss.grp.replay = none →
    fetchWord s (iss.band / 1024) g.ctx (iss.grp.pc.clause + 4 * (iss.grp.pc.slot + 1)) = .ok w0 →
    (slotsOf w0 = 2 → fetchWord s (iss.band / 1024) g.ctx (iss.grp.pc.clause + 4 * (iss.grp.pc.slot + 1) + 4) = .ok w1) →
    (slotsOf w0 ≠ 2 → w1 = 0) → decode w0 w1 = .ok i → step s = exec i s)
  ∧ (∀ (s : State) (iss : Issue) (b : Band) (t : Team) (g : Grid) (n : Nat) (f : Frag) (i : Instr),
    s.issue = some iss → State.home s iss.band = some (b, t, g) → iss.grp.replay = some n →
    Table.find n (State.core s (iss.band / 64)).frags = some f → decode f.log.w0 f.log.w1 = .ok i → step s = exec i s)
  ∧ (∀ (s : State) (d : Due) (ds : List Due), s.issue = none → s.agenda = d :: ds → step s = Due.run d { s with agenda := ds })

/-- O8. A word that decodes to no instruction gives ILLEGAL_INSN, with address 0, to every lane at the PC that is neither
exited nor parked, whatever its guard, and the issue ends (R43, R430). -/
def Obligations.IllegalWord : Prop :=
  ∀ (s : State) (iss : Issue) (b : Band) (t : Team) (g : Grid) (w0 w1 : Nat) (r : Reject),
    s.issue = some iss → State.home s iss.band = some (b, t, g) → iss.grp.replay = none →
    fetchWord s (iss.band / 1024) g.ctx (iss.grp.pc.clause + 4 * (iss.grp.pc.slot + 1)) = .ok w0 →
    (slotsOf w0 = 2 → fetchWord s (iss.band / 1024) g.ctx (iss.grp.pc.clause + 4 * (iss.grp.pc.slot + 1) + 4) = .ok w1) →
    (slotsOf w0 ≠ 2 → w1 = 0) → decode w0 w1 = .error r →
    step s = .next (endIssue (Issue.issued iss) (deliverAll iss.band iss.grp.pc
      (((List.range b.width).filter fun l => (Band.lane b l).run != .exited && (Band.lane b l).run != .parked
        && (Band.lane b l).pc == iss.grp.pc).map fun l => ⟨l, 0x01, 0⟩) s))

/-- O9. Where the guard is false in every selected lane, an instruction changes nothing but where its lanes stand: they go
to the next instruction (R44, R348); the replay of a fragment gives its counter back (R185). -/
def Obligations.GuardFalse : Prop :=
  ∀ (i : Instr) (s : State) (iss : Issue) (x : Ix), (encodeBody i).isSome = true → s.issue = some iss →
    indexOf s iss.band iss.grp (uses i).g = some x → heldUp i x s = false → extraHold i x s = false → x.act = [] →
    exec i s = .next (afterIssue i iss x x.sel
      (if Ix.again x then countDown x.key (counterOf i) (beginReplay x s) else beginReplay x s))

/-- O10. A group that a hold keeps gets its price back, and its instruction does nothing (R347, R405). The refund of a group
that holds after it was chosen is the model's reading (log 31). -/
def Obligations.HeldGroup : Prop :=
  ∀ (i : Instr) (s : State) (iss : Issue) (x : Ix), (encodeBody i).isSome = true → s.issue = some iss →
    indexOf s iss.band iss.grp (uses i).g = some x → (heldUp i x s || extraHold i x s) = true →
    exec i s = .next (endIssue iss (refund iss s))

/-! ## Results held to the switch point -/

/-- O11. Every scalar instruction of R233 to R238 completes, its value being that of the rules, one result for the band. -/
def Obligations.ScalarResults : Prop :=
  ∀ (i : Instr) (d : SReg) (wide : Bool) (f : Ix → Nat) (s : State) (iss : Issue) (x : Ix),
    scalarValue i = some (d, wide, f) → Goes i noCause s iss x →
    exec i s = .next (afterHeld i iss x (heldS (maskOf x.act) d.val wide (f x)) s)

/-- O12. Every vector instruction of R242 to R250, R257, R259 and R269 completes, its value in each active lane being that
of the rules. -/
def Obligations.VectorResults : Prop :=
  ∀ (i : Instr) (d : VReg) (wide : Bool) (f : Ix → Nat → Nat) (s : State) (iss : Issue) (x : Ix),
    vectorValue i = some (d, wide, f) → Goes i noCause s iss x →
    exec i s = .next (afterHeld i iss x (x.act.flatMap fun l => heldV l d.val wide (f x l)) s)

/-- O13. The instructions that write a condition bit (R244, R258, R260, R271), and IADDC, whose carry bit is 1 where
A + b + carry is 2^32 or more (R243). -/
def Obligations.ConditionResults : Prop :=
  (∀ (i : Instr) (d : CDst) (f : Ix → Nat → Bool) (s : State) (iss : Issue) (x : Ix),
    condValue i = some (d, f) → Goes i noCause s iss x →
    exec i s = .next (afterHeld i iss x (x.act.map fun l => .cond l d.val (f x l)) s))
  ∧ (∀ (o : OpIAddc) (s : State) (iss : Issue) (x : Ix), Goes (.iaddc o) noCause s iss x →
    exec (.iaddc o) s = .next (afterHeld (.iaddc o) iss x (x.act.flatMap fun l =>
      let n := x.vw l (ITy.is64 o.ty) o.a.val + x.src l (ITy.is64 o.ty) o.b
        + (if x.pred l ⟨false, o.k.castSucc⟩ then 1 else 0)
      heldV l o.d.val (ITy.is64 o.ty) (n % 2 ^ bits (ITy.is64 o.ty)) ++ [.cond l o.k.val (decide (2 ^ bits (ITy.is64 o.ty) ≤ n))]) s))

/-- O14. The moves to and from special registers, SLDC and SMOVT (R206, R237, R239): SLDC reads zero at and above CONSTSZ,
and takes MISALIGNED off its size, with the offset as the address; SRD reads the register at issue; SWR writes %fflags at once and %cycles, %spflag and
%lthresh at the switch point, %cycles with privilege. -/
def Obligations.SpecialAndConstant : Prop :=
  (∀ (o : OpSI Wd) (s : State) (iss : Issue) (x : Ix),
    (∀ l ∈ x.act, ((x.s o.a.val).toNat + o.imm.toNat) % 2 ^ 32 % (bits (Wd.is64 o.ty) / 8) = 0) →
    Goes (.sldc o) noCause s iss x →
    exec (.sldc o) s = .next (afterHeld (.sldc o) iss x (heldS (maskOf x.act) o.d.val (Wd.is64 o.ty)
      (leNat ((List.range (bits (Wd.is64 o.ty) / 8)).map fun i =>
        let a := ((x.s o.a.val).toNat + o.imm.toNat) % 2 ^ 32 + i
        if a < x.gr.hdr.constsz then Memory.read x.gr.consts a else 0))) s))
  ∧ (∀ (o : OpSI Wd) (s : State) (iss : Issue) (x : Ix),
    ((x.s o.a.val).toNat + o.imm.toNat) % 2 ^ 32 % (bits (Wd.is64 o.ty) / 8) ≠ 0 → s.issue = some iss →
    indexOf s iss.band iss.grp (uses (.sldc o)).g = some x → heldUp (.sldc o) x s = false → reservedReg (uses (.sldc o)) x = false →
    exec (.sldc o) s = .next (endIssue (Issue.issued iss) (deliverAll x.key x.pc
      ((x.sel.filter fun l => x.act.elem l).map fun l => ⟨l, 0x04, BitVec.ofNat 64 (((x.s o.a.val).toNat + o.imm.toNat) % 2 ^ 32)⟩)
      (State.modBand (beginReplay x s) x.key (advance x (slotCount (.sldc o)) (x.sel.filter fun l => !x.act.elem l))))))
  ∧ (∀ (o : OpSMovt) (s : State) (iss : Issue) (x : Ix), Goes (.smovt o) noCause s iss x →
    exec (.smovt o) s = .next (afterHeld (.smovt o) iss x [.shape (maskOf x.act) o.t.val (x.s o.a.val)] s))
  ∧ (∀ (o : OpSpecial) (r : SpecReg) (s : State) (iss : Issue) (x : Ix), specReg o.num = some r → Goes (.srd o) noCause s iss x →
    exec (.srd o) s = .next (afterHeld (.srd o) iss x
      (heldS (maskOf x.act) o.r.val (SpecReg.is64 r) (specialValue x (beginReplay x s) r)) s))
  ∧ (∀ (o : OpSpecial) (s : State) (iss : Issue) (x : Ix), Goes (.swr o) noCause s iss x → x.gr.ctx = 0 ∨ specReg o.num ≠ some .cycles →
    (specReg o.num = some .fflags → exec (.swr o) s = .next (afterIssue (.swr o) iss x x.sel
      (State.modBand (beginReplay x s) x.key fun b => { b with fflags := BitVec.setWidth 5 (x.s o.r.val) })))
    ∧ (specReg o.num = some .cycles →
      exec (.swr o) s = .next (afterHeld (.swr o) iss x [.special (maskOf x.act) .cycles (x.s o.r.val)] s))
    ∧ (specReg o.num = some .spflag →
      exec (.swr o) s = .next (afterHeld (.swr o) iss x [.special (maskOf x.act) .spflag (x.s o.r.val)] s))
    ∧ (specReg o.num = some .lthresh →
      exec (.swr o) s = .next (afterHeld (.swr o) iss x [.special (maskOf x.act) .lthresh (x.s o.r.val)] s)))

/-- O15. The instructions that round (R256, R261, R263, R265): value and flags by the rules, the flags raised at issue, the
generator advanced once for .sr; PACK rounds A, then b (R264). -/
def Obligations.RoundedResults : Prop :=
  (∀ (i : Instr) (d : VReg) (wide : Bool) (md : Rnd) (f : Ix → Nat → Nat → Nat × Fp.Flags) (s : State) (iss : Issue) (x : Ix),
    roundedValue i = some (d, wide, md, f) → Goes i noCause s iss x →
    exec i s = .next (afterIssue i iss x x.sel
      (let rs := x.act.map fun l => (l, roundWith md (Band.lane x.b l).gen (f x l))
       noteRounded x.key rs (holdResults x.key (rs.flatMap fun r => heldV r.1 d.val wide r.2.v) (beginReplay x s)))))
  ∧ (∀ (o : OpPack) (s : State) (iss : Issue) (x : Ix), Goes (.pack o) noCause s iss x →
    exec (.pack o) s = .next (afterIssue (.pack o) iss x x.sel
      (let rs := x.act.map fun l => (l, packLane o x l)
       noteRounded x.key rs (holdResults x.key (rs.flatMap fun r => heldV r.1 o.d.val false r.2.v) (beginReplay x s)))))

/-- O16. A special function's flags are raised at issue; its value lands later, and until then its destination is pending
in each active lane (R266, R37). SRNG seeds the generators, zero becoming (l + 1) × 0x9E3779B9 (R267). -/
def Obligations.SpecialFunctions : Prop :=
  (∀ (i : Instr) (f : Fp.Sfu) (d a : VReg) (md : Rnd) (s : State) (iss : Issue) (x : Ix),
    sfuForm i = some (f, d, a, md) → Goes i noCause s iss x → x.replay = none → iss.reeval = false →
    ∃ t op, exec i s = .next t ∧ Table.find s.nextKey t.ops = some op ∧ op.kind = .sfu d.val ∧ op.dc = none
      ∧ op.accs.map (fun c => (c.lane, c.value)) = (x.act.map fun l => (l, (Fp.sfu f (x.v l a.val).toNat md).1))
      ∧ t.dram = s.dram ∧ t.sram = s.sram
      ∧ (∀ b, Table.find x.key s.bands = some b → ∃ c, Table.find x.key t.bands = some c
          ∧ c.fflags = (x.act.foldl (fun fl l => fl ||| (Fp.sfu f (x.v l a.val).toNat md).2) 0) ||| b.fflags
          ∧ c.s = b.s ∧ ∀ l ∈ x.act, (d.val, s.nextKey) ∈ (Band.lane c l).pend ∧ (Band.lane c l).v = (Band.lane b l).v))
  ∧ (∀ (r : VReg) (s : State) (iss : Issue) (x : Ix), Goes (.srngV r) noCause s iss x →
    exec (.srngV r) s = .next (afterIssue (.srngV r) iss x x.sel (State.modBand (beginReplay x s) x.key fun b =>
      Band.modLanes b x.act fun l y => { y with gen := if x.v l r.val = 0 then BitVec.ofNat 32 ((l + 1) * 0x9E3779B9) else x.v l r.val })))
  ∧ (∀ (o : OpSrngR) (s : State) (iss : Issue) (x : Ix), Goes (.srngVR o) noCause s iss x →
    exec (.srngVR o) s = .next (afterIssue (.srngVR o) iss x x.sel (State.modBand (beginReplay x s) x.key fun b =>
      Band.modLanes b x.act fun l y =>
        let g := x.v l o.a.val ^^^ BitVec.ofNat 32 (x.src l false o.b)
        { y with gen := if g = 0 then BitVec.ofNat 32 ((l + 1) * 0x9E3779B9) else g })))

/-- O17. XPUSH, XBALLOT and XPFX (R270 to R272): a lane gets the value of the highest lane that pushes to it and the bit
that says two did; the ballot is the mask of the active lanes whose bit holds; the prefix runs over the active lanes in
ascending order. -/
def Obligations.CrossLane : Prop :=
  (∀ (o : OpXPush) (s : State) (iss : Issue) (x : Ix), Goes (.xpush o) noCause s iss x →
    exec (.xpush o) s = .next (afterHeld (.xpush o) iss x (x.act.flatMap fun m =>
      let js := x.act.filter fun j => x.src j false o.b % x.b.width == m
      (match js.getLast? with
        | some j => heldV m o.d.val (Wd.is64 o.ty) (x.vw j (Wd.is64 o.ty) o.a.val)
        | none => []) ++ [.cond m o.k.val (decide (2 ≤ js.length))]) s))
  ∧ (∀ (o : OpXBallot) (s : State) (iss : Issue) (x : Ix), Goes (.xballot o) noCause s iss x →
    exec (.xballot o) s = .next (afterHeld (.xballot o) iss x
      (heldS (maskOf x.act) o.s.val true (maskOf (x.act.filter fun l => x.pred l o.p)).toNat) s))
  ∧ (∀ (o : OpXPfx) (s : State) (iss : Issue) (x : Ix), Goes (.xpfx o) noCause s iss x →
    exec (.xpfx o) s = .next (afterHeld (.xpfx o) iss x
      ((prefixFrom o.op o.ty o.ex (fun l => intOf (ITy.signed o.ty) (bits (ITy.is64 o.ty)) (x.vw l (ITy.is64 o.ty) o.a.val))
        (prefixIdentity o.op o.ty) x.act).flatMap fun r =>
          heldV r.1 o.d.val (ITy.is64 o.ty) (wrapTo (bits (ITy.is64 o.ty)) r.2)) s))

/-- O18. The exact accumulator (R273 to R276): KCLR clears it, KADD adds each active lane's value, KRND rounds it, KSCAN
accumulates lane by lane, each lane receiving the sum rounded after its own value, or before it with .ex, with the flags of
every rounding, KSAVE writes its image to 16 scalar registers and KLOAD takes it from them. -/
def Obligations.ExactAccumulator : Prop :=
  (∀ (s : State) (iss : Issue) (x : Ix), Goes .kclr noCause s iss x →
    exec .kclr s = .next (afterIssue .kclr iss x x.sel (State.modBand (beginReplay x s) x.key fun b => { b with ka := Ka.zero })))
  ∧ (∀ (o : OpKAdd) (s : State) (iss : Issue) (x : Ix), Goes (.kaddV o) noCause s iss x →
    exec (.kaddV o) s = .next (afterIssue (.kaddV o) iss x x.sel (State.modBand (beginReplay x s) x.key fun b =>
      { b with ka := x.act.foldl (fun k l => Fp.kadd (Fp.tgFmt o.ty) (x.v l o.a.val).toNat k) b.ka })))
  ∧ (∀ (o : OpKAddR) (s : State) (iss : Issue) (x : Ix), Goes (.kaddVR o) noCause s iss x →
    exec (.kaddVR o) s = .next (afterIssue (.kaddVR o) iss x x.sel (State.modBand (beginReplay x s) x.key fun b =>
      { b with ka := x.act.foldl (fun k l => Fp.kadd (Fp.tgFmt o.ty) (x.v l o.a.val).toNat k) b.ka })))
  ∧ (∀ (o : OpKRnd) (s : State) (iss : Issue) (x : Ix), Goes (.krnd o) noCause s iss x →
    exec (.krnd o) s = .next (afterIssue (.krnd o) iss x x.sel
      (let r := Fp.kround (Fp.tgFmt o.ty) o.rnd x.b.ka
       raiseFlags x.key r.2 (holdResults x.key (x.act.flatMap fun l => heldV l o.d.val false r.1) (beginReplay x s)))))
  ∧ (∀ (o : OpKScan) (s : State) (iss : Issue) (x : Ix), Goes (.kscan o) noCause s iss x →
    ∃ t, exec (.kscan o) s = .next (afterIssue (.kscan o) iss x x.sel t)
      ∧ (∀ b, Table.find x.key (beginReplay x s).bands = some b → ∃ c, Table.find x.key t.bands = some c
          ∧ c.ka = x.act.foldl (fun k l => Fp.kadd (Fp.tgFmt o.ty) (x.v l o.a.val).toNat k) x.b.ka
          ∧ (∀ part : Nat → Nat × Fp.Flags, (∀ j, part j = Fp.kround (Fp.tgFmt o.ty) o.rnd
              ((x.act.take (if o.ex then j else j + 1)).foldl (fun k l => Fp.kadd (Fp.tgFmt o.ty) (x.v l o.a.val).toNat k) x.b.ka)) →
            c.held = b.held ++ (List.range x.act.length).flatMap (fun j => heldV (x.act.getD j 0) o.d.val false (part j).1)
              ∧ c.fflags = (List.range x.act.length).foldl (fun f j => f ||| (part j).2) b.fflags)
          ∧ c.lanes = b.lanes ∧ c.s = b.s)
      ∧ t.dram = (beginReplay x s).dram ∧ t.sram = (beginReplay x s).sram)
  ∧ (∀ (o : OpKImage) (s : State) (iss : Issue) (x : Ix), Goes (.ksave o) noCause s iss x →
    exec (.ksave o) s = .next (afterHeld (.ksave o) iss x
      ((List.range 16).map fun j => .sca (maskOf x.act) (o.s.val + j) (Fp.kimage x.b.ka j)) s))
  ∧ (∀ (o : OpKImage) (s : State) (iss : Issue) (x : Ix), Goes (.kload o) noCause s iss x →
    exec (.kload o) s = .next (afterIssue (.kload o) iss x x.sel (State.modBand (beginReplay x s) x.key fun b =>
      { b with ka := Fp.kunimage fun j => x.s (o.s.val + j) })))

/-! ## Accesses -/

/-- O19. Every load, store, atomic and reduction completes its issue: one access in each active lane, at the address, of the
size and with the bytes the rules give; its counter rises, its destinations are pending (R173 to R183, R37, R38). That an
access is performed in one later step is the model's choice (log 10). -/
def Obligations.AccessesIssue : Prop :=
  ∀ (i : Instr) (f : MemForm) (s : State) (iss : Issue) (x : Ix),
    memForm i = some f → Goes i (accessCause f.acc true f.addr f.size) s iss x →
    exec i s = .next (afterIssue i iss x x.sel
      (let s0 := beginReplay x s
       let as := accesses x s0 (AccessKind.need f.acc) f.size f.addr f.data f.cmp
       (startAccess i x f.kind (AccessKind.writes f.acc) f.dc f.scope f.order (if f.once then suppressLower as else as) f.regs s0).s))

/-- O20. The frame of an access's issue: no byte of memory changes, whatever the access; one operation is added, holding
one access for each active lane; every scalar and vector register stands (R177, R179, R180). MISALIGNED comes before every other
cause of an access: the lane takes it with the generic address (R77, R176). -/
def Obligations.AccessIssueFrame : Prop :=
  (∀ (i : Instr) (f : MemForm) (s : State) (iss : Issue) (x : Ix),
    memForm i = some f → Goes i (accessCause f.acc true f.addr f.size) s iss x → x.replay = none → iss.reeval = false →
    ∃ t op, exec i s = .next t ∧ t.dram = s.dram ∧ t.sram = s.sram ∧ t.hubSram = s.hubSram
      ∧ Table.find s.nextKey t.ops = some op ∧ op.kind = f.kind ∧ op.dc = f.dc ∧ op.band = x.key
      ∧ op.accs.map (fun a => (a.lane, a.addr, a.size)) = (x.act.map fun l => (l, BitVec.ofNat 64 (f.addr x l), f.size))
      ∧ (∀ k, k ≠ x.key → Table.find k t.bands = Table.find k s.bands)
      ∧ (∀ b, Table.find x.key s.bands = some b → ∃ c, Table.find x.key t.bands = some c ∧ c.s = b.s ∧ c.ka = b.ka
          ∧ c.fflags = b.fflags ∧ ∀ l, (Band.lane c l).v = (Band.lane b l).v ∧ (Band.lane c l).c = (Band.lane b l).c))
  ∧ (∀ (i : Instr) (f : MemForm) (s : State) (x : Ix) (l : Nat), memForm i = some f → f.addr x l % f.size ≠ 0 →
    reservedReg (uses i) x = false →
    causeOf i (accessCause f.acc true f.addr f.size) x s l = some ⟨l, 0x04, BitVec.ofNat 64 (f.addr x l)⟩)

/-- O21. LDR, STR and ATOMR complete their issue: one access in each active lane, its counter raised and its destinations
pending. Where no operation of the core is in flight, the requests leave at once, ascending by lane, by the station the
address and the peer give; of the lanes of one STR that name the same bytes only the highest sends (R180, R191 to R194). -/
def Obligations.FabricIssue : Prop :=
  (∀ (i : Instr) (f : MemForm) (s : State) (iss : Issue) (x : Ix),
    fabricForm i = some f → Goes i (fabricCause f.addr f.size) s iss x →
    exec i s = .next (afterIssue i iss x x.sel
      (let s0 := beginReplay x s
       let as := fabricAccs x f.size f.addr f.data f.cmp
       let n := newOp i x f.kind f.dc .fab f.order (if f.once then suppressLower as else as) false 0 s0
       sendRequests n.1 (markPending x.key x.act f.regs n.1 (countIssue x f.dc n.2)))))
  ∧ (∀ (i : Instr) (f : MemForm) (s : State) (iss : Issue) (x : Ix),
    fabricForm i = some f → Goes i (fabricCause f.addr f.size) s iss x → x.replay = none → iss.reeval = false →
    (∀ e ∈ s.ops, e.2.band / 64 ≠ x.key / 64) →
    ∃ t op, exec i s = .next t ∧ t.dram = s.dram ∧ t.sram = s.sram ∧ Table.find s.nextKey t.ops = some op
      ∧ op.kind = f.kind ∧ op.dc = f.dc ∧ op.order = f.order ∧ op.accs.length = x.act.length
      ∧ t.outbox = s.outbox ++ (x.act.filter fun l => !(f.once && x.act.any fun m => decide (l < m) && f.addr x m == f.addr x l)).map
          fun l =>
            let a := f.addr x l
            let r := (Table.get 0 (a / 2 ^ 48 % 16) (State.ctx s x.gr.ctx).routes).toNat
            .fabric ((a / 128 % 2 ^ 41 + r % 1024) % 24) s.nextKey l a (r % 1024) (r / 2 ^ 16 % 256)
              (AccessKind.writes f.acc) (f.data x l ++ f.cmp x l))

/-- O22. Prefetch and cache maintenance (R187 to R190): CINV drops the lines of the active lanes from the core's L1;
CFLUSH is an operation of one line for each active lane; PREF is an operation of the lines of the memory window that are
not locked, nothing without one, and a line that stands in the die's L2 fills the L1 where .l1 asks it; PREFB registers each lane's range, of at most 16,777,216 bytes. -/
def Obligations.CacheInstructions : Prop :=
  (∀ (o : OpLine) (s : State) (iss : Issue) (x : Ix),
    Goes (.cinv o) (accessCause .load false (pairAddr o.s o.a (o.off.toInt * 128)) 128) s iss x →
    exec (.cinv o) s = .next (afterIssue (.cinv o) iss x x.sel
      (x.act.foldl (fun t l => match accessPlace x (beginReplay x s) l (pairAddr o.s o.a (o.off.toInt * 128) x l) permRd with
        | .mem c => State.modCore t (x.key / 64) fun k => { k with l1 := Table.del (c / 128) k.l1 }
        | _ => t) (beginReplay x s))))
  ∧ (∀ (o : OpLine) (s : State) (iss : Issue) (x : Ix),
    Goes (.cflush o) (accessCause .load false (pairAddr o.s o.a (o.off.toInt * 128)) 128) s iss x → x.replay = none →
    iss.reeval = false →
    ∃ t op, exec (.cflush o) s = .next t ∧ Table.find s.nextKey t.ops = some op ∧ op.dc = o.dc
      ∧ op.kind = .flush (o.scope == .dev || o.scope == .fab) (o.lvl == .l2)
      ∧ op.accs.map (fun a => (a.lane, a.addr)) = (x.act.map fun l => (l, BitVec.ofNat 64 (pairAddr o.s o.a (o.off.toInt * 128) x l)))
      ∧ t.dram = s.dram ∧ t.sram = s.sram)
  ∧ (∀ (o : OpLine) (s : State) (iss : Issue) (x : Ix), (∀ l ∈ x.act, pairAddr o.s o.a (o.off.toInt * 128) x l % 128 = 0) →
    Goes (.pref o) noCause s iss x →
    exec (.pref o) s = .next (afterIssue (.pref o) iss x x.sel
      (let s0 := beginReplay x s
       let as := prefAccs x s0 (pairAddr o.s o.a (o.off.toInt * 128))
       if as = [] then s0 else (newOp (.pref o) x (.pref (o.lvl == .l1)) none o.scope .rlx as false 0 s0).2)))
  ∧ (∀ (x : Ix) (s : State) (addr : Ix → Nat → Nat) (a : Acc), a ∈ prefAccs x s addr →
    ∃ c, a.place = .mem c ∧ (lockedByte s (x.key / 64) true c 128).isNone = true)
  ∧ (∀ (s : State) (k : Nat) (op : Op) (a : Acc) (c : Nat) (l1 : Bool) (y : Line), Table.find k s.ops = some op →
    op.kind = .pref l1 → Op.acc op a.lane = some a → Acc.over a = false → a.place = .mem c →
    Table.find (c / 128) (State.die s (op.band / 64 / 16)).l2 = some y → y.poison = 0 →
    exec (.storeAcknowledge k a.lane) s = .next (endAcc k a.lane (fillL1 s (op.band / 64) l1 (c / 128) y.bytes y.poison)))
  ∧ (∀ (o : OpPrefb) (s : State) (iss : Issue) (x : Ix), (∀ l ∈ x.act, pairAddr o.s o.a (o.off.toInt * 128) x l % 128 = 0) →
    Goes (.prefb o) noCause s iss x →
    exec (.prefb o) s = .next (afterIssue (.prefb o) iss x x.sel
      (x.act.foldl (fun t l => registerRange x (pairAddr o.s o.a (o.off.toInt * 128) x l) (Nat.min (x.v l o.b.val).toNat 16777216) t)
        (beginReplay x s))))

/-- O23. GCVT writes the converted address, pins the team where R86 says so, and GTEST writes 1 exactly where GCVT would
produce a value other than ONES (R84 to R87). -/
def Obligations.AddressConversion : Prop :=
  (∀ (o : OpGcvt) (s : State) (iss : Issue) (x : Ix), Goes (.gcvt o) noCause s iss x →
    exec (.gcvt o) s = .next (afterIssue (.gcvt o) iss x x.sel
      (holdResults x.key (x.act.flatMap fun l => heldV l o.d.val true (gcvtValue o x l))
        (if x.act.any (gcvtPins o x) then State.modTeam (beginReplay x s) x.b.team fun t => { t with pinned := true }
         else beginReplay x s))))
  ∧ (∀ (o : OpGcvt) (x : Ix) (l a : Nat), a = pairAddr o.s o.a 0 x l → o.toWin = false →
    gcvtValue o x l = if a < (if o.win = .mem then 2 ^ 60 else 2 ^ 56) then
        (match o.win with
          | .prv => 0xF3 | .loc => 0xF2 | .par => 0xF1 | .glb => 0xF0 | .mem => 0) * 2 ^ 56 + a
      else 2 ^ 64 - 1)
  ∧ (∀ (o : OpGcvt) (s : State) (iss : Issue) (x : Ix), Goes (.gtest o) noCause s iss x →
    exec (.gtest o) s = .next (afterHeld (.gtest o) iss x
      (x.act.flatMap fun l => heldV l o.d.val false (if gcvtValue o x l = 2 ^ 64 - 1 then 0 else 1)) s))

/-- O24. STR.strm joins the streams of its core and context: the lanes' records in ascending lane order; of the lanes that
name the same bytes only the highest makes a record (R180, R199 to R201). The wait while another context's stream of the
route opens is the model's reading (log 18). -/
def Obligations.StreamStore : Prop :=
  ∀ (o : OpMem WTy) (s : State) (iss : Issue) (x : Ix) (f : MemForm), fabricForm (.str o) = some f →
    Goes (.strStrm o) (fabricCause f.addr f.size) s iss x →
    exec (.strStrm o) s = .next (afterIssue (.strStrm o) iss x x.sel
      (let s0 := beginReplay x s
       let as := (suppressLower (fabricAccs x f.size f.addr f.data fun _ _ => [])).map fun a =>
         if a.stage = .waiting then { a with stage := .translated } else a
       let n := newOp (.strStrm o) x .store o.dc .fab o.order as false 0 s0
       (as.filter fun a => a.stage == .translated).foldl (streamLane (x.key / 64) x.gr.ctx n.1) (countIssue x o.dc n.2)))

/-! ## Tiles and accumulators -/

/-- O25. A tile transfer whose pages all translate is one operation of its rows: TLD marks its tile pending, its old bytes
gone; TST holds its tile for reading; TZERO marks its own pending (R280, R286 to R291). -/
def Obligations.TileTransfers : Prop :=
  (∀ (o : OpTileMem) (s s1 : State) (m : Table Nat) (iss : Issue) (x : Ix), Goes (.tld o) (tileCause o false) s iss x →
    translatePages x false (tilePages o x (beginReplay x s) permRd (capturedShape x o.t.val)) (beginReplay x s) = (m, [], s1) →
    exec (.tld o) s = .next (afterIssue (.tld o) iss x x.sel
      (let w := capturedShape x o.t.val
       let n := newOp (.tld o) x (.tld o.t.val o.tr (shapeRows w) (shapeRlen w * 16) (x.s o.s.val).toNat (shapeEw w)) o.dc
         o.scope o.order (rowAccs o x (beginReplay x s) permRd w m) false w s1
       State.modTeam (countIssue x o.dc n.2) x.b.team fun t =>
         Team.modTile t (x.key / 64) o.t.val fun y => { y with bytes := [], pend := some n.1 })))
  ∧ (∀ (o : OpTileMem) (s s1 : State) (m : Table Nat) (iss : Issue) (x : Ix), Goes (.tst o) (tileCause o true) s iss x →
    translatePages x true (tilePages o x (beginReplay x s) permWr (capturedShape x o.t.val)) (beginReplay x s) = (m, [], s1) →
    exec (.tst o) s = .next (afterIssue (.tst o) iss x x.sel
      (let w := capturedShape x o.t.val
       let n := newOp (.tst o) x (.tst o.t.val (shapeRows w) (shapeRlen w * 16) (x.s o.s.val).toNat) o.dc o.scope o.order
         (rowAccs o x (beginReplay x s) permWr w m) false w s1
       State.modTeam (countIssue x o.dc n.2) x.b.team fun t =>
         Team.modTile t (x.key / 64) o.t.val fun y => { y with readers := y.readers + 1 })))
  ∧ (∀ (o : OpTile) (s : State) (iss : Issue) (x : Ix), Goes (.tzero o) noCause s iss x → x.replay = none → iss.reeval = false →
    ∃ t op, exec (.tzero o) s = .next t ∧ Table.find s.nextKey t.ops = some op ∧ op.kind = .tzero o.t.val ∧ op.dc = none
      ∧ t.dram = s.dram ∧ t.sram = s.sram
      ∧ (∀ m, Table.find x.b.team s.teams = some m → ∃ m', Table.find x.b.team t.teams = some m'
          ∧ (Team.tile m' (x.key / 64) o.t.val).pend = some s.nextKey))

/-- O26. Accumulator tokens (R291 to R293): MACQ takes a free token for the team, the accumulator all +0; MREL frees it;
AWR writes the tile's words into it; ARD keeps it busy until its rows land; TFMT sets the band's format word. -/
def Obligations.AccumulatorTokens : Prop :=
  (∀ (o : OpTileS) (s : State) (iss : Issue) (x : Ix), Goes (.macq o) (macqCause o) s iss x →
    exec (.macq o) s = .next (afterIssue (.macq o) iss x x.sel
      (if tokenOf (beginReplay x s) (x.key / 64) (accId o.a x) = .free then
        State.modAccum (beginReplay x s) (x.key / 64) (accId o.a x) fun _ => ⟨.held x.b.team, [], 0⟩
       else beginReplay x s)))
  ∧ (∀ (o : OpTileS) (s : State) (iss : Issue) (x : Ix), Goes (.mrel o) (mrelCause o) s iss x →
    exec (.mrel o) s = .next (afterIssue (.mrel o) iss x x.sel (freeAcc (x.key / 64) (accId o.a x) (beginReplay x s))))
  ∧ (∀ (s : State) (core id : Nat), tokenOf (freeAcc core id s) core id = .free)
  ∧ (∀ (o : OpTileS) (s : State) (iss : Issue) (x : Ix), Goes (.tfmt o) noCause s iss x →
    exec (.tfmt o) s = .next (afterIssue (.tfmt o) iss x x.sel
      (State.modBand (beginReplay x s) x.key fun b => { b with fmt := x.s o.a.val })))
  ∧ (∀ (o : OpTileAcc) (s : State) (iss : Issue) (x : Ix), Goes (.ard o) (fun x s _ => heldCause o.a true x s) s iss x →
    x.replay = none → iss.reeval = false →
    ∃ t op, exec (.ard o) s = .next t ∧ Table.find s.nextKey t.ops = some op ∧ op.kind = .ard o.t.val (accId o.a x)
      ∧ (Core.accum (State.core t (x.key / 64)) (accId o.a x)).busy = (Core.accum (State.core s (x.key / 64)) (accId o.a x)).busy + 1
      ∧ t.dram = s.dram ∧ t.sram = s.sram)
  ∧ (∀ (o : OpTileAcc) (s : State) (iss : Issue) (x : Ix), Goes (.awr o) (awrCause o) s iss x →
    exec (.awr o) s = .next (afterIssue (.awr o) iss x x.sel
      (State.modAccum (beginReplay x s) (x.key / 64) (accId o.a x) fun a =>
        { a with elems := tileWords (Team.tile x.t (x.key / 64) o.t.val).bytes })))

/-- O27. Matrix operations (R293, R294, R298, R299): MMA lends the token, holds each tile in use for reading, once for each
operand it is, and queues its operation on the unit of its accumulator; MWAIT holds its lanes while the operation has not
ended; MRESET, in context 0, acts on the unit SA, and resets nothing where SA is above 3. -/
def Obligations.MatrixInstructions : Prop :=
  (∀ (o : OpTileS) (s : State) (iss : Issue) (x : Ix), Goes (.mma o) (mmaCause o) s iss x → x.replay = none → iss.reeval = false →
    ∃ t q, exec (.mma o) s = .next t ∧ t.dram = s.dram ∧ t.sram = s.sram
      ∧ tokenOf t (x.key / 64) (blkAcc (mmaBlock o x s)) = .lent x.b.team false 0
      ∧ (Core.mxUnit (State.core t (x.key / 64)) (blkAcc (mmaBlock o x s) / 16)).queue
          = (Core.mxUnit (State.core s (x.key / 64)) (blkAcc (mmaBlock o x s) / 16)).queue ++ [q]
      ∧ q.tiles = (realTiles x (mmaBlock o x s)).map (fun r => r.2)
      ∧ (∀ m, Table.find x.b.team s.teams = some m → ∃ m', Table.find x.b.team t.teams = some m'
          ∧ ∀ n, (Team.tile m' (x.key / 64) n).readers = (Team.tile m (x.key / 64) n).readers + q.tiles.count n)
      ∧ q.team = x.b.team ∧ q.acc = blkAcc (mmaBlock o x s) ∧ q.block = mmaBlock o x s ∧ q.fmt = x.b.fmt)
  ∧ (∀ (o : OpTileS) (s : State) (iss : Issue) (x : Ix) (t : Nat) (e : Bool) (a : Dword), Goes (.mwait o) (mwaitCause o) s iss x →
    tokenOf (beginReplay x s) (x.key / 64) (accId o.a x) = .lent t e a →
    (mxOpOf (beginReplay x s) (x.key / 64) (accId o.a x)).isSome = true →
    exec (.mwait o) s = .next (afterIssue (.mwait o) iss x (x.sel.filter fun l => !x.act.elem l)
      (State.modBand (beginReplay x s) x.key fun b =>
        Band.modLanes b x.act fun _ y => { y with pc := x.pc, run := .acc (accId o.a x) x.hdr })))
  ∧ (∀ (o : OpTileS) (s : State) (iss : Issue) (x : Ix) (t : Nat) (a : Dword), Goes (.mwait o) (mwaitCause o) s iss x →
    tokenOf (beginReplay x s) (x.key / 64) (accId o.a x) = .lent t false a →
    mxOpOf (beginReplay x s) (x.key / 64) (accId o.a x) = none →
    exec (.mwait o) s = .next (afterIssue (.mwait o) iss x x.sel
      (setToken (x.key / 64) (accId o.a x) (.held t) (beginReplay x s))))
  ∧ (∀ (o : OpTileS) (s : State) (iss : Issue) (x : Ix) (t : Nat), Goes (.mwait o) (mwaitCause o) s iss x →
    tokenOf (beginReplay x s) (x.key / 64) (accId o.a x) = .held t →
    exec (.mwait o) s = .next (afterIssue (.mwait o) iss x x.sel (beginReplay x s)))
  ∧ (∀ (o : OpTileS) (s : State) (iss : Issue) (x : Ix), x.gr.ctx = 0 → Goes (.mreset o) noCause s iss x →
    exec (.mreset o) s = .next (afterIssue (.mreset o) iss x x.sel
      (if (x.s o.a.val).toNat < 4 then resetMx (x.key / 64) (x.s o.a.val).toNat (beginReplay x s) else beginReplay x s)))

/-! ## Engine instructions -/

/-- O28. A copy or Encke instruction posts its command to its engine: what it is, the lanes that wait, its price; the group
has paid nothing, and its lanes stay at the instruction until the engine accepts it (R152, R308, R405). A source that is no
multiple of 4 takes MISALIGNED first (R151). The instructions are CPY, CPY2, CPYT, CPYG, CPYS, CFILL, PKLOAD, PKQ, PKU and
PKSTAT. The posted offer is the model's form (log 28). -/
def Obligations.EnginePosts : Prop :=
  (∀ (i : Instr) (op : Nat) (o : OpCopy) (s : State) (iss : Issue) (x : Ix), copyKind i = some (op, o) →
    Goes i (copyCause op o) s iss x → x.replay = none →
    exec i s = .next (afterIssue i iss x []
      (State.modCore { refund iss s with nextKey := s.nextKey + 1 } (x.key / 64) fun c =>
        { c with offers := c.offers ++ [⟨x.key, maskOf x.sel, x.pc, x.hdr, i, s.nextKey, iss.grp.price⟩] })))
  ∧ (∀ (i : Instr) (k : EkKind) (o : OpEncke) (s : State) (iss : Issue) (x : Ix), enckeKind i = some (k, o) →
    Goes i (enckeCause k o) s iss x → x.replay = none →
    exec i s = .next (afterIssue i iss x []
      (State.modDie { refund iss s with nextKey := s.nextKey + 1 } (x.key / 1024) fun d =>
        { d with ekOffers := d.ekOffers ++ [⟨x.key, maskOf x.sel, x.pc, x.hdr, i, s.nextKey, iss.grp.price⟩] })))
  ∧ (∀ (op : Nat) (o : OpCopy) (s : State) (x : Ix) (l : Nat), copySa o x % 4 ≠ 0 →
    copyCause op o x s l = some (0x04, BitVec.ofNat 64 (copySa o x)))

/-- O29. Tasks, launches and bitmaps (R382 to R395): SPAWN pushes the active lanes' eight words at the bottom of the
core's deque, ascending by lane; TAKE is one operation whose destinations are pending: it gets the entry of its grid
nearest the bottom, and zeros where no core has one; LAUNCH queues the grid of the descriptor it reads, at the back of its queue and
with its kick, or refuses it; CBSET sets the bit SB of the bitmap at the SA pair; CBWAIT of no bits is complete at once, and with
bits is one operation. That a LAUNCH reads, checks and queues in one step, held while a line it reads is on its way, and that CBWAIT
looks at its pages when it issues are the model's readings (log 25, log 17). -/
def Obligations.TaskInstructions : Prop :=
  (∀ (o : OpTask) (s : State) (iss : Issue) (x : Ix), Goes (.spawn o) noCause s iss x →
    exec (.spawn o) s = .next (afterIssue (.spawn o) iss x x.sel (setDeque (x.key / 64)
      ((State.core (beginReplay x s) (x.key / 64)).deque ++ x.act.map fun l =>
          ⟨(List.range 8).map fun j => x.v l (o.v.val + j), x.gr.desc.gridid, x.gr.ctx⟩) (beginReplay x s))))
  ∧ (∀ (o : OpTask) (s : State) (iss : Issue) (x : Ix), Goes (.take o) noCause s iss x → x.replay = none → iss.reeval = false →
    ∃ t op, exec (.take o) s = .next t ∧ Table.find s.nextKey t.ops = some op ∧ op.kind = .take o.v.val ∧ op.dc = o.dc
      ∧ op.order = .acq ∧ op.scope = .dev ∧ op.accs.map (fun a => a.lane) = x.act ∧ t.dram = s.dram
      ∧ ((∀ c, (State.core s c).deque.length ≤ 4096 ∧ ∀ k ∈ (State.core s c).deque, k.words.length = 8) →
          ∀ a, (∀ c, a < dequePlace c ∨ dequePlace c + 2 ^ 18 ≤ a) → Memory.read t.sram a = Memory.read s.sram a)
      ∧ (∀ l q k, x.act = [l] → (State.core s (x.key / 64)).deque = q ++ [k] → k.gridid = x.gr.desc.gridid → k.ctx = x.gr.ctx →
          op.accs.map (fun a => a.value) = [taskValue k.words] ∧ (State.core t (x.key / 64)).deque = q)
      ∧ ((∀ c, ∀ k ∈ (State.core s c).deque, k.gridid ≠ x.gr.desc.gridid ∨ k.ctx ≠ x.gr.ctx) →
          op.accs.map (fun a => a.value) = x.act.map (fun _ => 0) ∧ t.sram = s.sram
            ∧ ∀ c, (State.core t c).deque = (State.core s c).deque))
  ∧ (∀ (o : OpEng2) (bs : List Byte) (s s2 : State) (iss : Issue) (x : Ix),
    Goes (.launch o) (lineCause (fun x => x.sw true o.a.val) 128 128 permRd) s iss x → x.replay = none →
    lineLook x s (x.sw true o.a.val) 128 permRd false = some (.ok bs) →
    launchGrid x.gr.ctx (x.s o.b.val).toNat bs none s = .done s2 →
    exec (.launch o) s = .next (afterIssue (.launch o) iss x x.sel s2))
  ∧ (∀ (ctx q : Nat) (bs : List Byte) (s : State), bs.length = 128 → fieldAt bs 0x28 8 = 0 →
    (7 < q → launchGrid ctx q bs none s = .done (noteCompletion ctx ⟨fieldAt bs 0x0C 4, 2, 4, 0⟩ s))
    ∧ (q ≤ 7 → descOk bs = false → launchGrid ctx q bs none s = .done (noteCompletion ctx ⟨fieldAt bs 0x0C 4, 2, 3, 0⟩ s)))
  ∧ (∀ (g : Grid) (s : State), g.queue < 8 → ∃ h, Table.find s.nextKey (queueGrid g s).grids = some h ∧ h = { g with met := h.met }
      ∧ Table.get [] g.queue (queueGrid g s).hub.queues = Table.get [] g.queue s.hub.queues ++ [s.nextKey]
      ∧ (queueGrid g s).hub.kick.getLsbD g.queue = true ∧ (queueGrid g s).dram = s.dram ∧ (queueGrid g s).sram = s.sram)
  ∧ (∀ (o : OpEng2) (bs : List Byte) (c : Nat) (s : State) (iss : Issue) (x : Ix),
    Goes (.cbset o) (lineCause (fun x => (x.sw true o.a.val + 8 * ((x.s o.b.val).toNat / 64)) % 2 ^ 64) 8 8 14) s iss x →
    x.replay = none →
    lineLook x s ((x.sw true o.a.val + 8 * ((x.s o.b.val).toNat / 64)) % 2 ^ 64) 8 14 true = some (.ok bs) →
    rangeCheck (State.ctx s x.gr.ctx) ((x.sw true o.a.val + 8 * ((x.s o.b.val).toNat / 64)) % 2 ^ 64) 14 = some c →
    exec (.cbset o) s = .next (afterIssue (.cbset o) iss x x.sel
      (writeThrough (x.key / 64) s c (natLe 8 (leNat bs ||| 2 ^ ((x.s o.b.val).toNat % 64)))).2))
  ∧ (∀ (o : OpEng3) (s : State) (iss : Issue) (x : Ix), Goes (.cbwait o) (cbwaitCause o) s iss x → x.replay = none →
    (x.s o.c.val).toNat = 0 → exec (.cbwait o) s = .next (afterIssue (.cbwait o) iss x x.sel s))
  ∧ (∀ (o : OpEng3) (s : State) (iss : Issue) (x : Ix), Goes (.cbwait o) (cbwaitCause o) s iss x → x.replay = none →
    iss.reeval = false → (x.s o.c.val).toNat ≠ 0 →
    cbwaitPages o x s = [] →
    ∃ t op, exec (.cbwait o) s = .next t ∧ Table.find s.nextKey t.ops = some op ∧ op.dc = o.dc
      ∧ op.kind = .cbwait (x.sw true o.a.val) (x.s o.b.val).toNat (x.s o.c.val).toNat
          (rangeIndices (x.s o.b.val).toNat (x.s o.c.val).toNat) ∧ t.dram = s.dram ∧ t.sram = s.sram)

/-! ## Control flow -/

/-- O30. Branches, jumps and calls (R353 to R358): an active lane goes to slot 0 of (C + 4 × sext(x)) modulo 2^60, or to
the PC its register pair holds, through a switch point; the others go on; CALL and CALLX leave the link, which is F. A target of JMPX, CALLX and RET that is
not a multiple of 4 takes MISALIGNED with the target. -/
def Obligations.Branches : Prop :=
  (∀ (o : OpCImm) (s : State) (iss : Issue) (x : Ix), Goes (.bra o) noCause s iss x →
    exec (.bra o) s = .next (afterIssue (.bra o) iss x (x.sel.filter fun l => !x.act.elem l)
      (State.modBand (beginReplay x s) x.key fun b => Band.modLanes b x.act fun _ y =>
        { y with pc := ⟨(((x.pc.clause : Int) + 4 * o.imm.toInt) % ((2 ^ 60 : Nat) : Int)).toNat, 0⟩
                 sw := true, entry := .check, waited := 0, barred := false })))
  ∧ (∀ (o : OpBrc) (s : State) (iss : Issue) (x : Ix), Goes (.brc o) noCause s iss x →
    exec (.brc o) s = .next (if (x.s o.c.val != 0) = o.nz then
        afterIssue (.brc o) iss x (x.sel.filter fun l => !x.act.elem l)
          (State.modBand (beginReplay x s) x.key fun b => Band.modLanes b x.act fun _ y =>
            Lane.goto y ⟨branchTarget x.pc.clause o.imm.toInt, 0⟩)
      else afterIssue (.brc o) iss x x.sel (beginReplay x s)))
  ∧ (∀ (i : Instr) (v : VReg) (s : State) (iss : Issue) (x : Ix),
    (∃ o : OpCV, o.v = v ∧ (i = .jmpx o ∨ i = .ret o)) → (∀ l ∈ x.act, x.vw l true v.val % 4 = 0) → Goes i noCause s iss x →
    exec i s = .next (afterIssue i iss x (x.sel.filter fun l => !x.act.elem l)
      (State.modBand (beginReplay x s) x.key fun b => Band.modLanes b x.act fun l y =>
        Lane.goto y ⟨x.vw l true v.val % 2 ^ 60, x.vw l true v.val / 2 ^ 60 % 16⟩)))
  ∧ (∀ (o : OpCVImm) (s : State) (iss : Issue) (x : Ix), Goes (.call o) noCause s iss x →
    exec (.call o) s = .next (afterIssue (.call o) iss x (x.sel.filter fun l => !x.act.elem l)
      (State.modBand (holdResults x.key (x.act.flatMap fun l =>
          heldV l o.v.val true ((x.pc.clause + 4 * (x.hdr / 2 ^ 28 % 16 + 1)) % 2 ^ 60)) (beginReplay x s)) x.key fun b =>
        Band.modLanes b x.act fun _ y => Lane.goto y ⟨branchTarget x.pc.clause o.imm.toInt, 0⟩)))
  ∧ (∀ (o : OpCV) (s : State) (iss : Issue) (x : Ix), (∀ l ∈ x.act, x.vw l true o.v.val % 4 = 0) → Goes (.callx o) noCause s iss x →
    exec (.callx o) s = .next (afterIssue (.callx o) iss x (x.sel.filter fun l => !x.act.elem l)
      (State.modBand (holdResults x.key (x.act.flatMap fun l =>
          heldV l (o.v.val + 2) true ((x.pc.clause + 4 * (x.hdr / 2 ^ 28 % 16 + 1)) % 2 ^ 60)) (beginReplay x s)) x.key fun b =>
        Band.modLanes b x.act fun l y => Lane.goto y (Pc.ofNat (x.vw l true o.v.val)))))
  ∧ (∀ (o : OpJtab) (s : State) (iss : Issue) (x : Ix), (∀ l ∈ x.act, o.n.toNat ≤ (x.v l o.v.val).toNat) →
    Goes (.jtab o) noCause s iss x → exec (.jtab o) s = .next (afterIssue (.jtab o) iss x x.sel (beginReplay x s)))
  ∧ (∀ (o : OpJtab) (s : State) (iss : Issue) (x : Ix), x.act.filter (tableLane o x) ≠ [] →
    Goes (.jtab o) (fun x s l => if tableLane o x l then accessCause .load false (tableAddr o) 4 x s l else none) s iss x →
    x.replay = none → iss.reeval = false →
    ∃ t op, exec (.jtab o) s = .next t ∧ Table.find s.nextKey t.ops = some op ∧ op.kind = .jtab ∧ op.holds = true
      ∧ op.accs.map (fun a => (a.lane, a.addr)) = ((x.act.filter (tableLane o x)).map fun l =>
          (l, BitVec.ofNat 64 ((x.sw true o.c.val + 4 * (x.v l o.v.val).toNat) % 2 ^ 64)))
      ∧ t.dram = s.dram ∧ t.sram = s.sram)
  ∧ (∀ (v : VReg) (s : State) (x : Ix) (l : Nat), x.vw l true v.val % 4 ≠ 0 →
      targetCause v x s l = some (0x04, BitVec.ofNat 64 (x.vw l true v.val)))

/-- O31. Rejoin entries and exit (R359 to R366): RJSET records one at the lane's next level, RJWAIT makes the active lanes
wait at their innermost, lanes that have none take REJOIN_DEADLOCK with address 0, RJDROP leaves it; an exited lane has no level,
no pending result and runs no more. The entries are evaluated when the instructions of the cycle have acted. That an exited lane
awaits its results no longer, and that the results held for lanes that wait or exit are applied at the switch point of the same
cycle, is the model's reading (log 20, log 13). -/
def Obligations.RejoinAndExit : Prop :=
  (∀ (o : OpCImm) (s : State) (iss : Issue) (x : Ix), Goes (.rjset o) (rjsetCause o) s iss x →
    exec (.rjset o) s = .next (afterIssue (.rjset o) iss x x.sel (evalLater (State.modBand (beginReplay x s) x.key fun b =>
      Band.modLanes b x.act fun _ y =>
        { Lane.setReg y (x.b.vbud - 1 - y.rdp)
            (BitVec.ofNat 32 (1 + 4 * ((branchTarget x.pc.clause o.imm.toInt - x.gr.desc.image) / 4))) with rdp := y.rdp + 1 }))))
  ∧ (∀ (o : OpC) (s : State) (iss : Issue) (x : Ix), (∀ l ∈ x.act, (Band.lane x.b l).rdp ≠ 0) → Goes (.rjwait o) noCause s iss x →
    exec (.rjwait o) s = .next (afterIssue (.rjwait o) iss x (x.sel.filter fun l => !x.act.elem l)
      (evalLater (State.modBand (beginReplay x s) x.key fun b => Band.modLanes b x.act fun _ y =>
        { Lane.setReg y (x.b.vbud - 1 - (y.rdp - 1)) (Lane.reg y (x.b.vbud - 1 - (y.rdp - 1)) ||| 2#32) with
          run := .rejoin, sw := true }))))
  ∧ (∀ (o : OpC) (s : State) (iss : Issue) (x : Ix), (∀ l ∈ x.act, (Band.lane x.b l).rdp = 0) → s.issue = some iss →
    indexOf s iss.band iss.grp (uses (.rjwait o)).g = some x → heldUp (.rjwait o) x s = false →
    reservedReg (uses (.rjwait o)) x = false →
    exec (.rjwait o) s = .next (endIssue (Issue.issued iss) (deliverAll x.key x.pc
      ((x.sel.filter fun l => x.act.elem l).map fun l => ⟨l, 0x0A, 0⟩)
      (State.modBand (beginReplay x s) x.key (advance x (slotCount (.rjwait o)) (x.sel.filter fun l => !x.act.elem l))))))
  ∧ (∀ (o : OpC) (s : State) (iss : Issue) (x : Ix), Goes (.rjdrop o) noCause s iss x →
    exec (.rjdrop o) s = .next (afterIssue (.rjdrop o) iss x x.sel (evalLater (State.modBand (beginReplay x s) x.key fun b =>
      Band.modLanes b x.act fun _ y => if y.rdp = 0 then y else
        { Lane.setReg y (x.b.vbud - 1 - (y.rdp - 1)) 0 with rdp := y.rdp - 1 }))))
  ∧ (∀ (o : OpC) (s : State) (iss : Issue) (x : Ix), Goes (.exit o) noCause s iss x →
    exec (.exit o) s = .next (afterIssue (.exit o) iss x (x.sel.filter fun l => !x.act.elem l)
      (evalLater (x.act.foldl (exitLane x) (beginReplay x s)))))
  ∧ (∀ (rjd : Nat) (b : Band) (y : Lane), (exitedLane rjd b y).run = .exited ∧ (exitedLane rjd b y).sw = true ∧ (exitedLane rjd b y).rdp = 0
      ∧ (exitedLane rjd b y).pend = [] ∧ ∀ k < rjd, Lane.reg (exitedLane rjd b y) (b.vbud - 1 - k) = 0)

/-- O32. NOP changes nothing; YIELD changes only the band's yield flag; SHADOW sets or clears shadow mode. Each moves every
selected lane to the next instruction (R360, R367). -/
def Obligations.NopYieldShadow : Prop :=
  (∀ (o : OpC) (s : State) (iss : Issue) (x : Ix), Goes (.nop o) noCause s iss x →
    exec (.nop o) s = .next (afterIssue (.nop o) iss x x.sel (beginReplay x s)))
  ∧ (∀ (o : OpC) (s : State) (iss : Issue) (x : Ix), Goes (.yield o) noCause s iss x →
    exec (.yield o) s = .next (afterIssue (.yield o) iss x x.sel (State.modBand (beginReplay x s) x.key fun b => { b with yf := true })))
  ∧ (∀ (o : OpShadow) (s : State) (iss : Issue) (x : Ix), Goes (.shadow o) noCause s iss x →
    exec (.shadow o) s = .next (afterIssue (.shadow o) iss x x.sel (State.modBand (beginReplay x s) x.key fun b => { b with shadow := o.on })))

/-! ## Barriers, waits, fences -/

/-- O33. BAR, BARSET, PHARR and PHWAIT (R371 to R379). One lane's arrival sets its LA bit and phase and raises A; BARSET
names the threads and completes the generation that is then full; PHARR writes the updated phase word, in order; an
out-of-range word is latched in %spflag instead; the WR bit of that report is the model's choice (log 48). -/
def Obligations.Barriers : Prop :=
  (∀ (o : OpBar) (s : State) (iss : Issue) (x : Ix), Goes (.bar o) noCause s iss x →
    exec (.bar o) s = .next (afterIssue (.bar o) iss x
      (x.sel.filter fun l => !(barLanes x o x.act (beginReplay x s) []).moved.elem l) (barLanes x o x.act (beginReplay x s) []).s))
  ∧ (∀ (s : State) (b : Band) (t : Team) (key team n l : Nat), Table.find key s.bands = some b → b.team = team →
    Table.find team s.teams = some t → (Team.bar t n).a + 1 < (Team.bar t n).n → n < 16 →
    ∃ b' t', Table.find key (arriveBar key team n l s).bands = some b' ∧ Table.find team (arriveBar key team n l s).teams = some t'
      ∧ (Team.bar t' n).a = (Team.bar t n).a + 1 ∧ Lane.arrived (Band.lane b' l) n (Team.bar t n).p = true
      ∧ (Team.bar t' n).p = (Team.bar t n).p)
  ∧ (∀ (o : OpBarset) (s : State) (iss : Issue) (x : Ix), Goes (.barset o) noCause s iss x →
    exec (.barset o) s = .next (afterIssue (.barset o) iss x x.sel
      (completeBar x.b.team o.b.val (State.modTeam (beginReplay x s) x.b.team fun t =>
        Team.setBar t o.b.val { Team.bar t o.b.val with
          fixed := x.s o.c.val != 0
          n := if x.s o.c.val = 0 then liveThreads (beginReplay x s) x.b.team else Nat.min (x.s o.c.val).toNat 4096 }))))
  ∧ (∀ (o : OpPhase) (s : State) (iss : Issue) (x : Ix) (g : Nat), Goes (.pharr o) (phaseCause o.c) s iss x →
    phaseWord x o.c = some g →
    exec (.pharr o) s = .next (afterIssue (.pharr o) iss x x.sel (teamAcquire x.t.pair (x.key / 64)
      (writeSram (unwatchAll x (beginReplay x s)) g (natLe 4 (phaseNext (leNat (readSram (beginReplay x s) g 4))))))))
  ∧ (∀ (o : OpPhase) (s : State) (iss : Issue) (x : Ix), Goes (.pharr o) (phaseCause o.c) s iss x → phaseWord x o.c = none →
    exec (.pharr o) s = .next (afterIssue (.pharr o) iss x x.sel
      (latchNow x.gr.ctx (x.key / 64) (x.act.headD 0) true (windowCode .loc) (x.s o.c.val).toNat (beginReplay x s))))
  ∧ (∀ (o : OpPhase) (s : State) (iss : Issue) (x : Ix) (g : Nat), Goes (.phwait o) (phaseCause o.c) s iss x →
    phaseWord x o.c = some g →
    exec (.phwait o) s = .next (afterIssue (.phwait o) iss x x.sel (teamAcquire x.t.pair (x.key / 64)
      (senseSram g 4 (unwatchAll x (beginReplay x s))))))
  ∧ (∀ w : Nat, w < 2 ^ 32 → w % 2 ^ 16 ≤ 1 → phaseNext w % 2 ^ 16 = w / 2 ^ 16 % 2 ^ 15 ∧ phaseNext w / 2 ^ 31 = 1 - w / 2 ^ 31)
  ∧ (∀ w : Nat, w < 2 ^ 32 → 2 ≤ w % 2 ^ 16 → phaseNext w = w - 1)

/-- O34. WAITA, DWAIT and FENCE (R336, R337, R380, R381): a WAITA is one operation whose lanes watch their words, those
of the waiting form standing still; a DWAIT holds its active lanes on the counters of its mask; a FENCE is an operation
that completes once what it waits for has. That the results held for lanes that wait are applied at the switch point of the same
cycle is the model's reading (log 13). -/
def Obligations.WaitsAndFences : Prop :=
  (∀ (o : OpWaita) (s : State) (iss : Issue) (x : Ix) (dc : Fin 6), Goes (.waita o) (waitaCause o) s iss x → o.dc = some dc →
    x.replay = none →
    exec (.waita o) s = .next (afterIssue (.waita o) iss x x.sel
      (let n := newOp (.waita o) x .waita o.dc .dev .acq (waitaAccs o x) false 0 s
       x.act.foldl (armLane o x n.1) (markPending x.key x.act [o.v.val + 2] n.1 (countUp x.key (some dc) n.2)))))
  ∧ (∀ (o : OpWaita) (s : State) (iss : Issue) (x : Ix), Goes (.waita o) (waitaCause o) s iss x → o.dc = none →
    x.replay = none →
    exec (.waita o) s = .next (afterIssue (.waita o) iss x (x.sel.filter fun l => !x.act.elem l)
      (let n := newOp (.waita o) x .waita none .dev .acq (waitaAccs o x) false 0 s
       x.act.foldl (armLane o x n.1) n.2)))
  ∧ (∀ (o : OpDwait) (s : State) (iss : Issue) (x : Ix), Goes (.dwait o) noCause s iss x →
    exec (.dwait o) s = .next (afterIssue (.dwait o) iss x (x.sel.filter fun l => !x.act.elem l)
      (State.modBand (beginReplay x s) x.key fun b =>
        Band.modLanes b x.act fun _ y => { y with run := .counter o.mask.toNat, sw := true })))
  ∧ (∀ (o : OpFence) (s : State) (iss : Issue) (x : Ix), Goes (.fence o) noCause s iss x → x.replay = none → iss.reeval = false →
    ∃ t op, exec (.fence o) s = .next t ∧ Table.find s.nextKey t.ops = some op ∧ op.kind = .fence o.kind ∧ op.scope = o.scope
      ∧ op.dc = o.dc ∧ op.lanes = maskOf x.act ∧ op.accs = [] ∧ t.dram = s.dram ∧ t.sram = s.sram)

/-! ## Traps and returns -/

/-- O35. A trap delivered to a lane: %tcause, %tepc and %taddr receive the cause, the PC in the form of R32 and the address;
the lane stands at slot 0 of TRAPE, to be checked there; no other lane moves and the team is not halted. A lane with uncounted
results outstanding waits at the instruction until they have landed (R430, R431). -/
def Obligations.TrapDelivered : Prop :=
  (∀ (s : State) (key : Nat) (b : Band) (t : Team) (g : Grid) (pc : Pc) (tr : Trap),
    Table.find key s.bands = some b → Table.find b.team s.teams = some t → Table.find t.grid s.grids = some g →
    g.hdr.trape ≠ 0 → tr.cause ≠ 0x02 → tr.cause ≠ 0x05 → tr.cause ≠ 0x0A → uncounted s key tr.lane = false →
    ∃ c, Table.find key (deliver key pc s tr).bands = some c
      ∧ (Band.lane c tr.lane).tcause = BitVec.ofNat 32 tr.cause
      ∧ (Band.lane c tr.lane).tepc = BitVec.ofNat 64 (pc.clause % 2 ^ 60 + pc.slot % 16 * 2 ^ 60)
      ∧ (Band.lane c tr.lane).taddr = tr.addr ∧ (Band.lane c tr.lane).pc = ⟨g.hdr.trape, 0⟩
      ∧ (Band.lane c tr.lane).run = .running ∧ (Band.lane c tr.lane).entry = .check
      ∧ (∀ l, l ≠ tr.lane → (Band.lane c l).pc = (Band.lane b l).pc ∧ (Band.lane c l).tcause = (Band.lane b l).tcause
          ∧ (Band.lane c l).tepc = (Band.lane b l).tepc ∧ (Band.lane c l).run = (Band.lane b l).run)
      ∧ (deliver key pc s tr).dram = s.dram ∧ (deliver key pc s tr).sram = s.sram)
  ∧ (∀ (s : State) (key : Nat) (b : Band) (t : Team) (g : Grid) (pc : Pc) (tr : Trap),
    Table.find key s.bands = some b → Table.find b.team s.teams = some t → Table.find t.grid s.grids = some g →
    g.hdr.trape ≠ 0 → tr.cause ≠ 0x02 → tr.cause ≠ 0x05 → uncounted s key tr.lane = true →
    ∃ c, Table.find key (deliver key pc s tr).bands = some c
      ∧ (Band.lane c tr.lane).trap = some (tr.cause, tr.addr) ∧ (Band.lane c tr.lane).pc = pc
      ∧ (Band.lane c tr.lane).tcause = (Band.lane b tr.lane).tcause ∧ (Band.lane c tr.lane).tepc = (Band.lane b tr.lane).tepc)

/-- O36. With TRAPE 0, or for ILLEGAL_CLAUSE or RANGE_PROT at slot 0 of TRAPE itself, nothing is delivered: the team halts,
with one notice for its first cause; a halted team posts none (R431, R432). -/
def Obligations.TrapHalts : Prop :=
  ∀ (s : State) (key : Nat) (b : Band) (t : Team) (g : Grid) (pc : Pc) (tr : Trap),
    Table.find key s.bands = some b → Table.find b.team s.teams = some t → Table.find t.grid s.grids = some g →
    (g.hdr.trape = 0 ∨ ((tr.cause = 0x02 ∨ tr.cause = 0x05) ∧ pc = ⟨g.hdr.trape, 0⟩)) →
    (deliver key pc s tr).bands = s.bands ∧ (deliver key pc s tr).dram = s.dram
      ∧ (t.halted = true → (deliver key pc s tr).teams = s.teams ∧ (deliver key pc s tr).hub = s.hub)
      ∧ (t.halted = false → (∃ t', Table.find b.team (deliver key pc s tr).teams = some t' ∧ t'.halted = true)
          ∧ ∃ n, (deliver key pc s tr).hub.noticeWait = s.hub.noticeWait ++ [n] ∧ n.kind = 1 ∧ n.aux = tr.cause
            ∧ n.lane = tr.lane ∧ n.b = tr.addr ∧ n.core = key / 64 ∧ n.grid = g.desc.gridid)

/-- O37. TRAP delivers SWTRAP and BRK delivers BREAK in every active lane, ascending, at the instruction, with the
zero-extended IMM16 as the address; the other selected lanes go on (R434). -/
def Obligations.TrapAndBreak : Prop :=
  ∀ (i : Instr) (cause : Nat) (imm : BitVec 16) (s : State) (iss : Issue) (x : Ix),
    ((∃ o : OpCImm, i = .trap o ∧ o.imm = imm ∧ cause = 0x0D) ∨ (∃ o : OpCImm, i = .brk o ∧ o.imm = imm ∧ cause = 0x0E)) →
    s.issue = some iss → indexOf s iss.band iss.grp (uses i).g = some x → heldUp i x s = false →
    reservedReg (uses i) x = false →
    exec i s = .next (endIssue (Issue.issued iss) (deliverAll x.key x.pc
      ((x.sel.filter fun l => x.act.elem l).map fun l => ⟨l, cause, BitVec.setWidth 64 imm⟩)
      (State.modBand (beginReplay x s) x.key (advance x (slotCount i) (x.sel.filter fun l => !x.act.elem l)))))

/-- O38. ECALL returns from a trap (R435): with service RESUME a lane goes to %tepc, its PC in the form of R32, through a
switch point; with service SKIP, where its fetches succeed, to what follows the instruction there, or the clause where that was its last or
the cause was ILLEGAL_CLAUSE; a lane whose %tcause is 0 goes to the next instruction. -/
def Obligations.EcallResumes : Prop :=
  (∀ (o : OpEcall) (s : State) (iss : Issue) (x : Ix), o.skip = false → Goes (.ecall o) noCause s iss x →
    exec (.ecall o) s = .next (afterIssue (.ecall o) iss x
      (x.sel.filter fun l => !(x.act.filter fun k => (Band.lane x.b k).tcause != 0).elem l)
      (State.modBand (beginReplay x s) x.key fun b =>
        Band.modLanes b (x.act.filter fun k => (Band.lane x.b k).tcause != 0) fun l y =>
          Lane.goto y ⟨(Band.lane x.b l).tepc.toNat % 2 ^ 60, (Band.lane x.b l).tepc.toNat / 2 ^ 60 % 16⟩)))
  ∧ (∀ (o : OpEcall) (s : State) (iss : Issue) (x : Ix) (c n h w : Nat → Nat), o.skip = true → Goes (.ecall o) (ecallCause o) s iss x →
    x.replay = none →
    (∀ l, c l = (Band.lane x.b l).tepc.toNat % 2 ^ 60 ∧ n l = (Band.lane x.b l).tepc.toNat / 2 ^ 60 % 16) →
    (∀ l ∈ x.act, (Band.lane x.b l).tcause ≠ 0 → fetchWord s (x.key / 1024) x.gr.ctx (c l) = .ok (h l)
      ∧ ((Band.lane x.b l).tcause ≠ 2 → fetchWord s (x.key / 1024) x.gr.ctx (c l + 4 * (n l + 1)) = .ok (w l))) →
    exec (.ecall o) s = .next (afterIssue (.ecall o) iss x
      (x.sel.filter fun l => !(x.act.filter fun k => (Band.lane x.b k).tcause != 0).elem l)
      (State.modBand s x.key fun b => Band.modLanes b (x.act.filter fun k => (Band.lane x.b k).tcause != 0) fun l y =>
        let m := if w l / 2 ^ 24 % 256 = 0 ∨ 0xF0 ≤ w l / 2 ^ 24 % 256 then n l + 1 else n l + 1 + w l / 2 ^ 23 % 2
        Lane.goto y (if (Band.lane x.b l).tcause = 2 ∨ h l / 2 ^ 28 % 16 ≤ m then
          ⟨(c l + 4 * (h l / 2 ^ 28 % 16 + 1)) % 2 ^ 60, 0⟩ else ⟨c l, m⟩))))

/-- O39. TMARM, FRAGQ, PWINT and PHINT (R414, R436, R437, R449): TMARM.arm sets the deadline %brun + n, n = 0 disarming;
FRAGQ writes the mask of the lanes parked in a fragment in state PARKED, READY or LANDING; PWINT opens or closes the band's
intent; a PHINT of a band that a save waits for stops it at liveness record n, past the PHINT, and any other PHINT moves its
lanes on. -/
def Obligations.TimerFragPower : Prop :=
  (∀ (o : OpSwitchC) (s : State) (iss : Issue) (x : Ix), Goes (.tmarm o) noCause s iss x →
    exec (.tmarm o) s = .next (afterIssue (.tmarm o) iss x x.sel (State.modBand (beginReplay x s) x.key fun b =>
      if o.off = true ∨ x.sw true o.c.val = 0 then { b with armed := false }
      else { b with armed := true, deadline := b.brun + BitVec.ofNat 64 (x.sw true o.c.val) })))
  ∧ (∀ (o : OpCS) (s : State) (iss : Issue) (x : Ix), Goes (.fragq o) noCause s iss x →
    exec (.fragq o) s = .next (afterHeld (.fragq o) iss x
      (heldS (maskOf x.act) o.c.val true (((State.core (beginReplay x s) (x.key / 64)).frags.foldl (fun (m : Dword) (e : Nat × Frag) =>
        if e.2.band = x.key ∧ (e.2.state = .parked ∨ e.2.state = .ready ∨ e.2.state = .landing) then m ||| e.2.lanes else m) 0).toNat)) s))
  ∧ (∀ (o : OpSwitchC) (s : State) (iss : Issue) (x : Ix), Goes (.pwint o) noCause s iss x →
    exec (.pwint o) s = .next (afterIssue (.pwint o) iss x x.sel (refreshPlan (State.modBand (beginReplay x s) x.key fun b =>
      if o.off then { b with intent := none }
      else if (x.s o.c.val).toNat = 0 then b
      else { b with intent := some (intentEnd (beginReplay x s) (x.key / 1024) (x.s o.c.val).toNat) }))))
  ∧ (∀ (o : OpPhint) (s : State) (iss : Issue) (x : Ix), o.n.toNat < x.gr.hdr.nlive → Goes (.phint o) noCause s iss x →
    exec (.phint o) s = .next (
      if phintStops x then afterIssue (.phint o) iss x [] (State.modBand (beginReplay x s) x.key fun b =>
        Band.modLanes { b with stopped := true, record := some o.n.toNat } x.sel fun _ y =>
          { Lane.step y x.hdr 1 false with sw := true, entry := .check })
      else afterIssue (.phint o) iss x x.sel (beginReplay x s)))

/-- O40. Privilege (R472): outside context 0, MRESET and SWR of %cycles take PRIV with address 0 in every active lane,
before any other cause. -/
def Obligations.Privilege : Prop :=
  (∀ (o : OpTileS) (s : State) (x : Ix) (l : Nat), x.gr.ctx ≠ 0 →
    causeOf (.mreset o) (fun x _ _ => if x.gr.ctx = 0 then none else some (0x15, 0)) x s l = some ⟨l, 0x15, 0⟩)
  ∧ (∀ (o : OpTileS) (s : State) (iss : Issue) (x : Ix), x.gr.ctx ≠ 0 → s.issue = some iss →
    indexOf s iss.band iss.grp (uses (.mreset o)).g = some x → heldUp (.mreset o) x s = false →
    exec (.mreset o) s = .next (endIssue (Issue.issued iss) (deliverAll x.key x.pc ((x.sel.filter fun l => x.act.elem l).map fun l => ⟨l, 0x15, 0⟩)
      (State.modBand (beginReplay x s) x.key (advance x (slotCount (.mreset o)) (x.sel.filter fun l => !x.act.elem l))))))
  ∧ (∀ (o : OpSpecial) (s : State) (iss : Issue) (x : Ix), x.gr.ctx ≠ 0 → specReg o.num = some .cycles → s.issue = some iss →
    indexOf s iss.band iss.grp (uses (.swr o)).g = some x → heldUp (.swr o) x s = false →
    exec (.swr o) s = .next (endIssue (Issue.issued iss) (deliverAll x.key x.pc ((x.sel.filter fun l => x.act.elem l).map fun l => ⟨l, 0x15, 0⟩)
      (State.modBand (beginReplay x s) x.key (advance x (slotCount (.swr o)) (x.sel.filter fun l => !x.act.elem l))))))

/-! ## Switch points and frames -/

/-- O41. A switch point takes the traps that waited for their lanes' results, applies the held results of the lanes that pass,
those of the primary decoder's group before those of the secondary's, each in issue order, and lets them on; other lanes'
results stay held; lanes whose uncounted results are still out do not pass (R34, R36, R37, R227, R352, R430). Which lanes' results a run
holds together, and that a waiting trap is taken at this step of a cycle, are the model's readings (log 13, log 19). -/
def Obligations.SwitchPoint : Prop :=
  (∀ (s : State) (key : Nat) (b : Band) (l r : Nat) (x : Word) (m : Dword), Table.find key s.bands = some b →
    b.held = [.vec l r x] → m.getLsbD l = true →
    ∃ c, Table.find key (applyHeld key m s).bands = some c ∧ Lane.reg (Band.lane c l) r = x ∧ c.held = []
      ∧ (∀ k, k ≠ l → Band.lane c k = Band.lane b k) ∧ (∀ q, q ≠ r → Lane.reg (Band.lane c l) q = Lane.reg (Band.lane b l) q)
      ∧ c.s = b.s)
  ∧ (∀ (s : State) (key : Nat) (b : Band) (m : Dword), Table.find key s.bands = some b →
    (∀ h ∈ b.held, heldFor m h = false) →
    ∃ c, Table.find key (applyHeld key m s).bands = some c ∧ c = b)
  ∧ (∀ (s : State) (key : Nat) (b : Band) (p q r : Nat) (x y : Word), Table.find key s.bands = some b → p < 64 → q < 64 → p ≠ q →
    (Band.lane b p).second = false → (Band.lane b q).second = true →
    b.held = [.sca (maskOf [q]) r y, .sca (maskOf [p]) r x] →
    ∃ c, Table.find key (applyPassing key b [p, q] s).bands = some c ∧ Band.sreg c r = y ∧ c.held = [] ∧ c.lanes = b.lanes)
  ∧ (∀ (s s0 : State) (key : Nat) (lanes : Dword) (b b0 : Band) (t : Team) (g : Grid) (ls : List Nat),
    State.home s key = some (b, t, g) → s0 = takeDueTraps key lanes b s → Table.find key s0.bands = some b0 →
    ls = passing s0 key lanes b0 →
    exec (.switchPoint key lanes) s = .next (freeKept key (if ls = [] then s0 else
      State.modBand (applyPassing key b0 ls s0) key fun c => Band.modLanes c ls fun _ y =>
        { y with sw := false, frag := 0xFFFF, entry := if budgetSpent t then .check else y.entry })))
  ∧ (∀ (s : State) (key : Nat) (lanes : Dword) (b : Band) (l : Nat), l ∈ passing s key lanes b ↔
    (∃ p ∈ groupsWhere Lane.atSwitch b, l ∈ p.2 ∧ (∃ k ∈ p.2, lanes.getLsbD k = true) ∧ ∀ k ∈ p.2, uncounted s key k = false)
    ∨ (l < b.width ∧ lanes.getLsbD l = true ∧ (Band.lane b l).run ≠ .running ∧ (Band.lane b l).sw = true))
  ∧ (∀ (s : State) (key : Nat) (lanes : Dword) (b : Band), (∀ l, (Band.lane b l).trap = none) → takeDueTraps key lanes b s = s)
  ∧ (∀ (s : State) (key : Nat) (lanes : Dword) (b : Band) (l c : Nat) (a : Dword), l < b.width → lanes.getLsbD l = true →
    (Band.lane b l).trap = some (c, a) → (∀ k, k ≠ l → (Band.lane b k).trap = none) → uncounted s key l = false →
    takeDueTraps key lanes b s = deliver key (Band.lane b l).pc s ⟨l, c, a⟩)

/-- O42. The frame of every scalar, vector and condition instruction at its issue: no byte of memory, no other
band, no register, condition bit, accumulator or trap register of its own band changes; its results are appended to those
held for the switch point (R36). The starvation counts of the band's lanes change (R351). -/
def Obligations.ShortLatencyFrame : Prop :=
  ∀ (i : Instr) (s : State) (iss : Issue) (x : Ix),
    ((scalarValue i).isSome ∨ (vectorValue i).isSome ∨ (condValue i).isSome) → Goes i noCause s iss x → x.replay = none →
    iss.reeval = false →
    ∃ t, exec i s = .next t ∧ t.dram = s.dram ∧ t.sram = s.sram ∧ t.hubSram = s.hubSram ∧ t.ops = s.ops ∧ t.teams = s.teams
      ∧ t.cores = s.cores ∧ t.hub = s.hub ∧ (∀ k, k ≠ x.key → Table.find k t.bands = Table.find k s.bands)
      ∧ ∃ c hs, Table.find x.key t.bands = some c ∧ c.held = x.b.held ++ hs ∧ c.s = x.b.s ∧ c.ka = x.b.ka
          ∧ c.fflags = x.b.fflags ∧ c.fmt = x.b.fmt
          ∧ ∀ l, (Band.lane c l).v = (Band.lane x.b l).v ∧ (Band.lane c l).c = (Band.lane x.b l).c
              ∧ (Band.lane c l).tcause = (Band.lane x.b l).tcause ∧ (Band.lane c l).gen = (Band.lane x.b l).gen
              ∧ (l ∉ x.sel → { Band.lane c l with starve := (Band.lane x.b l).starve } = Band.lane x.b l)

/-! ## Steps of the bands -/

/-- O43. BAND_SELECT (R347 to R352, R402): a quarter without a band changes no more than the level %tokq reads; of a quarter
whose bands take no later pass and split no group, the band that is chosen has its group p under issue afterwards, at the price its core has paid,
with q beside it where the core can pay for that too, while every other band that had a ready group ages. Chosen is a band of FLR 496
or more with the lowest SEQ, which may borrow, or else, of those the core can pay for, the first by YF = 0, AGE of 64 or more and
the lowest SEQ. That the group stands under issue until the next step, and the cycles AGE and FLR count, are the model's choice
(log 4, log 21). -/
def Obligations.BandSelect : Prop :=
  (∀ (s : State) (core q : Nat) (u : Dword), core < 64 → q < 4 → s.issue = none → quarterBands s core q = [] →
    exec (.bandSelect core q u) s = .next (takeLevel core q s))
  ∧ (∀ (s s2 : State) (core q : Nat) (u : Dword) (ks : List Nat) (cs : List Choice) (c : Choice), core < 64 → q < 4 → s.issue = none →
    quarterBands s core q = ks → ks.Nodup → (∀ k ∈ ks, ∀ b, Table.find k s.bands = some b → b.busy = 0) →
    ks.foldl (fun s k => noteHolds (askBand k (enterBand k s)) k) (takeLevel core q s) = s2 →
    (∀ k ∈ ks, ∀ b, Table.find k s2.bands = some b → splitsDue s2 k b = []) →
    cs = ks.filterMap (fun k => (Table.find k s2.bands).bind (choiceOf s2 k)) →
    selectBand (State.core s2 core).bucket cs = some (c, false) → c.timer = false → c.p.fetch = false →
    (∀ d, c.q = some d → d.fetch = false) →
    ∃ t iss, exec (.bandSelect core q u) s = .next t ∧ t.issue = some iss ∧ iss.band = c.key
      ∧ iss.grp = ⟨maskOf c.p.lanes, c.p.pc, c.p.hdr, c.p.replay, c.p.price⟩ ∧ iss.borrowed = false ∧ iss.upset = u
      ∧ iss.shadow = c.band.shadow ∧ iss.reeval = false ∧ iss.done = 0 ∧ iss.prior = some c.band
      ∧ (c.q = none → iss.second = none ∧ (State.core t core).bucket = (State.core s2 core).bucket - c.p.price)
      ∧ (∀ d, c.q = some d → (State.core s2 core).bucket - c.p.price < d.price →
          iss.second = none ∧ (State.core t core).bucket = (State.core s2 core).bucket - c.p.price)
      ∧ (∀ d, c.q = some d → d.price ≤ (State.core s2 core).bucket - c.p.price →
          iss.second = some ⟨maskOf d.lanes, d.pc, d.hdr, d.replay, d.price⟩
            ∧ (State.core t core).bucket = (State.core s2 core).bucket - c.p.price - d.price)
      ∧ t.dram = s2.dram ∧ t.sram = s2.sram
      ∧ (∀ d ∈ cs, ∀ b, Table.find d.key s2.bands = some b → ∃ b', Table.find d.key t.bands = some b' ∧ b'.yf = false
          ∧ b'.age = (if d.key = c.key then 0 else Nat.min 255 (b.age + 1))
          ∧ b'.flr = (if d.key = c.key then 0 else Nat.min 511 (b.flr + 1))))
  ∧ (∀ (bucket : Nat) (cs : List Choice) (c : Choice) (br : Bool), selectBand bucket cs = some (c, br) →
    c ∈ cs
    ∧ ((∃ d ∈ cs, 496 ≤ d.band.flr) → 496 ≤ c.band.flr ∧ (∀ d ∈ cs, 496 ≤ d.band.flr → c.band.seq ≤ d.band.seq)
        ∧ br = !decide (Choice.cost c ≤ bucket))
    ∧ ((∀ d ∈ cs, d.band.flr < 496) → br = false ∧ Choice.cost c ≤ bucket ∧ ∀ d ∈ cs, Choice.cost d ≤ bucket →
        (c.band.yf = true → d.band.yf = true)
        ∧ (c.band.yf = d.band.yf → 64 ≤ d.band.age → 64 ≤ c.band.age)
        ∧ (c.band.yf = d.band.yf → (64 ≤ d.band.age ↔ 64 ≤ c.band.age) → c.band.seq ≤ d.band.seq)))
  ∧ (∀ (bucket : Nat) (cs : List Choice), selectBand bucket cs = none ↔ ∀ d ∈ cs, d.band.flr < 496 ∧ bucket < Choice.cost d)

/-- O44. Steps on one band (R359, R366, R376, R414, R436, R445): with nothing due each leaves the state as it is; a due
timer gives TIMER to the chosen group and is disarmed; a rejoin deadlock gives REJOIN_DEADLOCK to every lane that waits at
an entry; the watchdog gives BAR_WATCHDOG with the barrier's number; an intent whose end has passed closes; late lanes
become a fragment in state LANDING or READY. When the step is taken is the model's choice (log 4, log 22, log 27). -/
def Obligations.BandSteps : Prop :=
  (∀ (s : State) (key : Nat) (b : Band), Table.find key s.bands = some b → timerDue b = false → exec (.timerFire key) s = .next s)
  ∧ (∀ (s : State) (key : Nat) (b : Band) (p : Cand), Table.find key s.bands = some b → timerDue b = true →
    chooseP b ((readyGroups s key).filter fun c => c.replay.isNone) = some p →
    exec (.timerFire key) s = .next
      (State.modBand (deliverAll key p.pc (p.lanes.map fun l => ⟨l, 0x0C, 0⟩) s) key fun b => { b with armed := false }))
  ∧ (∀ (s : State) (key : Nat) (b : Band), Table.find key s.bands = some b → deadlocked s key = false →
    exec (.rejoinDeadlockDetect key) s = .next s)
  ∧ (∀ (s : State) (key : Nat) (b : Band), Table.find key s.bands = some b → deadlocked s key = true →
    exec (.rejoinDeadlockDetect key) s = .next
      (((List.range b.width).filter fun l => (Band.lane b l).run == .rejoin).foldl (fun s l =>
        deliver key (Band.lane b l).pc s ⟨l, 0x0A, 0⟩) s))
  ∧ (∀ (s : State) (key l n : Nat) (b : Band) (t : Team) (g : Grid), State.home s key = some (b, t, g) →
    barrierOf s key l = some n → g.desc.bwdog ≠ 0 → g.desc.bwdog * 1024 < (Band.lane b l).waited →
    Lane.arrived (Band.lane b l) n (Team.bar t n).p = false →
    exec (.barWatchdogExpiry key l) s = .next (deliver key (Band.lane b l).pc s ⟨l, 0x0B, BitVec.ofNat 64 n⟩))
  ∧ (∀ (s : State) (key e : Nat) (b : Band), Table.find key s.bands = some b → b.intent = some e →
    exec (.pwintIntentExpiry key) s = .next
      (if e < s.hub.k then refreshPlan (State.modBand s key fun b => { b with intent := none }) else s))
  ∧ (∀ (s : State) (key n : Nat) (lanes : Dword) (b : Band) (i : Instr) (x : Ix) (late : List Nat), Table.find key s.bands = some b →
    lateGroup s key (Band.lane b ((lanesOf lanes).headD 0)).pc (lanesOf lanes) = some (i, x, late) →
    openEntry s (key / 64) = some n →
    ∃ t f, exec (.lateSplit key lanes) s = .next t ∧ Table.find n (State.core t (key / 64)).frags = some f ∧ f.late = true
      ∧ f.lanes = maskOf late ∧ f.pc = x.pc ∧ f.band = key ∧ (f.state = .landing ∨ f.state = .ready) ∧ t.dram = s.dram)

/-! ## Accesses on their way -/

/-- O45. Accesses where they are performed (R133, R141, R143, R178 to R183): a store writes its bytes to its slice, or to the line
its die's L2 holds in M, and nowhere else; a load reads them there, or from an L2 line in any state, and changes none; ATOM and RED
read the old value and leave the new one of R182; whatever the address, the other memories stand. An access to the slice of another
core leaves first, and is performed when it arrives. That an access is performed in one step is the model's choice (log 10). -/
def Obligations.SramAccess : Prop :=
  (∀ (s : State) (k l g : Nat) (o : Op) (a : Acc), Table.find k s.ops = some o → Op.acc o l = some a → a.place = .sram g →
    o.kind = .store → notOwned s o a g = none →
    (a.stage = .waiting → ownSlice o g = true → mayPerform s o a = true →
      ∃ t, exec (.storeAcknowledge k l) s = .next t ∧ t.dram = s.dram ∧ t.hubSram = s.hubSram
        ∧ (∀ i < a.data.length, Memory.read t.sram (g + i) = a.data.getD i 0)
        ∧ (∀ b, b < g ∨ g + a.data.length ≤ b → Memory.read t.sram b = Memory.read s.sram b))
    ∧ (∀ n, a.stage = .sent n → routeUp s (o.band / 1024) (g / 2 ^ 30) = true → behindSent s (o.band / 1024) (some (o.band / 64)) g n = false →
      ∃ t, exec (.sramRemoteAccess k l) s = .next t ∧ t.dram = s.dram ∧ t.hubSram = s.hubSram
        ∧ (∀ i < a.data.length, Memory.read t.sram (g + i) = a.data.getD i 0)
        ∧ (∀ b, b < g ∨ g + a.data.length ≤ b → Memory.read t.sram b = Memory.read s.sram b)))
  ∧ (∀ (s : State) (k l g r n : Nat) (sg : Bool) (o : Op) (a : Acc), Table.find k s.ops = some o → Op.acc o l = some a →
    a.place = .sram g → o.kind = .load r n sg → notOwned s o a g = none → sramMarked s g a.size = none →
    (a.stage = .waiting → ownSlice o g = true → mayPerform s o a = true →
      ∃ t o', exec (.longLatencyResultLands k l) s = .next t ∧ t.sram = s.sram ∧ t.dram = s.dram ∧ Table.find k t.ops = some o'
        ∧ ∀ b ∈ o'.accs, b.lane = l → b.stage = .performed ∧ b.value = leNat (Memory.bytes s.sram g a.size))
    ∧ (∀ m, a.stage = .sent m → routeUp s (o.band / 1024) (g / 2 ^ 30) = true → behindSent s (o.band / 1024) (some (o.band / 64)) g m = false →
      ∃ t o', exec (.sramRemoteAccess k l) s = .next t ∧ t.sram = s.sram ∧ t.dram = s.dram ∧ Table.find k t.ops = some o'
        ∧ ∀ b ∈ o'.accs, b.lane = l → b.stage = .performed ∧ b.value = leNat (Memory.bytes s.sram g a.size)))
  ∧ (∀ (s : State) (k l g : Nat) (o : Op) (a : Acc), Table.find k s.ops = some o → Op.acc o l = some a → a.place = .sram g →
    a.stage = .waiting → ownSlice o g = false → OpKind.ofTile o.kind = false → mayPerform s o a = true →
    behindMessage s o a g = false →
    ∃ t o', exec (.sramRemoteAccess k l) s = .next t ∧ t.sram = s.sram ∧ t.dram = s.dram ∧ Table.find k t.ops = some o'
      ∧ ∀ b ∈ o'.accs, b.lane = l → b.stage = .sent s.nextKey)
  ∧ (∀ (s : State) (k l g : Nat) (op : AOp) (sg : Bool) (ret : Option Nat) (o : Op) (a : Acc) (old : Nat), Table.find k s.ops = some o →
    Op.acc o l = some a → a.place = .sram g → o.kind = .atomic op sg ret → notOwned s o a g = none → sramMarked s g a.size = none →
    (a.size = 4 ∨ a.size = 8 ∨ a.size = 16) → a.data.length = a.size → a.cmp.length ≤ a.size → old = leNat (Memory.bytes s.sram g a.size) →
    ∀ i : Instr, (a.stage = .waiting ∧ ownSlice o g = true ∧ mayPerform s o a = true
        ∧ i = (if ret.isSome then .longLatencyResultLands k l else .storeAcknowledge k l))
      ∨ (∃ m, a.stage = .sent m ∧ routeUp s (o.band / 1024) (g / 2 ^ 30) = true
          ∧ behindSent s (o.band / 1024) (some (o.band / 64)) g m = false ∧ i = .sramRemoteAccess k l) →
    ∃ t o', exec i s = .next t ∧ t.dram = s.dram ∧ t.hubSram = s.hubSram ∧ Table.find k t.ops = some o'
      ∧ (∀ b ∈ o'.accs, b.lane = l → b.stage = .performed ∧ b.value = old)
      ∧ Memory.bytes t.sram g a.size = lowBytes a.size (atomicResult op sg a.size old (leNat a.data) (leNat a.cmp))
      ∧ (∀ b, b < g ∨ g + a.size ≤ b → Memory.read t.sram b = Memory.read s.sram b))
  ∧ (∀ (s : State) (k l c : Nat) (o : Op) (a : Acc) (y : Line), Table.find k s.ops = some o → Op.acc o l = some a → a.place = .mem c →
    a.stage = .waiting → mayPerform s o a = true → Table.find (c / 128) (State.die s (o.band / 64 / 16)).l2 = some y →
    (∀ r n sg, o.kind = .load r n sg → (nearRead s o = true → Table.find (c / 128) (State.core s (o.band / 64)).l1 = none) →
      poisonAt y.poison (c % 128) a.size = none →
      ∃ t o', exec (.longLatencyResultLands k l) s = .next t ∧ t.dram = s.dram ∧ t.sram = s.sram ∧ Table.find k t.ops = some o'
        ∧ ∀ b ∈ o'.accs, b.lane = l → b.stage = .performed ∧ b.value = leNat ((y.bytes.drop (c % 128)).take a.size))
    ∧ (o.kind = .store → y.st = .m →
      ∃ t z, exec (.storeAcknowledge k l) s = .next t ∧ t.dram = s.dram ∧ t.sram = s.sram
        ∧ Table.find (c / 128) (State.die t (o.band / 64 / 16)).l2 = some z ∧ z.st = .m
        ∧ z.bytes = y.bytes.take (c % 128) ++ a.data ++ y.bytes.drop (c % 128 + a.data.length)
        ∧ ∀ j, j ≠ c / 128 → Table.find j (State.die t (o.band / 64 / 16)).l2 = Table.find j (State.die s (o.band / 64 / 16)).l2)
    ∧ (∀ (op : AOp) (sg : Bool) (ret : Option Nat) (old : Nat), o.kind = .atomic op sg ret → y.st = .m →
      poisonAt y.poison (c % 128) a.size = none → y.bytes.length = 128 → c % 128 + a.size ≤ 128 →
      (a.size = 4 ∨ a.size = 8 ∨ a.size = 16) → a.data.length = a.size → a.cmp.length ≤ a.size →
      old = leNat ((y.bytes.drop (c % 128)).take a.size) →
      ∃ t z o', exec (if ret.isSome then .longLatencyResultLands k l else .storeAcknowledge k l) s = .next t ∧ t.dram = s.dram
        ∧ t.sram = s.sram ∧ Table.find k t.ops = some o' ∧ (∀ b ∈ o'.accs, b.lane = l → b.stage = .performed ∧ b.value = old)
        ∧ Table.find (c / 128) (State.die t (o.band / 64 / 16)).l2 = some z ∧ z.st = .m
        ∧ z.bytes = y.bytes.take (c % 128) ++ lowBytes a.size (atomicResult op sg a.size old (leNat a.data) (leNat a.cmp))
            ++ y.bytes.drop (c % 128 + a.size)
        ∧ ∀ j, j ≠ c / 128 → Table.find j (State.die t (o.band / 64 / 16)).l2 = Table.find j (State.die s (o.band / 64 / 16)).l2))

/-- O46. Results land and writes are acknowledged (R37, R38, R177, R178, R194): a performed load writes its destination, a narrow one in
the extended form of its type, and its pending mark goes; the last acknowledged access of a counted store lowers its counter; a
peer's answer lands as the result. That a value which lands after its run has passed the switch point replaces what a later slot
of that run wrote there is the model's choice (log 47). -/
def Obligations.ResultsLand : Prop :=
  (∀ (s : State) (k l r n : Nat) (sg : Bool) (o : Op) (a : Acc) (b : Band), Table.find k s.ops = some o → Op.acc o l = some a →
    o.kind = .load r n sg → a.stage = .performed → a.lane = l → Table.find o.band s.bands = some b → (Band.lane b l).run ≠ .exited →
    exec (.longLatencyResultLands k l) s = .next (landAcc k o a s))
  ∧ (∀ (s : State) (k r n : Nat) (sg : Bool) (o : Op) (a : Acc) (b : Band), o.kind = .load r n sg → Table.find o.band s.bands = some b →
    (Band.lane b a.lane).run ≠ .exited →
    ∃ c, Table.find o.band (landAcc k o a s).bands = some c
      ∧ (1 ≤ a.size → a.size < 4 → a.value < 2 ^ (8 * a.size) →
          Lane.reg (Band.lane c a.lane) r = BitVec.ofInt 32 (intOf sg (8 * a.size) a.value)
            ∧ ∀ q, q ≠ r → Lane.reg (Band.lane c a.lane) q = Lane.reg (Band.lane b a.lane) q)
      ∧ (4 ≤ a.size → (∀ j < a.size / 4, Lane.reg (Band.lane c a.lane) (r + j) = BitVec.ofNat 32 (a.value / 2 ^ (32 * j)))
          ∧ ∀ q, q < r ∨ r + a.size / 4 ≤ q → Lane.reg (Band.lane c a.lane) q = Lane.reg (Band.lane b a.lane) q)
      ∧ (∀ p ∈ (Band.lane c a.lane).pend, p.2 ≠ k) ∧ (∀ j, j ≠ a.lane → Band.lane c j = Band.lane b j) ∧ c.s = b.s)
  ∧ (∀ (s : State) (k l r v key : Nat) (b : Band), Table.find key s.bands = some b →
    ∃ c, Table.find key (landWords key l r [BitVec.ofNat 32 v] k s).bands = some c
      ∧ Lane.reg (Band.lane c l) r = BitVec.ofNat 32 v ∧ (∀ q, q ≠ r → Lane.reg (Band.lane c l) q = Lane.reg (Band.lane b l) q)
      ∧ (∀ p ∈ (Band.lane c l).pend, p.2 ≠ k) ∧ (∀ j, j ≠ l → Band.lane c j = Band.lane b j) ∧ c.s = b.s)
  ∧ (∀ (s : State) (k l : Nat) (o : Op) (a : Acc) (dc : Fin 6) (b : Band), Table.find k s.ops = some o → o.accs = [a] → a.lane = l →
    o.kind = .store → o.dc = some dc → o.order = .rlx → a.stage = .performed → Table.find o.band s.bands = some b →
    ∃ t c, exec (.storeAcknowledge k l) s = .next t ∧ Table.find k t.ops = none ∧ Table.find o.band t.bands = some c
      ∧ Table.get 0 dc.val c.dc = Table.get 0 dc.val b.dc - 1 ∧ t.dram = s.dram ∧ t.sram = s.sram)
  ∧ (∀ (s : State) (k l v f r n : Nat) (sg : Bool) (o : Op) (a : Acc), Table.find k s.ops = some o → Op.acc o l = some a →
    a.place = .fabric f → a.stage = .translated → stillBuffered s (o.band / 64) k l = false → o.kind = .load r n sg →
    exec (.remoteResponse k l (.ok v)) s = .next (landAcc k o { a with value := v % 2 ^ (8 * a.size) } s))
  ∧ (∀ (s : State) (k l v f : Nat) (o : Op) (a : Acc), Table.find k s.ops = some o → Op.acc o l = some a →
    a.place = .fabric f → a.stage = .translated → stillBuffered s (o.band / 64) k l = false → o.kind = .store →
    exec (.remoteResponse k l (.ok v)) s = .next (endFabricWrite k o a false s))

/-! ## Translation, faults, pages -/

/-- O47. Translation and its faults (R99 to R108): an uncached page starts one walk, a second request none; a cached one
sends its request to the home the entry names; a walk that finds PRESENT caches the entry; the faulting lanes of one
instruction form one fragment; records enter their queue together or not at all. The bytes a record has at an offset of hub
SRAM are R107's; the rest of hub SRAM is the model's (log 3). -/
def Obligations.TranslationAndFaults : Prop :=
  (∀ (s : State) (d line : Nat) (ex : Bool), d < 4 → wanted s d line ex = true → lineBusy (State.die s d) line = false →
    isHeld (State.die s d) line (kindOf ex) = false → tlbFind (State.die s d) (line * 128) = none → (State.die s d).walks = [] →
    ∃ t w, exec (.translationRequest d line ex) s = .next t ∧ (State.die t d).walks = [w] ∧ w.page = line * 128 / 2 ^ 16
      ∧ w.write = ex ∧ t.msgs = s.msgs ∧ t.dram = s.dram ∧ exec (.translationRequest d line ex) t = .next t)
  ∧ (∀ (s : State) (d line : Nat) (e : Tlb), d < 4 → wanted s d line false = true → lineBusy (State.die s d) line = false →
    isHeld (State.die s d) line .read = false → tlbFind (State.die s d) (line * 128) = some e →
    ∃ t, exec (.translationRequest d line false) s = .next t
      ∧ Table.find s.nextKey t.msgs = some ⟨.rdS, line, d, unitDie (placeOf e.entry e.big (line * 128)).1, [], 0,
          unitKey (placeOf e.entry e.big (line * 128)).1 ((placeOf e.entry e.big (line * 128)).2 / 128 * 128)⟩
      ∧ (Table.find line (State.die t d).wants).isSome = true ∧ t.dram = s.dram ∧ t.sram = s.sram)
  ∧ (∀ (s s1 : State) (d page key e : Nat) (big : Bool) (w : Walk), d < 4 →
    (State.die s d).walks.find? (fun w => w.page == page) = some w →
    walk d (page * 2 ^ 16) w.write w.zero (State.modDie s d fun d => { d with walks := d.walks.filter fun x => x.page != page })
      = (.present key e big, s1) →
    exec (.translationWalk d page) s = .next ((secondOf s1 d page).foldl (releaseHeld d)
      (dropSecond d page (cacheEntry d (page * 2 ^ 16) e big s1))))
  ∧ (∀ (s : State) (d page e : Nat) (big : Bool), d < 4 → (State.die s d).tlb.length < 8192 →
    Table.find (if big then page / 32 * 32 else page) (State.die (cacheEntry d (page * 2 ^ 16) e big s) d).tlb = some ⟨e, big⟩
      ∧ (cacheEntry d (page * 2 ^ 16) e big s).dram = s.dram ∧ (cacheEntry d (page * 2 ^ 16) e big s).ops = s.ops)
  ∧ (∀ (s : State) (k : Nat) (o : Op), Table.find k s.ops = some o → faultPages s o.kind o.accs ≠ [] → o.accs.all Acc.over = true →
    exec (.pageFaultResponse k) s = .next
      (let ps := faultPages s o.kind o.accs
       let m := ps.foldl (fun m p => m ||| p.lanes) 0
       formFragment o.band o.pc (Log.restrict o.log m) 0 ps o.dc (o.replay.map fun r => r % 128)
         (parkLanes o.band m o.pc (some k) { s with ops := Table.del k s.ops })))
  ∧ (∀ (s : State) (d : Nat) (r : FaultRec), d < 4 → (State.die s d).fqWait = [r] → r.nrec = 1 → r.src = 1 → (State.die s d).fq = [] →
    (State.die s d).fqHead = 0 → (State.die s d).fqTail = 0 →
    ∃ t, exec (.faultRecordPost d) s = .next t ∧ (State.die t d).fq = [(0, { r with seq := (State.die s d).fqSeq.toNat })]
      ∧ (State.die t d).fqHead = 1 ∧ (State.die t d).fqWait = [] ∧ (State.die t d).fqSeq = (State.die s d).fqSeq + 1
      ∧ Memory.bytes t.hubSram (0x400000 + d * 0x20000) 64 =
          natLe 4 (6 + r.kind % 16 * 2 ^ 8 + 2 ^ 12 + r.acc % 4 * 2 ^ 14 + if r.ps then 2 ^ 16 else 0) ++ natLe 2 r.frag ++ natLe 1 r.core
          ++ natLe 1 r.ctx ++ natLe 8 r.caddr ++ natLe 8 r.vaddr ++ natLe 8 r.lmask.toNat ++ natLe 8 r.entry
          ++ natLe 4 (State.die s d).fqSeq.toNat ++ natLe 2 1 ++ natLe 2 r.irec ++ natLe 8 r.eng ++ natLe 8 0 ∧ t.dram = s.dram)
  ∧ (∀ (s : State) (d : Nat) (r : FaultRec) (rest rs : List FaultRec), d < 4 → (State.die s d).fqWait = r :: rest →
    rs = (r :: rest).take r.nrec → (State.die s d).fqHead < 2048 →
    (2048 < Die.fqCount (State.die s d) + rs.length → exec (.faultRecordPost d) s = .next s)
    ∧ (Die.fqCount (State.die s d) + rs.length ≤ 2048 →
      ∃ t, exec (.faultRecordPost d) s = .next t ∧ (State.die t d).fqWait = (r :: rest).drop r.nrec ∧ t.dram = s.dram
        ∧ (State.die t d).fqHead = ((State.die s d).fqHead + rs.length) % 2048
        ∧ (State.die t d).fqSeq = (State.die s d).fqSeq + BitVec.ofNat 32 rs.length
        ∧ ∀ i x, rs[i]? = some x →
          Table.find (((State.die s d).fqHead + i) % 2048) (State.die t d).fq
            = some { x with seq := ((State.die s d).fqSeq + BitVec.ofNat 32 i).toNat }))
  ∧ (∀ (s : State) (d : Nat) (r : FaultRec), d < 4 → (State.die s d).fqWait = [r] → r.nrec = 1 →
    ((State.die s d).fqHead + 2048 - (State.die s d).fqTail) % 2048 = 0 → (State.die s d).fq ≠ [] →
    exec (.faultRecordPost d) s = .next s)

/-- O48. Fragments (R442, R443, R446): ACT 0 makes a PAGE fragment in state PARKED READY and sets BAD for any other; ACT 1
gives POISON to each of its lanes and frees its entry; ACT 2 frees it and leaves its lanes parked; a band parked for want
of an entry makes its fragment once there is one, and a second record of it stands behind the first (log 55); a replay that its core can pay for begins, and one it cannot pay for does
not. -/
def Obligations.Fragments : Prop :=
  (∀ (s : State) (core n : Nat) (f : Frag), core < 64 → Table.find n (State.core s core).frags = some f →
    f.state = .parked → f.late = false →
    exec (.fragReady core n) s = .next (State.modCore
      (State.modCore s core fun c => { c with frags := Table.set n { f with state := .ready } c.frags }) core
      fun c => { c with frctl := frctlAfter n 0 false c.frctl }))
  ∧ (∀ (s : State) (core n : Nat) (f : Frag), core < 64 → Table.find n (State.core s core).frags = some f →
    f.state ≠ .parked ∨ f.late = true →
    exec (.fragReady core n) s = .next (State.modCore s core fun c => { c with frctl := frctlAfter n 0 true c.frctl }))
  ∧ (∀ (s : State) (core n : Nat) (f : Frag), core < 64 → Table.find n (State.core s core).frags = some f →
    f.state ≠ .replaying →
    exec (.fragPoison core n) s = .next (State.modCore
      (deliverAll f.band f.pc ((lanesOf f.lanes).map fun l => ⟨l, 0x12, BitVec.ofNat 64 (fragByte s n f l)⟩)
        (endFrag core n f s)) core fun c => { c with frctl := frctlAfter n 1 false c.frctl }))
  ∧ (∀ (s : State) (core n : Nat) (f : Frag), core < 64 → Table.find n (State.core s core).frags = some f →
    f.state ≠ .replaying →
    exec (.fragDiscard core n) s = .next (State.modCore (endFrag core n f s) core fun c =>
      { c with frctl := frctlAfter n 2 false c.frctl }))
  ∧ (∀ (s : State) (core n : Nat) (f : Frag), Table.find n (State.core (endFrag core n f s) core).frags = none
      ∧ ∀ b, Table.find f.band s.bands = some b →
          ∃ c, Table.find f.band (endFrag core n f s).bands = some c ∧ c.lanes = b.lanes)
  ∧ (∀ (s : State) (core n key : Nat) (b : Band) (o : Overflow) (h : Band × Team × Grid), core < 64 →
    oldestFull s core = some (key, b, o) → freeEntry (State.core s core) = some n → State.home s key = some h →
    exec (.fragFullResume core) s = .next
      (putFragment key n o.pc o.log o.src o.pages (o.op.map fun k => Fin.ofNat 6 k) h.2.2.ctx
        (State.modBand s key fun b => { b with overflow := b.more.head?, more := b.more.tail })))
  ∧ (∀ (s : State) (core n : Nat) (f : Frag) (h : Band × Team × Grid) (c : Cand), core < 64 → s.issue = none →
    Table.find n (State.core s core).frags = some f → State.home s f.band = some h → bandStill s h.1 h.2.1 h.2.2 = false →
    budgetSpent h.2.1 = false → lookFrag s f.band n f h.1 = some c → c.price ≤ (State.core s core).bucket →
    exec (.fragmentReplay core n) s = .next
      (startGroups f.band 0 false h.1 (readyLanes s f.band) (some c) none (chargeCore core c.price s)))
  ∧ (∀ (s : State) (core n : Nat) (f : Frag) (h : Band × Team × Grid) (c : Cand), core < 64 →
    Table.find n (State.core s core).frags = some f → State.home s f.band = some h →
    lookFrag s f.band n f h.1 = some c → (State.core s core).bucket < c.price →
    exec (.fragmentReplay core n) s = .next s)
  ∧ (∀ (s : State) (key : Nat) (b : Band) (ready : Dword) (c : Cand), c.fetch = false →
    ∃ iss, (startGroups key 0 false b ready (some c) none s).issue = some iss ∧ iss.band = key ∧ iss.second = none
      ∧ iss.grp = ⟨maskOf c.lanes, c.pc, c.hdr, c.replay, c.price⟩)

/-- O49. The page registers and firmware's services (R98, R101, R104, R107, R110, R111, R114, R118, R427): a write of MTINV sets its
fields, and GO starts an invalidation unless one runs; it completes, once no walk begun before it is left and the second
walks of the held requests have begun, with the covered entries gone from every unit; FFADD keeps its field and appends one
frame to a queue of at most 64, and a write is ignored while the queue is full; FQTAIL frees what lies before it; the scan ages
the pages and has every cached entry dropped; a page move marks its entry MIGRATING first, and waits in its third step for what uses the
page; a record is served in the order of the dies, none while completions are held and the queues are not yet drained again; a
regeneration goes on once its grid has ended. What a write does to an invalidation that runs, the step in which firmware acts and what it
reads (log 12), what a move waits for and that a page of a saved TLD is not chosen (log 49), and the phases and the staging window of a regeneration
(log 52) are the model's choices. -/
def Obligations.PageServices : Prop :=
  (∀ (s : State) (v : Dword), s.hub.mtinv.getLsbD 0 = false →
    ∃ t, exec (.mtinvGo v) s = .next t ∧ t.hub.mtinv = v &&& 0xFFFFFFFFFFFF0003#64 ∧ t.dram = s.dram ∧ t.fw = s.fw
      ∧ (v.getLsbD 0 = false → t.dies = s.dies))
  ∧ (∀ (s : State) (v : Dword), s.hub.mtinv.getLsbD 0 = true →
    ∃ t, exec (.mtinvGo v) s = .next t ∧ t.hub.mtinv = v &&& 0xFFFFFFFFFFFF0002#64 ||| 1 ∧ t.hub.mtrun = s.hub.mtrun
      ∧ t.dies = s.dies ∧ t.dram = s.dram)
  ∧ (∀ (s : State), s.hub.mtinv.getLsbD 0 = true → s.hub.mtrun.getLsbD 1 = true →
    (∀ d < 4, (∀ w ∈ (State.die s d).walks, w.due = false) ∧ (State.die s d).hold = []) →
    ∃ t, exec .mtinvComplete s = .next t ∧ t.hub.mtinv = s.hub.mtinv &&& ~~~1#64 ∧ t.dram = s.dram
      ∧ ∀ d < 4, ∀ e ∈ (State.die t d).tlb, 2 ^ 32 ≤ e.1)
  ∧ (∀ (s : State) (p n : Nat), s.hub.mtinv.getLsbD 0 = true → s.hub.mtrun.getLsbD 1 = false →
    p = s.hub.mtrun.toNat / 2 ^ 16 % 2 ^ 32 → n = (if s.hub.mtrun.toNat / 2 ^ 48 = 0 then 65536 else s.hub.mtrun.toNat / 2 ^ 48) →
    (∀ d < 4, (∀ w ∈ (State.die s d).walks, w.due = false) ∧ (State.die s d).hold = []) →
    ∃ t, exec .mtinvComplete s = .next t ∧ t.hub.mtinv = s.hub.mtinv &&& ~~~1#64 ∧ t.dram = s.dram
      ∧ ∀ d < 4, ∀ e ∈ (State.die t d).tlb, e ∈ (State.die s d).tlb ∧ (p + n ≤ e.1 ∨ e.1 + (if e.2.big then 32 else 1) ≤ p))
  ∧ (∀ (s : State) (d : Nat) (h : HoldReq), d < 4 → (State.die s d).walks = [] → (State.die s d).hold = [h] →
    (∃ w, (State.die (walkAgain d s h) d).walks = [w] ∧ w.page = h.line / 512)
      ∧ (State.die (walkAgain d s h) d).hold = [{ h with again := true }])
  ∧ (∀ (s : State) (u : Nat) (v : Word), u < 24 →
    ∃ t, exec (.ffaddWrite u v) s = .next t ∧ t.dies = s.dies ∧ t.dram = s.dram
      ∧ (State.unit t u).ffadd = (if 64 ≤ (State.unit s u).ffq.length then (State.unit s u).ffadd else BitVec.ofNat 22 v.toNat)
      ∧ (State.unit t u).ffq = (if 64 ≤ (State.unit s u).ffq.length then (State.unit s u).ffq
          else (State.unit s u).ffq ++ [v.toNat % 2 ^ 22]))
  ∧ (∀ (s : State) (d : Nat) (v : Word), d < 4 →
    ∃ t, exec (.fqtailWrite d v) s = .next t ∧ (State.die t d).fqTail = v.toNat % 2048 ∧ (State.die t d).fqHead = (State.die s d).fqHead
      ∧ (∀ e ∈ (State.die t d).fq, e ∈ (State.die s d).fq) ∧ t.dram = s.dram)
  ∧ (∀ s : State, s.fw.pages = [] → s.hub.mtinv.getLsbD 0 = false → exec .accessBitScan s = .next (beginMtinv 2 s))
  ∧ (∀ (s t : State) (page : Nat) (r : PageRec), s.fw.pages = [(page, r)] → s.hub.mtinv.getLsbD 0 = false → t = readCover page s →
    State.dword t (coverKey t page).1 % 8 = 1 → entryBad t (coverKey t page).1 = false →
    exec .accessBitScan s = .next (
      let e := State.dword t (coverKey t page).1
      let age := if e.testBit 3 then 0 else Nat.min (e / 2 ^ 48 % 2 ^ 8 + 1) 255
      beginMtinv 2 (putEntry (coverKey t page).1 (e % 2 ^ 48 + age * 2 ^ 48 - (if e.testBit 3 then 8 else 0)) t)))
  ∧ (∀ (s : State) (page u f : Nat) (r : PageRec), u < 24 → moveOf s page = none → Table.find page s.fw.pages = some r →
    State.dword s (coverKey s page).1 % 8 = 1 → inSavedTld s page (pageSpan (coverKey s page).2) = false →
    freeFrame s (coverKey s page).2 u = some f →
    ∃ t m, exec (.pageMove page u) s = .next t ∧ t.fw.moves = s.fw.moves ++ [m] ∧ m.page = page ∧ m.step = 0
      ∧ (∃ aside, m.goal = .frame u f aside) ∧ t.dram = s.dram)
  ∧ (∀ (s : State) (page u : Nat) (m : Move), u < 24 → moveOf s page = some m →
    exec (.pageMove page u) s = .next (Move.next m s))
  ∧ (∀ (s : State) (m : Move), m.step = 0 → State.dword s (coverKey s m.page).1 % 8 = 1 →
    State.dword (Move.next m s) (coverKey s m.page).1 = 4)
  ∧ (∀ (s : State) (m : Move), m.step = 2 → pagesIdle s m.page (pageSpan m.big) = false → Move.next m s = s)
  ∧ (∀ (s : State) (uid : Nat), (s.hub.schedstat.getLsbD 2 = false ∨ s.fw.draining = true) → toSettle s = some uid →
    exec .faultRecordServe s = .next (settleRecord uid s))
  ∧ (∀ (s : State) (d : Nat) (r : FaultRec), (s.hub.schedstat.getLsbD 2 = false ∨ s.fw.draining = true) → toSettle s = none →
    s.fw.parked = [] → nextFaultDie s = some d →
    Table.find (State.die s d).fqTail (State.die s d).fq = some r →
    (∀ t, serveRecord d r (takeRecord d (journal (.served d r.seq) s)) = .done t → exec .faultRecordServe s = .next t)
    ∧ (∀ t, serveRecord d r (takeRecord d (journal (.served d r.seq) s)) = .work t →
      exec .faultRecordServe s = .next (State.modFw t fun f => { f with parked := f.parked ++ [(d, r)] })))
  ∧ (∀ s : State, s.hub.schedstat.getLsbD 2 = true → s.fw.draining = false → exec .faultRecordServe s = .next s)
  ∧ (∀ (s : State) (g : Regen), s.fw.regens = [g] →
    (g.phase = 0 → exec (.regenComplete g.page) s = .next (frameRegen g s))
    ∧ (g.phase = 1 → exec (.regenComplete g.page) s = .next (launchRegen g s))
    ∧ (g.phase = 2 → g.ended = none → exec (.regenComplete g.page) s = .next s)
    ∧ (∀ b, g.phase = 2 → g.ended = some b → pagesIdle s (stagingOf g s).chip (pageSpan g.big) = true →
      exec (.regenComplete g.page) s = .next (setRegen { g with phase := 3 } s))
    ∧ (g.phase = 6 → s.hub.mtinv.getLsbD 0 = false → exec (.regenComplete g.page) s = .next (endRegen g s)))

/-! ## Coherence -/

/-- O50. Requests at the home (R125, R126, R127, R129): RdS, RdX and Upg are served in their turn; a request whose line has an
open transaction, or an earlier request that waits, waits; one that needs an entry of a full set of the snoop filter waits
for the room; the first reader of a line that nobody holds becomes its owner and gets the unit's data, unshared, and Cmp;
PutM writes memory where the directory names its sender as owner, and each Put is answered by PutAck. -/
def Obligations.HomeRequests : Prop :=
  (∀ (s : State) (k : Nat) (m : Msg) (e : Ecc), Table.find k s.msgs = some m → arrives s k m = true →
    behindAtHome k m s = false → roomInFilter m.dst m.src m.line s = true →
    (m.kind = .rdS → exec (.cohRdS k e) s = .next (serve m.dst m.src m.line m.mem false false e (takeRequest k m s)))
    ∧ (m.kind = .rdX → exec (.cohRdX k e) s = .next (serve m.dst m.src m.line m.mem true false e (takeRequest k m s)))
    ∧ (m.kind = .upg → exec (.cohUpg k) s = .next (
        let d := Die.entry (State.die (takeRequest k m s) m.dst) m.line
        serve m.dst m.src m.line m.mem true (d.owner == some m.src || d.sharers.elem m.src) .clean (takeRequest k m s))))
  ∧ (∀ (s : State) (k : Nat) (m : Msg) (e : Ecc), Table.find k s.msgs = some m → arrives s k m = true →
    behindAtHome k m s = true →
    (m.kind = .rdS → exec (.cohRdS k e) s = .next (waitAtHome k m s))
    ∧ (m.kind = .rdX → exec (.cohRdX k e) s = .next (waitAtHome k m s))
    ∧ (m.kind = .upg → exec (.cohUpg k) s = .next (waitAtHome k m s))
    ∧ (m.kind = .putM → exec (.cohPutM k) s = .next (waitAtHome k m s))
    ∧ (m.kind = .putE → exec (.cohPutE k) s = .next (waitAtHome k m s)))
  ∧ (∀ (s : State) (k : Nat) (m : Msg) (e : Ecc), Table.find k s.msgs = some m → arrives s k m = true →
    behindAtHome k m s = false → roomInFilter m.dst m.src m.line s = false →
    (m.kind = .rdS → exec (.cohRdS k e) s = .next (makeRoom m.dst m.line (waitAtHome k m s)))
    ∧ (m.kind = .rdX → exec (.cohRdX k e) s = .next (makeRoom m.dst m.line (waitAtHome k m s)))
    ∧ (m.kind = .upg → exec (.cohUpg k) s = .next (makeRoom m.dst m.line (waitAtHome k m s))))
  ∧ (∀ (s : State) (home req line mem used old : Nat), Die.entry (State.die s home) line = ⟨none, [], none, used, old⟩ →
    ∃ t d, serve home req line mem false false .clean s = t ∧ (Die.entry (State.die t home) line).owner = some req
      ∧ (Die.entry (State.die t home) line).txn = none
      ∧ Table.find s.nextKey t.msgs = some d ∧ d.kind = .data false ∧ d.dst = req
      ∧ d.bytes = (unitLine s (mem / 2 ^ 40) (mem % 2 ^ 40)).1
      ∧ Table.find (s.nextKey + 1) t.msgs = some ⟨.cmp, line, home, req, [], 0, 0⟩ ∧ t.dram = s.dram)
  ∧ (∀ (s : State) (k : Nat) (m : Msg), Table.find k s.msgs = some m → arrives s k m = true → behindAtHome k m s = false →
    (Die.entry (State.die s m.dst) m.line).owner = some m.src →
    (m.kind = .putM → exec (.cohPutM k) s = .next (sendPutAck m (setDir m.dst m.line
      { Die.entry (State.die (takeRequest k m s) m.dst) m.line with owner := none }
      (writeLineAt m.mem m.bytes m.poison (takeRequest k m s)))))
    ∧ (m.kind = .putE → exec (.cohPutE k) s = .next (sendPutAck m (setDir m.dst m.line
      { Die.entry (State.die (takeRequest k m s) m.dst) m.line with owner := none } (takeRequest k m s)))))
  ∧ (∀ (s : State) (k : Nat) (m : Msg), Table.find k s.msgs = some m → arrives s k m = true → behindAtHome k m s = false →
    (Die.entry (State.die s m.dst) m.line).owner ≠ some m.src →
    (m.kind = .putM → exec (.cohPutM k) s = .next (sendPutAck m (takeRequest k m s)))
    ∧ (m.kind = .putE → exec (.cohPutE k) s = .next (sendPutAck m (takeRequest k m s))))
  ∧ (∀ (s : State) (m : Msg),
    Table.find s.nextKey (sendPutAck m s).msgs = some ⟨.putAck, m.line, m.dst, m.src, [], 0, m.mem⟩
      ∧ (sendPutAck m s).dram = s.dram)
  ∧ (∀ (s : State) (mem : Nat) (bs : List Byte) (p : BitVec 8), bs.length = 128 →
    (unitLine (writeLineAt mem bs p s) (mem / 2 ^ 40) (mem % 2 ^ 40)).1 = bs)

/-- O51. At the holders and the requester (R124 to R126): an owner that forwards answers the home; a die that is told to
drop a line has it no more and says so, once an access of its own that the line has come for is performed; a requester with its data and Cmp holds the line in M, S or E; PutAck frees what was
kept; a crossing that replays counts the flit, and goes down at 255 failures in a row (R129). That a message is handled in
one step is the model's choice (log 4, log 15). -/
def Obligations.HolderMessages : Prop :=
  (∀ (s : State) (k : Nat) (m : Msg), Table.find k s.msgs = some m → arrives s k m = true → m.kind = .inv → answerComing s m.dst m.line = false →
    usable s m.dst m.line = false → m.dst < 4 →
    ∃ t, exec (.cohInv k) s = .next t ∧ Table.find m.line (State.die t m.dst).l2 = none ∧ t.dram = s.dram
      ∧ Table.find s.nextKey t.msgs = some ⟨.invAck, m.line, m.dst, m.src, [], 0, m.mem⟩)
  ∧ (∀ (s : State) (k dd : Nat) (ex : Bool) (m : Msg) (l : Line), Table.find k s.msgs = some m → arrives s k m = true → m.kind = .fwd dd ex false →
    answerComing s m.dst m.line = false → usable s m.dst m.line = false → Table.find m.line (State.die s m.dst).l2 = some l →
    ∃ t, exec (.cohFwd k) s = .next t ∧ t.dram = s.dram
      ∧ Table.find s.nextKey t.msgs = some ⟨.data (!ex), m.line, m.dst, dd, l.bytes, l.poison, m.mem⟩
      ∧ Table.find m.line (State.die t m.dst).l2 = (if ex then none else some { l with st := if l.st == .e then .s else .o }))
  ∧ (∀ (s : State) (k : Nat) (sh : Bool) (m : Msg) (w : Want), Table.find k s.msgs = some m → arrives s k m = true → m.kind = .data sh →
    Table.find m.line (State.die s m.dst).wants = some w → w.cmp = false →
    ∃ t, exec (.cohData k) s = .next t ∧ t.dram = s.dram
      ∧ Table.find m.line (State.die t m.dst).wants = some { w with data := some m.bytes, poison := m.poison, shared := sh })
  ∧ (∀ (s : State) (k : Nat) (m : Msg) (w : Want) (bs : List Byte), Table.find k s.msgs = some m → arrives s k m = true → m.kind = .cmp →
    Table.find m.line (State.die s m.dst).wants = some w → w.data = some bs → (State.die s m.dst).l2 = [] →
    ∃ t, exec (.cohCmp k) s = .next t ∧ t.dram = s.dram ∧ Table.find m.line (State.die t m.dst).wants = none
      ∧ Table.find m.line (State.die t m.dst).l2 = some ⟨if w.excl then .m else if w.shared then .s else .e, bs, w.poison⟩)
  ∧ (∀ (s : State) (k : Nat) (m : Msg), Table.find k s.msgs = some m → arrives s k m = true → m.kind = .invAck →
    exec (.cohInvAck k) s = .next (ackHome m.dst m.line m.src false (takeMsg k m s)))
  ∧ (∀ (s : State) (k : Nat) (m : Msg), Table.find k s.msgs = some m → arrives s k m = true → m.kind = .fwdAck → m.bytes.length ≠ 128 →
    exec (.cohFwdAck k) s = .next (ackHome m.dst m.line m.src (m.bytes.length == 1) (takeMsg k m s)))
  ∧ (∀ (s : State) (home line d : Nat) (t : Txn), (Die.entry (State.die s home) line).txn = some t → t.acks = [d] → t.flush = false →
    ∃ m, ackHome home line d false s = sendMsg m (setDir home line { Die.entry (State.die s home) line with txn := none } s)
      ∧ m = ⟨.cmp, line, home, t.req, [], 0, 0⟩)
  ∧ (∀ (s : State) (k : Nat) (m : Msg), Table.find k s.msgs = some m → arrives s k m = true → m.kind = .putAck →
    ∃ t, exec (.cohPutAck k) s = .next t ∧ Table.find m.line (State.die t m.dst).evict = none ∧ t.dram = s.dram)
  ∧ (∀ (s : State) (c : Nat) (x : Crossing), c < 8 → Table.get Crossing.start c s.crossings = x → x.down = false →
    ∃ t y, exec (.flitCrcReplay c) s = .next t ∧ Table.find c t.crossings = some y
      ∧ y.rpl = (if x.rpl = 0xFFFFFFFF then x.rpl else x.rpl + 1) ∧ (y.down = true ↔ 254 ≤ x.fails)
      ∧ (254 ≤ x.fails → t.fw.noLaunch = true ∧ ∀ e ∈ t.ctxs, e.2.stopped = true)
      ∧ (x.fails < 254 → t.fw = s.fw ∧ t.ctxs = s.ctxs))

/-! ## Waits, copy engines -/

/-- O52. Waits end (R33, R34, R146, R147, R168, R337, R380, R381, R395): lanes at a WAIT field enter their clause when its
counters read zero and not before, and so do lanes held by a DWAIT, which go on to slot 0 of the next clause; a wake
releases the lane whose word differs and no other, once its message may pass; a poll of a lane without a watch, or whose word
is out of range, does so every 64 cycles (that it latches no %spflag is the model's choice, log 48); a limit that has run out
releases its lane; a fence completes once nothing earlier of its lanes is pending, with its counter lower; a
completion wait that finds every bit set ends and one that does not waits 256 cycles more. The bitmap read again by CBWAIT
where a dword cannot be read is the model's reading (log 17). -/
def Obligations.WaitsEnd : Prop :=
  (∀ (s : State) (key : Nat) (lanes : Dword) (b : Band) (t : Team) (g : Grid) (p : Pc × List Nat) (h : Nat),
    State.home s key = some (b, t, g) →
    groupsWhere (fun y => Lane.eligible y && y.entry == .wait) { b with lanes := b.lanes.filter fun e => lanes.getLsbD e.1 } = [p] →
    fetchWord s (key / 1024) g.ctx p.1.clause = .ok h →
    exec (.clauseWaitRelease key lanes) s = .next (
      let ls := p.2.filter fun l => lanes.getLsbD l
      if unblocked s key ls && Band.drained b (countersOf (h / 2 ^ 4 % 2 ^ 6)) then
        let bad := latchLanes s key (countersOf (h / 2 ^ 4 % 2 ^ 6)) ls
        bad.foldl (takeLatch key p.1 (countersOf (h / 2 ^ 4 % 2 ^ 6))) (setEntry key (ls.filter fun l => !bad.elem l) .inside s)
      else s))
  ∧ (∀ (s : State) (key l m : Nat) (lanes : Dword) (b : Band), Table.find key s.bands = some b → lanesOf lanes = [l] →
    (Band.lane b l).run = .counter m → Band.drained b (countersOf m) = false → exec (.counterWaitRelease key lanes) s = .next s)
  ∧ (∀ (s : State) (key l m : Nat) (lanes : Dword) (b : Band), Table.find key s.bands = some b → lanesOf lanes = [l] →
    (Band.lane b l).run = .counter m → Band.drained b (countersOf m) = true → latchLanes s key (countersOf m) [l] = [] →
    ∃ t c, exec (.counterWaitRelease key lanes) s = .next t ∧ Table.find key t.bands = some c ∧ (Band.lane c l).run = .running
      ∧ (Band.lane c l).pc = ⟨((Band.lane b l).pc.clause + 4 * ((Band.lane b l).pc.slot + 2)) % 2 ^ 60, 0⟩
      ∧ (∀ k, k ≠ l → Band.lane c k = Band.lane b k) ∧ t.dram = s.dram)
  ∧ (∀ (s : State) (core g key l : Nat) (w : Waita), core < 64 → (State.core s (g / 2 ^ 26)).wakes = [(core, g)] →
    meshClear s (core / 16) (some core) g = true → waitersOf s core = [(key, l, w)] → w.g = some g → w.polled = false →
    ∀ s1, s1 = senseWord key w (chargeRoute (g / 2 ^ 30) (core / 16)
        (State.modCore s (g / 2 ^ 26) fun c => { c with wakes := [] })) →
      (waitaValue s1 key w ≠ w.expect → exec (.watchWake core g) s = .next (releaseWaita key l w s1))
      ∧ (waitaValue s1 key w = w.expect → exec (.watchWake core g) s = .next s1))
  ∧ (∀ (s : State) (core g : Nat), core < 64 → meshClear s (core / 16) (some core) g = false →
    exec (.watchWake core g) s = .next s)
  ∧ (∀ (s : State) (band lane : Nat) (w : Waita), laneWords s band lane = [w] → (w.polled = true ∨ waitaByte s band w = none) →
    64 ≤ w.since → wordClear s band w = true →
    ∀ s1, s1 = senseWord band w (State.modBand s band fun b => Band.modLane b lane fun y =>
        { y with waita := [{ w with since := 0 }] }) →
      (waitaValue s1 band w ≠ w.expect → exec (.monitorPoll band lane) s = .next (releaseWaita band lane w s1))
      ∧ (waitaValue s1 band w = w.expect → exec (.monitorPoll band lane) s = .next s1
        ∧ laneWords s1 band lane = [{ w with since := 0 }] ∧ s1.dram = s.dram ∧ s1.sram = s.sram ∧ s1.ops = s.ops))
  ∧ (∀ (s : State) (band lane : Nat) (w : Waita), laneWords s band lane = [w] →
    (w.since < 64 ∨ (w.polled = false ∧ (waitaByte s band w).isSome)) →
    ∃ t, exec (.monitorPoll band lane) s = .next t ∧ laneWords t band lane = [w] ∧ t.dram = s.dram ∧ t.sram = s.sram
      ∧ t.ops = s.ops ∧ t.cores = s.cores ∧ t.dies = s.dies)
  ∧ (∀ (s : State) (band lane : Nat) (w : Waita), laneWords s band lane = [w] → w.left = some 0 →
    exec (.waitaTimeout band lane) s = .next (releaseWaita band lane w s))
  ∧ (∀ (s : State) (band lane : Nat) (w : Waita), laneWords s band lane = [w] → w.left ≠ some 0 →
    exec (.waitaTimeout band lane) s = .next s)
  ∧ (∀ (s : State) (op : Nat) (o : Op) (k : FenceKind), Table.find op s.ops = some o → o.kind = .fence k →
    (fenceWaits s o = true → exec (.fenceComplete op) s = .next s)
    ∧ (fenceWaits s o = false → k ≠ .sc → o.order = .rel →
      ∃ t, exec (.fenceComplete op) s = .next t ∧ Table.find op t.ops = none ∧ t.dram = s.dram ∧ t.cores = s.cores
        ∧ ∀ b, Table.find o.band s.bands = some b → ∃ c, Table.find o.band t.bands = some c ∧ c.lanes = b.lanes
          ∧ ∀ n : Fin 6, o.dc = some n → Table.get 0 n.val c.dc = Table.get 0 n.val b.dc - 1))
  ∧ (∀ (s : State) (op base first count : Nat) (left : List Nat) (o : Op) (b : Band) (y : Team) (g : Grid),
    Table.find op s.ops = some o → o.kind = .cbwait base first count left → State.home s o.band = some (b, y, g) →
    (o.since < 256 → exec (.cbwaitPoll op) s = .next s)
    ∧ (256 ≤ o.since → (∀ late s1, readRange o g.ctx base first count left s = ([], late, s1) →
        exec (.cbwaitPoll op) s = .next (acquireEffect o.band .acq .dev (countDown o.band o.dc { s1 with ops := Table.del op s1.ops }))))
    ∧ (256 ≤ o.since → (∀ d ds late s1, readRange o g.ctx base first count left s = (d :: ds, late, s1) →
        exec (.cbwaitPoll op) s = .next (State.modOp s1 op fun p =>
          { p with since := if late then p.since else 0, kind := .cbwait base first count (d :: ds) }))))

/-- O53. The copy engine (R152, R158, R160, R166, R167, R169): a posted command that can be accepted takes the lowest free
slot and completes its instruction; an attempt at the unit at P costs 24, each of its accesses is performed on its own, and P
moves by one at its end, or the command fails or parks; a finished command takes the lines of its destination out of the L1,
writes its completion word, frees its slot and its locks and lowers its counter; a GO without a parked command sets BAD; a
resumed command goes on from its unit; an aborted one ends with ABORT; a marker returns once no unit is in progress. Offers in
the order of posting and units one at a time are the model's choice (log 28). -/
def Obligations.CopyEngine : Prop :=
  (∀ (s : State) (core slot op : Nat) (o : Offer) (c : OpCopy) (x : Ix), core < 64 → (State.core s core).offers = [o] →
    offerIx (State.modCore s core fun c => { c with offers := [o] }) o = some x → offerIx s o = some x →
    copyReady (State.modCore s core fun c => { c with offers := [o] }) o = true →
    copyKind o.instr = some (op, c) → freeSlot (State.core s core) = some slot →
    exec (.copyAccept core) s = .next (perform o.instr (copyCause op c) (acceptCopy op c slot) (offerIssue o) x
      (chargeCore core o.price (State.modCore (State.modCore s core fun c => { c with offers := [o] }) core fun k =>
        { k with offers := [] }))))
  ∧ (∀ (s : State) (slot op : Nat) (o : OpCopy) (x : Ix) (c : Checked),
    copyCheck (senseDesc op o x s) op o x = .inl c → Ix.core x < 64 →
    ∃ cmd, Table.find slot (State.core (acceptCopy op o slot x s).s (Ix.core x)).copy = some cmd
      ∧ cmd.p = 0 ∧ cmd.op = op ∧ cmd.desc = c.desc ∧ cmd.dc = o.dc ∧ cmd.parked = false
      ∧ (State.core (acceptCopy op o slot x s).s (Ix.core x)).locks = (State.core s (Ix.core x)).locks
          ++ Extent.locks slot false c.src ++ Extent.locks slot true c.dst
      ∧ (acceptCopy op o slot x s).s.dram = s.dram)
  ∧ (∀ (s : State) (core slot : Nat) (c : CopyCmd) (b : Band) (y : Team) (g : Grid), core < 64 →
    Table.find slot (State.core s core).copy = some c → c.parked = false → c.p < unitCount c →
    mustWait (State.core s core) slot c = false → marked s c.team = false → State.home s c.band = some (b, y, g) →
    c.work = none →
    ((State.core s core).bucket < 24 → exec (.copyUnit core slot) s = .next s)
    ∧ ∀ s0 rs last, 24 ≤ (State.core s core).bucket →
      s0 = senseIndices core y g c (128 * c.p) (Nat.min (128 * c.p + 128) c.n) s →
      unitRuns s0 core y g c (Nat.min (128 * c.p + 128) c.n) 128 (128 * c.p) = (rs, last) →
      exec (.copyUnit core slot) s = .next (State.modCore (chargeCore core 24 s0) core fun k =>
        { k with copy := Table.set slot { c with work := some ⟨rs, none, last⟩ } k.copy }))
  ∧ (∀ (s : State) (core slot : Nat) (c : CopyCmd) (w : CopyWork) (b : Band) (y : Team) (g : Grid), core < 64 →
    Table.find slot (State.core s core).copy = some c → c.work = some w → State.home s c.band = some (b, y, g) →
    (w.runs = [] → w.found.or w.last = none →
      exec (.copyUnit core slot) s = .next (State.modCore s core fun k =>
        { k with copy := Table.set slot { c with p := c.p + 1, work := none } k.copy }))
    ∧ (∀ e a, w.runs = [] → w.found.or w.last = some (.error e a) →
      exec (.copyUnit core slot) s = .next (failCommand core slot { c with work := none } e a s))
    ∧ (∀ kd e ca va wr, w.runs = [] → w.found.or w.last = some (.fault kd e ca va wr) →
      exec (.copyUnit core slot) s = .next (parkCommand core slot { c with work := none } kd e ca va wr s))
    ∧ (∀ r rs way, w.runs = r :: rs → way = wayOf s core y g permCe r →
      (Way.clear s core way = false → exec (.copyUnit core slot) s = .next s)
      ∧ (Way.clear s core way = true → ∀ f s1, askNeeds (core / 16) (Way.needs r way) s = (f, true, s1) →
        exec (.copyUnit core slot) s = .next s1)
      ∧ (Way.clear s core way = true → ∀ h s1, askNeeds (core / 16) (Way.needs r way) s = (some h, false, s1) →
        exec (.copyUnit core slot) s = .next (State.modCore s1 core fun k =>
          { k with copy := Table.set slot { c with work := some ⟨rs, w.found.or (some h), w.last⟩ } k.copy }))
      ∧ (Way.clear s core way = true → ∀ h s1 s2, askNeeds (core / 16) (Way.needs r way) s = (none, false, s1) →
        performRun core r way s1 = (h, s2) →
        exec (.copyUnit core slot) s = .next (State.modCore s2 core fun k =>
          { k with copy := Table.set slot { c with work := some ⟨rs, w.found.or h, w.last⟩ } k.copy }))))
  ∧ (∀ (s : State) (core p d : Nat) (r : CopyRun), sramMarked s p r.n = none →
    ∃ t, performRun core r (.go (some (.sram p)) (.sram d)) s = (none, t)
      ∧ Memory.bytes t.sram d r.n = Memory.bytes s.sram p r.n ∧ t.dram = s.dram
      ∧ ∀ a, a < d ∨ d + r.n ≤ a → Memory.read t.sram a = Memory.read s.sram a)
  ∧ (∀ (s : State) (core slot : Nat) (c : CopyCmd), core < 64 → Table.find slot (State.core s core).copy = some c →
    c.parked = false → unitCount c ≤ c.p → mustWait (State.core s core) slot c = false → quiesced s c.team core = false → c.cw = none →
    ∃ t, exec (.copyComplete core slot) s = .next t ∧ Table.find slot (State.core t core).copy = none
      ∧ (State.core t core).locks = (State.core s core).locks.filter (fun l => l.slot != slot)
      ∧ (State.core t core).bucket = (State.core s core).bucket ∧ t.dram = s.dram ∧ t.teams = s.teams
      ∧ (∀ e ∈ (State.core t core).l1, e ∈ (State.core s core).l1 ∧ ∀ l ∈ (State.core s core).locks,
        l.slot = slot → l.write = true → 128 * e.1 + 127 < l.lo ∨ l.hi < 128 * e.1)
      ∧ ∀ b, Table.find c.band s.bands = some b →
        ∃ b', Table.find c.band t.bands = some b' ∧ b'.lanes = b.lanes ∧ Table.get 0 c.dc.val b'.dc = Table.get 0 c.dc.val b.dc - 1)
  ∧ (∀ (s : State) (core slot : Nat) (c : CopyCmd), core < 64 → Table.find slot (State.core s core).copy = some c →
    c.parked = false → unitCount c ≤ c.p → mustWait (State.core s core) slot c = false → quiesced s c.team core = false →
    c.cw.isSome →
    (placeClear s core (.sram c.cwg) = false → exec (.copyComplete core slot) s = .next s)
    ∧ (placeClear s core (.sram c.cwg) = true → cwBad s c.ctx c.cwg = true →
      exec (.copyComplete core slot) s = .next (failCommand core slot c errSram (windowTag .glb + c.cwg)
        (State.modCore s core (dropDestination slot))))
    ∧ (placeClear s core (.sram c.cwg) = true → cwBad s c.ctx c.cwg = false →
      ∃ t, exec (.copyComplete core slot) s = .next t ∧ Table.find slot (State.core t core).copy = none
        ∧ (State.core t core).locks = (State.core s core).locks.filter (fun l => l.slot != slot)
        ∧ Memory.bytes t.sram c.cwg 4 = natLe 4 c.cwv.toNat ∧ t.dram = s.dram ∧ t.teams = s.teams
        ∧ (∀ a, a < c.cwg ∨ c.cwg + 4 ≤ a → Memory.read t.sram a = Memory.read s.sram a)
        ∧ ∀ b, Table.find c.band s.bands = some b →
          ∃ b', Table.find c.band t.bands = some b' ∧ b'.lanes = b.lanes ∧ Table.get 0 c.dc.val b'.dc = Table.get 0 c.dc.val b.dc - 1))
  ∧ (∀ (s : State) (core slot : Nat), core < 64 → Table.find slot (State.core s core).copy = none →
    ∃ t u, exec (.ceresResume core slot) s = .next t ∧ exec (.ceresAbort core slot) s = .next u
      ∧ State.core t core = { State.core s core with ceres := resumeReg slot false true (State.core s core).ceres }
      ∧ State.core u core = { State.core s core with ceres := resumeReg slot true true (State.core s core).ceres }
      ∧ t.dram = s.dram ∧ u.dram = s.dram ∧ t.bands = s.bands ∧ u.bands = s.bands)
  ∧ (∀ (s : State) (core slot : Nat) (c : CopyCmd), core < 64 → slot < 32 → Table.find slot (State.core s core).copy = some c →
    c.parked = true →
    ∃ t u, exec (.ceresResume core slot) s = .next t ∧ exec (.ceresAbort core slot) s = .next u
      ∧ Table.find slot (State.core t core).copy = some { c with parked := false }
      ∧ (State.core t core).ceres = resumeReg slot false false (State.core s core).ceres
      ∧ Table.find slot (State.core u core).copy = none ∧ (State.core u core).ceerr = engineRecord errAbort slot c.ctx
      ∧ t.dram = s.dram ∧ u.dram = s.dram ∧ t.bands = s.bands)
  ∧ (∀ (s : State) (core team : Nat), core < 64 →
    ((∀ e ∈ (State.core s core).copy, e.2.team = team → e.2.work = none) →
      exec (.copyQuiesce core team) s = .next (returnMark team core s))
    ∧ (∀ e ∈ (State.core s core).copy, e.2.team = team → e.2.work.isSome → exec (.copyQuiesce core team) s = .next s))

/-! ## Peers and streams -/

/-- O54. Peers and streams (R193, R200 to R202, R477, R478): an accepted request is performed and answered; one that must wait
comes again; OPEN takes the lowest free receive context and tells the sender its TAG, or that there is none; FULL and DATA
write and move the stream's address, and the completion of a stream-window write is no error but reports the kind of its
record's; CLOSE frees; nothing arrives at a station that is down; ACK opens a stream or has it wait; a buffer of 32 cycles is
sent; a stream idle for 4,096 cycles is closed; a refused one may open again after 65,536. That arrivals wait in order behind
earlier ones is the model's inference (log 18); the answer to a refused OPEN and the report of an unknown TAG are its choice
(log 29). -/
def Obligations.PeersAndStreams : Prop :=
  (∀ (s : State) (r : PeerReq) (a : PeerAnswer) (s1 : State), r.station < 24 → peerAccepts r = true →
    (State.station s r.station).down = false → (State.station s r.station).queue = [] →
    peerPerform r.pctx r.va r.op s = (some a, s1) → exec (.peerRequest r) s = .next (State.send s1 (.answer r.station a)))
  ∧ (∀ (s : State) (r : PeerReq), r.station < 24 → peerAccepts r = true → (State.station s r.station).down = false →
    (State.station s r.station).queue = [] →
    liveCtx s r.pctx = false → exec (.peerRequest r) s = .next (State.send s (.answer r.station (.error errDenied))))
  ∧ (∀ (s s1 : State) (r : PeerReq), r.station < 24 → peerAccepts r = true → (State.station s r.station).down = false →
    (State.station s r.station).queue = [] → peerPerform r.pctx r.va r.op s = (none, s1) →
    exec (.peerRequest r) s = .next (State.modStation s1 r.station fun t => { t with queue := t.queue ++ [.request r] }))
  ∧ (∀ (s : State) (r : PeerReq), r.station < 24 → peerAccepts r = true → (State.station s r.station).down = false →
    (State.station s r.station).queue ≠ [] →
    exec (.peerRequest r) s = .next (State.modStation s r.station fun t => { t with queue := t.queue ++ [.request r] }))
  ∧ (∀ (s : State) (n k w : Nat), recordDone n (.ok w) s = State.send s (.recordDone n 0)
    ∧ recordDone n (.error k) s = State.send s (.recordDone n k))
  ∧ (∀ (s s1 : State) (r : StreamFullRec) (a : PeerAnswer), r.station < 24 → (State.station s r.station).down = false →
    (State.station s r.station).queue = [] →
    peerPerform r.pctx r.va (.write (recordData r.sz r.data)) s = (some a, s1) →
    (∀ n, a ≠ .error errDenied →
      (List.range 256).find? (fun n => (Table.find n (State.station s1 r.station).recv).isNone) = some n →
      ∃ t, exec (.streamOpen r) s = .next t
        ∧ Table.find n (State.station t r.station).recv = some ⟨r.peer, r.sid, r.pctx, r.va⟩ ∧ t.dram = s1.dram
        ∧ t.outbox = (recordDone r.station a s1).outbox ++ [.streamAck r.station r.peer r.sid true n])
    ∧ ((a = .error errDenied
        ∨ (List.range 256).find? (fun n => (Table.find n (State.station s1 r.station).recv).isNone) = none) →
      ∃ t, exec (.streamOpen r) s = .next t ∧ t.stations = s1.stations ∧ t.dram = s1.dram
        ∧ t.outbox = (recordDone r.station a s1).outbox ++ [.streamAck r.station r.peer r.sid false 0])
    ∧ exec (.streamFull r) s = .next (moveStream r.station r.peer r.sid r.va (recordDone r.station a s1)))
  ∧ (∀ (s s1 : State) (r : StreamFullRec), r.station < 24 → (State.station s r.station).down = false →
    (State.station s r.station).queue = [] →
    peerPerform r.pctx r.va (.write (recordData r.sz r.data)) s = (none, s1) →
    exec (.streamOpen r) s = .next (State.modStation s1 r.station fun t => { t with queue := t.queue ++ [.opened r] })
    ∧ exec (.streamFull r) s = .next (State.modStation s1 r.station fun t => { t with queue := t.queue ++ [.full r] }))
  ∧ (∀ (s s1 : State) (r : StreamDataRec) (x : RecvStream) (a : PeerAnswer), r.station < 24 →
    (State.station s r.station).down = false → (State.station s r.station).queue = [] →
    Table.find r.tag (State.station s r.station).recv = some x →
    peerPerform x.pctx (((x.addr : Int) + r.delta.toInt) % ((2 ^ 48 : Nat) : Int)).toNat (.write (recordData r.sz r.data)) s
      = (some a, s1) →
    s1.stations = s.stations →
    ∃ t, exec (.streamData r) s = .next t ∧ t.dram = s1.dram ∧ t.outbox = (recordDone r.station a s1).outbox
      ∧ Table.find r.tag (State.station t r.station).recv
          = some { x with addr := (((x.addr : Int) + r.delta.toInt) % ((2 ^ 48 : Nat) : Int)).toNat })
  ∧ (∀ (s : State) (r : StreamDataRec), r.station < 24 → (State.station s r.station).down = false →
    (State.station s r.station).queue = [] → Table.find r.tag (State.station s r.station).recv = none →
    exec (.streamData r) s = .next (State.send s (.recordDone r.station errDenied)))
  ∧ (∀ (s : State) (station tag : Nat), station < 24 → (State.station s station).down = false →
    (State.station s station).queue = [] →
    ∃ t, exec (.streamClose station tag) s = .next t ∧ Table.find tag (State.station t station).recv = none
      ∧ (∀ n, n ≠ tag → Table.find n (State.station t station).recv = Table.find n (State.station s station).recv)
      ∧ t.dram = s.dram ∧ t.outbox = s.outbox)
  ∧ (∀ (s : State) (n : Nat) (r : StreamFullRec) (d : StreamDataRec) (tag : Nat), n < 24 → r.station = n → d.station = n →
    (State.station s n).down = false → (State.station s n).queue ≠ [] →
    ∀ k : Arrival → State, k = (fun a => State.modStation s n fun t => { t with queue := t.queue ++ [a] }) →
    exec (.streamOpen r) s = .next (k (.opened r)) ∧ exec (.streamFull r) s = .next (k (.full r))
      ∧ exec (.streamData d) s = .next (k (.data d)) ∧ exec (.streamClose n tag) s = .next (k (.closed tag)))
  ∧ (∀ (s : State) (n : Nat) (q : PeerReq) (r : StreamFullRec) (d : StreamDataRec) (tag : Nat), n < 24 → q.station = n →
    r.station = n → d.station = n → (State.station s n).down = true →
    exec (.peerRequest q) s = .next s ∧ exec (.streamOpen r) s = .next s ∧ exec (.streamFull r) s = .next s
      ∧ exec (.streamData d) s = .next s ∧ exec (.streamClose n tag) s = .next s)
  ∧ (∀ (s : State) (ok : Bool) (sid tag : Nat) (x : SendStream),
    Core.stream (State.core s (sid % 64)) (sid / 64 % 16) = some x → x.phase = 0 →
    (x.closing = false → ∃ t, exec (.streamAck ok sid tag) s = .next t ∧ t.outbox = s.outbox ∧ t.dram = s.dram
      ∧ Core.stream (State.core t (sid % 64)) (sid / 64 % 16)
          = some (if ok then { x with phase := 1, tag := tag } else { x with phase := 2, refused := 0 }))
    ∧ (x.closing = true → x.buf = [] → ∃ t, exec (.streamAck ok sid tag) s = .next t ∧ t.dram = s.dram
      ∧ Core.stream (State.core t (sid % 64)) (sid / 64 % 16) = none
      ∧ t.outbox = s.outbox ++ (if ok then
          [.strm (streamStation x.peer (sid / 64 % 16) (sid % 64)) x.peer (closeRecord tag)] else [])))
  ∧ (∀ (s : State) (core route : Nat) (x : SendStream), core < 64 → Core.stream (State.core s core) route = some x → x.buf ≠ [] →
    (x.age < 32 → exec (.streamBufferTimeout core route) s = .next s)
    ∧ (32 ≤ x.age → ∃ t, exec (.streamBufferTimeout core route) s = .next t
      ∧ t.outbox = s.outbox ++ [.strm (streamStation x.peer route core) x.peer x.buf]
      ∧ Core.stream (State.core t core) route = some { x with buf := [], owners := [], age := 0 } ∧ t.dram = s.dram))
  ∧ (∀ (s : State) (core route : Nat) (x : SendStream), core < 64 → Core.stream (State.core s core) route = some x →
    (¬(x.phase = 1 ∧ 4096 ≤ x.idle) → exec (.streamIdleClose core route) s = .next s)
    ∧ (x.phase = 1 → 4096 ≤ x.idle → x.buf = [] → ∃ t, exec (.streamIdleClose core route) s = .next t
      ∧ Core.stream (State.core t core) route = none ∧ t.dram = s.dram
      ∧ t.outbox = s.outbox ++ [.strm (streamStation x.peer route core) x.peer (closeRecord x.tag)])
    ∧ (x.phase = 2 → x.refused < 65536 → exec (.streamReopenTimeout core route) s = .next s)
    ∧ (x.phase = 2 → 65536 ≤ x.refused → ∃ t, exec (.streamReopenTimeout core route) s = .next t
      ∧ Core.stream (State.core t core) route = none ∧ t.dram = s.dram))

/-! ## Matrix units and Encke -/

/-- O55. The matrix units (R296 to R300): a unit begins its first queued operation and checks it, a failed check ends it in
ENGINE_ERROR; ZA clears the result first; a step costs 2,000 and moves the pairs done; the last step returns the token; a
marker stops its team's operation between steps. Encke (R308, R311 to R323): a line of key tables is staged; a query, its
rows, the status block and completion do what their commands say, the completion word written where there is one, and an
access over the mesh waits until it may pass; a GO sets BAD where nothing is parked. The model's choices: offers in the order
of posting (log 28), the steps of an operation (log 26), a PKQ translating its value rows alone (log 50), and, inferred, the
messages of up to 128 bytes that a span's way is charged for (log 51). -/
def Obligations.MatrixAndEncke : Prop :=
  (∀ (s : State) (core u : Nat) (o : MxOp), core < 64 → u < 4 → (Core.mxUnit (State.core s core) u).exec = none →
    (Core.mxUnit (State.core s core) u).queue = [o] → quiesced s o.team (64 + core) = false → o.checked = false →
    mxFailure o = none →
    ∃ t, exec (.mmaOperationStart core u) s = .next t
      ∧ (Core.mxUnit (State.core t core) u).exec = some { o with checked := true }
      ∧ (Core.mxUnit (State.core t core) u).queue = [] ∧ t.dram = s.dram ∧ t.bands = s.bands ∧ t.teams = s.teams
      ∧ (Core.accum (State.core t core) o.acc).elems = (if blkZa o.block then clearAcc o.block (Core.accum (State.core s core) o.acc).elems
          else (Core.accum (State.core s core) o.acc).elems)
      ∧ (Core.accum (State.core t core) o.acc).token = (Core.accum (State.core s core) o.acc).token)
  ∧ (∀ (s : State) (core u k : Nat) (o : MxOp), core < 64 → u < 4 → (Core.mxUnit (State.core s core) u).exec = none →
    (Core.mxUnit (State.core s core) u).queue = [o] → quiesced s o.team (64 + core) = false → o.checked = false →
    mxFailure o = some k →
    exec (.mmaOperationStart core u) s = .next (endMx core u o true (noteMxErr core o k (State.modMx s core u fun m =>
      { m with exec := some { o with checked := true }, queue := m.queue.erase o }))))
  ∧ (∀ (s : State) (core u : Nat) (o : MxOp), core < 64 → u < 4 → (Core.mxUnit (State.core s core) u).exec = some o →
    ((State.core s core).bucket < 2000 → exec (.mmaStep core u) s = .next s)
    ∧ (2000 ≤ (State.core s core).bucket → mxTotal o ≤ o.pw + (fmtPairs o.fmt.toNat).getD 192 → o.pw ≤ mxTotal o →
      exec (.mmaStep core u) s = .next (endMx core u { o with pw := mxTotal o } false
        (State.modAccum (chargeCore core 2000 s) core o.acc fun a => { a with
          elems := (List.range (mxTotal o - o.pw)).foldl (fun t n => mxPair s core o t (o.pw + n))
            (Core.accum (State.core s core) o.acc).elems })))
    ∧ (2000 ≤ (State.core s core).bucket → o.pw + (fmtPairs o.fmt.toNat).getD 192 < mxTotal o →
      ∃ t, exec (.mmaStep core u) s = .next t ∧ t.dram = s.dram ∧ t.bands = s.bands ∧ t.teams = s.teams
        ∧ (Core.mxUnit (State.core t core) u).exec = some { o with pw := o.pw + (fmtPairs o.fmt.toNat).getD 192 }
        ∧ (State.core t core).bucket = (State.core s core).bucket - 2000))
  ∧ (∀ (s : State) (core team : Nat), core < 64 → (∀ u < 4, ∀ o, (Core.mxUnit (State.core s core) u).exec = some o → o.team ≠ team) →
    exec (.matrixQuiesce core team) s = .next (returnMark team (64 + core) s))
  ∧ (∀ (s : State) (die slot : Nat) (o : Offer) (k : EkKind) (e : OpEncke) (x : Ix), die < 4 → (State.die s die).ekOffers = [o] →
    offerIx s o = some x → offerIx (State.modDie s die fun d => { d with ekOffers := [o] }) o = some x →
    enckeReady (State.modDie s die fun d => { d with ekOffers := [o] }) o = true →
    enckeKind o.instr = some (k, e) → freeEkSlot (State.die s die) = some slot →
    exec (.enckeAccept die) s = .next (perform o.instr (enckeCause k e) (acceptEncke k e slot) (offerIssue o) x
      (chargeCore (Ix.core x) o.price (State.modDie (State.modDie s die fun d => { d with ekOffers := [o] }) die fun d =>
        { d with ekOffers := [] }))))
  ∧ (∀ (s s1 : State) (die slot a : Nat) (c : EkCmd) (k : KeySet) (bs : List Byte), die < 4 →
    Table.find slot (State.die s die).ek = some c → c.block = some k → c.kind = .query → ekMayBegin s die c = true →
    (State.die s die).staged = none → rangeCheck (State.ctx s c.ctx) (keyVa k 0) (permEk + permRd) = some a →
    (readMem die s a 128 = (.ok bs, s1) →
      ∃ t, exec (.keyStaging die slot) s = .next t ∧ t.dram = s1.dram
        ∧ (State.die t die).staged = some ⟨c.ctx, c.set, none, k, Memory.store [] 0 bs, 128, slot⟩)
    ∧ (readMem die s a 128 = (.busy, s1) → exec (.keyStaging die slot) s = .next s1))
  ∧ (∀ (s s1 : State) (die slot : Nat) (c : EkCmd) (k : KeySet) (b : Batch) (h : Halt_), die < 4 →
    Table.find slot (State.die s die).ek = some c → c.block = some k → c.batch = some b → (State.die s die).staged.isSome →
    c.kind = .query → ekMayBegin s die c = true → stagedFor (State.die s die) c = true →
    spanClear s die (b.qg + c.qp * b.qstr) (4 * k.hd) = true → ekSramRead s die c.ctx (b.qg + c.qp * b.qstr) (4 * k.hd) = (.inr h, s1) →
    exec (.pkqQuery die slot) s = .next (haltEk die slot c h s1))
  ∧ (∀ (s s1 : State) (die slot : Nat) (c : EkCmd) (k : KeySet) (b : Batch) (g : Staged) (q : List Byte), die < 4 →
    Table.find slot (State.die s die).ek = some c → c.block = some k → c.batch = some b → (State.die s die).staged = some g →
    c.kind = .query → ekMayBegin s die c = true → stagedFor (State.die s die) c = true →
    spanClear s die (b.qg + c.qp * b.qstr) (4 * k.hd) = true → ekSramRead s die c.ctx (b.qg + c.qp * b.qstr) (4 * k.hd) = (.inl q, s1) →
    ∀ sel, sel = ((candidates k b.k g.keys q).map fun x => x.1).zip (weights b.wmode b.smf ((candidates k b.k g.keys q).map fun x => x.2)) →
    exec (.pkqQuery die slot) s = .next (State.modEk (chargeDie die (KeySet.n k * k.hd / 16) s1) die slot fun x =>
      { x with cur := some ⟨c.qp, sel, 0, List.replicate k.rlen 0, none⟩ }))
  ∧ (∀ (s s1 : State) (die slot : Nat) (c : EkCmd) (k : KeySet) (b : Batch) (q : EkQuery), die < 4 →
    Table.find slot (State.die s die).ek = some c → c.block = some k → c.batch = some b → c.kind = .query → c.cur = some q →
    q.place = none → spanClear s die (b.sg + q.q * b.sstr) (8 * b.k) = true →
    (ekTranslate die c.ctx (permEk + permRd) false (q.sel.map fun x => rowVa k x.1) s = (none, s1) →
      exec (.pkqQuery die slot) s = .next s1)
    ∧ (∀ h, ekTranslate die c.ctx (permEk + permRd) false (q.sel.map fun x => rowVa k x.1) s = (some (.inr h), s1) →
      exec (.pkqQuery die slot) s = .next (haltEk die slot c h s1))
    ∧ (∀ ps s2, ekTranslate die c.ctx (permEk + permRd) false (q.sel.map fun x => rowVa k x.1) s = (some (.inl ps), s1) →
      ekSramWrite s1 die c.ctx (b.sg + q.q * b.sstr) (recordOf q.sel) = .inl s2 →
      exec (.pkqQuery die slot) s = .next (State.modEk s2 die slot fun x => { x with cur := some { q with place := some ps } })))
  ∧ (∀ (s : State) (die slot r : Nat) (w : Word) (c : EkCmd) (k : KeySet) (b : Batch) (q : EkQuery) (ps : List (Nat × Nat))
    (p : Nat × Nat) (row : List Byte), die < 4 →
    Table.find slot (State.die s die).ek = some c → c.block = some k → c.batch = some b → c.cur = some q → q.place = some ps →
    c.kind = .query → q.sel[q.rank]? = some (r, w) → ps[q.rank]? = some p →
    (linesReady s (memDie p.2) p (k.rlen * valueSize k.vfmt) false = false →
      exec (.enckeRowGather die slot) s = .next (askLines (memDie p.2) p (k.rlen * valueSize k.vfmt) false s))
    ∧ (linesReady s (memDie p.2) p (k.rlen * valueSize k.vfmt) false = true →
      ekRead (memDie p.2) p.1 (k.rlen * valueSize k.vfmt) s = .inl row →
      ∀ s1, s1 = chargeDie (memDie p.2) (8 * k.rlen) (chargeBytes (accFrom die ps q.rank) (memDie p.2) (4 * k.rlen) s) →
      (q.rank + 1 = q.sel.length → spanClear s (memDie p.2) (b.og + q.q * b.ostr) (4 * k.rlen) = false →
        exec (.enckeRowGather die slot) s = .next s)
      ∧ (q.rank + 1 = q.sel.length → spanClear s (memDie p.2) (b.og + q.q * b.ostr) (4 * k.rlen) = true →
        exec (.enckeRowGather die slot) s = .next (writeOutput die slot (memDie p.2) c b q (gatherRow k w row q.acc) s1))
      ∧ (q.rank + 1 ≠ q.sel.length → exec (.enckeRowGather die slot) s = .next (State.modEk s1 die slot fun x =>
        { x with cur := some { q with rank := q.rank + 1, acc := gatherRow k w row q.acc } }))))
  ∧ (∀ (s s1 s2 : State) (die slot : Nat) (c : EkCmd) (k : KeySet) (b : Batch) (rb gb : List Byte), die < 4 →
    Table.find slot (State.die s die).ek = some c → c.block = some k → c.batch = some b → c.kind = .update →
    ekMayBegin s die c = true → spanClear s die (b.sg + c.qp * b.sstr) (8 * b.k) = true →
    spanClear s die (b.qg + c.qp * b.qstr) (4 * k.rlen) = true →
    ekSramRead s die c.ctx (b.sg + c.qp * b.sstr) (8 * b.k) = (.inl rb, s1) →
    ekSramRead s1 die c.ctx (b.qg + c.qp * b.qstr) (4 * k.rlen) = (.inl gb, s2) →
    (∀ r, (List.range b.k).find? (fun r => decide (KeySet.n k * KeySet.n k ≤ ((readSelection rb b.k).getD r (0, 0)).1)) = some r →
      exec (.pkuQuery die slot) s = .next (failEk die slot c errIndex (windowTag .glb + b.sg + c.qp * b.sstr + 8 * r) s2))
    ∧ ((List.range b.k).find? (fun r => decide (KeySet.n k * KeySet.n k ≤ ((readSelection rb b.k).getD r (0, 0)).1)) = none →
      exec (.pkuQuery die slot) s = .next (State.modEk s2 die slot fun x =>
        { x with cur := some ⟨c.qp, readSelection rb b.k, 0, f32Words gb k.rlen, none⟩ })))
  ∧ (∀ (s s1 : State) (die slot : Nat) (c : EkCmd) (k : KeySet) (b : Batch) (q : EkQuery) (ps : List (Nat × Nat)), die < 4 →
    Table.find slot (State.die s die).ek = some c → c.block = some k → c.batch = some b → c.kind = .update → c.cur = some q →
    q.place = none → ekTranslate die c.ctx (permEk + permRd + permWr) true (updateRows k q.sel) s = (some (.inl ps), s1) →
    exec (.pkuQuery die slot) s = .next (State.modEk s1 die slot fun x => { x with cur := some { q with place := some ps } }))
  ∧ (∀ (s s1 : State) (die slot r skips : Nat) (w : Word) (c : EkCmd) (k : KeySet) (q : EkQuery) (ps : List (Nat × Nat))
    (p : Nat × Nat) (m : Option (Nat × Nat)), die < 4 →
    Table.find slot (State.die s die).ek = some c → c.block = some k → c.cur = some q → q.place = some ps → c.kind = .update →
    q.sel[q.rank]? = some (r, w) → rowPlaces k ps q.rank = (some p, m) →
    linesReady s (memDie p.2) p (k.rlen * valueSize k.vfmt) true = true →
    (∀ n, m = some n → linesReady s (memDie n.2) n (k.rlen * 4) true = true) →
    applyRow k r w q.acc p m s = (.inl skips, s1) →
    ∀ s2, s2 = State.modCtx (chargeDie (memDie p.2) (8 * k.rlen) (chargeBytes die (memDie p.2) (4 * k.rlen) s1)) c.ctx (fun y =>
      { y with sets := Table.alter c.set (fun z => { z with nskip := z.nskip + BitVec.ofNat 32 skips }) y.sets }) →
    (q.rank + 1 = q.sel.length → exec (.enckeRowUpdate die slot) s = .next (finishQuery die slot c s2))
    ∧ (q.rank + 1 ≠ q.sel.length → exec (.enckeRowUpdate die slot) s = .next (State.modEk s2 die slot fun x =>
        { x with cur := some { q with rank := q.rank + 1 } })))
  ∧ (∀ (s : State) (die slot a : Nat) (c : EkCmd) (b : Band) (y : Team) (g : Grid), die < 4 →
    Table.find slot (State.die s die).ek = some c → c.kind = .stat → c.written = false → c.parked = false → marked s c.team = false →
    ekMayWork (State.die s die) c = true → State.home s c.band = some (b, y, g) → sramForm c.core y g .loc c.sa = some a →
    spanClear s die a 16 = true → exec (.pkstatStatusWrite die slot) s = .next (State.modEk (writeSram (chargeBytes die (a / 2 ^ 30) 16 s) a (natLe 4 (setStatus s c.ctx c.set)
      ++ natLe 4 (Ctx.set (State.ctx s c.ctx) c.set).nqdone.toNat ++ natLe 4 (Ctx.set (State.ctx s c.ctx) c.set).nskip.toNat
      ++ natLe 4 (inFlight s c.ctx c.set c.seq))) die slot fun z => { z with written := true }))
  ∧ (∀ (s : State) (die slot : Nat) (c : EkCmd), die < 4 → Table.find slot (State.die s die).ek = some c → c.parked = false →
    ekDone c = true → quiesced s c.team (128 + die) = false → ekMayWork (State.die s die) c = true → c.kind ≠ .load →
    (c.cw = none → exec (.enckeComplete die slot) s = .next (dropEk die slot c (clearL1 c s)))
    ∧ (∀ g v, ekWord c = some (g, v) →
      (spanClear s die g 4 = false → exec (.enckeComplete die slot) s = .next s)
      ∧ (spanClear s die g 4 = true → cwBad s c.ctx g = true →
        exec (.enckeComplete die slot) s = .next (failEk die slot c errSram (windowTag .glb + g) (clearL1 c s)))
      ∧ (spanClear s die g 4 = true → cwBad s c.ctx g = false →
        exec (.enckeComplete die slot) s
          = .next (dropEk die slot c (writeSram (chargeRoute die (g / 2 ^ 30) (clearL1 c s)) g (natLe 4 v.toNat))))))
  ∧ (∀ (s : State) (c : EkCmd), (c.kind = .update → c.core < 64 → (State.core (clearL1 c s) c.core).l1 = [])
    ∧ (c.kind ≠ .update → clearL1 c s = s) ∧ (clearL1 c s).dram = s.dram ∧ (clearL1 c s).sram = s.sram)
  ∧ (∀ (s : State) (die slot : Nat) (c : EkCmd), die < 4 → Table.find slot (State.die s die).ek = some c → c.parked = false →
    quiesced s c.team (128 + die) = false → ekMayWork (State.die s die) c = true → c.kind = .load → c.cw = none →
    exec (.enckeComplete die slot) s = .next (dropEk die slot c (loadSet c.ctx c.set c.block s)))
  ∧ (∀ (s : State) (die slot : Nat), die < 4 → Table.find slot (State.die s die).ek = none →
    ∃ t u, exec (.ekresResume die slot) s = .next t ∧ exec (.ekresAbort die slot) s = .next u
      ∧ State.die t die = { State.die s die with ekres := resumeReg slot false true (State.die s die).ekres }
      ∧ State.die u die = { State.die s die with ekres := resumeReg slot true true (State.die s die).ekres }
      ∧ t.dram = s.dram ∧ u.dram = s.dram)
  ∧ (∀ (s : State) (die slot : Nat) (c : EkCmd), die < 4 → slot < 32 → Table.find slot (State.die s die).ek = some c → c.parked = true →
    ∃ t u, exec (.ekresResume die slot) s = .next t ∧ exec (.ekresAbort die slot) s = .next u
      ∧ Table.find slot (State.die t die).ek = some { c with parked := false }
      ∧ Table.find slot (State.die u die).ek = none ∧ (State.die u die).ekerr = ekRecord errAbort slot c.ctx c.core
      ∧ t.dram = s.dram ∧ u.dram = s.dram)
  ∧ (∀ (s : State) (die team : Nat), die < 4 → (∀ e ∈ (State.die s die).ek, e.2.team = team → e.2.cur = none) →
    exec (.enckeQuiesce die team) s = .next (returnMark team (128 + die) s))

/-! ## The dispatcher, saves, power -/

/-- O56. The dispatcher (R359, R392, R397 to R400, R427, R448, R450, R455): a band whose lanes have exited and whose work is
over ends; a grid completes once all of its teams have ended, its record held under HOLD; a kick has a queue examined, and a
queue with nothing to place loses its kick; a placed team is what placing it makes; the timer kicks every 4,096 hub cycles;
a save waits for its budget, sends its markers, and writes its record when all is quiet; a restore needs room for all of it,
and its record read. The steps into which the dispatcher's work falls, the bands that a save stops at once, and the record read
through the L2 are the model's (log 32, log 34); saved teams come first in a queue, the one saved last first (log 48). -/
def Obligations.Dispatcher : Prop :=
  (∀ (s : State) (band : Nat) (b : Band) (t : Team) (g : Grid), State.home s band = some (b, t, g) →
    (t.halted = true → exec (.bandEnd band) s = .next (endHalted b.team t g s))
    ∧ (t.halted = false → bandDone s band b = true → exec (.bandEnd band) s = .next (endBand band b s))
    ∧ (t.halted = false → bandDone s band b = false → exec (.bandEnd band) s = .next s))
  ∧ (∀ (s : State) (k : Nat) (g : Grid), Table.find k s.grids = some g →
    (g.ended ≠ g.desc.nteam → exec (.gridComplete k) s = .next s)
    ∧ (g.ended = g.desc.nteam → Hub.onHold s.hub = true → g.held = false → s.hub.heldRecs.length < 256 →
      ∃ t, exec (.gridComplete k) s = .next t ∧ t.hub = { s.hub with heldRecs := s.hub.heldRecs ++ [k] } ∧ t.dram = s.dram
        ∧ t.fw = s.fw ∧ t.ctxs = s.ctxs ∧ Table.find k t.grids = some { g with held := true })
    ∧ (g.ended = g.desc.nteam → Hub.onHold s.hub = false → s.hub.heldRecs = [] →
      exec (.gridComplete k) s = .next (completeGrid k g s))
    ∧ (g.ended = g.desc.nteam → Hub.onHold s.hub = false → s.hub.heldRecs = [] → g.desc.stat = 0 →
      ∃ t, exec (.gridComplete k) s = .next t ∧ Table.find k t.grids = none))
  ∧ (∀ (s : State), s.hub.kick = 0 → exec .teamPlace s = .next s)
  ∧ (∀ (s : State) (q k sv : Nat) (g : Grid), firstSaved s q = some (k, g, sv) →
    lookQueue q s = (.found (k, g, .saved sv, siteFor s g (.saved sv)), s))
  ∧ (∀ (s : State) (q : Nat), Hub.kicked s.hub = some q → firstSaved s q = none → gridOf s q = none →
    ∃ t, exec .teamPlace s = .next t ∧ t.hub.kick = s.hub.kick &&& ~~~(BitVec.ofNat 8 (2 ^ q)) ∧ t.teams = s.teams
      ∧ t.bands = s.bands ∧ t.grids = s.grids ∧ t.dram = s.dram)
  ∧ (∀ (s s1 : State) (q k core : Nat) (g : Grid) (u : Unplaced), Hub.kicked s.hub = some q →
    lookQueue q s = (.found (k, g, u, some core), s1) → exec .teamPlace s = .next (placeAt k g u core s1))
  ∧ (∀ (s : State) (v : Word), exec (.kickWrite v) s = .next { s with hub := { s.hub with kick := s.hub.kick ||| v.setWidth 8 } })
  ∧ (∀ (s : State), s.hub.k % 4096 ≠ 0 → exec .kickDepk2Timer s = .next s)
  ∧ (∀ (s : State) (q k : Nat) (g : Grid), s.hub.k % 4096 = 0 → q < 8 → k ∈ Table.get [] q s.hub.queues →
    Table.find k s.grids = some g → g.desc.depk = 2 →
    ∃ t, exec .kickDepk2Timer s = .next t ∧ t.hub.kick.getLsbD q = true ∧ t.grids = s.grids ∧ t.dram = s.dram)
  ∧ (∀ (s : State) (ctx : Nat), teamsOfCtx s ctx = [] → exec (.contextSwitch ctx) s = .next (leaveFabric ctx s))
  ∧ (∀ (s : State) (team : Nat) (t : Team), Table.find team s.teams = some t → t.save = none →
    exec (.preemptBudgetExpiry team) s = .next s ∧ exec (.teamSave team) s = .next s)
  ∧ (∀ (s : State) (team : Nat) (t : Team) (r : SaveReq), Table.find team s.teams = some t → t.save = some r →
    (0 < r.left → exec (.preemptBudgetExpiry team) s = .next s)
    ∧ (∀ key b g, r.left = 0 → Table.find t.grid s.grids = some g → State.bandsOf s team = [(key, b)] →
      (b.stopped = false → bandHalts s key g b = true → exec (.preemptBudgetExpiry team) s = .next (haltBand key b s))
      ∧ ((b.stopped = true ∨ bandHalts s key g b = false) → exec (.preemptBudgetExpiry team) s = .next s))
    ∧ ((∃ e ∈ State.bandsOf (stopIdle team s) team, e.2.stopped = false) →
      exec (.teamSave team) s = .next (stopIdle team s)))
  ∧ (∀ (s : State) (key : Nat) (b : Band), Table.find key s.bands = some b →
    (haltBand key b s).dram = s.dram ∧ ∃ c, Table.find key (haltBand key b s).bands = some c ∧ c.stopped = true)
  ∧ (∀ (s : State) (team : Nat) (t : Team) (r : SaveReq), Table.find team s.teams = some t → t.save = some r →
    (∀ e ∈ State.bandsOf s team, e.2.stopped = true) →
    (r.marks = none → ∃ u, exec (.teamSave team) s = .next u ∧ u.dram = s.dram ∧ u.bands = s.bands
      ∧ Table.find team u.teams = some { t with save := some { r with marks := some (markersOf t) } })
    ∧ (r.marks = some [] → teamQuiet s team t = false → exec (.teamSave team) s = .next s)
    ∧ (r.marks = some [] → teamQuiet s team t = true → r.pool = none → ∀ g slot s0 v s1, Table.find t.grid s.grids = some g →
      Ctx.freePoolSlot (State.ctx s g.ctx) = some slot →
      s0 = senseWindow t.core t g (savedRanges t g (bandsByNum s team)) s →
      v = { savedOf s0 team slot t g r.dest with base := Ctx.poolAt (State.ctx s g.ctx) slot } →
      s1 = State.modCtx s0 g.ctx (fun c => { c with slots := NatSet.add slot c.slots }) →
      (∀ k s2, writePieces (t.core / 16) (cutPieces (Ctx.poolAt (State.ctx s g.ctx) slot) (recordPieces g v)) 0 s1 = (k, true, s2) →
        exec (.teamSave team) s = .next (moveOut team slot t g v s2))
      ∧ (∀ k s2, writePieces (t.core / 16) (cutPieces (Ctx.poolAt (State.ctx s g.ctx) slot) (recordPieces g v)) 0 s1 = (k, false, s2) →
        exec (.teamSave team) s = .next (State.modTeam s2 team fun t => { t with save := some { r with pool := some (slot, k) } }))))
  ∧ (∀ (s : State) (sv core : Nat) (v : Saved) (g : Grid), core < 64 → Table.find sv s.saved = some v →
    Table.find v.grid s.grids = some g → (v.team.pair = true → core % 2 = 0) →
    (restoreFits s v g core = none → exec (.teamRestore sv core) s = .next s)
    ∧ (∀ ps, restoreFits s v g core = some ps →
      (∀ w s1, readSaved sv v g core s = (some w, s1) → exec (.teamRestore sv core) s = .next (restoreTeam sv w g core ps s1))
      ∧ (∀ s1, readSaved sv v g core s = (none, s1) → exec (.teamRestore sv core) s = .next s1)))

/-- O57. Power, heat and notices (R403, R407, R409, R418 to R424, R427, R428, R433, R467, R468): a refill adds a die's next
cycle; the first hub cycle grants GMIN and each later one moves by at most the slew; pass counts follow charge and heat; a trip
keeps the trip register, and the blob accepted with its owner key; an intent held is sent to each other member by its station,
at most every 1,000 hub cycles, its DUR less by the time for which it was held, or dropped where none is left; a member's intent
enters the calendar and a steady one empties it; a takeover starts Deimos with HOLD set, which it clears last; its failure is
final; a notice enters a queue of 256 and a write of RIDX frees what lies before it. Floors and restarts of the laws are the
model's choice (log 35); that a trip keeps the blob store it infers from R467 (log 38); Deimos's steps are its form (log 36). -/
def Obligations.PowerAndNotices : Prop :=
  (∀ (s : State) (die : Nat), die < 4 →
    ∃ t, exec (.coreBucketRefill die) s = .next t ∧ (State.die t die).n = (State.die s die).n + 1 ∧ t.dram = s.dram
      ∧ t.grids = s.grids ∧ t.fw = s.fw ∧ t.sram = s.sram
      ∧ ∀ c, c / 16 = die → (State.core t c).cycles = (State.core s c).cycles + 1
          ∧ (State.core s c).bucket ≤ (State.core t c).bucket)
  ∧ (∀ (s : State) (x : HubSample), s.fw.power ≠ .ready → exec (.governorHubCycle x) s = .next s)
  ∧ (∀ (s : State) (x : HubSample), s.fw.power = .ready → s.hub.k = 0 →
    ∃ t, exec (.governorHubCycle x) s = .next t ∧ t.hub.k = 1 ∧ t.hub.g = Hub.gmin s.hub s.fw.plim.toNat * 1000 ∧ t.hub.pkg ≤ packageDepth
      ∧ (s.hub.pwrgov.getLsbD 40 = false → t.hub.w = x.draw))
  ∧ (∀ (s : State) (x : HubSample), s.fw.power = .ready → s.hub.k ≠ 0 →
    ∃ t, exec (.governorHubCycle x) s = .next t ∧ t.hub.k = s.hub.k + 1 ∧ t.hub.pkg ≤ packageDepth
      ∧ (s.hub.pwrgov.getLsbD 40 = false → t.hub.w = x.draw)
      ∧ t.hub.g ≤ s.hub.g + Hub.slewIn s.hub true ∧ s.hub.g ≤ t.hub.g + Hub.slewIn s.hub false)
  ∧ (∀ (s : State) (die : Nat), die < 4 →
    ∃ t, exec (.passCountChargeAdjust die) s = .next t
      ∧ (State.die t die).chgVal = (if 1024 ≤ (State.die s die).lowFor then stepUp (State.die s die).chgVal
          else if 4096 ≤ (State.die s die).highFor then stepDown (State.die s die).chgVal else (State.die s die).chgVal)
      ∧ t.pairs = s.pairs ∧ t.cores = s.cores ∧ t.dram = s.dram)
  ∧ (∀ (s : State) (core : Nat), core < 64 →
    ((State.core s core).hotFor < 8192 → exec (.thermalMigration core) s = .next s)
    ∧ (8192 ≤ (State.core s core).hotFor → teamsOn (State.modCore s core fun c => { c with hotFor := 0 }) core = [] →
      ∃ t, exec (.thermalMigration core) s = .next t ∧ (State.pair t (core / 2)).therm = stepUp (State.pair s (core / 2)).therm
        ∧ (State.core t core).hotFor = 0 ∧ t.teams = s.teams ∧ t.dram = s.dram)
    ∧ ((State.core s core).coolFor < 65536 → exec (.thermalPassFall core) s = .next s)
    ∧ (65536 ≤ (State.core s core).coolFor →
      ∃ t, exec (.thermalPassFall core) s = .next t ∧ (State.pair t (core / 2)).therm = stepDown (State.pair s (core / 2)).therm
        ∧ (State.core t core).coolFor = 0 ∧ t.teams = s.teams ∧ t.dram = s.dram))
  ∧ (∀ (s : State) (dies : Nat),
    ∃ t, exec (.thermalTrip dies) s = .next t ∧ t.cores = [] ∧ t.bands = [] ∧ t.dram = [] ∧ t.fw = { Fw.start with blob := { s.fw.blob with applied := none } }
      ∧ t.hub.triprsn = BitVec.ofNat 32 (1 + dies % 32 * 2 + Nat.min 65535 (s.hub.triprsn.toNat / 2 ^ 16 + 1) * 2 ^ 16))
  ∧ (∀ (s : State), s.hub.heldIntent = none → exec .powerIntentSend s = .next s)
  ∧ (∀ (s : State) (i : PowerIntent), s.hub.heldIntent = some (i, s.hub.k) → s.hub.pgcfg.getLsbD 48 = true → s.hub.lastIntent = none →
    ∃ t, exec .powerIntentSend s = .next t ∧ t.hub.heldIntent = none ∧ t.hub.lastIntent = some s.hub.k
      ∧ t.outbox = s.outbox ++ (Hub.peers s.hub).map (fun m => .intent (m % 24) m i))
  ∧ (∀ (s : State) (i : PowerIntent) (k : Nat), s.hub.heldIntent = some (i, k) → k < s.hub.k → s.hub.pgcfg.getLsbD 48 = true →
    (∀ l, s.hub.lastIntent = some l → l + 1000 ≤ s.hub.k) → i.kind ≠ 3 →
    (s.hub.k - k < i.dur → ∃ t, exec .powerIntentSend s = .next t ∧ t.hub.heldIntent = none ∧ t.hub.lastIntent = some s.hub.k
      ∧ t.outbox = s.outbox ++ (Hub.peers s.hub).map (fun m => .intent (m % 24) m { i with dur := i.dur - (s.hub.k - k) }))
    ∧ (i.dur ≤ s.hub.k - k → exec .powerIntentSend s = .next { s with hub := { s.hub with heldIntent := none } }))
  ∧ (∀ (s : State) (i : PowerIntent) (l : Nat), s.hub.heldIntent = some (i, s.hub.k) → s.hub.pgcfg.getLsbD 48 = true →
    s.hub.lastIntent = some l → s.hub.k < l + 1000 → exec .powerIntentSend s = .next s)
  ∧ (∀ (s : State) (i : PowerIntent), (s.hub.pgcfg.getLsbD 48 = false ∨ s.hub.members.getLsbD i.src = false) →
    exec (.powerIntentReceive i) s = .next s)
  ∧ (∀ (s : State) (i : PowerIntent), s.hub.pgcfg.getLsbD 48 = true → s.hub.members.getLsbD i.src = true → i.kind = 3 →
    ∃ t, exec (.powerIntentReceive i) s = .next t ∧ (∀ e ∈ t.hub.calendar, e.1 ≠ i.src) ∧ t.hub.g = s.hub.g)
  ∧ (∀ (s : State) (i : PowerIntent), s.hub.pgcfg.getLsbD 48 = true → s.hub.members.getLsbD i.src = true → i.kind = 1 ∨ i.kind = 2 →
    i.dur ≠ 0 → i.delay ≤ 63000 →
    ∃ t, exec (.powerIntentReceive i) s = .next t ∧ t.hub = { s.hub with calendar := s.hub.calendar ++
      [(i.src, i.kind == 2, i.delay / 1000, Nat.min 63 ((i.delay + i.dur) / 1000), i.amount * 1000 / i.dur)] })
  ∧ (∀ s : State, exec .calendarAdvance s = .next { s with hub := { s.hub with calendar := s.hub.calendar.filterMap nextSlot } })
  ∧ (∀ (s : State) (cause : Nat), Hub.onHold s.hub = false → s.hub.schedstat.getLsbD 0 = false →
    exec (.schedulerTakeover cause) s = .next { s with hub := { s.hub with schedstat := BitVec.ofNat 32 (13 + cause % 16 * 16) } })
  ∧ (∀ (s : State) (cause : Nat), Hub.onHold s.hub = true → s.hub.schedstat.getLsbD 17 = false →
    (s.fw.draining = false → s.waiting.any isLaunch = false →
      ∃ t, exec (.schedulerTakeover cause) s = .next t ∧ t.hub.schedstat = s.hub.schedstat ∧ t.grids = s.grids
        ∧ t.fw = { s.fw with draining := true } ∧ ∀ q < 8, Table.get [] q s.hub.queues ≠ [] → t.hub.kick.getLsbD q = true)
    ∧ (s.fw.draining = true → exec (.schedulerTakeover cause) s = .next (sendHeld { s with
      hub := { s.hub with schedstat := s.hub.schedstat &&& ~~~(4#32) }, fw := { s.fw with draining := false } })))
  ∧ (∀ (s : State), s.hub.schedstat.getLsbD 0 = true →
    ∃ t, exec .deimosFailure s = .next t ∧ t.fw.power = .failed 0 ∧ t.hub.schedstat.getLsbD 17 = true ∧ t.agenda = []
      ∧ ∀ n < 24, (State.station t n).down = true)
  ∧ (∀ (s : State) (n : Notice) (ns : List Notice), s.hub.noticeWait = n :: ns →
    (256 ≤ s.hub.notices.length → exec .noticePost s = .next s)
    ∧ (s.hub.notices.length < 256 → ∃ t, exec .noticePost s = .next t ∧ t.dram = s.dram ∧ t.fw = s.fw
      ∧ t.hub = { s.hub with notices := s.hub.notices ++ [n], nqw := s.hub.nqw + 1, noticeWait := ns }
      ∧ Memory.bytes t.hubSram (0x480000 + s.hub.nqw.toNat * 32) 32 = natLe 1 n.kind ++ natLe 1 n.ctx ++ natLe 1 n.core
          ++ natLe 1 n.aux ++ natLe 4 n.grid ++ natLe 4 n.team ++ natLe 2 n.band ++ natLe 1 n.lane ++ natLe 1 0 ++ natLe 8 n.a.toNat
          ++ natLe 8 n.b.toNat))
  ∧ (∀ (s : State) (v : Word),
    ∃ t, exec (.nqWrite v) s = .next t ∧ t.hub.nqr = BitVec.ofNat 8 (v.toNat / 256) ∧ t.hub.nqw = s.hub.nqw
      ∧ t.hub.notices = s.hub.notices.drop (BitVec.ofNat 8 (v.toNat / 256) - s.hub.nqr).toNat ∧ t.dram = s.dram)

/-! ## Firmware, start-up, the Ethernet port -/

/-- O58. The commands of firmware (R461 to R470): the next message of a session runs its command and its reply is kept; a
repeated one gets its reply again; one out of turn is BADMSG; a session that may not issue a command is DENIED; without a
session only STATUS, SESSION_OPEN and ATTEST answer; while booting and after a failure the others are NOTREADY. Each
command's effect and reply are what its row gives. The order among refusals is the model's choice (log 11, log 36), as are a
signed message without a session answered BADMSG (log 37) and the outcome of a stage 5 run again, which is the part's (log 54);
that CTXEND and UNMAP wait until the pages have left and no regeneration stands it infers (log 38). -/
def Obligations.FirmwareCommands : Prop :=
  (∀ (h : MsgHead) (s : State) (x : Session), Commands h .any s x →
    exec (.fwStatus h) s = .next (replied 1 h 0 (.status (statusBlock (begun h none s))) (begun h none s))
    ∧ ∀ nonce, exec (.fwAttest h nonce) s = .next (replied 13 h 0 (attestReport nonce s) (begun h none s)))
  ∧ (∀ (h : MsgHead) (s : State) (n : Nat), s.fw.power = .booting n → s.fw.linkUp = true →
    exec (.fwStatus h) s = .next (sendReply ⟨1, h.session, h.msgnum, 0, .status (statusBlock s), h.src⟩ s)
    ∧ exec (.diagFailureRecord h) s = .next (sendReply ⟨2, h.session, h.msgnum, 5, .none, h.src⟩ s))
  ∧ (∀ (h : MsgHead) (s : State) (n : Nat), s.fw.power = .failed (n + 2) → s.fw.linkUp = true →
    exec (.diagRerunStage5 h) s = .next (sendReply ⟨2, h.session, h.msgnum, 5, .none, h.src⟩ s))
  ∧ (∀ (h : MsgHead) (s : State) (x : Session), Commands h .session s x →
    exec (.diagFailureRecord h) s = .next (replied 2 h 0 (.failure (failureRecord s.fw.failure)) (begun h none s))
    ∧ exec (.sessionClose h) s = .next (replied 3 h 0 .none (closeSession h.session (begun h none s)))
    ∧ (∀ m : RawMsg, m.head = h → (issuerOf m.opcode = .auth → x.proved = true) →
        exec (.unknownOpcode m) s = .next (replied m.opcode h 2 .none (begun h none s)))
    ∧ (∀ m : RawMsg, m.head = h → issuerOf m.opcode = .auth → x.proved = false →
        exec (.unknownOpcode m) s = .next (replied m.opcode h 3 .none (begun h none s)))
    ∧ (∀ g c rs, groupRegs (begun h none s) g c = some rs → g < 8 → exec (.readCounters h g c) s = .next (replied 10 h 0 (.counters rs) (begun h none s)))
    ∧ (∀ g c rs, groupRegs (begun h none s) g c = some rs → 8 ≤ g → x.proved = false →
        exec (.readCounters h g c) s = .next (replied 10 h 3 .none (begun h none s)))
    ∧ (x.proved = false → exec (.diagRerunStage5 h) s = .next (replied 2 h 3 .none (begun h none s))))
  ∧ (∀ (h : MsgHead) (s : State) (x : Session), s.fw.power = .ready → s.fw.linkUp = true → h.session ≠ 0 →
    Table.find h.session s.fw.sessions = some x → x.proved = false → h.signed = false → h.msgnum ≠ x.last + 1 →
    (∀ c ∈ s.fw.running, Running.of h c = false) →
    (∀ r, x.replies.find? (fun r => r.msgnum == h.msgnum) = some r →
      ∃ t, exec (.diagFailureRecord h) s = .next t ∧ t.outbox = (sendReply { r with dst := h.src } s).outbox ∧ t.hub = s.hub ∧ t.ctxs = s.ctxs)
    ∧ (x.replies.find? (fun r => r.msgnum == h.msgnum) = none → x.waits = [] →
      (∀ r ∈ s.fw.heldReplies, r.session ≠ h.session) →
      exec (.diagFailureRecord h) s = .next (sendReply ⟨2, h.session, h.msgnum, 1, .none, h.src⟩ (touchSession h.session s))))
  ∧ (∀ (h : MsgHead) (s : State) (key : Nat), s.fw.power = .ready → s.fw.linkUp = true → h.session = 0 → h.signed = true →
    exec (.sessionOpen h key) s = .next (sendReply ⟨3, 0, h.msgnum, 1, .none, h.src⟩ s))
  ∧ (∀ (h : MsgHead) (s : State), s.fw.power = .ready → s.fw.linkUp = true → h.session = 0 → h.msgnum = 0 → h.signed = false →
    s.fw.sessions.length < 16 →
    ∃ t id, exec (.sessionOpen h 0xFF) s = .next t ∧ t.dram = s.dram ∧ t.ctxs = s.ctxs
      ∧ ∃ x, Table.find id t.fw.sessions = some x ∧ x.key = none ∧ x.proved = false ∧ x.last = 0 ∧ x.rkey < 2 ^ 24
        ∧ t.outbox = (sendReply ⟨3, id, 0, 0, .opened id x.nonce x.rkey, h.src⟩ s).outbox)
  ∧ (∀ (h : MsgHead) (s : State) (x : Session) (nonce : Nat), Commands h .session s x →
    (x.key.isSome → h.signed = true → nonce = x.nonce → exec (.sessionProve h nonce) s = .next (replied 3 h 0 .none
      (State.modFw (begun h none s) fun f => { f with sessions := Table.alter h.session (fun x => { x with proved := true }) f.sessions })))
    ∧ (nonce ≠ x.nonce → exec (.sessionProve h nonce) s
      = .next (sendReply ⟨3, h.session, h.msgnum, 1, .none, h.src⟩ (touchSession h.session s))))
  ∧ (∀ (s : State) (n : Nat) (x : Session), Table.find n s.fw.sessions = some x →
    (x.idle < 60000000000 → exec (.sessionIdleTimeout n) s = .next s)
    ∧ (60000000000 ≤ x.idle → exec (.sessionIdleTimeout n) s
        = .next (closeSession n s)))
  ∧ (∀ (h : MsgHead) (s : State) (x : Session), Commands h .auth s x →
    (s.ctxs.any (fun c => c.1 != 0) = true → exec (.diagRerunStage5 h) s = .next (replied 2 h 4 .none (begun h none s)))
    ∧ (s.ctxs.any (fun c => c.1 != 0) = false →
      exec (.diagRerunStage5 h) s = .next (replied 2 h 0 .none (rerunStage5 (begun h none s))))
    ∧ (∀ view n, view % 512 = 0 → ((List.range 256).drop 1).find? (fun n => (Table.find n s.ctxs).isNone) = some n →
      exec (.sessionCtxnew h view) s = .next (followView n (some ⟨3, h.session, h.msgnum, 0, .ctx n, h.src⟩)
        (setStage h 2 { begun h none s with ctxs := Table.set n (Ctx.start view) s.ctxs })))
    ∧ (∀ ctx s1 rs s2, ctx ≠ 0 → (Table.find ctx s.ctxs).isSome → CtxFree s ctx →
      s1 = removeGrids ctx (removeTeams ctx (leaveFabric ctx (dropL1s ctx (stopCtx ctx (begun h (some ctx) s))))) →
      rs = validRanges s1 ctx → s2 = rs.foldl (fun s r => unmapPages 0 r s) s1 →
      ((∀ r ∈ rs, stillMapped r s2 = false) → (∀ g ∈ s2.fw.regens, g.ctx ≠ ctx) →
        exec (.sessionCtxend h ctx) s = .next (replied 3 h 0 .none (removeRecords ctx s2)))
      ∧ ((∃ r ∈ rs, stillMapped r s2 = true) → exec (.sessionCtxend h ctx) s = .next (retry (.sessionCtxend h ctx) s2)))
    ∧ (∀ m s0, CtxFree s m.ctx → s0 = begun h (some m.ctx) s →
      (mapOk s0 m = false → exec (.fwMap h m) s = .next (replied 4 h 2 .none s0))
      ∧ (mapOk s0 m = true → ctxBusy s0 m.ctx = true → exec (.fwMap h m) s = .next (replied 4 h 4 .none s0))
      ∧ (mapOk s0 m = true → ctxBusy s0 m.ctx = false → (Ctx.range (State.ctx s0 m.ctx) m.k 3).testBit 0 = false →
        ∀ p n, freeChip s0 (m.len / 2 ^ 16) (pageSpan (m.flags.testBit 1)) = some p →
        n = m.len / 2 ^ 16 / pageSpan (m.flags.testBit 1) →
        (∀ fs s1, gather (unitsOf m) (m.flags.testBit 1) (if m.flags.testBit 0 || m.flags.testBit 2 then n else 0) 0 [] s0
            = .all fs s1 →
          exec (.fwMap h m) s = .next (followView m.ctx (some ⟨4, h.session, h.msgnum, 0, .cbase p, h.src⟩)
            (setStage h 2 (finishMap m p n fs s1).s)))
        ∧ (∀ s1, gather (unitsOf m) (m.flags.testBit 1) (if m.flags.testBit 0 || m.flags.testBit 2 then n else 0) 0 [] s0
            = .busy s1 → exec (.fwMap h m) s = .next (retry (.fwMap h m) s1))))
    ∧ (∀ ctx k kind s1 s2, CtxFree s ctx → liveCtx s ctx = true → k < 8 → kind < 2 → ctxBusy (begun h (some ctx) s) ctx = false →
      (Ctx.range (State.ctx s ctx) k 3).testBit 0 = true →
      s1 = unmapPages (if kind = 0 then 0 else 3) (rangePages (State.ctx s ctx) k) (setStage h 1 (begun h (some ctx) s)) →
      s2 = dropL1s ctx s1 →
      (stillMapped (rangePages (State.ctx s ctx) k) s1 = true → exec (.fwUnmap h ctx k kind) s = .next (retry (.fwUnmap h ctx k kind) s1))
      ∧ (stillMapped (rangePages (State.ctx s ctx) k) s1 = false → ctxBusy s2 ctx = false → (∀ g ∈ s2.fw.regens, g.ctx ≠ ctx) →
        exec (.fwUnmap h ctx k kind) s = .next (followView ctx (some ⟨5, h.session, h.msgnum, 0, .none, h.src⟩)
          (setStage h 2 (clearRange ctx k s2))))))
  ∧ (∀ (h : MsgHead) (s : State) (x : Session) (b : Blob), Commands h .session s x → s.fw.boot ≠ 2 → blobOk b = true → b.sigOk = true →
    (∀ o, s.fw.blob.owner = some o → o = b.owner) →
    exec (.loadConfig h b) s = .next (replied 6 h 0 .none (State.modFw (begun h none s) fun f =>
      { f with blob := { f.blob with stored := some b, owner := some b.owner } })))
  ∧ (∀ (h : MsgHead) (s : State) (x : Session) (b : Blob), Commands h .session s x → blobOk b = true → b.sigOk = false →
    exec (.loadConfig h b) s = .next (replied 6 h 3 .none (begun h none s)))
  ∧ (∀ s : State, (rerunStage5 s).dram = s.dram ∧ (rerunStage5 s).ctxs = s.ctxs
    ∧ (((rerunStage5 s).fw = s.fw ∧ (rerunStage5 s).cores = s.cores)
      ∨ ((rerunStage5 s).fw.power = .failed 5 ∧ (∀ c < 64, (State.core (rerunStage5 s) c).bucket = 0)
        ∧ ∀ n < 24, (State.station (rerunStage5 s) n).down = true)))

/-- O59. More commands of firmware (R464, R466, R468, R469, R111): routes and save pools are loaded while the context has no
resident band, reserved bits ignored; a regeneration kernel takes a free number; a launch is queued; a wait is held, answered
with its record, or answered BADCMD, its reply held while completions are; its limit answers TIMEOUT; a power group is set, EN
only where the strap allows; resets do what their kinds say. The model's choices: the order among refusals and the refusal of
context 0 (log 36, log 38, log 54), the lowest free number of a kernel and the reserved bits of a register that LOAD names
(log 54), the staging window given at REGEN_REGISTER (log 52), and, inferred, a LAUNCH performed in one step (log 25). -/
def Obligations.FirmwareServices : Prop :=
  (∀ (h : MsgHead) (s : State) (x : Session) (ctx : Nat), Commands h .auth s x → liveCtx s ctx = true → CtxFree s ctx →
    ctxResident (begun h (some ctx) s) ctx = false →
    (∀ (k : Nat) (v : Dword), k < 16 →
      exec (.loadRoute h ctx k v) s = .next (followView ctx (some ⟨6, h.session, h.msgnum, 0, .none, h.src⟩)
        (setStage h 2 (State.modCtx (begun h (some ctx) s) ctx fun c =>
          { c with routes := Table.set k (v &&& 0x100FF03FF#64) c.routes }))))
    ∧ (∀ base size : Dword,
      exec (.loadSavepool h ctx base size) s = .next (replied 6 h 0 .none (State.modCtx (begun h (some ctx) s) ctx fun c =>
        { c with svbase := base &&& 0xFF07FFFFFF0000#64, svsize := size &&& 0xFFFFFF#64 }))))
  ∧ (∀ (h : MsgHead) (s s1 : State) (x : Session) (ctx image : Nat) (arg : Dword), Commands h .auth s x →
    ctx ≠ 0 → liveCtx s ctx = true → CtxFree s ctx → image % 128 = 0 →
    (readSpan ctx permRd image 8 (begun h (some ctx) s) = (.busy, s1) →
      exec (.regenRegister h ctx image arg) s = .next (retry (.regenRegister h ctx image arg) s1))
    ∧ (∀ bs, readSpan ctx permRd image 8 (begun h (some ctx) s) = (.ok bs, s1) →
      ((fieldAt bs 6 2).testBit 0 = false → exec (.regenRegister h ctx image arg) s = .next (replied 7 h 2 .none s1))
      ∧ (∀ n, (fieldAt bs 6 2).testBit 0 = true → (List.range 4096).find? (fun n => (Table.find n s1.fw.kernels).isNone) = some n →
        exec (.regenRegister h ctx image arg) s = .next (replied 7 h 0 (.rgk n)
          (State.modFw ((giveStaging ctx s1).getD s1) fun f => { f with kernels := Table.set n ⟨ctx, image, arg⟩ f.kernels })))))
  ∧ (∀ (h : MsgHead) (s s1 : State) (x : Session) (ctx q : Nat) (d : List Byte), Commands h .auth s x → (Table.find ctx s.ctxs).isSome →
    ctx ≠ 0 → CtxFree s ctx → q ≤ 7 → d.length = 128 → (State.ctx s ctx).stopped = false → s.fw.noLaunch = false →
    (256 ≤ (Table.get [] q s.hub.queues).length → exec (.hostLaunch h ctx q d) s = .next (replied 8 h 6 .none (begun h (some ctx) s)))
    ∧ ((Table.get [] q s.hub.queues).length < 256 →
      (launchGrid ctx q d none (begun h (some ctx) s) = .done s1 → exec (.hostLaunch h ctx q d) s = .next (replied 8 h 0 .none
        (Try.state (launchGrid ctx q d none (journal (.queued ctx (parseDesc d).gridid q) (begun h (some ctx) s))))))
      ∧ (launchGrid ctx q d none (begun h (some ctx) s) = .busy s1 →
        exec (.hostLaunch h ctx q d) s = .next (retry (.hostLaunch h ctx q d) s1))))
  ∧ (∀ (h : MsgHead) (s : State) (x : Session) (q image : Nat) (d : List Byte) (arg : Dword), Commands h .auth s x → CtxFree s 0 →
    exec (.hostLaunch h 0 q d) s = .next (replied 8 h 2 .none (begun h (some 0) s))
    ∧ exec (.regenRegister h 0 image arg) s = .next (replied 7 h 2 .none (begun h (some 0) s)))
  ∧ (∀ (h : MsgHead) (s : State) (x : Session) (ctx gridid limit : Nat), Commands h .auth s x → (Table.find ctx s.ctxs).isSome →
    ((State.ctx s ctx).stopped = true → exec (.hostWait h ctx gridid limit) s = .next (replied 9 h 8 .none (begun h none s)))
    ∧ ((State.ctx s ctx).stopped = false → (gridNamed s ctx gridid).isSome → x.waits.length < 8 →
      ∃ t, exec (.hostWait h ctx gridid limit) s = .next t ∧ t.outbox = s.outbox ∧ t.grids = s.grids
        ∧ ∃ y, Table.find h.session t.fw.sessions = some y ∧ y.last = h.msgnum
          ∧ y.waits = x.waits ++ [⟨h.msgnum, ctx, gridid, if limit = 0 then none else some (limit * 1000000), h.src⟩])
    ∧ ((State.ctx s ctx).stopped = false → gridNamed s ctx gridid = none →
      (∀ c, (State.ctx s ctx).done.find? (fun c => c.gridid == gridid) = some c →
        exec (.hostWait h ctx gridid limit) s = .next (replied 9 h 0 (.record c) (begun h none s)))
      ∧ ((State.ctx s ctx).done.find? (fun c => c.gridid == gridid) = none →
        exec (.hostWait h ctx gridid limit) s = .next (replied 9 h 2 .none (begun h none s)))))
  ∧ (∀ (s : State) (r : Reply), r.opcode = 9 → Hub.onHold s.hub = true →
    (answer r s).outbox = s.outbox ∧ (answer r s).fw.heldReplies = s.fw.heldReplies ++ [r]
      ∧ ∀ x, Table.find r.session s.fw.sessions = some x →
        Table.find r.session (answer r s).fw.sessions = some { x with last := Nat.max x.last r.msgnum })
  ∧ (∀ (s : State) (n m : Nat) (x : Session) (w : HeldWait), Table.find n s.fw.sessions = some x → Hub.onHold s.hub = false →
    x.waits = [w] → w.msgnum = m →
    (w.left ≠ some 0 → exec (.waitTimeout n m) s = .next s)
    ∧ (w.left = some 0 → ∃ t, exec (.waitTimeout n m) s = .next t ∧ t.outbox = (sendReply ⟨9, n, m, 7, .none, w.src⟩ s).outbox
      ∧ ∃ y, Table.find n t.fw.sessions = some y ∧ y.waits = []))
  ∧ (∀ (h : MsgHead) (s : State) (x : Session), Commands h .auth s x →
    (∀ (id stag gslew : Nat) (en : Bool) (members : Nat), id < 1024 → stag < 16 → gslew < 65536 → members < 2 ^ 1024 →
      exec (.powerGroup h id stag gslew en members) s = .next (replied 11 h 0 .none (State.modHub (begun h none s) fun u =>
        { u with pgcfg := BitVec.ofNat 64 (id + stag * 2 ^ 16 + gslew * 2 ^ 32 + if en && s.fw.pgen then 2 ^ 48 else 0)
                 members := BitVec.ofNat 1024 members })))
    ∧ (∀ core u, core < 64 → u < 4 → exec (.resetUnitMreset h core u) s = .next (replied 12 h 0 .none (resetMx core u (begun h none s))))
    ∧ (∀ ctx, (Table.find ctx s.ctxs).isSome → CtxFree s ctx →
      exec (.resetUnitStopContext h ctx) s = .next (replied 12 h 0 .none (stopTeams ctx (begun h (some ctx) s))))
    ∧ (∃ t, exec (.resetUnitClearCounts h) s = .next t ∧ t.dram = s.dram
        ∧ (∀ e ∈ t.units, e.2.memerr.toNat % 2 ^ 32 = 0) ∧ (∀ e ∈ t.cores, e.2.sramerr.toNat % 2 ^ 32 = 0)
        ∧ ∀ e ∈ t.crossings, e.2.rpl = 0)
    ∧ (∃ t, exec (.resetUnitRetrainEthernet h) s = .next t ∧ t.fw.linkUp = false ∧ t.dram = s.dram
        ∧ t.inbox = s.inbox.filter fun i => !byEthernet i)
    ∧ (∀ n, n < 24 → exec (.resetUnitRetrainStation h n) s = .next (replied 12 h 0 .none
        (retrainStation n ((inFlightBy (begun h none s) n).foldl (fun s p => took s (execRemoteResponse p.1 p.2 (.error errNoRoute) s)) (begun h none s))))))

/-- O60. Power-on, registers and the Ethernet port (R93, R424, R457 to R460, R467, R472, R473): power-on keeps the trip register
and the stored blob and creates context 0; the link completes it, in the failure state where a stage failed; a register
takes its writable bits; a datagram sent to an address of the device is put together from its parts within 1 s and the message
its bytes hold becomes due as a step; a reply's message has the header of R460 and leaves in packets no larger than the message
MTU, a frame of a paused priority later; echo, ARP and neighbour discovery are answered for the device's addresses; an RDMA
access that fails its checks is refused and writes nothing. What power-on keeps, how a datagram counts as whole, which frame a
packet fits and how a message's bytes give its fields where the tables leave it are the model's reading (log 8, log 37, log 38,
log 54); that a write of a range register of a busy context has no effect is its choice (log 52), as is the RDMA of the lines
through their home die, 64 at a time (log 44). -/
def Obligations.StartupAndPort : Prop :=
  (∀ (s : State) (e : PowerOnEnv), e.failure = none →
    ∃ t, exec (.powerOn e) s = .next t ∧ t.fw.power = .booting 2 ∧ t.ctxs = [(0, Ctx.start 0)] ∧ t.bands = [] ∧ t.grids = []
      ∧ t.dram = [] ∧ t.hub.triprsn = s.hub.triprsn ∧ t.fw.blob.stored = s.fw.blob.stored ∧ t.fw.blob.applied = (if e.blobBad then none else s.fw.blob.stored)
      ∧ t.fw.blob.owner = s.fw.blob.owner ∧ t.fw.pgen = e.pgen ∧ t.units = powerUnits e.dimms)
  ∧ (∀ (s : State) (e : PowerOnEnv) (f : StageFailure), e.failure = some f → f.stage = 1 →
    ∃ t, exec (.powerOn e) s = .next t ∧ t.fw.power = .failed 1 ∧ t.fw.failure = some f ∧ t.fw.blob.applied = none ∧ t.fw.noCore = e.noCore
      ∧ (∀ c < 64, (State.core t c).bucket = 0) ∧ ∀ n < 24, (State.station t n).down = true)
  ∧ (∀ s : State, s.fw.power = .booting 2 →
    (s.fw.failure = none → exec .ethernetLinkFormed s = .next { s with fw := { s.fw with linkUp := true, power := .ready } })
    ∧ (∀ f, s.fw.failure = some f →
      ∃ t, exec .ethernetLinkFormed s = .next t ∧ t.fw.power = .failed f.stage ∧ t.fw.linkUp = true
        ∧ (∀ c < 64, (State.core t c).bucket = 0) ∧ ∀ n < 24, (State.station t n).down = true))
  ∧ (∀ (s : State) (v : Dword),
    exec (.registerWrite .thermcfg v) s = .next { s with hub := { s.hub with thermcfg := (v &&& 0xFFFF#64).setWidth 32 } }
    ∧ exec (.registerWrite .preempt v) s = .next { s with hub := { s.hub with preempt := (v &&& 0xFFFFFF#64).setWidth 32 } }
    ∧ exec (.registerWrite .passcfg v) s = .next { s with hub := { s.hub with passcfg := v.setWidth 32 } }
    ∧ exec (.registerWrite .triprsn v) s = .next { s with hub := { s.hub with triprsn := s.hub.triprsn &&& ~~~(v.setWidth 32 &&& 1) } })
  ∧ (∀ (s : State) (c : Nat) (v : Dword), c < 64 →
    ∃ t, exec (.registerWrite (.ceerr c) v) s = .next t
      ∧ State.core t c = { State.core s c with ceerr := (State.core s c).ceerr &&& ~~~(v &&& 0x100000000#64) } ∧ t.hub = s.hub)
  ∧ (∀ (s : State) (r : RegName) (v : Dword) (t : State), writeReg r v s = some t → exec (.registerWrite r v) s = .next t ∧ t.bands = s.bands)
  ∧ (∀ (s : State) (ctx k : Nat) (v : Dword), k < 8 → (Table.find ctx s.ctxs).isSome →
    (ctxBusy s ctx = true → exec (.registerWrite (.rgcb ctx k) v) s = .next s)
    ∧ (ctxBusy s ctx = false → exec (.registerWrite (.rgcb ctx k) v) s = .next (followView ctx none (State.modCtx s ctx fun c =>
        { c with ranges := Table.set (4 * k + 2) (v &&& 0xFFFFFFFF0000#64) c.ranges }))))
  ∧ (∀ (s : State) (d : Nat) (v : Dword), d < 4 →
    (s.fw.power = .ready → exec (.registerWrite (.coreclk d) v) s = .next s)
    ∧ (∀ n, s.fw.power = .booting n → exec (.registerWrite (.coreclk d) v) s
        = .next (State.modDie s d fun x => { x with coreclk := v.setWidth 6 })))
  ∧ (∀ (s : State) (f : IpFragment), s.fw.linkUp = true → answersAt s f.v6 f.dst = true → packetOk f = true →
    IpFragment.hi f ≤ 9216 →
    (s.fw.partials = [] → datagramWhole [f] = true → exec (.ipFragmentReceive f) s = .next (takeDatagram f [f] s))
    ∧ (s.fw.partials = [] → datagramWhole [f] = false → exec (.ipFragmentReceive f) s
        = .next { s with fw := { s.fw with partials := [⟨f.src, f.ident, [f], 0⟩] } })
    ∧ (∀ p, s.fw.partials = [p] → sameDatagram f p = true → datagramWhole (p.parts ++ [f]) = true →
      exec (.ipFragmentReceive f) s = .next (takeDatagram f (p.parts ++ [f]) { s with fw := { s.fw with partials := [] } }))
    ∧ (∀ p, s.fw.partials = [p] → sameDatagram f p = true → datagramWhole (p.parts ++ [f]) = false →
      exec (.ipFragmentReceive f) s
        = .next { s with fw := { s.fw with partials := [{ p with parts := p.parts ++ [f] }] } }))
  ∧ (∀ (s : State) (f : IpFragment), (answersAt s f.v6 f.dst = false ∨ packetOk f = false ∨ 9216 < IpFragment.hi f) →
    exec (.ipFragmentReceive f) s = .next s)
  ∧ (∀ (s : State) (f : IpFragment) (fs : List IpFragment),
    (∀ d, readMessage s f.src f.v6 f.tag (datagramBytes fs) = .due d →
      takeDatagram f fs s = { s with waiting := s.waiting ++ [d] })
    ∧ (∀ op h, readMessage s f.src f.v6 f.tag (datagramBytes fs) = .malformed op h → macOnly s = false →
      takeDatagram f fs s = sendReply ⟨op, h.session, h.msgnum, 1, .none, h.src⟩ (touchSession h.session s))
    ∧ (readMessage s f.src f.v6 f.tag (datagramBytes fs) = .nothing → takeDatagram f fs s = s))
  ∧ (∀ (s : State) (src ident : Nat),
    ∃ t, exec (.reassemblyTimeout src ident) s = .next t ∧ t.dram = s.dram
      ∧ ∀ p, p ∈ t.fw.partials ↔ p ∈ s.fw.partials ∧ ¬(p.src = src ∧ p.ident = ident ∧ 1000000000 ≤ p.age))
  ∧ (∀ (s : State) (sender target : Nat) (b : Blob), s.fw.blob.applied = some b → s.fw.linkUp = true →
    (target < 2 ^ 32 → exec (.arpRequest sender target) s
      = .next (if b.ips.elem target then sendFrame 0 (.arp sender target macAddress) s else s))
    ∧ (2 ^ 32 ≤ target → exec (.arpRequest sender target) s = .next s))
  ∧ (∀ (s : State) (sender target : Nat) (bytes : List Byte), s.fw.linkUp = true →
    (exec (.neighbourDiscovery sender target) s
      = .next (if ownAddress s true target then sendFrame 0 (.neighbour sender target macAddress) s else s))
    ∧ ((if 2 ^ 32 ≤ target then 48 else 28) + bytes.length ≤ 9216 → exec (.icmpEcho sender target bytes) s
      = .next (if ownAddress s (decide (2 ^ 32 ≤ target)) target ∨ target = allNodes then
          sendFrame 0 (.echo sender target bytes) s else s))
    ∧ (9216 < (if 2 ^ 32 ≤ target then 48 else 28) + bytes.length → exec (.icmpEcho sender target bytes) s = .next s))
  ∧ (∀ s : State, ownAddress s true linkLocal = true ∧ ∀ b a, s.fw.blob.applied = some b → a ∈ b.ips →
    ownAddress s (decide (2 ^ 32 ≤ a)) a = true)
  ∧ (∀ (s : State) (prio : Nat) (pause : Bool), prio < 8 →
    ∃ t, exec (.priorityFlowControl prio pause) s = .next t ∧ t.fw.pause.getLsbD prio = pause
      ∧ (∀ k, k ≠ prio → t.fw.pause.getLsbD k = s.fw.pause.getLsbD k) ∧ t.dram = s.dram
      ∧ (pause = true → t.outbox = s.outbox ∧ t.fw.paused = s.fw.paused)
      ∧ (pause = false → ∀ o, s.fw.paused = [(prio, o)] → t.fw.paused = [] ∧ t.outbox = s.outbox ++ [o]))
  ∧ (∀ (s : State) (prio : Nat) (o : Out),
    (s.fw.pause.getLsbD prio = true → sendFrame prio o s = { s with fw := { s.fw with paused := s.fw.paused ++ [(prio, o)] } })
    ∧ (s.fw.pause.getLsbD prio = false → sendFrame prio o s = { s with outbox := s.outbox ++ [o] }))
  ∧ (∀ (s : State) (r : Reply), 1500 ≤ messageMtu s →
    ∃ ps, sendReply r s = sendFrame (Origin.prio r.dst) (.reply r (Reply.message r) ps) s ∧ ps ≠ []
      ∧ ∀ p ∈ ps, p ≤ messageMtu s)
  ∧ (∀ r : Reply, (Reply.message r).take 4 = [0x46, 0x48, 1, 1] ∧ fieldAt (Reply.message r) 4 2 = r.opcode % 2 ^ 16
    ∧ fieldAt (Reply.message r) 6 2 = r.status % 2 ^ 16 ∧ fieldAt (Reply.message r) 8 8 = r.session % 2 ^ 64
    ∧ fieldAt (Reply.message r) 16 8 = r.msgnum % 2 ^ 64
    ∧ fieldAt (Reply.message r) 24 4 = (Payload.bytes r.payload).length % 2 ^ 32
    ∧ (Reply.message r).drop 32 = Payload.bytes r.payload)
  ∧ (∀ (s : State) (qp rkey va len : Nat) (bytes : List Byte), qp < 64 → s.fw.linkUp = true → s.fw.power = .ready →
    rkeyCtx s rkey = none →
    exec (.rdmaWrite qp rkey va bytes) s = .next (sendFrame 0 (.nak qp false []) s)
    ∧ exec (.rdmaRead qp rkey va len) s = .next (sendFrame 0 (.nak qp false []) s))
  ∧ (∀ (s s1 s2 : State) (qp rkey va ctx : Nat) (bytes : List Byte), qp < 64 → s.fw.linkUp = true → s.fw.power = .ready →
    rkeyCtx s rkey = some ctx → va + bytes.length ≤ 2 ^ 60 →
    (hubNeeds s ctx (permRm + permWr) (lineCount va bytes.length) va bytes.length = none →
      exec (.rdmaWrite qp rkey va bytes) s = .next (sendFrame 0 (.nak qp false []) s))
    ∧ (∀ ns, hubNeeds s ctx (permRm + permWr) (lineCount va bytes.length) va bytes.length = some ns →
      (∀ w, hubPages true none ns s = (true, w, s1) →
        exec (.rdmaWrite qp rkey va bytes) s = .next (sendFrame 0 (.nak qp false []) s1))
      ∧ (hubPages true none ns s = (false, true, s1) →
        exec (.rdmaWrite qp rkey va bytes) s = .next (retry (.rdmaWrite qp rkey va bytes) s1))
      ∧ (hubPages true none ns s = (false, false, s1) →
        (∀ h late, askHub true (ns.take 64) s1 = (some h, late, s2) →
          exec (.rdmaWrite qp rkey va bytes) s = .next (sendFrame 0 (.nak qp false []) s2))
        ∧ (askHub true (ns.take 64) s1 = (none, true, s2) →
          exec (.rdmaWrite qp rkey va bytes) s = .next (retry (.rdmaWrite qp rkey va bytes) s2))
        ∧ (askHub true (ns.take 64) s1 = (none, false, s2) → ns.length ≤ 64 →
          exec (.rdmaWrite qp rkey va bytes) s = .next (sendFrame 0 (.ack qp) (hubWrite ns bytes s2)))
        ∧ (askHub true (ns.take 64) s1 = (none, false, s2) → 64 < ns.length →
          exec (.rdmaWrite qp rkey va bytes) s = .next (retry
            (.rdmaWrite qp rkey (va + windowBytes ns) (bytes.drop (windowBytes ns))) (hubWrite (ns.take 64) bytes s2))))))
  ∧ (∀ (s s1 s2 : State) (qp rkey va ctx len : Nat) (ns : List HubNeed) (bs : List Byte), qp < 64 → s.fw.linkUp = true →
    s.fw.power = .ready → rkeyCtx s rkey = some ctx → va + len ≤ 2 ^ 60 →
    hubNeeds s ctx (permRm + permRd) (lineCount va len) va len = some ns → hubPages false none ns s = (false, false, s1) →
    (askHub false (ns.take 64) s1 = (none, true, s2) →
      exec (.rdmaRead qp rkey va len) s = .next (retry (.rdmaRead qp rkey va len []) s2))
    ∧ (askHub false (ns.take 64) s1 = (none, false, s2) → hubRead (ns.take 64) s2 = (bs, false) →
      (ns.length ≤ 64 → exec (.rdmaRead qp rkey va len) s = .next (sendFrame 0 (.readData qp bs) s2))
      ∧ (64 < ns.length → exec (.rdmaRead qp rkey va len) s
        = .next (retry (.rdmaRead qp rkey (va + windowBytes ns) (len - windowBytes ns) bs) s2)))
    ∧ (askHub false (ns.take 64) s1 = (none, false, s2) → hubRead (ns.take 64) s2 = (bs, true) →
      exec (.rdmaRead qp rkey va len) s = .next (sendFrame 0
        (.nak qp true (bs.take (bs.length / (1024 * 2 ^ (Config.pathMtu qp % 3)) * (1024 * 2 ^ (Config.pathMtu qp % 3))))) s2)))
end

