-- ==== Sys2Proof/Laws/Table.lean ====
section
/-!
SUPPORT. Laws of tables and memories: reading after writing, and that every operation keeps the canonical form.
-/
namespace Sys2Proof.Machine

variable {α : Type}

/-! ## Tables: reading after writing -/

@[simp] theorem Table.find_set (k : Nat) (x : α) (t : Table α) : Table.find k (Table.set k x t) = some x := by
  induction t with
  | nil => simp [Table.set, Table.find]
  | cons e t ih =>
    obtain ⟨j, y⟩ := e
    unfold Table.set
    split
    · simp [Table.find]
    · split
      · simp [Table.find]
      · simp [Table.find, *]

theorem Table.find_set_ne {k j : Nat} (x : α) (t : Table α) (h : j ≠ k) :
    Table.find j (Table.set k x t) = Table.find j t := by
  induction t with
  | nil => simp [Table.set, Table.find, Ne.symm h]
  | cons e t ih =>
    obtain ⟨i, y⟩ := e
    unfold Table.set
    split
    · simp [Table.find, Ne.symm h]
    · split
      · subst_vars; simp [Table.find, Ne.symm h]
      · simp [Table.find, ih]

@[simp] theorem Table.find_del (k : Nat) (t : Table α) : Table.find k (Table.del k t) = none := by
  induction t with
  | nil => rfl
  | cons e t ih =>
    obtain ⟨j, y⟩ := e
    unfold Table.del
    split
    · exact ih
    · simp [Table.find, *]

theorem Table.find_del_ne {k j : Nat} (t : Table α) (h : j ≠ k) : Table.find j (Table.del k t) = Table.find j t := by
  induction t with
  | nil => rfl
  | cons e t ih =>
    obtain ⟨i, y⟩ := e
    unfold Table.del
    split
    · subst_vars; simp [Table.find, Ne.symm h, ih]
    · simp [Table.find, ih]

@[simp] theorem Table.get_set (d : α) (k : Nat) (x : α) (t : Table α) : Table.get d k (Table.set k x t) = x := by
  simp [Table.get]

theorem Table.get_set_ne (d : α) {k j : Nat} (x : α) (t : Table α) (h : j ≠ k) :
    Table.get d j (Table.set k x t) = Table.get d j t := by simp [Table.get, Table.find_set_ne x t h]

@[simp] theorem Table.get_put [DecidableEq α] (d : α) (k : Nat) (x : α) (t : Table α) : Table.get d k (Table.put d k x t) = x := by
  unfold Table.put
  split
  · simp [Table.get, *]
  · simp

theorem Table.get_put_ne [DecidableEq α] (d : α) {k j : Nat} (x : α) (t : Table α) (h : j ≠ k) :
    Table.get d j (Table.put d k x t) = Table.get d j t := by
  unfold Table.put
  split
  · simp [Table.get, Table.find_del_ne t h]
  · simp [Table.get_set_ne d x t h]

theorem Table.find_alter {k : Nat} {x : α} {f : α → α} {t : Table α} (h : Table.find k t = some x) :
    Table.find k (Table.alter k f t) = some (f x) := by simp [Table.alter, h]

theorem Table.find_alter_none {k : Nat} {f : α → α} {t : Table α} (h : Table.find k t = none) : Table.alter k f t = t := by
  simp [Table.alter, h]

theorem Table.find_alter_ne {k j : Nat} (f : α → α) (t : Table α) (h : j ≠ k) :
    Table.find j (Table.alter k f t) = Table.find j t := by
  unfold Table.alter
  split
  · exact Table.find_set_ne _ t h
  · rfl

theorem Table.set_set (k : Nat) (x y : α) (t : Table α) : Table.set k y (Table.set k x t) = Table.set k y t := by
  induction t with
  | nil => simp [Table.set]
  | cons e t ih =>
    obtain ⟨j, z⟩ := e
    by_cases h : k < j
    · simp [Table.set, h]
    · by_cases h2 : j = k
      · simp [Table.set, h2]
      · simp [Table.set, h, h2, ih]

theorem Table.alter_alter (k : Nat) (f g : α → α) (t : Table α) :
    Table.alter k g (Table.alter k f t) = Table.alter k (fun x => g (f x)) t := by
  cases h : Table.find k t with
  | none => simp [Table.alter, h]
  | some x => simp [Table.alter, h, Table.set_set]

/-! ## The canonical form -/

/-- The keys of a sorted table rise strictly. -/
theorem Table.sorted_iff (t : Table α) : Table.sorted t = true ↔ (t.map Prod.fst).Pairwise (· < ·) := by
  induction t with
  | nil => simp [Table.sorted]
  | cons e t ih =>
    obtain ⟨k, x⟩ := e
    cases t with
    | nil => simp [Table.sorted]
    | cons f t =>
      obtain ⟨j, y⟩ := f
      simp only [Table.sorted, Bool.and_eq_true, decide_eq_true_eq, List.map_cons, List.pairwise_cons] at ih ⊢
      constructor
      · rintro ⟨h1, h2⟩
        have h3 := ih.mp h2
        refine ⟨?_, h3⟩
        intro a ha
        rcases List.mem_cons.mp ha with rfl | ha
        · exact h1
        · exact lt_trans h1 (h3.1 a ha)
      · rintro ⟨h1, h2⟩
        exact ⟨h1 j (by simp), ih.mpr h2⟩

theorem Table.mem_set {k : Nat} {x : α} {t : Table α} {e : Nat × α} (h : e ∈ Table.set k x t) : e = (k, x) ∨ e ∈ t := by
  induction t with
  | nil => simpa [Table.set] using h
  | cons a t ih =>
    obtain ⟨j, y⟩ := a
    unfold Table.set at h
    split at h
    · simpa using h
    · split at h
      · rcases List.mem_cons.mp h with h | h
        · exact .inl h
        · exact .inr (List.mem_cons_of_mem _ h)
      · rcases List.mem_cons.mp h with h | h
        · exact .inr (by simp [h])
        · rcases ih h with h | h
          · exact .inl h
          · exact .inr (List.mem_cons_of_mem _ h)

theorem Table.mem_del {k : Nat} {t : Table α} {e : Nat × α} (h : e ∈ Table.del k t) : e ∈ t := by
  induction t with
  | nil => simp [Table.del] at h
  | cons a t ih =>
    obtain ⟨j, y⟩ := a
    unfold Table.del at h
    split at h
    · exact List.mem_cons_of_mem _ (ih h)
    · rcases List.mem_cons.mp h with h | h
      · simp [h]
      · exact List.mem_cons_of_mem _ (ih h)

theorem Table.set_sorted {k : Nat} {x : α} {t : Table α} (h : (t.map Prod.fst).Pairwise (· < ·)) :
    ((Table.set k x t).map Prod.fst).Pairwise (· < ·) := by
  induction t with
  | nil => simp [Table.set]
  | cons a t ih =>
    obtain ⟨j, y⟩ := a
    simp only [List.map_cons, List.pairwise_cons] at h
    unfold Table.set
    split
    · simp only [List.map_cons, List.pairwise_cons]
      refine ⟨?_, h⟩
      intro b hb
      rcases List.mem_cons.mp hb with rfl | hb
      · assumption
      · exact lt_trans ‹_› (h.1 b hb)
    · split
      · subst_vars; simpa using h
      · simp only [List.map_cons, List.pairwise_cons]
        refine ⟨?_, ih h.2⟩
        intro b hb
        obtain ⟨e, he, rfl⟩ := List.mem_map.mp hb
        rcases Table.mem_set he with rfl | he
        · show j < k; omega
        · exact h.1 _ (List.mem_map_of_mem he)

theorem Table.del_sorted {k : Nat} {t : Table α} (h : (t.map Prod.fst).Pairwise (· < ·)) :
    ((Table.del k t).map Prod.fst).Pairwise (· < ·) := by
  induction t with
  | nil => simp [Table.del]
  | cons a t ih =>
    obtain ⟨j, y⟩ := a
    simp only [List.map_cons, List.pairwise_cons] at h
    unfold Table.del
    split
    · exact ih h.2
    · simp only [List.map_cons, List.pairwise_cons]
      refine ⟨?_, ih h.2⟩
      intro b hb
      obtain ⟨e, he, rfl⟩ := List.mem_map.mp hb
      exact h.1 _ (List.mem_map_of_mem (Table.mem_del he))

theorem Memory.wf_iff (m : Table Byte) : Memory.wf m = true ↔ (m.map Prod.fst).Pairwise (· < ·) ∧ ∀ e ∈ m, e.2 ≠ 0 := by
  simp [Memory.wf, Memory.wfOf, Table.sorted_iff]

/-! ## Memories -/

/-- A write of one byte keeps the canonical form. -/
theorem Memory.write_wf {m : Table Byte} (a : Nat) (x : Byte) (h : Memory.wf m = true) : Memory.wf (Memory.write m a x) = true := by
  rw [Memory.wf_iff] at h ⊢
  unfold Memory.write Table.put
  split
  · exact ⟨Table.del_sorted h.1, fun e he => h.2 e (Table.mem_del he)⟩
  · refine ⟨Table.set_sorted h.1, fun e he => ?_⟩
    rcases Table.mem_set he with rfl | he
    · assumption
    · exact h.2 e he

/-- Bytes written keep the canonical form. -/
theorem Memory.store_wf {m : Table Byte} (a : Nat) (bs : List Byte) (h : Memory.wf m = true) :
    Memory.wf (Memory.store m a bs) = true := by
  induction bs generalizing m a with
  | nil => exact h
  | cons x bs ih => exact ih _ (Memory.write_wf a x h)

/-- Entries taken out of a memory leave it in its canonical form. -/
theorem Memory.filter_wf {m : Table Byte} (p : Nat × Byte → Bool) (h : Memory.wf m = true) : Memory.wf (m.filter p) = true := by
  rw [Memory.wf_iff] at h ⊢
  refine ⟨?_, fun e he => h.2 e (List.mem_filter.mp he).1⟩
  exact h.1.sublist (List.Sublist.map _ List.filter_sublist)

@[simp] theorem Memory.read_write (m : Table Byte) (a : Nat) (x : Byte) : Memory.read (Memory.write m a x) a = x := by
  simp [Memory.read, Memory.write]

theorem Memory.read_write_ne (m : Table Byte) {a b : Nat} (x : Byte) (h : b ≠ a) :
    Memory.read (Memory.write m a x) b = Memory.read m b := by
  simp [Memory.read, Memory.write, Table.get_put_ne _ _ _ h]

/-- A byte outside a store stands. -/
theorem Memory.read_store_ne {m : Table Byte} {a b : Nat} {bs : List Byte} (h : b < a ∨ a + bs.length ≤ b) :
    Memory.read (Memory.store m a bs) b = Memory.read m b := by
  induction bs generalizing m a with
  | nil => rfl
  | cons x bs ih =>
    simp only [List.length_cons] at h
    unfold Memory.store
    rw [ih (by omega), Memory.read_write_ne _ _ (by omega)]

/-- A byte inside a store is the byte stored there. -/
theorem Memory.read_store {m : Table Byte} {a n : Nat} {bs : List Byte} (h : n < bs.length) :
    Memory.read (Memory.store m a bs) (a + n) = bs[n] := by
  induction bs generalizing m a n with
  | nil => simp at h
  | cons x bs ih =>
    unfold Memory.store
    cases n with
    | zero => rw [Memory.read_store_ne (by omega)]; simp
    | succ n =>
      have := @ih (Memory.write m a x) (a + 1) n (by simpa using h)
      simpa [Nat.add_assoc, Nat.add_comm 1] using this

/-- Reading back what was stored. -/
theorem Memory.bytes_store (m : Table Byte) (a : Nat) (bs : List Byte) : Memory.bytes (Memory.store m a bs) a bs.length = bs := by
  suffices h : ∀ (n a : Nat) (m : Table Byte) (bs : List Byte), (∀ i (hi : i < bs.length), Memory.read m (a + i) = bs[i]) →
      bs.length = n → Memory.bytes m a n = bs by
    exact h _ a _ bs (fun i hi => Memory.read_store hi) rfl
  intro n
  induction n with
  | zero => intro a m bs _ h0; simp [List.length_eq_zero_iff.mp h0, Memory.bytes]
  | succ n ih =>
    intro a m bs h hl
    cases bs with
    | nil => simp at hl
    | cons x bs =>
      have h0 := h 0 (by simp)
      have h1 := ih (a + 1) m bs (fun i hi => by
        have := h (i + 1) (by simpa using hi)
        simpa [Nat.add_assoc, Nat.add_comm 1] using this) (by simpa using hl)
      simp only [Nat.add_zero, List.getElem_cons_zero] at h0
      simp [Memory.bytes, h0, h1]

end Sys2Proof.Machine
end

