-- ==== Sys2Proof/Laws/State.lean ====
section
/-!
SUPPORT. What each update of the state leaves of each field, and what reading back an agent gives.
-/
namespace Sys2Proof.Machine

/-! ## modCore -/

@[simp] theorem modCore_bands (s : State) (c : Nat) (f : Core → Core) : (State.modCore s c f).bands = s.bands := rfl
@[simp] theorem modCore_teams (s : State) (c : Nat) (f : Core → Core) : (State.modCore s c f).teams = s.teams := rfl
@[simp] theorem modCore_grids (s : State) (c : Nat) (f : Core → Core) : (State.modCore s c f).grids = s.grids := rfl
@[simp] theorem modCore_ctxs (s : State) (c : Nat) (f : Core → Core) : (State.modCore s c f).ctxs = s.ctxs := rfl
@[simp] theorem modCore_ops (s : State) (c : Nat) (f : Core → Core) : (State.modCore s c f).ops = s.ops := rfl
@[simp] theorem modCore_pairs (s : State) (c : Nat) (f : Core → Core) : (State.modCore s c f).pairs = s.pairs := rfl
@[simp] theorem modCore_dies (s : State) (c : Nat) (f : Core → Core) : (State.modCore s c f).dies = s.dies := rfl
@[simp] theorem modCore_units (s : State) (c : Nat) (f : Core → Core) : (State.modCore s c f).units = s.units := rfl
@[simp] theorem modCore_crossings (s : State) (c : Nat) (f : Core → Core) : (State.modCore s c f).crossings = s.crossings := rfl
@[simp] theorem modCore_stations (s : State) (c : Nat) (f : Core → Core) : (State.modCore s c f).stations = s.stations := rfl
@[simp] theorem modCore_dram (s : State) (c : Nat) (f : Core → Core) : (State.modCore s c f).dram = s.dram := rfl
@[simp] theorem modCore_dramPoison (s : State) (c : Nat) (f : Core → Core) : (State.modCore s c f).dramPoison = s.dramPoison := rfl
@[simp] theorem modCore_dramFlips (s : State) (c : Nat) (f : Core → Core) : (State.modCore s c f).dramFlips = s.dramFlips := rfl
@[simp] theorem modCore_sram (s : State) (c : Nat) (f : Core → Core) : (State.modCore s c f).sram = s.sram := rfl
@[simp] theorem modCore_sramPoison (s : State) (c : Nat) (f : Core → Core) : (State.modCore s c f).sramPoison = s.sramPoison := rfl
@[simp] theorem modCore_sramFlips (s : State) (c : Nat) (f : Core → Core) : (State.modCore s c f).sramFlips = s.sramFlips := rfl
@[simp] theorem modCore_hubSram (s : State) (c : Nat) (f : Core → Core) : (State.modCore s c f).hubSram = s.hubSram := rfl
@[simp] theorem modCore_msgs (s : State) (c : Nat) (f : Core → Core) : (State.modCore s c f).msgs = s.msgs := rfl
@[simp] theorem modCore_hub (s : State) (c : Nat) (f : Core → Core) : (State.modCore s c f).hub = s.hub := rfl
@[simp] theorem modCore_fw (s : State) (c : Nat) (f : Core → Core) : (State.modCore s c f).fw = s.fw := rfl
@[simp] theorem modCore_saved (s : State) (c : Nat) (f : Core → Core) : (State.modCore s c f).saved = s.saved := rfl
@[simp] theorem modCore_outbox (s : State) (c : Nat) (f : Core → Core) : (State.modCore s c f).outbox = s.outbox := rfl
@[simp] theorem modCore_nextKey (s : State) (c : Nat) (f : Core → Core) : (State.modCore s c f).nextKey = s.nextKey := rfl
@[simp] theorem modCore_inbox (s : State) (c : Nat) (f : Core → Core) : (State.modCore s c f).inbox = s.inbox := rfl
@[simp] theorem modCore_agenda (s : State) (c : Nat) (f : Core → Core) : (State.modCore s c f).agenda = s.agenda := rfl
@[simp] theorem modCore_waiting (s : State) (c : Nat) (f : Core → Core) : (State.modCore s c f).waiting = s.waiting := rfl
@[simp] theorem modCore_issue (s : State) (c : Nat) (f : Core → Core) : (State.modCore s c f).issue = s.issue := rfl
@[simp] theorem modCore_fresh (s : State) (c : Nat) (f : Core → Core) : (State.modCore s c f).fresh = s.fresh := rfl

/-! ## setCore -/

@[simp] theorem setCore_bands (s : State) (c : Nat) (x : Core) : (State.setCore s c x).bands = s.bands := rfl
@[simp] theorem setCore_teams (s : State) (c : Nat) (x : Core) : (State.setCore s c x).teams = s.teams := rfl
@[simp] theorem setCore_grids (s : State) (c : Nat) (x : Core) : (State.setCore s c x).grids = s.grids := rfl
@[simp] theorem setCore_ctxs (s : State) (c : Nat) (x : Core) : (State.setCore s c x).ctxs = s.ctxs := rfl
@[simp] theorem setCore_ops (s : State) (c : Nat) (x : Core) : (State.setCore s c x).ops = s.ops := rfl
@[simp] theorem setCore_pairs (s : State) (c : Nat) (x : Core) : (State.setCore s c x).pairs = s.pairs := rfl
@[simp] theorem setCore_dies (s : State) (c : Nat) (x : Core) : (State.setCore s c x).dies = s.dies := rfl
@[simp] theorem setCore_units (s : State) (c : Nat) (x : Core) : (State.setCore s c x).units = s.units := rfl
@[simp] theorem setCore_crossings (s : State) (c : Nat) (x : Core) : (State.setCore s c x).crossings = s.crossings := rfl
@[simp] theorem setCore_stations (s : State) (c : Nat) (x : Core) : (State.setCore s c x).stations = s.stations := rfl
@[simp] theorem setCore_dram (s : State) (c : Nat) (x : Core) : (State.setCore s c x).dram = s.dram := rfl
@[simp] theorem setCore_dramPoison (s : State) (c : Nat) (x : Core) : (State.setCore s c x).dramPoison = s.dramPoison := rfl
@[simp] theorem setCore_dramFlips (s : State) (c : Nat) (x : Core) : (State.setCore s c x).dramFlips = s.dramFlips := rfl
@[simp] theorem setCore_sram (s : State) (c : Nat) (x : Core) : (State.setCore s c x).sram = s.sram := rfl
@[simp] theorem setCore_sramPoison (s : State) (c : Nat) (x : Core) : (State.setCore s c x).sramPoison = s.sramPoison := rfl
@[simp] theorem setCore_sramFlips (s : State) (c : Nat) (x : Core) : (State.setCore s c x).sramFlips = s.sramFlips := rfl
@[simp] theorem setCore_hubSram (s : State) (c : Nat) (x : Core) : (State.setCore s c x).hubSram = s.hubSram := rfl
@[simp] theorem setCore_msgs (s : State) (c : Nat) (x : Core) : (State.setCore s c x).msgs = s.msgs := rfl
@[simp] theorem setCore_hub (s : State) (c : Nat) (x : Core) : (State.setCore s c x).hub = s.hub := rfl
@[simp] theorem setCore_fw (s : State) (c : Nat) (x : Core) : (State.setCore s c x).fw = s.fw := rfl
@[simp] theorem setCore_saved (s : State) (c : Nat) (x : Core) : (State.setCore s c x).saved = s.saved := rfl
@[simp] theorem setCore_outbox (s : State) (c : Nat) (x : Core) : (State.setCore s c x).outbox = s.outbox := rfl
@[simp] theorem setCore_nextKey (s : State) (c : Nat) (x : Core) : (State.setCore s c x).nextKey = s.nextKey := rfl
@[simp] theorem setCore_inbox (s : State) (c : Nat) (x : Core) : (State.setCore s c x).inbox = s.inbox := rfl
@[simp] theorem setCore_agenda (s : State) (c : Nat) (x : Core) : (State.setCore s c x).agenda = s.agenda := rfl
@[simp] theorem setCore_waiting (s : State) (c : Nat) (x : Core) : (State.setCore s c x).waiting = s.waiting := rfl
@[simp] theorem setCore_issue (s : State) (c : Nat) (x : Core) : (State.setCore s c x).issue = s.issue := rfl
@[simp] theorem setCore_fresh (s : State) (c : Nat) (x : Core) : (State.setCore s c x).fresh = s.fresh := rfl

/-! ## modDie -/

@[simp] theorem modDie_bands (s : State) (d : Nat) (f : Die → Die) : (State.modDie s d f).bands = s.bands := rfl
@[simp] theorem modDie_teams (s : State) (d : Nat) (f : Die → Die) : (State.modDie s d f).teams = s.teams := rfl
@[simp] theorem modDie_grids (s : State) (d : Nat) (f : Die → Die) : (State.modDie s d f).grids = s.grids := rfl
@[simp] theorem modDie_ctxs (s : State) (d : Nat) (f : Die → Die) : (State.modDie s d f).ctxs = s.ctxs := rfl
@[simp] theorem modDie_ops (s : State) (d : Nat) (f : Die → Die) : (State.modDie s d f).ops = s.ops := rfl
@[simp] theorem modDie_cores (s : State) (d : Nat) (f : Die → Die) : (State.modDie s d f).cores = s.cores := rfl
@[simp] theorem modDie_pairs (s : State) (d : Nat) (f : Die → Die) : (State.modDie s d f).pairs = s.pairs := rfl
@[simp] theorem modDie_units (s : State) (d : Nat) (f : Die → Die) : (State.modDie s d f).units = s.units := rfl
@[simp] theorem modDie_crossings (s : State) (d : Nat) (f : Die → Die) : (State.modDie s d f).crossings = s.crossings := rfl
@[simp] theorem modDie_stations (s : State) (d : Nat) (f : Die → Die) : (State.modDie s d f).stations = s.stations := rfl
@[simp] theorem modDie_dram (s : State) (d : Nat) (f : Die → Die) : (State.modDie s d f).dram = s.dram := rfl
@[simp] theorem modDie_dramPoison (s : State) (d : Nat) (f : Die → Die) : (State.modDie s d f).dramPoison = s.dramPoison := rfl
@[simp] theorem modDie_dramFlips (s : State) (d : Nat) (f : Die → Die) : (State.modDie s d f).dramFlips = s.dramFlips := rfl
@[simp] theorem modDie_sram (s : State) (d : Nat) (f : Die → Die) : (State.modDie s d f).sram = s.sram := rfl
@[simp] theorem modDie_sramPoison (s : State) (d : Nat) (f : Die → Die) : (State.modDie s d f).sramPoison = s.sramPoison := rfl
@[simp] theorem modDie_sramFlips (s : State) (d : Nat) (f : Die → Die) : (State.modDie s d f).sramFlips = s.sramFlips := rfl
@[simp] theorem modDie_hubSram (s : State) (d : Nat) (f : Die → Die) : (State.modDie s d f).hubSram = s.hubSram := rfl
@[simp] theorem modDie_msgs (s : State) (d : Nat) (f : Die → Die) : (State.modDie s d f).msgs = s.msgs := rfl
@[simp] theorem modDie_hub (s : State) (d : Nat) (f : Die → Die) : (State.modDie s d f).hub = s.hub := rfl
@[simp] theorem modDie_fw (s : State) (d : Nat) (f : Die → Die) : (State.modDie s d f).fw = s.fw := rfl
@[simp] theorem modDie_saved (s : State) (d : Nat) (f : Die → Die) : (State.modDie s d f).saved = s.saved := rfl
@[simp] theorem modDie_outbox (s : State) (d : Nat) (f : Die → Die) : (State.modDie s d f).outbox = s.outbox := rfl
@[simp] theorem modDie_nextKey (s : State) (d : Nat) (f : Die → Die) : (State.modDie s d f).nextKey = s.nextKey := rfl
@[simp] theorem modDie_inbox (s : State) (d : Nat) (f : Die → Die) : (State.modDie s d f).inbox = s.inbox := rfl
@[simp] theorem modDie_agenda (s : State) (d : Nat) (f : Die → Die) : (State.modDie s d f).agenda = s.agenda := rfl
@[simp] theorem modDie_waiting (s : State) (d : Nat) (f : Die → Die) : (State.modDie s d f).waiting = s.waiting := rfl
@[simp] theorem modDie_issue (s : State) (d : Nat) (f : Die → Die) : (State.modDie s d f).issue = s.issue := rfl
@[simp] theorem modDie_fresh (s : State) (d : Nat) (f : Die → Die) : (State.modDie s d f).fresh = s.fresh := rfl

/-! ## setDie -/

@[simp] theorem setDie_bands (s : State) (d : Nat) (x : Die) : (State.setDie s d x).bands = s.bands := rfl
@[simp] theorem setDie_teams (s : State) (d : Nat) (x : Die) : (State.setDie s d x).teams = s.teams := rfl
@[simp] theorem setDie_grids (s : State) (d : Nat) (x : Die) : (State.setDie s d x).grids = s.grids := rfl
@[simp] theorem setDie_ctxs (s : State) (d : Nat) (x : Die) : (State.setDie s d x).ctxs = s.ctxs := rfl
@[simp] theorem setDie_ops (s : State) (d : Nat) (x : Die) : (State.setDie s d x).ops = s.ops := rfl
@[simp] theorem setDie_cores (s : State) (d : Nat) (x : Die) : (State.setDie s d x).cores = s.cores := rfl
@[simp] theorem setDie_pairs (s : State) (d : Nat) (x : Die) : (State.setDie s d x).pairs = s.pairs := rfl
@[simp] theorem setDie_units (s : State) (d : Nat) (x : Die) : (State.setDie s d x).units = s.units := rfl
@[simp] theorem setDie_crossings (s : State) (d : Nat) (x : Die) : (State.setDie s d x).crossings = s.crossings := rfl
@[simp] theorem setDie_stations (s : State) (d : Nat) (x : Die) : (State.setDie s d x).stations = s.stations := rfl
@[simp] theorem setDie_dram (s : State) (d : Nat) (x : Die) : (State.setDie s d x).dram = s.dram := rfl
@[simp] theorem setDie_dramPoison (s : State) (d : Nat) (x : Die) : (State.setDie s d x).dramPoison = s.dramPoison := rfl
@[simp] theorem setDie_dramFlips (s : State) (d : Nat) (x : Die) : (State.setDie s d x).dramFlips = s.dramFlips := rfl
@[simp] theorem setDie_sram (s : State) (d : Nat) (x : Die) : (State.setDie s d x).sram = s.sram := rfl
@[simp] theorem setDie_sramPoison (s : State) (d : Nat) (x : Die) : (State.setDie s d x).sramPoison = s.sramPoison := rfl
@[simp] theorem setDie_sramFlips (s : State) (d : Nat) (x : Die) : (State.setDie s d x).sramFlips = s.sramFlips := rfl
@[simp] theorem setDie_hubSram (s : State) (d : Nat) (x : Die) : (State.setDie s d x).hubSram = s.hubSram := rfl
@[simp] theorem setDie_msgs (s : State) (d : Nat) (x : Die) : (State.setDie s d x).msgs = s.msgs := rfl
@[simp] theorem setDie_hub (s : State) (d : Nat) (x : Die) : (State.setDie s d x).hub = s.hub := rfl
@[simp] theorem setDie_fw (s : State) (d : Nat) (x : Die) : (State.setDie s d x).fw = s.fw := rfl
@[simp] theorem setDie_saved (s : State) (d : Nat) (x : Die) : (State.setDie s d x).saved = s.saved := rfl
@[simp] theorem setDie_outbox (s : State) (d : Nat) (x : Die) : (State.setDie s d x).outbox = s.outbox := rfl
@[simp] theorem setDie_nextKey (s : State) (d : Nat) (x : Die) : (State.setDie s d x).nextKey = s.nextKey := rfl
@[simp] theorem setDie_inbox (s : State) (d : Nat) (x : Die) : (State.setDie s d x).inbox = s.inbox := rfl
@[simp] theorem setDie_agenda (s : State) (d : Nat) (x : Die) : (State.setDie s d x).agenda = s.agenda := rfl
@[simp] theorem setDie_waiting (s : State) (d : Nat) (x : Die) : (State.setDie s d x).waiting = s.waiting := rfl
@[simp] theorem setDie_issue (s : State) (d : Nat) (x : Die) : (State.setDie s d x).issue = s.issue := rfl
@[simp] theorem setDie_fresh (s : State) (d : Nat) (x : Die) : (State.setDie s d x).fresh = s.fresh := rfl

/-! ## modPair -/

@[simp] theorem modPair_bands (s : State) (p : Nat) (f : Pair → Pair) : (State.modPair s p f).bands = s.bands := rfl
@[simp] theorem modPair_teams (s : State) (p : Nat) (f : Pair → Pair) : (State.modPair s p f).teams = s.teams := rfl
@[simp] theorem modPair_grids (s : State) (p : Nat) (f : Pair → Pair) : (State.modPair s p f).grids = s.grids := rfl
@[simp] theorem modPair_ctxs (s : State) (p : Nat) (f : Pair → Pair) : (State.modPair s p f).ctxs = s.ctxs := rfl
@[simp] theorem modPair_ops (s : State) (p : Nat) (f : Pair → Pair) : (State.modPair s p f).ops = s.ops := rfl
@[simp] theorem modPair_cores (s : State) (p : Nat) (f : Pair → Pair) : (State.modPair s p f).cores = s.cores := rfl
@[simp] theorem modPair_dies (s : State) (p : Nat) (f : Pair → Pair) : (State.modPair s p f).dies = s.dies := rfl
@[simp] theorem modPair_units (s : State) (p : Nat) (f : Pair → Pair) : (State.modPair s p f).units = s.units := rfl
@[simp] theorem modPair_crossings (s : State) (p : Nat) (f : Pair → Pair) : (State.modPair s p f).crossings = s.crossings := rfl
@[simp] theorem modPair_stations (s : State) (p : Nat) (f : Pair → Pair) : (State.modPair s p f).stations = s.stations := rfl
@[simp] theorem modPair_dram (s : State) (p : Nat) (f : Pair → Pair) : (State.modPair s p f).dram = s.dram := rfl
@[simp] theorem modPair_dramPoison (s : State) (p : Nat) (f : Pair → Pair) : (State.modPair s p f).dramPoison = s.dramPoison := rfl
@[simp] theorem modPair_dramFlips (s : State) (p : Nat) (f : Pair → Pair) : (State.modPair s p f).dramFlips = s.dramFlips := rfl
@[simp] theorem modPair_sram (s : State) (p : Nat) (f : Pair → Pair) : (State.modPair s p f).sram = s.sram := rfl
@[simp] theorem modPair_sramPoison (s : State) (p : Nat) (f : Pair → Pair) : (State.modPair s p f).sramPoison = s.sramPoison := rfl
@[simp] theorem modPair_sramFlips (s : State) (p : Nat) (f : Pair → Pair) : (State.modPair s p f).sramFlips = s.sramFlips := rfl
@[simp] theorem modPair_hubSram (s : State) (p : Nat) (f : Pair → Pair) : (State.modPair s p f).hubSram = s.hubSram := rfl
@[simp] theorem modPair_msgs (s : State) (p : Nat) (f : Pair → Pair) : (State.modPair s p f).msgs = s.msgs := rfl
@[simp] theorem modPair_hub (s : State) (p : Nat) (f : Pair → Pair) : (State.modPair s p f).hub = s.hub := rfl
@[simp] theorem modPair_fw (s : State) (p : Nat) (f : Pair → Pair) : (State.modPair s p f).fw = s.fw := rfl
@[simp] theorem modPair_saved (s : State) (p : Nat) (f : Pair → Pair) : (State.modPair s p f).saved = s.saved := rfl
@[simp] theorem modPair_outbox (s : State) (p : Nat) (f : Pair → Pair) : (State.modPair s p f).outbox = s.outbox := rfl
@[simp] theorem modPair_nextKey (s : State) (p : Nat) (f : Pair → Pair) : (State.modPair s p f).nextKey = s.nextKey := rfl
@[simp] theorem modPair_inbox (s : State) (p : Nat) (f : Pair → Pair) : (State.modPair s p f).inbox = s.inbox := rfl
@[simp] theorem modPair_agenda (s : State) (p : Nat) (f : Pair → Pair) : (State.modPair s p f).agenda = s.agenda := rfl
@[simp] theorem modPair_waiting (s : State) (p : Nat) (f : Pair → Pair) : (State.modPair s p f).waiting = s.waiting := rfl
@[simp] theorem modPair_issue (s : State) (p : Nat) (f : Pair → Pair) : (State.modPair s p f).issue = s.issue := rfl
@[simp] theorem modPair_fresh (s : State) (p : Nat) (f : Pair → Pair) : (State.modPair s p f).fresh = s.fresh := rfl

/-! ## modCtx -/

@[simp] theorem modCtx_bands (s : State) (n : Nat) (f : Ctx → Ctx) : (State.modCtx s n f).bands = s.bands := rfl
@[simp] theorem modCtx_teams (s : State) (n : Nat) (f : Ctx → Ctx) : (State.modCtx s n f).teams = s.teams := rfl
@[simp] theorem modCtx_grids (s : State) (n : Nat) (f : Ctx → Ctx) : (State.modCtx s n f).grids = s.grids := rfl
@[simp] theorem modCtx_ops (s : State) (n : Nat) (f : Ctx → Ctx) : (State.modCtx s n f).ops = s.ops := rfl
@[simp] theorem modCtx_cores (s : State) (n : Nat) (f : Ctx → Ctx) : (State.modCtx s n f).cores = s.cores := rfl
@[simp] theorem modCtx_pairs (s : State) (n : Nat) (f : Ctx → Ctx) : (State.modCtx s n f).pairs = s.pairs := rfl
@[simp] theorem modCtx_dies (s : State) (n : Nat) (f : Ctx → Ctx) : (State.modCtx s n f).dies = s.dies := rfl
@[simp] theorem modCtx_units (s : State) (n : Nat) (f : Ctx → Ctx) : (State.modCtx s n f).units = s.units := rfl
@[simp] theorem modCtx_crossings (s : State) (n : Nat) (f : Ctx → Ctx) : (State.modCtx s n f).crossings = s.crossings := rfl
@[simp] theorem modCtx_stations (s : State) (n : Nat) (f : Ctx → Ctx) : (State.modCtx s n f).stations = s.stations := rfl
@[simp] theorem modCtx_dram (s : State) (n : Nat) (f : Ctx → Ctx) : (State.modCtx s n f).dram = s.dram := rfl
@[simp] theorem modCtx_dramPoison (s : State) (n : Nat) (f : Ctx → Ctx) : (State.modCtx s n f).dramPoison = s.dramPoison := rfl
@[simp] theorem modCtx_dramFlips (s : State) (n : Nat) (f : Ctx → Ctx) : (State.modCtx s n f).dramFlips = s.dramFlips := rfl
@[simp] theorem modCtx_sram (s : State) (n : Nat) (f : Ctx → Ctx) : (State.modCtx s n f).sram = s.sram := rfl
@[simp] theorem modCtx_sramPoison (s : State) (n : Nat) (f : Ctx → Ctx) : (State.modCtx s n f).sramPoison = s.sramPoison := rfl
@[simp] theorem modCtx_sramFlips (s : State) (n : Nat) (f : Ctx → Ctx) : (State.modCtx s n f).sramFlips = s.sramFlips := rfl
@[simp] theorem modCtx_hubSram (s : State) (n : Nat) (f : Ctx → Ctx) : (State.modCtx s n f).hubSram = s.hubSram := rfl
@[simp] theorem modCtx_msgs (s : State) (n : Nat) (f : Ctx → Ctx) : (State.modCtx s n f).msgs = s.msgs := rfl
@[simp] theorem modCtx_hub (s : State) (n : Nat) (f : Ctx → Ctx) : (State.modCtx s n f).hub = s.hub := rfl
@[simp] theorem modCtx_fw (s : State) (n : Nat) (f : Ctx → Ctx) : (State.modCtx s n f).fw = s.fw := rfl
@[simp] theorem modCtx_saved (s : State) (n : Nat) (f : Ctx → Ctx) : (State.modCtx s n f).saved = s.saved := rfl
@[simp] theorem modCtx_outbox (s : State) (n : Nat) (f : Ctx → Ctx) : (State.modCtx s n f).outbox = s.outbox := rfl
@[simp] theorem modCtx_nextKey (s : State) (n : Nat) (f : Ctx → Ctx) : (State.modCtx s n f).nextKey = s.nextKey := rfl
@[simp] theorem modCtx_inbox (s : State) (n : Nat) (f : Ctx → Ctx) : (State.modCtx s n f).inbox = s.inbox := rfl
@[simp] theorem modCtx_agenda (s : State) (n : Nat) (f : Ctx → Ctx) : (State.modCtx s n f).agenda = s.agenda := rfl
@[simp] theorem modCtx_waiting (s : State) (n : Nat) (f : Ctx → Ctx) : (State.modCtx s n f).waiting = s.waiting := rfl
@[simp] theorem modCtx_issue (s : State) (n : Nat) (f : Ctx → Ctx) : (State.modCtx s n f).issue = s.issue := rfl
@[simp] theorem modCtx_fresh (s : State) (n : Nat) (f : Ctx → Ctx) : (State.modCtx s n f).fresh = s.fresh := rfl

/-! ## modBand -/

@[simp] theorem modBand_teams (s : State) (k : Nat) (f : Band → Band) : (State.modBand s k f).teams = s.teams := rfl
@[simp] theorem modBand_grids (s : State) (k : Nat) (f : Band → Band) : (State.modBand s k f).grids = s.grids := rfl
@[simp] theorem modBand_ctxs (s : State) (k : Nat) (f : Band → Band) : (State.modBand s k f).ctxs = s.ctxs := rfl
@[simp] theorem modBand_ops (s : State) (k : Nat) (f : Band → Band) : (State.modBand s k f).ops = s.ops := rfl
@[simp] theorem modBand_cores (s : State) (k : Nat) (f : Band → Band) : (State.modBand s k f).cores = s.cores := rfl
@[simp] theorem modBand_pairs (s : State) (k : Nat) (f : Band → Band) : (State.modBand s k f).pairs = s.pairs := rfl
@[simp] theorem modBand_dies (s : State) (k : Nat) (f : Band → Band) : (State.modBand s k f).dies = s.dies := rfl
@[simp] theorem modBand_units (s : State) (k : Nat) (f : Band → Band) : (State.modBand s k f).units = s.units := rfl
@[simp] theorem modBand_crossings (s : State) (k : Nat) (f : Band → Band) : (State.modBand s k f).crossings = s.crossings := rfl
@[simp] theorem modBand_stations (s : State) (k : Nat) (f : Band → Band) : (State.modBand s k f).stations = s.stations := rfl
@[simp] theorem modBand_dram (s : State) (k : Nat) (f : Band → Band) : (State.modBand s k f).dram = s.dram := rfl
@[simp] theorem modBand_dramPoison (s : State) (k : Nat) (f : Band → Band) : (State.modBand s k f).dramPoison = s.dramPoison := rfl
@[simp] theorem modBand_dramFlips (s : State) (k : Nat) (f : Band → Band) : (State.modBand s k f).dramFlips = s.dramFlips := rfl
@[simp] theorem modBand_sram (s : State) (k : Nat) (f : Band → Band) : (State.modBand s k f).sram = s.sram := rfl
@[simp] theorem modBand_sramPoison (s : State) (k : Nat) (f : Band → Band) : (State.modBand s k f).sramPoison = s.sramPoison := rfl
@[simp] theorem modBand_sramFlips (s : State) (k : Nat) (f : Band → Band) : (State.modBand s k f).sramFlips = s.sramFlips := rfl
@[simp] theorem modBand_hubSram (s : State) (k : Nat) (f : Band → Band) : (State.modBand s k f).hubSram = s.hubSram := rfl
@[simp] theorem modBand_msgs (s : State) (k : Nat) (f : Band → Band) : (State.modBand s k f).msgs = s.msgs := rfl
@[simp] theorem modBand_hub (s : State) (k : Nat) (f : Band → Band) : (State.modBand s k f).hub = s.hub := rfl
@[simp] theorem modBand_fw (s : State) (k : Nat) (f : Band → Band) : (State.modBand s k f).fw = s.fw := rfl
@[simp] theorem modBand_saved (s : State) (k : Nat) (f : Band → Band) : (State.modBand s k f).saved = s.saved := rfl
@[simp] theorem modBand_outbox (s : State) (k : Nat) (f : Band → Band) : (State.modBand s k f).outbox = s.outbox := rfl
@[simp] theorem modBand_nextKey (s : State) (k : Nat) (f : Band → Band) : (State.modBand s k f).nextKey = s.nextKey := rfl
@[simp] theorem modBand_inbox (s : State) (k : Nat) (f : Band → Band) : (State.modBand s k f).inbox = s.inbox := rfl
@[simp] theorem modBand_agenda (s : State) (k : Nat) (f : Band → Band) : (State.modBand s k f).agenda = s.agenda := rfl
@[simp] theorem modBand_waiting (s : State) (k : Nat) (f : Band → Band) : (State.modBand s k f).waiting = s.waiting := rfl
@[simp] theorem modBand_issue (s : State) (k : Nat) (f : Band → Band) : (State.modBand s k f).issue = s.issue := rfl
@[simp] theorem modBand_fresh (s : State) (k : Nat) (f : Band → Band) : (State.modBand s k f).fresh = s.fresh := rfl

/-! ## modTeam -/

@[simp] theorem modTeam_bands (s : State) (k : Nat) (f : Team → Team) : (State.modTeam s k f).bands = s.bands := rfl
@[simp] theorem modTeam_grids (s : State) (k : Nat) (f : Team → Team) : (State.modTeam s k f).grids = s.grids := rfl
@[simp] theorem modTeam_ctxs (s : State) (k : Nat) (f : Team → Team) : (State.modTeam s k f).ctxs = s.ctxs := rfl
@[simp] theorem modTeam_ops (s : State) (k : Nat) (f : Team → Team) : (State.modTeam s k f).ops = s.ops := rfl
@[simp] theorem modTeam_cores (s : State) (k : Nat) (f : Team → Team) : (State.modTeam s k f).cores = s.cores := rfl
@[simp] theorem modTeam_pairs (s : State) (k : Nat) (f : Team → Team) : (State.modTeam s k f).pairs = s.pairs := rfl
@[simp] theorem modTeam_dies (s : State) (k : Nat) (f : Team → Team) : (State.modTeam s k f).dies = s.dies := rfl
@[simp] theorem modTeam_units (s : State) (k : Nat) (f : Team → Team) : (State.modTeam s k f).units = s.units := rfl
@[simp] theorem modTeam_crossings (s : State) (k : Nat) (f : Team → Team) : (State.modTeam s k f).crossings = s.crossings := rfl
@[simp] theorem modTeam_stations (s : State) (k : Nat) (f : Team → Team) : (State.modTeam s k f).stations = s.stations := rfl
@[simp] theorem modTeam_dram (s : State) (k : Nat) (f : Team → Team) : (State.modTeam s k f).dram = s.dram := rfl
@[simp] theorem modTeam_dramPoison (s : State) (k : Nat) (f : Team → Team) : (State.modTeam s k f).dramPoison = s.dramPoison := rfl
@[simp] theorem modTeam_dramFlips (s : State) (k : Nat) (f : Team → Team) : (State.modTeam s k f).dramFlips = s.dramFlips := rfl
@[simp] theorem modTeam_sram (s : State) (k : Nat) (f : Team → Team) : (State.modTeam s k f).sram = s.sram := rfl
@[simp] theorem modTeam_sramPoison (s : State) (k : Nat) (f : Team → Team) : (State.modTeam s k f).sramPoison = s.sramPoison := rfl
@[simp] theorem modTeam_sramFlips (s : State) (k : Nat) (f : Team → Team) : (State.modTeam s k f).sramFlips = s.sramFlips := rfl
@[simp] theorem modTeam_hubSram (s : State) (k : Nat) (f : Team → Team) : (State.modTeam s k f).hubSram = s.hubSram := rfl
@[simp] theorem modTeam_msgs (s : State) (k : Nat) (f : Team → Team) : (State.modTeam s k f).msgs = s.msgs := rfl
@[simp] theorem modTeam_hub (s : State) (k : Nat) (f : Team → Team) : (State.modTeam s k f).hub = s.hub := rfl
@[simp] theorem modTeam_fw (s : State) (k : Nat) (f : Team → Team) : (State.modTeam s k f).fw = s.fw := rfl
@[simp] theorem modTeam_saved (s : State) (k : Nat) (f : Team → Team) : (State.modTeam s k f).saved = s.saved := rfl
@[simp] theorem modTeam_outbox (s : State) (k : Nat) (f : Team → Team) : (State.modTeam s k f).outbox = s.outbox := rfl
@[simp] theorem modTeam_nextKey (s : State) (k : Nat) (f : Team → Team) : (State.modTeam s k f).nextKey = s.nextKey := rfl
@[simp] theorem modTeam_inbox (s : State) (k : Nat) (f : Team → Team) : (State.modTeam s k f).inbox = s.inbox := rfl
@[simp] theorem modTeam_agenda (s : State) (k : Nat) (f : Team → Team) : (State.modTeam s k f).agenda = s.agenda := rfl
@[simp] theorem modTeam_waiting (s : State) (k : Nat) (f : Team → Team) : (State.modTeam s k f).waiting = s.waiting := rfl
@[simp] theorem modTeam_issue (s : State) (k : Nat) (f : Team → Team) : (State.modTeam s k f).issue = s.issue := rfl
@[simp] theorem modTeam_fresh (s : State) (k : Nat) (f : Team → Team) : (State.modTeam s k f).fresh = s.fresh := rfl

/-! ## modGrid -/

@[simp] theorem modGrid_bands (s : State) (k : Nat) (f : Grid → Grid) : (State.modGrid s k f).bands = s.bands := rfl
@[simp] theorem modGrid_teams (s : State) (k : Nat) (f : Grid → Grid) : (State.modGrid s k f).teams = s.teams := rfl
@[simp] theorem modGrid_ctxs (s : State) (k : Nat) (f : Grid → Grid) : (State.modGrid s k f).ctxs = s.ctxs := rfl
@[simp] theorem modGrid_ops (s : State) (k : Nat) (f : Grid → Grid) : (State.modGrid s k f).ops = s.ops := rfl
@[simp] theorem modGrid_cores (s : State) (k : Nat) (f : Grid → Grid) : (State.modGrid s k f).cores = s.cores := rfl
@[simp] theorem modGrid_pairs (s : State) (k : Nat) (f : Grid → Grid) : (State.modGrid s k f).pairs = s.pairs := rfl
@[simp] theorem modGrid_dies (s : State) (k : Nat) (f : Grid → Grid) : (State.modGrid s k f).dies = s.dies := rfl
@[simp] theorem modGrid_units (s : State) (k : Nat) (f : Grid → Grid) : (State.modGrid s k f).units = s.units := rfl
@[simp] theorem modGrid_crossings (s : State) (k : Nat) (f : Grid → Grid) : (State.modGrid s k f).crossings = s.crossings := rfl
@[simp] theorem modGrid_stations (s : State) (k : Nat) (f : Grid → Grid) : (State.modGrid s k f).stations = s.stations := rfl
@[simp] theorem modGrid_dram (s : State) (k : Nat) (f : Grid → Grid) : (State.modGrid s k f).dram = s.dram := rfl
@[simp] theorem modGrid_dramPoison (s : State) (k : Nat) (f : Grid → Grid) : (State.modGrid s k f).dramPoison = s.dramPoison := rfl
@[simp] theorem modGrid_dramFlips (s : State) (k : Nat) (f : Grid → Grid) : (State.modGrid s k f).dramFlips = s.dramFlips := rfl
@[simp] theorem modGrid_sram (s : State) (k : Nat) (f : Grid → Grid) : (State.modGrid s k f).sram = s.sram := rfl
@[simp] theorem modGrid_sramPoison (s : State) (k : Nat) (f : Grid → Grid) : (State.modGrid s k f).sramPoison = s.sramPoison := rfl
@[simp] theorem modGrid_sramFlips (s : State) (k : Nat) (f : Grid → Grid) : (State.modGrid s k f).sramFlips = s.sramFlips := rfl
@[simp] theorem modGrid_hubSram (s : State) (k : Nat) (f : Grid → Grid) : (State.modGrid s k f).hubSram = s.hubSram := rfl
@[simp] theorem modGrid_msgs (s : State) (k : Nat) (f : Grid → Grid) : (State.modGrid s k f).msgs = s.msgs := rfl
@[simp] theorem modGrid_hub (s : State) (k : Nat) (f : Grid → Grid) : (State.modGrid s k f).hub = s.hub := rfl
@[simp] theorem modGrid_fw (s : State) (k : Nat) (f : Grid → Grid) : (State.modGrid s k f).fw = s.fw := rfl
@[simp] theorem modGrid_saved (s : State) (k : Nat) (f : Grid → Grid) : (State.modGrid s k f).saved = s.saved := rfl
@[simp] theorem modGrid_outbox (s : State) (k : Nat) (f : Grid → Grid) : (State.modGrid s k f).outbox = s.outbox := rfl
@[simp] theorem modGrid_nextKey (s : State) (k : Nat) (f : Grid → Grid) : (State.modGrid s k f).nextKey = s.nextKey := rfl
@[simp] theorem modGrid_inbox (s : State) (k : Nat) (f : Grid → Grid) : (State.modGrid s k f).inbox = s.inbox := rfl
@[simp] theorem modGrid_agenda (s : State) (k : Nat) (f : Grid → Grid) : (State.modGrid s k f).agenda = s.agenda := rfl
@[simp] theorem modGrid_waiting (s : State) (k : Nat) (f : Grid → Grid) : (State.modGrid s k f).waiting = s.waiting := rfl
@[simp] theorem modGrid_issue (s : State) (k : Nat) (f : Grid → Grid) : (State.modGrid s k f).issue = s.issue := rfl
@[simp] theorem modGrid_fresh (s : State) (k : Nat) (f : Grid → Grid) : (State.modGrid s k f).fresh = s.fresh := rfl

/-! ## modOp -/

@[simp] theorem modOp_bands (s : State) (k : Nat) (f : Op → Op) : (State.modOp s k f).bands = s.bands := rfl
@[simp] theorem modOp_teams (s : State) (k : Nat) (f : Op → Op) : (State.modOp s k f).teams = s.teams := rfl
@[simp] theorem modOp_grids (s : State) (k : Nat) (f : Op → Op) : (State.modOp s k f).grids = s.grids := rfl
@[simp] theorem modOp_ctxs (s : State) (k : Nat) (f : Op → Op) : (State.modOp s k f).ctxs = s.ctxs := rfl
@[simp] theorem modOp_cores (s : State) (k : Nat) (f : Op → Op) : (State.modOp s k f).cores = s.cores := rfl
@[simp] theorem modOp_pairs (s : State) (k : Nat) (f : Op → Op) : (State.modOp s k f).pairs = s.pairs := rfl
@[simp] theorem modOp_dies (s : State) (k : Nat) (f : Op → Op) : (State.modOp s k f).dies = s.dies := rfl
@[simp] theorem modOp_units (s : State) (k : Nat) (f : Op → Op) : (State.modOp s k f).units = s.units := rfl
@[simp] theorem modOp_crossings (s : State) (k : Nat) (f : Op → Op) : (State.modOp s k f).crossings = s.crossings := rfl
@[simp] theorem modOp_stations (s : State) (k : Nat) (f : Op → Op) : (State.modOp s k f).stations = s.stations := rfl
@[simp] theorem modOp_dram (s : State) (k : Nat) (f : Op → Op) : (State.modOp s k f).dram = s.dram := rfl
@[simp] theorem modOp_dramPoison (s : State) (k : Nat) (f : Op → Op) : (State.modOp s k f).dramPoison = s.dramPoison := rfl
@[simp] theorem modOp_dramFlips (s : State) (k : Nat) (f : Op → Op) : (State.modOp s k f).dramFlips = s.dramFlips := rfl
@[simp] theorem modOp_sram (s : State) (k : Nat) (f : Op → Op) : (State.modOp s k f).sram = s.sram := rfl
@[simp] theorem modOp_sramPoison (s : State) (k : Nat) (f : Op → Op) : (State.modOp s k f).sramPoison = s.sramPoison := rfl
@[simp] theorem modOp_sramFlips (s : State) (k : Nat) (f : Op → Op) : (State.modOp s k f).sramFlips = s.sramFlips := rfl
@[simp] theorem modOp_hubSram (s : State) (k : Nat) (f : Op → Op) : (State.modOp s k f).hubSram = s.hubSram := rfl
@[simp] theorem modOp_msgs (s : State) (k : Nat) (f : Op → Op) : (State.modOp s k f).msgs = s.msgs := rfl
@[simp] theorem modOp_hub (s : State) (k : Nat) (f : Op → Op) : (State.modOp s k f).hub = s.hub := rfl
@[simp] theorem modOp_fw (s : State) (k : Nat) (f : Op → Op) : (State.modOp s k f).fw = s.fw := rfl
@[simp] theorem modOp_saved (s : State) (k : Nat) (f : Op → Op) : (State.modOp s k f).saved = s.saved := rfl
@[simp] theorem modOp_outbox (s : State) (k : Nat) (f : Op → Op) : (State.modOp s k f).outbox = s.outbox := rfl
@[simp] theorem modOp_nextKey (s : State) (k : Nat) (f : Op → Op) : (State.modOp s k f).nextKey = s.nextKey := rfl
@[simp] theorem modOp_inbox (s : State) (k : Nat) (f : Op → Op) : (State.modOp s k f).inbox = s.inbox := rfl
@[simp] theorem modOp_agenda (s : State) (k : Nat) (f : Op → Op) : (State.modOp s k f).agenda = s.agenda := rfl
@[simp] theorem modOp_waiting (s : State) (k : Nat) (f : Op → Op) : (State.modOp s k f).waiting = s.waiting := rfl
@[simp] theorem modOp_issue (s : State) (k : Nat) (f : Op → Op) : (State.modOp s k f).issue = s.issue := rfl
@[simp] theorem modOp_fresh (s : State) (k : Nat) (f : Op → Op) : (State.modOp s k f).fresh = s.fresh := rfl

/-! ## modHub -/

@[simp] theorem modHub_bands (s : State) (f : Hub → Hub) : (State.modHub s f).bands = s.bands := rfl
@[simp] theorem modHub_teams (s : State) (f : Hub → Hub) : (State.modHub s f).teams = s.teams := rfl
@[simp] theorem modHub_grids (s : State) (f : Hub → Hub) : (State.modHub s f).grids = s.grids := rfl
@[simp] theorem modHub_ctxs (s : State) (f : Hub → Hub) : (State.modHub s f).ctxs = s.ctxs := rfl
@[simp] theorem modHub_ops (s : State) (f : Hub → Hub) : (State.modHub s f).ops = s.ops := rfl
@[simp] theorem modHub_cores (s : State) (f : Hub → Hub) : (State.modHub s f).cores = s.cores := rfl
@[simp] theorem modHub_pairs (s : State) (f : Hub → Hub) : (State.modHub s f).pairs = s.pairs := rfl
@[simp] theorem modHub_dies (s : State) (f : Hub → Hub) : (State.modHub s f).dies = s.dies := rfl
@[simp] theorem modHub_units (s : State) (f : Hub → Hub) : (State.modHub s f).units = s.units := rfl
@[simp] theorem modHub_crossings (s : State) (f : Hub → Hub) : (State.modHub s f).crossings = s.crossings := rfl
@[simp] theorem modHub_stations (s : State) (f : Hub → Hub) : (State.modHub s f).stations = s.stations := rfl
@[simp] theorem modHub_dram (s : State) (f : Hub → Hub) : (State.modHub s f).dram = s.dram := rfl
@[simp] theorem modHub_dramPoison (s : State) (f : Hub → Hub) : (State.modHub s f).dramPoison = s.dramPoison := rfl
@[simp] theorem modHub_dramFlips (s : State) (f : Hub → Hub) : (State.modHub s f).dramFlips = s.dramFlips := rfl
@[simp] theorem modHub_sram (s : State) (f : Hub → Hub) : (State.modHub s f).sram = s.sram := rfl
@[simp] theorem modHub_sramPoison (s : State) (f : Hub → Hub) : (State.modHub s f).sramPoison = s.sramPoison := rfl
@[simp] theorem modHub_sramFlips (s : State) (f : Hub → Hub) : (State.modHub s f).sramFlips = s.sramFlips := rfl
@[simp] theorem modHub_hubSram (s : State) (f : Hub → Hub) : (State.modHub s f).hubSram = s.hubSram := rfl
@[simp] theorem modHub_msgs (s : State) (f : Hub → Hub) : (State.modHub s f).msgs = s.msgs := rfl
@[simp] theorem modHub_fw (s : State) (f : Hub → Hub) : (State.modHub s f).fw = s.fw := rfl
@[simp] theorem modHub_saved (s : State) (f : Hub → Hub) : (State.modHub s f).saved = s.saved := rfl
@[simp] theorem modHub_outbox (s : State) (f : Hub → Hub) : (State.modHub s f).outbox = s.outbox := rfl
@[simp] theorem modHub_nextKey (s : State) (f : Hub → Hub) : (State.modHub s f).nextKey = s.nextKey := rfl
@[simp] theorem modHub_inbox (s : State) (f : Hub → Hub) : (State.modHub s f).inbox = s.inbox := rfl
@[simp] theorem modHub_agenda (s : State) (f : Hub → Hub) : (State.modHub s f).agenda = s.agenda := rfl
@[simp] theorem modHub_waiting (s : State) (f : Hub → Hub) : (State.modHub s f).waiting = s.waiting := rfl
@[simp] theorem modHub_issue (s : State) (f : Hub → Hub) : (State.modHub s f).issue = s.issue := rfl
@[simp] theorem modHub_fresh (s : State) (f : Hub → Hub) : (State.modHub s f).fresh = s.fresh := rfl

/-! ## modFw -/

@[simp] theorem modFw_bands (s : State) (f : Fw → Fw) : (State.modFw s f).bands = s.bands := rfl
@[simp] theorem modFw_teams (s : State) (f : Fw → Fw) : (State.modFw s f).teams = s.teams := rfl
@[simp] theorem modFw_grids (s : State) (f : Fw → Fw) : (State.modFw s f).grids = s.grids := rfl
@[simp] theorem modFw_ctxs (s : State) (f : Fw → Fw) : (State.modFw s f).ctxs = s.ctxs := rfl
@[simp] theorem modFw_ops (s : State) (f : Fw → Fw) : (State.modFw s f).ops = s.ops := rfl
@[simp] theorem modFw_cores (s : State) (f : Fw → Fw) : (State.modFw s f).cores = s.cores := rfl
@[simp] theorem modFw_pairs (s : State) (f : Fw → Fw) : (State.modFw s f).pairs = s.pairs := rfl
@[simp] theorem modFw_dies (s : State) (f : Fw → Fw) : (State.modFw s f).dies = s.dies := rfl
@[simp] theorem modFw_units (s : State) (f : Fw → Fw) : (State.modFw s f).units = s.units := rfl
@[simp] theorem modFw_crossings (s : State) (f : Fw → Fw) : (State.modFw s f).crossings = s.crossings := rfl
@[simp] theorem modFw_stations (s : State) (f : Fw → Fw) : (State.modFw s f).stations = s.stations := rfl
@[simp] theorem modFw_dram (s : State) (f : Fw → Fw) : (State.modFw s f).dram = s.dram := rfl
@[simp] theorem modFw_dramPoison (s : State) (f : Fw → Fw) : (State.modFw s f).dramPoison = s.dramPoison := rfl
@[simp] theorem modFw_dramFlips (s : State) (f : Fw → Fw) : (State.modFw s f).dramFlips = s.dramFlips := rfl
@[simp] theorem modFw_sram (s : State) (f : Fw → Fw) : (State.modFw s f).sram = s.sram := rfl
@[simp] theorem modFw_sramPoison (s : State) (f : Fw → Fw) : (State.modFw s f).sramPoison = s.sramPoison := rfl
@[simp] theorem modFw_sramFlips (s : State) (f : Fw → Fw) : (State.modFw s f).sramFlips = s.sramFlips := rfl
@[simp] theorem modFw_hubSram (s : State) (f : Fw → Fw) : (State.modFw s f).hubSram = s.hubSram := rfl
@[simp] theorem modFw_msgs (s : State) (f : Fw → Fw) : (State.modFw s f).msgs = s.msgs := rfl
@[simp] theorem modFw_hub (s : State) (f : Fw → Fw) : (State.modFw s f).hub = s.hub := rfl
@[simp] theorem modFw_saved (s : State) (f : Fw → Fw) : (State.modFw s f).saved = s.saved := rfl
@[simp] theorem modFw_outbox (s : State) (f : Fw → Fw) : (State.modFw s f).outbox = s.outbox := rfl
@[simp] theorem modFw_nextKey (s : State) (f : Fw → Fw) : (State.modFw s f).nextKey = s.nextKey := rfl
@[simp] theorem modFw_inbox (s : State) (f : Fw → Fw) : (State.modFw s f).inbox = s.inbox := rfl
@[simp] theorem modFw_agenda (s : State) (f : Fw → Fw) : (State.modFw s f).agenda = s.agenda := rfl
@[simp] theorem modFw_waiting (s : State) (f : Fw → Fw) : (State.modFw s f).waiting = s.waiting := rfl
@[simp] theorem modFw_issue (s : State) (f : Fw → Fw) : (State.modFw s f).issue = s.issue := rfl
@[simp] theorem modFw_fresh (s : State) (f : Fw → Fw) : (State.modFw s f).fresh = s.fresh := rfl

/-! ## modUnit -/

@[simp] theorem modUnit_bands (s : State) (m : Nat) (f : Unit_ → Unit_) : (State.modUnit s m f).bands = s.bands := rfl
@[simp] theorem modUnit_teams (s : State) (m : Nat) (f : Unit_ → Unit_) : (State.modUnit s m f).teams = s.teams := rfl
@[simp] theorem modUnit_grids (s : State) (m : Nat) (f : Unit_ → Unit_) : (State.modUnit s m f).grids = s.grids := rfl
@[simp] theorem modUnit_ctxs (s : State) (m : Nat) (f : Unit_ → Unit_) : (State.modUnit s m f).ctxs = s.ctxs := rfl
@[simp] theorem modUnit_ops (s : State) (m : Nat) (f : Unit_ → Unit_) : (State.modUnit s m f).ops = s.ops := rfl
@[simp] theorem modUnit_cores (s : State) (m : Nat) (f : Unit_ → Unit_) : (State.modUnit s m f).cores = s.cores := rfl
@[simp] theorem modUnit_pairs (s : State) (m : Nat) (f : Unit_ → Unit_) : (State.modUnit s m f).pairs = s.pairs := rfl
@[simp] theorem modUnit_dies (s : State) (m : Nat) (f : Unit_ → Unit_) : (State.modUnit s m f).dies = s.dies := rfl
@[simp] theorem modUnit_crossings (s : State) (m : Nat) (f : Unit_ → Unit_) : (State.modUnit s m f).crossings = s.crossings := rfl
@[simp] theorem modUnit_stations (s : State) (m : Nat) (f : Unit_ → Unit_) : (State.modUnit s m f).stations = s.stations := rfl
@[simp] theorem modUnit_dram (s : State) (m : Nat) (f : Unit_ → Unit_) : (State.modUnit s m f).dram = s.dram := rfl
@[simp] theorem modUnit_dramPoison (s : State) (m : Nat) (f : Unit_ → Unit_) : (State.modUnit s m f).dramPoison = s.dramPoison := rfl
@[simp] theorem modUnit_dramFlips (s : State) (m : Nat) (f : Unit_ → Unit_) : (State.modUnit s m f).dramFlips = s.dramFlips := rfl
@[simp] theorem modUnit_sram (s : State) (m : Nat) (f : Unit_ → Unit_) : (State.modUnit s m f).sram = s.sram := rfl
@[simp] theorem modUnit_sramPoison (s : State) (m : Nat) (f : Unit_ → Unit_) : (State.modUnit s m f).sramPoison = s.sramPoison := rfl
@[simp] theorem modUnit_sramFlips (s : State) (m : Nat) (f : Unit_ → Unit_) : (State.modUnit s m f).sramFlips = s.sramFlips := rfl
@[simp] theorem modUnit_hubSram (s : State) (m : Nat) (f : Unit_ → Unit_) : (State.modUnit s m f).hubSram = s.hubSram := rfl
@[simp] theorem modUnit_msgs (s : State) (m : Nat) (f : Unit_ → Unit_) : (State.modUnit s m f).msgs = s.msgs := rfl
@[simp] theorem modUnit_hub (s : State) (m : Nat) (f : Unit_ → Unit_) : (State.modUnit s m f).hub = s.hub := rfl
@[simp] theorem modUnit_fw (s : State) (m : Nat) (f : Unit_ → Unit_) : (State.modUnit s m f).fw = s.fw := rfl
@[simp] theorem modUnit_saved (s : State) (m : Nat) (f : Unit_ → Unit_) : (State.modUnit s m f).saved = s.saved := rfl
@[simp] theorem modUnit_outbox (s : State) (m : Nat) (f : Unit_ → Unit_) : (State.modUnit s m f).outbox = s.outbox := rfl
@[simp] theorem modUnit_nextKey (s : State) (m : Nat) (f : Unit_ → Unit_) : (State.modUnit s m f).nextKey = s.nextKey := rfl
@[simp] theorem modUnit_inbox (s : State) (m : Nat) (f : Unit_ → Unit_) : (State.modUnit s m f).inbox = s.inbox := rfl
@[simp] theorem modUnit_agenda (s : State) (m : Nat) (f : Unit_ → Unit_) : (State.modUnit s m f).agenda = s.agenda := rfl
@[simp] theorem modUnit_waiting (s : State) (m : Nat) (f : Unit_ → Unit_) : (State.modUnit s m f).waiting = s.waiting := rfl
@[simp] theorem modUnit_issue (s : State) (m : Nat) (f : Unit_ → Unit_) : (State.modUnit s m f).issue = s.issue := rfl
@[simp] theorem modUnit_fresh (s : State) (m : Nat) (f : Unit_ → Unit_) : (State.modUnit s m f).fresh = s.fresh := rfl

/-! ## modStation -/

@[simp] theorem modStation_bands (s : State) (n : Nat) (f : Station → Station) : (State.modStation s n f).bands = s.bands := rfl
@[simp] theorem modStation_teams (s : State) (n : Nat) (f : Station → Station) : (State.modStation s n f).teams = s.teams := rfl
@[simp] theorem modStation_grids (s : State) (n : Nat) (f : Station → Station) : (State.modStation s n f).grids = s.grids := rfl
@[simp] theorem modStation_ctxs (s : State) (n : Nat) (f : Station → Station) : (State.modStation s n f).ctxs = s.ctxs := rfl
@[simp] theorem modStation_ops (s : State) (n : Nat) (f : Station → Station) : (State.modStation s n f).ops = s.ops := rfl
@[simp] theorem modStation_cores (s : State) (n : Nat) (f : Station → Station) : (State.modStation s n f).cores = s.cores := rfl
@[simp] theorem modStation_pairs (s : State) (n : Nat) (f : Station → Station) : (State.modStation s n f).pairs = s.pairs := rfl
@[simp] theorem modStation_dies (s : State) (n : Nat) (f : Station → Station) : (State.modStation s n f).dies = s.dies := rfl
@[simp] theorem modStation_units (s : State) (n : Nat) (f : Station → Station) : (State.modStation s n f).units = s.units := rfl
@[simp] theorem modStation_crossings (s : State) (n : Nat) (f : Station → Station) : (State.modStation s n f).crossings = s.crossings := rfl
@[simp] theorem modStation_dram (s : State) (n : Nat) (f : Station → Station) : (State.modStation s n f).dram = s.dram := rfl
@[simp] theorem modStation_dramPoison (s : State) (n : Nat) (f : Station → Station) : (State.modStation s n f).dramPoison = s.dramPoison := rfl
@[simp] theorem modStation_dramFlips (s : State) (n : Nat) (f : Station → Station) : (State.modStation s n f).dramFlips = s.dramFlips := rfl
@[simp] theorem modStation_sram (s : State) (n : Nat) (f : Station → Station) : (State.modStation s n f).sram = s.sram := rfl
@[simp] theorem modStation_sramPoison (s : State) (n : Nat) (f : Station → Station) : (State.modStation s n f).sramPoison = s.sramPoison := rfl
@[simp] theorem modStation_sramFlips (s : State) (n : Nat) (f : Station → Station) : (State.modStation s n f).sramFlips = s.sramFlips := rfl
@[simp] theorem modStation_hubSram (s : State) (n : Nat) (f : Station → Station) : (State.modStation s n f).hubSram = s.hubSram := rfl
@[simp] theorem modStation_msgs (s : State) (n : Nat) (f : Station → Station) : (State.modStation s n f).msgs = s.msgs := rfl
@[simp] theorem modStation_hub (s : State) (n : Nat) (f : Station → Station) : (State.modStation s n f).hub = s.hub := rfl
@[simp] theorem modStation_fw (s : State) (n : Nat) (f : Station → Station) : (State.modStation s n f).fw = s.fw := rfl
@[simp] theorem modStation_saved (s : State) (n : Nat) (f : Station → Station) : (State.modStation s n f).saved = s.saved := rfl
@[simp] theorem modStation_outbox (s : State) (n : Nat) (f : Station → Station) : (State.modStation s n f).outbox = s.outbox := rfl
@[simp] theorem modStation_nextKey (s : State) (n : Nat) (f : Station → Station) : (State.modStation s n f).nextKey = s.nextKey := rfl
@[simp] theorem modStation_inbox (s : State) (n : Nat) (f : Station → Station) : (State.modStation s n f).inbox = s.inbox := rfl
@[simp] theorem modStation_agenda (s : State) (n : Nat) (f : Station → Station) : (State.modStation s n f).agenda = s.agenda := rfl
@[simp] theorem modStation_waiting (s : State) (n : Nat) (f : Station → Station) : (State.modStation s n f).waiting = s.waiting := rfl
@[simp] theorem modStation_issue (s : State) (n : Nat) (f : Station → Station) : (State.modStation s n f).issue = s.issue := rfl
@[simp] theorem modStation_fresh (s : State) (n : Nat) (f : Station → Station) : (State.modStation s n f).fresh = s.fresh := rfl

/-! ## send -/

@[simp] theorem send_bands (s : State) (o : Out) : (State.send s o).bands = s.bands := rfl
@[simp] theorem send_teams (s : State) (o : Out) : (State.send s o).teams = s.teams := rfl
@[simp] theorem send_grids (s : State) (o : Out) : (State.send s o).grids = s.grids := rfl
@[simp] theorem send_ctxs (s : State) (o : Out) : (State.send s o).ctxs = s.ctxs := rfl
@[simp] theorem send_ops (s : State) (o : Out) : (State.send s o).ops = s.ops := rfl
@[simp] theorem send_cores (s : State) (o : Out) : (State.send s o).cores = s.cores := rfl
@[simp] theorem send_pairs (s : State) (o : Out) : (State.send s o).pairs = s.pairs := rfl
@[simp] theorem send_dies (s : State) (o : Out) : (State.send s o).dies = s.dies := rfl
@[simp] theorem send_units (s : State) (o : Out) : (State.send s o).units = s.units := rfl
@[simp] theorem send_crossings (s : State) (o : Out) : (State.send s o).crossings = s.crossings := rfl
@[simp] theorem send_stations (s : State) (o : Out) : (State.send s o).stations = s.stations := rfl
@[simp] theorem send_dram (s : State) (o : Out) : (State.send s o).dram = s.dram := rfl
@[simp] theorem send_dramPoison (s : State) (o : Out) : (State.send s o).dramPoison = s.dramPoison := rfl
@[simp] theorem send_dramFlips (s : State) (o : Out) : (State.send s o).dramFlips = s.dramFlips := rfl
@[simp] theorem send_sram (s : State) (o : Out) : (State.send s o).sram = s.sram := rfl
@[simp] theorem send_sramPoison (s : State) (o : Out) : (State.send s o).sramPoison = s.sramPoison := rfl
@[simp] theorem send_sramFlips (s : State) (o : Out) : (State.send s o).sramFlips = s.sramFlips := rfl
@[simp] theorem send_hubSram (s : State) (o : Out) : (State.send s o).hubSram = s.hubSram := rfl
@[simp] theorem send_msgs (s : State) (o : Out) : (State.send s o).msgs = s.msgs := rfl
@[simp] theorem send_hub (s : State) (o : Out) : (State.send s o).hub = s.hub := rfl
@[simp] theorem send_fw (s : State) (o : Out) : (State.send s o).fw = s.fw := rfl
@[simp] theorem send_saved (s : State) (o : Out) : (State.send s o).saved = s.saved := rfl
@[simp] theorem send_nextKey (s : State) (o : Out) : (State.send s o).nextKey = s.nextKey := rfl
@[simp] theorem send_inbox (s : State) (o : Out) : (State.send s o).inbox = s.inbox := rfl
@[simp] theorem send_agenda (s : State) (o : Out) : (State.send s o).agenda = s.agenda := rfl
@[simp] theorem send_waiting (s : State) (o : Out) : (State.send s o).waiting = s.waiting := rfl
@[simp] theorem send_issue (s : State) (o : Out) : (State.send s o).issue = s.issue := rfl
@[simp] theorem send_fresh (s : State) (o : Out) : (State.send s o).fresh = s.fresh := rfl

/-! ## modMx -/

@[simp] theorem modMx_bands (s : State) (c u : Nat) (f : Mx → Mx) : (State.modMx s c u f).bands = s.bands := rfl
@[simp] theorem modMx_teams (s : State) (c u : Nat) (f : Mx → Mx) : (State.modMx s c u f).teams = s.teams := rfl
@[simp] theorem modMx_grids (s : State) (c u : Nat) (f : Mx → Mx) : (State.modMx s c u f).grids = s.grids := rfl
@[simp] theorem modMx_ctxs (s : State) (c u : Nat) (f : Mx → Mx) : (State.modMx s c u f).ctxs = s.ctxs := rfl
@[simp] theorem modMx_ops (s : State) (c u : Nat) (f : Mx → Mx) : (State.modMx s c u f).ops = s.ops := rfl
@[simp] theorem modMx_pairs (s : State) (c u : Nat) (f : Mx → Mx) : (State.modMx s c u f).pairs = s.pairs := rfl
@[simp] theorem modMx_dies (s : State) (c u : Nat) (f : Mx → Mx) : (State.modMx s c u f).dies = s.dies := rfl
@[simp] theorem modMx_units (s : State) (c u : Nat) (f : Mx → Mx) : (State.modMx s c u f).units = s.units := rfl
@[simp] theorem modMx_crossings (s : State) (c u : Nat) (f : Mx → Mx) : (State.modMx s c u f).crossings = s.crossings := rfl
@[simp] theorem modMx_stations (s : State) (c u : Nat) (f : Mx → Mx) : (State.modMx s c u f).stations = s.stations := rfl
@[simp] theorem modMx_dram (s : State) (c u : Nat) (f : Mx → Mx) : (State.modMx s c u f).dram = s.dram := rfl
@[simp] theorem modMx_dramPoison (s : State) (c u : Nat) (f : Mx → Mx) : (State.modMx s c u f).dramPoison = s.dramPoison := rfl
@[simp] theorem modMx_dramFlips (s : State) (c u : Nat) (f : Mx → Mx) : (State.modMx s c u f).dramFlips = s.dramFlips := rfl
@[simp] theorem modMx_sram (s : State) (c u : Nat) (f : Mx → Mx) : (State.modMx s c u f).sram = s.sram := rfl
@[simp] theorem modMx_sramPoison (s : State) (c u : Nat) (f : Mx → Mx) : (State.modMx s c u f).sramPoison = s.sramPoison := rfl
@[simp] theorem modMx_sramFlips (s : State) (c u : Nat) (f : Mx → Mx) : (State.modMx s c u f).sramFlips = s.sramFlips := rfl
@[simp] theorem modMx_hubSram (s : State) (c u : Nat) (f : Mx → Mx) : (State.modMx s c u f).hubSram = s.hubSram := rfl
@[simp] theorem modMx_msgs (s : State) (c u : Nat) (f : Mx → Mx) : (State.modMx s c u f).msgs = s.msgs := rfl
@[simp] theorem modMx_hub (s : State) (c u : Nat) (f : Mx → Mx) : (State.modMx s c u f).hub = s.hub := rfl
@[simp] theorem modMx_fw (s : State) (c u : Nat) (f : Mx → Mx) : (State.modMx s c u f).fw = s.fw := rfl
@[simp] theorem modMx_saved (s : State) (c u : Nat) (f : Mx → Mx) : (State.modMx s c u f).saved = s.saved := rfl
@[simp] theorem modMx_outbox (s : State) (c u : Nat) (f : Mx → Mx) : (State.modMx s c u f).outbox = s.outbox := rfl
@[simp] theorem modMx_nextKey (s : State) (c u : Nat) (f : Mx → Mx) : (State.modMx s c u f).nextKey = s.nextKey := rfl
@[simp] theorem modMx_inbox (s : State) (c u : Nat) (f : Mx → Mx) : (State.modMx s c u f).inbox = s.inbox := rfl
@[simp] theorem modMx_agenda (s : State) (c u : Nat) (f : Mx → Mx) : (State.modMx s c u f).agenda = s.agenda := rfl
@[simp] theorem modMx_waiting (s : State) (c u : Nat) (f : Mx → Mx) : (State.modMx s c u f).waiting = s.waiting := rfl
@[simp] theorem modMx_issue (s : State) (c u : Nat) (f : Mx → Mx) : (State.modMx s c u f).issue = s.issue := rfl
@[simp] theorem modMx_fresh (s : State) (c u : Nat) (f : Mx → Mx) : (State.modMx s c u f).fresh = s.fresh := rfl

/-! ## modAccum -/

@[simp] theorem modAccum_bands (s : State) (c n : Nat) (f : Accum → Accum) : (State.modAccum s c n f).bands = s.bands := rfl
@[simp] theorem modAccum_teams (s : State) (c n : Nat) (f : Accum → Accum) : (State.modAccum s c n f).teams = s.teams := rfl
@[simp] theorem modAccum_grids (s : State) (c n : Nat) (f : Accum → Accum) : (State.modAccum s c n f).grids = s.grids := rfl
@[simp] theorem modAccum_ctxs (s : State) (c n : Nat) (f : Accum → Accum) : (State.modAccum s c n f).ctxs = s.ctxs := rfl
@[simp] theorem modAccum_ops (s : State) (c n : Nat) (f : Accum → Accum) : (State.modAccum s c n f).ops = s.ops := rfl
@[simp] theorem modAccum_pairs (s : State) (c n : Nat) (f : Accum → Accum) : (State.modAccum s c n f).pairs = s.pairs := rfl
@[simp] theorem modAccum_dies (s : State) (c n : Nat) (f : Accum → Accum) : (State.modAccum s c n f).dies = s.dies := rfl
@[simp] theorem modAccum_units (s : State) (c n : Nat) (f : Accum → Accum) : (State.modAccum s c n f).units = s.units := rfl
@[simp] theorem modAccum_crossings (s : State) (c n : Nat) (f : Accum → Accum) : (State.modAccum s c n f).crossings = s.crossings := rfl
@[simp] theorem modAccum_stations (s : State) (c n : Nat) (f : Accum → Accum) : (State.modAccum s c n f).stations = s.stations := rfl
@[simp] theorem modAccum_dram (s : State) (c n : Nat) (f : Accum → Accum) : (State.modAccum s c n f).dram = s.dram := rfl
@[simp] theorem modAccum_dramPoison (s : State) (c n : Nat) (f : Accum → Accum) : (State.modAccum s c n f).dramPoison = s.dramPoison := rfl
@[simp] theorem modAccum_dramFlips (s : State) (c n : Nat) (f : Accum → Accum) : (State.modAccum s c n f).dramFlips = s.dramFlips := rfl
@[simp] theorem modAccum_sram (s : State) (c n : Nat) (f : Accum → Accum) : (State.modAccum s c n f).sram = s.sram := rfl
@[simp] theorem modAccum_sramPoison (s : State) (c n : Nat) (f : Accum → Accum) : (State.modAccum s c n f).sramPoison = s.sramPoison := rfl
@[simp] theorem modAccum_sramFlips (s : State) (c n : Nat) (f : Accum → Accum) : (State.modAccum s c n f).sramFlips = s.sramFlips := rfl
@[simp] theorem modAccum_hubSram (s : State) (c n : Nat) (f : Accum → Accum) : (State.modAccum s c n f).hubSram = s.hubSram := rfl
@[simp] theorem modAccum_msgs (s : State) (c n : Nat) (f : Accum → Accum) : (State.modAccum s c n f).msgs = s.msgs := rfl
@[simp] theorem modAccum_hub (s : State) (c n : Nat) (f : Accum → Accum) : (State.modAccum s c n f).hub = s.hub := rfl
@[simp] theorem modAccum_fw (s : State) (c n : Nat) (f : Accum → Accum) : (State.modAccum s c n f).fw = s.fw := rfl
@[simp] theorem modAccum_saved (s : State) (c n : Nat) (f : Accum → Accum) : (State.modAccum s c n f).saved = s.saved := rfl
@[simp] theorem modAccum_outbox (s : State) (c n : Nat) (f : Accum → Accum) : (State.modAccum s c n f).outbox = s.outbox := rfl
@[simp] theorem modAccum_nextKey (s : State) (c n : Nat) (f : Accum → Accum) : (State.modAccum s c n f).nextKey = s.nextKey := rfl
@[simp] theorem modAccum_inbox (s : State) (c n : Nat) (f : Accum → Accum) : (State.modAccum s c n f).inbox = s.inbox := rfl
@[simp] theorem modAccum_agenda (s : State) (c n : Nat) (f : Accum → Accum) : (State.modAccum s c n f).agenda = s.agenda := rfl
@[simp] theorem modAccum_waiting (s : State) (c n : Nat) (f : Accum → Accum) : (State.modAccum s c n f).waiting = s.waiting := rfl
@[simp] theorem modAccum_issue (s : State) (c n : Nat) (f : Accum → Accum) : (State.modAccum s c n f).issue = s.issue := rfl
@[simp] theorem modAccum_fresh (s : State) (c n : Nat) (f : Accum → Accum) : (State.modAccum s c n f).fresh = s.fresh := rfl

/-! ## modEk -/

@[simp] theorem modEk_bands (s : State) (d n : Nat) (f : EkCmd → EkCmd) : (State.modEk s d n f).bands = s.bands := rfl
@[simp] theorem modEk_teams (s : State) (d n : Nat) (f : EkCmd → EkCmd) : (State.modEk s d n f).teams = s.teams := rfl
@[simp] theorem modEk_grids (s : State) (d n : Nat) (f : EkCmd → EkCmd) : (State.modEk s d n f).grids = s.grids := rfl
@[simp] theorem modEk_ctxs (s : State) (d n : Nat) (f : EkCmd → EkCmd) : (State.modEk s d n f).ctxs = s.ctxs := rfl
@[simp] theorem modEk_ops (s : State) (d n : Nat) (f : EkCmd → EkCmd) : (State.modEk s d n f).ops = s.ops := rfl
@[simp] theorem modEk_cores (s : State) (d n : Nat) (f : EkCmd → EkCmd) : (State.modEk s d n f).cores = s.cores := rfl
@[simp] theorem modEk_pairs (s : State) (d n : Nat) (f : EkCmd → EkCmd) : (State.modEk s d n f).pairs = s.pairs := rfl
@[simp] theorem modEk_units (s : State) (d n : Nat) (f : EkCmd → EkCmd) : (State.modEk s d n f).units = s.units := rfl
@[simp] theorem modEk_crossings (s : State) (d n : Nat) (f : EkCmd → EkCmd) : (State.modEk s d n f).crossings = s.crossings := rfl
@[simp] theorem modEk_stations (s : State) (d n : Nat) (f : EkCmd → EkCmd) : (State.modEk s d n f).stations = s.stations := rfl
@[simp] theorem modEk_dram (s : State) (d n : Nat) (f : EkCmd → EkCmd) : (State.modEk s d n f).dram = s.dram := rfl
@[simp] theorem modEk_dramPoison (s : State) (d n : Nat) (f : EkCmd → EkCmd) : (State.modEk s d n f).dramPoison = s.dramPoison := rfl
@[simp] theorem modEk_dramFlips (s : State) (d n : Nat) (f : EkCmd → EkCmd) : (State.modEk s d n f).dramFlips = s.dramFlips := rfl
@[simp] theorem modEk_sram (s : State) (d n : Nat) (f : EkCmd → EkCmd) : (State.modEk s d n f).sram = s.sram := rfl
@[simp] theorem modEk_sramPoison (s : State) (d n : Nat) (f : EkCmd → EkCmd) : (State.modEk s d n f).sramPoison = s.sramPoison := rfl
@[simp] theorem modEk_sramFlips (s : State) (d n : Nat) (f : EkCmd → EkCmd) : (State.modEk s d n f).sramFlips = s.sramFlips := rfl
@[simp] theorem modEk_hubSram (s : State) (d n : Nat) (f : EkCmd → EkCmd) : (State.modEk s d n f).hubSram = s.hubSram := rfl
@[simp] theorem modEk_msgs (s : State) (d n : Nat) (f : EkCmd → EkCmd) : (State.modEk s d n f).msgs = s.msgs := rfl
@[simp] theorem modEk_hub (s : State) (d n : Nat) (f : EkCmd → EkCmd) : (State.modEk s d n f).hub = s.hub := rfl
@[simp] theorem modEk_fw (s : State) (d n : Nat) (f : EkCmd → EkCmd) : (State.modEk s d n f).fw = s.fw := rfl
@[simp] theorem modEk_saved (s : State) (d n : Nat) (f : EkCmd → EkCmd) : (State.modEk s d n f).saved = s.saved := rfl
@[simp] theorem modEk_outbox (s : State) (d n : Nat) (f : EkCmd → EkCmd) : (State.modEk s d n f).outbox = s.outbox := rfl
@[simp] theorem modEk_nextKey (s : State) (d n : Nat) (f : EkCmd → EkCmd) : (State.modEk s d n f).nextKey = s.nextKey := rfl
@[simp] theorem modEk_inbox (s : State) (d n : Nat) (f : EkCmd → EkCmd) : (State.modEk s d n f).inbox = s.inbox := rfl
@[simp] theorem modEk_agenda (s : State) (d n : Nat) (f : EkCmd → EkCmd) : (State.modEk s d n f).agenda = s.agenda := rfl
@[simp] theorem modEk_waiting (s : State) (d n : Nat) (f : EkCmd → EkCmd) : (State.modEk s d n f).waiting = s.waiting := rfl
@[simp] theorem modEk_issue (s : State) (d n : Nat) (f : EkCmd → EkCmd) : (State.modEk s d n f).issue = s.issue := rfl
@[simp] theorem modEk_fresh (s : State) (d n : Nat) (f : EkCmd → EkCmd) : (State.modEk s d n f).fresh = s.fresh := rfl

/-! ## Reading back -/

@[simp] theorem modHub_hub (s : State) (f : Hub → Hub) : (State.modHub s f).hub = f s.hub := rfl
@[simp] theorem modFw_fw (s : State) (f : Fw → Fw) : (State.modFw s f).fw = f s.fw := rfl
@[simp] theorem send_outbox (s : State) (o : Out) : (State.send s o).outbox = s.outbox ++ [o] := rfl

@[simp] theorem core_setCore (s : State) (c : Nat) (x : Core) : State.core (State.setCore s c x) c = x := by
  simp [State.core, State.setCore]
@[simp] theorem core_modCore (s : State) (c : Nat) (f : Core → Core) : State.core (State.modCore s c f) c = f (State.core s c) := by
  simp [State.modCore]
theorem core_setCore_ne (s : State) {c d : Nat} (x : Core) (h : d ≠ c) : State.core (State.setCore s c x) d = State.core s d := by
  simp [State.core, State.setCore, Table.get_set_ne _ _ _ h]
theorem core_modCore_ne (s : State) {c d : Nat} (f : Core → Core) (h : d ≠ c) :
    State.core (State.modCore s c f) d = State.core s d := by simp [State.modCore, core_setCore_ne s _ h]

@[simp] theorem die_setDie (s : State) (d : Nat) (x : Die) : State.die (State.setDie s d x) d = x := by
  simp [State.die, State.setDie]
@[simp] theorem die_modDie (s : State) (d : Nat) (f : Die → Die) : State.die (State.modDie s d f) d = f (State.die s d) := by
  simp [State.modDie]
theorem die_setDie_ne (s : State) {c d : Nat} (x : Die) (h : d ≠ c) : State.die (State.setDie s c x) d = State.die s d := by
  simp [State.die, State.setDie, Table.get_set_ne _ _ _ h]
theorem die_modDie_ne (s : State) {c d : Nat} (f : Die → Die) (h : d ≠ c) : State.die (State.modDie s c f) d = State.die s d := by
  simp [State.modDie, die_setDie_ne s _ h]

@[simp] theorem pair_modPair (s : State) (p : Nat) (f : Pair → Pair) : State.pair (State.modPair s p f) p = f (State.pair s p) := by
  simp [State.pair, State.modPair]
@[simp] theorem station_modStation (s : State) (n : Nat) (f : Station → Station) :
    State.station (State.modStation s n f) n = f (State.station s n) := by
  simp [State.station, State.modStation]

theorem find_modBand {s : State} {k : Nat} {b : Band} (f : Band → Band) (h : Table.find k s.bands = some b) :
    Table.find k (State.modBand s k f).bands = some (f b) := by simp [State.modBand, Table.find_alter h]
theorem find_modBand_ne (s : State) {k j : Nat} (f : Band → Band) (h : j ≠ k) :
    Table.find j (State.modBand s k f).bands = Table.find j s.bands := by simp [State.modBand, Table.find_alter_ne _ _ h]
theorem find_modTeam {s : State} {k : Nat} {t : Team} (f : Team → Team) (h : Table.find k s.teams = some t) :
    Table.find k (State.modTeam s k f).teams = some (f t) := by simp [State.modTeam, Table.find_alter h]
theorem find_modGrid {s : State} {k : Nat} {g : Grid} (f : Grid → Grid) (h : Table.find k s.grids = some g) :
    Table.find k (State.modGrid s k f).grids = some (f g) := by simp [State.modGrid, Table.find_alter h]
theorem find_modOp {s : State} {k : Nat} {o : Op} (f : Op → Op) (h : Table.find k s.ops = some o) :
    Table.find k (State.modOp s k f).ops = some (f o) := by simp [State.modOp, Table.find_alter h]
theorem find_modCtx {s : State} {n : Nat} {c : Ctx} (f : Ctx → Ctx) (h : Table.find n s.ctxs = some c) :
    Table.find n (State.modCtx s n f).ctxs = some (f c) := by simp [State.modCtx, Table.find_alter h]

/-- Updates of one band compose. -/
theorem modBand_modBand (s : State) (k : Nat) (f g : Band → Band) :
    State.modBand (State.modBand s k f) k g = State.modBand s k fun b => g (f b) := by
  simp [State.modBand, Table.alter_alter]

end Sys2Proof.Machine
end

