-- ==== Sys2Proof/Laws/Band.lean ====
section
/-!
SUPPORT. Laws of lanes and bands: reading back a register or a condition bit, changing the lanes of a list, the move of
lanes to the next instruction (R348), and what the end of an issue leaves alone.
-/
namespace Sys2Proof.Machine

/-! ## One lane -/

@[simp] theorem Lane.reg_setReg (y : Lane) (r : Nat) (v : Word) : Lane.reg (Lane.setReg y r v) r = v := by
  simp [Lane.reg, Lane.setReg]

theorem Lane.reg_setReg_ne (y : Lane) {r q : Nat} (v : Word) (h : q ≠ r) :
    Lane.reg (Lane.setReg y r v) q = Lane.reg y q := by
  simp [Lane.reg, Lane.setReg, Table.get_put_ne _ _ _ h]

@[simp] theorem Band.sreg_setSreg (b : Band) (r : Nat) (v : Word) : Band.sreg (Band.setSreg b r v) r = v := by
  simp [Band.sreg, Band.setSreg]

theorem Band.sreg_setSreg_ne (b : Band) {r q : Nat} (v : Word) (h : q ≠ r) :
    Band.sreg (Band.setSreg b r v) q = Band.sreg b q := by
  simp [Band.sreg, Band.setSreg, Table.get_put_ne _ _ _ h]

/-- A condition bit reads back as written (R203). -/
theorem Lane.cond_setCond (y : Lane) (k : Nat) (v : Bool) (h : k < 7) : Lane.cond (Lane.setCond y k v) k = v := by
  have h7 : k ≠ 7 := by omega
  have hk : k = 0 ∨ k = 1 ∨ k = 2 ∨ k = 3 ∨ k = 4 ∨ k = 5 ∨ k = 6 := by omega
  cases v <;> rcases hk with rfl | rfl | rfl | rfl | rfl | rfl | rfl <;> simp [Lane.cond, Lane.setCond]

/-! ## The lanes of a band -/

@[simp] theorem Band.lane_setLane (b : Band) (l : Nat) (y : Lane) : Band.lane (Band.setLane b l y) l = y := by
  simp [Band.lane, Band.setLane]

theorem Band.lane_setLane_ne (b : Band) {l k : Nat} (y : Lane) (h : k ≠ l) :
    Band.lane (Band.setLane b l y) k = Band.lane b k := by
  simp [Band.lane, Band.setLane, Table.get_set_ne _ _ _ h]

@[simp] theorem Band.lane_modLane (b : Band) (l : Nat) (f : Lane → Lane) :
    Band.lane (Band.modLane b l f) l = f (Band.lane b l) := by simp [Band.modLane]

theorem Band.lane_modLane_ne (b : Band) {l k : Nat} (f : Lane → Lane) (h : k ≠ l) :
    Band.lane (Band.modLane b l f) k = Band.lane b k := by simp [Band.modLane, Band.lane_setLane_ne _ _ h]

@[simp] theorem Band.modLanes_nil (b : Band) (f : Nat → Lane → Lane) : Band.modLanes b [] f = b := rfl

@[simp] theorem Band.modLanes_cons (b : Band) (l : Nat) (ls : List Nat) (f : Nat → Lane → Lane) :
    Band.modLanes b (l :: ls) f = Band.modLanes (Band.modLane b l (f l)) ls f := rfl

/-- Changing lanes changes nothing else of a band. -/
theorem Band.modLanes_rest (b : Band) (ls : List Nat) (f : Nat → Lane → Lane) :
    Band.modLanes b ls f = { b with lanes := (Band.modLanes b ls f).lanes } := by
  induction ls generalizing b with
  | nil => rfl
  | cons l t ih =>
    rw [Band.modLanes_cons, ih]
    rfl

theorem Band.lane_modLanes_not (b : Band) {ls : List Nat} (f : Nat → Lane → Lane) {k : Nat} (h : k ∉ ls) :
    Band.lane (Band.modLanes b ls f) k = Band.lane b k := by
  induction ls generalizing b with
  | nil => rfl
  | cons l t ih =>
    simp only [List.mem_cons, not_or] at h
    rw [Band.modLanes_cons, ih _ h.2, Band.lane_modLane_ne _ _ h.1]

theorem Band.lane_modLanes (b : Band) {ls : List Nat} (f : Nat → Lane → Lane) {k : Nat} (h : k ∈ ls) (hn : ls.Nodup) :
    Band.lane (Band.modLanes b ls f) k = f k (Band.lane b k) := by
  induction ls generalizing b with
  | nil => simp at h
  | cons l t ih =>
    rw [List.nodup_cons] at hn
    rw [Band.modLanes_cons]
    by_cases e : k = l
    · subst e
      rw [Band.lane_modLanes_not _ _ hn.1, Band.lane_modLane]
    · rw [ih _ ((List.mem_cons.mp h).resolve_left e) hn.2, Band.lane_modLane_ne _ _ e]

/-- What every change keeps, the lanes keep. -/
theorem Band.lane_modLanes_keep {α : Type} (p : Lane → α) (b : Band) (ls : List Nat) {f : Nat → Lane → Lane}
    (h : ∀ l y, p (f l y) = p y) (k : Nat) : p (Band.lane (Band.modLanes b ls f) k) = p (Band.lane b k) := by
  induction ls generalizing b with
  | nil => rfl
  | cons l t ih =>
    rw [Band.modLanes_cons, ih]
    by_cases e : k = l
    · subst e; rw [Band.lane_modLane, h]
    · rw [Band.lane_modLane_ne _ _ e]

/-! ## The move to the next instruction (R348) -/

/-- Moving a lane on changes where it stands and how it waits, nothing a program reads. -/
theorem Lane.step_v (y : Lane) (h n : Nat) (r : Bool) : (Lane.step y h n r).v = y.v ∧ (Lane.step y h n r).c = y.c
    ∧ (Lane.step y h n r).tcause = y.tcause ∧ (Lane.step y h n r).tepc = y.tepc ∧ (Lane.step y h n r).taddr = y.taddr
    ∧ (Lane.step y h n r).gen = y.gen ∧ (Lane.step y h n r).rdp = y.rdp ∧ (Lane.step y h n r).pend = y.pend
    ∧ (Lane.step y h n r).err = y.err := by
  simp [Lane.step]

/-- The move of a group's lanes changes no field of the band but its lanes and its yield flag. -/
theorem advance_rest (x : Ix) (n : Nat) (ls : List Nat) (b : Band) :
    advance x n ls b = { b with lanes := (advance x n ls b).lanes, yf := (advance x n ls b).yf } := by
  unfold advance
  dsimp only
  rw [Band.modLanes_rest]
  split <;> rfl

theorem advance_lane (x : Ix) (n : Nat) (ls : List Nat) (b : Band) (k : Nat) :
    Band.lane (advance x n ls b) k
      = Band.lane (Band.modLanes b ls fun _ y => Lane.step { y with pc := x.pc } x.hdr n x.replay.isSome) k := by
  unfold advance
  dsimp only
  split <;> rfl

/-- The move of a group's lanes keeps what a program reads of every lane. -/
theorem advance_keeps {α : Type} (p : Lane → α) (x : Ix) (n : Nat) (ls : List Nat) (b : Band) (k : Nat)
    (h : ∀ y : Lane, p (Lane.step { y with pc := x.pc } x.hdr n x.replay.isSome) = p y) :
    p (Band.lane (advance x n ls b) k) = p (Band.lane b k) := by
  rw [advance_lane]
  exact Band.lane_modLanes_keep p b ls (fun _ y => h y) k

theorem advance_not (x : Ix) (n : Nat) (ls : List Nat) (b : Band) {k : Nat} (h : k ∉ ls) :
    Band.lane (advance x n ls b) k = Band.lane b k := by
  rw [advance_lane, Band.lane_modLanes_not _ _ h]

end Sys2Proof.Machine
end

