-- ==== Sys2Proof/Laws/Shell.lean ====
section
/-!
SUPPORT. What the shell of an issue does (R77, R347, R348): an instruction that acts is its effect, then the move of its
lanes; one that is held gives its price back.
-/
namespace Sys2Proof.Machine

theorem filterMap_none {α β : Type} {f : α → Option β} {l : List α} (h : ∀ a ∈ l, f a = none) : l.filterMap f = [] := by
  induction l with
  | nil => rfl
  | cons a t ih => simp [h a (by simp), ih (fun b hb => h b (by simp [hb]))]

/-- An instruction that acts without traps: its effect, then its lanes, but those it moved itself, go on. -/
theorem perform_of_clean {i : Instr} {own : Own} {eff : Ix → State → Res} {iss : Issue} {x : Ix} {s : State}
    (hc : ∀ l ∈ x.act, causeOf i own x s l = none) (ha : mismatched i (uses i) iss (opcodeOf i) x.act = [])
    (hn : x.act ≠ []) (ht : (eff x (beginReplay x s)).traps = []) :
    perform i own eff iss x s =
      State.modBand (eff x (beginReplay x s)).s x.key
        (advance x (slotCount i) (x.sel.filter fun l => !(eff x (beginReplay x s)).moved.elem l)) := by
  have h0 : x.act.filterMap (causeOf i own x s) = [] := filterMap_none hc
  have he : x.act.isEmpty = false := by cases h : x.act with
    | nil => exact absurd h hn
    | cons _ _ => rfl
  have hf : ∀ (l : List Nat), l.filterMap (fun _ => (none : Option Trap)) = [] := fun l => filterMap_none (fun _ _ => rfl)
  have hk : ∀ (l : List Nat), l.filter (fun _ => true) = l := fun l => by simp
  have hs : sensePoison i x [] (beginReplay x s) = beginReplay x s := rfl
  unfold perform
  simp only [h0, hs, List.any_nil, Bool.not_false, hk, ha, List.elem_nil, he, Bool.false_eq_true, if_false, ht, List.map_nil,
    List.append_nil, List.find?_nil, hf, deliverAll, List.foldl_nil, Bool.true_and]

/-- A group that acts leaves `perform`'s state, and its issue ends. -/
theorem issueUnless_of_goes {i : Instr} {hold : Ix → State → Bool} {own : Own} {eff : Ix → State → Res} {iss : Issue} {x : Ix}
    {s : State} (g : Goes i own s iss x) (hh : hold x s = false) (ht : (eff x (beginReplay x s)).traps = []) :
    issueUnless i hold own eff s =
      .next (afterIssue i iss x (x.sel.filter fun l => !(eff x (beginReplay x s)).moved.elem l)
        (eff x (beginReplay x s)).s) := by
  unfold issueUnless
  simp only [g.issue, g.index]
  rw [g.free, hh, perform_of_clean g.clean g.agree g.active ht]
  rfl

theorem filter_not_nil (l : List Nat) : (l.filter fun n => !([] : List Nat).elem n) = l := by simp

/-- The common case: no lane is moved by the instruction itself. -/
theorem issueWith_of_goes {i : Instr} {own : Own} {eff : Ix → State → Res} {iss : Issue} {x : Ix} {s : State}
    (g : Goes i own s iss x) (ht : (eff x (beginReplay x s)).traps = []) (hm : (eff x (beginReplay x s)).moved = []) :
    issueWith i own eff s = .next (afterIssue i iss x x.sel (eff x (beginReplay x s)).s) := by
  unfold issueWith
  rw [issueUnless_of_goes g rfl ht, hm, filter_not_nil]

/-- An instruction that sends lanes elsewhere or sets them waiting: the others go on. -/
theorem issueWith_of_moved {i : Instr} {own : Own} {eff : Ix → State → Res} {iss : Issue} {x : Ix} {s : State}
    (g : Goes i own s iss x) (ht : (eff x (beginReplay x s)).traps = []) :
    issueWith i own eff s = .next (afterIssue i iss x
      (x.sel.filter fun l => !(eff x (beginReplay x s)).moved.elem l) (eff x (beginReplay x s)).s) :=
  issueUnless_of_goes g rfl ht

/-- A held group gives its price back and its issue ends; nothing else happens. -/
theorem issueUnless_of_held {i : Instr} {hold : Ix → State → Bool} {own : Own} {eff : Ix → State → Res} {iss : Issue} {x : Ix}
    {s : State} (hi : s.issue = some iss) (hx : indexOf s iss.band iss.grp (uses i).g = some x) (hh : heldUp i x s = true) :
    issueUnless i hold own eff s = .next (endIssue iss (refund iss s)) := by
  unfold issueUnless
  simp [hi, hx, hh]

/-- Where no active lane takes a cause of the instruction's own, the causes do not matter. -/
theorem Goes.withOwn {i : Instr} {own : Own} {s : State} {iss : Issue} {x : Ix} (g : Goes i noCause s iss x)
    (h : ∀ l ∈ x.act, own x s l = none) : Goes i own s iss x where
  issue := g.issue
  index := g.index
  free := g.free
  ready := g.ready
  clean := fun l hl => by
    have := g.clean l hl
    simp only [causeOf, noCause] at this
    simp only [causeOf, h l hl]
    exact this
  agree := g.agree
  active := g.active

/-- Causes that agree in every active lane are the same causes. -/
theorem Goes.congrOwn {i : Instr} {own own' : Own} {s : State} {iss : Issue} {x : Ix} (g : Goes i own s iss x)
    (h : ∀ l ∈ x.act, own' x s l = own x s l) : Goes i own' s iss x where
  issue := g.issue
  index := g.index
  free := g.free
  ready := g.ready
  clean := fun l hl => by
    have := g.clean l hl
    simp only [causeOf, h l hl] at this ⊢
    exact this
  agree := g.agree
  active := g.active

theorem beginReplay_none {x : Ix} {s : State} (h : x.replay = none) : beginReplay x s = s := by simp [beginReplay, h]

/-! ## What the end of an issue leaves alone -/

/-- Starvation counts are all that a band-cycle's end changes of a band (R351). -/
theorem starveBand_rest (i r : Dword) (b : Band) : starveBand i r b = { b with lanes := (starveBand i r b).lanes } :=
  Band.modLanes_rest _ _ _

/-- What does not depend on the starvation count, the end of a band-cycle keeps of every lane. -/
theorem starveBand_keeps {α : Type} (p : Lane → α) (i r : Dword) (b : Band) (k : Nat)
    (h : ∀ (y : Lane) (n : Nat), p { y with starve := n } = p y) : p (Band.lane (starveBand i r b) k) = p (Band.lane b k) :=
  Band.lane_modLanes_keep p b _ (fun _ y => h y _) k

/-- The band-cycle ends with this issue: no secondary group is left. -/
def cycleEnd (iss : Issue) (s : State) : State := if iss.second.isSome then s else starveEnd iss s

/-- Where nothing asked for an evaluation of the rejoin entries, the end of an issue changes only the starvation counts and
whose issue comes next. -/
theorem endIssue_rest {iss i : Issue} {t : State} (h : t.issue = some i) (hr : i.reeval = false) :
    endIssue iss t = { cycleEnd iss t with issue := (endIssue iss t).issue } := by
  unfold endIssue cycleEnd starveEnd
  simp only [h, hr, Bool.false_eq_true, if_false]
  cases hs : iss.second with
  | some g => rfl
  | none =>
    by_cases hd : iss.done = 0
    · simp only [hd, if_true, Option.isSome_none, Bool.false_eq_true, if_false]
    · simp only [hd, if_false, Option.isSome_none, Bool.false_eq_true]
      rfl

/-- A group's lanes go on, and the band-cycle may end: the rest of the state stands. -/
theorem afterIssue_rest {i : Instr} {iss j : Issue} {x : Ix} {ls : List Nat} {t : State} (h : t.issue = some j)
    (hr : j.reeval = false) :
    afterIssue i iss x ls t = { cycleEnd (Issue.issued iss) (State.modBand t x.key (advance x (slotCount i) ls)) with
      issue := (afterIssue i iss x ls t).issue } := by
  unfold afterIssue
  exact endIssue_rest (by simpa using h) hr

/-- What the end of a band-cycle leaves of a band. -/
theorem cycleEnd_band {iss : Issue} {s : State} {b : Band} (h : Table.find iss.band s.bands = some b) :
    Table.find iss.band (cycleEnd iss s).bands
      = some (if iss.second.isSome ∨ iss.done = 0 then b else starveBand iss.done iss.ready b) := by
  unfold cycleEnd starveEnd
  by_cases hs : iss.second.isSome
  · rw [if_pos hs, if_pos (.inl hs), h]
  · by_cases hd : iss.done = 0
    · rw [if_neg hs, if_pos hd, if_pos (.inr hd), h]
    · rw [if_neg hs, if_neg hd, if_neg (not_or.mpr ⟨hs, hd⟩), find_modBand _ h]

theorem cycleEnd_band_ne (iss : Issue) (s : State) {k : Nat} (h : k ≠ iss.band) :
    Table.find k (cycleEnd iss s).bands = Table.find k s.bands := by
  unfold cycleEnd starveEnd
  split
  · rfl
  · split
    · rfl
    · exact find_modBand_ne _ _ h

/-- The band of a group whose lanes go on: what a program reads of a lane is as its move leaves it. -/
theorem afterIssue_band {i : Instr} {iss j : Issue} {x : Ix} {ls : List Nat} {t : State} {b : Band} (h : t.issue = some j)
    (hr : j.reeval = false) (hk : x.key = iss.band) (hb : Table.find x.key t.bands = some b) :
    Table.find x.key (afterIssue i iss x ls t).bands
      = some (if iss.second.isSome ∨ (Issue.issued iss).done = 0 then advance x (slotCount i) ls b
          else starveBand (Issue.issued iss).done iss.ready (advance x (slotCount i) ls b)) := by
  rw [afterIssue_rest h hr]
  have e := find_modBand (advance x (slotCount i) ls) hb
  rw [hk] at e ⊢
  exact cycleEnd_band (iss := Issue.issued iss) e

theorem afterIssue_band_ne {i : Instr} {iss j : Issue} {x : Ix} {ls : List Nat} {t : State} {k : Nat} (h : t.issue = some j)
    (hr : j.reeval = false) (hx : x.key = iss.band) (hk : k ≠ x.key) :
    Table.find k (afterIssue i iss x ls t).bands = Table.find k t.bands := by
  rw [afterIssue_rest h hr]
  exact (cycleEnd_band_ne (Issue.issued iss) _ (show k ≠ iss.band from hx ▸ hk)).trans (find_modBand_ne _ _ hk)

/-- What an index reads it reads in the state: its band, team and grid, at the key of the issue; its active lanes are
selected lanes, each once. -/
theorem indexOf_spec {s : State} {key : Nat} {p : Group} {g : Guard} {x : Ix} (h : indexOf s key p g = some x) :
    x.key = key ∧ Table.find key s.bands = some x.b ∧ Table.find x.b.team s.teams = some x.t
      ∧ Table.find x.t.grid s.grids = some x.gr ∧ x.sel.Nodup ∧ x.act.Sublist x.sel := by
  unfold indexOf at h
  repeat' split at h
  any_goals (simp at h; done)
  all_goals
    simp only [Option.some.injEq] at h
    subst h
    refine ⟨rfl, by assumption, by assumption, by assumption, List.nodup_range.filter _, ?_⟩
    dsimp only
    split
    · exact List.Sublist.refl _
    · exact List.filter_sublist

end Sys2Proof.Machine
end

