-- ==== Sys2Proof/Laws/Values.lean ====
section
/-!
SUPPORT. The integer arithmetic of the meanings is the arithmetic of the rules' tables (spec/10_integer_and_logic.md R228
to R249), for every pattern a register of 32 or 64 bits holds.
-/
namespace Sys2Proof.Machine

open Sys2Proof.Forms

/-! ## Register values lie below 2^w -/

theorem width_eq (wide : Bool) : Arith.width wide = bits wide := rfl

theorem pairOf_lt (f : Nat → Word) (wide : Bool) (r : Nat) : pairOf f wide r < 2 ^ bits wide := by
  unfold pairOf bits
  have h0 := (f r).isLt
  have h1 := (f (r + 1)).isLt
  cases wide <;> simp <;> omega

theorem Ix.vw_lt (x : Ix) (l : Nat) (wide : Bool) (r : Nat) : Ix.vw x l wide r < 2 ^ bits wide := pairOf_lt _ _ _
theorem Ix.sw_lt (x : Ix) (wide : Bool) (r : Nat) : Ix.sw x wide r < 2 ^ bits wide := pairOf_lt _ _ _
theorem Ix.src_lt (x : Ix) (l : Nat) (wide : Bool) (b : VSrc) : Ix.src x l wide b < 2 ^ bits wide := by
  cases b <;> exact pairOf_lt _ _ _

theorem bits_pos (wide : Bool) : 0 < bits wide := by cases wide <;> decide

/-! ## Values, wrapping, saturation, immediates -/

theorem val_eq (sg : Bool) (w x : Nat) : Arith.val sg w x = intOf sg w x := by
  unfold Arith.val intOf
  cases sg <;> simp

theorem wrap_eq (w : Nat) (y : Int) : Arith.wrap w y = wrapTo w y := rfl

theorem wrapTo_nat (w x : Nat) : wrapTo w (x : Int) = x % 2 ^ w := by
  unfold wrapTo
  rw [← Int.natCast_emod]
  rfl

theorem wrapTo_of_lt {w x : Nat} (h : x < 2 ^ w) : wrapTo w (x : Int) = x := by
  rw [wrapTo_nat, Nat.mod_eq_of_lt h]

/-- Wrapping does not see a multiple of 2^w. -/
theorem wrapTo_add_mul (w : Nat) (y k : Int) : wrapTo w (y + ((2 ^ w : Nat) : Int) * k) = wrapTo w y := by
  unfold wrapTo
  rw [Int.add_mul_emod_self_left]

theorem wrapTo_intOf {sg : Bool} {w x : Nat} (h : x < 2 ^ w) : wrapTo w (intOf sg w x) = x := by
  unfold intOf
  split
  · have : (x : Int) - ((2 ^ w : Nat) : Int) = (x : Int) + ((2 ^ w : Nat) : Int) * (-1) := by omega
    rw [this, wrapTo_add_mul, wrapTo_of_lt h]
  · exact wrapTo_of_lt h

theorem clamp_eq (sg : Bool) (w : Nat) (y : Int) :
    Arith.clamp sg w y = max (Arith.least sg w) (min (Arith.greatest sg w) y) := by
  have h : Arith.least sg w ≤ Arith.greatest sg w := by
    have : 0 < 2 ^ (w - 1) := Nat.two_pow_pos _
    have : 0 < 2 ^ w := Nat.two_pow_pos _
    cases sg <;> simp only [Arith.least, Arith.greatest, Bool.false_eq_true, if_true, if_false] <;> omega
  unfold Arith.clamp
  split
  · omega
  · split <;> omega

theorem put_eq (sg sat : Bool) (w : Nat) (y : Int) : Arith.put sg w sat y = satTo sg sat w y := by
  unfold Arith.put satTo
  rw [clamp_eq sg w y]
  rfl

theorem imm_eq (sg wide : Bool) (x : BitVec 16) : Arith.imm sg (bits wide) x = immTo sg (bits wide) x := by
  have hx := x.isLt
  have h16 : 2 ^ 16 ≤ 2 ^ bits wide := by cases wide <;> decide
  unfold Arith.imm immTo
  rw [wrap_eq, val_eq]
  cases sg
  · simp only [Bool.false_eq_true, if_false]
    have : intOf false 16 x.toNat = (x.toNat : Int) := by simp [intOf]
    rw [this, wrapTo_of_lt (by omega)]
  · have hm : x.msb = decide (2 ^ 15 ≤ x.toNat) := BitVec.msb_eq_decide x
    rw [if_pos rfl, BitVec.toNat_signExtend, hm, BitVec.toNat_setWidth, Nat.mod_eq_of_lt (by omega)]
    unfold intOf
    by_cases h : 2 ^ 15 ≤ x.toNat
    · rw [if_pos ⟨rfl, h⟩, if_pos (by simpa using h)]
      have e : (x.toNat : Int) - ((2 ^ 16 : Nat) : Int) + ((2 ^ bits wide : Nat) : Int) * 1
          = ((x.toNat + (2 ^ bits wide - 2 ^ 16) : Nat) : Int) := by omega
      rw [← wrapTo_add_mul _ _ 1, e, wrapTo_of_lt (by omega)]
    · rw [if_neg (fun e => h e.2), if_neg (by simpa using h), wrapTo_of_lt (by omega), Nat.add_zero]

/-! ## Scalar and vector arithmetic -/

theorem sub_eq {w p q : Nat} (h : q < 2 ^ w) : Arith.sub w p q = (p + 2 ^ w - q) % 2 ^ w := by
  unfold Arith.sub
  rw [Nat.mod_eq_of_lt h]
  congr 1
  omega

theorem mulh_eq (sg : Bool) (w x y : Nat) : Arith.mulh sg w x y = highHalf sg w x y := by
  unfold Arith.mulh highHalf
  simp only [val_eq, wrap_eq]

theorem intOf_top {w : Nat} (hw : 0 < w) : intOf true w (2 ^ (w - 1)) = -((2 ^ (w - 1) : Nat) : Int) := by
  have : 2 ^ w = 2 * 2 ^ (w - 1) := by rw [← Nat.pow_succ']; congr 1; omega
  rw [intOf, if_pos ⟨rfl, Nat.le_refl _⟩]
  omega

theorem intOf_ones {w : Nat} (hw : 0 < w) : intOf true w (2 ^ w - 1) = -1 := by
  have h : 2 ^ w = 2 * 2 ^ (w - 1) := by rw [← Nat.pow_succ']; congr 1; omega
  have : 0 < 2 ^ (w - 1) := Nat.two_pow_pos _
  have hle : 2 ^ (w - 1) ≤ 2 ^ w - 1 := by omega
  rw [intOf, if_pos ⟨rfl, hle⟩]
  omega

theorem divide_eq {sg : Bool} {w x y : Nat} (hw : 0 < w) : Arith.divide sg w x y = quotient sg w x y := by
  unfold Arith.divide quotient
  split
  · rfl
  · split
    · rename_i h
      obtain ⟨rfl, rfl, rfl⟩ := h
      have hp : 2 ^ w = 2 * 2 ^ (w - 1) := by rw [← Nat.pow_succ']; congr 1; omega
      have : 0 < 2 ^ (w - 1) := Nat.two_pow_pos _
      rw [val_eq, val_eq, intOf_top hw, intOf_ones hw, wrap_eq, Int.tdiv_neg, Int.tdiv_one, Int.neg_neg]
      exact wrapTo_of_lt (by omega)
    · rw [val_eq, val_eq, wrap_eq]

theorem remain_eq {sg : Bool} {w x y : Nat} (hw : 0 < w) : Arith.remain sg w x y = remainder sg w x y := by
  unfold Arith.remain remainder
  split
  · rfl
  · split
    · rename_i h
      obtain ⟨rfl, rfl, rfl⟩ := h
      rw [val_eq, val_eq, intOf_top hw, intOf_ones hw, wrap_eq]
      simp [Int.tmod_neg, wrapTo]
    · rw [val_eq, val_eq, wrap_eq, Int.tmod_def]
      rw [Int.mul_comm]

theorem shl_eq (w x n : Nat) : Arith.shl w x n = shiftLeft w x n := by
  unfold Arith.shl shiftLeft
  rw [Nat.shiftLeft_eq]

theorem shr_eq (w x n : Nat) : Arith.shr w x n = shiftRight w x n := by
  unfold Arith.shr shiftRight
  rw [Nat.shiftRight_eq_div_pow]

theorem compare_eq (c : Cmp) (x y : Int) : Arith.compare c x y = holds c x y := by
  cases c <;> simp [Arith.compare, holds, gt_iff_lt, ge_iff_le]

/-! ## Shifts and rotations that read the sign or wrap -/

theorem sra_eq {w x n : Nat} (hw : 0 < w) (h : x < 2 ^ w) : Arith.sra w x n = shiftArith w x n := by
  unfold Arith.sra shiftArith
  have hi : (BitVec.ofNat w x).toInt = intOf true w x := by
    have hp : 2 ^ w = 2 * 2 ^ (w - 1) := by rw [← Nat.pow_succ']; congr 1; omega
    rw [BitVec.toInt_eq_toNat_cond, BitVec.toNat_ofNat, Nat.mod_eq_of_lt h]
    unfold intOf
    by_cases c : 2 ^ (w - 1) ≤ x
    · rw [if_neg (by omega), if_pos ⟨rfl, c⟩]
    · rw [if_pos (by omega), if_neg (fun e => c e.2)]
  rw [val_eq, wrap_eq, ← hi, BitVec.sshiftRight_eq, BitVec.toNat_ofInt, Int.shiftRight_eq_div_pow]
  rfl

theorem rot_eq {w x n : Nat} (hw : 0 < w) (h : x < 2 ^ w) : Arith.rot w x n = rotateLeft w x n := by
  have hk : n % w < w := Nat.mod_lt _ hw
  have hsplit : 2 ^ w = 2 ^ (w - n % w) * 2 ^ (n % w) := by rw [← Nat.pow_add]; congr 1; omega
  have hd : x / 2 ^ (w - n % w) < 2 ^ (n % w) := Nat.div_lt_of_lt_mul (by rw [← hsplit]; exact h)
  have hm : x * 2 ^ (n % w) % 2 ^ w = 2 ^ (n % w) * (x % 2 ^ (w - n % w)) := by
    rw [hsplit, Nat.mul_mod_mul_right, Nat.mul_comm]
  unfold Arith.rot rotateLeft
  rw [BitVec.toNat_rotateLeft, BitVec.toNat_ofNat, Nat.mod_eq_of_lt h, Nat.mod_mod, Nat.shiftLeft_eq,
    Nat.shiftRight_eq_div_pow, hm, Nat.two_pow_add_eq_or_of_lt hd]

/-! ## Patterns given bit by bit -/

theorem ofBits_eq (f : Nat → Bool) (n k : Nat) :
    2 ^ k * Arith.ofBits ((List.range' k n).map f) = (List.range' k n).foldr (fun i m => m + if f i then 2 ^ i else 0) 0 := by
  induction n generalizing k with
  | zero => simp [Arith.ofBits]
  | succ n ih =>
    simp only [List.range'_succ, List.map_cons, Arith.ofBits, List.foldr_cons]
    rw [← ih (k + 1), Nat.mul_add, Nat.pow_succ]
    cases f k <;> simp [Nat.mul_assoc, Nat.add_comm]

theorem tabulate_eq (w : Nat) (f : Nat → Bool) : Arith.tabulate w f = fromBits w f := by
  have := ofBits_eq f w 0
  rw [Nat.pow_zero, Nat.one_mul] at this
  unfold Arith.tabulate fromBits
  rw [List.range_eq_range', this]

theorem lmux_eq (w : Nat) (f g : BitVec 4) (a b c : Nat) :
    Arith.lmux w f g a b c = fromBits w fun i =>
      if c.testBit i then tableBit f (a.testBit i) (b.testBit i) else tableBit g (a.testBit i) (b.testBit i) := by
  unfold Arith.lmux
  rw [tabulate_eq]
  congr 1
  funext i
  cases a.testBit i <;> cases b.testBit i <;> rfl

theorem bfi_eq (w a b pos len : Nat) :
    Arith.bfi w a b pos len = fromBits w fun i =>
      if pos ≤ i ∧ i < pos + len then b.testBit (i - pos) else a.testBit i := by
  unfold Arith.bfi
  rw [tabulate_eq]

theorem brev_eq (w x : Nat) : Arith.brev w x = fromBits w fun i => x.testBit (w - 1 - i) := by
  unfold Arith.brev
  rw [tabulate_eq]

theorem testBit_top {f n : Nat} (hn : 0 < n) (h : f < 2 ^ n) : f.testBit (n - 1) = decide (2 ^ (n - 1) ≤ f) := by
  have hp : 2 ^ n = 2 * 2 ^ (n - 1) := by rw [← Nat.pow_succ']; congr 1; omega
  rw [Nat.testBit_eq_decide_div_mod_eq]
  by_cases c : 2 ^ (n - 1) ≤ f
  · have : f / 2 ^ (n - 1) = 1 := by
      rw [Nat.div_eq_iff (Nat.two_pow_pos _)]
      omega
    simp [this, c]
  · have : f / 2 ^ (n - 1) = 0 := Nat.div_eq_of_lt (by omega)
    simp [this, c]

theorem bfx_eq {sg : Bool} {w a pos len : Nat} (h : a < 2 ^ w) : Arith.bfx sg w a pos len = extract sg w a pos len := by
  unfold Arith.bfx extract
  by_cases hl : len = 0
  · simp [hl]
  rw [if_neg hl, if_neg hl, Nat.shiftRight_eq_div_pow]
  dsimp only
  have hf : a / 2 ^ pos % 2 ^ len < 2 ^ len := Nat.mod_lt _ (Nat.two_pow_pos _)
  have hw : a / 2 ^ pos % 2 ^ len < 2 ^ w :=
    Nat.lt_of_le_of_lt (Nat.le_trans (Nat.mod_le _ _) (Nat.div_le_self _ _)) h
  rw [testBit_top (by omega) hf, val_eq, wrap_eq]
  unfold intOf
  by_cases c : sg = true ∧ 2 ^ (len - 1) ≤ a / 2 ^ pos % 2 ^ len
  · rw [if_pos c, if_pos (by simpa using c)]
  · rw [if_neg c, if_neg (by simpa using c), wrapTo_of_lt hw]

theorem popc_eq (w x : Nat) : Arith.popc w x = onesIn w x := by
  unfold Arith.popc onesIn
  rw [List.countP_eq_length_filter]

theorem takeWhile_range (p : Nat → Bool) (k n b : Nat) (h : ∀ i, b ≤ i → i < b + k → p i = true)
    (hk : k < n → p (b + k) = false) (hn : k ≤ n) : ((List.range' b n).takeWhile p).length = k := by
  induction n generalizing b k with
  | zero => simp; omega
  | succ n ih =>
    rw [List.range'_succ]
    cases k with
    | zero => simp [show p b = false by simpa using hk (by omega)]
    | succ k =>
      rw [List.takeWhile_cons, h b (by omega) (by omega), if_pos rfl, List.length_cons,
        ih k (b + 1) (fun i h1 h2 => h i (by omega) (by omega))
          (fun hlt => by have := hk (by omega); rwa [show b + 1 + k = b + (k + 1) by omega]) (by omega)]

theorem clz_eq {w x : Nat} (h : x < 2 ^ w) : Arith.clz w x = leadingZeros w x := by
  unfold Arith.clz leadingZeros
  rw [List.range_eq_range']
  by_cases h0 : x = 0
  · subst h0
    rw [if_pos rfl, takeWhile_range _ w w 0 (fun i _ _ => by simp) (by omega) (by omega)]
  rw [if_neg h0]
  have hl : x.log2 < w := (Nat.log2_lt h0).mpr h
  rw [takeWhile_range _ (w - 1 - x.log2) w 0 ?_ ?_ (by omega)]
  · intro i _ hi
    have : x < 2 ^ (w - 1 - i) := by
      have h1 : x < 2 ^ (x.log2 + 1) := Nat.lt_log2_self
      exact Nat.lt_of_lt_of_le h1 (Nat.pow_le_pow_right (by omega) (by omega))
    simp [Nat.testBit_lt_two_pow this]
  · intro _
    have : w - 1 - (0 + (w - 1 - x.log2)) = x.log2 := by omega
    rw [this]
    have : x.testBit x.log2 = true := by
      have := testBit_top (n := x.log2 + 1) (by omega) (Nat.lt_log2_self (n := x))
      simp only [Nat.add_sub_cancel] at this
      rw [this]
      simp [Nat.log2_self_le h0]
    simp [this]

theorem bytep_eq {a b : Nat} (sel : BitVec 16) (ha : a < 2 ^ 32) (hb : b < 2 ^ 32) :
    Arith.bytep a b sel = bytepByte a b sel 0 + 256 * bytepByte a b sel 1 + 65536 * bytepByte a b sel 2
      + 16777216 * bytepByte a b sel 3 := by
  have key (j : Nat) : (let s := sel.toNat / 2 ^ (4 * j) % 16
      if s < 8 then (a + 2 ^ 32 * b) / 2 ^ (8 * s) % 256
      else if (a + 2 ^ 32 * b).testBit (8 * (s - 8) + 7) then 255 else 0) = bytepByte a b sel j := by
    unfold bytepByte
    rw [Nat.shiftRight_eq_div_pow]
    dsimp only
    generalize hs : sel.toNat / 2 ^ (4 * j) % 16 = s
    have hs : s < 16 := by omega
    have hc : s = 0 ∨ s = 1 ∨ s = 2 ∨ s = 3 ∨ s = 4 ∨ s = 5 ∨ s = 6 ∨ s = 7 ∨ s = 8 ∨ s = 9 ∨ s = 10 ∨ s = 11 ∨ s = 12
      ∨ s = 13 ∨ s = 14 ∨ s = 15 := by omega
    rcases hc with rfl | rfl | rfl | rfl | rfl | rfl | rfl | rfl | rfl | rfl | rfl | rfl | rfl | rfl | rfl | rfl <;>
      simp [Nat.shiftRight_eq_div_pow, Nat.testBit_eq_decide_div_mod_eq] <;>
      (try split) <;> (try split) <;> omega
  unfold Arith.bytep
  dsimp only at key ⊢
  rw [← key 0, ← key 1, ← key 2, ← key 3]
  try rfl

end Sys2Proof.Machine
end

