-- ==== Sys2Proof/Laws/Access.lean ====
section
/-!
SUPPORT. The addresses and bytes of an access are those of the rules' tables (R175 to R182), and what starting an access
does: one operation, its counter, its pending destinations, and nothing else.
-/
namespace Sys2Proof.Machine

open Sys2Proof.Forms

/-! ## Addresses and bytes -/

theorem genericAddr_eq (sr : SReg) (a : VReg) (off : Int) (x : Ix) (l : Nat) :
    genericAddr x l sr a off = pairAddr sr a off x l := by
  unfold genericAddr pairAddr Ix.sw Ix.vw pairOf
  simp only [if_true]
  congr 3
  omega

theorem localAddr_eq (sr : SReg) (a : VReg) (off : Int) (x : Ix) (l : Nat) :
    localAddr x l sr a off = shortAddr sr a off x l := rfl

theorem natLe_eq (z v : Nat) : natLe z v = lowBytes z v := by
  unfold lowBytes
  induction z generalizing v with
  | zero => rfl
  | succ z ih =>
    rw [natLe, ih, List.range_succ_eq_map]
    simp only [List.map_cons, List.map_map, Nat.pow_zero, Nat.div_one, List.cons.injEq, true_and]
    apply List.map_congr_left
    intro i _
    simp only [Function.comp_apply, Nat.pow_succ', Nat.div_div_eq_div_mul]

theorem wordsOf_eq (x : Ix) (l r n : Nat) : wordsOf (Ix.v x l) r n = regsValue x l r n := by
  unfold regsValue
  induction n generalizing r with
  | zero => rfl
  | succ n ih =>
    rw [wordsOf, ih, List.range_succ_eq_map]
    simp only [List.foldr_cons, List.foldr_map, Nat.add_zero, Nat.add_comm, Nat.add_left_comm]

theorem regBytes_eq (x : Ix) (l : Nat) (d : VReg) (z : Nat) :
    regBytes x l d z = lowBytes z (regsValue x l d.val ((z + 3) / 4)) := by
  unfold regBytes
  rw [natLe_eq, wordsOf_eq]

theorem wySize_eq (t : WTy) : WTy.size t = wySize t := by cases t <;> rfl
theorem aySize_eq (t : AW) : AW.size t = aySize t := by cases t <;> rfl

/-! ## Starting an access -/

/-- Marks on destinations change one band: its pending marks and its held results. -/
theorem markPending_frame (key : Nat) (ls regs : List Nat) (op : Nat) (s : State) :
    (markPending key ls regs op s).dram = s.dram ∧ (markPending key ls regs op s).sram = s.sram
      ∧ (markPending key ls regs op s).hubSram = s.hubSram ∧ (markPending key ls regs op s).ops = s.ops
      ∧ (markPending key ls regs op s).ctxs = s.ctxs ∧ (markPending key ls regs op s).cores = s.cores
      ∧ (markPending key ls regs op s).teams = s.teams ∧ (markPending key ls regs op s).hub = s.hub :=
  ⟨rfl, rfl, rfl, rfl, rfl, rfl, rfl, rfl⟩

/-- A counter that rises changes its band alone (R38). -/
theorem countUp_frame (key : Nat) (dc : Dc) (s : State) :
    (countUp key dc s).dram = s.dram ∧ (countUp key dc s).sram = s.sram ∧ (countUp key dc s).hubSram = s.hubSram
      ∧ (countUp key dc s).ops = s.ops ∧ (countUp key dc s).ctxs = s.ctxs ∧ (countUp key dc s).cores = s.cores
      ∧ (countUp key dc s).teams = s.teams ∧ (countUp key dc s).hub = s.hub := by
  cases dc <;> exact ⟨rfl, rfl, rfl, rfl, rfl, rfl, rfl, rfl⟩

/-- Noting an out-of-range access changes %spflag of the context alone (R139). -/
theorem latchOut_frame (x : Ix) (n : Nat) (w : Bool) (as : List Acc) (s : State) :
    (latchOut x n w as s).dram = s.dram ∧ (latchOut x n w as s).sram = s.sram ∧ (latchOut x n w as s).hubSram = s.hubSram
      ∧ (latchOut x n w as s).ops = s.ops ∧ (latchOut x n w as s).bands = s.bands ∧ (latchOut x n w as s).cores = s.cores
      ∧ (latchOut x n w as s).teams = s.teams ∧ (latchOut x n w as s).hub = s.hub ∧ (latchOut x n w as s).nextKey = s.nextKey := by
  unfold latchOut
  split
  · exact ⟨rfl, rfl, rfl, rfl, rfl, rfl, rfl, rfl, rfl⟩
  · split
    · exact ⟨rfl, rfl, rfl, rfl, rfl, rfl, rfl, rfl, rfl⟩
    · exact ⟨rfl, rfl, rfl, rfl, rfl, rfl, rfl, rfl, rfl⟩

/-- Starting an access writes no memory, no core, no team and no hub register; it adds one operation under the next key. -/
theorem startAccess_frame (i : Instr) (x : Ix) (k : OpKind) (w : Bool) (dc : Dc) (sc : Scope) (o : Order) (as : List Acc)
    (regs : List Nat) (s : State) :
    (startAccess i x k w dc sc o as regs s).s.dram = s.dram ∧ (startAccess i x k w dc sc o as regs s).s.sram = s.sram
      ∧ (startAccess i x k w dc sc o as regs s).s.hubSram = s.hubSram ∧ (startAccess i x k w dc sc o as regs s).s.cores = s.cores
      ∧ (startAccess i x k w dc sc o as regs s).s.teams = s.teams ∧ (startAccess i x k w dc sc o as regs s).s.hub = s.hub
      ∧ (∀ n, n ≠ s.nextKey → Table.find n (startAccess i x k w dc sc o as regs s).s.ops = Table.find n s.ops)
      ∧ (startAccess i x k w dc sc o as regs s).traps = [] := by
  have l := latchOut_frame x s.nextKey w as s
  have m (t : State) : (countIssue x dc t).dram = t.dram ∧ (countIssue x dc t).sram = t.sram ∧ (countIssue x dc t).hubSram = t.hubSram
      ∧ (countIssue x dc t).ops = t.ops ∧ (countIssue x dc t).cores = t.cores ∧ (countIssue x dc t).teams = t.teams
      ∧ (countIssue x dc t).hub = t.hub := by
    unfold countIssue
    split
    · exact ⟨rfl, rfl, rfl, rfl, rfl, rfl, rfl⟩
    · have c := countUp_frame x.key dc t
      exact ⟨c.1, c.2.1, c.2.2.1, c.2.2.2.1, c.2.2.2.2.2.1, c.2.2.2.2.2.2.1, c.2.2.2.2.2.2.2⟩
  refine ⟨(m _).1.trans l.1, (m _).2.1.trans l.2.1, (m _).2.2.1.trans l.2.2.1, (m _).2.2.2.2.1.trans l.2.2.2.2.2.1,
    (m _).2.2.2.2.2.1.trans l.2.2.2.2.2.2.1, (m _).2.2.2.2.2.2.trans l.2.2.2.2.2.2.2.1, ?_, rfl⟩
  intro n hn
  have e : (startAccess i x k w dc sc o as regs s).s.ops = _ := (m (newOp i x k dc sc o as false 0 (latchOut x s.nextKey w as s)).2).2.2.2.1
  rw [e]
  simp only [newOp, l.2.2.2.2.2.2.2.2, l.2.2.2.1]
  exact Table.find_set_ne _ _ hn

end Sys2Proof.Machine
end

