-- ==== Sys2Proof/Laws/Firmware.lean ====
section
/-!
SUPPORT. What a firmware command does, said once: the next message of a session runs its command on the state `begun`, and
its reply is kept (R461 to R464).
-/
namespace Sys2Proof.Machine

theorem stageOf_fresh {h : MsgHead} {s : State} (f : ∀ c ∈ s.fw.running, Running.of h c = false) : stageOf s h = none := by
  have e : s.fw.running.find? (Running.of h) = none := List.find?_eq_none.mpr fun c hc => by simp [f c hc]
  simp [stageOf, e]

/-- What runs before the command's own effect, where its turn has come. -/
theorem begun_eq {h : MsgHead} {ctx : Option Nat} {s : State} (f : ∀ c ∈ s.fw.running, Running.of h c = false) :
    beginCommand h ctx (touchSession h.session s) = begun h ctx s := by
  have e : stageOf (touchSession h.session s) h = none := stageOf_fresh f
  simp only [beginCommand, e, Option.isSome_none, Bool.false_eq_true, if_false]
  rfl

/-- A command that acts on no context, or on one that no command under way acts on, has its turn at once. -/
theorem itsTurn {h : MsgHead} {ctx : Option Nat} {s : State} (t : ∀ k, ctx = some k → CtxFree s k) :
    notItsTurn h ctx (begun h ctx s) = false := by
  cases ctx with
  | none => rfl
  | some k =>
    have free := t k rfl
    simp only [notItsTurn, Option.isSome_some, Bool.true_and, begun, State.modFw, List.any_eq_false]
    intro c hc
    have hm := List.takeWhile_prefix (fun c => !Running.of h c) |>.sublist.subset hc
    have hp : Running.of h c = false := by simpa using List.mem_takeWhile_imp hc
    rcases List.mem_append.mp hm with hm | hm
    · simpa using free c hm
    · rw [List.mem_singleton.mp hm] at hp
      simp [Running.of] at hp

/-- The next message of a session runs its command on the state `begun`. -/
theorem command_runs {h : MsgHead} {who : Issuer} {s : State} {x : Session} {op : Nat} {inF : Bool} {again : Due} {act : Command}
    (c : Commands h who s x) : command op h who inF again act s = .next (runCommand op h act again (touchSession h.session s)) := by
  have hp := c.ready
  have hm : macOnly s = false := by simp [macOnly, hp]
  have hb : ((x.proved && !(h.signed && h.sigOk)) || (h.signed && !h.sigOk)) = false := by
    have h1 := c.sound
    have h2 := c.proof
    cases hx : x.proved <;> cases hs : h.signed <;> simp_all
  have hmay : mayIssue who x = true := by
    have := c.may
    cases who <;> simp_all [mayIssue]
  have hg : stageOf (touchSession h.session s) h = none := stageOf_fresh c.fresh
  simp [command, hp, c.link, hm, Power.isFailed, c.named, c.found, sessionMessage, c.inTurn, hmay, hg]
  intro e
  simp at hb
  rcases e with ⟨e, f⟩ | ⟨e, f⟩ <;> simp_all

/-- A command of a session that answers at once. -/
theorem command_answers {h : MsgHead} {who : Issuer} {s : State} {x : Session} {op : Nat} {inF : Bool} {again : Due} {act : Command} {d : Done}
    (c : Commands h who s x) (t : ∀ k, commandCtx again = some k → CtxFree s k) (ha : act (begun h (commandCtx again) s) = d)
    (hl : d.later = false) (hb : d.busy = false) (hv : d.view = none) :
    command op h who inF again act s = .next (replied op h d.status d.payload d.s) := by
  rw [command_runs c]
  simp only [runCommand, begun_eq c.fresh, itsTurn t, ha, hl, hb, hv, Bool.false_eq_true, if_false, replied]

/-- A command that changed a context's registers is answered once its view page is written. -/
theorem command_views {h : MsgHead} {who : Issuer} {s : State} {x : Session} {op : Nat} {inF : Bool} {again : Due} {act : Command} {d : Done}
    {k : Nat} (c : Commands h who s x) (t : ∀ k, commandCtx again = some k → CtxFree s k)
    (ha : act (begun h (commandCtx again) s) = d) (hl : d.later = false) (hb : d.busy = false) (hv : d.view = some k) :
    command op h who inF again act s
      = .next (followView k (some ⟨op, h.session, h.msgnum, d.status, d.payload, h.src⟩) (setStage h 2 d.s)) := by
  rw [command_runs c]
  simp only [runCommand, begun_eq c.fresh, itsTurn t, ha, hl, hb, hv, Bool.false_eq_true, if_false]

/-- A command that answers later leaves no reply. -/
theorem command_later {h : MsgHead} {who : Issuer} {s : State} {x : Session} {op : Nat} {inF : Bool} {again : Due} {act : Command} {d : Done}
    (c : Commands h who s x) (t : ∀ k, commandCtx again = some k → CtxFree s k) (ha : act (begun h (commandCtx again) s) = d)
    (hl : d.later = true) (hb : d.busy = false) :
    command op h who inF again act s = .next (executed h.session h.msgnum d.s) := by
  rw [command_runs c]
  simp only [runCommand, begun_eq c.fresh, itsTurn t, ha, hl, hb, Bool.false_eq_true, if_false, if_true]

/-- A command that cannot go on yet is tried again. -/
theorem command_waits {h : MsgHead} {who : Issuer} {s : State} {x : Session} {op : Nat} {inF : Bool} {again : Due} {act : Command} {d : Done}
    (c : Commands h who s x) (t : ∀ k, commandCtx again = some k → CtxFree s k) (ha : act (begun h (commandCtx again) s) = d)
    (hb : d.busy = true) : command op h who inF again act s = .next (retry again d.s) := by
  rw [command_runs c]
  simp only [runCommand, begun_eq c.fresh, itsTurn t, ha, hb, Bool.false_eq_true, if_false, if_true]

/-- A command of an authenticated session is DENIED to another. -/
theorem command_denied {h : MsgHead} {s : State} {x : Session} {op : Nat} {inF : Bool} {again : Due} {act : Command}
    (c : Commands h .session s x) (t : ∀ k, commandCtx again = some k → CtxFree s k) (hx : x.proved = false) :
    command op h .auth inF again act s = .next (replied op h stDenied .none (begun h (commandCtx again) s)) := by
  have hp := c.ready
  have hm : macOnly s = false := by simp [macOnly, hp]
  have hb : (h.signed && !h.sigOk) = false := by
    have h1 := c.sound
    cases hs : h.signed <;> simp_all
  have hmay : mayIssue .auth x = false := by simp [mayIssue, hx]
  have hg : stageOf (touchSession h.session s) h = none := stageOf_fresh c.fresh
  simp [command, hp, c.link, hm, Power.isFailed, c.named, c.found, sessionMessage, hx, c.inTurn, hmay, hg]
  rw [if_neg (by simpa using hb)]
  simp only [runCommand, begun_eq c.fresh, itsTurn t, Bool.false_eq_true, if_false, replied, refuseWith]

@[simp] theorem begun_ctxs (h : MsgHead) (k : Option Nat) (s : State) : (begun h k s).ctxs = s.ctxs := rfl
@[simp] theorem begun_bands (h : MsgHead) (k : Option Nat) (s : State) : (begun h k s).bands = s.bands := rfl
@[simp] theorem begun_teams (h : MsgHead) (k : Option Nat) (s : State) : (begun h k s).teams = s.teams := rfl
@[simp] theorem begun_grids (h : MsgHead) (k : Option Nat) (s : State) : (begun h k s).grids = s.grids := rfl
@[simp] theorem begun_dram (h : MsgHead) (k : Option Nat) (s : State) : (begun h k s).dram = s.dram := rfl
@[simp] theorem begun_outbox (h : MsgHead) (k : Option Nat) (s : State) : (begun h k s).outbox = s.outbox := rfl
@[simp] theorem begun_ctx (h : MsgHead) (k : Option Nat) (s : State) (n : Nat) : State.ctx (begun h k s) n = State.ctx s n := rfl
@[simp] theorem begun_blob (h : MsgHead) (k : Option Nat) (s : State) : (begun h k s).fw.blob = s.fw.blob := rfl
@[simp] theorem begun_power (h : MsgHead) (k : Option Nat) (s : State) : (begun h k s).fw.power = s.fw.power := rfl
@[simp] theorem begun_regens (h : MsgHead) (k : Option Nat) (s : State) : (begun h k s).fw.regens = s.fw.regens := rfl
theorem begun_session {h : MsgHead} {k : Option Nat} {s : State} {x : Session} (f : Table.find h.session s.fw.sessions = some x) :
    Table.find h.session (begun h k s).fw.sessions = some { x with idle := 0 } := by
  show Table.find h.session (Table.alter h.session _ s.fw.sessions) = _
  simp [Table.alter, f]

/-! ## A message that has come, and frames that leave -/

@[simp] theorem touchSession_ctxs (n : Nat) (s : State) : (touchSession n s).ctxs = s.ctxs := rfl
@[simp] theorem touchSession_bands (n : Nat) (s : State) : (touchSession n s).bands = s.bands := rfl
@[simp] theorem touchSession_teams (n : Nat) (s : State) : (touchSession n s).teams = s.teams := rfl
@[simp] theorem touchSession_grids (n : Nat) (s : State) : (touchSession n s).grids = s.grids := rfl
@[simp] theorem touchSession_dram (n : Nat) (s : State) : (touchSession n s).dram = s.dram := rfl
@[simp] theorem touchSession_outbox (n : Nat) (s : State) : (touchSession n s).outbox = s.outbox := rfl
@[simp] theorem touchSession_hub (n : Nat) (s : State) : (touchSession n s).hub = s.hub := rfl
@[simp] theorem touchSession_cores (n : Nat) (s : State) : (touchSession n s).cores = s.cores := rfl
@[simp] theorem touchSession_dies (n : Nat) (s : State) : (touchSession n s).dies = s.dies := rfl

/-- A frame leaves the state as it is, but for what has been sent or waits for its priority (R457). -/
theorem sendFrame_eq (prio : Nat) (o : Out) (s : State) :
    sendFrame prio o s = { s with outbox := (sendFrame prio o s).outbox
                                  fw := { s.fw with paused := (sendFrame prio o s).fw.paused } } := by
  unfold sendFrame
  split <;> rfl

/-- A reply leaves the rest of the state as it is. -/
theorem sendReply_eq (r : Reply) (s : State) :
    sendReply r s = { s with outbox := (sendReply r s).outbox, fw := { s.fw with paused := (sendReply r s).fw.paused } } :=
  sendFrame_eq _ _ s

/-- The reply to a WAIT while completions are held is held with them (R427, R466). -/
theorem answer_held {r : Reply} {s : State} (h : r.opcode = 9) (hold : Hub.onHold s.hub = true) :
    answer r s = State.modFw (executed r.session r.msgnum s) fun f => { f with heldReplies := f.heldReplies ++ [r] } := by
  simp [answer, h, executed, State.modFw, hold]

end Sys2Proof.Machine
end

