-- ==== Sys2Proof/Laws/Memory.lean ====
section
/-!
SUPPORT. Every operation that writes a memory of the package keeps all three in their canonical form.
-/
namespace Sys2Proof.Machine

/-- A state with the memories of another is as canonical as that one. -/
theorem State.memOk_of_eq {s t : State} (h : State.memOk s) (hd : t.dram = s.dram) (hs : t.sram = s.sram)
    (hh : t.hubSram = s.hubSram) : State.memOk t := by
  simp only [State.memOk, hd, hs, hh]
  exact h

theorem State.reset_memOk_dram : Memory.wf State.reset.dram = true := rfl

theorem setDword_memOk {s : State} (k x : Nat) (h : State.memOk s) : State.memOk (State.setDword s k x) :=
  ⟨Memory.store_wf _ _ h.1, h.2.1, h.2.2⟩

theorem chargeLine_memOk {s : State} (u : Nat) (h : State.memOk s) : State.memOk (chargeLine u s) := h

theorem chargeLines_memOk {s : State} (u n : Nat) (h : State.memOk s) : State.memOk (chargeLines u n s) := h

theorem putEntry_memOk {s : State} (k e : Nat) (h : State.memOk s) : State.memOk (putEntry k e s) :=
  setDword_memOk _ _ (chargeLine_memOk _ h)

theorem setPageEntry_memOk {s : State} (page e : Nat) (h : State.memOk s) : State.memOk (setPageEntry s page e) :=
  putEntry_memOk _ _ h

theorem zeroFrame_memOk {s : State} (u f : Nat) (h : State.memOk s) : State.memOk (zeroFrame s u f) :=
  ⟨Memory.filter_wf _ h.1, h.2.1, h.2.2⟩

theorem zeroPage_memOk {s : State} (u f : Nat) (big : Bool) (h : State.memOk s) : State.memOk (zeroPage u f big s) := by
  unfold zeroPage
  apply chargeLines_memOk
  generalize List.range (pageSpan big) = l
  induction l generalizing s with
  | nil => exact h
  | cons i l ih => exact ih (zeroFrame_memOk u (f + i) h)

/-- Counting errors touches no memory. -/
theorem countUe_memOk {s : State} (u n : Nat) (h : State.memOk s) : State.memOk (countUe u n s) := by
  unfold countUe
  split
  · exact h
  · exact State.memOk_of_eq h rfl rfl rfl

theorem senseDram_memOk {s : State} (lo n : Nat) (h : State.memOk s) : State.memOk (senseDram lo n s) := by
  unfold senseDram
  generalize s.dramFlips.filter _ = l
  induction l generalizing s with
  | nil => exact h
  | cons e l ih =>
    apply ih
    dsimp only
    split
    · exact countUe_memOk _ _ (State.memOk_of_eq h rfl rfl rfl)
    · exact State.memOk_of_eq h rfl rfl rfl

theorem senseSram_memOk {s : State} (g n : Nat) (h : State.memOk s) : State.memOk (senseSram g n s) := by
  unfold senseSram
  dsimp only
  split
  · exact h
  · exact State.memOk_of_eq h rfl rfl rfl

/-- Bytes written one at a time keep the canonical form. -/
theorem writes_wf {m : Table Byte} (l : List (Nat × Byte)) (k : Nat × Byte → Nat) (h : Memory.wf m = true) :
    Memory.wf (l.foldl (fun m e => Memory.write m (k e) e.2) m) = true := by
  induction l generalizing m with
  | nil => exact h
  | cons e l ih => exact ih (Memory.write_wf _ _ h)

theorem copyPage_memOk {s : State} (u f v g : Nat) (big : Bool) (h : State.memOk s) : State.memOk (copyPage u f v g big s) :=
  have z := zeroPage_memOk v g big (senseDram_memOk (unitKey u (f * 2 ^ 16)) (pageSpan big * 2 ^ 16)
    (countUe_memOk u (s.dramPoison.filter fun e => decide (unitKey u (f * 2 ^ 16) ≤ e)
      && decide (e < unitKey u (f * 2 ^ 16) + pageSpan big * 2 ^ 16)).length (chargeLines_memOk u (512 * pageSpan big) h)))
  ⟨writes_wf _ (fun e => unitKey v (g * 2 ^ 16) + (e.1 - unitKey u (f * 2 ^ 16))) z.1, z.2.1, z.2.2⟩

theorem setLeaf_memOk {s : State} (page e : Nat) (h : State.memOk s) : State.memOk (setLeaf s page e) := by
  unfold setLeaf
  generalize List.replicate 256 (0 : Byte) = z
  apply setPageEntry_memOk
  split
  · exact h
  · refine putEntry_memOk _ _ (And.intro ?_ h.2)
    exact Memory.store_wf _ _ h.1

theorem setUnitLine_memOk {s : State} (u off : Nat) (bs : List Byte) (p : BitVec 8) (h : State.memOk s) :
    State.memOk (setUnitLine s u off bs p) := ⟨Memory.store_wf _ _ h.1, h.2.1, h.2.2⟩

theorem sensePartial_memOk {s : State} (g h : Nat) (k : State.memOk s) : State.memOk (sensePartial g h s) := by
  have a : State.memOk (if g % 16 = 0 ∧ g / 16 * 16 + 16 ≤ h then s else senseSram (g / 16 * 16) 16 s) := by
    split
    · exact k
    · exact senseSram_memOk _ _ k
  unfold sensePartial
  dsimp only
  generalize (if g % 16 = 0 ∧ g / 16 * 16 + 16 ≤ h then s else senseSram (g / 16 * 16) 16 s) = t at a
  split
  · exact a
  · exact senseSram_memOk _ _ a

theorem writeSram_memOk {s : State} (g : Nat) (bs : List Byte) (h : State.memOk s) : State.memOk (writeSram s g bs) := by
  unfold writeSram
  split
  · exact h
  · have k := sensePartial_memOk g (g + bs.length) h
    dsimp only
    generalize sensePartial g (g + bs.length) s = t at k
    have m : Memory.wf (Memory.store t.sram g bs) = true := Memory.store_wf _ _ k.2.1
    generalize Memory.store t.sram g bs = r at m
    split
    · exact ⟨k.1, m, k.2.2⟩
    · exact State.memOk_of_eq (s := { t with sram := r }) ⟨k.1, m, k.2.2⟩ rfl rfl rfl

theorem takeWindow_memOk {s : State} (core base n ctx swz : Nat) (h : State.memOk s) :
    State.memOk (takeWindow core base n ctx swz s) := ⟨h.1, Memory.filter_wf _ h.2.1, h.2.2⟩

theorem writeRecords_wf {m : Table Byte} (die : Nat) (rs : List FaultRec) (head seq : Nat) (h : Memory.wf m = true) :
    Memory.wf (writeRecords die rs head seq m) = true := by
  induction rs generalizing m head seq with
  | nil => exact h
  | cons r rs ih => exact ih _ _ (Memory.store_wf _ _ h)

/-- A notice that enters the queue keeps the memories canonical. -/
theorem noticePost_memOk {s t : State} (h : State.memOk s) (e : execNoticePost s = .next t) : State.memOk t := by
  unfold execNoticePost at e
  split at e
  · cases e; exact h
  · split at e
    · cases e; exact h
    · cases e; exact ⟨h.1, h.2.1, Memory.store_wf _ _ h.2.2⟩

end Sys2Proof.Machine
end

