-- ==== Sys2Proof/Tests/Slice0.lean ====
section
/-!
SUPPORT. Tests of the model: terms that no word encodes, words of the spec, and a witness of the hypotheses of every
statement (clause by clause).
-/
open Sys2Proof Sys2Proof.Forms Sys2Proof.Machine

namespace Sys2Proof.Tests

/-- The guard that every lane passes where c7 is 0. -/
def g7 : Guard := ⟨false, 7⟩

/-! ## Terms that no word encodes (R43 rule 5, R45): the register rules and the reserved values of each operand form -/

def illScalar : List Instr :=
  [.smov ⟨.w64, 1, 2⟩, .smov ⟨.w64, 2, 3⟩, .sdivS ⟨.i64, 1, 2⟩, .sshlS ⟨.w64, 3, 2⟩, .saddSR ⟨g7, .w64, 2, 4, 5⟩,
   .sremSR ⟨g7, .n64, 2, 5, 6⟩, .sshrSR ⟨g7, .w64, 2, 5, 7⟩, .sandSI ⟨g7, .n64, 3, 4, 0⟩, .ssraSI ⟨g7, .i32, 2, 4, 32⟩,
   .ssraSI ⟨g7, .i64, 2, 4, 64⟩, .sldc ⟨g7, .w64, 9, 4, 0⟩, .srdlane ⟨g7, .w64, 8, 1, 3⟩, .srdlane ⟨g7, .w64, 9, 1, 2⟩,
   .srd ⟨527, 2⟩, .srd ⟨519, 3⟩, .swr ⟨512, 2⟩, .swr ⟨1023, 2⟩]

def illInteger : List Instr :=
  [.iaddV ⟨.i64, 1, 2, 4⟩, .iaddV ⟨.i64, 2, 3, 4⟩, .iaddV ⟨.i64, 2, 4, 5⟩, .movV ⟨.w64, 1, 2⟩, .movVR ⟨g7, .w64, 2, 3⟩,
   .vmovs ⟨g7, .w64, 2, 5⟩, .iaddVR ⟨g7, .i64, false, 2, 4, .sca 7⟩, .iaddVI ⟨g7, .n64, false, 3, 4, 0⟩,
   .iaddc ⟨g7, .i64, 2, 4, .vec 5, 0⟩, .imulhVR ⟨g7, .i64, 2, 5, .vec 6⟩, .imad ⟨g7, .i64, false, 2, 4, .vec 6, 7⟩,
   .iminVI ⟨g7, .i64, 3, 4, 0⟩, .iabsV ⟨.i64, 2, 3⟩, .iabsVR ⟨g7, .i64, false, 3, 4⟩, .isad ⟨g7, .n64, 2, 4, .sca 6, 9⟩,
   .icmpVR ⟨g7, .i64, .lt, 0, 3, .vec 4⟩, .icmpVR ⟨g7, .i64, .lt, 0, 2, .vec 5⟩, .icmpVI ⟨g7, .n64, .lt, 0, 5, 1⟩,
   .isel ⟨g7, .w64, 2, 4, .sca 7, ⟨false, 0⟩⟩, .shlV ⟨.w64, 3, 4, 5⟩, .shrVR ⟨g7, .w64, 2, 5, .vec 7⟩,
   .sraVI ⟨g7, .w32, 2, 4, 32⟩, .rotVI ⟨g7, .w64, 2, 4, 64⟩, .lmux ⟨g7, .w64, 2, 4, .vec 6, 7, 0, 0⟩,
   .bfx ⟨g7, .i32, 2, 4, 32, 1⟩, .bfx ⟨g7, .i32, 2, 4, 0, 33⟩, .bfi ⟨g7, .w64, 2, 4, 5, 0, 1⟩, .popcV ⟨.w64, 1, 3⟩,
   .clzVR ⟨g7, .w64, 1, 3⟩, .brevV ⟨.w64, 3, 4⟩]

def illFloat : List Instr :=
  [.faddV ⟨.f64, 2, 3, 4⟩, .faddVR ⟨g7, .f64, .rn, false, 2, 4, .vec 5⟩, .fma ⟨g7, .f64, .rn, false, 2, 4, .vec 6, 7⟩,
   .fminVR ⟨g7, .f64, 3, 4, .vec 6⟩, .fcmp ⟨g7, .f64, .lt, 0, 3, .vec 4⟩, .fsel ⟨g7, .f64, .lt, 2, 4, .vec 6, 7⟩,
   .fclass ⟨g7, .f64, 0, 3, 0⟩, .frndV ⟨.f64, 2, 3⟩, .frndVR ⟨g7, .f32, .sr, 2, 3⟩, .cvt ⟨g7, .sr, false, .f16, .f32, 1, 2⟩,
   .cvt ⟨g7, .rn, false, .f32, .f32, 1, 2⟩, .cvt ⟨g7, .rn, false, .e8m0, .f16, 1, 2⟩, .cvt ⟨g7, .rn, false, .f16, .e8m0, 1, 2⟩,
   .cvt ⟨g7, .rn, true, .i32, .f32, 1, 2⟩, .cvt ⟨g7, .rn, false, .f64, .f32, 1, 2⟩, .cvt ⟨g7, .rn, false, .f32, .f64, 2, 3⟩,
   .cvtsr ⟨g7, false, .f64, .f32, 2, 3⟩, .cvtsr ⟨g7, false, .f16, .bf16, 2, 3⟩, .pack ⟨g7, .rn, false, .i32, .i32, 1, 2, .vec 3⟩,
   .pack ⟨g7, .rz, false, .i8, .i32, 1, 2, .vec 3⟩, .pack ⟨g7, .rn, true, .i8, .i32, 1, 2, .vec 3⟩,
   .unpack ⟨g7, 2, .f32, .f16, 1, 2⟩, .unpack ⟨g7, 0, .f64, .f16, 2, 2⟩, .rcpVR ⟨g7, .sr, 1, 2⟩]

def illCross : List Instr :=
  [.xpullV ⟨.w64, 1, 2, 3⟩, .xpullVR ⟨g7, .w64, 2, 3, .vec 5⟩, .xpush ⟨g7, .w64, 3, 2, .vec 5, 0⟩, .xbcastVR ⟨g7, .w64, 2, 3, 1⟩,
   .xbcastVI ⟨g7, .w64, 3, 2, 0⟩, .xballot ⟨g7, 3, ⟨false, 0⟩⟩, .xpfx ⟨g7, .i64, .add, false, 2, 3⟩, .krnd ⟨g7, .f32, .sr, 1⟩,
   .kscan ⟨g7, .f32, .sr, false, 1, 2⟩, .ksave ⟨g7, 8⟩, .kload ⟨g7, 17⟩]

def illMemory : List Instr :=
  [.ldNarrow ⟨g7, .i8, .band, .rel, none, 0, 1, 2, 4⟩, .ldNarrow ⟨g7, .i8, .band, .rlx, none, 0, 1, 3, 4⟩,
   .ldNarrow ⟨g7, .i8, .band, .rlx, none, 0, 1, 2, 5⟩, .ldWide ⟨g7, .b64, .band, .ar, none, 0, 2, 2, 4⟩,
   .ldWide ⟨g7, .b128, .band, .rlx, none, 0, 2, 2, 4⟩, .stNarrow ⟨g7, .b32, .band, .acq, none, 0, 1, 2, 4⟩,
   .stNarrow ⟨g7, .b64, .band, .rlx, none, 0, 1, 2, 4⟩, .stB128 ⟨g7, (), .band, .rlx, none, 0, 2, 2, 4⟩,
   .ldsNarrow ⟨g7, .i8, .fab, .rlx, none, 0, 1, 2, 4⟩, .ldsWide ⟨g7, .b64, .band, .rlx, none, 0, 1, 2, 4⟩,
   .stsNarrow ⟨g7, .b64, .band, .rlx, none, 0, 3, 2, 4⟩, .stsB128 ⟨g7, (), .fab, .rlx, none, 0, 4, 2, 4⟩,
   .atom ⟨g7, .add, .b128, false, .dev, .rlx, none, 4, 2, 4, 6⟩, .atom ⟨g7, .and, .b32, true, .dev, .rlx, none, 1, 2, 3, 4⟩,
   .atom ⟨g7, .cas, .b64, false, .dev, .rlx, none, 2, 2, 6, 4⟩, .atom ⟨g7, .fadd, .b32, true, .dev, .rlx, none, 1, 2, 3, 4⟩,
   .red ⟨g7, .add, .b32, false, .dev, .acq, none, 0, 2, 3, 4⟩, .red ⟨g7, .add, .b32, false, .dev, .rlx, none, 1, 2, 3, 4⟩,
   .red ⟨g7, .exch, .b32, false, .dev, .rlx, none, 0, 2, 3, 4⟩, .atomr ⟨g7, .add, .b32, false, .dev, .rlx, none, 1, 2, 3, 4⟩,
   .ldr ⟨g7, .b32, .dev, .rlx, none, 0, 1, 2, 4⟩, .str ⟨g7, .b32, .fab, .rlx, none, 0, 1, 2, 4⟩,
   .strStrm ⟨g7, .b32, .fab, .acq, some 0, 0, 1, 2, 4⟩, .pref ⟨g7, .l1, .team, none, 0, 2, 4⟩, .prefb ⟨g7, 0, 3, 1, 4⟩,
   .cflush ⟨g7, .l2, .dev, none, 0, 2, 5⟩, .cinv ⟨g7, .l2, .band, none, 0, 2, 4⟩, .cinv ⟨g7, .l1, .dev, none, 0, 2, 4⟩,
   .gcvt ⟨g7, .glb, false, 3, 2, 4⟩, .gtest ⟨g7, .glb, false, 1, 3, 4⟩]

def illRest : List Instr :=
  [.tld ⟨g7, false, .band, .rel, none, 0, 2, 4⟩, .tld ⟨g7, false, .band, .rlx, none, 0, 3, 4⟩,
   .tst ⟨g7, true, .band, .rlx, none, 0, 2, 4⟩, .cpy ⟨g7, none, 0, 3, 2, 4⟩, .cpys ⟨g7, some .dev, 0, 2, 4, 6⟩,
   .cfill ⟨g7, none, 0, 3, 2, 4⟩, .pkstat ⟨g7, some .dev, 0, 2, 4⟩, .spawn ⟨g7, none, 4⟩, .take ⟨g7, none, 12⟩,
   .launch ⟨g7, none, 3, 4⟩, .cbset ⟨g7, none, 3, 4⟩, .cbwait ⟨g7, none, 3, 4, 5⟩, .jmpx ⟨g7, 3⟩, .jtab ⟨g7, 1, 3, 4⟩,
   .jtab ⟨g7, 1, 4, 0⟩, .call ⟨g7, 3, 0⟩, .callx ⟨g7, 126⟩, .ret ⟨g7, 1⟩, .waita ⟨g7, none, 2, 0⟩, .tmarm ⟨g7, true, 2⟩,
   .tmarm ⟨g7, false, 3⟩, .pwint ⟨g7, true, 2⟩, .fragq ⟨g7, 3⟩, .teamPlace]

theorem test_illformed_scalar : (illScalar.all fun i => !wellFormed i) = true := by decide
theorem test_illformed_integer : (illInteger.all fun i => !wellFormed i) = true := by decide
theorem test_illformed_float : (illFloat.all fun i => !wellFormed i) = true := by decide
theorem test_illformed_cross : (illCross.all fun i => !wellFormed i) = true := by decide
theorem test_illformed_memory : (illMemory.all fun i => !wellFormed i) = true := by decide
theorem test_illformed_rest : (illRest.all fun i => !wellFormed i) = true := by decide

/-! ## Words of the spec (R42, R44 and the encoding tables and examples of the chapters), one or more for each family -/

theorem test_decode_scalar :
    decode 0x1400080F 0 = .ok (.smovt ⟨2, 15⟩) ∧ decode 0x12C04016 0x5C000010 = .ok (.sldc ⟨g7, .w64, 16, 22, 0x10⟩)
      ∧ decode 0x15006609 0 = .ok (.srd ⟨521, 25⟩) := by decide
theorem test_decode_vector :
    decode 0x23C28200 0x2860000C = .ok (.iaddVR ⟨⟨true, 2⟩, .i64, true, 10, 4, .sca 12⟩)
      ∧ decode 0x3480C082 0x1F901400 = .ok (.lmux ⟨g7, .w32, 3, 1, .vec 2, 5, 0xE, 0x8⟩)
      ∧ decode 0x22A10000 0x1C000020 = .ok (.vmovs ⟨g7, .w64, 4, 32⟩) := by decide
theorem test_decode_float : decode 0x43820100 0x04E01428 = .ok (.fma ⟨⟨false, 1⟩, .f32, .rz, true, 8, 2, .sca 40, 5⟩) := by decide
theorem test_decode_memory :
    decode 0x71A28200 0x89A82014 = .ok (.ldWide ⟨⟨false, 2⟩, .b64, .dev, .acq, some 2, 8, 10, 4, 20⟩)
      ∧ decode 0x78820109 0xA5E80004 = .ok (.atom ⟨⟨true, 1⟩, .add, .b32, false, .dev, .ar, some 2, 8, 2, 9, 4⟩)
      ∧ decode 0x77810600 0x9C1C0017 = .ok (.stsB128 ⟨g7, (), .band, .rlx, none, 0, 4, 12, 23⟩)
      ∧ decode 0x7F800108 0x9C1C000C = .ok (.prefb ⟨g7, 0, 2, 8, 12⟩)
      ∧ decode 0x82828600 0x9C1DC018 = .ok (.gcvt ⟨g7, .glb, true, 10, 12, 24⟩) := by decide
theorem test_decode_tile :
    decode 0x90928008 0x88A4000C = .ok (.tld ⟨⟨false, 2⟩, true, .team, .acq, some 1, 5, 8, 12⟩)
      ∧ decode 0x91801026 0x9C1C0014 = .ok (.tst ⟨g7, false, .band, .rlx, none, 4, 38, 20⟩)
      ∧ decode 0x92020000 0 = .ok (.tzero ⟨4⟩) ∧ decode 0x94000028 0 = .ok (.mma ⟨40⟩)
      ∧ decode 0x98038029 0 = .ok (.ard ⟨7, 41⟩) ∧ decode 0x9A000002 0 = .ok (.mreset ⟨2⟩) := by decide
theorem test_decode_engine :
    decode 0xA0800004 0xC000600E = .ok (.cpy ⟨g7, none, 0, 0, 4, 6⟩)
      ∧ decode 0xB0802009 0xC040000E = .ok (.pkload ⟨g7, none, 1, 8, 9⟩)
      ∧ decode 0xB190300B 0xCC40000E = .ok (.pkq ⟨g7, some .team, 1, 12, 11⟩)
      ∧ decode 0xB8800000 0xC1C0020E = .ok (.spawn ⟨g7, none, 16⟩) ∧ decode 0xB9800000 0xC040030E = .ok (.take ⟨g7, some 1, 24⟩)
      ∧ decode 0xBA805016 0xC0C0000E = .ok (.launch ⟨g7, some 3, 20, 22⟩)
      ∧ decode 0xBB801809 0xC1C0000E = .ok (.cbset ⟨g7, none, 6, 9⟩)
      ∧ decode 0xBC801809 0xC080A00E = .ok (.cbwait ⟨g7, some 2, 6, 9, 10⟩) := by decide
theorem test_decode_control :
    decode 0xCD070000 0 = .ok (.bar ⟨g7, .arrive, 0⟩) ∧ decode 0xCD170005 0 = .ok (.bar ⟨g7, .wait, 5⟩)
      ∧ decode 0xCE870002 0xC1C09000 = .ok (.barset ⟨g7, 2, 9⟩) ∧ decode 0xCF870001 0xC1C0C000 = .ok (.pharr ⟨g7, 12, true⟩)
      ∧ decode 0xD0870000 0xC1C0C000 = .ok (.phwait ⟨g7, 12, false⟩) ∧ decode 0xD2070003 0 = .ok (.dwait ⟨g7, 3⟩)
      ∧ decode 0xCB070000 0 = .ok (.nop ⟨g7⟩) ∧ decode 0xCC070000 0 = .ok (.yield ⟨g7⟩) := by decide
theorem test_decode_system :
    decode 0xE0070007 0 = .ok (.trap ⟨g7, 7⟩) ∧ decode 0xE1070000 0 = .ok (.brk ⟨g7, 0⟩) ∧ decode 0xE2070001 0 = .ok (.ecall ⟨g7, true⟩)
      ∧ decode 0xE3070003 0 = .ok (.phint ⟨g7, 3⟩) ∧ decode 0xE4870000 0xC1C14000 = .ok (.tmarm ⟨g7, false, 20⟩)
      ∧ decode 0xE6870000 0xC1C0C000 = .ok (.pwint ⟨g7, false, 12⟩) ∧ decode 0xE6970000 0xC1C00000 = .ok (.pwint ⟨g7, true, 0⟩)
      ∧ decode 0xE7170000 0 = .ok (.shadow ⟨g7, true⟩) ∧ decode 0xE7070000 0 = .ok (.shadow ⟨g7, false⟩)
      ∧ decode 0xE8870000 0xC1C1E000 = .ok (.fragq ⟨g7, 30⟩) := by decide
/-- R43 rules 1, 2, 3: no opcode, a long form without one, and a layout that the opcode does not have. -/
theorem test_decode_refused :
    (∃ e, decode 0 0 = .error e) ∧ (∃ e, decode 0xF0000000 0 = .error e) ∧ (∃ e, decode 0xCD870000 0 = .error e)
      ∧ (∃ e, decode 0xA0000004 0 = .error e) ∧ (∃ e, decode 0xA0800004 0x0000600E = .error e) :=
  ⟨⟨_, rfl⟩, ⟨_, rfl⟩, ⟨_, rfl⟩, ⟨_, rfl⟩, ⟨_, rfl⟩⟩

/-! ## Witnesses: each statement's hypotheses hold together of a state and operands -/

/-- The machine whose next step fetches the words `w0`, `w1`. -/
def ofWords (w : Nat × Nat) : State := State.reset.withFetchWord 64 (w.1 + 2 ^ 32 * w.2)

/-- The machine whose next step fetches `i`. -/
def placed (i : Instr) : State :=
  match encodeWords i with
  | some (w0, w1) => ofWords (w0, w1.getD 0)
  | none => State.reset

/-- `Goes` as a test, with a condition on the issue. -/
def goesWith (p : State → Issue → Ix → Bool) (i : Instr) (own : Own) (s : State) : Bool :=
  match s.issue with
  | none => false
  | some iss =>
    match indexOf s iss.band iss.grp (uses i).g with
    | none => false
    | some x =>
      !heldUp i x s && !extraHold i x s && x.act.all (fun l => (causeOf i own x s l).isNone)
        && (mismatched i (uses i) iss (opcodeOf i) x.act).isEmpty && !x.act.isEmpty && p s iss x

/-- A true test names an issue at which the hypotheses hold. -/
theorem goes_of {p : State → Issue → Ix → Bool} {i : Instr} {own : Own} {s : State} (h : goesWith p i own s = true) :
    ∃ iss x, Goes i own s iss x ∧ p s iss x = true := by
  unfold goesWith at h
  split at h
  · cases h
  · rename_i iss hiss
    split at h
    · cases h
    · rename_i x hx
      simp only [Bool.and_eq_true, Bool.not_eq_true', List.all_eq_true, Option.isNone_iff_eq_none] at h
      exact ⟨iss, x, ⟨hiss, hx, h.1.1.1.1.1, h.1.1.1.1.2, h.1.1.1.2, by simpa using h.1.1.2, by simpa using h.1.2⟩, h.2⟩

/-- The first issue of the instruction, whole. -/
def plain : State → Issue → Ix → Bool := fun _ iss x => x.replay.isNone && !iss.reeval

/-- Every word of a list decodes to an instruction of a family, and that instruction acts at its issue. -/
def allGo (form : Instr → Option Own) (ws : List (Nat × Nat)) : Bool :=
  ws.all fun w => match decode w.1 w.2 with
    | .ok i => match form i with
      | some own => goesWith plain i own (ofWords w)
      | none => false
    | .error _ => false

/-- One word for each instruction of ScalarResults. -/
def scalarWords1 : List (Nat × Nat) :=
  [(0x0301DF8A, 0x00000000), (0x03800000, 0x5C00C5E6), (0x03800DCF, 0x1C000000), (0x09004000, 0x00000000),
   (0x09824800, 0x5C010005), (0x0983CA7E, 0x1C000135), (0x0F07E7E7, 0x00000000), (0x0FC60000, 0x5C000000),
   (0x0F800A51, 0x1C0003F8), (0x10000004, 0x00000000), (0x10D00000, 0x5C000000), (0x10C428F6, 0x1C000000),
   (0x07001C00, 0x00000000), (0x07800000, 0x5C000000), (0x07800000, 0x1C000190), (0x0100030C, 0x00000000),
   (0x02800000, 0x5C008603), (0x05000000, 0x00000000), (0x05800000, 0x5C00FF2A), (0x05800000, 0x1C000000),
   (0x06073400, 0x00000000), (0x06800000, 0x1C000000), (0x0A0EF336, 0x00000000), (0x0A80001F, 0x5C000000),
   (0x0A801000, 0x1C000000), (0x13C00000, 0x1C002800), (0x08001400, 0x00000000), (0x08800000, 0x5C000004),
   (0x08839800, 0x1C000000), (0x118008EC, 0x1C000000)]
/-- More of them. -/
def scalarWords2 : List (Nat × Nat) :=
  [(0x0C000000, 0x00000000), (0x0C800000, 0x5C000000), (0x0C800000, 0x1C000000), (0x0D04E392, 0x00000000),
   (0x0D8BD10C, 0x5C010000), (0x0D800005, 0x1C0000BE), (0x0E0259AB, 0x00000000), (0x0E800000, 0x5C000000),
   (0x0E8A2800, 0x1C000000), (0x040003AA, 0x00000000), (0x04CF20C6, 0x5C00A90E), (0x04800090, 0x1C000000),
   (0x0B401800, 0x00000000), (0x0B8B2C00, 0x5C000000), (0x0B801800, 0x1C000001)]
theorem witness_ScalarResults1 : allGo (fun i => (scalarValue i).map fun _ => noCause) scalarWords1 = true := by decide
theorem witness_ScalarResults2 : allGo (fun i => (scalarValue i).map fun _ => noCause) scalarWords2 = true := by decide

/-- One word for each instruction of VectorResults. -/
def vectorWords1 : List (Nat × Nat) :=
  [(0x36BB8000, 0x5C000000), (0x35800000, 0x5C000000), (0x39018000, 0x00000000), (0x39801300, 0x1C000000),
   (0x3A972E92, 0x5C00D414), (0x38000000, 0x00000000), (0x38800000, 0x1C000000), (0x45000100, 0x00000000),
   (0x45800E80, 0x1C000000), (0x44000200, 0x00000000), (0x44860180, 0x1C20010E), (0x47800070, 0x1C060000),
   (0x2B1A8000, 0x00000000), (0x2B800000, 0x1C000000), (0x231EA001, 0x00000000), (0x23810000, 0x5C000000),
   (0x23890000, 0x1C400000), (0x28800000, 0x1C200000), (0x2A180000, 0x00000000), (0x2AE00A00, 0x5C000003),
   (0x2A803180, 0x1C200000), (0x29400000, 0x00000000), (0x29800180, 0x5C006CA8), (0x29A00000, 0x1C000000),
   (0x26418238, 0x00000000), (0x26819600, 0x5C401B71), (0x26E00040, 0x1C000000), (0x270DF43F, 0x00000000),
   (0x27800001, 0x1C000000), (0x2C400000, 0x00000000)]
/-- More of them. -/
def vectorWords2 : List (Nat × Nat) :=
  [(0x2C808280, 0x1C000000), (0x2D8E0000, 0x1C20C9D3), (0x2F800068, 0x1C000000), (0x25000000, 0x00000000),
   (0x25800000, 0x5C400000), (0x25800000, 0x1C400000), (0x34809681, 0x1D000000), (0x20000000, 0x00000000),
   (0x20800000, 0x1C000000), (0x2199C000, 0x5C008667), (0x3736C000, 0x00000000), (0x379A8000, 0x1C000000),
   (0x33004000, 0x00000000), (0x338FC000, 0x5C000000), (0x33A00000, 0x1C000000), (0x300C404A, 0x00000000),
   (0x30800280, 0x5C000000), (0x30800000, 0x1C000000), (0x31002EB4, 0x00000000), (0x31800000, 0x5C000000),
   (0x31960000, 0x1C000000), (0x32000000, 0x00000000), (0x328C2500, 0x5C000000), (0x329DC216, 0x1C000000),
   (0x2281C000, 0x1C000005), (0x62942800, 0x5C000000), (0x62800000, 0x1C200004), (0x60308005, 0x00000000),
   (0x60800205, 0x1C000000)]
theorem witness_VectorResults1 : allGo (fun i => (vectorValue i).map fun _ => noCause) vectorWords1 = true := by decide
theorem witness_VectorResults2 : allGo (fun i => (vectorValue i).map fun _ => noCause) vectorWords2 = true := by decide

/-- One word for each instruction of ConditionResults but IADDC. -/
def condWords : List (Nat × Nat) :=
  [(0x48800000, 0x5C000000), (0x46801C85, 0x1C000000), (0x2EA14000, 0x5C004F39), (0x2E800000, 0x1C040000),
   (0x65800000, 0x1C000000), (0x6480C000, 0x1C000000)]
theorem witness_ConditionResults : allGo (fun i => (condValue i).map fun _ => noCause) condWords = true := by decide

/-- One word for each instruction of RoundedResults but CVTSR and PACK. -/
def roundedWords : List (Nat × Nat) :=
  [(0x4A9E8300, 0x1C003000), (0x4000005C, 0x00000000), (0x40E00000, 0x1C000000), (0x43800028, 0x1C014800),
   (0x4200C3E0, 0x00000000), (0x42800055, 0x1C000000), (0x49400000, 0x00000000), (0x49800000, 0x1D000000),
   (0x414039CF, 0x00000000), (0x41800000, 0x1D000000), (0x4D800000, 0x1C040000)]
theorem witness_RoundedResults : allGo (fun i => (roundedValue i).map fun _ => noCause) roundedWords = true := by decide

/-- One word for each special function. -/
def sfuWords : List (Nat × Nat) :=
  [(0x51000180, 0x00000000), (0x51801B00, 0x1C000000), (0x52028000, 0x00000000), (0x52800280, 0x1C000000),
   (0x4E000300, 0x00000000), (0x4E800000, 0x1C000000), (0x4F000300, 0x00000000), (0x4F814000, 0x1C000000),
   (0x50008000, 0x00000000), (0x508C0180, 0x1D800000)]
theorem witness_SpecialFunctions : allGo (fun i => (sfuForm i).map fun _ => noCause) sfuWords = true := by decide

/-- One word for each load, store, atomic and reduction. -/
def memWords : List (Nat × Nat) :=
  [(0x78814239, 0xA16C00C4), (0x70810000, 0xB000013E), (0x71801400, 0xB8080004), (0x74800000, 0xAC00A44C),
   (0x75C01E00, 0xB8001400), (0x79801479, 0x9C400208), (0x73802300, 0xA2000000), (0x72800100, 0xB0000000),
   (0x77971580, 0x9C1C1C02), (0x76814000, 0xA0881C00)]
theorem witness_AccessesIssue : allGo (fun i => (memForm i).map fun f => accessCause f.acc true f.addr f.size) memWords = true := by decide

/-- One word for each copy instruction. -/
def copyWords : List (Nat × Nat) :=
  [(0xA58F2800, 0xC0B7201C), (0xA08DE800, 0xC100000E), (0xA180008A, 0xC0D9E01A), (0xA38B6800, 0xC009C00E),
   (0xA48C3004, 0xC022200E), (0xA2800000, 0xC000000E)]
theorem witness_EnginePosts_copy : allGo (fun i => (copyKind i).map fun k => copyCause k.1 k.2) copyWords = true := by decide

/-- One word for each Encke instruction. -/
def enckeWords : List (Nat × Nat) :=
  [(0xB0801C06, 0xC000000E), (0xB1891C00, 0xC000001C), (0xB38EF000, 0xC000000E), (0xB280005A, 0xC0800018)]
theorem witness_EnginePosts_encke : allGo (fun i => (enckeKind i).map fun k => enckeCause k.1 k.2) enckeWords = true := by decide

/-- Changes of the placed machine's band, lanes, grid, core and context. -/
def withBand (f : Band → Band) (s : State) : State := State.modBand s 0 f
def withLanes (f : Lane → Lane) : State → State := withBand fun b => { b with lanes := b.lanes.map fun e => (e.1, f e.2) }
def withGrid (f : Grid → Grid) (s : State) : State := State.modGrid s 0 f
def withHdr (f : Header → Header) : State → State := withGrid fun g => { g with hdr := f g.hdr }
def withCore (f : Core → Core) (s : State) : State := State.modCore s 0 f
/-- Route 0 of the context holds a peer. -/
def withRoute (s : State) : State := State.modCtx s 1 fun c => { c with routes := [(0, 2 ^ 32)] }
/-- The team's accumulator 0 with a token. -/
def withToken (t : Token) : State → State := withCore fun c => { c with acc := [(0, ⟨t, [], 0⟩)] }

/-- The issue of a machine. -/
def ixOf (i : Instr) (s : State) : Option Ix :=
  match s.issue with
  | some iss => indexOf s iss.band iss.grp (uses i).g
  | none => none

/-- A log of a NOP, as a fragment keeps one. -/
def nopLog : Log := ⟨0xCB070000, 0, 0, 0x10000000, 0xFF, 0, [], [], [], false⟩
def nopFrag : Frag :=
  { band := 0, ctx := 1, late := false, state := .parked, lanes := 0xFF, pc := ⟨0x1000, 0⟩, nrec := 1, seq := 0, logNo := 0
    cont := none, log := nopLog, dc := none, uid := 0 }

theorem witness_ResultsOfReset : State.reset.issue = none ∧ State.reset.bands = [] := by decide
set_option maxRecDepth 20000 in
theorem witness_StepKeepsMemory : State.memOk (placed (.nop ⟨g7⟩)) ∧ ∃ t, step (placed (.nop ⟨g7⟩)) = .next t :=
  ⟨⟨by decide, by decide, by decide⟩, _, rfl⟩
theorem witness_DecodeEncode : wellFormed (.iaddVR ⟨⟨true, 2⟩, .i64, true, 10, 4, .sca 12⟩) = true := by decide
theorem witness_DecodeRejects : 0xF0 ≤ 0xF0000000 / 2 ^ 24 % 256 ∧ 0 / 2 ^ 24 % 256 = 0 ∧
    decode 0xCB070000 0 = .ok (.nop ⟨g7⟩) := by decide

theorem witness_StepRunsDecodedInstruction :
    ∃ (iss : Issue) (h : Band × Team × Grid), (placed (.nop ⟨g7⟩)).issue = some iss ∧ State.home (placed (.nop ⟨g7⟩)) iss.band = some h
      ∧ iss.grp.replay = none
      ∧ fetchWord (placed (.nop ⟨g7⟩)) (iss.band / 1024) h.2.2.ctx (iss.grp.pc.clause + 4 * (iss.grp.pc.slot + 1)) = .ok 0xCB070000
      ∧ slotsOf 0xCB070000 ≠ 2 ∧ decode 0xCB070000 0 = .ok (.nop ⟨g7⟩) :=
  ⟨_, _, rfl, rfl, rfl, by decide, by decide, by decide⟩
theorem witness_StepRunsDecodedInstruction_long :
    ∃ (iss : Issue) (h : Band × Team × Grid), (placed (.phwait ⟨g7, 12, false⟩)).issue = some iss
      ∧ State.home (placed (.phwait ⟨g7, 12, false⟩)) iss.band = some h ∧ iss.grp.replay = none
      ∧ fetchWord (placed (.phwait ⟨g7, 12, false⟩)) (iss.band / 1024) h.2.2.ctx (iss.grp.pc.clause + 4 * (iss.grp.pc.slot + 1)) = .ok 0xD0870000
      ∧ slotsOf 0xD0870000 = 2
      ∧ fetchWord (placed (.phwait ⟨g7, 12, false⟩)) (iss.band / 1024) h.2.2.ctx (iss.grp.pc.clause + 4 * (iss.grp.pc.slot + 1) + 4) = .ok 0xC1C0C000 :=
  ⟨_, _, rfl, rfl, rfl, by decide, by decide, by decide⟩
/-- A replay of the fragment in entry 0. -/
def replaying (s : State) : State :=
  { withCore (fun c => { c with frags := [(0, nopFrag)] }) s with
    issue := s.issue.map fun i => { i with grp := { i.grp with replay := some 0 } } }
theorem witness_StepRunsDecodedInstruction_replay :
    ∃ (iss : Issue) (h : Band × Team × Grid), (replaying (placed (.nop ⟨g7⟩))).issue = some iss
      ∧ State.home (replaying (placed (.nop ⟨g7⟩))) iss.band = some h ∧ iss.grp.replay = some 0
      ∧ Table.find 0 (State.core (replaying (placed (.nop ⟨g7⟩))) (iss.band / 64)).frags = some nopFrag
      ∧ decode nopFrag.log.w0 nopFrag.log.w1 = .ok (.nop ⟨g7⟩) := ⟨_, _, rfl, rfl, rfl, by decide, by decide⟩
theorem witness_StepRunsDecodedInstruction_due :
    ({ State.reset with agenda := [.calendarAdvance] } : State).issue = none
      ∧ ({ State.reset with agenda := [.calendarAdvance] } : State).agenda = .calendarAdvance :: [] := by decide
theorem witness_IllegalWord :
    ∃ (iss : Issue) (h : Band × Team × Grid) (r : Reject), (ofWords (0xF0000000, 0)).issue = some iss
      ∧ State.home (ofWords (0xF0000000, 0)) iss.band = some h ∧ iss.grp.replay = none
      ∧ fetchWord (ofWords (0xF0000000, 0)) (iss.band / 1024) h.2.2.ctx (iss.grp.pc.clause + 4 * (iss.grp.pc.slot + 1)) = .ok 0xF0000000
      ∧ slotsOf 0xF0000000 ≠ 2 ∧ decode 0xF0000000 0 = .error r := ⟨_, _, _, rfl, rfl, rfl, by decide, by decide, rfl⟩
/-- With GN = 1 and GC = 7 no lane is active. -/
theorem witness_GuardFalse :
    (ixOf (.nop ⟨⟨true, 7⟩⟩) (placed (.nop ⟨⟨true, 7⟩⟩))).any (fun x => x.act.isEmpty && !x.sel.isEmpty
      && !heldUp (.nop ⟨⟨true, 7⟩⟩) x (placed (.nop ⟨⟨true, 7⟩⟩)) && !extraHold (.nop ⟨⟨true, 7⟩⟩) x (placed (.nop ⟨⟨true, 7⟩⟩))) = true
      ∧ (encodeBody (.nop ⟨⟨true, 7⟩⟩)).isSome = true := by decide
/-- v5 awaits the result of operation 9. -/
def pending5 : State := withLanes (fun y => { y with pend := [(5, 9)] }) (placed (.movV ⟨.w32, 1, 5⟩))
theorem witness_HeldGroup : (ixOf (.movV ⟨.w32, 1, 5⟩) pending5).any (fun x => heldUp (.movV ⟨.w32, 1, 5⟩) x pending5) = true
    ∧ (encodeBody (.movV ⟨.w32, 1, 5⟩)).isSome = true := by decide
theorem witness_ConditionResults_iaddc : goesWith plain (.iaddc ⟨g7, .i32, 2, 4, .vec 5, 0⟩) noCause (placed (.iaddc ⟨g7, .i32, 2, 4, .vec 5, 0⟩)) = true := by
  decide

theorem witness_SpecialAndConstant_sldc :
    goesWith (fun _ _ x => x.act.all fun _ => ((x.s 22).toNat + 0x10) % 2 ^ 32 % 8 = 0) (.sldc ⟨g7, .w64, 16, 22, 0x10⟩) noCause
      (placed (.sldc ⟨g7, .w64, 16, 22, 0x10⟩)) = true := by decide
theorem witness_SpecialAndConstant_smovt : goesWith plain (.smovt ⟨2, 15⟩) noCause (placed (.smovt ⟨2, 15⟩)) = true := by decide
theorem witness_SpecialAndConstant_srd : goesWith plain (.srd ⟨521, 25⟩) noCause (placed (.srd ⟨521, 25⟩)) = true
    ∧ specReg 521 = some .tokq := by decide
/-- SWR of %fflags, %spflag and %lthresh in context 1, and of %cycles in context 0. -/
theorem witness_SpecialAndConstant_swr :
    ([524, 525, 526].all fun n => goesWith plain (.swr ⟨n, 2⟩) noCause (placed (.swr ⟨n, 2⟩))) = true
      ∧ goesWith (fun _ _ x => x.gr.ctx == 0) (.swr ⟨519, 2⟩) noCause (withGrid (fun g => { g with ctx := 0 }) (placed (.swr ⟨519, 2⟩))) = true
      ∧ specReg 524 = some .fflags ∧ specReg 525 = some .spflag ∧ specReg 526 = some .lthresh ∧ specReg 519 = some .cycles := by decide
theorem witness_RoundedResults_cvtsr : (roundedValue (.cvtsr ⟨g7, false, .f16, .f32, 1, 2⟩)).isSome = true
    ∧ goesWith plain (.cvtsr ⟨g7, false, .f16, .f32, 1, 2⟩) noCause (placed (.cvtsr ⟨g7, false, .f16, .f32, 1, 2⟩)) = true := by decide
theorem witness_RoundedResults_pack : goesWith plain (.pack ⟨g7, .sr, false, .f16, .f32, 1, 2, .vec 3⟩) noCause
    (placed (.pack ⟨g7, .sr, false, .f16, .f32, 1, 2, .vec 3⟩)) = true := by decide
theorem witness_SpecialFunctions_srng :
    goesWith plain (.srngV 3) noCause (placed (.srngV 3)) = true
      ∧ goesWith plain (.srngVR ⟨g7, 3, .sca 5⟩) noCause (placed (.srngVR ⟨g7, 3, .sca 5⟩)) = true := by decide
theorem witness_CrossLane :
    goesWith plain (.xpush ⟨g7, .w64, 8, 2, .vec 5, 0⟩) noCause (placed (.xpush ⟨g7, .w64, 8, 2, .vec 5, 0⟩)) = true
      ∧ goesWith plain (.xballot ⟨g7, 20, ⟨true, 3⟩⟩) noCause (placed (.xballot ⟨g7, 20, ⟨true, 3⟩⟩)) = true
      ∧ goesWith plain (.xpfx ⟨g7, .n64, .min, true, 4, 2⟩) noCause (placed (.xpfx ⟨g7, .n64, .min, true, 4, 2⟩)) = true := by decide
theorem witness_ExactAccumulator :
    ([.kclr, .kaddV ⟨.bf16, 3⟩, .kaddVR ⟨g7, .f32, 3⟩, .krnd ⟨g7, .f32, .rz, 4⟩, .kscan ⟨g7, .f16, .rn, true, 4, 5⟩, .ksave ⟨g7, 16⟩,
      .kload ⟨g7, 32⟩].all fun i => goesWith plain i noCause (placed i)) = true := by decide

/-- The address of lane l is 2 × SS = 2: not a multiple of 4. -/
def oddLoad : Instr := .ldsWide ⟨g7, .b32, .band, .rlx, none, 0, 1, 2, 4⟩
theorem witness_AccessIssueFrame_misaligned :
    ((memForm oddLoad).any fun f => (ixOf oddLoad (withBand (fun b => { b with s := [(4, 2)] }) (placed oddLoad))).any fun x =>
      f.addr x 3 % f.size != 0 && !reservedReg (uses oddLoad) x) = true := by decide
def fabricInstrs : List Instr :=
  [.ldr ⟨g7, .b64, .fab, .acq, some 1, 0, 2, 4, 6⟩, .str ⟨g7, .b32, .fab, .rel, some 0, 0, 1, 4, 6⟩,
   .atomr ⟨g7, .add, .b32, false, .fab, .ar, none, 1, 4, 3, 6⟩]
theorem witness_FabricIssue : (fabricInstrs.all fun i => (fabricForm i).any fun f =>
    goesWith plain i (fabricCause f.addr f.size) (withRoute (placed i))) = true := by decide
theorem witness_StreamStore : ((fabricForm (.str ⟨g7, .b32, .fab, .rlx, some 0, 0, 1, 4, 6⟩)).any fun f =>
    goesWith plain (.strStrm ⟨g7, .b32, .fab, .rlx, some 0, 0, 1, 4, 6⟩) (fabricCause f.addr f.size)
      (withRoute (placed (.strStrm ⟨g7, .b32, .fab, .rlx, some 0, 0, 1, 4, 6⟩)))) = true := by decide
def lineOp (lvl : CLevel) (sc : Scope) : OpLine := ⟨g7, lvl, sc, none, 0, 2, 4⟩
theorem witness_CacheInstructions :
    goesWith plain (.cinv (lineOp .l1 .band)) (accessCause .load false (pairAddr 4 2 0) 128) (placed (.cinv (lineOp .l1 .band))) = true
      ∧ goesWith plain (.cflush (lineOp .l2 .dev)) (accessCause .load false (pairAddr 4 2 0) 128) (placed (.cflush (lineOp .l2 .dev))) = true
      ∧ goesWith (fun _ _ x => x.act.all fun l => pairAddr 4 2 0 x l % 128 == 0) (.pref (lineOp .l1 .band)) noCause
          (placed (.pref (lineOp .l1 .band))) = true
      ∧ goesWith (fun _ _ x => x.act.all fun l => pairAddr 12 2 0 x l % 128 == 0) (.prefb ⟨g7, 0, 2, 8, 12⟩) noCause
          (placed (.prefb ⟨g7, 0, 2, 8, 12⟩)) = true := by decide
theorem witness_AddressConversion :
    goesWith plain (.gcvt ⟨g7, .glb, false, 10, 12, 24⟩) noCause (placed (.gcvt ⟨g7, .glb, false, 10, 12, 24⟩)) = true
      ∧ goesWith plain (.gtest ⟨g7, .mem, true, 10, 12, 24⟩) noCause (placed (.gtest ⟨g7, .mem, true, 10, 12, 24⟩)) = true := by decide

/-! ### Tiles and accumulators -/

/-- Tile 4 has one row of 16 bytes. -/
def smallTile (s : State) : State := State.modTeam s 0 fun t => Team.modTile t 0 4 fun y => { y with shape := 0x10010 }
def tileOp : OpTileMem := ⟨g7, false, .dev, .rlx, some 0, 4, 38, 20⟩
set_option maxRecDepth 20000 in
theorem witness_TileTransfers_tld :
    goesWith (fun s _ x => (translatePages x false (tilePages tileOp x (beginReplay x s) permRd (capturedShape x 4)) (beginReplay x s)).2.1.isEmpty)
      (.tld tileOp) (tileCause tileOp false) (smallTile (placed (.tld tileOp))) = true := by decide
set_option maxRecDepth 20000 in
theorem witness_TileTransfers_tst :
    goesWith (fun s _ x => (translatePages x true (tilePages tileOp x (beginReplay x s) permWr (capturedShape x 4)) (beginReplay x s)).2.1.isEmpty)
      (.tst tileOp) (tileCause tileOp true) (smallTile (placed (.tst tileOp))) = true := by decide
theorem witness_TileTransfers_tzero : goesWith plain (.tzero ⟨4⟩) noCause (placed (.tzero ⟨4⟩)) = true := by decide
theorem witness_AccumulatorTokens :
    goesWith plain (.macq ⟨2⟩) (macqCause ⟨2⟩) (placed (.macq ⟨2⟩)) = true
      ∧ goesWith plain (.mrel ⟨2⟩) (mrelCause ⟨2⟩) (withToken (.held 0) (placed (.mrel ⟨2⟩))) = true
      ∧ goesWith plain (.tfmt ⟨2⟩) noCause (placed (.tfmt ⟨2⟩)) = true
      ∧ goesWith plain (.ard ⟨3, 2⟩) (fun x s _ => heldCause 2 true x s) (withToken (.held 0) (placed (.ard ⟨3, 2⟩))) = true
      ∧ goesWith plain (.awr ⟨3, 2⟩) (awrCause ⟨3, 2⟩) (withToken (.held 0) (placed (.awr ⟨3, 2⟩))) = true := by decide
/-- Scratch memory for a parameter block, and accumulator 0 held. -/
def mmaState : State := withHdr (fun h => { h with scratch := 0x1000 }) (withToken (.held 0) (placed (.mma ⟨40⟩)))
def mxOp0 : MxOp :=
  { team := 0, band := 0, ctx := 1, acc := 0, block := List.replicate 64 0, addr := 0, fmt := 0, shapes := [0, 0, 0, 0]
    tiles := [], count := 32, pw := 0, checked := false }
/-- Accumulator 0 lent to an operation in the queue of unit 0. -/
def lentState (s : State) : State :=
  withCore (fun c => { c with acc := [(0, ⟨.lent 0 false 0, [], 0⟩)], mx := [(0, { Mx.start with queue := [mxOp0] })] }) s
theorem witness_MatrixInstructions :
    goesWith plain (.mma ⟨40⟩) (mmaCause ⟨40⟩) mmaState = true
      ∧ goesWith (fun s _ x => x.replay.isNone && tokenOf s 0 (accId 2 x) == .lent 0 false 0 && (mxOpOf s 0 (accId 2 x)).isSome)
          (.mwait ⟨2⟩) (mwaitCause ⟨2⟩) (lentState (placed (.mwait ⟨2⟩))) = true
      ∧ goesWith (fun s _ x => tokenOf (beginReplay x s) 0 (accId 2 x) == .held 0) (.mwait ⟨2⟩) (mwaitCause ⟨2⟩)
          (withToken (.held 0) (placed (.mwait ⟨2⟩))) = true
      ∧ goesWith (fun _ _ x => x.gr.ctx == 0) (.mreset ⟨2⟩) noCause (withGrid (fun g => { g with ctx := 0 }) (placed (.mreset ⟨2⟩))) = true := by
  decide

/-! ### Engine, task, control and system instructions -/

theorem witness_EnginePosts_misaligned : (ixOf (.cpy ⟨g7, none, 0, 0, 4, 6⟩)
    (withBand (fun b => { b with s := [(0, 2)] }) (placed (.cpy ⟨g7, none, 0, 0, 4, 6⟩)))).any
      (fun x => copySa ⟨g7, none, 0, 0, 4, 6⟩ x % 4 != 0) = true := by decide
def launchOp : OpEng2 := ⟨g7, some 3, 20, 22⟩
/-- Line `n` of chip addresses in the L2 of die 0, in M. -/
def cached (n : Nat) (s : State) : State :=
  State.modDie s 0 fun d => { d with l2 := Table.set n ⟨.m, List.replicate 128 0, 0⟩ d.l2 }
/-- The 128 bytes at the SA pair are readable, and the descriptor there is refused: its IMAGE is 0. -/
theorem witness_TaskInstructions_launch :
    goesWith (fun s _ x => x.replay.isNone && match lineLook x s (x.sw true 20) 128 permRd false with
      | some (.ok bs) => match launchGrid x.gr.ctx (x.s 22).toNat bs none s with
        | .done _ => true
        | .busy _ => false
      | _ => false) (.launch launchOp) (lineCause (fun x => x.sw true 20) 128 128 permRd) (cached 0 (placed (.launch launchOp))) = true := by
  decide
theorem witness_TaskInstructions_cbset :
    goesWith (fun s _ x => x.replay.isNone && (match lineLook x s ((x.sw true 6 + 8 * ((x.s 9).toNat / 64)) % 2 ^ 64) 8 14 true with
      | some (.ok _) => true
      | _ => false) && (rangeCheck (State.ctx s x.gr.ctx) ((x.sw true 6 + 8 * ((x.s 9).toNat / 64)) % 2 ^ 64) 14).isSome)
      (.cbset ⟨g7, none, 6, 9⟩) (lineCause (fun x => (x.sw true 6 + 8 * ((x.s 9).toNat / 64)) % 2 ^ 64) 8 8 14)
      (cached 0 (placed (.cbset ⟨g7, none, 6, 9⟩))) = true := by decide
def waitOp : OpEng3 := ⟨g7, some 2, 6, 9, 10⟩
theorem witness_TaskInstructions_cbwait :
    goesWith (fun _ _ x => x.replay.isNone && (x.s 10).toNat == 0) (.cbwait waitOp) (cbwaitCause waitOp) (placed (.cbwait waitOp)) = true
      ∧ goesWith (fun s iss x => plain s iss x && (x.s 10).toNat != 0 && (cbwaitPages waitOp x s).isEmpty)
        (.cbwait waitOp) (cbwaitCause waitOp) (cached 0 (withBand (fun b => { b with s := [(10, 65)] }) (placed (.cbwait waitOp)))) = true := by
  decide

theorem witness_Branches :
    goesWith plain (.bra ⟨g7, 0xFFFF⟩) noCause (placed (.bra ⟨g7, 0xFFFF⟩)) = true
      ∧ goesWith (fun _ _ x => (x.s 3 != 0) != true) (.brc ⟨g7, true, 3, 4⟩) noCause (placed (.brc ⟨g7, true, 3, 4⟩)) = true
      ∧ goesWith (fun _ _ x => (x.s 3 != 0) == true) (.brc ⟨g7, true, 3, 4⟩) noCause
          (withBand (fun b => { b with s := [(3, 1)] }) (placed (.brc ⟨g7, true, 3, 4⟩))) = true
      ∧ goesWith (fun _ _ x => x.act.all fun l => x.vw l true 2 % 4 == 0) (.jmpx ⟨g7, 2⟩) noCause (placed (.jmpx ⟨g7, 2⟩)) = true
      ∧ goesWith (fun _ _ x => x.act.all fun l => x.vw l true 2 % 4 == 0) (.ret ⟨g7, 2⟩) noCause (placed (.ret ⟨g7, 2⟩)) = true
      ∧ goesWith plain (.call ⟨g7, 2, 8⟩) noCause (placed (.call ⟨g7, 2, 8⟩)) = true
      ∧ goesWith (fun _ _ x => x.act.all fun l => x.vw l true 2 % 4 == 0) (.callx ⟨g7, 2⟩) noCause (placed (.callx ⟨g7, 2⟩)) = true := by
  decide
def tableOp : OpJtab := ⟨g7, 2, 4, 1⟩
theorem witness_Branches_table :
    goesWith (fun _ _ x => x.act.all fun l => decide (1 ≤ (x.v l 2).toNat)) (.jtab tableOp) noCause
        (withLanes (fun y => { y with v := [(2, 1)] }) (placed (.jtab tableOp))) = true
      ∧ goesWith (fun _ iss x => plain State.reset iss x && !(x.act.filter (tableLane tableOp x)).isEmpty) (.jtab tableOp)
        (fun x s l => if tableLane tableOp x l then accessCause .load false (tableAddr tableOp) 4 x s l else none)
        (placed (.jtab tableOp)) = true
      ∧ (ixOf (.jmpx ⟨g7, 2⟩) (withLanes (fun y => { y with v := [(2, 2)] }) (placed (.jmpx ⟨g7, 2⟩)))).any
        (fun x => x.vw 0 true 2 % 4 != 0) = true := by decide
/-- Two rejoin levels, of which each lane uses one. -/
def rejoinState (s : State) : State := withHdr (fun h => { h with rjd := 2 }) (withLanes (fun y => { y with rdp := 1 }) s)
theorem witness_RejoinAndExit :
    goesWith plain (.rjset ⟨g7, 4⟩) (rjsetCause ⟨g7, 4⟩) (rejoinState (placed (.rjset ⟨g7, 4⟩))) = true
      ∧ goesWith (fun _ _ x => x.act.all fun l => (Band.lane x.b l).rdp != 0) (.rjwait ⟨g7⟩) noCause (rejoinState (placed (.rjwait ⟨g7⟩))) = true
      ∧ goesWith plain (.rjdrop ⟨g7⟩) noCause (rejoinState (placed (.rjdrop ⟨g7⟩))) = true
      ∧ goesWith plain (.exit ⟨g7⟩) noCause (placed (.exit ⟨g7⟩)) = true := by decide
theorem witness_NopYieldShadow :
    ([.nop ⟨g7⟩, .yield ⟨g7⟩, .shadow ⟨g7, true⟩].all fun i => goesWith plain i noCause (placed i)) = true := by decide

def scratchState (i : Instr) : State := withHdr (fun h => { h with scratch := 0x1000 }) (placed i)
theorem witness_Barriers :
    ([.bar ⟨g7, .arrive, 0⟩, .bar ⟨g7, .wait, 15⟩, .bar ⟨g7, .sync, 3⟩, .barset ⟨g7, 2, 9⟩].all fun i => goesWith plain i noCause (placed i)) = true
      ∧ (Team.bar benchTeam 15).a + 1 < (Team.bar benchTeam 15).n := by decide
theorem witness_Barriers_phase :
    goesWith (fun _ _ x => (phaseWord x 12).isSome) (.pharr ⟨g7, 12, false⟩) (phaseCause 12) (scratchState (.pharr ⟨g7, 12, false⟩)) = true
      ∧ goesWith (fun _ _ x => (phaseWord x 12).isNone) (.pharr ⟨g7, 12, false⟩) (phaseCause 12) (placed (.pharr ⟨g7, 12, false⟩)) = true
      ∧ goesWith (fun _ _ x => (phaseWord x 12).isSome) (.phwait ⟨g7, 12, true⟩) (phaseCause 12) (scratchState (.phwait ⟨g7, 12, true⟩)) = true := by
  decide
/-- Each lane's v4:v5 names word 0 of the local window. -/
def wordState (i : Instr) : State := withLanes (fun y => { y with v := [(5, 0xF2000000)] }) (scratchState i)
theorem witness_WaitsAndFences :
    goesWith plain (.waita ⟨g7, some 1, 4, 0⟩) (waitaCause ⟨g7, some 1, 4, 0⟩) (wordState (.waita ⟨g7, some 1, 4, 0⟩)) = true
      ∧ goesWith plain (.waita ⟨g7, none, 4, 5⟩) (waitaCause ⟨g7, none, 4, 5⟩) (wordState (.waita ⟨g7, none, 4, 5⟩)) = true
      ∧ goesWith plain (.dwait ⟨g7, 3⟩) noCause (placed (.dwait ⟨g7, 3⟩)) = true
      ∧ goesWith plain (.fence ⟨g7, .ar, .dev, some 0⟩) noCause (placed (.fence ⟨g7, .ar, .dev, some 0⟩)) = true := by decide

theorem witness_TrapDelivered : Table.find 0 (placed (.nop ⟨g7⟩)).bands = some benchBand
    ∧ Table.find 0 (placed (.nop ⟨g7⟩)).teams = some benchTeam ∧ Table.find 0 (placed (.nop ⟨g7⟩)).grids = some benchGrid
    ∧ benchGrid.hdr.trape ≠ 0 := by decide
/-- TRAPE is 0 for a team that is not halted, and for one that is. -/
theorem witness_TrapHalts :
    (Table.find 0 (withHdr (fun h => { h with trape := 0 }) (placed (.nop ⟨g7⟩))).grids).any (fun g => g.hdr.trape == 0) = true
      ∧ benchTeam.halted = false
      ∧ (Table.find 0 (State.modTeam (placed (.nop ⟨g7⟩)) 0 fun t => { t with halted := true }).teams).any (fun t => t.halted) = true := by decide
theorem witness_TrapAndBreak :
    ([.trap ⟨g7, 7⟩, .brk ⟨g7, 0⟩].all fun i => (ixOf i (placed i)).any fun x => !heldUp i x (placed i) && !reservedReg (uses i) x
      && x.act.all fun l => !uncounted (placed i) x.key l) = true := by decide
theorem witness_EcallResumes :
    goesWith plain (.ecall ⟨g7, false⟩) noCause (withLanes (fun y => { y with tcause := 13 }) (placed (.ecall ⟨g7, false⟩))) = true := by decide
theorem witness_TimerFragPower :
    goesWith plain (.tmarm ⟨g7, false, 20⟩) noCause (placed (.tmarm ⟨g7, false, 20⟩)) = true
      ∧ goesWith plain (.tmarm ⟨g7, true, 0⟩) noCause (placed (.tmarm ⟨g7, true, 0⟩)) = true
      ∧ goesWith plain (.fragq ⟨g7, 30⟩) noCause (withCore (fun c => { c with frags := [(0, nopFrag)] }) (placed (.fragq ⟨g7, 30⟩))) = true
      ∧ goesWith plain (.pwint ⟨g7, false, 12⟩) noCause (placed (.pwint ⟨g7, false, 12⟩)) = true
      ∧ goesWith (fun _ _ x => decide (3 < x.gr.hdr.nlive)) (.phint ⟨g7, 3⟩) noCause
          (withHdr (fun h => { h with nlive := 4 }) (placed (.phint ⟨g7, 3⟩))) = true := by decide
theorem witness_Privilege :
    ([.mreset ⟨2⟩, .swr ⟨519, 2⟩].all fun i => (ixOf i (placed i)).any fun x => x.gr.ctx != 0 && !heldUp i x (placed i)
      && x.act.all fun l => !uncounted (placed i) x.key l) = true := by decide

/-! ## Witnesses for the steps of the device -/

/-- The machine of `placed` with no group under issue. -/
def idle : State := { placed (.nop ⟨g7⟩) with issue := none }
/-- Lanes at a switch point with a result held for lane 2. -/
def atSwitch : State := withLanes (fun y => { y with sw := true }) (withBand (fun b => { b with held := [.vec 2 5 7] }) idle)
theorem witness_SwitchPoint :
    (Table.find 0 atSwitch.bands).map (fun b => b.held) = some [.vec 2 5 7] ∧ (4 : Dword).getLsbD 2 = true
      ∧ heldFor 3 (.vec 2 5 7) = false
      ∧ (State.home idle 0).any (fun h => (passing idle 0 0xFF h.1).isEmpty && h.1.lanes.all fun e => e.2.trap.isNone) = true
      ∧ (State.home atSwitch 0).any (fun h => !(passing atSwitch 0 0xFF h.1).isEmpty) = true := by decide

/-- An access of lane 3 to the slice of core 0, and an operation of it. -/
def acc0 : Acc :=
  { lane := 3, addr := 0xF200000000000100, va := 0, place := .sram 0x100, size := 4, data := [1, 2, 3, 4], cmp := [], stage := .waiting, value := 0 }
def op0 : Op :=
  { band := 0, lanes := 8, kind := .store, pc := ⟨0x1000, 0⟩, dc := none, scope := .band, order := .rlx, accs := [acc0], log := nopLog
    seq := 0, replay := none, holds := false, poison := none, since := 0 }
def withOp (k : Nat) (o : Op) (s : State) : State := { s with ops := [(k, o)] }
/-- The placed machine has nothing of core 0 in flight. -/
theorem witness_FabricIssue_alone : (fabricInstrs.all fun i => (withRoute (placed i)).ops.all fun e => e.2.band / 64 != 0) = true := by decide
/-- A prefetch of lane 3 into the L1, of line 96, which the die's L2 holds. -/
def prefOp : Op := { op0 with kind := .pref true, accs := [{ acc0 with place := .mem 0x3000 }] }
theorem witness_CacheInstructions_prefetched :
    (Table.find 4 (withOp 4 prefOp (cached 96 idle)).ops).any (fun o => o.kind == .pref true && (Op.acc o 3).any fun a =>
      !Acc.over a && a.place == .mem 0x3000 && (Table.find 96 (State.die (withOp 4 prefOp (cached 96 idle)) (o.band / 64 / 16)).l2).any
        fun y => y.poison == 0) = true := by decide
/-- Each lane's v2:v3 names its own line of the memory window. -/
def lineState (i : Instr) : State :=
  withBand (fun b => { b with lanes := b.lanes.map fun e => (e.1, { e.2 with v := [(2, BitVec.ofNat 32 (128 * e.1))] }) }) (placed i)
theorem witness_CacheInstructions_lines :
    (ixOf (.pref (lineOp .l1 .band)) (lineState (.pref (lineOp .l1 .band)))).any (fun x =>
      !(prefAccs x (lineState (.pref (lineOp .l1 .band))) (pairAddr 4 2 0)).isEmpty) = true := by decide
/-- Accumulator 0 lent to an operation that has ended. -/
theorem witness_MatrixInstructions_ended :
    goesWith (fun s _ x => tokenOf (beginReplay x s) 0 (accId 2 x) == .lent 0 false 0 && (mxOpOf (beginReplay x s) 0 (accId 2 x)).isNone)
      (.mwait ⟨2⟩) (mwaitCause ⟨2⟩) (withToken (.lent 0 false 0) (placed (.mwait ⟨2⟩))) = true := by decide
/-- Lane 3 has a load without a counter outstanding. -/
theorem witness_TrapDelivered_waits :
    uncounted (withOp 4 { op0 with kind := .load 5 1 false } idle) 0 3 = true ∧ uncounted idle 0 3 = false
      ∧ (Table.find 0 (withOp 4 { op0 with kind := .load 5 1 false } idle).bands).isSome = true := by decide

theorem witness_ShortLatencyFrame : goesWith plain (.iaddV ⟨.i64, 2, 4, 6⟩) noCause (placed (.iaddV ⟨.i64, 2, 4, 6⟩)) = true
    ∧ (vectorValue (.iaddV ⟨.i64, 2, 4, 6⟩)).isSome = true := by decide

/-! ### Bands -/

theorem witness_BandSelect_empty : State.reset.issue = none ∧ quarterBands State.reset 0 0 = [] := by decide
/-- The state that BAND_SELECT chooses from. -/
def chosenFrom : State := noteHolds (askBand 0 (enterBand 0 (takeLevel 0 0 idle))) 0
theorem witness_BandSelect_one :
    idle.issue = none ∧ quarterBands idle 0 0 = [0] ∧ (Table.find 0 idle.bands).any (fun b => b.busy == 0) = true
      ∧ (Table.find 0 chosenFrom.bands).any (fun b2 => splitsDue chosenFrom 0 b2 == [] && (choiceOf chosenFrom 0 b2).any fun c =>
        c == ⟨0, b2, c.p, none, false⟩ && !c.p.fetch && decide (c.p.price ≤ (State.core chosenFrom 0).bucket)) = true := by decide

def armedState : State := withBand (fun b => { b with armed := true, deadline := 5, brun := 5 }) idle
theorem witness_BandSteps_timer :
    (Table.find 0 idle.bands).any (fun b => !timerDue b) = true
      ∧ (Table.find 0 armedState.bands).any (fun b => timerDue b
        && (chooseP b ((readyGroups armedState 0).filter fun c => c.replay.isNone)).any fun p => groupLanded armedState 0 p.lanes) = true := by
  decide
/-- Seven lanes wait at the entry of level 0, the eighth of that entry at a barrier of 8. -/
def stuckState : State :=
  withHdr (fun h => { h with rjd := 1 }) (withBand (fun b => { b with
    lanes := b.lanes.map fun e => (e.1, { e.2 with rdp := 1, run := if e.1 = 7 then .barrier 3 else .rejoin, v := [(127, 3)] }) }) idle)
theorem witness_BandSteps_deadlock :
    (Table.find 0 idle.bands).isSome = true ∧ deadlocked idle 0 = false ∧ (Table.find 0 stuckState.bands).isSome = true
      ∧ deadlocked stuckState 0 = true := by decide
def barState : State :=
  withGrid (fun g => { g with desc := { g.desc with bwdog := 1 } }) (withLanes (fun y => { y with run := .barrier 3, waited := 1025 }) idle)
theorem witness_BandSteps_watchdog :
    (State.home barState 0).any (fun h => barrierOf barState 0 2 == some 3 && h.2.2.desc.bwdog != 0
      && decide (h.2.2.desc.bwdog * 1024 < (Band.lane h.1 2).waited) && !uncounted barState 0 2
      && !Lane.arrived (Band.lane h.1 2) 3 (Team.bar h.2.1 3).p) = true := by decide
theorem witness_BandSteps_intent :
    (Table.find 0 (withBand (fun b => { b with intent := some 9 }) idle).bands).any (fun b => b.intent == some 9) = true := by decide
/-- Lane 3 alone awaits v5, for longer than %lthresh. -/
def lateState : State :=
  let s := withOp 9 { op0 with kind := .load 5 1 false, accs := [{ acc0 with place := .fabric 0x100 }] }
    { placed (.movV ⟨.w32, 1, 5⟩) with issue := none }
  withBand (fun b => { b with lanes := b.lanes.map fun e =>
    (e.1, { e.2 with stalled := 2000, pend := if e.1 = 3 then [(5, 9)] else [] }) }) s
theorem witness_BandSteps_late : (Table.find 0 lateState.bands).any (fun b =>
    (lateGroup lateState 0 (Band.lane b ((lanesOf 0xFF).headD 0)).pc (lanesOf 0xFF)).any (fun g => g.2.2 == [3])
      && (freeEntry (State.core lateState 0)).isSome) = true := by decide

/-! ### Accesses and translation -/

def loadOp : Op := { op0 with kind := .load 5 1 true, accs := [{ acc0 with data := [] }] }
theorem witness_SramAccess :
    (Table.find 4 (withOp 4 op0 idle).ops).any (fun o => o.kind == .store && (Op.acc o 3).any fun a =>
      a.place == .sram 0x100 && a.stage == .waiting && mayPerform (withOp 4 op0 idle) o a
        && ownSlice o 0x100 && (notOwned (withOp 4 op0 idle) o a 0x100).isNone) = true
      ∧ (Table.find 4 (withOp 4 loadOp idle).ops).any (fun o => o.kind == .load 5 1 true && (Op.acc o 3).any fun a =>
        a.place == .sram 0x100 && a.stage == .waiting && mayPerform (withOp 4 loadOp idle) o a
          && ownSlice o 0x100 && (notOwned (withOp 4 loadOp idle) o a 0x100).isNone
          && sramMarked (withOp 4 loadOp idle) 0x100 a.size == none) = true := by decide
/-- An access to the slice of core 17, on another die, by the global window: before it leaves and on its way. -/
def farPlace : Nat := 17 * 2 ^ 26 + 0x100
def farOp (st : AccStage) (o : Op) : Op := { o with accs := o.accs.map fun a =>
  { a with addr := BitVec.ofNat 64 (0xF0 * 2 ^ 56 + farPlace), place := .sram farPlace, stage := st } }
def farState (st : AccStage) (o : Op) : State :=
  withOp 4 (farOp st o) (State.modCore idle 17 fun c => { c with owners := [(blockOf farPlace, 1, 0)] })
set_option maxRecDepth 20000 in
theorem witness_SramAccess_arrives :
    [op0, loadOp].all (fun o => (Table.find 4 (farState (.sent 3) o).ops).any fun p => p.kind == o.kind && (Op.acc p 3).any fun a =>
      a.place == .sram farPlace && a.stage == .sent 3 && (notOwned (farState (.sent 3) o) p a farPlace).isNone
        && routeUp (farState (.sent 3) o) (p.band / 1024) (farPlace / 2 ^ 30) && !behindSent (farState (.sent 3) o) (p.band / 1024) (some (p.band / 64)) farPlace 3
        && sramMarked (farState (.sent 3) o) farPlace a.size == none) = true := by decide
set_option maxRecDepth 20000 in
theorem witness_SramAccess_leaves :
    (Table.find 4 (farState .waiting op0).ops).any (fun p => (Op.acc p 3).any fun a =>
      a.place == .sram farPlace && a.stage == .waiting && !ownSlice p farPlace && !OpKind.ofTile p.kind
        && mayPerform (farState .waiting op0) p a && !behindMessage (farState .waiting op0) p a farPlace) = true := by decide
def doneLoad : Op := { loadOp with accs := [{ acc0 with stage := .performed, value := 0x80 }] }
def countedStore : Op := { op0 with dc := some 2, accs := [{ acc0 with stage := .performed }] }
theorem witness_ResultsLand :
    (Table.find 4 (withOp 4 doneLoad idle).ops).any (fun o => o.kind == .load 5 1 true && (Op.acc o 3).any fun a =>
      a.stage == .performed && a.lane == 3 && (Table.find o.band idle.bands).any fun b => (Band.lane b 3).run != .exited) = true
      ∧ (Table.find 0 idle.bands).isSome = true
      ∧ (Table.find 4 (withOp 4 countedStore idle).ops).any (fun o => o.kind == .store && o.dc == some 2 && o.order == .rlx
        && o.accs == [{ acc0 with stage := .performed }] && (Table.find o.band (withOp 4 countedStore idle).bands).isSome) = true := by decide
def peerLoad : Op := { loadOp with accs := [{ acc0 with place := .fabric 0x100, stage := .translated }] }
theorem witness_ResultsLand_peer :
    [peerLoad, { peerLoad with kind := .store }].all (fun o => (Op.acc o 3).any fun a => a.place == .fabric 0x100 && a.stage == .translated
      && !stillBuffered (withOp 4 o idle) (o.band / 64) 4 3) = true := by decide

/-- Lane 3 loads from chip address 0x3000, of line 96. -/
def memLoad : Op := { loadOp with accs := [{ acc0 with place := .mem 0x3000, addr := 0x3000, va := 0x3000 }] }
/-- The page table's first entry covers 2 MiB of unit 0 (as the placed machine has it). -/
def bigEntry : Tlb := ⟨25 + 32 * 2 ^ 16, true⟩
def dieWith (f : Die → Die) (s : State) : State := State.modDie s 0 f
def wantState : State := withOp 4 memLoad idle
def cachedState : State := dieWith (fun d => { d with tlb := [(0, bigEntry)] }) wantState
theorem witness_TranslationAndFaults_request :
    wanted wantState 0 96 false = true ∧ lineBusy (State.die wantState 0) 96 = false
      ∧ isHeld (State.die wantState 0) 96 (kindOf false) = false
      ∧ tlbFind (State.die wantState 0) (96 * 128) = none ∧ (State.die wantState 0).walks = [] := by decide
theorem witness_TranslationAndFaults_cached :
    wanted cachedState 0 96 false = true ∧ lineBusy (State.die cachedState 0) 96 = false
      ∧ isHeld (State.die cachedState 0) 96 .read = false
      ∧ tlbFind (State.die cachedState 0) (96 * 128) = some bigEntry := by decide
def walk0 : Walk := ⟨0, false, none, false⟩
def walking : State := dieWith (fun d => { d with walks := [walk0] }) wantState
set_option maxRecDepth 20000 in
theorem witness_TranslationAndFaults_walk :
    (State.die walking 0).walks.find? (fun w => w.page == 0) = some walk0
      ∧ (match walk 0 (0 * 2 ^ 16) false none (State.modDie walking 0 fun d => { d with walks := d.walks.filter fun x => x.page != 0 }) with
        | (.present _ _ big, s1) => big && decide ((State.die s1 0).tlb.length < 8192)
        | _ => false) = true := by decide
def faultedOp : Op := { memLoad with accs := [{ acc0 with place := .mem 0x3000, stage := .faulted 0 0 }] }
theorem witness_TranslationAndFaults_response :
    Table.find 4 (withOp 4 faultedOp idle).ops = some faultedOp ∧ faultPages (withOp 4 faultedOp idle) faultedOp.kind faultedOp.accs ≠ []
      ∧ faultedOp.accs.all Acc.over = true := by decide
def rec0 : FaultRec :=
  { kind := 2, src := 1, acc := 1, ps := true, frag := 7, core := 0, ctx := 1, caddr := 0x3000, vaddr := 0x3000, lmask := 8, entry := 0
    seq := 0, nrec := 1, irec := 0, eng := 0, uid := 5 }
def postState : State := dieWith (fun d => { d with fqWait := [rec0] }) idle
theorem witness_TranslationAndFaults_post :
    (State.die postState 0).fqWait = [rec0] ∧ rec0.nrec = 1 ∧ rec0.src = 1 ∧ (State.die postState 0).fq = []
      ∧ (State.die postState 0).fqHead = 0 ∧ (State.die postState 0).fqTail = 0 := by decide
def fullQueue : State := dieWith (fun d => { d with fq := [(0, rec0)], fqHead := 0, fqTail := 0 }) postState
theorem witness_TranslationAndFaults_full :
    (State.die fullQueue 0).fqWait = [rec0] ∧ rec0.nrec = 1
      ∧ ((State.die fullQueue 0).fqHead + 2048 - (State.die fullQueue 0).fqTail) % 2048 = 0 ∧ (State.die fullQueue 0).fq ≠ [] := by decide

/-! ### Fragments and pages -/

def withFrag (f : Frag) : State → State := withCore fun c => { c with frags := [(5, f)] }
theorem witness_Fragments :
    Table.find 5 (State.core (withFrag nopFrag idle) 0).frags = some nopFrag ∧ nopFrag.state = .parked ∧ nopFrag.late = false
      ∧ nopFrag.state ≠ .replaying := by decide
/-- A LATE fragment, and one that has its results, to which ACT 0 says BAD. -/
theorem witness_Fragments_bad :
    [{ nopFrag with late := true }, { nopFrag with state := .ready }].all (fun f =>
      Table.find 5 (State.core (withFrag f idle) 0).frags == some f && (f.state != .parked || f.late)) = true := by decide
def overflow0 : Overflow := { log := nopLog, pc := ⟨0x1000, 0⟩, src := 1, pages := [], op := none, since := 0 }
def fullState : State := withBand (fun b => { b with overflow := some overflow0 }) idle
theorem witness_Fragments_full : (oldestFull fullState 0).any (fun e => e.1 == 0 && e.2.2 == overflow0) = true
    ∧ freeEntry (State.core fullState 0) = some 0 ∧ (State.home fullState 0).isSome = true := by decide
def readyFrag : Frag := { nopFrag with state := .ready }
/-- The placed machine with its lanes parked in a READY fragment. -/
def readyState : State := withFrag readyFrag (withLanes (fun y => { y with run := .parked }) idle)
theorem witness_Fragments_replay :
    readyState.issue = none ∧ Table.find 5 (State.core readyState 0).frags = some readyFrag
      ∧ (State.home readyState readyFrag.band).any (fun h => !bandStill readyState h.1 h.2.1 h.2.2 && !budgetSpent h.2.1
        && (lookFrag readyState readyFrag.band 5 readyFrag h.1).any fun c => !c.fetch && decide (c.price ≤ (State.core readyState 0).bucket)) = true := by
  decide
def poorState : State := withCore (fun c => { c with bucket := 0 }) readyState
theorem witness_Fragments_poor :
    Table.find 5 (State.core poorState 0).frags = some readyFrag
      ∧ (State.home poorState readyFrag.band).any (fun h =>
        (lookFrag poorState readyFrag.band 5 readyFrag h.1).any fun c => decide ((State.core poorState 0).bucket < c.price)) = true := by
  decide

def mtinvState : State := { idle with hub := { idle.hub with mtinv := 3, mtrun := 3 } }
theorem witness_PageServices_mtinv : idle.hub.mtinv.getLsbD 0 = false ∧ mtinvState.hub.mtinv.getLsbD 0 = true
    ∧ mtinvState.hub.mtrun.getLsbD 1 = true
    ∧ ∀ d < 4, (∀ w ∈ (State.die mtinvState d).walks, w.due = false) ∧ (State.die mtinvState d).hold = [] := by decide
/-- A die that holds one request. -/
def holding : State := dieWith (fun d => { d with hold := [⟨96, .read, false⟩] }) idle
theorem witness_PageServices_second : (State.die holding 0).walks = [] ∧ (State.die holding 0).hold = [⟨96, .read, false⟩] := by decide
def pageState : State := { idle with fw := { idle.fw with pages := [(0, ⟨false, none, none⟩)] } }
set_option maxRecDepth 20000 in
theorem witness_PageServices_scan : idle.fw.pages = [] ∧ pageState.fw.pages = [(0, ⟨false, none, none⟩)]
    ∧ pageState.hub.mtinv.getLsbD 0 = false ∧ State.dword pageState (coverKey pageState 0).1 % 8 = 1 := by decide
set_option maxRecDepth 20000 in
theorem witness_PageServices_move : moveOf pageState 0 = none ∧ Table.find 0 pageState.fw.pages = some ⟨false, none, none⟩
    ∧ State.dword pageState (coverKey pageState 0).1 % 8 = 1 ∧ (freeFrame pageState (coverKey pageState 0).2 0).isSome = true := by decide
def move0 : Move := ⟨0, 3, true, .frame 0 0 false, 0⟩
def movingState : State := { pageState with fw := { pageState.fw with moves := [move0] } }
set_option maxRecDepth 20000 in
theorem witness_PageServices_moving : moveOf movingState 0 = some move0 ∧ move0.step = 0
    ∧ State.dword movingState (coverKey movingState move0.page).1 % 8 = 1
    ∧ pagesFree movingState move0.page (pageSpan move0.big) = true := by decide
/-- A record of a FRAME_FAULT to be served. -/
def serveState : State := dieWith (fun d => { d with fq := [(0, rec0)], fqHead := 1 }) idle
/-- The same while its page moves. -/
def serveMoving : State := { serveState with fw := { serveState.fw with moves := [move0] } }
set_option maxRecDepth 20000 in
theorem witness_PageServices_serve : [serveState, serveMoving].all (fun s => !s.hub.schedstat.getLsbD 2 && s.fw.parked == []
    && nextFaultDie s == some 0 && Table.find (State.die s 0).fqTail (State.die s 0).fq == some rec0) = true
    ∧ (match serveRecord 0 rec0 (takeRecord 0 (journal (.served 0 rec0.seq) serveState)) with
      | .done _ => true
      | _ => false) = true
    ∧ (match serveRecord 0 rec0 (takeRecord 0 (journal (.served 0 rec0.seq) serveMoving)) with
      | .work _ => true
      | _ => false) = true := by decide
def heldState : State := { idle with hub := { idle.hub with schedstat := 4 } }
theorem witness_PageServices_hold : heldState.hub.schedstat.getLsbD 2 = true := by decide
def regen0 (phase : Nat) (ended : Option Bool) : Regen :=
  { page := 0, big := false, entry := 0, ctx := 1, phase := phase, gridid := 0, place := some (0, 4), ended := ended, recs := [] }
def regenState (phase : Nat) (ended : Option Bool) : State :=
  State.modCtx { idle with fw := { idle.fw with regens := [regen0 phase ended] } } 1 fun c => { c with staging := some ⟨7, 0, 4⟩ }
theorem witness_PageServices_regen :
    [(0, none), (1, none), (2, none), (2, some true), (2, some false), (6, some true)].all (fun e =>
      (regenState e.1 e.2).fw.regens == [regen0 e.1 e.2] && !(regenState e.1 e.2).hub.mtinv.getLsbD 0
        && pagesIdle (regenState e.1 e.2) (stagingOf (regen0 e.1 e.2) (regenState e.1 e.2)).chip 1
        && pagesFree (regenState e.1 e.2) (stagingOf (regen0 e.1 e.2) (regenState e.1 e.2)).chip 1) = true := by decide

/-! ### Coherence -/

def msg0 (k : MsgKind) : Msg := { kind := k, line := 96, src := 1, dst := 0, bytes := [], poison := 0, mem := 0x200000 }
def withMsg (m : Msg) (s : State) : State := { s with msgs := [(3, m)] }
/-- A request that a home can serve. -/
def servable (k : MsgKind) (s : State) : Bool :=
  arrives (withMsg (msg0 k) s) 3 (msg0 k) && !behindAtHome 3 (msg0 k) (withMsg (msg0 k) s)
def withDir (d : Dir) (s : State) : State := dieWith (fun x => { x with dir := [(96, d)] }) s
/-- Sixteen lines of one set of the home's snoop filter, all held by die 2. -/
def fullSet (s : State) : State :=
  dieWith (fun x => { x with dir := (List.range 16).map fun i => (96 + 2 ^ 18 * (i + 1), ⟨some 2, [], none, i, 0⟩) }) s
theorem witness_HomeRequests : [MsgKind.rdS, .rdX, .upg].all (fun k => servable k idle && roomInFilter 0 1 96 (withMsg (msg0 k) idle)) = true
    ∧ Die.entry (State.die idle 0) 96 = ⟨none, [], none, 0, 0⟩ := by decide
set_option maxRecDepth 20000 in
theorem witness_HomeRequests_full :
    [MsgKind.rdS, .rdX, .upg].all (fun k => servable k (fullSet idle) && !roomInFilter 0 1 96 (withMsg (msg0 k) (fullSet idle))) = true := by
  decide
theorem witness_HomeRequests_put :
    [MsgKind.putM, .putE].all (fun k => servable k (withDir ⟨some 1, [], none, 0, 0⟩ idle) && servable k idle
      && (Die.entry (State.die (withDir ⟨some 1, [], none, 0, 0⟩ idle) 0) 96).owner == some 1
      && (Die.entry (State.die idle 0) 96).owner != some 1) = true := by decide
def txn0 : Txn := { req := 2, excl := false, acks := [1], flush := false, mem := 0 }
def busyDir (t : Txn) : State → State := withDir ⟨some 1, [], some t, 0, 0⟩
theorem witness_HomeRequests_waits : [MsgKind.rdS, .rdX, .upg, .putM, .putE].all (fun k =>
    arrives (busyDir txn0 (withMsg (msg0 k) idle)) 3 (msg0 k) && behindAtHome 3 (msg0 k) (busyDir txn0 (withMsg (msg0 k) idle))) = true := by
  decide

def caching (l : Line) (s : State) : State := dieWith (fun d => { d with l2 := [(96, l)] }) s
def line0 : Line := ⟨.m, List.replicate 128 7, 0⟩
def want0 : Want := { excl := false, data := none, poison := 0, shared := false, cmp := false, home := some 1 }
def wanting (w : Want) (s : State) : State := dieWith (fun d => { d with wants := [(96, w)] }) s
theorem witness_HolderMessages_holder :
    arrives (withMsg (msg0 .inv) idle) 3 (msg0 .inv) = true ∧ answerComing (withMsg (msg0 .inv) idle) 0 96 = false
      ∧ usable (withMsg (msg0 .inv) idle) 0 96 = false
      ∧ [true, false].all (fun ex =>
        let s := caching line0 (withMsg (msg0 (.fwd 2 ex false)) idle);
        arrives s 3 (msg0 (.fwd 2 ex false)) && !answerComing s 0 96 && !usable s 0 96 && Table.find 96 (State.die s 0).l2 == some line0) = true := by decide
theorem witness_HolderMessages_requester :
    (let s := wanting want0 (withMsg (msg0 (.data true)) idle);
      arrives s 3 (msg0 (.data true)) && Table.find 96 (State.die s 0).wants == some want0 && !want0.cmp) = true
      ∧ (let s := dieWith (fun d => { d with l2 := [] }) (wanting { want0 with data := some (List.replicate 128 7) } (withMsg (msg0 .cmp) idle));
        arrives s 3 (msg0 .cmp) && Table.find 96 (State.die s 0).wants == some { want0 with data := some (List.replicate 128 7) }
          && (State.die s 0).l2 == []) = true := by decide
theorem witness_HolderMessages_acks :
    [MsgKind.invAck, .fwdAck, .putAck].all (fun k => arrives (withMsg (msg0 k) idle) 3 (msg0 k)
      && (msg0 k).bytes.length != 128) = true
      ∧ (Die.entry (State.die (busyDir txn0 idle) 0) 96).txn = some txn0 ∧ txn0.acks = [1] ∧ txn0.flush = false := by decide
/-- A crossing one failure short of 255 in a row, and one at its full count. -/
theorem witness_HolderMessages_crossing :
    [(⟨7, false, 254⟩ : Crossing), ⟨7, false, 253⟩, ⟨0xFFFFFFFF, false, 0⟩].all (fun x =>
      Table.get Crossing.start 2 ({ idle with crossings := [(2, x)] } : State).crossings == x && !x.down) = true := by decide

/-! ### Waits -/

/-- The lanes wait at a WAIT field, of a header with counters 0 and 1. -/
def fieldState (n : Nat) : State :=
  let s := withLanes (fun y => { y with entry := .wait }) (withBand (fun b => { b with dc := [(1, n)] }) idle)
  dieWith (fun d => { d with l2 := [(32, ⟨.e, natLe 4 0x1A000030 ++ List.replicate 124 0, 0⟩)] }) s
theorem witness_WaitsEnd_field :
    [0, 1].all (fun n => (State.home (fieldState n) 0).any fun h =>
      ((groupsWhere (fun y => Lane.eligible y && y.entry == .wait) { h.1 with lanes := h.1.lanes.filter fun e => (0xFF : Dword).getLsbD e.1 })).length == 1
        && (match fetchWord (fieldState n) 0 h.2.2.ctx 0x1000 with
          | .ok w => w == 0x1A000030 && (Band.drained h.1 (countersOf (w / 2 ^ 4 % 2 ^ 6)) == (n == 0))
          | _ => false)) = true := by decide
def dwaitState (n : Nat) : State := withLanes (fun y => { y with run := .counter 2 }) (withBand (fun b => { b with dc := [(1, n)] }) idle)
theorem witness_WaitsEnd_dwait :
    [0, 1].all (fun n => (Table.find 0 (dwaitState n).bands).any fun b => lanesOf 8 == [3] && (Band.lane b 3).run == .counter 2
      && (Band.drained b (countersOf 2) == (n == 0)) && latchLanes (dwaitState n) 0 (countersOf 2) [3] == []) = true := by decide
def waita0 : Waita := { op := 4, addr := 0xF200000000000100, g := some 0x100, expect := 5, left := none, reg := 6, polled := false, since := 0 }
/-- Lane 3 waits on a word of core 0's slice that holds `n`. -/
def waitaState (n : Nat) (w : Waita) : State :=
  withBand (fun b => { b with lanes := Table.alter 3 (fun y => { y with run := .addr, waita := [w] }) b.lanes })
    (withCore (fun c => { c with wakes := [(0, 0x100)] }) (withHdr (fun h => { h with scratch := 0x1000 }) { idle with sram := Memory.store [] 0x100 (natLe 4 n) }))
theorem witness_WaitsEnd_wake :
    [5, 6].all (fun n => (State.core (waitaState n waita0) 0).wakes == [(0, 0x100)]
      && waitersOf (waitaState n waita0) 0 == [(0, 3, waita0)] && waita0.g == some 0x100 && !waita0.polled
      && ((waitaValue (senseWord 0 waita0 (State.modCore (waitaState n waita0) 0 fun c => { c with wakes := [] })) 0 waita0
          == waita0.expect) == (n == 5))) = true := by decide
def polled0 : Waita := { waita0 with polled := true, since := 64 }
theorem witness_WaitsEnd_poll :
    [5, 6].all (fun n => laneWords (waitaState n polled0) 0 3 == [polled0] && ((waitaValue (senseWord 0 polled0 (State.modBand (waitaState n polled0) 0
        fun b => Band.modLane b 3 fun y => { y with waita := [{ polled0 with since := 0 }] })) 0 polled0 == polled0.expect) == (n == 5))) = true
      ∧ [some 0, some 7, none].all (fun n => laneWords (waitaState 5 { waita0 with left := n }) 0 3 == [{ waita0 with left := n }]) = true := by
  decide
def fenceOp : Op := { op0 with kind := .fence .rel, order := .rel, accs := [], seq := 9, dc := some 0 }
theorem witness_WaitsEnd_fence :
    Table.find 4 (withOp 4 fenceOp idle).ops = some fenceOp ∧ fenceWaits (withOp 4 fenceOp idle) fenceOp = false
      ∧ Table.find 4 ({ idle with ops := [(2, op0), (4, fenceOp)] } : State).ops = some fenceOp
      ∧ fenceWaits { idle with ops := [(2, op0), (4, fenceOp)] } fenceOp = true := by decide
/-- A wait on bits 0 and 1 of a bitmap, whose line holds `n` in each byte. -/
def bitmapOp (n : Nat) : Op := { op0 with kind := .cbwait 0x3000 0 2 [0], accs := [], since := n }
def bitmapState (n : Nat) : State := dieWith (fun d => { d with l2 := [(96, ⟨.e, List.replicate 128 (BitVec.ofNat 8 n), 0⟩)] }) (withOp 4 (bitmapOp 256) idle)
set_option maxRecDepth 20000 in
theorem witness_WaitsEnd_poll_bitmap :
    (State.home (bitmapState 0) 0).isSome = true ∧ (bitmapOp 255).since < 256 ∧ 256 ≤ (bitmapOp 256).since
      ∧ (readRange (bitmapOp 256) 1 0x3000 0 2 [0] (bitmapState 0)).1 = [0]
      ∧ (readRange (bitmapOp 256) 1 0x3000 0 2 [0] (bitmapState 3)).1 = [] := by decide

/-! ### The copy engine -/

def cpy0 : OpCopy := ⟨g7, none, 0, 0, 4, 6⟩
def copyOffer : Offer := { band := 0, lanes := 0xFF, pc := ⟨0x1000, 0⟩, hdr := 0x16000000, instr := .cpy cpy0, seq := 1, price := 24 }
def offered : State := withCore (fun c => { c with offers := [copyOffer] }) { placed (.cpy cpy0) with issue := none }
theorem witness_CopyEngine_accept :
    (State.core offered 0).offers = [copyOffer]
      ∧ offerIx (State.modCore offered 0 fun c => { c with offers := [copyOffer] }) copyOffer = offerIx offered copyOffer
      ∧ (offerIx offered copyOffer).isSome = true
      ∧ copyReady (State.modCore offered 0 fun c => { c with offers := [copyOffer] }) copyOffer = true
      ∧ copyKind copyOffer.instr = some (0xA0, cpy0) ∧ freeSlot (State.core offered 0) = some 0 := by decide
theorem witness_CopyEngine_checked :
    (offerIx offered copyOffer).any (fun x => Ix.core x == 0 && match copyCheck (senseDesc 0xA0 cpy0 x offered) 0xA0 cpy0 x with
      | .inl _ => true
      | .inr _ => false) = true ∧ Table.find 0 (State.core offered 0).copy = none := by decide
/-- A copy of 128 bytes within the slice, with P units done. -/
def copyCmd (p : Nat) (parked : Bool) : CopyCmd :=
  { band := 0, team := 0, ctx := 1, op := 0xA0, lanes := 1, dc := 2, src := 0xF200000000000000, dst := 0xF200000000000100
    sc := 128, desc := .flat 128, cw := none, cwg := 0, cwv := 0, n := 128, p := p, work := none, parked := parked, seq := 1, uid := 6 }
def copyState (c : CopyCmd) : State :=
  withHdr (fun h => { h with scratch := 0x1000 }) (withCore (fun k => { k with copy := [(3, c)] }) idle)
def copying (p : Nat) (parked : Bool) : State := copyState (copyCmd p parked)
/-- The attempt at the first unit begins; and each state of an attempt, with what its next step meets. -/
def atUnit (s : State) (c : CopyCmd) : Bool :=
  Table.find 3 (State.core s 0).copy == some c && (State.home s c.band).any fun h => !marked s c.team && !mustWait (State.core s 0) 3 c
    && !c.parked && h.2.1.core == 0
def unitWith (w : CopyWork) : CopyCmd := { copyCmd 0 false with work := some w }
def run0 : CopyRun := { j := 0, n := 128, src := some 0xF200000000000000, dst := some 0xF200000000000100, fill := none }
/-- What the next run of an attempt needs: its way is clear, and the lines that it needs. -/
def runFinds (s : State) (r : CopyRun) (f : Bool → Option Halt_ × Bool → Option Halt_ → Bool) : Bool :=
  (State.home s 0).any fun h =>
    let way := wayOf s 0 h.2.1 h.2.2 permCe r
    let a := askNeeds 0 (Way.needs r way) s
    f (Way.clear s 0 way) (a.1, a.2.1) (performRun 0 r way a.2.2).1
/-- The run to memory: its line has still to come, and with no frame in the page table it faults. -/
def toMemory : CopyRun := { run0 with dst := some 0x3000 }
/-- The run to another die's slice, past a crossing that is down. -/
def toFar : CopyRun := { run0 with dst := some (0xF0 * 2 ^ 56 + 17 * 2 ^ 26 + 0x100) }
def downState (s : State) : State := { s with crossings := (List.range 8).map fun n => (n, { Crossing.start with down := true }) }
theorem witness_CopyEngine_begin : atUnit (copying 0 false) (copyCmd 0 false) = true ∧ 0 < unitCount (copyCmd 0 false)
    ∧ 24 ≤ (State.core (copying 0 false) 0).bucket
    ∧ (State.core (withCore (fun k => { k with bucket := 3 }) (copying 0 false)) 0).bucket < 24 := by decide
theorem witness_CopyEngine_work : [⟨[], none, none⟩, ⟨[], none, some (.error 1 2)⟩, ⟨[], some (.fault 2 0 0x3000 0x3000 true), none⟩, ⟨[run0], none, none⟩].all
    (fun w => atUnit (copyState (unitWith w)) (unitWith w)) = true := by decide
set_option maxRecDepth 20000 in
theorem witness_CopyEngine_run : runFinds (copying 0 false) run0 (fun c a h => c && a == (none, false) && h.isNone) = true
    ∧ runFinds (copying 0 false) toMemory (fun c a _ => c && a == (none, true)) = true
    ∧ runFinds { copying 0 false with dram := [] } toMemory (fun c a _ => c && a.1.isSome && !a.2) = true
    ∧ runFinds { copying 0 false with sramPoison := [0] } run0 (fun c a h => c && a == (none, false) && h.isSome) = true
    ∧ sramMarked (copying 0 false) 0 128 = none := by decide
set_option maxRecDepth 20000 in
theorem witness_CopyEngine_held : runFinds (downState (State.modCore (copying 0 false) 17 fun c => { c with owners := [(blockOf farPlace, 1, 0)] })) toFar (fun c _ _ => !c) = true := by decide
/-- A finished copy with a completion word at 0x200, in a block that is the grid's or nobody's. -/
def wordCmd : CopyCmd := { copyCmd 1 false with cw := some .band, cwg := 0x200, cwv := 9 }
theorem witness_CopyEngine_word : [(withCore (fun k => { k with owners := [(0, 1, 0)] }) (copyState wordCmd), false), (copyState wordCmd, true)].all (fun e =>
    Table.find 3 (State.core e.1 0).copy == some wordCmd && decide (unitCount wordCmd ≤ 1) && !mustWait (State.core e.1 0) 3 wordCmd
      && !quiesced e.1 0 0 && wordCmd.cw.isSome && placeClear e.1 0 (.sram 0x200) && cwBad e.1 1 0x200 == e.2) = true := by decide
theorem witness_CopyEngine_quiesce :
    ((State.core (copying 0 false) 0).copy.all fun e => e.2.work.isNone) = true
      ∧ ((State.core (copyState (unitWith ⟨[], none, none⟩)) 0).copy.any fun e => e.2.team == 0 && e.2.work.isSome) = true := by decide
theorem witness_CopyEngine_ends :
    Table.find 3 (State.core (copying 1 false) 0).copy = some (copyCmd 1 false) ∧ unitCount (copyCmd 1 false) ≤ 1
      ∧ mustWait (State.core (copying 1 false) 0) 3 (copyCmd 1 false) = false ∧ quiesced (copying 1 false) 0 0 = false
      ∧ (copyCmd 1 false).cw = none ∧ Table.find 3 (State.core idle 0).copy = none
      ∧ Table.find 3 (State.core (copying 0 true) 0).copy = some (copyCmd 0 true) ∧ (copyCmd 0 true).parked = true := by decide


/-! ### Peers and streams -/

def peerReq (ctx va : Nat) : PeerReq := { station := 2, pctx := ctx, va := va, op := .read 8 }
def fullRec : StreamFullRec := { station := 2, peer := 7, sid := 64, sz := 0, pctx := 1, va := 0x3000, data := [1, 2, 3, 4, 0, 0, 0, 0] }
def recv0 : RecvStream := { peer := 7, sid := 64, pctx := 1, addr := 0x3000 }
/-- A station with `n` receive contexts in use; line 96 is in die 0's L2. -/
def receiving (n : Nat) : State :=
  State.modStation (cached 96 idle) 2 fun t => { t with recv := (List.range n).map fun k => (k, { recv0 with sid := k }) }
/-- A station where an earlier request waits. -/
def queueing (s : State) : State := State.modStation s 2 fun t => { t with queue := [.request (peerReq 1 0x1000)] }
set_option maxRecDepth 20000 in
/-- Line 32 is in the L2 that the hub reads through, line 96 is not. -/
theorem witness_PeersAndStreams_request :
    peerAccepts (peerReq 1 0x1000) = true ∧ (State.station idle 2).queue = [] ∧ (peerPerform 1 0x1000 (.read 8) idle).1.isSome = true
      ∧ peerAccepts (peerReq 9 0x1000) = true ∧ liveCtx idle 9 = false
      ∧ peerAccepts (peerReq 1 0x3000) = true ∧ (peerPerform 1 0x3000 (.read 8) idle).1 = none
      ∧ (State.station (queueing idle) 2).queue ≠ [] := by decide
def takesRecord (s : State) (p : State → Bool) : Bool :=
  (State.station s 2).queue == [] && match peerPerform 1 0x3000 (.write (recordData 0 fullRec.data)) s with
  | (some (.ok _), s1) => p s1
  | _ => false
set_option maxRecDepth 20000 in
theorem witness_PeersAndStreams_open :
    takesRecord (receiving 3) (fun s1 => (List.range 256).find? (fun n => (Table.find n (State.station s1 2).recv).isNone) == some 3) = true
      ∧ takesRecord (receiving 256) (fun s1 => (List.range 256).find? (fun n => (Table.find n (State.station s1 2).recv).isNone) == none) = true
      ∧ (peerPerform 1 0x3000 (.write (recordData 0 fullRec.data)) idle).1 = none := by
  decide
def dataRec : StreamDataRec := { station := 2, tag := 1, sz := 0, delta := 0x10, data := [1, 2, 3, 4, 0, 0, 0, 0] }
set_option maxRecDepth 20000 in
theorem witness_PeersAndStreams_data :
    (State.station (receiving 3) 2).queue = []
      ∧ (Table.find dataRec.tag (State.station (receiving 3) 2).recv).any (fun x => x == { recv0 with sid := 1 }
      && match peerPerform x.pctx (((x.addr : Int) + dataRec.delta.toInt) % ((2 ^ 48 : Nat) : Int)).toNat
          (.write (recordData dataRec.sz dataRec.data)) (receiving 3) with
        | (some _, s1) => s1.stations == (receiving 3).stations
        | _ => false) = true := by decide
def send0 : SendStream :=
  { ctx := 1, phase := 1, tag := 3, addr := 0x3000, peer := 7, pctx := 1, idle := 4096, age := 32, refused := 0, buf := [], owners := []
    closing := false }
def sending (x : SendStream) : State := withCore (fun c => { c with streams := [(1, x)] }) idle
theorem witness_PeersAndStreams_send :
    [{ send0 with phase := 0 }, { send0 with phase := 0, closing := true }, { send0 with buf := [1] }, { send0 with buf := [1], age := 31 },
      send0, { send0 with idle := 4095 }, { send0 with phase := 2, refused := 65536 }, { send0 with phase := 2, refused := 65535 }].all (fun x =>
      Core.stream (State.core (sending x) (64 % 64)) (64 / 64 % 16) == some x) = true := by decide

/-! ### Matrix units -/

/-- One element of one segment of .i8, from tiles 1 and 2. -/
def mxOp1 (pw : Nat) (checked : Bool) : MxOp :=
  { mxOp0 with block := [1, 2, 0, 0, 0, 0, 0, 0, 1, 1, 0, 1] ++ List.replicate 52 0, shapes := [0x00040041, 0x00040041, 0, 0], pw := pw, checked := checked }
def withMx (m : Mx) (s : State) : State := withCore (fun c => { c with mx := [(2, m)] }) s
def queuedMx (o : MxOp) : State := withMx { Mx.start with queue := [o] } idle
def runningMx (o : MxOp) : State := withMx { Mx.start with exec := some o } idle
theorem witness_MatrixAndEncke_start :
    (Core.mxUnit (State.core (queuedMx (mxOp1 0 false)) 0) 2).exec = none
      ∧ (Core.mxUnit (State.core (queuedMx (mxOp1 0 false)) 0) 2).queue = [mxOp1 0 false]
      ∧ quiesced (queuedMx (mxOp1 0 false)) 0 (64 + 0) = false ∧ (mxOp1 0 false).checked = false ∧ mxFailure (mxOp1 0 false) = none
      ∧ (Core.mxUnit (State.core (queuedMx mxOp0) 0) 2).queue = [mxOp0] ∧ (mxFailure mxOp0).isSome = true := by decide
/-- 64 by 64 elements: more pairs than one step does. -/
def mxOpBig : MxOp := { mxOp1 0 true with block := [1, 2, 0, 0, 0, 0, 0, 0, 64, 64, 0, 1] ++ List.replicate 52 0 }
theorem witness_MatrixAndEncke_step :
    (Core.mxUnit (State.core (runningMx (mxOp1 0 true)) 0) 2).exec = some (mxOp1 0 true)
      ∧ 2000 ≤ (State.core (runningMx (mxOp1 0 true)) 0).bucket
      ∧ mxTotal (mxOp1 0 true) ≤ (mxOp1 0 true).pw + (fmtPairs (mxOp1 0 true).fmt.toNat).getD 192 ∧ (mxOp1 0 true).pw ≤ mxTotal (mxOp1 0 true)
      ∧ (Core.mxUnit (State.core (runningMx mxOpBig) 0) 2).exec = some mxOpBig
      ∧ mxOpBig.pw + (fmtPairs mxOpBig.fmt.toNat).getD 192 < mxTotal mxOpBig := by decide
theorem witness_MatrixAndEncke_poor :
    (State.core (withCore (fun c => { c with bucket := 1999 }) (runningMx mxOpBig)) 0).bucket < 2000
      ∧ (Core.mxUnit (State.core (withCore (fun c => { c with bucket := 1999 }) (runningMx mxOpBig)) 0) 2).exec = some mxOpBig := by decide
theorem witness_MatrixAndEncke_quiesce :
    ∀ u < 4, ∀ o, (Core.mxUnit (State.core (runningMx (mxOp1 0 true)) 0) u).exec = some o → o.team ≠ 1 := by
  intro u hu o ho
  have h : ((Core.mxUnit (State.core (runningMx (mxOp1 0 true)) 0) u).exec.all fun o => o.team != 1) = true := by
    match u, hu with
    | 0, _ => decide
    | 1, _ => decide
    | 2, _ => decide
    | 3, _ => decide
  simpa [ho] using h

/-! ### Encke -/

def pkq0 : OpEncke := ⟨g7, none, 0, 4, 6⟩
def ekOffer : Offer := { band := 0, lanes := 0xFF, pc := ⟨0x1000, 0⟩, hdr := 0x16000000, instr := .pkq pkq0, seq := 1, price := 20 }
def ekOffered : State := dieWith (fun d => { d with ekOffers := [ekOffer] }) { placed (.pkq pkq0) with issue := none }
theorem witness_MatrixAndEncke_accept :
    (State.die ekOffered 0).ekOffers = [ekOffer] ∧ (offerIx ekOffered ekOffer).isSome = true
      ∧ offerIx (State.modDie ekOffered 0 fun d => { d with ekOffers := [ekOffer] }) ekOffer = offerIx ekOffered ekOffer
      ∧ enckeReady (State.modDie ekOffered 0 fun d => { d with ekOffers := [ekOffer] }) ekOffer = true
      ∧ enckeKind ekOffer.instr = some (.query, pkq0) ∧ freeEkSlot (State.die ekOffered 0) = some 0 := by decide

/-- A set of two half keys of one dimension, with rows of one .f32 at 0x5000. -/
def keys0 : KeySet :=
  { logn := 1, vfmt := 1, mom := false, hd := 1, rlen := 1, k1 := 0x4000, k2 := 0x4080, vt := 0x5000, rstr := 16, mt := 0, mstr := 0
    clip := 0x3F800000, lr := 0, beta := 0, cwg := 0, cwv := 0 }
def batch0 : Batch :=
  { nq := 1, k := 1, wmode := 0, smf := 0x3F800000, qg := 0x100, qstr := 16, og := 0x200, ostr := 16, sg := 0x300, sstr := 16
    cwg := 0, cwv := 0 }
def ekCmd0 (kind : EkKind) (cur : Option EkQuery) (qp : Nat) : EkCmd :=
  { kind := kind, band := 0, team := 0, ctx := 1, core := 0, lanes := 1, dc := 2, set := 3, block := some keys0, batch := some batch0
    sa := 0x80, cw := none, qp := qp, cur := cur, parked := false, written := false, seq := 1, uid := 6 }
def staged0 : Staged := { ctx := 1, set := 3, upto := none, block := keys0, keys := [], done := 8, slot := 5 }
/-- A front with one command, and block 0 of core 0's slice owned by context 1. -/
def ekState (c : EkCmd) (g : Option Staged) : State :=
  withHdr (fun h => { h with scratch := 0x1000 }) (withCore (fun c => { c with owners := [(0, (1, 0))] })
    (dieWith (fun d => { d with ek := [(5, c)], staged := g }) idle))
def queryState : State := ekState (ekCmd0 .query none 0) (some staged0)
/-- The line of the keys is in the die's L2, or has still to come. -/
def stages (s : State) (p : Access → Bool) : Bool :=
  Table.find 5 (State.die s 0).ek == some (ekCmd0 .query none 0) && ekMayBegin s 0 (ekCmd0 .query none 0)
    && (State.die s 0).staged == none && match rangeCheck (State.ctx s 1) (keyVa keys0 0) (permEk + permRd) with
      | some a => p (readMem 0 s a 128).1
      | none => false
set_option maxRecDepth 20000 in
theorem witness_MatrixAndEncke_staging :
    stages (cached 128 (ekState (ekCmd0 .query none 0) none)) (fun a => match a with
      | .ok _ => true
      | _ => false) = true
      ∧ stages (ekState (ekCmd0 .query none 0) none) (fun a => match a with
        | .busy => true
        | _ => false) = true := by decide
theorem witness_MatrixAndEncke_halts :
    (let s := withCore (fun c => { c with owners := [] }) queryState;
      ekMayBegin s 0 (ekCmd0 .query none 0) && stagedFor (State.die s 0) (ekCmd0 .query none 0) && match (ekSramRead s 0 1 0x100 4).1 with
        | .inr _ => true
        | _ => false) = true := by decide
theorem witness_MatrixAndEncke_query :
    ekMayBegin queryState 0 (ekCmd0 .query none 0) = true ∧ stagedFor (State.die queryState 0) (ekCmd0 .query none 0) = true
      ∧ (match (ekSramRead queryState 0 1 0x100 4).1 with
        | .inl _ => true
        | _ => false) = true := by decide
/-- A query of `n` ranks, each of row 2, which lies in line 160. -/
def query0 (n : Nat) (place : Option (List (Nat × Nat))) : EkQuery :=
  { q := 0, sel := List.replicate n (2, 0x3F800000), rank := 0, acc := [0], place := place }
def rowPlace : Nat × Nat := (0x5020, 2 ^ 21 + 0x5020)
def rowState (kind : EkKind) (n : Nat) (place : Option (List (Nat × Nat))) : State := ekState (ekCmd0 kind (some (query0 n place)) 0) none
/-- What a query meets when its rows are translated: its pages, a request that holds, or a fault. -/
def translates (kind : EkKind) (need : Nat) (write : Bool) (f : State → State) (p : Option (List (Nat × Nat) ⊕ Halt_) → State → Bool) : Bool :=
  let s := f (rowState kind 1 none)
  let r := ekTranslate 0 1 need write (if write then updateRows keys0 (query0 1 none).sel else [rowVa keys0 2]) s
  p r.1 r.2
/-- The page is MIGRATING. -/
def migrating (s : State) : State := { s with dram := Memory.store [] 0 (natLe 8 4) }
set_option maxRecDepth 20000 in
theorem witness_MatrixAndEncke_translated :
    translates .query (permEk + permRd) false id (fun r s1 => match r with
        | some (.inl ps) => ps == [rowPlace] && match ekSramWrite s1 0 1 0x300 (recordOf (query0 1 none).sel) with
          | .inl _ => true
          | _ => false
        | _ => false) = true
      ∧ translates .query (permEk + permRd) false migrating (fun r _ => r.isNone) = true
      ∧ translates .query (permEk + permRd) false (fun s => { s with dram := [] }) (fun r _ => match r with
        | some (.inr _) => true
        | _ => false) = true
      ∧ translates .update (permEk + permRd + permWr) true id (fun r _ => match r with
        | some (.inl _) => true
        | _ => false) = true := by decide
theorem witness_MatrixAndEncke_rows :
    [1, 2].all (fun n => (query0 n none).sel[0]? == some (2, 0x3F800000) && ((0 + 1 == (query0 n none).sel.length) == (n == 1))
      && !linesReady (rowState .query n (some [rowPlace, rowPlace])) (memDie rowPlace.2) rowPlace 4 false
      && linesReady (cached 160 (rowState .query n (some [rowPlace, rowPlace]))) (memDie rowPlace.2) rowPlace 4 false
      && (match ekRead (memDie rowPlace.2) rowPlace.1 4 (cached 160 (rowState .query n (some [rowPlace, rowPlace]))) with
        | .inl _ => true
        | _ => false)
      && rowPlaces keys0 [rowPlace, rowPlace] 0 == (some rowPlace, none)
      && linesReady (cached 160 (rowState .update n (some [rowPlace, rowPlace]))) (memDie rowPlace.2) rowPlace 4 true
      && match (applyRow keys0 2 0x3F800000 [0] rowPlace none (cached 160 (rowState .update n (some [rowPlace, rowPlace])))).1 with
        | .inl _ => true
        | _ => false) = true := by decide
/-- A record whose row is below the row count, and one whose row is not. -/
def updateState (r : Nat) : State := { ekState (ekCmd0 .update none 0) none with sram := Memory.store [] 0x300 (natLe 8 r) }
theorem witness_MatrixAndEncke_update :
    [2, 4].all (fun r => ekMayBegin (updateState r) 0 (ekCmd0 .update none 0)
      && match ekSramRead (updateState r) 0 1 0x300 8 with
      | (.inl rb, s1) => ((List.range 1).find? (fun n => decide (4 ≤ ((readSelection rb 1).getD n (0, 0)).1)) == if r = 4 then some 0 else none)
        && match (ekSramRead s1 0 1 0x100 4).1 with
          | .inl _ => true
          | _ => false
      | _ => false) = true := by decide
theorem witness_MatrixAndEncke_status :
    (let s := ekState (ekCmd0 .stat none 0) none;
      ekMayWork (State.die s 0) (ekCmd0 .stat none 0) && !marked s 0 && (State.home s 0).any fun h =>
        (sramForm 0 h.2.1 h.2.2 .loc 0x80).isSome) = true := by decide
theorem witness_MatrixAndEncke_complete :
    (let s := ekState (ekCmd0 .query none 1) none;
      ekDone (ekCmd0 .query none 1) && !quiesced s 0 (128 + 0) && ekMayWork (State.die s 0) (ekCmd0 .query none 1)) = true
      ∧ (let s := ekState (ekCmd0 .load none 0) none;
        !quiesced s 0 (128 + 0) && ekMayWork (State.die s 0) (ekCmd0 .load none 0)) = true
      ∧ Table.find 5 (State.die idle 0).ek = none
      ∧ (Table.find 5 (State.die (ekState { ekCmd0 .query none 0 with parked := true } none) 0).ek).any (fun c => c.parked) = true
      ∧ ∀ e ∈ (State.die (ekState (ekCmd0 .query none 0) none) 0).ek, e.2.team = 0 → e.2.cur = none := by decide

/-! ### The dispatcher -/

def withTeam (f : Team → Team) (s : State) : State := State.modTeam s 0 f
def withHub (f : Hub → Hub) (s : State) : State := { s with hub := f s.hub }
def exitedState : State := withLanes (fun y => { y with run := .exited }) idle
theorem witness_Dispatcher_band :
    (State.home (withTeam (fun t => { t with halted := true }) idle) 0).any (fun h => h.2.1.halted) = true
      ∧ (State.home idle 0).any (fun h => !h.2.1.halted && !bandDone idle 0 h.1) = true
      ∧ (State.home exitedState 0).any (fun h => !h.2.1.halted && bandDone exitedState 0 h.1) = true := by decide
def overState : State := withGrid (fun g => { g with ended := 1 }) idle
theorem witness_Dispatcher_grid :
    (Table.find 0 idle.grids).any (fun g => g.ended != g.desc.nteam) = true
      ∧ (Table.find 0 (withHub (fun h => { h with schedstat := 4 }) overState).grids).any (fun g => g.ended == g.desc.nteam && !g.held) = true
      ∧ Hub.onHold (withHub (fun h => { h with schedstat := 4 }) overState).hub = true
      ∧ (withHub (fun h => { h with schedstat := 4 }) overState).hub.heldRecs.length < 256
      ∧ Hub.onHold overState.hub = false ∧ overState.hub.heldRecs = []
      ∧ (Table.find 0 overState.grids).any (fun g => g.ended == g.desc.nteam && g.desc.stat == 0) = true := by decide
/-- Queue 2 holds the grid, whose one team is unplaced, and is kicked. -/
def placeState : State :=
  withHub (fun h => { h with kick := 4, queues := [(2, [0])] }) (withGrid (fun g => { g with next := 0 }) { idle with teams := [], bands := [] })
theorem witness_Dispatcher_place :
    idle.hub.kick = 0 ∧ Hub.kicked (withHub (fun h => { h with kick := 4 }) idle).hub = some 2
      ∧ gridOf (withHub (fun h => { h with kick := 4 }) idle) 2 = none ∧ Hub.kicked placeState.hub = some 2
      ∧ (match lookQueue 2 placeState with
        | (.found (0, _, _, some _), _) => true
        | _ => false) = true := by decide
theorem witness_Dispatcher_timer :
    (withHub (fun h => { h with k := 4097 }) idle).hub.k % 4096 ≠ 0
      ∧ (let s := withHub (fun h => { h with k := 4096, queues := [(2, [0])] }) (withGrid (fun g => { g with desc := { g.desc with depk := 2 } }) idle);
        s.hub.k % 4096 == 0 && (Table.get [] 2 s.hub.queues).elem 0 && (Table.find 0 s.grids).any fun g => g.desc.depk == 2) = true
      ∧ teamsOfCtx idle 5 = [] := by decide
def saving (r : SaveReq) : State :=
  withTeam (fun t => { t with save := some r }) (withBand (fun b => { b with stopped := true, record := some 0, width := 1, lanes := b.lanes.take 1 })
    (State.modCtx idle 1 fun c => { c with svbase := BitVec.ofNat 64 (2 ^ 48), svsize := BitVec.ofNat 64 0x100000 }))
/-- Its one lane stopped at a liveness record that keeps nothing, of a kernel without tiles; the pool at chip address `pool`. -/
def recordState (pool : Nat) : State :=
  withGrid (fun g => { g with hdr := { g.hdr with tiles := 0, nlive := 1 }, live := [⟨0, 0, 0, []⟩] })
    (State.modCtx (saving ⟨0, none, some [], none⟩) 1 fun c => { c with svbase := BitVec.ofNat 64 (2 ^ 48 + pool), svsize := 0x100000 })
theorem witness_Dispatcher_save :
    (Table.find 0 idle.teams).any (fun t => t.save == none) = true
      ∧ [(⟨3, none, none, none⟩ : SaveReq), ⟨0, none, none, none⟩, ⟨0, some 1, some [], none⟩].all (fun r =>
        (Table.find 0 (saving r).teams).any fun t => t.save == some r) = true
      ∧ (∀ e ∈ State.bandsOf (saving ⟨0, none, none, none⟩) 0, e.2.stopped = true)
      ∧ (Table.find 0 (saving ⟨0, none, some [], none⟩).teams).any (fun t => teamQuiet (saving ⟨0, none, some [], none⟩) 0 t) = true
      ∧ (let s := withOp 4 { op0 with kind := .load 5 1 false } (saving ⟨0, none, some [], none⟩);
        (Table.find 0 s.teams).any fun t => !teamQuiet s 0 t) = true
      ∧ (let s := withTeam (fun t => { t with save := some ⟨0, none, none, none⟩ }) idle;
        (State.bandsOf (stopIdle 0 s) 0).any fun e => !e.2.stopped) = true := by decide
/-- The record is written, or its first line has still to come. -/
def recordFinds (pool : Nat) (p : Nat × Bool → Bool) : Bool :=
  let s := recordState pool
  (Table.find 0 s.teams).any fun t => t.save == some ⟨0, none, some [], none⟩ && teamQuiet s 0 t && (Table.find t.grid s.grids).any fun g =>
    (Ctx.freePoolSlot (State.ctx s g.ctx)).any fun slot =>
      let s0 := senseWindow t.core t g (savedRanges t g (bandsByNum s 0)) s
      let r := writePieces (t.core / 16) (cutPieces (Ctx.poolAt (State.ctx s g.ctx) slot) (recordPieces g { savedOf s0 0 slot t g none with base := Ctx.poolAt (State.ctx s g.ctx) slot })) 0
        (State.modCtx s0 g.ctx fun c => { c with slots := NatSet.add slot c.slots })
      p (r.1, r.2.1)
set_option maxRecDepth 20000 in
theorem witness_Dispatcher_record : (∀ e ∈ State.bandsOf (recordState 0x100000) 0, e.2.stopped = true)
    ∧ recordFinds 0x400000 (fun r => r.2) = true := by decide
set_option maxRecDepth 20000 in
theorem witness_Dispatcher_record_late : recordFinds 0x100000 (fun r => !r.2) = true := by decide
/-- A saved team, with room on its core and without. -/
def savedTeam : Saved := savedOf (recordState 0x100000) 0 0 benchTeam benchGrid none
def restoreState (bands : Table Band) : State := { idle with bands := bands, teams := [], saved := [(6, savedTeam)] }
set_option maxRecDepth 20000 in
theorem witness_Dispatcher_restore :
    Table.find 6 (restoreState []).saved = some savedTeam ∧ Table.find savedTeam.grid (restoreState []).grids = some benchGrid
      ∧ savedTeam.team.pair = false ∧ (restoreFits (restoreState []) savedTeam benchGrid 0).isSome = true
      ∧ (restoreFits (restoreState ((List.range 64).map fun k => (k, benchBand))) savedTeam benchGrid 0) = none := by decide

/-! ### Power and notices -/

theorem witness_PowerAndNotices_governor :
    State.reset.fw.power ≠ .ready ∧ idle.fw.power = .ready ∧ idle.hub.k = 0 ∧ idle.hub.pwrgov.getLsbD 40 = true
      ∧ (withHub (fun h => { h with k := 9, pwrgov := 0 }) idle).hub.k ≠ 0
      ∧ (withHub (fun h => { h with k := 9, pwrgov := 0 }) idle).hub.pwrgov.getLsbD 40 = false := by decide
theorem witness_PowerAndNotices_heat :
    [(0, 0), (8191, 65535), (8192, 65536)].all (fun n =>
      let s := withCore (fun c => { c with hotFor := n.1, coolFor := n.2 }) { idle with teams := [] };
      (State.core s 0).hotFor == n.1 && (State.core s 0).coolFor == n.2
        && (teamsOn (State.modCore s 0 fun c => { c with hotFor := 0 }) 0).isEmpty) = true := by decide
def intent0 (kind : Nat) : PowerIntent := { kind := kind, src := 2, amount := 500, delay := 1500, dur := 2000 }
/-- Power group 1 with members 1 and 2, and an intent held since this hub cycle. -/
def groupHub (last : Option Nat) : State :=
  withHub (fun h => { h with k := 5000, pgcfg := BitVec.ofNat 64 (2 ^ 48 + 1), members := 6, heldIntent := some (intent0 1, 5000), lastIntent := last }) idle
theorem witness_PowerAndNotices_intents :
    idle.hub.heldIntent = none ∧ (groupHub none).hub.heldIntent = some (intent0 1, (groupHub none).hub.k)
      ∧ (groupHub none).hub.pgcfg.getLsbD 48 = true ∧ (groupHub none).hub.lastIntent = none ∧ (groupHub (some 4001)).hub.lastIntent = some 4001
      ∧ (groupHub (some 4001)).hub.k < 4001 + 1000 ∧ idle.hub.pgcfg.getLsbD 48 = false
      ∧ (intent0 3).kind = 3 ∧ (intent0 1).kind = 1 ∧ (intent0 1).dur ≠ 0 ∧ (intent0 1).delay ≤ 63000 := by decide
theorem witness_PowerAndNotices_members :
    (groupHub none).hub.members.getLsbD (intent0 3).src = true ∧ (groupHub none).hub.members.getLsbD 3 = false := by
  simp [groupHub, withHub, intent0]
theorem witness_PowerAndNotices_takeover :
    Hub.onHold idle.hub = false ∧ idle.hub.schedstat.getLsbD 0 = false
      ∧ Hub.onHold (withHub (fun h => { h with schedstat := 13 }) idle).hub = true
      ∧ (withHub (fun h => { h with schedstat := 13 }) idle).hub.schedstat.getLsbD 17 = false
      ∧ (withHub (fun h => { h with schedstat := 13 }) idle).waiting.any isLaunch = false
      ∧ (withHub (fun h => { h with schedstat := 13 }) idle).hub.schedstat.getLsbD 0 = true := by decide
def notice0 : Notice := { kind := 1, ctx := 1, core := 0, aux := 0, grid := 1, team := 0, band := 0, lane := 3, a := 5, b := 6 }
theorem witness_PowerAndNotices_notices :
    (withHub (fun h => { h with noticeWait := [notice0] }) idle).hub.noticeWait = notice0 :: []
      ∧ (withHub (fun h => { h with noticeWait := [notice0] }) idle).hub.notices.length < 256
      ∧ 256 ≤ (withHub (fun h => { h with noticeWait := [notice0], notices := List.replicate 256 notice0 }) idle).hub.notices.length := by
  refine ⟨by decide, by decide, ?_⟩
  show 256 ≤ (List.replicate 256 notice0).length
  rw [List.length_replicate]

/-! ### Firmware -/

def session0 : Session := { key := some 0, proved := false, nonce := 9, rkey := 5, last := 4, replies := [], waits := [], idle := 0 }
def proved0 : Session := { session0 with proved := true }
def withSession (x : Session) (s : State) : State := { s with fw := { s.fw with linkUp := true, sessions := [(3, x)] } }
def origin0 : Origin := ⟨7, false, 4000, some (1, 2)⟩
def head0 (n : Nat) (signed : Bool) : MsgHead := { session := 3, msgnum := n, signed := signed, sigOk := true, src := origin0 }
def fwState : State := withSession session0 idle
def authState : State := withSession proved0 idle
theorem witness_FirmwareCommands_session : Commands (head0 5 false) .session fwState session0 ∧ Commands (head0 5 false) .any fwState session0 :=
  ⟨⟨by decide, by decide, by decide, by decide, by decide, by decide, by decide, by decide, by decide⟩,
    ⟨by decide, by decide, by decide, by decide, by decide, by decide, by decide, by decide, by decide⟩⟩
theorem witness_FirmwareCommands_auth : Commands (head0 5 true) .auth authState proved0 :=
  ⟨by decide, by decide, by decide, by decide, by decide, by decide, by decide, by decide, by decide⟩
theorem witness_FirmwareCommands_states :
    ({ fwState with fw := { fwState.fw with power := .booting 2 } } : State).fw.linkUp = true
      ∧ ({ fwState with fw := { fwState.fw with power := .failed 2 } } : State).fw.linkUp = true
      ∧ (groupRegs (begun (head0 5 false) none fwState) 1 0).isSome = true ∧ (groupRegs (begun (head0 5 false) none fwState) 8 0).isSome = true
      ∧ session0.proved = false := by decide
def reply0 : Reply := { opcode := 2, session := 3, msgnum := 4, status := 0, payload := .none, dst := origin0 }
theorem witness_FirmwareCommands_turn :
    (head0 4 false).msgnum ≠ session0.last + 1 ∧ ({ session0 with replies := [reply0] }.replies.find? fun r => r.msgnum == 4) = some reply0
      ∧ (session0.replies.find? fun r => r.msgnum == 4) = none ∧ session0.waits = [] ∧ fwState.fw.running = [] := by decide
theorem witness_FirmwareCommands_open :
    fwState.fw.sessions.length < 16 ∧ (⟨0, 0, false, true, origin0⟩ : MsgHead).session = 0 ∧ session0.key.isSome = true ∧ session0.nonce = 9
      ∧ Commands (head0 5 true) .session fwState session0 ∧ session0.idle < 60000000000
      ∧ 60000000000 ≤ ({ session0 with idle := 60000000000 } : Session).idle :=
  ⟨by decide, by decide, by decide, by decide, ⟨by decide, by decide, by decide, by decide, by decide, by decide, by decide, by decide, by decide⟩,
    by decide, by decide⟩
theorem witness_FirmwareCommands_ctxnew :
    ((List.range 256).drop 1).find? (fun n => (Table.find n authState.ctxs).isNone) = some 2 ∧ 0x200 % 512 = 0 := by decide
/-- The state before the pages of a context that ends are taken back. -/
def ended1 (s : State) : State := removeGrids 1 (removeTeams 1 (leaveFabric 1 (dropL1s 1 (stopCtx 1 (begun (head0 5 true) (some 1) s)))))
def mappedState : State := { authState with fw := { authState.fw with pages := [(0, ⟨false, none, none⟩)] } }
set_option maxRecDepth 20000 in
theorem witness_FirmwareCommands_ctxend :
    [(authState, false), (mappedState, true)].all (fun e => (Table.find 1 e.1.ctxs).isSome && e.1.fw.running == []
      && (let rs := validRanges (ended1 e.1) 1
          let s2 := rs.foldl (fun s r => unmapPages 0 r s) (ended1 e.1);
          (rs.any fun r => stillMapped r s2) == e.2 && s2.fw.regens == [])) = true := by decide
/-- 64 KiB on unit 0 for range 2, filled at its first use or at once; and the same with no unit. -/
def map0 (units flags : Nat) : MapArgs :=
  { ctx := 1, k := 2, flags := flags, tier := 0, units := units, perm := 3, va := 0x200000, len := 0x10000, rgk := 0 }
def mapState : State := { authState with teams := [], bands := [], grids := [] }
/-- Unit 0 has no frame left, and a page is on its way out of it. -/
def fullUnit : State :=
  { mapState with units := [(0, { State.unit mapState 0 with frames := 1 })], fw := { mapState.fw with moves := [⟨0, 1, false, .regen 0, 1⟩] } }
theorem witness_FirmwareCommands_map :
    mapOk (begun (head0 5 true) (some 1) mapState) (map0 0 0) = false ∧ mapOk (begun (head0 5 true) (some 1) mapState) (map0 1 0) = true
      ∧ mapOk (begun (head0 5 true) (some 1) authState) (map0 1 0) = true ∧ ctxBusy (begun (head0 5 true) (some 1) authState) 1 = true
      ∧ ctxBusy (begun (head0 5 true) (some 1) mapState) 1 = false
      ∧ (Ctx.range (State.ctx (begun (head0 5 true) (some 1) mapState) 1) 2 3).testBit 0 = false
      ∧ (freeChip (begun (head0 5 true) (some 1) mapState) 1 1).isSome = true := by decide
set_option maxRecDepth 20000 in
theorem witness_FirmwareCommands_gather :
    [0, 1].all (fun f => match gather (unitsOf (map0 1 f)) false f 0 [] (begun (head0 5 true) (some 1) mapState) with
      | .all .. => true
      | _ => false) = true
      ∧ mapOk (begun (head0 5 true) (some 1) fullUnit) (map0 1 1) = true ∧ ctxBusy (begun (head0 5 true) (some 1) fullUnit) 1 = false
      ∧ (freeChip (begun (head0 5 true) (some 1) fullUnit) 1 1).isSome = true
      ∧ (match gather (unitsOf (map0 1 1)) false 1 0 [] (begun (head0 5 true) (some 1) fullUnit) with
        | .busy _ => true
        | _ => false) = true := by decide
/-- Range 2 of the context, with its page mapped or not. -/
def onePage (pages : Table PageRec) : State :=
  State.modCtx { mapState with fw := { mapState.fw with pages := pages }, dram := Memory.store mapState.dram 8 (natLe 8 (25 + 32 * 2 ^ 16)) } 1 fun c =>
    { c with ranges := [(2 * 4, 0x200000), (2 * 4 + 1, 0x200000), (2 * 4 + 2, 0x800000), (2 * 4 + 3, 0xFF)] }
set_option maxRecDepth 20000 in
theorem witness_FirmwareCommands_unmap :
    [([], false), ([(0x80, ⟨false, none, none⟩)], true)].all (fun e =>
      let s := onePage e.1
      let b := begun (head0 5 true) (some 1) s
      let s1 := unmapPages 3 (rangePages (State.ctx s 1) 2) (setStage (head0 5 true) 1 b);
      liveCtx s 1 && !ctxBusy b 1 && (Ctx.range (State.ctx s 1) 2 3).testBit 0 && stillMapped (rangePages (State.ctx s 1) 2) s1 == e.2
        && !ctxBusy (dropL1s 1 s1) 1 && (dropL1s 1 s1).fw.regens == []) = true := by decide
def blob0 (sig : Bool) : Blob :=
  { owner := 7, sigOk := sig, ips := [1], vlan := 0, prio := 0, id := 1, keys := [], nsw := 8, coreclk := [32, 32, 32, 32], mtu := 9216 }
theorem witness_FirmwareCommands_blob : fwState.fw.boot ≠ 2 ∧ blobOk (blob0 true) = true ∧ blobOk (blob0 false) = true
    ∧ fwState.fw.blob.owner = none := by decide

theorem witness_FirmwareServices_routes :
    liveCtx mapState 1 = true ∧ ctxResident (begun (head0 5 true) (some 1) mapState) 1 = false ∧ mapState.fw.running = [] ∧ (0 : Dword).toNat &&& routeMask = (0 : Dword).toNat
      ∧ (0 : Dword).toNat &&& svbaseMask = (0 : Dword).toNat ∧ (0 : Dword).toNat &&& svsizeMask = (0 : Dword).toNat
      ∧ Commands (head0 5 true) .auth mapState proved0 :=
  ⟨by decide, by decide, by decide, by decide, by decide, by decide,
    ⟨by decide, by decide, by decide, by decide, by decide, by decide, by decide, by decide, by decide⟩⟩
/-- The image at 0x3000 with the flags word `n`, in the L2 that the hub reads through. -/
def imageState (n : Nat) : State :=
  dieWith (fun d => { d with l2 := [(96, ⟨.e, List.replicate 6 0 ++ [BitVec.ofNat 8 n] ++ List.replicate 121 0, 0⟩)] }) authState
set_option maxRecDepth 20000 in
theorem witness_FirmwareServices_regen :
    [0, 1].all (fun n => liveCtx (imageState n) 1 && match readSpan 1 permRd 0x3000 8 (begun (head0 5 true) (some 1) (imageState n)) with
      | (.ok bs, s1) => ((fieldAt bs 6 2).testBit 0 == (n == 1))
        && (List.range 4096).find? (fun n => (Table.find n s1.fw.kernels).isNone) == some 0
      | _ => false) = true
      ∧ (match readSpan 1 permRd 0x3000 8 (begun (head0 5 true) (some 1) authState) with
        | (.busy, _) => true
        | _ => false) = true := by decide
/-- A descriptor of one team with its image at 0x3000. -/
def descBytes : List Byte := natLe 8 0x3000 ++ natLe 4 1 ++ List.replicate 116 0
set_option maxRecDepth 20000 in
theorem witness_FirmwareServices_launch :
    (Table.find 1 authState.ctxs).isSome = true ∧ (State.ctx authState 1).stopped = false ∧ authState.fw.noLaunch = false
      ∧ authState.fw.running = [] ∧ (Table.get [] 2 authState.hub.queues).length < 256
      ∧ [(List.replicate 128 0, false), (descBytes, true)].all (fun e => e.1.length == 128
        && match launchGrid 1 2 e.1 none (begun (head0 5 true) (some 1) authState) with
          | .done _ => !e.2
          | .busy _ => e.2) = true := by decide
theorem witness_FirmwareServices_launch_full : (List.replicate 128 (0 : Byte)).length = 128
    ∧ 256 ≤ (Table.get [] 2 (withHub (fun h => { h with queues := [(2, List.replicate 256 0)] }) authState).hub.queues).length := by
  refine ⟨by simp, ?_⟩
  show 256 ≤ (List.replicate 256 0).length
  rw [List.length_replicate]
theorem witness_FirmwareServices_wait :
    (State.ctx (State.modCtx authState 1 fun c => { c with stopped := true }) 1).stopped = true ∧ (State.ctx authState 1).stopped = false
      ∧ (gridNamed authState 1 1).isSome = true ∧ proved0.waits.length < 8 ∧ gridNamed authState 1 2 = none ∧ Hub.onHold authState.hub = false
      ∧ Hub.onHold (withHub (fun h => { h with schedstat := 4 }) authState).hub = true
      ∧ gridNamed (withHub (fun h => { h with schedstat := 4 }) authState) 1 2 = none
      ∧ (State.ctx authState 1).done.find? (fun c => c.gridid == 2) = none
      ∧ (State.ctx (State.modCtx authState 1 fun c => { c with done := [⟨2, 0, 0, 0⟩] }) 1).done.find? (fun c => c.gridid == 2)
        = some ⟨2, 0, 0, 0⟩ := by decide
theorem witness_FirmwareServices_timeout :
    [some 0, some 5, none].all (fun n => (Table.find 3 (withSession { proved0 with waits := [⟨6, 1, 1, n, origin0⟩] } idle).fw.sessions).any fun x =>
      x.waits == [⟨6, 1, 1, n, origin0⟩]) = true ∧ Hub.onHold (withSession proved0 idle).hub = false := by decide

/-! ### Start-up and the port -/

def env0 (f : Option StageFailure) : PowerOnEnv := { dimms := [], boot := 0, plim := 0, pgen := true, noCore := true, stationsDown := 0, blobBad := false, failure := f }
def booting (f : Option StageFailure) : State := { idle with fw := { idle.fw with power := .booting 2, failure := f } }
theorem witness_StartupAndPort_power : (env0 none).failure = none ∧ (env0 (some ⟨1, 2, 3, 4, 5⟩)).failure = some ⟨1, 2, 3, 4, 5⟩
    ∧ (booting none).fw.power = .booting 2 ∧ (booting none).fw.failure = none ∧ (booting (some ⟨2, 0, 0, 0, 0⟩)).fw.failure.isSome = true := by decide
theorem witness_StartupAndPort_register : (writeReg .thermcfg 5 idle).isSome = true := by decide
/-- The state with a blob applied that gives the device the address 1. -/
def homeState : State := { fwState with fw := { fwState.fw with blob := ⟨none, some (blob0 true), none⟩ } }
def part0 (more : Bool) : IpFragment := { src := 1, dst := 1, ext := false, ident := 2, v6 := false, offset := 0, more := more, bytes := [1, 2, 3, 4, 5, 6, 7, 8], tag := none }
set_option maxRecDepth 20000 in
theorem witness_StartupAndPort_fragments : homeState.fw.linkUp = true ∧ homeState.fw.partials = [] ∧ IpFragment.hi (part0 true) ≤ 9216
    ∧ datagramWhole [part0 true] = false ∧ datagramWhole [part0 false] = true
    ∧ answersAt homeState false 1 = true ∧ packetOk (part0 true) = true ∧ packetOk (part0 false) = true
    ∧ answersAt homeState false 5 = false ∧ packetOk { part0 true with v6 := true, ext := true } = false
    ∧ 9216 < IpFragment.hi { part0 true with offset := 1152 } := by decide
/-- The last part of the datagram whose first is `part0 true`. -/
def part1 : IpFragment := { part0 false with offset := 1 }
set_option maxRecDepth 20000 in
theorem witness_StartupAndPort_parts : sameDatagram part1 ⟨1, 2, [part0 true], 0⟩ = true ∧ datagramWhole [part0 true, part1] = true
    ∧ datagramWhole [part0 true, { part0 true with offset := 1 }] = false := by decide
/-- A datagram to port 7216 from port 4000 that holds a request of opcode 1 of the given version, as session 0's message 0. -/
def statusPart (ver : Byte) : IpFragment :=
  { part0 false with bytes := [0x0F, 0xA0, 0x1C, 0x30, 0, 40, 0, 0, 0x46, 0x48, ver, 0, 1, 0] ++ List.replicate 26 0 }
def head1 : MsgHead := ⟨0, 0, false, false, ⟨1, false, 4000, none⟩⟩
set_option maxRecDepth 20000 in
theorem witness_StartupAndPort_datagram :
    datagramWhole [statusPart 1] = true ∧ macOnly fwState = false
      ∧ [(statusPart 1, Received.due (.fwStatus head1)), (statusPart 2, .malformed 1 head1), (part0 false, .nothing)].all (fun e =>
        readMessage fwState e.1.src e.1.v6 e.1.tag (datagramBytes [e.1]) == e.2) = true := by decide
theorem witness_StartupAndPort_paused :
    ({ fwState with fw := { fwState.fw with pause := 4, paused := [(2, .nak 1 false [])] } } : State).fw.paused = [(2, .nak 1 false [])]
      ∧ Origin.prio reply0.dst = 2 ∧ (4 : BitVec 8).getLsbD (Origin.prio reply0.dst) = true
      ∧ fwState.fw.pause.getLsbD (Origin.prio reply0.dst) = false ∧ 1500 ≤ messageMtu fwState := by decide
set_option maxRecDepth 20000 in
/-- The head of the LAUNCH of the example in chapter 19: its first word 0x0201_4846, OPCODE 8, LEN 132. -/
theorem test_message_head :
    (parseHead ([0x46, 0x48, 1, 2, 8, 0, 0, 0] ++ natLe 8 0x3A9177C20B156D04 ++ natLe 8 4 ++ natLe 4 132 ++ List.replicate 200 0))
      = some ⟨true, 8, 0x3A9177C20B156D04, 4, 132, true⟩ := by decide
/-- 2,112 bytes in IPv4 packets of at most 1,500 bytes. -/
theorem test_reply_packets : packetLengths 1500 false 2112 = [1500, 660] := by decide
theorem witness_StartupAndPort_addresses :
    ({ fwState with fw := { fwState.fw with blob := ⟨none, some (blob0 true), none⟩ } } : State).fw.blob.applied = some (blob0 true) := by decide
theorem witness_StartupAndPort_refused : fwState.fw.power = .ready ∧ rkeyCtx fwState 0 = none ∧ rkeyCtx fwState (5 * 2 ^ 8 + 1) = some 1 := by decide
theorem witness_StartupAndPort_ranges :
    (Table.find 1 authState.ctxs).isSome = true ∧ ctxBusy authState 1 = true ∧ ctxBusy mapState 1 = false
      ∧ State.reset.fw.power ≠ .ready ∧ ({ idle with fw := { idle.fw with power := .booting 2 } } : State).fw.power = .booting 2 := by decide
/-- What an access of 4 bytes at 0x3000 by the hub meets: its line is there in M, or has still to come, or its page faults. -/
def rdmaFinds (write : Bool) (s : State) (p : Bool × Bool → Option Halt_ × Bool → List Byte × Bool → Bool) : Bool :=
  match hubNeeds s 1 (permRm + if write then permWr else permRd) (lineCount 0x3000 4) 0x3000 4 with
  | some ns =>
    let u := hubPages write none ns s
    let a := askHub write (ns.take 64) u.2.2
    p (u.1, u.2.1) (a.1, a.2.1) (hubRead (ns.take 64) a.2.2)
  | none => false
set_option maxRecDepth 20000 in
theorem witness_StartupAndPort_rdma :
    [true, false].all (fun w => rdmaFinds w (cached 96 fwState) (fun u a r => u == (false, false) && a == (none, false) && !r.2)
      && rdmaFinds w fwState (fun u a _ => u == (false, true) || (u == (false, false) && a == (none, true)))
      && rdmaFinds w { fwState with dram := [] } (fun u a _ => u.1 || a.1.isSome)) = true
      ∧ hubNeeds fwState 1 (permRm + permWr) (lineCount 0x400000 4) 0x400000 4 = none := by decide

/-! ## Results of the spec's examples, each by one step -/

def after (s : State) : State :=
  match step s with
  | .next t => t
  | _ => State.reset
def bandAfter (s : State) : Band := (Table.find 0 (after s).bands).getD benchBand
def lanes0 (f : Nat → Lane → Lane) : State → State := withBand fun b => { b with lanes := b.lanes.map fun e => (e.1, f e.1 e.2) }
def vecs (r : Nat) (hs : List Held) : List Nat := hs.filterMap fun h => match h with
  | .vec _ q x => if q = r then some x.toNat else none
  | _ => none

/-- R250's example: the saturated sum. -/
theorem test_iadd_saturates :
    let s := lanes0 (fun l y => { y with v := [(4, 0xFFFFFFF0), (5, 0x7FFFFFFF)], c := if l = 3 then 4 else 0 })
      (withBand (fun b => { b with s := [(12, 0x20)] }) (placed (.iaddVR ⟨⟨true, 2⟩, .i64, true, 10, 4, .sca 12⟩)));
    (vecs 10 (bandAfter s).held, vecs 11 (bandAfter s).held) = (List.replicate 7 0xFFFFFFFF, List.replicate 7 0x7FFFFFFF) := by decide
/-- The example of the bitwise majority (R246). -/
theorem test_lmux_majority :
    let s := lanes0 (fun _ y => { y with v := [(1, 0xFFFF), (2, 0xFF00FF), (5, 0xF0F0F0F)] }) (ofWords (0x3480C082, 0x1F901400));
    vecs 3 (bandAfter s).held = List.replicate 8 0xF0FFF := by decide
/-- The first IADDC of the example of a 64-bit sum (R243). -/
theorem test_iaddc_carries :
    let s := lanes0 (fun _ y => { y with v := [(0, 0xFFFFFFFF), (2, 1)] }) (placed (.iaddc ⟨g7, .n32, 4, 0, .vec 2, 1⟩));
    (bandAfter s).held.elem (.vec 6 4 0) && (bandAfter s).held.elem (.cond 6 1 true) = true := by decide
/-- The second PACK of its example: 500.0 saturates, with OF and NX (R213, R264). -/
theorem test_pack_saturates :
    let s := lanes0 (fun _ y => { y with v := [(3, 0x43FA0000), (4, 0x3D800000), (6, 0xC2380000)] })
      (placed (.pack ⟨g7, .rn, true, .e4m3, .f32, 6, 3, .vec 4⟩));
    (vecs 6 (bandAfter s).held = List.replicate 8 0x187EC238) ∧ (bandAfter s).fflags = 0x14 := by decide
/-- R217's example of stochastic rounding: 0x39, and G becomes 0x0004_2021. -/
theorem test_stochastic_rounding :
    let s := lanes0 (fun _ y => { y with v := [(2, 0x3F880008)], gen := 1 }) (placed (.cvtsr ⟨g7, false, .e4m3, .f32, 1, 2⟩));
    vecs 1 (bandAfter s).held = List.replicate 8 0x39 ∧ (Band.lane (bandAfter s) 5).gen = 0x00042021 := by decide
/-- The example of XPUSH (R270, R272). -/
theorem test_xpush_collides :
    let s := lanes0 (fun l y => { y with v := [(7, BitVec.ofNat 32 (10 * l)), (8, [3, 3, 1, 0, 7, 7, 7, 2].getD l 0), (9, 0xFFFFFFFF)] })
      (placed (.xpush ⟨g7, .w32, 9, 7, .vec 8, 2⟩));
    (([(0, 30), (1, 20), (2, 70), (3, 10), (7, 60)] : List (Nat × Word)).all fun e => (bandAfter s).held.elem (.vec e.1 9 e.2)) = true
      ∧ (vecs 9 (bandAfter s).held).length = 5 ∧ (bandAfter s).held.elem (.cond 3 2 true) = true
      ∧ (bandAfter s).held.elem (.cond 4 2 true) = false := by decide
/-- The example of exact sums: the inclusive scan of 2^100, 1, -2^100, 1 (R275). -/
theorem test_kscan_exact :
    let s := lanes0 (fun l y => { y with v := [(1, [0x71800000, 0x3F800000, 0xF1800000, 0x3F800000].getD l 0)], c := if l < 4 then 2 else 0 })
      (placed (.kscan ⟨⟨false, 1⟩, .f32, .rn, false, 2, 1⟩));
    vecs 2 (bandAfter s).held = [0x71800000, 0x71800000, 0x3F800000, 0x40000000] ∧ (bandAfter s).ka.nan = false
      ∧ (bandAfter s).fflags = 0x10 := by decide
/-- The example of GCVT.glb, on core 9 with LB 0x100_0000 (R87): by R81, 9 × 2^26 + 0x100_0000 + 0x400 (log 43). -/
theorem test_gcvt_global :
    let s := ofWords (0x82818100, 0x841DC008);
    let s := { s with bands := [(576, { benchBand with s := [(9, 0xF2000000)], lanes := benchBand.lanes.map fun e =>
        (e.1, { e.2 with v := [(2, 0x400)], c := if e.1 = 0 then 2 else 0 }) })]
                      teams := [(0, { benchTeam with core := 9, lb := 0x1000000 })]
                      grids := [(0, { benchGrid with hdr := { benchGrid.hdr with scratch := 0x1000 } })], issue := s.issue.map fun i => { i with band := 576 } };
    (match step s with
      | .next t => (Table.find 576 t.bands).any fun b => vecs 6 b.held == [0x25000400] && vecs 7 b.held == [0]
      | _ => false) = true := by decide
/-- BRA −5 (R354, R355). -/
theorem test_bra_back :
    (Band.lane (bandAfter (ofWords (0xC007FFFB, 0))) 3).pc.clause = 0x1000 - 5 * 4 := by decide
/-- The example of exp2f: 0.5 gives 0x3FB5_04F3 with NX. -/
theorem test_exp2 :
    let t := after (lanes0 (fun _ y => { y with v := [(2, 0x3F000000)] }) (placed (.exp2V ⟨1, 2⟩)));
    (t.ops.map fun o => o.2.accs.map fun a => a.value) = [List.replicate 8 0x3FB504F3] ∧ (t.bands.map fun b => b.2.fflags) = [16] := by decide


/-! ## Witnesses of further clauses -/

theorem witness_SpecialAndConstant_misaligned :
    (let i := Instr.sldc ⟨g7, .w64, 16, 22, 0x12⟩;
      (ixOf i (placed i)).any fun x => ((x.s 22).toNat + 0x12) % 2 ^ 32 % 8 != 0 && !heldUp i x (placed i) && !reservedReg (uses i) x) = true := by
  decide
/-- The core's deque holds the grid's entry, or none of it. -/
theorem witness_TaskInstructions_take :
    [[⟨List.replicate 8 5, benchGrid.desc.gridid, 1⟩], [⟨List.replicate 8 5, benchGrid.desc.gridid + 1, 1⟩], []].all (fun q =>
      let s := withCore (fun c => { c with deque := q }) (placed (.take ⟨g7, none, 16⟩))
      (State.core s 0).deque == q && q.all (fun k => k.words.length == 8)
        && goesWith plain (.take ⟨g7, none, 16⟩) noCause s && goesWith plain (.spawn ⟨g7, none, 16⟩) noCause (placed (.spawn ⟨g7, none, 16⟩))) = true := by
  decide
set_option maxRecDepth 20000 in
/-- A descriptor in which DEPK is 3, and the grid of the placed machine as one that is queued. -/
theorem witness_TaskInstructions_refused :
    (let bs : List Byte := List.replicate 48 0 ++ [3] ++ List.replicate 79 0;
      bs.length == 128 && fieldAt bs 0x28 8 == 0 && !descOk bs) = true ∧ benchGrid.queue < 8 := by decide
theorem witness_RejoinAndExit_deadlock :
    (ixOf (.rjwait ⟨g7⟩) (placed (.rjwait ⟨g7⟩))).any (fun x => (x.act.all fun l => (Band.lane x.b l).rdp == 0)
      && !heldUp (.rjwait ⟨g7⟩) x (placed (.rjwait ⟨g7⟩)) && !reservedReg (uses (.rjwait ⟨g7⟩)) x) = true := by decide
/-- Each lane's trap was taken at slot 0 of the clause at 0x1000, whose words can be fetched. -/
theorem witness_EcallResumes_skip :
    goesWith (fun s _ x => x.replay.isNone && x.act.all fun l => (Band.lane x.b l).tcause != 0 && (match fetchWord s 0 1 ((Band.lane x.b l).tepc.toNat % 2 ^ 60) with
        | .ok _ => true
        | _ => false) && match fetchWord s 0 1 ((Band.lane x.b l).tepc.toNat % 2 ^ 60 + 4 * ((Band.lane x.b l).tepc.toNat / 2 ^ 60 % 16 + 1)) with
        | .ok _ => true
        | _ => false) (.ecall ⟨g7, true⟩) (ecallCause ⟨g7, true⟩)
      (withLanes (fun y => { y with tcause := 13, tepc := 0x1000 }) (placed (.ecall ⟨g7, true⟩))) = true := by decide
/-- Lane 0 passes as the primary decoder's, lane 1 as the secondary's, each with a result for s5; and lane 2 with a trap due. -/
def bothState : State := withBand (fun b => { b with
  held := [.sca (maskOf [1]) 5 7, .sca (maskOf [0]) 5 9]
  lanes := b.lanes.map fun e => (e.1, { e.2 with second := e.1 == 1, trap := if e.1 = 2 then some (0x0D, 4) else none }) }) idle
theorem witness_SwitchPoint_both :
    (Table.find 0 bothState.bands).any (fun b => !(Band.lane b 0).second && (Band.lane b 1).second
      && b.held == [.sca (maskOf [1]) 5 7, .sca (maskOf [0]) 5 9] && (Band.lane b 2).trap == some (0x0D, 4)
      && (b.lanes.all fun e => e.1 == 2 || e.2.trap.isNone) && !uncounted bothState 0 2 && decide (2 < b.width)) = true := by decide
/-- Two bands of the quarter: band 1 has the lower SEQ, band 0 has yielded. -/
def twoBands : State :=
  { idle with bands := idle.bands.flatMap fun e => [(0, { e.2 with seq := 8, yf := true }), (1, { e.2 with seq := 7 })] }
def chosenOfTwo : State := [0, 1].foldl (fun s k => noteHolds (askBand k (enterBand k s)) k) (takeLevel 0 0 twoBands)
set_option maxRecDepth 20000 in
theorem witness_BandSelect_two :
    twoBands.issue = none ∧ quarterBands twoBands 0 0 = [0, 1] ∧ (twoBands.bands.all fun e => e.2.busy == 0) = true
      ∧ (let cs := [0, 1].filterMap fun k => (Table.find k chosenOfTwo.bands).bind (choiceOf chosenOfTwo k);
        cs.length == 2 && (chosenOfTwo.bands.all fun e => splitsDue chosenOfTwo e.1 e.2 == [])
          && (selectBand (State.core chosenOfTwo 0).bucket cs).any fun c => c.1.key == 1 && !c.2 && !c.1.timer && !c.1.p.fetch && c.1.q.isNone) = true := by
  decide
theorem witness_BandSteps_late_entry : openEntry lateState 0 = some 0 := by decide

/-- An atomic addition to the slice, with a result and without one; and accesses to line 96 of the L2, which is in M. -/
def atomOp (ret : Option Nat) (p : Place) : Op := { op0 with kind := .atomic .add false ret, accs := [{ acc0 with place := p }] }
theorem witness_SramAccess_atomic : [some 5, none].all (fun r =>
    let s := withOp 4 (atomOp r (.sram 0x100)) idle
    let o := atomOp r (.sram 0x100)
    (Table.find 4 s.ops == some o) && (Op.acc o 3).any fun a => a.stage == .waiting && ownSlice o 0x100 && mayPerform s o a
      && (notOwned s o a 0x100).isNone && sramMarked s 0x100 a.size == none && a.data.length == a.size && decide (a.cmp.length ≤ a.size)) = true := by decide
set_option maxRecDepth 20000 in
theorem witness_SramAccess_line : [OpKind.load 5 1 true, .store, .atomic .add false none, .atomic .add false (some 5)].all (fun k =>
    let o := { op0 with kind := k, accs := [{ acc0 with place := .mem 0x3000 }] }
    let s := withOp 4 o (cached 96 idle)
    (Table.find 4 s.ops == some o) && ((Op.acc o 3).any fun a => a.stage == .waiting && mayPerform s o a)
      && (Table.find 96 (State.core s 0).l1).isNone && (Table.find 96 (State.die s 0).l2).any fun y => y.st == .m && y.poison == 0
        && y.bytes.length == 128 && poisonAt y.poison 0 4 == none) = true := by decide
/-- Two records to enter a queue together, with room for both and with room for one. -/
def pairRec : FaultRec := { rec0 with nrec := 2 }
def pairState (head tail : Nat) : State := dieWith (fun d => { d with fqWait := [pairRec, pairRec], fqHead := head, fqTail := tail, fq := [] }) idle
theorem witness_TranslationAndFaults_together :
    (State.die (pairState 0 0) 0).fqWait = [pairRec, pairRec] ∧ [pairRec, pairRec].take pairRec.nrec = [pairRec, pairRec]
      ∧ Die.fqCount (State.die (pairState 0 0) 0) + 2 ≤ 2048 ∧ 2048 < Die.fqCount (State.die (pairState 0 1) 0) + 2
      ∧ (State.die (pairState 0 1) 0).fqHead < 2048 := by decide

/-- An invalidation of page 3 alone; a frame queue that is full; a record whose command has ended; queues drained again. -/
def narrowState : State := { idle with hub := { idle.hub with mtinv := 1, mtrun := BitVec.ofNat 64 (3 * 2 ^ 16 + 2 ^ 48) } }
theorem witness_PageServices_narrow : narrowState.hub.mtinv.getLsbD 0 = true ∧ narrowState.hub.mtrun.getLsbD 1 = false
    ∧ narrowState.hub.mtrun.toNat / 2 ^ 16 % 2 ^ 32 = 3 ∧ narrowState.hub.mtrun.toNat / 2 ^ 48 = 1 := by decide
theorem witness_PageServices_frames :
    64 ≤ (State.unit { idle with units := [(2, { State.unit idle 2 with ffq := List.replicate 64 1 })] } 2).ffq.length
      ∧ (State.unit idle 2).ffq.length < 64 := by decide
def settling : State := { idle with fw := { idle.fw with doomed := [5] } }
theorem witness_PageServices_settle :
    toSettle (withCore (fun c => { c with copy := [(3, { copyCmd 0 true with uid := 5 })] }) settling) = some 5
      ∧ toSettle serveState = none ∧ toSettle serveMoving = none ∧ settling.hub.schedstat.getLsbD 2 = false
      ∧ ({ heldState with fw := { heldState.fw with draining := true } } : State).fw.draining = true ∧ heldState.fw.draining = false := by decide
set_option maxRecDepth 20000 in
theorem witness_PageServices_busy : pagesIdle (withMsg (msg0 .rdS) idle) 0 1 = false ∧ ({ move0 with step := 2 } : Move).step = 2
    ∧ inSavedTld pageState 0 (pageSpan (coverKey pageState 0).2) = false
    ∧ entryBad (readCover 0 pageState) (coverKey (readCover 0 pageState) 0).1 = false
    ∧ State.dword (readCover 0 pageState) (coverKey (readCover 0 pageState) 0).1 % 8 = 1 := by decide

/-- A wake of a lane of another die, past a crossing that is down and past none; and a poll of a word out of range. -/
theorem witness_WaitsEnd_mesh : meshClear (waitaState 5 waita0) 0 (some 0) 0x100 = true
    ∧ meshClear (downState idle) (0 / 16) (some 0) farPlace = false := by decide
def farWaita : Waita := { waita0 with addr := 0xF200000000002000, since := 64 }
theorem witness_WaitsEnd_range : laneWords (waitaState 5 farWaita) 0 3 = [farWaita] ∧ waitaByte (waitaState 5 farWaita) 0 farWaita = none
    ∧ wordClear (waitaState 5 farWaita) 0 farWaita = true ∧ wordClear (waitaState 5 polled0) 0 polled0 = true
    ∧ (waitaByte (waitaState 5 waita0) 0 waita0).isSome = true := by decide

/-- A station that is down, and a record for a TAG that no stream has. -/
theorem witness_PeersAndStreams_down :
    (State.station (State.modStation idle 2 fun t => { t with down := true }) 2).down = true ∧ (State.station idle 2).down = false
      ∧ (State.station (receiving 3) 2).down = false ∧ Table.find dataRec.tag (State.station idle 2).recv = none := by decide
/-- A query whose row of 16 bytes a crossing that is down holds; and commands with a completion word. -/
theorem witness_MatrixAndEncke_word :
    (let c := { ekCmd0 .query none 1 with cw := some .band, batch := some { batch0 with cwg := 0x200, cwv := 9 } };
      let s := ekState c none;
      ekDone c && ekWord c == some (0x200, 9) && !quiesced s 0 128 && ekMayWork (State.die s 0) c && spanClear s 0 0x200 4 && !cwBad s 1 0x200
        && cwBad (withCore (fun k => { k with owners := [] }) s) 1 0x200) = true := by decide
theorem witness_MatrixAndEncke_held : spanClear (downState idle) 0 farPlace 4 = false ∧ spanClear queryState 0 0x100 4 = true := by decide

/-- The record is read back: its lines have still to come, or are there. -/
def poolRead (pool : Nat) : Bool :=
  let v := { savedTeam with base := pool }
  (readSaved 6 v benchGrid 0 { idle with teams := [], bands := [], saved := [(6, v)] }).1.isSome
set_option maxRecDepth 20000 in
theorem witness_Dispatcher_reads : poolRead 0x100000 = false := by decide
theorem witness_Dispatcher_stops :
    (let s := withLanes (fun y => { y with entry := .check }) (withTeam (fun t => { t with save := some ⟨0, none, none, none⟩ }) idle);
      (Table.find 0 s.teams).any (fun t => t.save == some ⟨0, none, none, none⟩) && (Table.find 0 s.grids).any fun g =>
        match State.bandsOf s 0 with
        | [(k, b)] => !b.stopped && bandHalts s k g b
        | _ => false) = true
      ∧ firstSaved (withGrid (fun g => { g with saved := [6] }) idle) benchGrid.queue
        = (Table.find 0 (withGrid (fun g => { g with saved := [6] }) idle).grids).map fun g => (0, g, 6) := by decide
/-- An intent held for 500 hub cycles, of which 1,500 are left; and one whose time is over. -/
theorem witness_PowerAndNotices_later : (groupHub none).hub.k - 4500 < (intent0 1).dur ∧ (intent0 1).kind ≠ 3
    ∧ (4500 < (groupHub none).hub.k) ∧ (intent0 1).dur ≤ (groupHub none).hub.k - 3000
    ∧ (4000 + 1000 ≤ (groupHub (some 4000)).hub.k) := by decide
theorem witness_PowerAndNotices_draining :
    (withHub (fun h => { h with schedstat := 13 }) idle).fw.draining = false
      ∧ Hub.onHold (withHub (fun h => { h with schedstat := 13 }) { idle with fw := { idle.fw with draining := true } }).hub = true := by decide
theorem witness_FirmwareCommands_signed : ({ head0 0 true with session := 0 } : MsgHead).signed = true
    ∧ (∀ r ∈ fwState.fw.heldReplies, r.session ≠ 3) ∧ authState.ctxs.any (fun c => c.1 != 0) = true
    ∧ ({ authState with ctxs := [(0, Ctx.start 0)] } : State).ctxs.any (fun c => c.1 != 0) = false := by decide
theorem witness_FirmwareServices_held : ({ reply0 with opcode := 9 } : Reply).opcode = 9
    ∧ Hub.onHold (withHub (fun h => { h with schedstat := 4 }) authState).hub = true
    ∧ (Table.find reply0.session authState.fw.sessions).isSome = true ∧ authState.fw.running = [] := by decide
/-- A transfer of more than 64 lines, and one of fewer. -/
theorem witness_StartupAndPort_lines : 64 < lineCount 0x3000 8256 ∧ lineCount 0x3000 4 ≤ 64 := by decide
end Sys2Proof.Tests
end

namespace Sys2Proof.Machine
open Sys2Proof.Forms

/-! ## Memories stay canonical

Every function of the model that gives a state has a lemma `f_memOk`: from a state with canonical memories it gives one. The
lemmas stand in the order of the definitions, one section for each of the model's files; each follows the branches of its
function, and those that write a memory rest on the lemmas of `Laws/Memory`. -/

/-! ### What it means for a result to hold canonical memories -/

/-- An outcome that goes on goes on with canonical memories. -/
def Outcome.memOk : Host.Outcome State Fault Refusal → Prop
  | .next t => State.memOk t
  | _ => True

/-- What an option holds, if it holds anything, satisfies `P`. -/
def Opt.memOk {α : Type} (P : α → Prop) : Option α → Prop
  | some x => P x
  | none => True

def Try.memOk : Try → Prop
  | .done s | .busy s => State.memOk s

def Served.memOk : Served → Prop
  | .done s | .work s => State.memOk s
  | .aside => True

def Got.memOk : Got → Prop
  | .frame _ _ s | .busy s => State.memOk s
  | .none => True

def Gathered.memOk : Gathered → Prop
  | .all _ s | .busy s => State.memOk s
  | .lacking => True

def Rdma.memOk : Rdma → Prop
  | .bad s | .wait s | .go _ s => State.memOk s

def BallastLine.memOk : BallastLine → Prop
  | .done s => State.memOk s
  | .later => True

def SumHalt.memOk : State ⊕ Halt_ → Prop
  | .inl s => State.memOk s
  | .inr _ => True

/-! ### The state inside a result

A branch of a `match` knows its result by an equation; these read the state's memories off it. -/

theorem memOk_of_pair {α : Type} {p : α × State} {a : α} {t : State} (h : State.memOk p.2) (e : p = (a, t)) : State.memOk t := by
  subst e
  exact h

theorem memOk_of_triple {α β : Type} {p : α × β × State} {a : α} {b : β} {t : State} (h : State.memOk p.2.2)
    (e : p = (a, b, t)) : State.memOk t := by
  subst e
  exact h

theorem memOk_of_quad {α β γ : Type} {p : α × β × γ × State} {a : α} {b : β} {c : γ} {t : State} (h : State.memOk p.2.2.2)
    (e : p = (a, b, c, t)) : State.memOk t := by
  subst e
  exact h

theorem memOk_of_some {o : Option State} {t : State} (h : Opt.memOk State.memOk o) (e : o = some t) : State.memOk t := by
  subst e
  exact h

theorem memOk_of_somePair {α : Type} {o : Option (α × State)} {a : α} {t : State} (h : Opt.memOk (fun p => State.memOk p.2) o)
    (e : o = some (a, t)) : State.memOk t := by
  subst e
  exact h

theorem Outcome.of_next {o : Host.Outcome State Fault Refusal} {s : State} (h : Outcome.memOk o) (e : o = .next s) :
    State.memOk s := by
  subst e
  exact h

theorem Try.of_done {o : Try} {s : State} (h : Try.memOk o) (e : o = .done s) : State.memOk s := by
  subst e
  exact h

theorem Try.of_busy {o : Try} {s : State} (h : Try.memOk o) (e : o = .busy s) : State.memOk s := by
  subst e
  exact h

theorem Try.state_memOk {t : Try} (h : Try.memOk t) : State.memOk (Try.state t) := by
  cases t <;> exact h

theorem Served.of_done {o : Served} {s : State} (h : Served.memOk o) (e : o = .done s) : State.memOk s := by
  subst e
  exact h

theorem Served.of_work {o : Served} {s : State} (h : Served.memOk o) (e : o = .work s) : State.memOk s := by
  subst e
  exact h

theorem Got.of_frame {o : Got} {u f : Nat} {s : State} (h : Got.memOk o) (e : o = .frame u f s) : State.memOk s := by
  subst e
  exact h

theorem Got.of_busy {o : Got} {s : State} (h : Got.memOk o) (e : o = .busy s) : State.memOk s := by
  subst e
  exact h

theorem Gathered.of_all {o : Gathered} {l} {s : State} (h : Gathered.memOk o) (e : o = .all l s) : State.memOk s := by
  subst e
  exact h

theorem Gathered.of_busy {o : Gathered} {s : State} (h : Gathered.memOk o) (e : o = .busy s) : State.memOk s := by
  subst e
  exact h

theorem Rdma.of_bad {o : Rdma} {s : State} (h : Rdma.memOk o) (e : o = .bad s) : State.memOk s := by
  subst e
  exact h

theorem Rdma.of_wait {o : Rdma} {s : State} (h : Rdma.memOk o) (e : o = .wait s) : State.memOk s := by
  subst e
  exact h

theorem Rdma.of_go {o : Rdma} {l} {s : State} (h : Rdma.memOk o) (e : o = .go l s) : State.memOk s := by
  subst e
  exact h

theorem BallastLine.of_done {o : BallastLine} {s : State} (h : BallastLine.memOk o) (e : o = .done s) : State.memOk s := by
  subst e
  exact h

theorem SumHalt.of_inl {o : State ⊕ Halt_} {s : State} (h : SumHalt.memOk o) (e : o = .inl s) : State.memOk s := by
  subst e
  exact h

/-! ### Folds, choices and options of states -/

theorem State.reset_memOk : State.memOk State.reset := ⟨rfl, rfl, rfl⟩

theorem foldl_memOk {α : Type} {f : State → α → State} {l : List α} {s : State}
    (hf : ∀ s a, State.memOk s → State.memOk (f s a)) (h : State.memOk s) : State.memOk (l.foldl f s) :=
  List.foldlRecOn l f h fun t ht a _ => hf t a ht

theorem ite_memOk {c : Prop} [Decidable c] {s t : State} (hs : State.memOk s) (ht : State.memOk t) :
    State.memOk (if c then s else t) := by
  split <;> assumption

theorem ite_snd_memOk {α : Type} {c : Prop} [Decidable c] {p q : α × State} (hp : State.memOk p.2) (hq : State.memOk q.2) :
    State.memOk (if c then p else q).2 := by
  split <;> assumption

theorem Outcome.ite_memOk {c : Prop} [Decidable c] {o p : Host.Outcome State Fault Refusal} (ho : Outcome.memOk o)
    (hp : Outcome.memOk p) : Outcome.memOk (if c then o else p) := by
  split <;> assumption

theorem Opt.ite_memOk {α : Type} {P : α → Prop} {c : Prop} [Decidable c] {a : α} (h : P a) :
    Opt.memOk P (if c then some a else none) := by
  split
  · exact h
  · trivial

theorem Opt.getD_memOk {o : Option State} {s : State} (h : Opt.memOk State.memOk o) (hs : State.memOk s) :
    State.memOk (o.getD s) := by
  cases o with
  | none => exact hs
  | some a => exact h

theorem Opt.map_memOk {α β : Type} {P : β → Prop} {f : α → β} {o : Option α} (h : ∀ a, P (f a)) : Opt.memOk P (o.map f) := by
  cases o with
  | none => trivial
  | some a => exact h a

theorem Opt.bind_memOk {α β : Type} {P : β → Prop} {f : α → Option β} {o : Option α} (h : ∀ a, Opt.memOk P (f a)) :
    Opt.memOk P (o.bind f) := by
  cases o with
  | none => trivial
  | some a => exact h a

theorem Opt.findSome_memOk {α β : Type} {P : β → Prop} {f : α → Option β} {l : List α} (h : ∀ a, Opt.memOk P (f a)) :
    Opt.memOk P (l.findSome? f) := by
  induction l with
  | nil => trivial
  | cons a l ih =>
    have ha := h a
    rw [List.findSome?_cons]
    split
    · rwa [‹f a = some _›] at ha
    · exact ih


/-! ### Parts of the package, held results, traps (Machine/Ops) -/

section

variable {s : State} {k key : Nat} {pc : Pc}

theorem State.setCore_memOk {c : Nat} {x : Core} (h : State.memOk s) : State.memOk (State.setCore s c x) := h
theorem State.modCore_memOk {c : Nat} {f : Core → Core} (h : State.memOk s) : State.memOk (State.modCore s c f) :=
  State.setCore_memOk h
theorem State.setDie_memOk {d : Nat} {x : Die} (h : State.memOk s) : State.memOk (State.setDie s d x) := h
theorem State.modDie_memOk {d : Nat} {f : Die → Die} (h : State.memOk s) : State.memOk (State.modDie s d f) :=
  State.setDie_memOk h
theorem State.modPair_memOk {p : Nat} {f : Pair → Pair} (h : State.memOk s) : State.memOk (State.modPair s p f) := h
theorem State.modCtx_memOk {n : Nat} {f : Ctx → Ctx} (h : State.memOk s) : State.memOk (State.modCtx s n f) := h
theorem State.modBand_memOk {f : Band → Band} (h : State.memOk s) : State.memOk (State.modBand s k f) := h
theorem State.modTeam_memOk {f : Team → Team} (h : State.memOk s) : State.memOk (State.modTeam s k f) := h
theorem State.modGrid_memOk {f : Grid → Grid} (h : State.memOk s) : State.memOk (State.modGrid s k f) := h
theorem State.modOp_memOk {f : Op → Op} (h : State.memOk s) : State.memOk (State.modOp s k f) := h
theorem State.modHub_memOk {f : Hub → Hub} (h : State.memOk s) : State.memOk (State.modHub s f) := h
theorem State.modFw_memOk {f : Fw → Fw} (h : State.memOk s) : State.memOk (State.modFw s f) := h
theorem State.send_memOk {o : Out} (h : State.memOk s) : State.memOk (State.send s o) := h
theorem State.draw_memOk (h : State.memOk s) : State.memOk (State.draw s).2 := h
theorem returnMark_memOk {team marker : Nat} (h : State.memOk s) : State.memOk (returnMark team marker s) :=
  State.modTeam_memOk h

theorem applyOne_memOk {r : Held} (h : State.memOk s) : State.memOk (applyOne key s r) := by
  unfold applyOne
  split
  · exact State.modBand_memOk h
  · exact State.modBand_memOk h
  · exact State.modBand_memOk h
  · exact h
  · split
    · exact State.modTeam_memOk h
    · exact h
  · split
    · exact State.modCore_memOk h
    · exact State.modBand_memOk h
    · split
      · split
        · split
          · exact State.modCtx_memOk h
          · exact h
        · exact h
      · exact h

theorem applyHeld_memOk {m : Dword} (h : State.memOk s) : State.memOk (applyHeld key m s) := by
  unfold applyHeld
  split
  · exact h
  · exact foldl_memOk (fun _ _ => applyOne_memOk) (State.modBand_memOk h)

theorem holdResults_memOk {hs : List Held} (h : State.memOk s) : State.memOk (holdResults key hs s) := State.modBand_memOk h
theorem raiseFlags_memOk {f : BitVec 5} (h : State.memOk s) : State.memOk (raiseFlags key f s) := State.modBand_memOk h
theorem State.rejoin_memOk {image : Nat} (h : State.memOk s) : State.memOk (State.rejoin s key image) :=
  State.modBand_memOk h
theorem postNotice_memOk {n : Notice} (h : State.memOk s) : State.memOk (postNotice n s) := State.modHub_memOk h

theorem haltTeam_memOk {b : Band} {t : Team} {g : Grid} {tr : Trap} (h : State.memOk s) :
    State.memOk (haltTeam key b t g pc tr s) := by
  unfold haltTeam
  split
  · exact h
  · exact postNotice_memOk (State.modTeam_memOk h)

theorem freeMonitor_memOk {core g : Nat} (h : State.memOk s) : State.memOk (freeMonitor core g s) := by
  unfold freeMonitor
  split
  · exact h
  · exact State.modCore_memOk (State.modCore_memOk h)

theorem unwatch_memOk {l : Nat} (h : State.memOk s) : State.memOk (unwatch key s l) := by
  unfold unwatch
  split
  · exact h
  · split
    · exact h
    · exact freeMonitor_memOk (State.modBand_memOk h)

theorem deliver_memOk {tr : Trap} (h : State.memOk s) : State.memOk (deliver key pc s tr) := by
  unfold deliver
  split
  · exact h
  · split
    · exact h
    · split
      · exact h
      · split
        · exact haltTeam_memOk (State.modGrid_memOk h)
        · split
          · exact State.modBand_memOk (unwatch_memOk h)
          · exact State.modBand_memOk (State.modGrid_memOk (unwatch_memOk h))

theorem deliverAll_memOk {trs : List Trap} (h : State.memOk s) : State.memOk (deliverAll key pc trs s) :=
  foldl_memOk (fun _ _ => deliver_memOk) h

end

/-! ### Charges, page table, translation, L2 requests, SRAM (Machine/Mem) -/

section

variable {s : State} {n c unit mem die key e line ctx core : Nat} {write excl : Bool} {k : ReqKind}

theorem State.modUnit_memOk {m : Nat} {f : Unit_ → Unit_} (h : State.memOk s) : State.memOk (State.modUnit s m f) := h

theorem goodFlits_memOk {cs : List Nat} (h : State.memOk s) : State.memOk (goodFlits cs s) := by
  unfold goodFlits
  split <;> exact h

theorem noteWork_memOk (h : State.memOk s) : State.memOk (noteWork n s) := State.modHub_memOk h
theorem chargeDie_memOk {d : Nat} (h : State.memOk s) : State.memOk (chargeDie d n s) :=
  noteWork_memOk (State.modDie_memOk h)
theorem chargeCore_memOk (h : State.memOk s) : State.memOk (chargeCore c n s) := noteWork_memOk (State.modCore_memOk h)

theorem applyEcc_memOk {g : Nat} {e : Ecc} (h : State.memOk s) : State.memOk (applyEcc unit g e s) := by
  unfold applyEcc
  split
  · exact h
  · exact State.modUnit_memOk h
  · exact countUe_memOk _ _ h

theorem readLineAt_memOk {e : Ecc} (h : State.memOk s) : State.memOk (readLineAt mem e s).2 := by
  unfold readLineAt
  split
  · exact senseDram_memOk _ _ (countUe_memOk _ _ (chargeLine_memOk _ h))
  · exact applyEcc_memOk (State.draw_memOk (senseDram_memOk _ _ (countUe_memOk _ _ (chargeLine_memOk _ h))))

theorem writeLineAt_memOk {bytes : List Byte} {p : BitVec 8} (h : State.memOk s) :
    State.memOk (writeLineAt mem bytes p s) :=
  chargeLine_memOk _ (setUnitLine_memOk _ _ _ _ h)

theorem chargeEntry_memOk (h : State.memOk s) : State.memOk (chargeEntry die key s) := by
  unfold chargeEntry
  dsimp only
  split
  · exact chargeLine_memOk _ h
  · exact chargeDie_memOk (chargeDie_memOk (chargeLine_memOk _ h))

theorem readEntries_memOk {ks : List Nat} (h : State.memOk s) : State.memOk (readEntries die ks s) :=
  foldl_memOk (fun _ _ ht => senseDram_memOk _ _ (countUe_memOk _ _ (chargeEntry_memOk ht))) h
theorem touchEntry_memOk (h : State.memOk s) : State.memOk (touchEntry s die key e write).2 :=
  ite_memOk h (setDword_memOk _ _ (chargeEntry_memOk h))

theorem takeFrame_memOk (h : State.memOk s) : Opt.memOk (fun p => State.memOk p.2) (takeFrame unit s) := by
  unfold takeFrame
  split
  · trivial
  · exact chargeLines_memOk _ _ (State.modUnit_memOk (zeroFrame_memOk _ _ h))

theorem giveFrame_memOk {f : Nat} (h : State.memOk s) : State.memOk (giveFrame unit f s) := State.modUnit_memOk h

theorem useEntry_memOk (h : State.memOk s) : State.memOk (useEntry die c write s).2 := by
  unfold useEntry
  split
  · exact touchEntry_memOk h
  · exact h

theorem fillZero_memOk {z : Nat} (h : State.memOk s) : State.memOk (fillZero die c z write s).2 := by
  unfold fillZero
  split
  · exact h
  · have ht := memOk_of_somePair (takeFrame_memOk h) ‹_›
    split
    · split
      · exact setDword_memOk _ _ (chargeEntry_memOk ht)
      · exact useEntry_memOk (giveFrame_memOk ht)
    · exact useEntry_memOk (giveFrame_memOk ht)

theorem walk_memOk {zero : Option Nat} (h : State.memOk s) : State.memOk (walk die c write zero s).2 := by
  unfold walk
  dsimp only
  split
  · exact fillZero_memOk (readEntries_memOk h)
  · exact fillZero_memOk (readEntries_memOk h)
  · exact useEntry_memOk (readEntries_memOk h)

theorem roomInTlb_memOk (h : State.memOk s) : State.memOk (roomInTlb die s) := by
  unfold roomInTlb
  dsimp only
  split
  · exact h
  · exact State.modDie_memOk (State.draw_memOk h)

theorem cacheEntry_memOk {big : Bool} (h : State.memOk s) : State.memOk (cacheEntry die c e big s) :=
  State.modDie_memOk (roomInTlb_memOk h)

theorem holdReq_memOk (h : State.memOk s) : State.memOk (holdReq die line k e s).2 := by
  unfold holdReq
  split
  · exact h
  · exact State.modDie_memOk h

theorem afterWalk_memOk {r : Entry_ × State} (h : State.memOk r.2) : State.memOk (afterWalk die c k r).2 := by
  unfold afterWalk
  split
  · exact cacheEntry_memOk h
  · exact holdReq_memOk h
  · exact h
  · exact h

theorem missWalk_memOk (h : State.memOk s) : State.memOk (missWalk die c k s).2 := by
  unfold missWalk
  dsimp only
  split
  · exact h
  · exact afterWalk_memOk (walk_memOk h)

theorem setDirty_memOk (h : State.memOk s) : State.memOk (setDirty s key e).2 := ite_memOk h (setDword_memOk _ _ h)

theorem dirtyHit_memOk {t : Tlb} (h : State.memOk s) : Opt.memOk (fun p => State.memOk p.2) (dirtyHit die c t s) := by
  unfold dirtyHit
  split
  · exact h
  · dsimp only
    split
    · exact cacheEntry_memOk (setDirty_memOk (readEntries_memOk h))
    · trivial

theorem xlate_memOk (h : State.memOk s) : State.memOk (xlate die c k s).2 := by
  unfold xlate
  split
  · split
    · split
      · exact memOk_of_somePair (dirtyHit_memOk h) ‹_›
      · exact missWalk_memOk (State.modDie_memOk h)
    · exact h
  · exact missWalk_memOk h

theorem sendMsg_memOk {m : Msg} (h : State.memOk s) : State.memOk (sendMsg m s) := by
  unfold sendMsg
  dsimp only
  split
  · exact h
  · exact chargeDie_memOk h

theorem sendReq_memOk {off : Nat} (h : State.memOk s) : State.memOk (sendReq die line excl unit off s) :=
  ite_memOk (State.modDie_memOk h) (sendMsg_memOk (State.modDie_memOk h))

theorem askLine_memOk (h : State.memOk s) : State.memOk (askLine die line excl s).2 := by
  unfold askLine
  split
  · exact h
  · split
    · exact sendReq_memOk (memOk_of_pair (xlate_memOk h) ‹_›)
    · exact memOk_of_pair (xlate_memOk h) ‹_›
    · exact memOk_of_pair (xlate_memOk h) ‹_›

theorem sendPut_memOk {off : Nat} (h : State.memOk s) : State.memOk (sendPut die line unit off s) := by
  unfold sendPut
  split
  · exact h
  · split <;> exact sendMsg_memOk h

theorem evictLine_memOk (h : State.memOk s) : Opt.memOk State.memOk (evictLine die line s) := by
  unfold evictLine
  split
  · exact h
  · split
    · trivial
    · split
      · exact State.modDie_memOk h
      · split
        · exact sendPut_memOk (State.modDie_memOk (State.modDie_memOk (memOk_of_pair (xlate_memOk h) ‹_›)))
        · exact State.modDie_memOk (State.modDie_memOk (memOk_of_pair (xlate_memOk h) ‹_›))
        · trivial
        · split
          · trivial
          · exact State.modDie_memOk (memOk_of_pair (xlate_memOk h) ‹_›)

theorem Try.next_memOk {t : Try} {f : State → Try} (h : Try.memOk t) (hf : ∀ u, State.memOk u → Try.memOk (f u)) :
    Try.memOk (Try.next t f) := by
  unfold Try.next
  split
  · exact hf _ h
  · exact h

theorem Try.map_memOk {t : Try} {f : State → State} (h : Try.memOk t) (hf : ∀ u, State.memOk u → State.memOk (f u)) :
    Try.memOk (Try.map t f) :=
  Try.next_memOk h hf

theorem asked_memOk {r : Option (Nat × Nat) × State} (h : State.memOk r.2) : State.memOk (asked r).2 := by
  unfold asked
  split <;> exact h

theorem readMem_memOk (h : State.memOk s) : State.memOk (readMem die s c n).2 := by
  unfold readMem
  split
  · split <;> exact h
  · exact asked_memOk (askLine_memOk h)

theorem writeMem_memOk {bs : List Byte} (h : State.memOk s) : State.memOk (writeMem die s c bs).2 := by
  unfold writeMem
  split
  · split
    · exact State.modDie_memOk h
    · exact asked_memOk (askLine_memOk h)
  · exact asked_memOk (askLine_memOk h)

theorem askPlaced_memOk (h : State.memOk s) : State.memOk (askPlaced die line excl mem s) := by
  unfold askPlaced
  dsimp only
  split
  · exact h
  · exact sendReq_memOk h

theorem setDir_memOk {home : Nat} {e : Dir} (h : State.memOk s) : State.memOk (setDir home line e s) := State.modDie_memOk h

theorem openFlush_memOk {home : Nat} (h : State.memOk s) : State.memOk (openFlush home line s) := by
  unfold openFlush
  dsimp only
  split
  · exact setDir_memOk (sendMsg_memOk (foldl_memOk (fun _ _ => sendMsg_memOk) h))
  · split
    · exact h
    · exact setDir_memOk (foldl_memOk (fun _ _ => sendMsg_memOk) h)

theorem askFetch_memOk {va : Nat} (h : State.memOk s) : State.memOk (askFetch die ctx va s) := by
  unfold askFetch
  split
  · exact askLine_memOk h
  · exact h

theorem touchSram_memOk {g : Nat} (h : State.memOk s) : State.memOk (touchSram s g n) := by
  unfold touchSram
  dsimp only
  split
  · exact h
  · exact State.modCore_memOk h

theorem latchSpflag_memOk {op lane : Nat} {win x : Nat} (h : State.memOk s) :
    State.memOk (latchSpflag s ctx core op lane write win x) :=
  State.modCtx_memOk h
theorem latchNow_memOk {lane : Nat} {win x : Nat} (h : State.memOk s) :
    State.memOk (latchNow ctx core lane write win x s) :=
  latchSpflag_memOk h

theorem armMonitor_memOk {g : Option Nat} (h : State.memOk s) : State.memOk (armMonitor core g s).2 := by
  unfold armMonitor
  split
  · exact h
  · dsimp only
    split
    · exact h
    · split
      · exact h
      · exact State.modCore_memOk (State.modCore_memOk h)

end

/-! ### Fetch (Machine/Fetch) -/

section

variable {s : State}

theorem askClause_memOk {die ctx clause : Nat} (h : State.memOk s) : State.memOk (askClause die ctx clause s) := by
  unfold askClause
  split <;> exact askFetch_memOk h

end

/-! ### Launching a grid, completions, the journal (Machine/Grids) -/

section

variable {ctx n q : Nat} {s : State} {d : Desc}

theorem readLines_memOk {need k va : Nat} (h : State.memOk s) : State.memOk (readLines ctx need k va n s).2 := by
  induction k generalizing va n s with
  | zero => exact h
  | succ k ih =>
    rw [readLines]
    split
    · exact h
    · split
      · exact h
      · split
        · exact h
        · split
          · have ht := memOk_of_pair (readMem_memOk h) ‹_›
            split
            · exact memOk_of_pair (ih ht) ‹_›
            · exact ih ht
          · exact memOk_of_pair (readMem_memOk h) ‹_›
          · exact memOk_of_pair (readMem_memOk h) ‹_›

theorem readSpan_memOk {need va : Nat} (h : State.memOk s) : State.memOk (readSpan ctx need va n s).2 := readLines_memOk h
theorem journal_memOk {j : Journal} (h : State.memOk s) : State.memOk (journal j s) := State.modHub_memOk h
theorem executed_memOk {session msgnum : Nat} (h : State.memOk s) : State.memOk (executed session msgnum s) :=
  State.modFw_memOk h

theorem sendFrame_memOk {prio : Nat} {o : Out} (h : State.memOk s) : State.memOk (sendFrame prio o s) := by
  unfold sendFrame
  split
  · exact State.modFw_memOk h
  · exact State.send_memOk h

theorem sendReply_memOk {r : Reply} (h : State.memOk s) : State.memOk (sendReply r s) := sendFrame_memOk h

theorem answer_memOk {r : Reply} (h : State.memOk s) : State.memOk (answer r s) := by
  unfold answer
  split
  · exact State.modFw_memOk (executed_memOk h)
  · exact State.modFw_memOk (sendReply_memOk (executed_memOk h))

theorem sendHeld_memOk (h : State.memOk s) : State.memOk (sendHeld s) :=
  foldl_memOk (fun _ _ => answer_memOk) (State.modFw_memOk h)

theorem answerWaits_memOk {gridid status : Nat} {p : Payload} (h : State.memOk s) :
    State.memOk (answerWaits ctx gridid status p s) := by
  unfold answerWaits
  refine foldl_memOk (fun _ _ ht => foldl_memOk (fun _ _ hu => ?_) ht) h
  split
  · exact answer_memOk (State.modFw_memOk hu)
  · exact hu

theorem noteCompletion_memOk {c : Completion} (h : State.memOk s) : State.memOk (noteCompletion ctx c s) :=
  State.modCtx_memOk h

theorem writeStat_memOk {stat : Nat} {c : Completion} (h : State.memOk s) : Try.memOk (writeStat ctx stat c s) := by
  unfold writeStat
  split
  · exact h
  · split
    · exact h
    · split <;> exact memOk_of_pair (writeMem_memOk h) ‹_›

theorem refuseGrid_memOk {stat gridid detail : Nat} (h : State.memOk s) : Try.memOk (refuseGrid ctx stat gridid detail s) :=
  Try.map_memOk (writeStat_memOk h) (fun _ => noteCompletion_memOk)
theorem kickQueue_memOk (h : State.memOk s) : State.memOk (kickQueue q s) := State.modHub_memOk h
theorem queueGrid_memOk {g : Grid} (h : State.memOk s) : State.memOk (queueGrid g s) :=
  kickQueue_memOk (State.modHub_memOk (State.modGrid_memOk h))

theorem readLive_memOk {ext : Nat} {as : List Nat} (h : State.memOk s) : State.memOk (readLive ctx ext as s).2.2 := by
  induction as generalizing s with
  | nil => exact h
  | cons e as ih =>
    rw [readLive]
    split
    · have ht := memOk_of_pair (readSpan_memOk h) ‹_›
      split
      · have hu := memOk_of_pair (readSpan_memOk ht) ‹_›
        split
        · exact memOk_of_triple (ih hu) ‹_›
        · exact ih hu
      · exact memOk_of_pair (readSpan_memOk ht) ‹_›
      · exact memOk_of_pair (readSpan_memOk ht) ‹_›
    · exact memOk_of_pair (readSpan_memOk h) ‹_›
    · exact memOk_of_pair (readSpan_memOk h) ‹_›

theorem thenSpan_memOk {α : Type} {r : Span × State} {k : List Byte → State → Option (Option α) × State}
    (h : State.memOk r.2) (hf : ∀ u t, State.memOk t → State.memOk (k u t).2) : State.memOk (thenSpan r k).2 := by
  unfold thenSpan
  split
  · exact hf _ _ h
  · exact h
  · exact h

theorem readParams_memOk {given : Option (List Byte)} (h : State.memOk s) : State.memOk (readParams ctx d given n s).2 := by
  unfold readParams
  split
  · exact h
  · exact readSpan_memOk h

theorem readImage_memOk {given : Option (List Byte)} {hb : List Byte} (h : State.memOk s) :
    State.memOk (readImage ctx d given hb s).2 := by
  unfold readImage
  refine thenSpan_memOk (readParams_memOk h) (fun _ _ ht => thenSpan_memOk (readSpan_memOk ht)
    (fun _ _ hu => thenSpan_memOk (readSpan_memOk hu) (fun _ _ hv => thenSpan_memOk (readSpan_memOk hv)
    (fun _ _ hw => ?_))))
  split <;> exact memOk_of_triple (readLive_memOk hw) ‹_›

theorem admitGrid_memOk {regen : Option Nat} {im : Image} (h : State.memOk s) :
    Try.memOk (admitGrid ctx q d regen im s) := by
  unfold admitGrid
  split
  · exact refuseGrid_memOk h
  · split
    · dsimp only
      split <;> exact refuseGrid_memOk h
    · dsimp only
      split
      · exact refuseGrid_memOk h
      · exact queueGrid_memOk h

theorem launchGrid_memOk {bs : List Byte} {regen : Option (Nat × List Byte)} (h : State.memOk s) :
    Try.memOk (launchGrid ctx q bs regen s) := by
  unfold launchGrid
  split
  · exact refuseGrid_memOk h
  · split
    · exact refuseGrid_memOk h
    · dsimp only
      split
      · exact memOk_of_pair (readSpan_memOk h) ‹_›
      · exact refuseGrid_memOk (memOk_of_pair (readSpan_memOk h) ‹_›)
      · split
        · exact refuseGrid_memOk (memOk_of_pair (readSpan_memOk h) ‹_›)
        · split
          · exact refuseGrid_memOk (memOk_of_pair (readSpan_memOk h) ‹_›)
          · have ht := memOk_of_pair (readSpan_memOk h) ‹_›
            split
            · exact memOk_of_pair (readImage_memOk ht) ‹_›
            · exact refuseGrid_memOk (memOk_of_pair (readImage_memOk ht) ‹_›)
            · exact admitGrid_memOk (memOk_of_pair (readImage_memOk ht) ‹_›)

end

/-! ### Holds at issue (Machine/Holds) -/

section

variable {x : Ix} {s : State}

theorem askAt_memOk {a need : Nat} {excl : Bool} (h : State.memOk s) : State.memOk (askAt x a need excl s) := by
  unfold askAt
  split
  · exact askLine_memOk h
  · exact h

theorem watchPhase_memOk {g : Nat} (h : State.memOk s) : State.memOk (watchPhase x g s) := by
  unfold watchPhase
  split
  · exact h
  · dsimp only
    split
    · exact h
    · exact State.modBand_memOk (armMonitor_memOk h)

theorem askFor_memOk {i : Instr} (h : State.memOk s) : State.memOk (askFor i x s) := by
  unfold askFor
  split
  · split
    · exact foldl_memOk (fun _ _ ht => foldl_memOk (fun _ _ => askFetch_memOk) ht) h
    · exact h
  · split
    · split
      · exact Try.of_busy (launchGrid_memOk h) ‹_›
      · exact h
    · exact askAt_memOk h
    · exact h
  · split
    · split
      · exact watchPhase_memOk h
      · exact h
    · exact h
  · split
    · split
      · exact watchPhase_memOk h
      · exact h
    · exact h
  · split
    · exact askAt_memOk h
    · exact h
  · refine foldl_memOk (fun _ _ ht => ?_) h
    split
    · exact askLine_memOk ht
    · exact ht
  · exact h

end

/-! ### The shell of an issue (Machine/Shell) -/

section

variable {s : State} {key op : Nat} {iss : Issue} {dc : Dc} {x : Ix} {i : Instr} {own : Own} {eff : Ix → State → Res}

theorem State.rejoinAt_memOk (h : State.memOk s) : State.memOk (State.rejoinAt s key) := by
  unfold State.rejoinAt
  split
  · exact h
  · split
    · exact h
    · split
      · exact h
      · exact State.rejoin_memOk h

theorem evalLater_memOk (h : State.memOk s) : State.memOk (evalLater s) := h

theorem starveEnd_memOk (h : State.memOk s) : State.memOk (starveEnd iss s) := by
  unfold starveEnd
  split
  · exact h
  · exact State.modBand_memOk h

theorem endIssue_memOk (h : State.memOk s) : State.memOk (endIssue iss s) := by
  unfold endIssue
  split
  all_goals
    split
    · exact h
    · dsimp only
      split
      · exact State.rejoinAt_memOk (starveEnd_memOk h)
      · exact starveEnd_memOk h

theorem refund_memOk (h : State.memOk s) : State.memOk (refund iss s) := by
  unfold refund
  split
  · exact State.modDie_memOk (State.modHub_memOk h)
  · exact State.modCore_memOk (State.modHub_memOk h)

theorem countUp_memOk (h : State.memOk s) : State.memOk (countUp key dc s) := by
  unfold countUp
  split
  · exact h
  · exact State.modBand_memOk h

theorem countDown_memOk (h : State.memOk s) : State.memOk (countDown key dc s) := by
  unfold countDown
  split
  · exact h
  · exact State.modBand_memOk h

theorem senseLog_memOk {core : Nat} {f : Frag} (h : State.memOk s) : State.memOk (senseLog core f s) :=
  foldl_memOk (fun _ _ => senseSram_memOk _ _) h

theorem beginReplay_memOk (h : State.memOk s) : State.memOk (beginReplay x s) := by
  unfold beginReplay
  split
  · exact h
  · exact State.modBand_memOk (State.modCore_memOk (senseLog_memOk h))

theorem sensePoison_memOk {trs : List Trap} (h : State.memOk s) : State.memOk (sensePoison i x trs s) := by
  unfold sensePoison
  dsimp only
  split
  · exact h
  · exact foldl_memOk (fun _ _ => senseSram_memOk _ _) h

theorem perform_memOk (hf : ∀ u t, State.memOk t → State.memOk (eff u t).s) (h : State.memOk s) :
    State.memOk (perform i own eff iss x s) := by
  unfold perform
  refine deliverAll_memOk (State.modBand_memOk ?_)
  split
  · split
    · exact countDown_memOk (sensePoison_memOk (beginReplay_memOk h))
    · exact sensePoison_memOk (beginReplay_memOk h)
  · exact hf _ _ (sensePoison_memOk (beginReplay_memOk h))

theorem issueUnless_memOk {hold : Ix → State → Bool} (hf : ∀ u t, State.memOk t → State.memOk (eff u t).s)
    (h : State.memOk s) : Outcome.memOk (issueUnless i hold own eff s) := by
  unfold issueUnless
  split
  · exact h
  · split
    · exact endIssue_memOk (refund_memOk h)
    · split
      · exact endIssue_memOk (refund_memOk h)
      · exact endIssue_memOk (perform_memOk (fun _ _ => hf _ _) h)

theorem issueWith_memOk (hf : ∀ u t, State.memOk t → State.memOk (eff u t).s) (h : State.memOk s) :
    Outcome.memOk (issueWith i own eff s) :=
  issueUnless_memOk (fun _ _ => hf _ _) h
theorem markPending_memOk {ls regs : List Nat} (h : State.memOk s) : State.memOk (markPending key ls regs op s) :=
  State.modBand_memOk h
theorem dropPending_memOk {l : Nat} (h : State.memOk s) : State.memOk (dropPending key l op s) := State.modBand_memOk h
theorem landWords_memOk {l reg : Nat} {ws : List Word} (h : State.memOk s) : State.memOk (landWords key l reg ws op s) :=
  State.modBand_memOk h
theorem newOp_memOk {kind : OpKind} {scope : Scope} {order : Order} {accs : List Acc} {holds : Bool} {shape : Nat}
    (h : State.memOk s) : State.memOk (newOp i x kind dc scope order accs holds shape s).2 :=
  h

end

/-! ### Scalar instructions (Machine/Scalar) -/

section

variable {s : State}

theorem scalarOp_memOk {i : Instr} {d : SReg} {wide : Bool} {f : Ix → Nat} (h : State.memOk s) :
    Outcome.memOk (scalarOp i d wide f s) :=
  issueWith_memOk (fun _ _ => holdResults_memOk) h
theorem execSldc_memOk {o : OpSI Wd} (h : State.memOk s) : Outcome.memOk (execSldc o s) :=
  issueWith_memOk (fun _ _ => holdResults_memOk) h
theorem execSmovt_memOk {o : OpSMovt} (h : State.memOk s) : Outcome.memOk (execSmovt o s) :=
  issueWith_memOk (fun _ _ => holdResults_memOk) h

theorem execSrd_memOk {o : OpSpecial} (h : State.memOk s) : Outcome.memOk (execSrd o s) := by
  unfold execSrd
  refine issueWith_memOk (fun _ _ ht => ?_) h
  split
  · exact ht
  · exact holdResults_memOk ht

theorem execSwr_memOk {o : OpSpecial} (h : State.memOk s) : Outcome.memOk (execSwr o s) := by
  unfold execSwr
  refine issueWith_memOk (fun _ _ ht => ?_) h
  split
  · exact State.modBand_memOk ht
  · exact holdResults_memOk ht
  · exact holdResults_memOk ht
  · exact holdResults_memOk ht
  · exact ht

end

/-! ### Vector integer instructions (Machine/VectorInt) -/

section

variable {s : State}

theorem vectorOp_memOk {i : Instr} {d : VReg} {wide : Bool} {f : Ix → Nat → Nat} (h : State.memOk s) :
    Outcome.memOk (vectorOp i d wide f s) :=
  issueWith_memOk (fun _ _ => holdResults_memOk) h
theorem condOp_memOk {i : Instr} {d : CDst} {f : Ix → Nat → Bool} (h : State.memOk s) : Outcome.memOk (condOp i d f s) :=
  issueWith_memOk (fun _ _ => holdResults_memOk) h
theorem execIaddc_memOk {o : OpIAddc} (h : State.memOk s) : Outcome.memOk (execIaddc o s) :=
  issueWith_memOk (fun _ _ => holdResults_memOk) h

end

/-! ### Floating point (Machine/Float) -/

section

variable {s : State}

theorem noteRounded_memOk {key : Nat} {rs : List (Nat × Rounded)} (h : State.memOk s) :
    State.memOk (noteRounded key rs s) :=
  State.modBand_memOk h
theorem roundOp_memOk {i : Instr} {d : VReg} {wide : Bool} {md : Rnd} {f : Ix → Nat → Nat → Nat × Fp.Flags}
    (h : State.memOk s) : Outcome.memOk (roundOp i d wide md f s) :=
  issueWith_memOk (fun _ _ ht => noteRounded_memOk (holdResults_memOk ht)) h
theorem execPack_memOk {o : OpPack} (h : State.memOk s) : Outcome.memOk (execPack o s) :=
  issueWith_memOk (fun _ _ ht => noteRounded_memOk (holdResults_memOk ht)) h
theorem sfuOp_memOk {i : Instr} {op : Fp.Sfu} {d a : VReg} {md : Rnd} (h : State.memOk s) :
    Outcome.memOk (sfuOp i op d a md s) :=
  issueWith_memOk (fun _ _ ht => raiseFlags_memOk (markPending_memOk (newOp_memOk ht))) h
theorem seedLanes_memOk {x : Ix} {f : Nat → Word} (h : State.memOk s) : State.memOk (seedLanes x f s) :=
  State.modBand_memOk h
theorem execSrngV_memOk {o : VReg} (h : State.memOk s) : Outcome.memOk (execSrngV o s) :=
  issueWith_memOk (fun _ _ => seedLanes_memOk) h
theorem execSrngVR_memOk {o : OpSrngR} (h : State.memOk s) : Outcome.memOk (execSrngVR o s) :=
  issueWith_memOk (fun _ _ => seedLanes_memOk) h

end

/-! ### Cross-lane instructions and the exact accumulator (Machine/CrossLane) -/

section

variable {s : State}

theorem execXpush_memOk {o : OpXPush} (h : State.memOk s) : Outcome.memOk (execXpush o s) :=
  issueWith_memOk (fun _ _ => holdResults_memOk) h
theorem execXballot_memOk {o : OpXBallot} (h : State.memOk s) : Outcome.memOk (execXballot o s) :=
  issueWith_memOk (fun _ _ => holdResults_memOk) h
theorem execXpfx_memOk {o : OpXPfx} (h : State.memOk s) : Outcome.memOk (execXpfx o s) :=
  issueWith_memOk (fun _ _ => holdResults_memOk) h
theorem execKclr_memOk (h : State.memOk s) : Outcome.memOk (execKclr s) :=
  issueWith_memOk (fun _ _ => State.modBand_memOk) h
theorem kaddLanes_memOk {x : Ix} {f : Fp.Fmt} {a : VReg} (h : State.memOk s) : State.memOk (kaddLanes x f a s) :=
  State.modBand_memOk h
theorem execKaddV_memOk {o : OpKAdd} (h : State.memOk s) : Outcome.memOk (execKaddV o s) :=
  issueWith_memOk (fun _ _ => kaddLanes_memOk) h
theorem execKaddVR_memOk {o : OpKAddR} (h : State.memOk s) : Outcome.memOk (execKaddVR o s) :=
  issueWith_memOk (fun _ _ => kaddLanes_memOk) h
theorem execKrnd_memOk {o : OpKRnd} (h : State.memOk s) : Outcome.memOk (execKrnd o s) :=
  issueWith_memOk (fun _ _ ht => raiseFlags_memOk (holdResults_memOk ht)) h
theorem execKscan_memOk {o : OpKScan} (h : State.memOk s) : Outcome.memOk (execKscan o s) :=
  issueWith_memOk (fun _ _ ht => raiseFlags_memOk (holdResults_memOk (State.modBand_memOk ht))) h
theorem execKsave_memOk {o : OpKImage} (h : State.memOk s) : Outcome.memOk (execKsave o s) :=
  issueWith_memOk (fun _ _ => holdResults_memOk) h
theorem execKload_memOk {o : OpKImage} (h : State.memOk s) : Outcome.memOk (execKload o s) :=
  issueWith_memOk (fun _ _ => State.modBand_memOk) h

end

/-! ### Accesses at issue (Machine/Access) -/

section

variable {x : Ix} {s : State} {dc : Dc} {i : Instr} {z : Nat} {addr : Ix → Nat → Nat}

theorem latchOut_memOk {op : Nat} {write : Bool} {as : List Acc} (h : State.memOk s) :
    State.memOk (latchOut x op write as s) := by
  unfold latchOut
  split
  · exact h
  · split
    · exact latchSpflag_memOk h
    · exact h

theorem countIssue_memOk (h : State.memOk s) : State.memOk (countIssue x dc s) := by
  unfold countIssue
  split
  · exact h
  · exact countUp_memOk h

theorem startAccess_memOk {k : OpKind} {write : Bool} {scope : Scope} {order : Order} {as : List Acc} {regs : List Nat}
    (h : State.memOk s) : State.memOk (startAccess i x k write dc scope order as regs s).s :=
  markPending_memOk (countIssue_memOk (newOp_memOk (latchOut_memOk h)))
theorem loadOp_memOk {τ : Type} {o : OpMem τ} {n : Nat} {sgn : Bool} (h : State.memOk s) :
    Outcome.memOk (loadOp i o z n sgn addr s) :=
  issueWith_memOk (fun _ _ => startAccess_memOk) h
theorem storeOp_memOk {τ : Type} {o : OpMem τ} (h : State.memOk s) : Outcome.memOk (storeOp i o z addr s) :=
  issueWith_memOk (fun _ _ => startAccess_memOk) h
theorem atomicOp_memOk {o : OpAtom} {ret : Bool} (h : State.memOk s) : Outcome.memOk (atomicOp i o ret s) :=
  issueWith_memOk (fun _ _ => startAccess_memOk) h

theorem sendRequest_memOk {k : Nat} {o : Op} {a : Acc} (h : State.memOk s) : State.memOk (sendRequest k o a s) := by
  unfold sendRequest
  split
  · split
    · exact State.send_memOk (State.modOp_memOk h)
    · exact h
  · exact h

theorem sendRequests_memOk {k : Nat} (h : State.memOk s) : State.memOk (sendRequests k s) := by
  unfold sendRequests
  split
  · exact h
  · refine foldl_memOk (fun _ _ ht => ?_) h
    split
    · exact sendRequest_memOk ht
    · exact ht

theorem fabricOp_memOk {k : OpKind} {order : Order} {data cmp : Ix → Nat → List Byte} {regs : List Nat}
    (h : State.memOk s) : Outcome.memOk (fabricOp i z addr k dc order data cmp regs s) :=
  issueWith_memOk (fun _ _ ht => sendRequests_memOk (markPending_memOk (countIssue_memOk (newOp_memOk ht)))) h

theorem execGcvt_memOk {o : OpGcvt} (h : State.memOk s) : Outcome.memOk (execGcvt o s) := by
  unfold execGcvt
  refine issueWith_memOk (fun _ _ ht => holdResults_memOk ?_) h
  split
  · exact State.modTeam_memOk ht
  · exact ht

theorem execGtest_memOk {o : OpGcvt} (h : State.memOk s) : Outcome.memOk (execGtest o s) :=
  issueWith_memOk (fun _ _ => holdResults_memOk) h

end

/-! ### Operand-log entries (Machine/OpLog) -/

section

variable {s : State}

theorem storeLog_memOk {core n : Nat} {f : Frag} (h : State.memOk s) : State.memOk (storeLog core n f s) := by
  unfold storeLog
  split
  · exact writeSram_memOk _ _ h
  · exact writeSram_memOk _ _ (writeSram_memOk _ _ h)

theorem enterFrag_memOk {core n : Nat} {f : Frag} (h : State.memOk s) : State.memOk (enterFrag core n f s) :=
  storeLog_memOk (State.modCore_memOk h)

end

/-! ### Accesses performed and ended, translation, faults (Machine/Lsu) -/

section

variable {k key lane core line c die op page : Nat} {s : State} {o : Op} {a : Acc} {bs : List Byte} {excl : Bool} {pc : Pc}
  {dc : Dc}

theorem settle_memOk (h : State.memOk s) : State.memOk (settle k s) := by
  unfold settle
  split
  · exact h
  · split
    · exact countDown_memOk h
    · exact h

theorem acquireEffect_memOk {o : Order} {sc : Scope} (h : State.memOk s) : State.memOk (acquireEffect key o sc s) := by
  unfold acquireEffect
  split
  · exact State.modCore_memOk h
  · exact h

theorem landingReady_memOk (h : State.memOk s) : State.memOk (landingReady key s) := by
  unfold landingReady
  split
  · exact h
  · refine foldl_memOk (fun _ _ ht => ?_) h
    dsimp only
    split
    · exact ht
    · exact enterFrag_memOk ht

theorem landAcc_memOk (h : State.memOk s) : State.memOk (landAcc k o a s) := by
  unfold landAcc
  refine landingReady_memOk (settle_memOk (acquireEffect_memOk (ite_memOk (State.modOp_memOk h) ?_)))
  split
  · exact landWords_memOk (State.modOp_memOk h)
  · exact landWords_memOk (State.modOp_memOk h)
  · exact landWords_memOk (State.modOp_memOk h)
  · exact landWords_memOk (State.modOp_memOk h)
  · exact State.modBand_memOk (State.modOp_memOk h)
  · exact State.modOp_memOk h

theorem trapAcc_memOk {cause addr : Nat} (h : State.memOk s) : State.memOk (trapAcc k o a cause addr s) :=
  settle_memOk (deliver_memOk (dropPending_memOk (State.modOp_memOk h)))
theorem performed_memOk {v : Nat} (h : State.memOk s) : State.memOk (performed k lane v s) := State.modOp_memOk h
theorem endAcc_memOk (h : State.memOk s) : State.memOk (endAcc k lane s) := settle_memOk (State.modOp_memOk h)

theorem roomInL1_memOk (h : State.memOk s) : State.memOk (roomInL1 core line s) := by
  unfold roomInL1
  dsimp only
  split
  · exact h
  · split
    · exact State.modCore_memOk (State.draw_memOk h)
    · exact h

theorem fillL1_memOk {near : Bool} {p : BitVec 8} (h : State.memOk s) : State.memOk (fillL1 s core near line bs p) := by
  unfold fillL1
  split
  · exact State.modCore_memOk (roomInL1_memOk h)
  · exact h

theorem putL1_memOk (h : State.memOk s) : State.memOk (putL1 core c bs s) := State.modCore_memOk h
theorem storeLine_memOk {l : Line} (h : State.memOk s) : State.memOk (storeLine s core c l bs) :=
  putL1_memOk (State.modDie_memOk h)

theorem writeThrough_memOk (h : State.memOk s) : State.memOk (writeThrough core s c bs).2 := by
  unfold writeThrough
  split
  · exact putL1_memOk (memOk_of_pair (writeMem_memOk h) ‹_›)
  · exact writeMem_memOk h

theorem performMem_memOk (h : State.memOk s) : State.memOk (performMem k o a c s) := by
  unfold performMem
  split
  · dsimp only
    split
    · exact h
    · split
      · exact trapAcc_memOk h
      · refine performed_memOk ?_
        split
        · exact h
        · exact fillL1_memOk h
  · dsimp only
    split
    · exact h
    · split
      · exact trapAcc_memOk h
      · refine performed_memOk ?_
        split
        · exact h
        · exact fillL1_memOk h
  · dsimp only
    split
    · exact h
    · split
      · exact trapAcc_memOk h
      · refine performed_memOk ?_
        split
        · exact storeLine_memOk h
        · exact h
  · dsimp only
    split
    · exact h
    · exact endAcc_memOk (storeLine_memOk h)
  · exact h

theorem performSram_memOk {g : Nat} (h : State.memOk s) : State.memOk (performSram k o a g s) := by
  unfold performSram
  split
  · exact performed_memOk (latchSpflag_memOk h)
  · split
    · exact performed_memOk (writeSram_memOk _ _ h)
    · dsimp only
      split
      · exact trapAcc_memOk (senseSram_memOk _ _ h)
      · exact performed_memOk (senseSram_memOk _ _ h)
    · dsimp only
      split
      · exact trapAcc_memOk (senseSram_memOk _ _ h)
      · exact performed_memOk (senseSram_memOk _ _ h)
    · dsimp only
      split
      · exact trapAcc_memOk (senseSram_memOk _ _ h)
      · refine performed_memOk ?_
        split
        · exact writeSram_memOk _ _ (senseSram_memOk _ _ h)
        · exact touchSram_memOk (senseSram_memOk _ _ h)
    · exact h

theorem chargeRoute_memOk {a b : Nat} (h : State.memOk s) : State.memOk (chargeRoute a b s) := by
  unfold chargeRoute
  dsimp only
  split
  · exact h
  · exact chargeDie_memOk h

theorem chargeBytes_memOk {a b n : Nat} (h : State.memOk s) : State.memOk (chargeBytes a b n s) :=
  foldl_memOk (fun _ _ => chargeRoute_memOk) h
theorem chargeTrip_memOk {g : Nat} (h : State.memOk s) : State.memOk (chargeTrip die g s) :=
  chargeRoute_memOk (chargeRoute_memOk h)

theorem execSramRemoteAccess_memOk (h : State.memOk s) : Outcome.memOk (execSramRemoteAccess op lane s) := by
  unfold execSramRemoteAccess
  split
  · exact h
  · split
    · exact h
    · split
      · split
        · exact chargeRoute_memOk (State.modOp_memOk h)
        · exact h
      · dsimp only
        split
        · exact chargeRoute_memOk (performSram_memOk (goodFlits_memOk h))
        · exact h
      · exact h

theorem finishAcc_memOk (h : State.memOk s) : State.memOk (finishAcc k o a s) := by
  unfold finishAcc
  split
  · exact landAcc_memOk h
  · exact acquireEffect_memOk (endAcc_memOk h)

theorem stepAcc_memOk (h : State.memOk s) : State.memOk (stepAcc k o a s) := by
  unfold stepAcc
  split
  · exact finishAcc_memOk h
  · split
    · split
      · exact performMem_memOk h
      · split
        · exact performSram_memOk h
        · exact h
      · exact sendRequest_memOk h
      · exact h
    · exact h
  · split
    · split
      · exact performMem_memOk h
      · split
        · exact performSram_memOk h
        · exact h
      · exact sendRequest_memOk h
      · exact h
    · exact h
  · exact h

theorem flushHere_memOk (h : State.memOk s) : State.memOk (flushHere k die line lane s) := by
  unfold flushHere
  split
  · exact h
  · have ht := memOk_of_some (evictLine_memOk h) ‹_›
    split
    · exact performed_memOk ht
    · exact endAcc_memOk ht

theorem flushHome_memOk (h : State.memOk s) : State.memOk (flushHome k die line lane s) := by
  unfold flushHome
  split
  · split
    · exact h
    · exact performed_memOk (openFlush_memOk (memOk_of_pair (xlate_memOk h) ‹_›))
  · exact endAcc_memOk (memOk_of_pair (xlate_memOk h) ‹_›)
  · exact memOk_of_pair (xlate_memOk h) ‹_›

theorem flushStep_memOk {dev l2 : Bool} (h : State.memOk s) : State.memOk (flushStep k o a dev l2 s) := by
  unfold flushStep
  split
  · split
    · split
      all_goals
        dsimp only
        split
        · exact h
        · exact endAcc_memOk h
    · split
      · dsimp only
        split
        · exact h
        · exact endAcc_memOk (State.modCore_memOk h)
      · split
        · dsimp only
          split
          · exact h
          · exact flushHome_memOk (State.modCore_memOk h)
        · dsimp only
          split
          · exact h
          · exact flushHere_memOk (State.modCore_memOk h)
  · exact endAcc_memOk h

theorem execCflush_memOk {o : OpLine} (h : State.memOk s) : Outcome.memOk (execCflush o s) :=
  issueWith_memOk (fun _ _ ht => countIssue_memOk (newOp_memOk ht)) h

theorem execCinv_memOk {o : OpLine} (h : State.memOk s) : Outcome.memOk (execCinv o s) := by
  unfold execCinv
  refine issueWith_memOk (fun _ _ ht => foldl_memOk (fun _ _ hu => ?_) ht) h
  split
  · exact State.modCore_memOk hu
  · exact hu

theorem prefStep_memOk {l1 : Bool} (h : State.memOk s) : State.memOk (prefStep k o a l1 s) := by
  unfold prefStep
  split
  · dsimp only
    split
    · refine endAcc_memOk ?_
      split
      · exact fillL1_memOk h
      · exact h
    · split
      · exact endAcc_memOk (memOk_of_pair (askLine_memOk h) ‹_›)
      · exact memOk_of_pair (askLine_memOk h) ‹_›
  · exact endAcc_memOk h

theorem execPref_memOk {o : OpLine} (h : State.memOk s) : Outcome.memOk (execPref o s) := by
  unfold execPref
  refine issueWith_memOk (fun _ _ ht => ?_) h
  dsimp only
  split
  · exact ht
  · exact newOp_memOk ht

theorem registerRange_memOk {x : Ix} {a len : Nat} (h : State.memOk s) : State.memOk (registerRange x a len s) := by
  unfold registerRange
  split
  · dsimp only
    split
    · split
      · exact State.modCore_memOk h
      · exact h
    · exact h
  · exact h

theorem execPrefb_memOk {o : OpPrefb} (h : State.memOk s) : Outcome.memOk (execPrefb o s) :=
  issueWith_memOk (fun _ _ ht => foldl_memOk (fun _ _ => registerRange_memOk) ht) h
theorem onNeeds_memOk {f : Nat → Bool → Option AccStage} (h : State.memOk s) : State.memOk (onNeeds die f s) := h
theorem faultAccs_memOk {kind entry : Nat} (h : State.memOk s) : State.memOk (faultAccs die page kind entry s) :=
  onNeeds_memOk h
theorem markTranslated_memOk (h : State.memOk s) : State.memOk (markTranslated die line excl s) := onNeeds_memOk h
theorem beginWalk_memOk (h : State.memOk s) : State.memOk (beginWalk die page excl s) := State.modDie_memOk h

theorem execTranslationRequest_memOk (h : State.memOk s) : Outcome.memOk (execTranslationRequest die line excl s) := by
  unfold execTranslationRequest
  split
  · trivial
  · split
    · dsimp only
      split
      · exact h
      · split
        · split
          · exact sendReq_memOk (markTranslated_memOk (memOk_of_somePair (dirtyHit_memOk h) ‹_›))
          · exact State.modDie_memOk h
        · split
          · exact h
          · exact beginWalk_memOk h
    · dsimp only
      split
      · exact h
      · split
        · exact sendReq_memOk (markTranslated_memOk h)
        · split
          · exact h
          · exact beginWalk_memOk h

theorem releaseHeld_memOk {r : HoldReq} (h : State.memOk s) : State.memOk (releaseHeld die s r) := by
  unfold releaseHeld
  split
  · have ht := memOk_of_pair (xlate_memOk h) ‹_›
    split
    · dsimp only
      split
      · exact h
      · exact sendPut_memOk ht
    · dsimp only
      split
      · exact h
      · exact sendReq_memOk (markTranslated_memOk ht)
  · have ht := memOk_of_pair (xlate_memOk h) ‹_›
    split
    · dsimp only
      split
      · exact h
      · exact State.modDie_memOk ht
    · dsimp only
      split
      · exact h
      · exact ht
  · dsimp only
    split
    · exact h
    · exact memOk_of_pair (xlate_memOk h) ‹_›
  · dsimp only
    split
    · exact h
    · exact State.modDie_memOk (memOk_of_pair (xlate_memOk h) ‹_›)

theorem holdNeeds_memOk {e : Nat} (h : State.memOk s) : State.memOk (holdNeeds die page e s) := by
  unfold holdNeeds
  refine foldl_memOk (fun _ _ ht => ?_) h
  split
  · exact onNeeds_memOk (memOk_of_pair (holdReq_memOk ht) ‹_›)
  · exact memOk_of_pair (holdReq_memOk ht) ‹_›

theorem dropSecond_memOk (h : State.memOk s) : State.memOk (dropSecond die page s) := State.modDie_memOk h

theorem execTranslationWalk_memOk (h : State.memOk s) : Outcome.memOk (execTranslationWalk die page s) := by
  unfold execTranslationWalk
  split
  · trivial
  · split
    · exact h
    · dsimp only
      split
      · exact foldl_memOk (fun _ _ => releaseHeld_memOk) (dropSecond_memOk (cacheEntry_memOk (memOk_of_pair (walk_memOk
          (State.modDie_memOk h)) ‹_›)))
      · exact holdNeeds_memOk (State.modDie_memOk (memOk_of_pair (walk_memOk (State.modDie_memOk h)) ‹_›))
      · refine faultAccs_memOk (foldl_memOk (fun _ _ ht => ?_) (dropSecond_memOk (memOk_of_pair (walk_memOk
          (State.modDie_memOk h)) ‹_›)))
        split
        · exact State.modDie_memOk ht
        · exact ht
      · exact memOk_of_pair (walk_memOk (State.modDie_memOk h)) ‹_›

theorem parkLanes_memOk {m : Dword} {op : Option Nat} (h : State.memOk s) : State.memOk (parkLanes key m pc op s) := by
  unfold parkLanes
  refine State.modBand_memOk ?_
  split
  · exact h
  · exact foldl_memOk (fun _ _ => dropPending_memOk) h

theorem putFragment_memOk {entry : Nat} {log : Log} {src : Nat} {ps : List FaultPage} {ctx : Nat} (h : State.memOk s) :
    State.memOk (putFragment key entry pc log src ps dc ctx s) :=
  State.modDie_memOk (enterFrag_memOk (State.modCore_memOk h))

theorem formFragment_memOk {log : Log} {src : Nat} {ps : List FaultPage} {again : Option Nat} (h : State.memOk s) :
    State.memOk (formFragment key pc log src ps dc again s) := by
  unfold formFragment
  split
  · exact h
  · have q : State.memOk (parkLanes key log.lanes pc none s) := parkLanes_memOk h
    extract_lets s1
    split
    · exact putFragment_memOk q
    · exact q

theorem execPageFaultResponse_memOk (h : State.memOk s) : Outcome.memOk (execPageFaultResponse op s) := by
  unfold execPageFaultResponse
  split
  · exact h
  · dsimp only
    split
    · exact h
    · exact formFragment_memOk (parkLanes_memOk h)

theorem execFaultRecordPost_memOk (h : State.memOk s) : Outcome.memOk (execFaultRecordPost die s) := by
  have q (rs : List FaultRec) (n k : Nat) (d : Die) :
      State.memOk (State.setDie { s with hubSram := writeRecords die rs n k s.hubSram } die d) :=
    ⟨h.1, h.2.1, writeRecords_wf _ _ _ _ h.2.2⟩
  unfold execFaultRecordPost
  split
  · trivial
  · dsimp only
    split
    · exact h
    · split
      · exact h
      · split
        · exact State.modCore_memOk (goodFlits_memOk (q _ _ _ _))
        · exact goodFlits_memOk (q _ _ _ _)

theorem noteFabErr_memOk {kind route ctx : Nat} (h : State.memOk s) : State.memOk (noteFabErr core kind route ctx s) :=
  State.modCore_memOk h

theorem latchError_memOk {m addr : Dword} {cause : Nat} (h : State.memOk s) :
    State.memOk (latchError key dc m addr cause s) := by
  unfold latchError
  split
  · exact h
  · exact State.modBand_memOk h

theorem markLanded_memOk {l : Nat} {marks : List (Nat × Dword)} (h : State.memOk s) :
    State.memOk (markLanded key l marks s) :=
  foldl_memOk (fun _ _ => enterFrag_memOk) h
theorem landError_memOk {reg : Nat} (h : State.memOk s) : State.memOk (landError k o a reg s) :=
  markLanded_memOk (State.modBand_memOk (landAcc_memOk h))

theorem endFabricWrite_memOk {err : Bool} (h : State.memOk s) : State.memOk (endFabricWrite k o a err s) := by
  unfold endFabricWrite
  refine ite_memOk ?_ (State.modOp_memOk h)
  split
  all_goals
    dsimp only
    split
    · exact settle_memOk (State.modOp_memOk h)
    · exact settle_memOk (latchError_memOk (State.modOp_memOk h))

theorem execRemoteResponse_memOk {ans : PeerAnswer} (h : State.memOk s) :
    Outcome.memOk (execRemoteResponse op lane ans s) := by
  unfold execRemoteResponse
  split
  · exact h
  · split
    · exact h
    · split
      · split
        · exact h
        · split
          all_goals
            split
            · exact landAcc_memOk h
            · exact landAcc_memOk h
            · exact endFabricWrite_memOk h
            · exact landError_memOk (noteFabErr_memOk h)
            · exact landError_memOk (noteFabErr_memOk h)
            · exact endFabricWrite_memOk (noteFabErr_memOk h)
      · exact h

end

/-! ### The home directory and its messages (Machine/Coherence) -/

section

variable {key home req line msg : Nat} {m : Msg} {s : State} {ecc : Ecc}

theorem takeMsg_memOk (h : State.memOk s) : State.memOk (takeMsg key m s) := goodFlits_memOk h

theorem onMsg_memOk {k : MsgKind → Bool} {f : Msg → State → State} (hf : ∀ u t, State.memOk t → State.memOk (f u t))
    (h : State.memOk s) : Outcome.memOk (onMsg key k f s) := by
  unfold onMsg
  split
  · exact h
  · split
    · exact hf _ _ h
    · exact h

theorem sendData_memOk {mem : Nat} {shared : Bool} (h : State.memOk s) :
    State.memOk (sendData home req line mem shared ecc s) :=
  sendMsg_memOk (readLineAt_memOk h)
theorem sendCmp_memOk (h : State.memOk s) : State.memOk (sendCmp home req line s) := sendMsg_memOk h

theorem makeRoom_memOk (h : State.memOk s) : State.memOk (makeRoom home line s) := by
  unfold makeRoom
  refine ite_memOk h ?_
  split
  · exact h
  · exact openFlush_memOk h

theorem serve_memOk {mem : Nat} {excl keep : Bool} (h : State.memOk s) :
    State.memOk (serve home req line mem excl keep ecc s) := by
  unfold serve
  extract_lets e others owner acks after s1 s2
  have q1 : State.memOk s1 := ite_memOk (foldl_memOk (fun _ _ => sendMsg_memOk) h) h
  have q2 : State.memOk s2 := by
    clear_value s1 owner
    cases owner with
    | some w => exact ite_memOk (sendMsg_memOk q1) (sendMsg_memOk q1)
    | none => exact ite_memOk q1 (sendData_memOk q1)
  exact ite_memOk (sendCmp_memOk (setDir_memOk q2)) (setDir_memOk q2)

theorem waitAtHome_memOk (h : State.memOk s) : State.memOk (waitAtHome key m s) := by
  unfold waitAtHome
  split
  · exact h
  · exact State.modDie_memOk h

theorem takeRequest_memOk (h : State.memOk s) : State.memOk (takeRequest key m s) := State.modDie_memOk (takeMsg_memOk h)

theorem onRequest_memOk {k : MsgKind} {fills : Bool} {f : Msg → State → State} (hf : ∀ u t, State.memOk t → State.memOk
    (f u t)) (h : State.memOk s) : Outcome.memOk (onRequest key k fills f s) := by
  unfold onRequest
  refine onMsg_memOk (fun _ _ ht => ?_) h
  split
  · exact waitAtHome_memOk ht
  · split
    · exact makeRoom_memOk (waitAtHome_memOk ht)
    · exact hf _ _ (takeRequest_memOk ht)

theorem execCohRdS_memOk (h : State.memOk s) : Outcome.memOk (execCohRdS msg ecc s) :=
  onRequest_memOk (fun _ _ => serve_memOk) h
theorem execCohRdX_memOk (h : State.memOk s) : Outcome.memOk (execCohRdX msg ecc s) :=
  onRequest_memOk (fun _ _ => serve_memOk) h
theorem execCohUpg_memOk (h : State.memOk s) : Outcome.memOk (execCohUpg msg s) :=
  onRequest_memOk (fun _ _ => serve_memOk) h

theorem dropOwner_memOk {write : State → State} (hf : ∀ t, State.memOk t → State.memOk (write t)) (h : State.memOk s) :
    State.memOk (dropOwner m write s) := by
  unfold dropOwner
  dsimp only
  split
  · exact setDir_memOk (hf _ h)
  · exact h

theorem sendPutAck_memOk (h : State.memOk s) : State.memOk (sendPutAck m s) := sendMsg_memOk h
theorem execCohPutM_memOk (h : State.memOk s) : Outcome.memOk (execCohPutM msg s) :=
  onRequest_memOk (fun _ _ ht => sendPutAck_memOk (dropOwner_memOk (fun _ => writeLineAt_memOk) ht)) h
theorem execCohPutE_memOk (h : State.memOk s) : Outcome.memOk (execCohPutE msg s) :=
  onRequest_memOk (fun _ _ ht => sendPutAck_memOk (dropOwner_memOk (fun _ ht => ht) ht)) h

theorem execCohFwd_memOk (h : State.memOk s) : Outcome.memOk (execCohFwd msg s) := by
  unfold execCohFwd
  refine onMsg_memOk (fun _ _ ht => ?_) h
  split
  · split
    · exact ht
    · split
      · exact ht
      · refine sendMsg_memOk ?_
        split
        · split
          · exact takeMsg_memOk ht
          · split <;> exact State.modDie_memOk (takeMsg_memOk ht)
        · refine sendMsg_memOk ?_
          split
          · exact takeMsg_memOk ht
          · split <;> exact State.modDie_memOk (takeMsg_memOk ht)
  · exact ht

theorem execCohInv_memOk (h : State.memOk s) : Outcome.memOk (execCohInv msg s) := by
  unfold execCohInv
  refine onMsg_memOk (fun _ _ ht => ?_) h
  split
  · exact ht
  · exact sendMsg_memOk (State.modDie_memOk (takeMsg_memOk ht))

theorem roomInL2_memOk {die : Nat} (h : State.memOk s) : Opt.memOk State.memOk (roomInL2 die line s) := by
  unfold roomInL2
  dsimp only
  split
  · exact h
  · exact Opt.findSome_memOk (fun _ => evictLine_memOk (State.draw_memOk h))

theorem install_memOk {die : Nat} (h : State.memOk s) : Opt.memOk State.memOk (install die line s) := by
  unfold install
  split
  · exact h
  · dsimp only
    split
    · exact h
    · split
      · have q := roomInL2_memOk (die := die) (line := line) h
        generalize roomInL2 die line s = o at q
        cases o with
        | none => trivial
        | some t => exact q
      · split <;> exact h
      · exact h

theorem onWant_memOk {k : MsgKind → Bool} {f : Msg → Want → Want} (h : State.memOk s) : Outcome.memOk (onWant msg k f s) :=
  onMsg_memOk (fun _ _ ht => Opt.getD_memOk (install_memOk (State.modDie_memOk (takeMsg_memOk ht))) ht) h
theorem execCohData_memOk (h : State.memOk s) : Outcome.memOk (execCohData msg s) := onWant_memOk h
theorem execCohCmp_memOk (h : State.memOk s) : Outcome.memOk (execCohCmp msg s) := onWant_memOk h

theorem ackHome_memOk {from_ : Nat} {nowS : Bool} (h : State.memOk s) : State.memOk (ackHome home line from_ nowS s) := by
  unfold ackHome
  split
  all_goals
    dsimp only
    split
    · exact h
    · split
      · split
        · exact setDir_memOk h
        · exact sendCmp_memOk (setDir_memOk h)
      · exact setDir_memOk h

theorem execCohFwdAck_memOk (h : State.memOk s) : Outcome.memOk (execCohFwdAck msg s) := by
  unfold execCohFwdAck
  refine onMsg_memOk (fun _ _ ht => ackHome_memOk ?_) h
  split
  · exact writeLineAt_memOk (takeMsg_memOk ht)
  · exact takeMsg_memOk ht

theorem execCohInvAck_memOk (h : State.memOk s) : Outcome.memOk (execCohInvAck msg s) :=
  onMsg_memOk (fun _ _ ht => ackHome_memOk (takeMsg_memOk ht)) h
theorem execCohPutAck_memOk (h : State.memOk s) : Outcome.memOk (execCohPutAck msg s) :=
  onMsg_memOk (fun _ _ ht => State.modDie_memOk (takeMsg_memOk ht)) h

end

/-! ### Branches, rejoin entries, exit (Machine/Control) -/

section

variable {s : State} {o : OpC} {team n : Nat}

theorem goLanes_memOk {x : Ix} {p : Nat → Pc} (h : State.memOk s) : State.memOk (goLanes x p s).s := State.modBand_memOk h
theorem execBra_memOk {o : OpCImm} (h : State.memOk s) : Outcome.memOk (execBra o s) :=
  issueWith_memOk (fun _ _ => goLanes_memOk) h

theorem execBrc_memOk {o : OpBrc} (h : State.memOk s) : Outcome.memOk (execBrc o s) := by
  unfold execBrc
  refine issueWith_memOk (fun _ _ ht => ?_) h
  split
  · exact goLanes_memOk ht
  · exact ht

theorem execJmpx_memOk {o : OpCV} (h : State.memOk s) : Outcome.memOk (execJmpx o s) :=
  issueWith_memOk (fun _ _ => goLanes_memOk) h

theorem execJtab_memOk {o : OpJtab} (h : State.memOk s) : Outcome.memOk (execJtab o s) := by
  unfold execJtab
  refine issueWith_memOk (fun _ _ ht => ?_) h
  dsimp only
  split
  · exact ht
  · exact State.modOp_memOk (newOp_memOk (latchOut_memOk ht))

theorem execCall_memOk {o : OpCVImm} (h : State.memOk s) : Outcome.memOk (execCall o s) :=
  issueWith_memOk (fun _ _ ht => goLanes_memOk (holdResults_memOk ht)) h
theorem execCallx_memOk {o : OpCV} (h : State.memOk s) : Outcome.memOk (execCallx o s) :=
  issueWith_memOk (fun _ _ ht => goLanes_memOk (holdResults_memOk ht)) h
theorem execRet_memOk {o : OpCV} (h : State.memOk s) : Outcome.memOk (execRet o s) :=
  issueWith_memOk (fun _ _ => goLanes_memOk) h
theorem execRjset_memOk {o : OpCImm} (h : State.memOk s) : Outcome.memOk (execRjset o s) :=
  issueWith_memOk (fun _ _ ht => evalLater_memOk (State.modBand_memOk ht)) h
theorem execRjwait_memOk (h : State.memOk s) : Outcome.memOk (execRjwait o s) :=
  issueWith_memOk (fun _ _ ht => evalLater_memOk (State.modBand_memOk ht)) h
theorem execRjdrop_memOk (h : State.memOk s) : Outcome.memOk (execRjdrop o s) :=
  issueWith_memOk (fun _ _ ht => evalLater_memOk (State.modBand_memOk ht)) h

theorem teamAcquire_memOk {pair : Bool} {core : Nat} (h : State.memOk s) : State.memOk (teamAcquire pair core s) := by
  unfold teamAcquire
  split
  · exact State.modCore_memOk h
  · exact h

theorem releaseBar_memOk (h : State.memOk s) : State.memOk (releaseBar team n s) := by
  unfold releaseBar
  refine foldl_memOk (fun _ _ ht => ?_) h
  split
  · exact teamAcquire_memOk (State.modBand_memOk ht)
  · exact ht

theorem completeBar_memOk (h : State.memOk s) : State.memOk (completeBar team n s) := by
  unfold completeBar
  split
  · exact h
  · dsimp only
    split
    · exact releaseBar_memOk (State.modTeam_memOk h)
    · exact h

theorem exitBar_memOk {y : Lane} (h : State.memOk s) : State.memOk (exitBar team n y s) := by
  unfold exitBar
  split
  · exact h
  · dsimp only
    split
    · exact h
    · exact completeBar_memOk (State.modTeam_memOk h)

theorem exitLane_memOk {x : Ix} {l : Nat} (h : State.memOk s) : State.memOk (exitLane x s l) :=
  foldl_memOk (fun _ _ => exitBar_memOk) (State.modBand_memOk h)
theorem execExit_memOk (h : State.memOk s) : Outcome.memOk (execExit o s) :=
  issueWith_memOk (fun _ _ ht => evalLater_memOk (foldl_memOk (fun _ _ => exitLane_memOk) ht)) h
theorem execNop_memOk (h : State.memOk s) : Outcome.memOk (execNop o s) := issueWith_memOk (fun _ _ ht => ht) h
theorem execYield_memOk (h : State.memOk s) : Outcome.memOk (execYield o s) :=
  issueWith_memOk (fun _ _ => State.modBand_memOk) h
theorem execShadow_memOk {o : OpShadow} (h : State.memOk s) : Outcome.memOk (execShadow o s) :=
  issueWith_memOk (fun _ _ => State.modBand_memOk) h

end

/-! ### Barriers, phase words, waits, fences (Machine/Sync) -/

section

variable {key l band lane : Nat} {s : State} {x : Ix} {o : OpBar}

theorem arriveBar_memOk {team n : Nat} (h : State.memOk s) : State.memOk (arriveBar key team n l s) := by
  unfold arriveBar
  split
  · exact h
  · exact completeBar_memOk (State.modTeam_memOk (State.modBand_memOk h))

theorem waitBar_memOk {team n : Nat} (h : State.memOk s) : State.memOk (waitBar key team n l s) := by
  unfold waitBar
  split
  · dsimp only
    split
    · exact teamAcquire_memOk (State.modBand_memOk h)
    · exact State.modBand_memOk h
  · exact h

theorem barLane_memOk (h : State.memOk s) : State.memOk (barLane x o s l) := by
  unfold barLane
  split
  · exact arriveBar_memOk h
  · exact waitBar_memOk h
  · exact waitBar_memOk (arriveBar_memOk h)

theorem barLanes_memOk {ls : List Nat} {w : List Nat} (h : State.memOk s) : State.memOk (barLanes x o ls s w).s := by
  induction ls generalizing s w with
  | nil => exact h
  | cons e ls ih => exact ih (barLane_memOk h)

theorem execBar_memOk (h : State.memOk s) : Outcome.memOk (execBar o s) := issueWith_memOk (fun _ _ => barLanes_memOk) h
theorem execBarset_memOk {o : OpBarset} (h : State.memOk s) : Outcome.memOk (execBarset o s) :=
  issueWith_memOk (fun _ _ ht => completeBar_memOk (State.modTeam_memOk ht)) h

theorem execBarWatchdogExpiry_memOk (h : State.memOk s) : Outcome.memOk (execBarWatchdogExpiry band lane s) := by
  unfold execBarWatchdogExpiry
  split
  · dsimp only
    split
    · exact h
    · refine deliver_memOk ?_
      split
      · exact State.modTeam_memOk (State.modBand_memOk h)
      · exact h
  · exact h

theorem unwatchAll_memOk (h : State.memOk s) : State.memOk (unwatchAll x s) := foldl_memOk (fun _ _ => unwatch_memOk) h

theorem execPharr_memOk {o : OpPhase} (h : State.memOk s) : Outcome.memOk (execPharr o s) := by
  unfold execPharr
  refine issueWith_memOk (fun _ _ ht => ?_) h
  split
  · exact latchNow_memOk ht
  · exact teamAcquire_memOk (writeSram_memOk _ _ (unwatchAll_memOk ht))

theorem execPhwait_memOk {o : OpPhase} (h : State.memOk s) : Outcome.memOk (execPhwait o s) := by
  unfold execPhwait
  refine issueWith_memOk (fun _ _ ht => ?_) h
  split
  · exact latchNow_memOk ht
  · exact teamAcquire_memOk (senseSram_memOk _ _ (unwatchAll_memOk ht))

theorem senseWord_memOk {w : Waita} (h : State.memOk s) : State.memOk (senseWord key w s) := by
  unfold senseWord
  split
  · exact chargeTrip_memOk (senseSram_memOk _ _ h)
  · exact h

theorem releaseWaita_memOk {w : Waita} (h : State.memOk s) : State.memOk (releaseWaita key l w s) := by
  unfold releaseWaita
  extract_lets v s1 s2 s3
  have q1 : State.memOk s1 := State.modBand_memOk h
  have q2 : State.memOk s2 := by
    dsimp only [s2]
    split
    · exact ite_memOk q1 (freeMonitor_memOk q1)
    · exact q1
  have q3 : State.memOk s3 := State.modCore_memOk q2
  clear_value s3
  split
  · exact q3
  · extract_lets s4
    have q4 : State.memOk s4 :=
      ite_memOk q3 (ite_memOk (landWords_memOk q3) (holdResults_memOk (State.modBand_memOk q3)))
    exact settle_memOk (State.modOp_memOk q4)

theorem armLane_memOk {o : OpWaita} {op : Nat} (h : State.memOk s) : State.memOk (armLane o x op s l) := by
  unfold armLane
  refine ite_memOk ?_ ?_
  · refine releaseWaita_memOk (senseWord_memOk (State.modBand_memOk (armMonitor_memOk ?_)))
    split
    · exact latchSpflag_memOk h
    · exact h
  · refine senseWord_memOk (State.modBand_memOk (armMonitor_memOk ?_))
    split
    · exact latchSpflag_memOk h
    · exact h

theorem execWaita_memOk {o : OpWaita} (h : State.memOk s) : Outcome.memOk (execWaita o s) := by
  unfold execWaita
  refine issueUnless_memOk (fun _ _ ht => foldl_memOk (fun _ _ => armLane_memOk) ?_) h
  split
  · exact markPending_memOk (countIssue_memOk (newOp_memOk ht))
  · exact countIssue_memOk (newOp_memOk ht)

theorem execWatchWake_memOk {core g : Nat} (h : State.memOk s) : Outcome.memOk (execWatchWake core g s) := by
  unfold execWatchWake
  split
  · trivial
  · split
    · exact h
    · refine foldl_memOk (fun _ _ ht => ?_) (chargeRoute_memOk (State.modCore_memOk h))
      split
      · dsimp only
        split
        · exact releaseWaita_memOk (senseWord_memOk ht)
        · exact senseWord_memOk ht
      · exact ht

theorem execMonitorPoll_memOk (h : State.memOk s) : Outcome.memOk (execMonitorPoll band lane s) := by
  unfold execMonitorPoll
  refine foldl_memOk (fun _ _ ht => ?_) (State.modBand_memOk h)
  dsimp only
  split
  · exact releaseWaita_memOk (senseWord_memOk ht)
  · exact senseWord_memOk ht

theorem execWaitaTimeout_memOk (h : State.memOk s) : Outcome.memOk (execWaitaTimeout band lane s) :=
  foldl_memOk (fun _ _ => releaseWaita_memOk) h

theorem takeLatch_memOk {pc : Pc} {ks : List Nat} (h : State.memOk s) : State.memOk (takeLatch key pc ks s l) := by
  unfold takeLatch
  split
  · exact h
  · split
    · exact h
    · exact deliver_memOk (State.modBand_memOk h)

theorem execDwait_memOk {o : OpDwait} (h : State.memOk s) : Outcome.memOk (execDwait o s) :=
  issueWith_memOk (fun _ _ => State.modBand_memOk) h

theorem execCounterWaitRelease_memOk {lanes : Dword} (h : State.memOk s) :
    Outcome.memOk (execCounterWaitRelease band lanes s) := by
  unfold execCounterWaitRelease
  split
  · exact h
  · refine foldl_memOk (fun _ _ ht => ?_) h
    dsimp only
    split
    · split
      · exact ht
      · split
        · exact State.modBand_memOk ht
        · exact takeLatch_memOk ht
    · exact ht

theorem execFence_memOk {o : OpFence} (h : State.memOk s) : Outcome.memOk (execFence o s) :=
  issueWith_memOk (fun _ _ ht => countIssue_memOk (newOp_memOk ht)) h

theorem execFenceComplete_memOk {op : Nat} (h : State.memOk s) : Outcome.memOk (execFenceComplete op s) := by
  unfold execFenceComplete
  split
  · exact h
  · split
    · split
      · exact h
      · split
        · exact State.modCore_memOk (countDown_memOk h)
        · exact acquireEffect_memOk (countDown_memOk h)
    · exact h

theorem execRejoinDeadlockDetect_memOk (h : State.memOk s) : Outcome.memOk (execRejoinDeadlockDetect band s) := by
  unfold execRejoinDeadlockDetect
  split
  · exact h
  · split
    · exact h
    · refine foldl_memOk (fun _ _ ht => ?_) h
      dsimp only
      split
      · exact deliver_memOk ht
      · exact ht

end

/-! ### Traps by instruction, timers, intents (Machine/System) -/

section

variable {s : State}

theorem execTrap_memOk {o : OpCImm} (h : State.memOk s) : Outcome.memOk (execTrap o s) :=
  issueWith_memOk (fun _ _ ht => ht) h
theorem execBrk_memOk {o : OpCImm} (h : State.memOk s) : Outcome.memOk (execBrk o s) := issueWith_memOk (fun _ _ ht => ht) h
theorem execEcall_memOk {o : OpEcall} (h : State.memOk s) : Outcome.memOk (execEcall o s) :=
  issueWith_memOk (fun _ _ ht => ite_memOk (State.modBand_memOk ht) (formFragment_memOk (State.modBand_memOk ht))) h

theorem execPhint_memOk {o : OpPhint} (h : State.memOk s) : Outcome.memOk (execPhint o s) := by
  unfold execPhint
  refine issueWith_memOk (fun _ _ ht => ?_) h
  split
  · exact State.modBand_memOk ht
  · exact ht

theorem execTmarm_memOk {o : OpSwitchC} (h : State.memOk s) : Outcome.memOk (execTmarm o s) :=
  issueWith_memOk (fun _ _ => State.modBand_memOk) h
theorem execFragq_memOk {o : OpCS} (h : State.memOk s) : Outcome.memOk (execFragq o s) :=
  issueWith_memOk (fun _ _ => holdResults_memOk) h

theorem refreshPlan_memOk (h : State.memOk s) : State.memOk (refreshPlan s) := by
  unfold refreshPlan
  dsimp only
  split
  · exact State.modHub_memOk h
  · exact State.modHub_memOk h
  · exact h

theorem execPwint_memOk {o : OpSwitchC} (h : State.memOk s) : Outcome.memOk (execPwint o s) :=
  issueWith_memOk (fun _ _ ht => refreshPlan_memOk (State.modBand_memOk ht)) h

theorem execPwintIntentExpiry_memOk {band : Nat} (h : State.memOk s) : Outcome.memOk (execPwintIntentExpiry band s) := by
  unfold execPwintIntentExpiry
  split
  · exact h
  · split
    · exact h
    · split
      · exact refreshPlan_memOk (State.modBand_memOk h)
      · exact h

end

/-! ### Tasks, launches, completion bitmaps (Machine/Tasks) -/

section

variable {core : Nat} {s : State} {x : Ix} {dc : Dc}

theorem setDeque_memOk {q : List Task} (h : State.memOk s) : State.memOk (setDeque core q s) :=
  State.modCore_memOk (writeSram_memOk _ _ h)
theorem senseDeque_memOk (h : State.memOk s) : State.memOk (senseDeque core s) := senseSram_memOk _ _ h
theorem execSpawn_memOk {o : OpTask} (h : State.memOk s) : Outcome.memOk (execSpawn o s) :=
  issueWith_memOk (fun _ _ => setDeque_memOk) h

theorem serveOwn_memOk {ls : List Nat} {got : List (Nat × Task)} (h : State.memOk s) :
    State.memOk (serveOwn x ls s got).2.2 := by
  induction ls generalizing s got with
  | nil => exact h
  | cons e ls ih =>
    rw [serveOwn]
    split
    · exact h
    · exact ih (setDeque_memOk h)

theorem chargeProbe_memOk {v n : Nat} (h : State.memOk s) : State.memOk (chargeProbe core v n s) :=
  chargeBytes_memOk (chargeRoute_memOk h)

theorem steal_memOk {vs ls : List Nat} {got : List (Nat × Task)} (h : State.memOk s) :
    State.memOk (steal x vs ls s got).2 := by
  induction vs generalizing ls s got with
  | nil => exact h
  | cons e vs ih =>
    rw [steal]
    split
    · exact h
    · dsimp only
      split
      · exact ih (chargeProbe_memOk (senseDeque_memOk h))
      · exact ih (setDeque_memOk (setDeque_memOk (chargeProbe_memOk (senseDeque_memOk h))))

theorem execTake_memOk {o : OpTask} (h : State.memOk s) : Outcome.memOk (execTake o s) :=
  issueUnless_memOk (fun _ _ ht => markPending_memOk (countIssue_memOk (newOp_memOk (steal_memOk (serveOwn_memOk
    (senseDeque_memOk ht)))))) h
theorem parkAll_memOk {i : Instr} {ps : List FaultPage} (h : State.memOk s) : State.memOk (parkAll i x ps dc s).s :=
  formFragment_memOk h
theorem countParked_memOk (h : State.memOk s) : State.memOk (countParked x dc s) := countIssue_memOk h

theorem countAtOnce_memOk (h : State.memOk s) : State.memOk (countAtOnce x dc s) := by
  unfold countAtOnce
  split
  · exact countDown_memOk h
  · exact h

theorem execLaunch_memOk {o : OpEng2} (h : State.memOk s) : Outcome.memOk (execLaunch o s) := by
  unfold execLaunch
  refine issueWith_memOk (fun _ _ ht => ?_) h
  dsimp only
  split
  · exact countAtOnce_memOk (Try.state_memOk (launchGrid_memOk ht))
  · exact parkAll_memOk (countParked_memOk ht)
  · exact ht

theorem execCbset_memOk {o : OpEng2} (h : State.memOk s) : Outcome.memOk (execCbset o s) := by
  unfold execCbset
  refine issueWith_memOk (fun _ _ ht => ?_) h
  dsimp only
  split
  · exact countAtOnce_memOk (writeThrough_memOk ht)
  · exact parkAll_memOk (countParked_memOk ht)
  · exact ht

theorem execCbwait_memOk {o : OpEng3} (h : State.memOk s) : Outcome.memOk (execCbwait o s) := by
  unfold execCbwait
  refine issueWith_memOk (fun _ _ ht => ?_) h
  dsimp only
  split
  · exact countAtOnce_memOk ht
  · split
    · exact parkAll_memOk (countParked_memOk ht)
    · exact State.modOp_memOk (countIssue_memOk (newOp_memOk ht))

theorem readRange_memOk {o : Op} {ctx base first count : Nat} {js : List Nat} (h : State.memOk s) :
    State.memOk (readRange o ctx base first count js s).2.2 := by
  induction js generalizing s with
  | nil => exact h
  | cons e js ih =>
    rw [readRange]
    split
    · exact ih h
    · split
      · exact ih h
      · split <;> exact memOk_of_pair (readMem_memOk (ih h)) ‹_›

theorem execCbwaitPoll_memOk {op : Nat} (h : State.memOk s) : Outcome.memOk (execCbwaitPoll op s) := by
  unfold execCbwaitPoll
  split
  · exact h
  · split
    · split
      · exact h
      · split
        · have ht := memOk_of_triple (readRange_memOk h) ‹_›
          exact acquireEffect_memOk (countDown_memOk ht)
        · exact State.modOp_memOk (memOk_of_triple (readRange_memOk h) ‹_›)
    · exact h

end

/-! ### Tile rows, landings and acknowledgements (Machine/Tiles) -/

section

variable {x : Ix} {write : Bool} {s : State} {o : Op} {a : Acc} {ps : List Part} {k ctx n rows ew : Nat}

theorem translatePages_memOk {ps : List (Nat × Nat)} (h : State.memOk s) :
    State.memOk (translatePages x write ps s).2.2 := by
  induction ps generalizing s with
  | nil => exact h
  | cons e ps ih =>
    rw [translatePages]
    split <;> exact ih (memOk_of_pair (xlate_memOk h) ‹_›)

theorem askTile_memOk {o : OpTileMem} (h : State.memOk s) : State.memOk (askTile o write x s) := by
  unfold askTile
  refine foldl_memOk (fun _ _ ht => ?_) h
  split
  · exact xlate_memOk ht
  · exact ht

theorem parkTile_memOk {i : Instr} {w : Nat} {ps : List FaultPage} {dc : Dc} (h : State.memOk s) :
    State.memOk (parkTile i x w ps dc s).s :=
  formFragment_memOk (countIssue_memOk h)

theorem execTld_memOk {o : OpTileMem} (h : State.memOk s) : Outcome.memOk (execTld o s) := by
  unfold execTld
  refine issueUnless_memOk (fun _ _ ht => ?_) h
  dsimp only
  split
  · exact State.modTeam_memOk (countIssue_memOk (newOp_memOk (memOk_of_triple (translatePages_memOk ht) ‹_›)))
  · exact parkTile_memOk (memOk_of_triple (translatePages_memOk ht) ‹_›)

theorem execTst_memOk {o : OpTileMem} (h : State.memOk s) : Outcome.memOk (execTst o s) := by
  unfold execTst
  refine issueUnless_memOk (fun _ _ ht => ?_) h
  dsimp only
  split
  · exact State.modTeam_memOk (countIssue_memOk (newOp_memOk (memOk_of_triple (translatePages_memOk ht) ‹_›)))
  · exact parkTile_memOk (memOk_of_triple (translatePages_memOk ht) ‹_›)

theorem execTzero_memOk {o : OpTile} (h : State.memOk s) : Outcome.memOk (execTzero o s) :=
  issueUnless_memOk (fun _ _ ht => State.modTeam_memOk (newOp_memOk ht)) h

theorem askRow_memOk {die : Nat} (h : State.memOk s) : State.memOk (askRow die write a ps s) := by
  unfold askRow
  refine foldl_memOk (fun _ _ ht => ?_) h
  split
  · exact askPlaced_memOk ht
  · exact ht

theorem chargeRow_memOk {die : Nat} (h : State.memOk s) : State.memOk (chargeRow die ps s) :=
  foldl_memOk (fun _ _ ht => chargeRoute_memOk (chargeRoute_memOk ht)) h

theorem readPart_memOk {p : Part} (h : State.memOk s) : State.memOk (readPart k o ctx p s).2.2 := by
  unfold readPart
  split
  · split <;> exact h
  · exact senseSram_memOk _ _ h
  · exact latchSpflag_memOk h
  · exact h

theorem writePart_memOk {bs : List Byte} {p : Part} (h : State.memOk s) : State.memOk (writePart k o ctx bs s p) := by
  unfold writePart
  split
  · split
    · exact storeLine_memOk h
    · exact h
  · exact writeSram_memOk _ _ h
  · exact latchSpflag_memOk h
  · exact h

theorem readRow_memOk (h : State.memOk s) : State.memOk (readRow n o ctx ps s).2.2 := by
  induction ps generalizing s with
  | nil => exact h
  | cons e ps ih => exact ih (readPart_memOk h)

theorem endTile_memOk {f : Tile → Tile} (h : State.memOk s) : State.memOk (endTile k o n f s) := by
  unfold endTile
  split
  · exact h
  · exact countDown_memOk (State.modTeam_memOk h)

theorem rowDone_memOk {row : Nat} {f : Op → Tile → Tile} (h : State.memOk s) : State.memOk (rowDone k n row f s) := by
  unfold rowDone
  split
  · exact h
  · dsimp only
    split
    · exact endTile_memOk (acquireEffect_memOk (State.modOp_memOk h))
    · exact acquireEffect_memOk (State.modOp_memOk h)

theorem notePoison_memOk {q : Option Nat} (h : State.memOk s) : State.memOk (notePoison k q s) := by
  unfold notePoison
  split
  · exact h
  · exact State.modOp_memOk h

theorem beatRow_memOk {b : Band} {t : Team} {g : Grid} {j : Nat} (h : State.memOk s) :
    State.memOk (beatRow k o b t g n rows ew j s a) := by
  unfold beatRow
  split
  · exact h
  · refine State.modOp_memOk (notePoison_memOk ?_)
    split
    · exact readPart_memOk h
    · exact State.modTeam_memOk (readPart_memOk h)

theorem moveBeat_memOk (h : State.memOk s) : State.memOk (moveBeat k o n rows ew s) := by
  unfold moveBeat
  split
  · dsimp only
    split
    · exact h
    · refine foldl_memOk (fun _ _ ht => ?_) (foldl_memOk (fun _ _ => beatRow_memOk) (chargeRow_memOk h))
      split
      · exact rowDone_memOk ht
      · exact ht
  · exact h

theorem moveTld_memOk {tr : Bool} (h : State.memOk s) : State.memOk (moveTld k o a n tr rows ew s) := by
  unfold moveTld
  split
  · exact h
  · split
    all_goals
      dsimp only
      split
      · exact h
      · split
        · exact askRow_memOk h
        · exact rowDone_memOk (notePoison_memOk (State.modTeam_memOk (readRow_memOk (chargeRow_memOk h))))

theorem moveTst_memOk (h : State.memOk s) : State.memOk (moveTst k o a n s) := by
  unfold moveTst
  split
  · exact h
  · dsimp only
    split
    · exact h
    · split
      · exact askRow_memOk h
      · exact rowDone_memOk (foldl_memOk (fun _ _ => writePart_memOk) (chargeRow_memOk h))

theorem State.modAccum_memOk {core id : Nat} {f : Accum → Accum} (h : State.memOk s) :
    State.memOk (State.modAccum s core id f) :=
  State.modCore_memOk h

theorem landTile_memOk (h : State.memOk s) : State.memOk (landTile k o s) := by
  unfold landTile
  split
  · exact endTile_memOk h
  · exact State.modAccum_memOk (endTile_memOk h)
  · exact h

theorem execLongLatencyResultLands_memOk {op lane : Nat} (h : State.memOk s) :
    Outcome.memOk (execLongLatencyResultLands op lane s) := by
  unfold execLongLatencyResultLands
  split
  · exact h
  · split
    · exact h
    · split
      · split
        · exact h
        · split
          · exact moveBeat_memOk h
          · exact moveTld_memOk h
      · exact landTile_memOk h
      · exact landTile_memOk h
      · split
        · exact stepAcc_memOk h
        · exact h

theorem execStoreAcknowledge_memOk {op lane : Nat} (h : State.memOk s) :
    Outcome.memOk (execStoreAcknowledge op lane s) := by
  unfold execStoreAcknowledge
  split
  · exact h
  · split
    · exact h
    · split
      · exact stepAcc_memOk h
      · exact stepAcc_memOk h
      · split
        · exact h
        · exact flushStep_memOk h
      · split
        · exact h
        · exact prefStep_memOk h
      · split
        · exact h
        · exact moveTst_memOk h
      · exact h

end

/-! ### Accumulator tokens and matrix units (Machine/Matrix) -/

section

variable {core id u : Nat} {s : State} {o : OpTileS}

theorem setToken_memOk {t : Token} (h : State.memOk s) : State.memOk (setToken core id t s) := State.modAccum_memOk h
theorem acquireAcc_memOk {team : Nat} (h : State.memOk s) : State.memOk (acquireAcc core id team s) :=
  State.modAccum_memOk h
theorem freeAcc_memOk (h : State.memOk s) : State.memOk (freeAcc core id s) := State.modCore_memOk h

theorem execMacq_memOk (h : State.memOk s) : Outcome.memOk (execMacq o s) := by
  unfold execMacq
  refine issueUnless_memOk (fun _ _ ht => ?_) h
  split
  · exact acquireAcc_memOk ht
  · exact ht

theorem execMrel_memOk (h : State.memOk s) : Outcome.memOk (execMrel o s) := issueUnless_memOk (fun _ _ => freeAcc_memOk) h
theorem execTfmt_memOk (h : State.memOk s) : Outcome.memOk (execTfmt o s) :=
  issueWith_memOk (fun _ _ => State.modBand_memOk) h
theorem execArd_memOk {o : OpTileAcc} (h : State.memOk s) : Outcome.memOk (execArd o s) :=
  issueUnless_memOk (fun _ _ ht => State.modTeam_memOk (State.modAccum_memOk (newOp_memOk ht))) h
theorem execAwr_memOk {o : OpTileAcc} (h : State.memOk s) : Outcome.memOk (execAwr o s) :=
  issueUnless_memOk (fun _ _ => State.modAccum_memOk) h
theorem State.modMx_memOk {f : Mx → Mx} (h : State.memOk s) : State.memOk (State.modMx s core u f) := State.modCore_memOk h

theorem execMma_memOk (h : State.memOk s) : Outcome.memOk (execMma o s) := by
  unfold execMma
  refine issueUnless_memOk (fun _ _ ht => State.modMx_memOk (State.modTeam_memOk (setToken_memOk ?_))) h
  split
  · exact senseSram_memOk _ _ ht
  · exact ht

theorem execMwait_memOk (h : State.memOk s) : Outcome.memOk (execMwait o s) := by
  unfold execMwait
  refine issueUnless_memOk (fun _ _ ht => ?_) h
  dsimp only
  split
  · split
    · exact State.modBand_memOk ht
    · exact setToken_memOk ht
  · exact ht

theorem passMwait_memOk {g : Nat × Pc × Nat × List Nat} (h : State.memOk s) : State.memOk (passMwait g s) :=
  State.modBand_memOk h
theorem trapMwait_memOk {cause : Nat} {addr : Dword} {g : Nat × Pc × Nat × List Nat} (h : State.memOk s) :
    State.memOk (trapMwait cause addr s g) :=
  deliverAll_memOk h
theorem leaveUnit_memOk {o : MxOp} (h : State.memOk s) : State.memOk (leaveUnit core u o s) :=
  State.modTeam_memOk (State.modMx_memOk h)

theorem endMx_memOk {o : MxOp} {err : Bool} (h : State.memOk s) : State.memOk (endMx core u o err s) := by
  unfold endMx
  split
  · dsimp only
    split
    · exact freeAcc_memOk (leaveUnit_memOk h)
    · split
      · exact setToken_memOk (leaveUnit_memOk h)
      · exact foldl_memOk (fun _ _ => passMwait_memOk) (trapMwait_memOk (setToken_memOk (leaveUnit_memOk h)))
  · dsimp only
    split
    · exact freeAcc_memOk (leaveUnit_memOk h)
    · split
      · exact setToken_memOk (leaveUnit_memOk h)
      · exact foldl_memOk (fun _ _ => passMwait_memOk) (passMwait_memOk (setToken_memOk (leaveUnit_memOk h)))

theorem noteMxErr_memOk {o : MxOp} {kind : Nat} (h : State.memOk s) : State.memOk (noteMxErr core o kind s) :=
  State.modCore_memOk h

theorem execMmaOperationStart_memOk {unit : Nat} (h : State.memOk s) :
    Outcome.memOk (execMmaOperationStart core unit s) := by
  unfold execMmaOperationStart
  split
  · trivial
  · dsimp only
    split
    · exact h
    · split
      · exact h
      · split
        · exact State.modMx_memOk h
        · split
          · exact endMx_memOk (noteMxErr_memOk (State.modMx_memOk h))
          · split
            · exact State.modAccum_memOk (State.modMx_memOk h)
            · exact State.modMx_memOk h

theorem execMmaStep_memOk {unit : Nat} (h : State.memOk s) : Outcome.memOk (execMmaStep core unit s) := by
  unfold execMmaStep
  split
  · trivial
  · split
    · exact h
    · split
      · exact h
      · dsimp only
        split
        · exact endMx_memOk (State.modAccum_memOk (chargeCore_memOk h))
        · exact State.modMx_memOk (State.modAccum_memOk (chargeCore_memOk h))

theorem execMatrixQuiesce_memOk {team : Nat} (h : State.memOk s) : Outcome.memOk (execMatrixQuiesce core team s) := by
  unfold execMatrixQuiesce
  split
  · trivial
  · refine foldl_memOk (fun _ _ ht => ?_) (returnMark_memOk h)
    split
    · split
      · exact State.modMx_memOk ht
      · exact ht
    · exact ht

theorem resetMx_memOk (h : State.memOk s) : State.memOk (resetMx core u s) := by
  unfold resetMx
  split
  · exact h
  · dsimp only
    split
    · exact freeAcc_memOk (leaveUnit_memOk h)
    · exact foldl_memOk (fun _ _ => trapMwait_memOk) (State.modAccum_memOk (leaveUnit_memOk h))

theorem execMreset_memOk (h : State.memOk s) : Outcome.memOk (execMreset o s) := by
  unfold execMreset
  refine issueWith_memOk (fun _ _ ht => ?_) h
  split
  · exact resetMx_memOk ht
  · exact ht

end

/-! ### Copy engines (Machine/Copy) -/

section

variable {x : Ix} {s : State} {op slot core : Nat} {o : OpCopy} {t : Team} {g : Grid} {c : CopyCmd}

theorem postOffer_memOk {i : Instr} {put : Offer → State → State} (hf : ∀ u t, State.memOk t → State.memOk (put u t))
    (h : State.memOk s) : State.memOk (postOffer i x put s).s := by
  unfold postOffer
  split
  · exact h
  · exact hf _ _ (refund_memOk h)

theorem putCopyOffer_memOk {o : Offer} (h : State.memOk s) : State.memOk (putCopyOffer o s) := State.modCore_memOk h
theorem copyIssue_memOk {i : Instr} (h : State.memOk s) : Outcome.memOk (copyIssue i op o s) :=
  issueWith_memOk (fun _ _ ht => postOffer_memOk (fun _ _ => putCopyOffer_memOk) ht) h

theorem senseDesc_memOk (h : State.memOk s) : State.memOk (senseDesc op o x s) := by
  unfold senseDesc
  split
  · exact h
  · split
    · exact senseSram_memOk _ _ h
    · exact h

theorem acceptCopy_memOk (h : State.memOk s) : State.memOk (acceptCopy op o slot x s).s := by
  unfold acceptCopy
  dsimp only
  split
  · exact latchError_memOk (State.modCore_memOk (senseDesc_memOk h))
  · exact countUp_memOk (State.modCore_memOk (senseDesc_memOk h))

theorem execCopyAccept_memOk (h : State.memOk s) : Outcome.memOk (execCopyAccept core s) := by
  unfold execCopyAccept
  split
  · trivial
  · dsimp only
    split
    · exact State.modCore_memOk h
    · split
      · exact perform_memOk (fun _ _ => acceptCopy_memOk) (chargeCore_memOk (State.modCore_memOk (State.modCore_memOk h)))
      · exact State.modCore_memOk h

theorem askNeeds_memOk {die : Nat} {ns : List Need} (h : State.memOk s) : State.memOk (askNeeds die ns s).2.2 := by
  induction ns generalizing s with
  | nil => exact h
  | cons e ns ih =>
    rw [askNeeds]
    split
    · exact ih h
    · dsimp only
      split <;> exact ih (askLine_memOk h)

theorem readPlace_memOk {p : Place} {n : Nat} (h : State.memOk s) : State.memOk (readPlace core p n s).2 := by
  unfold readPlace
  split
  · split
    · split <;> exact h
    · exact h
  · dsimp only
    split <;> exact senseSram_memOk _ _ (chargeRoute_memOk (chargeRoute_memOk h))
  · exact h

theorem writePlace_memOk {p : Place} {bs : List Byte} (h : State.memOk s) : State.memOk (writePlace core p bs s) := by
  unfold writePlace
  split
  · exact writeMem_memOk h
  · exact writeSram_memOk _ _ (chargeRoute_memOk h)
  · exact h

theorem performRun_memOk {r : CopyRun} {w : Way} (h : State.memOk s) : State.memOk (performRun core r w s).2 := by
  unfold performRun
  split
  · exact h
  · exact h
  · exact writePlace_memOk h
  · split
    · exact memOk_of_pair (readPlace_memOk h) ‹_›
    · exact writePlace_memOk (memOk_of_pair (readPlace_memOk h) ‹_›)

theorem senseIndices_memOk {lo hi : Nat} (h : State.memOk s) : State.memOk (senseIndices core t g c lo hi s) := by
  unfold senseIndices
  split
  · split
    · exact h
    · refine foldl_memOk (fun _ _ ht => ?_) h
      split
      · exact senseSram_memOk _ _ ht
      · exact ht
  · exact h

theorem dropCommand_memOk (h : State.memOk s) : State.memOk (dropCommand core slot c s) :=
  countDown_memOk (State.modCore_memOk h)
theorem failCommand_memOk {kind addr : Nat} (h : State.memOk s) : State.memOk (failCommand core slot c kind addr s) :=
  latchError_memOk (State.modCore_memOk (dropCommand_memOk (State.modCore_memOk h)))
theorem postFault_memOk {die : Nat} {r : FaultRec} (h : State.memOk s) : State.memOk (postFault die r s) :=
  State.modDie_memOk h
theorem parkCommand_memOk {kind entry caddr vaddr : Nat} {write : Bool} (h : State.memOk s) :
    State.memOk (parkCommand core slot c kind entry caddr vaddr write s) :=
  postFault_memOk (State.modCore_memOk h)
theorem putCommand_memOk (h : State.memOk s) : State.memOk (putCommand core slot c s) := State.modCore_memOk h
theorem beginUnit_memOk (h : State.memOk s) : State.memOk (beginUnit core slot t g c s) :=
  putCommand_memOk (chargeCore_memOk (senseIndices_memOk h))

theorem endUnit_memOk {w : CopyWork} (h : State.memOk s) : State.memOk (endUnit core slot c w s) := by
  unfold endUnit
  split
  · exact putCommand_memOk h
  · exact failCommand_memOk h
  · exact parkCommand_memOk h

theorem stepUnit_memOk {w : CopyWork} (h : State.memOk s) : State.memOk (stepUnit core slot t g c w s) := by
  unfold stepUnit
  split
  · exact endUnit_memOk h
  · dsimp only
    split
    · exact h
    · split
      · exact memOk_of_triple (askNeeds_memOk h) ‹_›
      · have ht := memOk_of_triple (askNeeds_memOk h) ‹_›
        refine putCommand_memOk ?_
        split
        · exact ht
        · exact performRun_memOk ht

theorem execCopyUnit_memOk (h : State.memOk s) : Outcome.memOk (execCopyUnit core slot s) := by
  unfold execCopyUnit
  split
  · trivial
  · dsimp only
    split
    · exact h
    · split
      · exact h
      · split
        · exact stepUnit_memOk h
        · split
          · exact h
          · exact beginUnit_memOk h

theorem execCopyComplete_memOk (h : State.memOk s) : Outcome.memOk (execCopyComplete core slot s) := by
  unfold execCopyComplete
  split
  · trivial
  · split
    · exact h
    · split
      · exact h
      · split
        · exact failCommand_memOk (State.modCore_memOk h)
        · refine dropCommand_memOk ?_
          split
          · exact writePlace_memOk (State.modCore_memOk h)
          · exact State.modCore_memOk h

theorem goCopy_memOk {abort : Bool} {act : CopyCmd → State → State} (hf : ∀ u t, State.memOk t → State.memOk (act u t))
    (h : State.memOk s) : Outcome.memOk (goCopy core slot abort act s) := by
  unfold goCopy
  split
  · trivial
  · split
    · split
      · exact hf _ _ (State.modCore_memOk h)
      · exact State.modCore_memOk h
    · exact State.modCore_memOk h

theorem execCeresResume_memOk (h : State.memOk s) : Outcome.memOk (execCeresResume core slot s) :=
  goCopy_memOk (fun _ _ => State.modCore_memOk) h
theorem execCeresAbort_memOk (h : State.memOk s) : Outcome.memOk (execCeresAbort core slot s) :=
  goCopy_memOk (fun _ _ => failCommand_memOk) h

theorem execCopyQuiesce_memOk {team : Nat} (h : State.memOk s) : Outcome.memOk (execCopyQuiesce core team s) := by
  unfold execCopyQuiesce
  split
  · trivial
  · split
    · exact h
    · exact returnMark_memOk h

end

/-! ### Encke fronts and row units (Machine/Encke) -/

section

variable {s : State} {k : EkKind} {o : OpEncke} {ctx die slot kind : Nat} {c : EkCmd} {write : Bool}

theorem putEnckeOffer_memOk {o : Offer} (h : State.memOk s) : State.memOk (putEnckeOffer o s) := State.modDie_memOk h
theorem enckeIssue_memOk {i : Instr} (h : State.memOk s) : Outcome.memOk (enckeIssue i k o s) :=
  issueWith_memOk (fun _ _ ht => postOffer_memOk (fun _ _ => putEnckeOffer_memOk) ht) h
theorem loadSet_memOk {set : Nat} {b : Option KeySet} (h : State.memOk s) : State.memOk (loadSet ctx set b s) :=
  foldl_memOk (fun _ _ => State.modDie_memOk) (State.modCtx_memOk h)
theorem noteEkError_memOk {core band : Nat} {dc : Fin 6} {m : Dword} {addr : Nat} (h : State.memOk s) :
    State.memOk (noteEkError die slot core ctx band dc m kind addr s) :=
  latchError_memOk (State.modDie_memOk h)

theorem senseBlock_memOk {x : Ix} (h : State.memOk s) : State.memOk (senseBlock k o x s) := by
  unfold senseBlock
  split
  · exact h
  · split
    · exact senseSram_memOk _ _ h
    · exact h

theorem acceptEncke_memOk {x : Ix} (h : State.memOk s) : State.memOk (acceptEncke k o slot x s).s := by
  unfold acceptEncke
  dsimp only
  split
  · refine noteEkError_memOk ?_
    split
    · exact loadSet_memOk (senseBlock_memOk h)
    · exact senseBlock_memOk h
  · exact countUp_memOk (State.modCore_memOk (State.modDie_memOk (senseBlock_memOk h)))

theorem execEnckeAccept_memOk (h : State.memOk s) : Outcome.memOk (execEnckeAccept die s) := by
  unfold execEnckeAccept
  split
  · trivial
  · dsimp only
    split
    · exact State.modDie_memOk h
    · split
      · exact perform_memOk (fun _ _ => acceptEncke_memOk) (chargeCore_memOk (State.modDie_memOk (State.modDie_memOk h)))
      · exact State.modDie_memOk h

theorem State.modEk_memOk {f : EkCmd → EkCmd} (h : State.memOk s) : State.memOk (State.modEk s die slot f) :=
  State.modDie_memOk h
theorem dropEk_memOk (h : State.memOk s) : State.memOk (dropEk die slot c s) :=
  countDown_memOk (State.modCore_memOk (State.modDie_memOk h))

theorem clearL1_memOk (h : State.memOk s) : State.memOk (clearL1 c s) := by
  unfold clearL1
  split
  · exact State.modCore_memOk h
  · exact h

theorem failEk_memOk {addr : Nat} (h : State.memOk s) : State.memOk (failEk die slot c kind addr s) :=
  noteEkError_memOk (dropEk_memOk (clearL1_memOk h))
theorem parkEk_memOk {entry caddr vaddr : Nat} (h : State.memOk s) :
    State.memOk (parkEk die slot c kind entry caddr vaddr write s) :=
  postFault_memOk (State.modEk_memOk h)

theorem haltEk_memOk {r : Halt_} (h : State.memOk s) : State.memOk (haltEk die slot c r s) := by
  unfold haltEk
  split
  · exact failEk_memOk h
  · exact parkEk_memOk h

theorem ekSramRead_memOk {g n : Nat} (h : State.memOk s) : State.memOk (ekSramRead s die ctx g n).2 := by
  unfold ekSramRead
  split
  · exact h
  · dsimp only
    split <;> exact senseSram_memOk _ _ (chargeBytes_memOk (chargeBytes_memOk h))

theorem ekSramWrite_memOk {g : Nat} {bs : List Byte} (h : State.memOk s) : SumHalt.memOk (ekSramWrite s die ctx g bs) := by
  unfold ekSramWrite
  split
  · trivial
  · exact writeSram_memOk _ _ (chargeBytes_memOk h)

theorem ekTranslate_memOk {need : Nat} {vs : List Nat} (h : State.memOk s) :
    State.memOk (ekTranslate die ctx need write vs s).2 := by
  induction vs generalizing s with
  | nil => exact h
  | cons e vs ih =>
    rw [ekTranslate]
    split
    · exact h
    · split
      · exact memOk_of_pair (xlate_memOk h) ‹_›
      · exact memOk_of_pair (xlate_memOk h) ‹_›
      · exact memOk_of_pair (xlate_memOk h) ‹_›
      · have ht := memOk_of_pair (xlate_memOk h) ‹_›
        split
        · exact memOk_of_pair (ih ht) ‹_›
        · exact ih ht

theorem askLines_memOk {p : Nat × Nat} {n : Nat} (h : State.memOk s) : State.memOk (askLines die p n write s) :=
  foldl_memOk (fun _ _ => askPlaced_memOk) h
theorem ekWrite_memOk {c : Nat} {bs : List Byte} (h : State.memOk s) : State.memOk (ekWrite die c bs s) :=
  foldl_memOk (fun _ _ => writeMem_memOk) h

theorem execKeyStaging_memOk (h : State.memOk s) : Outcome.memOk (execKeyStaging die slot s) := by
  unfold execKeyStaging
  split
  · trivial
  · dsimp only
    split
    · exact h
    · split
      · exact h
      · split
        · exact h
        · split
          · exact failEk_memOk h
          · split
            · exact memOk_of_pair (readMem_memOk h) ‹_›
            · exact failEk_memOk (memOk_of_pair (readMem_memOk h) ‹_›)
            · exact parkEk_memOk (memOk_of_pair (readMem_memOk h) ‹_›)
            · exact State.modDie_memOk (chargeDie_memOk (memOk_of_pair (readMem_memOk h) ‹_›))

theorem finishQuery_memOk (h : State.memOk s) : State.memOk (finishQuery die slot c s) :=
  State.modCtx_memOk (State.modEk_memOk h)

theorem placeRows_memOk {q : EkQuery} {need : Nat} {rows : List Nat} {fin : State → State ⊕ Halt_}
    (hf : ∀ t, State.memOk t → SumHalt.memOk (fin t)) (h : State.memOk s) :
    State.memOk (placeRows die slot c q need write rows fin s) := by
  unfold placeRows
  split
  · exact memOk_of_pair (ekTranslate_memOk h) ‹_›
  · exact haltEk_memOk (memOk_of_pair (ekTranslate_memOk h) ‹_›)
  · have ht := memOk_of_pair (ekTranslate_memOk h) ‹_›
    split
    · exact haltEk_memOk ht
    · exact State.modEk_memOk (SumHalt.of_inl (hf _ ht) ‹_›)

theorem execPkqQuery_memOk (h : State.memOk s) : Outcome.memOk (execPkqQuery die slot s) := by
  unfold execPkqQuery
  split
  · trivial
  · dsimp only
    split
    · exact h
    · split
      · split
        · exact h
        · split
          · split
            · exact h
            · exact placeRows_memOk (fun _ => ekSramWrite_memOk) h
          · split
            · exact h
            · split
              · exact haltEk_memOk (memOk_of_pair (ekSramRead_memOk h) ‹_›)
              · exact State.modEk_memOk (chargeDie_memOk (memOk_of_pair (ekSramRead_memOk h) ‹_›))
          · exact h
      · exact h

theorem writeOutput_memOk {src : Nat} {b : Batch} {q : EkQuery} {acc : List Word} (h : State.memOk s) :
    State.memOk (writeOutput die slot src c b q acc s) := by
  unfold writeOutput
  split
  · exact haltEk_memOk h
  · exact finishQuery_memOk (SumHalt.of_inl (ekSramWrite_memOk h) ‹_›)

theorem execEnckeRowGather_memOk (h : State.memOk s) : Outcome.memOk (execEnckeRowGather die slot s) := by
  unfold execEnckeRowGather
  split
  · trivial
  · split
    · exact h
    · split
      · split
        · exact h
        · split
          · split
            · dsimp only
              split
              · exact askLines_memOk h
              · split
                · exact h
                · split
                  · exact failEk_memOk h
                  · exact writeOutput_memOk (chargeDie_memOk (chargeBytes_memOk h))
            · dsimp only
              split
              · exact askLines_memOk h
              · split
                · exact h
                · split
                  · exact failEk_memOk h
                  · exact State.modEk_memOk (chargeDie_memOk (chargeBytes_memOk h))
          · exact h
      · exact h

theorem execPkuQuery_memOk (h : State.memOk s) : Outcome.memOk (execPkuQuery die slot s) := by
  unfold execPkuQuery
  split
  · trivial
  · split
    · exact h
    · split
      · split
        · exact h
        · split
          · exact placeRows_memOk (fun _ ht => ht) h
          · split
            · exact h
            · split
              · exact haltEk_memOk (memOk_of_pair (ekSramRead_memOk h) ‹_›)
              · split
                · exact haltEk_memOk (memOk_of_pair (ekSramRead_memOk (memOk_of_pair (ekSramRead_memOk h) ‹_›)) ‹_›)
                · dsimp only
                  split
                  · exact failEk_memOk (memOk_of_pair (ekSramRead_memOk (memOk_of_pair (ekSramRead_memOk h) ‹_›)) ‹_›)
                  · exact State.modEk_memOk (memOk_of_pair (ekSramRead_memOk (memOk_of_pair (ekSramRead_memOk h) ‹_›)) ‹_›)
      · exact h

theorem applyRow_memOk {k : KeySet} {r : Nat} {w : Word} {dy : List Word} {p : Nat × Nat} {m : Option (Nat × Nat)}
    (h : State.memOk s) : State.memOk (applyRow k r w dy p m s).2 := by
  unfold applyRow
  split
  · exact h
  · split
    · exact ekWrite_memOk h
    · split
      · exact h
      · exact ekWrite_memOk (ekWrite_memOk h)

theorem execEnckeRowUpdate_memOk (h : State.memOk s) : Outcome.memOk (execEnckeRowUpdate die slot s) := by
  unfold execEnckeRowUpdate
  split
  · trivial
  · split
    · exact h
    · split
      · split
        · exact h
        · split
          · refine Outcome.ite_memOk ?_ ?_
            · split
              · exact askLines_memOk (askLines_memOk h)
              · exact askLines_memOk h
            · split
              · exact failEk_memOk (memOk_of_pair (applyRow_memOk h) ‹_›)
              · split
                · exact finishQuery_memOk (State.modCtx_memOk (chargeDie_memOk (chargeBytes_memOk (memOk_of_pair
                    (applyRow_memOk h) ‹_›))))
                · exact State.modEk_memOk (State.modCtx_memOk (chargeDie_memOk (chargeBytes_memOk (memOk_of_pair
                    (applyRow_memOk h) ‹_›))))
          · exact h
      · exact h

theorem execPkstatStatusWrite_memOk (h : State.memOk s) : Outcome.memOk (execPkstatStatusWrite die slot s) := by
  unfold execPkstatStatusWrite
  split
  · trivial
  · split
    · exact h
    · split
      · exact h
      · split
        · exact h
        · split
          · exact failEk_memOk h
          · split
            · exact h
            · exact State.modEk_memOk (writeSram_memOk _ _ (chargeBytes_memOk h))

theorem execEnckeComplete_memOk (h : State.memOk s) : Outcome.memOk (execEnckeComplete die slot s) := by
  unfold execEnckeComplete
  split
  · trivial
  · split
    · exact h
    · split
      · exact h
      · extract_lets s1 s2
        have q2 : State.memOk s2 := clearL1_memOk (ite_memOk (loadSet_memOk h) h)
        clear_value s2
        refine Outcome.ite_memOk h ?_
        split
        · exact ite_memOk (failEk_memOk q2) (dropEk_memOk (writeSram_memOk _ _ (chargeRoute_memOk q2)))
        · exact dropEk_memOk q2

theorem goEncke_memOk {abort : Bool} {act : EkCmd → State → State} (hf : ∀ u t, State.memOk t → State.memOk (act u t))
    (h : State.memOk s) : Outcome.memOk (goEncke die slot abort act s) := by
  unfold goEncke
  split
  · trivial
  · split
    · split
      · exact hf _ _ (State.modDie_memOk h)
      · exact State.modDie_memOk h
    · exact State.modDie_memOk h

theorem execEkresResume_memOk (h : State.memOk s) : Outcome.memOk (execEkresResume die slot s) :=
  goEncke_memOk (fun _ _ => State.modEk_memOk) h
theorem execEkresAbort_memOk (h : State.memOk s) : Outcome.memOk (execEkresAbort die slot s) :=
  goEncke_memOk (fun _ _ => failEk_memOk) h

theorem execEnckeQuiesce_memOk {team : Nat} (h : State.memOk s) : Outcome.memOk (execEnckeQuiesce die team s) := by
  unfold execEnckeQuiesce
  split
  · trivial
  · split
    · exact h
    · exact returnMark_memOk h

end

/-! ### Streams and requests from peers (Machine/Fabric) -/

section

variable {s : State} {core k tag route n station : Nat} {x : SendStream} {ns : List HubNeed} {r : StreamFullRec}

theorem State.setStream_memOk (h : State.memOk s) : State.memOk (State.setStream s core k x) := State.modCore_memOk h
theorem State.dropStream_memOk (h : State.memOk s) : State.memOk (State.dropStream s core k) := State.modCore_memOk h

theorem sendBuffer_memOk (h : State.memOk s) : State.memOk (sendBuffer core k x s).2 := by
  unfold sendBuffer
  split
  · exact h
  · exact State.send_memOk h

theorem putRecord_memOk {r : List Byte} {who : List (Nat × Nat)} (h : State.memOk s) :
    State.memOk (putRecord core k r who x s).2 := by
  unfold putRecord
  refine ite_snd_memOk ?_ ?_
  · refine sendBuffer_memOk ?_
    split
    · exact sendBuffer_memOk h
    · exact h
  · split
    · exact sendBuffer_memOk h
    · exact h

theorem closeStream_memOk (h : State.memOk s) : State.memOk (closeStream core k s) := by
  unfold closeStream
  split
  · exact h
  · split
    · split
      · exact State.setStream_memOk (sendBuffer_memOk (putRecord_memOk h))
      · exact State.dropStream_memOk (sendBuffer_memOk (putRecord_memOk h))
    · split
      · exact State.setStream_memOk (sendBuffer_memOk h)
      · exact State.dropStream_memOk (sendBuffer_memOk h)

theorem streamLane_memOk {ctx op : Nat} {a : Acc} (h : State.memOk s) : State.memOk (streamLane core ctx op s a) := by
  unfold streamLane
  refine State.setStream_memOk ?_
  split
  all_goals
    refine putRecord_memOk ?_
    split
    · split
      · exact h
      · exact closeStream_memOk h
    · exact h

theorem execStrStrm_memOk {o : OpMem WTy} (h : State.memOk s) : Outcome.memOk (execStrStrm o s) :=
  issueUnless_memOk (fun _ _ ht => foldl_memOk (fun _ _ => streamLane_memOk) (countIssue_memOk (newOp_memOk ht))) h

theorem execStreamAck_memOk {ok : Bool} {sid : Nat} (h : State.memOk s) : Outcome.memOk (execStreamAck ok sid tag s) := by
  unfold execStreamAck
  split
  all_goals
    dsimp only
    split
    · exact h
    · split
      · split
        · exact closeStream_memOk (State.setStream_memOk h)
        · exact State.setStream_memOk h
      · exact h

theorem execStreamBufferTimeout_memOk (h : State.memOk s) : Outcome.memOk (execStreamBufferTimeout core route s) := by
  unfold execStreamBufferTimeout
  split
  · trivial
  · split
    · exact h
    · split
      · exact h
      · exact State.setStream_memOk (sendBuffer_memOk h)

theorem execStreamIdleClose_memOk (h : State.memOk s) : Outcome.memOk (execStreamIdleClose core route s) := by
  unfold execStreamIdleClose
  split
  · trivial
  · split
    · exact h
    · split
      · exact closeStream_memOk h
      · exact h

theorem execStreamReopenTimeout_memOk (h : State.memOk s) : Outcome.memOk (execStreamReopenTimeout core route s) := by
  unfold execStreamReopenTimeout
  split
  · trivial
  · split
    · exact h
    · split
      · exact closeStream_memOk h
      · exact h

theorem askHub_memOk {write : Bool} (h : State.memOk s) : State.memOk (askHub write ns s).2.2 := by
  induction ns generalizing s with
  | nil => exact h
  | cons e ns ih => exact ih (askNeeds_memOk h)

theorem hubWrite_memOk {bs : List Byte} (h : State.memOk s) : State.memOk (hubWrite ns bs s) := by
  induction ns generalizing bs s with
  | nil => exact h
  | cons e ns ih => exact ih (writeMem_memOk h)

theorem peerEffect_memOk {op : PeerOp} (h : State.memOk s) : State.memOk (peerEffect op ns s).2 := by
  unfold peerEffect
  split
  · exact hubWrite_memOk h
  · exact h
  · dsimp only
    split
    · exact h
    · split
      · exact h
      · exact hubWrite_memOk h

theorem peerPerform_memOk {pctx va : Nat} {op : PeerOp} (h : State.memOk s) : State.memOk (peerPerform pctx va op s).2 := by
  unfold peerPerform
  split
  · exact h
  · split
    · exact h
    · split
      · exact memOk_of_triple (askHub_memOk h) ‹_›
      · exact memOk_of_triple (askHub_memOk h) ‹_›
      · exact peerEffect_memOk (memOk_of_triple (askHub_memOk h) ‹_›)

theorem State.modStation_memOk {f : Station → Station} (h : State.memOk s) : State.memOk (State.modStation s n f) := h
theorem moveStream_memOk {peer sid va : Nat} (h : State.memOk s) : State.memOk (moveStream station peer sid va s) :=
  State.modStation_memOk h

theorem serveRequest_memOk {r : PeerReq} (h : State.memOk s) : Try.memOk (serveRequest r s) := by
  unfold serveRequest
  split
  · exact memOk_of_pair (peerPerform_memOk h) ‹_›
  · exact State.send_memOk (memOk_of_pair (peerPerform_memOk h) ‹_›)

theorem recordDone_memOk {a : PeerAnswer} (h : State.memOk s) : State.memOk (recordDone station a s) := State.send_memOk h

theorem serveOpen_memOk (h : State.memOk s) : Try.memOk (serveOpen r s) := by
  unfold serveOpen
  split
  · exact memOk_of_pair (peerPerform_memOk h) ‹_›
  · have ht := memOk_of_pair (peerPerform_memOk h) ‹_›
    split
    · exact State.send_memOk (recordDone_memOk ht)
    · dsimp only
      split
      · exact State.send_memOk (recordDone_memOk ht)
      · exact State.send_memOk (State.modStation_memOk (recordDone_memOk ht))

theorem serveFull_memOk (h : State.memOk s) : Try.memOk (serveFull r s) := by
  unfold serveFull
  split
  · exact memOk_of_pair (peerPerform_memOk h) ‹_›
  · exact moveStream_memOk (recordDone_memOk (memOk_of_pair (peerPerform_memOk h) ‹_›))

theorem serveData_memOk {r : StreamDataRec} (h : State.memOk s) : Try.memOk (serveData r s) := by
  unfold serveData
  split
  · exact recordDone_memOk h
  · dsimp only
    split
    · exact memOk_of_pair (peerPerform_memOk h) ‹_›
    · exact State.modStation_memOk (recordDone_memOk (memOk_of_pair (peerPerform_memOk h) ‹_›))

theorem serveClose_memOk (h : State.memOk s) : State.memOk (serveClose station tag s) := State.modStation_memOk h

theorem serveArrival_memOk {a : Arrival} (h : State.memOk s) : Try.memOk (serveArrival n a s) := by
  unfold serveArrival
  split
  · exact serveRequest_memOk h
  · exact serveOpen_memOk h
  · exact serveFull_memOk h
  · exact serveData_memOk h
  · exact serveClose_memOk h

theorem arriveAt_memOk {a : Arrival} (h : State.memOk s) : State.memOk (arriveAt n a s) := by
  unfold arriveAt
  split
  · exact h
  · split
    · split
      · exact Try.of_done (serveArrival_memOk h) ‹_›
      · exact State.modStation_memOk (Try.of_busy (serveArrival_memOk h) ‹_›)
    · exact State.modStation_memOk h

theorem serveStation_memOk (h : State.memOk s) : State.memOk (serveStation n s) := by
  unfold serveStation
  split
  · exact h
  · split
    · exact State.modStation_memOk (Try.of_done (serveArrival_memOk h) ‹_›)
    · exact Try.of_busy (serveArrival_memOk h) ‹_›

theorem execPeerRequest_memOk {r : PeerReq} (h : State.memOk s) : Outcome.memOk (execPeerRequest r s) := by
  unfold execPeerRequest
  split
  · trivial
  · split
    · exact h
    · exact arriveAt_memOk h

theorem execStreamOpen_memOk (h : State.memOk s) : Outcome.memOk (execStreamOpen r s) := by
  unfold execStreamOpen
  split
  · trivial
  · exact arriveAt_memOk h

theorem execStreamFull_memOk (h : State.memOk s) : Outcome.memOk (execStreamFull r s) := by
  unfold execStreamFull
  split
  · trivial
  · exact arriveAt_memOk h

theorem execStreamData_memOk {r : StreamDataRec} (h : State.memOk s) : Outcome.memOk (execStreamData r s) := by
  unfold execStreamData
  split
  · trivial
  · exact arriveAt_memOk h

theorem execStreamClose_memOk (h : State.memOk s) : Outcome.memOk (execStreamClose station tag s) := by
  unfold execStreamClose
  split
  · trivial
  · exact arriveAt_memOk h

end

/-! ### Fragments (Machine/Frags) -/

section

variable {core entry : Nat} {s : State}

theorem goFrag_memOk {act : Nat} {ok : Frag → Bool} {f : Frag → State → State} (hf : ∀ u t, State.memOk t → State.memOk
    (f u t)) (h : State.memOk s) : Outcome.memOk (goFrag core entry act ok f s) := by
  unfold goFrag
  split
  · trivial
  · split
    · exact State.modCore_memOk h
    · split
      · exact State.modCore_memOk (hf _ _ h)
      · exact State.modCore_memOk h

theorem endFrag_memOk {f : Frag} (h : State.memOk s) : State.memOk (endFrag core entry f s) :=
  countDown_memOk (State.modCore_memOk h)
theorem execFragReady_memOk (h : State.memOk s) : Outcome.memOk (execFragReady core entry s) :=
  goFrag_memOk (fun _ _ => State.modCore_memOk) h

theorem retry_memOk {d : Due} (h : State.memOk s) : State.memOk (retry d s) := by
  unfold retry
  split <;> exact h

theorem execFragPoison_memOk (h : State.memOk s) : Outcome.memOk (execFragPoison core entry s) :=
  goFrag_memOk (fun _ _ ht => deliverAll_memOk (endFrag_memOk ht)) h
theorem execFragDiscard_memOk (h : State.memOk s) : Outcome.memOk (execFragDiscard core entry s) :=
  goFrag_memOk (fun _ _ => endFrag_memOk) h

theorem freeKept_memOk {key : Nat} (h : State.memOk s) : State.memOk (freeKept key s) := by
  unfold freeKept
  dsimp only
  split
  · exact h
  · exact State.modCore_memOk h

theorem execFragFullResume_memOk (h : State.memOk s) : Outcome.memOk (execFragFullResume core s) := by
  unfold execFragFullResume
  split
  · trivial
  · split
    · split
      · exact h
      · exact putFragment_memOk (State.modBand_memOk h)
    · exact h

end

/-! ### The choice of band and groups (Machine/Issue) -/

section

variable {core key band : Nat} {s : State} {pc : Pc} {ls : List Nat} {lanes upset : Dword} {b : Band}

theorem payIllegal_memOk (h : State.memOk s) : Opt.memOk State.memOk (payIllegal core s) := by
  unfold payIllegal
  split
  · exact chargeCore_memOk h
  · trivial

theorem fetchFails_memOk {va : Nat} {f : Fetch} (h : State.memOk s) : State.memOk (fetchFails key pc ls va f s) := by
  unfold fetchFails
  split
  · exact deliverAll_memOk h
  · exact deliverAll_memOk h
  · exact formFragment_memOk h
  · exact h

theorem setEntry_memOk {e : Entry} (h : State.memOk s) : State.memOk (setEntry key ls e s) := State.modBand_memOk h

theorem checkGroup_memOk {ctx : Nat} (h : State.memOk s) : State.memOk (checkGroup key ctx pc ls s) := by
  unfold checkGroup
  split
  · exact askClause_memOk h
  · exact fetchFails_memOk h
  · split
    · exact setEntry_memOk h
    · split
      · exact deliverAll_memOk (memOk_of_some (payIllegal_memOk h) ‹_›)
      · exact h

theorem releaseWait_memOk {ctx : Nat} (h : State.memOk s) : State.memOk (releaseWait key ctx pc ls s) := by
  unfold releaseWait
  split
  · exact h
  · split
    · exact askClause_memOk h
    · dsimp only
      split
      · exact foldl_memOk (fun _ _ => takeLatch_memOk) (setEntry_memOk h)
      · exact h
    · exact setEntry_memOk h

theorem execClauseWaitRelease_memOk (h : State.memOk s) : Outcome.memOk (execClauseWaitRelease band lanes s) := by
  unfold execClauseWaitRelease
  split
  · exact h
  · refine foldl_memOk (fun _ _ ht => ?_) h
    dsimp only
    split
    · exact releaseWait_memOk ht
    · exact ht

theorem enterBand_memOk (h : State.memOk s) : State.memOk (enterBand key s) := by
  unfold enterBand
  split
  · exact h
  · split
    · exact h
    · extract_lets s1
      have q1 : State.memOk s1 := foldl_memOk (fun _ _ ht => ite_memOk (checkGroup_memOk ht) ht) h
      clear_value s1
      split
      · exact q1
      · exact foldl_memOk (fun _ _ ht => ite_memOk (releaseWait_memOk ht) ht) q1

theorem applyPassing_memOk (h : State.memOk s) : State.memOk (applyPassing key b ls s) :=
  applyHeld_memOk (applyHeld_memOk h)

theorem takeDueTraps_memOk (h : State.memOk s) : State.memOk (takeDueTraps key lanes b s) := by
  unfold takeDueTraps
  refine foldl_memOk (fun _ _ ht => ?_) h
  split
  · dsimp only
    split
    · exact deliver_memOk ht
    · exact ht
  · dsimp only
    split <;> exact ht

theorem execSwitchPoint_memOk (h : State.memOk s) : Outcome.memOk (execSwitchPoint band lanes s) := by
  unfold execSwitchPoint
  split
  · exact h
  · refine freeKept_memOk ?_
    split
    · exact takeDueTraps_memOk h
    · exact State.modBand_memOk (applyPassing_memOk (takeDueTraps_memOk h))

theorem askHeld_memOk {i : Instr} {x : Ix} (h : State.memOk s) : State.memOk (askHeld i x s) := by
  unfold askHeld
  split
  · exact askTile_memOk h
  · exact askTile_memOk h
  · exact askFor_memOk h

theorem askGroup_memOk {g : Grid} (h : State.memOk s) : State.memOk (askGroup key b g pc ls s) := by
  unfold askGroup
  split
  · exact h
  · split
    · exact askHeld_memOk h
    · split
      · exact askClause_memOk h
      · exact askClause_memOk h
      · exact h

theorem askFrag_memOk {n : Nat} {f : Frag} (h : State.memOk s) : State.memOk (askFrag key n f s) := by
  unfold askFrag
  split
  · exact h
  · split
    · exact h
    · split
      · exact h
      · split
        · exact askHeld_memOk h
        · exact h

theorem fireTimer_memOk {c : Cand} (h : State.memOk s) : State.memOk (fireTimer key c s) :=
  State.modBand_memOk (deliverAll_memOk h)

theorem execTimerFire_memOk (h : State.memOk s) : Outcome.memOk (execTimerFire band s) := by
  unfold execTimerFire
  split
  · exact h
  · split
    · exact h
    · split
      · exact h
      · exact fireTimer_memOk h

theorem execLateSplit_memOk (h : State.memOk s) : Outcome.memOk (execLateSplit band lanes s) := by
  have q (m : Dword) (pc : Pc) : State.memOk (parkLanes band m pc none s) := parkLanes_memOk h
  unfold execLateSplit
  split
  · exact h
  · extract_lets ls
    split
    · rename_i x late _ _ _
      exact landingReady_memOk (enterFrag_memOk (q (maskOf late) x.pc))
    · exact h

theorem endFetchFrag_memOk {n : Nat} (h : State.memOk s) : State.memOk (endFetchFrag key n ls s) := by
  unfold endFetchFrag
  split
  · exact h
  · exact State.modBand_memOk (State.modCore_memOk h)

theorem noteDecoders_memOk {p q : Option Cand} (h : State.memOk s) : State.memOk (noteDecoders key p q s) :=
  State.modBand_memOk h

theorem startGroups_memOk {borrowed : Bool} {ready : Dword} {p q : Option Cand} (h : State.memOk s) :
    State.memOk (startGroups key upset borrowed b ready p q s) := by
  unfold startGroups
  extract_lets go a r prior
  have hgo (o : Option Cand) {t : State} (ht : State.memOk t) : State.memOk (go o t).2 := by
    cases o with
    | none => exact ht
    | some c => exact ite_snd_memOk (endFetchFrag_memOk ht) ht
  have hr : State.memOk r.2 := hgo q (hgo p (noteDecoders_memOk h))
  clear_value r
  split <;> exact hr

theorem execFragmentReplay_memOk {entry : Nat} (h : State.memOk s) : Outcome.memOk (execFragmentReplay core entry s) := by
  unfold execFragmentReplay
  split
  · trivial
  · split
    · exact h
    · split
      · exact h
      · split
        · exact h
        · split
          · exact h
          · split
            · exact h
            · split
              · exact startGroups_memOk (chargeCore_memOk h)
              · exact h

theorem askBand_memOk (h : State.memOk s) : State.memOk (askBand key s) := by
  unfold askBand
  split
  · exact h
  · split
    · exact h
    · refine foldl_memOk (fun _ _ ht => ?_) (foldl_memOk (fun _ _ => askGroup_memOk) h)
      split
      · exact askFrag_memOk ht
      · exact ht

theorem noteHolds_memOk (h : State.memOk s) : State.memOk (noteHolds s key) := by
  unfold noteHolds
  split
  · exact h
  · split
    · exact h
    · exact State.modBand_memOk h

theorem passBusy_memOk (h : State.memOk s) : State.memOk (passBusy key s) := State.modBand_memOk h

theorem startChoice_memOk {c : Choice} {borrow : Bool} (h : State.memOk s) :
    State.memOk (startChoice core upset c borrow s) := by
  unfold startChoice
  extract_lets s1 q s2 p s3
  have q1 : State.memOk s1 := ite_memOk (fireTimer_memOk h) (ite_memOk (chargeDie_memOk h) (chargeCore_memOk h))
  have q2 : State.memOk s2 := by
    clear_value s1 q
    cases q with
    | none => exact q1
    | some d => exact chargeCore_memOk q1
  exact startGroups_memOk (ite_memOk q2 (State.modBand_memOk q2))

theorem takeLevel_memOk {quarter : Nat} (h : State.memOk s) : State.memOk (takeLevel core quarter s) := by
  unfold takeLevel
  split
  · exact State.modCore_memOk h
  · exact h

theorem execBandSelect_memOk {quarter : Nat} (h : State.memOk s) : Outcome.memOk (execBandSelect core quarter upset s) := by
  unfold execBandSelect
  split
  · trivial
  · split
    · exact h
    · extract_lets ks held s1 free s2 cs due s3 sel s4
      have q1 : State.memOk s1 := foldl_memOk (fun _ _ => passBusy_memOk) (takeLevel_memOk h)
      have q2 : State.memOk s2 := foldl_memOk (fun _ _ ht => noteHolds_memOk (askBand_memOk (enterBand_memOk ht)))
        (foldl_memOk (fun _ _ => noteHolds_memOk) q1)
      have q4 : State.memOk s4 := foldl_memOk (fun _ _ => State.modBand_memOk) q2
      clear_value s4 sel
      split
      · exact q4
      · exact startChoice_memOk q4

end

/-! ### Firmware's work on pages (Machine/Pages) -/

section

variable {page unit n ctx : Nat} {s : State} {big : Bool} {m : Move}

theorem readCover_memOk (h : State.memOk s) : State.memOk (readCover page s) :=
  foldl_memOk (fun _ _ ht => senseDram_memOk _ _ (countUe_memOk _ _ (chargeLine_memOk _ ht))) h

theorem setEntryOf_memOk {e : Nat} (h : State.memOk s) : State.memOk (setEntryOf big page e s) := by
  unfold setEntryOf
  split
  · exact putEntry_memOk _ _ h
  · exact setLeaf_memOk _ _ h

theorem useFrames_memOk {frame : Nat} (h : State.memOk s) : State.memOk (useFrames unit frame big s) := State.modFw_memOk h
theorem dropFrames_memOk {frame : Nat} (h : State.memOk s) : State.memOk (dropFrames unit frame big s) :=
  State.modFw_memOk h
theorem flushPages_memOk {home : Nat} (h : State.memOk s) : State.memOk (flushPages home page n s) :=
  foldl_memOk (fun _ _ => openFlush_memOk) h
theorem beginMtinv_memOk {v : Dword} (h : State.memOk s) : State.memOk (beginMtinv v s) :=
  foldl_memOk (fun _ _ => State.modDie_memOk) (State.modHub_memOk h)

theorem execMtinvGo_memOk {value : Dword} (h : State.memOk s) : Outcome.memOk (execMtinvGo value s) := by
  unfold execMtinvGo
  split
  · exact State.modHub_memOk h
  · split
    · exact beginMtinv_memOk h
    · exact State.modHub_memOk h

theorem startMtinv_memOk (h : State.memOk s) : State.memOk (startMtinv page n s) := beginMtinv_memOk h
theorem dropCached_memOk {r : Nat × Nat} (h : State.memOk s) : State.memOk (dropCached r s) :=
  foldl_memOk (fun _ _ => State.modDie_memOk) h

theorem walkAgain_memOk {die : Nat} {r : HoldReq} (h : State.memOk s) : State.memOk (walkAgain die s r) := by
  unfold walkAgain
  dsimp only
  split
  · exact State.modDie_memOk h
  · split
    · exact h
    · exact State.modDie_memOk (beginWalk_memOk h)

theorem execMtinvComplete_memOk (h : State.memOk s) : Outcome.memOk (execMtinvComplete s) := by
  unfold execMtinvComplete
  split
  · exact h
  · extract_lets r s1
    have q : State.memOk s1 := foldl_memOk (fun _ _ => foldl_memOk fun _ _ => walkAgain_memOk) (dropCached_memOk h)
    clear_value s1
    split <;> exact q

theorem execFfaddWrite_memOk {value : Word} (h : State.memOk s) : Outcome.memOk (execFfaddWrite unit value s) := by
  unfold execFfaddWrite
  split
  · trivial
  · exact State.modUnit_memOk h

theorem execFqtailWrite_memOk {die : Nat} {value : Word} (h : State.memOk s) :
    Outcome.memOk (execFqtailWrite die value s) := by
  unfold execFqtailWrite
  split
  · trivial
  · exact State.modDie_memOk h

theorem agePage_memOk {p : Nat × PageRec} (h : State.memOk s) : State.memOk (agePage s p) := by
  unfold agePage
  dsimp only
  split
  · exact putEntry_memOk _ _ (readCover_memOk h)
  · exact readCover_memOk h

theorem execAccessBitScan_memOk (h : State.memOk s) : Outcome.memOk (execAccessBitScan s) := by
  unfold execAccessBitScan
  split
  · exact h
  · exact beginMtinv_memOk (foldl_memOk (fun _ _ => agePage_memOk) h)

theorem Move.copy_memOk (h : State.memOk s) : State.memOk (Move.copy m s) := by
  unfold Move.copy
  split
  · exact copyPage_memOk _ _ _ _ _ h
  · split
    · exact copyPage_memOk _ _ _ _ _ h
    · exact h
  · exact h

theorem Move.note_memOk (h : State.memOk s) : State.memOk (Move.note m n s) := by
  unfold Move.note
  split
  · exact h
  · exact journal_memOk h

theorem setMove_memOk (h : State.memOk s) : State.memOk (setMove m s) := State.modFw_memOk h
theorem dropMove_memOk (h : State.memOk s) : State.memOk (dropMove m s) := State.modFw_memOk h
theorem setBacking_memOk {b : Option (Nat × Nat)} (h : State.memOk s) : State.memOk (setBacking page b s) :=
  State.modFw_memOk h

theorem dropBacking_memOk (h : State.memOk s) : State.memOk (dropBacking page big s) := by
  unfold dropBacking
  split
  · exact setBacking_memOk (dropFrames_memOk h)
  · exact h

theorem Move.leave_memOk (h : State.memOk s) : State.memOk (Move.leave m s) := by
  unfold Move.leave
  split
  · dsimp only
    split
    · exact setBacking_memOk (dropBacking_memOk h)
    · exact dropFrames_memOk (dropBacking_memOk h)
  · exact dropFrames_memOk h
  · exact setBacking_memOk (dropFrames_memOk h)
  · exact State.modFw_memOk (dropFrames_memOk (dropBacking_memOk h))

theorem Move.undo_memOk (h : State.memOk s) : State.memOk (Move.undo m s) := by
  unfold Move.undo
  split
  · exact dropMove_memOk (dropFrames_memOk h)
  · exact dropMove_memOk h

theorem Move.next_memOk (h : State.memOk s) : State.memOk (Move.next m s) := by
  unfold Move.next
  split
  · dsimp only
    split
    · exact Move.undo_memOk (readCover_memOk h)
    · exact setMove_memOk (setPageEntry_memOk _ _ (Move.note_memOk (readCover_memOk h)))
  · split
    · exact setMove_memOk (startMtinv_memOk (Move.note_memOk h))
    · exact h
  · dsimp only
    split
    · exact setMove_memOk (Move.note_memOk h)
    · exact h
  · exact setMove_memOk (flushPages_memOk (Move.note_memOk h))
  · dsimp only
    split
    · exact setMove_memOk (Move.copy_memOk (Move.note_memOk h))
    · exact h
  · exact setMove_memOk (setPageEntry_memOk _ _ (Move.note_memOk h))
  · split
    · exact setMove_memOk (startMtinv_memOk (Move.note_memOk h))
    · exact h
  · split
    · exact Move.leave_memOk (dropMove_memOk h)
    · exact h

theorem addMove_memOk (h : State.memOk s) : State.memOk (addMove m s) := State.modFw_memOk h

theorem execPageMove_memOk (h : State.memOk s) : Outcome.memOk (execPageMove page unit s) := by
  unfold execPageMove
  split
  · trivial
  · split
    · exact Move.next_memOk h
    · dsimp only
      split
      · exact h
      · split
        · exact h
        · exact addMove_memOk (useFrames_memOk (State.draw_memOk h))

theorem evictPage_memOk {v : Victim} (h : State.memOk s) : Opt.memOk State.memOk (evictPage v s) := by
  unfold evictPage
  split
  · exact addMove_memOk h
  · exact addMove_memOk h
  · exact Opt.map_memOk (fun _ => addMove_memOk (useFrames_memOk h))

theorem readTable_memOk (h : State.memOk s) : State.memOk (readTable s) := foldl_memOk (fun _ _ => readCover_memOk) h

theorem obtainFrame_memOk {near far : List Nat} (h : State.memOk s) : Got.memOk (obtainFrame near far big s) := by
  unfold obtainFrame
  split
  · exact useFrames_memOk h
  · split
    · exact h
    · split
      · trivial
      · exact memOk_of_some (Opt.bind_memOk (fun _ => evictPage_memOk (readTable_memOk h))) ‹_›

theorem writeLines_memOk {va : Nat} {bs : List Byte} (h : State.memOk s) : Try.memOk (writeLines ctx n va bs s) := by
  induction n generalizing va bs s with
  | zero => exact h
  | succ n ih =>
    rw [writeLines]
    split
    · exact h
    · split
      · exact ih h
      · dsimp only
        split
        · exact memOk_of_pair (writeMem_memOk h) ‹_›
        · exact ih (memOk_of_pair (writeMem_memOk h) ‹_›)

theorem writeView_memOk (h : State.memOk s) : Try.memOk (writeView ctx s) := by
  unfold writeView
  split
  · exact h
  · split
    · exact writeLines_memOk h
    · exact h

theorem execViewWrite_memOk {reply : Option Reply} (h : State.memOk s) : Outcome.memOk (execViewWrite ctx reply s) := by
  unfold execViewWrite
  split
  · have ht := Try.of_busy (writeView_memOk h) ‹_›
    exact ht
  · split
    · exact answer_memOk (Try.of_done (writeView_memOk h) ‹_›)
    · have ht := Try.of_done (writeView_memOk h) ‹_›
      exact ht

theorem followView_memOk {reply : Option Reply} (h : State.memOk s) : State.memOk (followView ctx reply s) := by
  unfold followView
  split <;> exact h

end

/-! ### Fault records served, regeneration (Machine/Service) -/

section

variable {ctx uid page : Nat} {s : State} {g : Regen}

theorem answerAllWaits_memOk {status : Nat} (h : State.memOk s) : State.memOk (answerAllWaits ctx status s) :=
  foldl_memOk (fun _ _ => answerWaits_memOk) h

theorem quitRegen_memOk (h : State.memOk s) : State.memOk (quitRegen g s) := by
  unfold quitRegen
  split
  · exact h
  · split
    · exact State.modFw_memOk (setPageEntry_memOk _ _ h)
    · split <;> exact State.modFw_memOk h

theorem stopCtx_memOk (h : State.memOk s) : State.memOk (stopCtx ctx s) := by
  unfold stopCtx
  split
  · exact h
  · exact foldl_memOk (fun _ _ => quitRegen_memOk) (answerAllWaits_memOk (State.modCtx_memOk (journal_memOk h)))

theorem took_memOk {r : Host.Outcome State Fault Refusal} (h : State.memOk s) (hf : Outcome.memOk r) :
    State.memOk (took s r) := by
  unfold took
  split
  · exact hf
  · exact h

theorem endRecord_memOk (h : State.memOk s) : State.memOk (endRecord uid s) := by
  unfold endRecord
  split
  · exact took_memOk h (execFragPoison_memOk h)
  · exact took_memOk h (execCeresAbort_memOk h)
  · exact took_memOk h (execEkresAbort_memOk h)
  · split
    · exact State.modFw_memOk h
    · exact h

theorem readyRecord_memOk (h : State.memOk s) : State.memOk (readyRecord uid s) := by
  unfold readyRecord
  split
  · exact h
  · split
    · split
      · exact took_memOk h (execFragReady_memOk h)
      · exact h
    · exact took_memOk h (execCeresResume_memOk h)
    · exact took_memOk h (execEkresResume_memOk h)
    · exact h

theorem settleRecord_memOk (h : State.memOk s) : State.memOk (settleRecord uid s) := by
  unfold settleRecord
  split
  · exact endRecord_memOk (State.modFw_memOk h)
  · exact readyRecord_memOk h

theorem bringBack_memOk {core e : Nat} (h : State.memOk s) : Served.memOk (bringBack page core ctx e s) := by
  unfold bringBack
  dsimp only
  split
  · exact addMove_memOk (Got.of_frame (obtainFrame_memOk h) ‹_›)
  · exact Got.of_busy (obtainFrame_memOk h) ‹_›
  · exact stopCtx_memOk h

theorem refillQueue_memOk {unit n : Nat} (h : State.memOk s) : Try.memOk (refillQueue unit n s) := by
  induction n generalizing s with
  | zero => exact h
  | succ n ih =>
    rw [refillQueue]
    split
    · exact h
    · split
      · exact ih (took_memOk (Got.of_frame (obtainFrame_memOk h) ‹_›) (execFfaddWrite_memOk (Got.of_frame
          (obtainFrame_memOk h) ‹_›)))
      · have ht := Got.of_busy (obtainFrame_memOk h) ‹_›
        split <;> exact ht
      · exact h

theorem setRange_memOk {k base lim cb ctl : Nat} (h : State.memOk s) : State.memOk (setRange ctx k base lim cb ctl s) :=
  State.modCtx_memOk h

theorem giveStaging_memOk (h : State.memOk s) : Opt.memOk State.memOk (giveStaging ctx s) := by
  unfold giveStaging
  split
  · dsimp only
    split
    · exact h
    · trivial
  · dsimp only
    split
    · exact h
    · split
      · exact followView_memOk (setRange_memOk (State.modCtx_memOk h))
      · trivial

theorem startRegen_memOk {rec_ : Nat × FaultRec} (h : State.memOk s) : Served.memOk (startRegen page rec_ s) := by
  unfold startRegen
  dsimp only
  split
  · exact endRecord_memOk h
  · split
    · exact endRecord_memOk h
    · split
      · trivial
      · split
        · trivial
        · exact State.modFw_memOk (setPageEntry_memOk _ _ (memOk_of_some (giveStaging_memOk h) ‹_›))

theorem joinRegen_memOk {die : Nat} {r : FaultRec} (h : State.memOk s) : State.memOk (joinRegen page die r s) :=
  State.modFw_memOk h

theorem serveRecord_memOk {die : Nat} {r : FaultRec} (h : State.memOk s) : Served.memOk (serveRecord die r s) := by
  unfold serveRecord
  extract_lets t c page e done
  have q : State.memOk t := readCover_memOk h
  have hdone {u : State} (hu : State.memOk u) : Served.memOk (done u) := readyRecord_memOk hu
  clear_value t c page e done
  split
  · exact endRecord_memOk q
  · split
    · exact q
    · split
      · exact hdone q
      · split
        · split
          · exact joinRegen_memOk q
          · exact q
        · split
          · split
            · split
              · exact endRecord_memOk q
              · exact bringBack_memOk q
            · exact hdone q
          · exact hdone q
          · split
            · exact startRegen_memOk q
            · exact hdone q
          · have k := refillQueue_memOk (unit := entryUnit r.entry) (n := 64) q
            split
            · exact Try.of_busy k ‹_›
            · split
              · exact stopCtx_memOk (Try.of_done k ‹_›)
              · exact hdone (Try.of_done k ‹_›)
          · exact endRecord_memOk q

theorem serveParked_memOk {ps : List (Nat × FaultRec)} {w : Bool} (h : State.memOk s) :
    State.memOk (serveParked ps w s).2.2 := by
  induction ps generalizing w s with
  | nil => exact h
  | cons e ps ih =>
    rw [serveParked]
    split
    · exact Served.of_done (serveRecord_memOk (State.modFw_memOk h)) ‹_›
    · exact ih (State.modFw_memOk (Served.of_work (serveRecord_memOk (State.modFw_memOk h)) ‹_›))
    · exact ih h

theorem takeRecord_memOk {d : Nat} (h : State.memOk s) : State.memOk (takeRecord d s) :=
  State.modHub_memOk (State.modDie_memOk h)

theorem execFaultRecordServe_memOk (h : State.memOk s) : Outcome.memOk (execFaultRecordServe s) := by
  unfold execFaultRecordServe
  split
  · exact h
  · split
    · exact settleRecord_memOk h
    · split
      · exact memOk_of_triple (serveParked_memOk h) ‹_›
      · exact memOk_of_triple (serveParked_memOk h) ‹_›
      · have ht := memOk_of_triple (serveParked_memOk h) ‹_›
        split
        · exact ht
        · split
          · exact ht
          · dsimp only
            split
            · exact Served.of_done (serveRecord_memOk (takeRecord_memOk (journal_memOk ht))) ‹_›
            · exact State.modFw_memOk (Served.of_work (serveRecord_memOk (takeRecord_memOk (journal_memOk ht))) ‹_›)
            · exact State.modFw_memOk (takeRecord_memOk (journal_memOk ht))

theorem setRegen_memOk (h : State.memOk s) : State.memOk (setRegen g s) := State.modFw_memOk h

theorem frameRegen_memOk (h : State.memOk s) : State.memOk (frameRegen g s) := by
  unfold frameRegen
  dsimp only
  split
  · exact setRegen_memOk (setEntryOf_memOk (zeroPage_memOk _ _ _ (Got.of_frame (obtainFrame_memOk h) ‹_›)))
  · exact Got.of_busy (obtainFrame_memOk h) ‹_›
  · exact setRegen_memOk (setPageEntry_memOk _ _ (foldl_memOk (fun _ _ => stopCtx_memOk) h))

theorem launchRegen_memOk (h : State.memOk s) : State.memOk (launchRegen g s) := by
  unfold launchRegen
  split
  · exact setRegen_memOk h
  · split
    · exact h
    · extract_lets n launch
      have hl {t : State} (ht : State.memOk t) : Try.memOk (launch t) := by
        with_reducible exact launchGrid_memOk ht
      clear_value launch
      split
      · exact Try.of_busy (hl h) ‹_›
      · have q {u : State} (hu : State.memOk u) : State.memOk (Try.state (launch u)) := Try.state_memOk (hl hu)
        split <;> exact setRegen_memOk (q (journal_memOk h))

theorem endRegen_memOk (h : State.memOk s) : State.memOk (endRegen g s) := by
  unfold endRegen
  split
  · exact foldl_memOk (fun _ _ => readyRecord_memOk) (State.modFw_memOk (State.modFw_memOk h))
  · refine foldl_memOk (fun _ _ => endRecord_memOk) ?_
    split
    · exact dropFrames_memOk (State.modFw_memOk h)
    · exact State.modFw_memOk h

theorem execRegenComplete_memOk (h : State.memOk s) : Outcome.memOk (execRegenComplete page s) := by
  unfold execRegenComplete
  split
  · exact h
  · split
    · exact frameRegen_memOk h
    · exact launchRegen_memOk h
    · dsimp only
      split
      · exact setRegen_memOk h
      · exact h
    · exact setRegen_memOk (flushPages_memOk h)
    · split
      all_goals
        dsimp only
        split
        · exact setRegen_memOk (startMtinv_memOk (setPageEntry_memOk _ _ (setEntryOf_memOk h)))
        · exact h
    · split
      · exact setRegen_memOk (startMtinv_memOk h)
      · exact h
    · split
      · exact endRegen_memOk h
      · exact h

end

/-! ### Placement of teams (Machine/Place) -/

section

variable {core : Nat} {s : State}

theorem dropWindow_memOk {base n : Nat} (h : State.memOk s) : State.memOk (dropWindow core base n s) :=
  State.modCore_memOk h
theorem dropWindows_memOk {t : Team} {g : Grid} (h : State.memOk s) : State.memOk (dropWindows t g s) :=
  foldl_memOk (fun _ _ => dropWindow_memOk) h

theorem seatBand_memOk {q : Nat} {b : Band} (h : State.memOk s) : State.memOk (seatBand core q b s) := by
  unfold seatBand
  split <;> exact h

theorem seatTeam_memOk {gk : Nat} {g : Grid} {num : Nat} {where_ : List (Nat × Nat)} (h : State.memOk s) :
    State.memOk (seatTeam gk g num core where_ s) := by
  unfold seatTeam
  refine State.modGrid_memOk (foldl_memOk (fun _ _ ht => ?_) (foldl_memOk (fun _ _ => takeWindow_memOk _ _ _ _ _) h))
  split
  · exact ht
  · exact seatBand_memOk ht

end

/-! ### Teams saved and restored (Machine/Save) -/

section

variable {team core sv : Nat} {s : State} {t : Team} {g : Grid} {v : Saved} {m : List (Nat × Nat)}

theorem stopIdle_memOk (h : State.memOk s) : State.memOk (stopIdle team s) := by
  unfold stopIdle
  refine foldl_memOk (fun _ _ ht => ?_) h
  split
  · exact State.modBand_memOk ht
  · exact ht

theorem requestSave_memOk {dest : Option Nat} (h : State.memOk s) : State.memOk (requestSave team dest s) := by
  unfold requestSave
  split
  · exact h
  · split
    · exact h
    · exact stopIdle_memOk (State.modTeam_memOk h)

theorem haltBand_memOk {key : Nat} {b : Band} (h : State.memOk s) : State.memOk (haltBand key b s) :=
  freeKept_memOk (State.modBand_memOk (applyHeld_memOk h))

theorem execPreemptBudgetExpiry_memOk (h : State.memOk s) : Outcome.memOk (execPreemptBudgetExpiry team s) := by
  unfold execPreemptBudgetExpiry
  split
  · exact h
  · split
    · split
      · exact h
      · refine foldl_memOk (fun _ _ ht => ?_) h
        split
        · exact haltBand_memOk ht
        · exact ht
    · exact h

theorem senseWindow_memOk {rs : List (Nat × Nat)} (h : State.memOk s) : State.memOk (senseWindow core t g rs s) := by
  unfold senseWindow
  refine foldl_memOk (fun _ _ ht => ?_) h
  split
  · exact ht
  · exact senseSram_memOk _ _ ht

theorem writeRuns_memOk {rs : List (Nat × Nat)} {bs : List Byte} (h : State.memOk s) : State.memOk (writeRuns rs bs s) := by
  induction rs generalizing bs s with
  | nil => exact h
  | cons e rs ih => exact ih (writeSram_memOk _ _ h)

theorem writePieces_memOk {die : Nat} {ps : List Piece} {n : Nat} (h : State.memOk s) :
    State.memOk (writePieces die ps n s).2.2 := by
  induction ps generalizing n s with
  | nil => exact h
  | cons e ps ih =>
    rw [writePieces]
    split
    · exact memOk_of_pair (writeMem_memOk h) ‹_›
    · exact ih (memOk_of_pair (writeMem_memOk h) ‹_›)

theorem readPieces_memOk {die base : Nat} {ps : List Piece} {n : Nat} {m : Table Byte} (h : State.memOk s) :
    State.memOk (readPieces die base ps n m s).2.2.2 := by
  induction ps generalizing n m s with
  | nil => exact h
  | cons e ps ih =>
    rw [readPieces]
    split
    · exact memOk_of_pair (readMem_memOk h) ‹_›
    · exact ih (memOk_of_pair (readMem_memOk h) ‹_›)
    · exact ih (memOk_of_pair (readMem_memOk h) ‹_›)

theorem readSaved_memOk (h : State.memOk s) : State.memOk (readSaved sv v g core s).2 := by
  unfold readSaved
  split
  · have ht := memOk_of_quad (readPieces_memOk h) ‹_›
    exact ht
  · exact memOk_of_quad (readPieces_memOk h) ‹_›

theorem removeTeam_memOk (h : State.memOk s) : State.memOk (removeTeam team t g s) := by
  unfold removeTeam
  refine refreshPlan_memOk (foldl_memOk (fun _ _ => freeMonitor_memOk) (dropWindows_memOk ?_))
  split
  · exact State.modCtx_memOk (State.modDie_memOk (foldl_memOk (fun _ _ => State.modCore_memOk) h))
  · exact State.modDie_memOk (foldl_memOk (fun _ _ => State.modCore_memOk) h)

theorem requeueSaved_memOk {gk : Nat} (h : State.memOk s) : State.memOk (requeueSaved gk sv s) := by
  unfold requeueSaved
  split
  · exact h
  · exact kickQueue_memOk (State.modGrid_memOk h)

theorem seatSaved_memOk {bs : List SavedBand} {ps : List (Nat × Nat)} (h : State.memOk s) :
    State.memOk (seatSaved bs ps m s).2 := by
  induction bs generalizing ps m s with
  | nil => exact h
  | cons b bs ih =>
    cases ps with
    | nil => exact h
    | cons p ps =>
      rw [seatSaved]
      split
      · exact ih h
      · exact h

theorem restoreCopy_memOk {e : Nat × CopyCmd} (h : State.memOk s) : State.memOk (restoreCopy core v t g m s e) := by
  unfold restoreCopy
  split
  · dsimp only
    split
    · exact h
    · exact postNotice_memOk (State.modCore_memOk h)
  · dsimp only
    split
    · exact h
    · exact State.modCore_memOk h

theorem restoreEk_memOk {e : Nat × EkCmd} (h : State.memOk s) : State.memOk (restoreEk core v t g m s e) := by
  unfold restoreEk
  split
  · dsimp only
    split
    · exact h
    · exact postNotice_memOk (State.modCore_memOk (State.modDie_memOk h))
  · dsimp only
    split
    · exact h
    · exact State.modCore_memOk (State.modDie_memOk h)

theorem restoreFrag_memOk {e : Nat × Nat × Frag} (h : State.memOk s) : State.memOk (restoreFrag core v t g m s e) := by
  unfold restoreFrag
  dsimp only
  split
  · exact h
  · split
    · exact postNotice_memOk (enterFrag_memOk h)
    · exact enterFrag_memOk h

theorem rearmLane_memOk {key l : Nat} {w : Waita} (h : State.memOk s) : State.memOk (rearmLane t g key l s w) :=
  ite_memOk (releaseWaita_memOk (State.modBand_memOk (armMonitor_memOk h))) (State.modBand_memOk (armMonitor_memOk h))
theorem restoreTeam_memOk {where_ : List (Nat × Nat)} (h : State.memOk s) :
    State.memOk (restoreTeam sv v g core where_ s) :=
  refreshPlan_memOk (State.modGrid_memOk (State.modCtx_memOk (foldl_memOk (fun _ _ ht => foldl_memOk
    (fun _ _ ht => foldl_memOk (fun _ _ ht => rearmLane_memOk ht) ht) ht) (foldl_memOk
    (fun _ _ ht => State.modCore_memOk ht) (foldl_memOk (fun _ _ ht => restoreFrag_memOk ht) (foldl_memOk
    (fun _ _ => restoreEk_memOk) (foldl_memOk (fun _ _ => restoreCopy_memOk) (foldl_memOk (fun _ _ => State.modMx_memOk)
    (foldl_memOk (fun _ _ => State.modAccum_memOk) (seatSaved_memOk (foldl_memOk (fun _ _ => writeRuns_memOk) (foldl_memOk
    (fun _ _ => takeWindow_memOk _ _ _ _ _) h))))))))))))

theorem restoreAt_memOk {where_ : List (Nat × Nat)} (h : State.memOk s) : State.memOk (restoreAt sv v g core where_ s) := by
  unfold restoreAt
  split
  · exact restoreTeam_memOk (memOk_of_pair (readSaved_memOk h) ‹_›)
  · exact memOk_of_pair (readSaved_memOk h) ‹_›

theorem execTeamRestore_memOk {saved : Nat} (h : State.memOk s) : Outcome.memOk (execTeamRestore saved core s) := by
  unfold execTeamRestore
  split
  · trivial
  · split
    · exact h
    · split
      · exact h
      · split
        · exact h
        · split
          · exact restoreAt_memOk h
          · exact h

theorem leaveFabric_memOk {ctx : Nat} (h : State.memOk s) : State.memOk (leaveFabric ctx s) := by
  unfold leaveFabric
  refine foldl_memOk (fun _ _ ht => ?_) h
  dsimp only
  split
  · exact State.modCore_memOk (foldl_memOk (fun _ _ => closeStream_memOk) ht)
  · exact foldl_memOk (fun _ _ => closeStream_memOk) ht

theorem leaveIfGone_memOk {ctx : Nat} (h : State.memOk s) : State.memOk (leaveIfGone ctx s) := by
  unfold leaveIfGone
  split
  · exact leaveFabric_memOk h
  · exact h

theorem moveOut_memOk {slot : Nat} (h : State.memOk s) : State.memOk (moveOut team slot t g v s) := by
  unfold moveOut
  split
  · exact requeueSaved_memOk (State.modCtx_memOk (removeTeam_memOk h))
  · exact leaveIfGone_memOk (requeueSaved_memOk (State.modCtx_memOk (removeTeam_memOk h)))

theorem saveTeam_memOk {r : SaveReq} (h : State.memOk s) : State.memOk (saveTeam team t r s) := by
  unfold saveTeam
  split
  · exact h
  · split
    · dsimp only
      split
      · exact h
      · split
        · exact State.modTeam_memOk (memOk_of_triple (writePieces_memOk (State.modCtx_memOk h)) ‹_›)
        · exact moveOut_memOk (memOk_of_triple (writePieces_memOk (State.modCtx_memOk h)) ‹_›)
    · dsimp only
      split
      · exact h
      · split
        · exact State.modTeam_memOk (memOk_of_triple (writePieces_memOk (State.modCtx_memOk (senseWindow_memOk h))) ‹_›)
        · exact moveOut_memOk (memOk_of_triple (writePieces_memOk (State.modCtx_memOk (senseWindow_memOk h))) ‹_›)

theorem execTeamSave_memOk (h : State.memOk s) : Outcome.memOk (execTeamSave team s) := by
  unfold execTeamSave
  split
  · exact h
  · split
    · exact h
    · split
      · dsimp only
        split
        · exact stopIdle_memOk h
        · exact State.modTeam_memOk (stopIdle_memOk h)
      · dsimp only
        split
        · exact stopIdle_memOk h
        · split
          · exact saveTeam_memOk (stopIdle_memOk h)
          · exact stopIdle_memOk h
      · dsimp only
        split <;> exact stopIdle_memOk h

end

/-! ### The dispatcher and grids' ends (Machine/Teams) -/

section

variable {team gk n q : Nat} {s : State} {t : Team} {g : Grid}

theorem freeTokens_memOk {core : Nat} (h : State.memOk s) : State.memOk (freeTokens team core s) := by
  unfold freeTokens
  refine foldl_memOk (fun _ _ ht => ?_) h
  split
  · split
    · exact ht
    · exact freeAcc_memOk ht
  · exact freeAcc_memOk ht

theorem countEnded_memOk (h : State.memOk s) : State.memOk (countEnded gk s) := by
  unfold countEnded
  split
  · exact h
  · exact kickQueue_memOk (State.modGrid_memOk h)

theorem endTeam_memOk (h : State.memOk s) : State.memOk (endTeam team t g s) :=
  countEnded_memOk (dropWindows_memOk (foldl_memOk (fun _ _ => freeTokens_memOk) h))

theorem endBand_memOk {key : Nat} {b : Band} (h : State.memOk s) : State.memOk (endBand key b s) := by
  unfold endBand
  dsimp only
  split
  · exact refreshPlan_memOk (State.modTeam_memOk (freeKept_memOk h))
  · split
    · exact refreshPlan_memOk (State.modTeam_memOk (freeKept_memOk h))
    · split
      · exact endTeam_memOk (refreshPlan_memOk (State.modTeam_memOk (freeKept_memOk h)))
      · exact refreshPlan_memOk (State.modTeam_memOk (freeKept_memOk h))

theorem abortParked_memOk (h : State.memOk s) : Opt.memOk State.memOk (abortParked team t s) := by
  unfold abortParked
  dsimp only
  split
  · exact took_memOk h (execCeresAbort_memOk h)
  · exact Opt.map_memOk (fun _ => took_memOk h (execEkresAbort_memOk h))

theorem endHalted_memOk (h : State.memOk s) : State.memOk (endHalted team t g s) := by
  unfold endHalted
  dsimp only
  split
  · exact memOk_of_some (abortParked_memOk (State.modTeam_memOk h)) ‹_›
  · split
    · exact State.modTeam_memOk h
    · exact countEnded_memOk (State.modGrid_memOk (removeTeam_memOk (State.modTeam_memOk h)))

theorem execBandEnd_memOk {band : Nat} (h : State.memOk s) : Outcome.memOk (execBandEnd band s) := by
  unfold execBandEnd
  split
  · exact h
  · split
    · exact endHalted_memOk h
    · split
      · exact endBand_memOk h
      · exact h

theorem dropTasks_memOk (h : State.memOk s) : State.memOk (dropTasks g s).2 := by
  unfold dropTasks
  refine foldl_memOk (fun _ _ ht => ?_) h
  split
  · exact setDeque_memOk ht
  · exact ht

theorem kickDependents_memOk (h : State.memOk s) : State.memOk (kickDependents g s) := by
  unfold kickDependents
  refine foldl_memOk (fun _ _ ht => ?_) h
  split
  · exact kickQueue_memOk (State.modGrid_memOk ht)
  · exact ht

theorem completeGrid_memOk {k : Nat} (h : State.memOk s) : State.memOk (completeGrid k g s) := by
  unfold completeGrid
  dsimp only
  split
  · exact Try.of_busy (writeStat_memOk h) ‹_›
  · exact kickDependents_memOk (State.modHub_memOk (answerWaits_memOk (noteCompletion_memOk (journal_memOk (dropTasks_memOk
      (Try.of_done (writeStat_memOk h) ‹_›))))))

theorem execGridComplete_memOk {grid : Nat} (h : State.memOk s) : Outcome.memOk (execGridComplete grid s) := by
  unfold execGridComplete
  split
  · exact h
  · split
    · exact h
    · split
      · split
        · exact h
        · exact State.modGrid_memOk (State.modHub_memOk h)
      · split
        · split
          · exact completeGrid_memOk h
          · exact h
        · exact completeGrid_memOk h

theorem bitsSet_memOk {ctx base i : Nat} (h : State.memOk s) : State.memOk (bitsSet ctx base n i s).2 := by
  induction n generalizing i s with
  | zero => exact h
  | succ n ih =>
    rw [bitsSet]
    split
    · have ht := memOk_of_pair (readSpan_memOk h) ‹_›
      split
      · exact ih ht
      · exact ht
    · exact memOk_of_pair (readSpan_memOk h) ‹_›
    · exact memOk_of_pair (readSpan_memOk h) ‹_›

theorem teamReady_memOk (h : State.memOk s) : State.memOk (teamReady g n s).2 := by
  unfold teamReady
  split
  · exact bitsSet_memOk h
  · exact h

theorem firstReady_memOk {i : Nat} (h : State.memOk s) : State.memOk (firstReady g n i s).2 := by
  induction n generalizing i s with
  | zero => exact h
  | succ n ih =>
    rw [firstReady]
    split
    · exact ih h
    · split
      · exact memOk_of_pair (teamReady_memOk h) ‹_›
      · exact ih (memOk_of_pair (teamReady_memOk h) ‹_›)
      · exact memOk_of_pair (teamReady_memOk h) ‹_›

theorem nextTeam_memOk (h : State.memOk s) : State.memOk (nextTeam g s).2 := by
  unfold nextTeam
  split <;> exact memOk_of_pair (firstReady_memOk h) ‹_›

theorem leaveQueue_memOk (h : State.memOk s) : State.memOk (leaveQueue gk s) := by
  unfold leaveQueue
  split
  · exact h
  · split
    · exact h
    · exact State.modHub_memOk h

theorem placeAt_memOk {u : Unplaced} {core : Nat} (h : State.memOk s) : State.memOk (placeAt gk g u core s) := by
  unfold placeAt
  split
  · exact leaveQueue_memOk (State.modGrid_memOk (seatTeam_memOk h))
  · split
    · exact restoreAt_memOk h
    · exact h
  · exact h

theorem lookQueue_memOk (h : State.memOk s) : State.memOk (lookQueue q s).2 := by
  unfold lookQueue
  split
  · exact h
  · exact h
  · split <;> exact memOk_of_pair (nextTeam_memOk h) ‹_›

theorem placeLower_memOk {qs : List Nat} (h : State.memOk s) : State.memOk (placeLower qs s) := by
  induction qs generalizing s with
  | nil => exact h
  | cons e qs ih =>
    rw [placeLower]
    split
    · exact placeAt_memOk (memOk_of_pair (lookQueue_memOk h) ‹_›)
    · exact ih (memOk_of_pair (lookQueue_memOk h) ‹_›)

theorem preemptFor_memOk {u : Unplaced} (h : State.memOk s) : State.memOk (preemptFor q g u s) :=
  foldl_memOk (fun _ _ => requestSave_memOk) h
theorem clearKick_memOk (h : State.memOk s) : State.memOk (clearKick q s) := State.modHub_memOk h

theorem execTeamPlace_memOk (h : State.memOk s) : Outcome.memOk (execTeamPlace s) := by
  unfold execTeamPlace
  split
  · exact h
  · split
    · exact clearKick_memOk (memOk_of_pair (lookQueue_memOk h) ‹_›)
    · exact memOk_of_pair (lookQueue_memOk h) ‹_›
    · exact placeAt_memOk (memOk_of_pair (lookQueue_memOk h) ‹_›)
    · exact placeLower_memOk (preemptFor_memOk (clearKick_memOk (memOk_of_pair (lookQueue_memOk h) ‹_›)))

theorem execKickDepk2Timer_memOk (h : State.memOk s) : Outcome.memOk (execKickDepk2Timer s) := by
  unfold execKickDepk2Timer
  split
  · exact h
  · exact foldl_memOk (fun _ _ ht => ite_memOk (kickQueue_memOk ht) ht) h

theorem execContextSwitch_memOk {ctx : Nat} (h : State.memOk s) : Outcome.memOk (execContextSwitch ctx s) := by
  unfold execContextSwitch
  refine foldl_memOk (fun _ _ ht => ?_) (leaveFabric_memOk h)
  split
  · exact requestSave_memOk ht
  · exact ht

end

/-! ### Ballast work (Machine/Ballast) -/

section

variable {die line core k : Nat} {s : State} {p : Nat × State}

theorem putShared_memOk {home : Nat} {st : LineState} {bytes : List Byte} {e : Dir} (h : State.memOk s) :
    BallastLine.memOk (putShared home die line st bytes e s) := by
  unfold putShared
  split
  · trivial
  · exact setDir_memOk (State.modDie_memOk (memOk_of_some (roomInL2_memOk h) ‹_›))

theorem takeShared_memOk {unit off : Nat} (h : State.memOk s) : BallastLine.memOk (takeShared die line unit off s) := by
  unfold takeShared
  extract_lets home mem e others
  split
  · trivial
  · split
    · split
      · trivial
      · split
        · exact h
        · exact putShared_memOk (State.modDie_memOk h)
    · rename_i r _ _ _
      have q : State.memOk r.2 := readLineAt_memOk h
      clear_value r
      split
      · exact q
      · split <;> exact putShared_memOk q

theorem fetchBallast_memOk (h : State.memOk s) : BallastLine.memOk (fetchBallast die line s) := by
  unfold fetchBallast
  dsimp only
  split
  · exact h
  · split
    all_goals
      split
      · trivial
      · split
        · exact takeShared_memOk (memOk_of_pair (xlate_memOk h) ‹_›)
        · trivial

theorem askBallast_memOk (h : State.memOk s) : State.memOk (askBallast die line s) := by
  unfold askBallast
  dsimp only
  split
  · exact BallastLine.of_done (fetchBallast_memOk (State.modDie_memOk h)) ‹_›
  · exact State.modDie_memOk (State.modDie_memOk h)

theorem serveBallast_memOk (h : State.memOk s) : State.memOk (serveBallast s die) := by
  unfold serveBallast
  refine foldl_memOk (fun _ _ ht => ?_) h
  split
  · exact State.modDie_memOk ht
  · split
    · exact State.modDie_memOk (BallastLine.of_done (fetchBallast_memOk ht) ‹_›)
    · exact ht

theorem ballastEntry_memOk {cap n p left used : Nat} (h : State.memOk s) :
    State.memOk (ballastEntry core cap n p left used s).2.2.2 := by
  induction n generalizing p left used s with
  | zero => exact h
  | succ n ih =>
    rw [ballastEntry]
    split
    · exact h
    · split
      · exact ih h
      · split
        · exact h
        · exact ih (askBallast_memOk h)

theorem ballastList_memOk {cap : Nat} {l : List (Nat × Nat × Nat)} {used : Nat} (h : State.memOk s) :
    State.memOk (ballastList core cap l used s).2.2 := by
  induction l generalizing used s with
  | nil => exact h
  | cons e l ih => exact ih (ballastEntry_memOk h)

theorem ballastFetch_memOk (h : State.memOk p.2) : State.memOk (ballastFetch p).2 := by
  unfold ballastFetch
  extract_lets cap r
  have q : State.memOk r.2 := List.foldlRecOn (motive := fun x : Nat × State => State.memOk x.2) _ _
    (foldl_memOk (fun _ _ => serveBallast_memOk) h) fun _ ht _ _ => State.modCore_memOk (ballastList_memOk ht)
  exact q

theorem scrubLine_memOk {unit : Nat} (h : State.memOk s) : Opt.memOk State.memOk (scrubLine unit s) := by
  unfold scrubLine
  dsimp only
  split
  · trivial
  · refine State.modUnit_memOk ?_
    split <;> exact senseDram_memOk _ _ (countUe_memOk _ _ h)

theorem scrubWord_memOk (h : State.memOk s) : State.memOk (scrubWord core s) := State.modCore_memOk (senseSram_memOk _ _ h)

theorem ballastScrub_memOk (h : State.memOk p.2) : State.memOk (ballastScrub k p).2 := by
  unfold ballastScrub
  extract_lets lines
  have q : State.memOk lines.2 := by
    refine ite_snd_memOk h (List.foldlRecOn (motive := fun x : Nat × State => State.memOk x.2) _ _ h fun t ht m _ => ?_)
    split
    · exact ht
    · split
      · exact memOk_of_some (scrubLine_memOk ht) ‹_›
      · exact ht
  refine List.foldlRecOn (motive := fun x : Nat × State => State.memOk x.2) _ _ q fun t ht c _ => ?_
  exact ite_snd_memOk ht (scrubWord_memOk ht)

theorem ballastTest_memOk {fails : List (Nat × Nat)} (h : State.memOk p.2) : State.memOk (ballastTest k fails p).2 := by
  refine List.foldlRecOn (motive := fun x : Nat × State => State.memOk x.2) _ _ h fun t ht i _ => ?_
  exact ite_snd_memOk ht (ite_memOk ht ht)

theorem spendExcess_memOk {excess : Nat} {fails : List (Nat × Nat)} (h : State.memOk s) :
    State.memOk (spendExcess excess k fails s) := by
  unfold spendExcess
  extract_lets on
  have hon {i : Nat} {f : Nat × State → Nat × State} {p : Nat × State} (hf : State.memOk p.2 → State.memOk (f p).2)
      (hp : State.memOk p.2) : State.memOk (on i f p).2 := ite_snd_memOk (hf hp) hp
  exact hon ballastTest_memOk (hon ballastScrub_memOk (hon ballastFetch_memOk h))

end

/-! ### Power and heat (Machine/Power) -/

section

variable {s : State}

theorem refillCore_memOk {d : Nat} {c : Nat} (h : State.memOk s) : State.memOk (refillCore d s c) := by
  unfold refillCore
  dsimp only
  split
  · split
    · exact h
    · exact State.modDie_memOk (State.modCore_memOk h)
  · refine State.modHub_memOk ?_
    split
    · exact h
    · exact State.modDie_memOk (State.modCore_memOk h)

theorem execCoreBucketRefill_memOk {die : Nat} (h : State.memOk s) : Outcome.memOk (execCoreBucketRefill die s) := by
  unfold execCoreBucketRefill
  split
  · trivial
  · extract_lets n cores s1 s2 s3
    have q1 : State.memOk s1 := foldl_memOk (fun _ _ => refillCore_memOk) (State.modDie_memOk h)
    clear_value s1
    have q2 : State.memOk s2 := by
      refine foldl_memOk ?_ q1
      intro _ _ ht
      exact State.modCore_memOk ht
    clear_value s2
    exact q2

theorem topUp_memOk {d : Nat} (h : State.memOk s) : State.memOk (topUp s d) := by
  unfold topUp
  refine State.modHub_memOk ?_
  split
  · exact h
  · exact State.modDie_memOk h

theorem upset_memOk {x : Upset} (h : State.memOk s) : State.memOk (upset s x) := by
  unfold upset
  split
  · exact h
  · dsimp only
    split <;> exact h

theorem takeSample_memOk {x : HubSample} (h : State.memOk s) : State.memOk (takeSample x s) := by
  unfold takeSample
  refine foldl_memOk (fun _ _ => upset_memOk) (foldl_memOk (fun _ _ => State.modDie_memOk) (foldl_memOk
    (fun _ _ => State.modCore_memOk) (foldl_memOk ?_ ?_)))
  · intro _ _ ht
    split
    · exact State.modDie_memOk ht
    · exact ht
  · refine foldl_memOk (fun _ _ ht => ?_) h
    split
    · exact State.modCore_memOk ht
    · exact ht

theorem tickFirmware_memOk (h : State.memOk s) : State.memOk (tickFirmware s) := State.modFw_memOk h
theorem closeIntents_memOk {k : Nat} (h : State.memOk s) : State.memOk (closeIntents k s) := refreshPlan_memOk h

theorem execGovernorHubCycle_memOk {sample : HubSample} (h : State.memOk s) :
    Outcome.memOk (execGovernorHubCycle sample s) := by
  unfold execGovernorHubCycle
  split
  · exact h
  · exact tickFirmware_memOk (takeSample_memOk (State.modHub_memOk (spendExcess_memOk (foldl_memOk (fun _ _ => topUp_memOk)
      (closeIntents_memOk h)))))

theorem execPassCountChargeAdjust_memOk {die : Nat} (h : State.memOk s) :
    Outcome.memOk (execPassCountChargeAdjust die s) := by
  unfold execPassCountChargeAdjust
  split
  · trivial
  · dsimp only
    split
    · exact State.setDie_memOk h
    · split
      · exact State.setDie_memOk h
      · exact h

theorem execThermalMigration_memOk {core : Nat} (h : State.memOk s) : Outcome.memOk (execThermalMigration core s) := by
  unfold execThermalMigration
  split
  · trivial
  · split
    · exact h
    · dsimp only
      split
      · exact requestSave_memOk (State.modCore_memOk h)
      · exact State.modPair_memOk (State.modCore_memOk h)

theorem execThermalPassFall_memOk {core : Nat} (h : State.memOk s) : Outcome.memOk (execThermalPassFall core s) := by
  unfold execThermalPassFall
  split
  · trivial
  · split
    · exact h
    · exact State.modPair_memOk (State.modCore_memOk h)

theorem execPowerIntentSend_memOk (h : State.memOk s) : Outcome.memOk (execPowerIntentSend s) := by
  unfold execPowerIntentSend
  split
  · exact h
  · split
    · exact h
    · exact Outcome.ite_memOk h (Outcome.ite_memOk (State.modHub_memOk h) (State.modHub_memOk (foldl_memOk
        (fun _ _ => State.send_memOk) h)))

theorem execPowerIntentReceive_memOk {i : PowerIntent} (h : State.memOk s) :
    Outcome.memOk (execPowerIntentReceive i s) := by
  unfold execPowerIntentReceive
  split
  · exact h
  · split
    · exact State.modHub_memOk h
    · split
      · exact h
      · exact State.modHub_memOk h
    · split
      · exact h
      · exact State.modHub_memOk h
    · exact h

theorem execNoticePost_memOk (h : State.memOk s) : Outcome.memOk (execNoticePost s) := by
  cases e : execNoticePost s with
  | next t => exact noticePost_memOk h e
  | fault => trivial
  | refused => trivial

end

/-! ### Firmware commands (Machine/Firmware) -/

section

variable {s : State} {op n e page ctx k : Nat} {r : MsgHead} {act : Command} {again : Due} {big : Bool}
  {fs : List (Nat × Nat)} {m : MapArgs}

theorem refuseWith_memOk {status : Nat} (h : State.memOk s) : State.memOk (refuseWith status s).s := h
theorem waitIn_memOk (h : State.memOk s) : State.memOk (waitIn s).s := h
theorem replyOnce_memOk {status : Nat} {p : Payload} (h : State.memOk s) : State.memOk (replyOnce op r status p s) :=
  sendReply_memOk h
theorem touchSession_memOk (h : State.memOk s) : State.memOk (touchSession n s) := State.modFw_memOk h
theorem setStage_memOk (h : State.memOk s) : State.memOk (setStage r n s) := State.modFw_memOk h

theorem beginCommand_memOk {ctx : Option Nat} (h : State.memOk s) : State.memOk (beginCommand r ctx s) := by
  unfold beginCommand
  split
  · exact h
  · exact State.modFw_memOk (journal_memOk h)

theorem runCommand_memOk (hf : ∀ t, State.memOk t → State.memOk (act t).s) (h : State.memOk s) :
    State.memOk (runCommand op r act again s) := by
  unfold runCommand
  dsimp only
  split
  · exact retry_memOk (beginCommand_memOk h)
  · split
    · exact retry_memOk (hf _ (beginCommand_memOk h))
    · split
      · exact executed_memOk (hf _ (beginCommand_memOk h))
      · split
        · exact followView_memOk (setStage_memOk (hf _ (beginCommand_memOk h)))
        · exact answer_memOk (hf _ (beginCommand_memOk h))

theorem sessionMessage_memOk {who : Issuer} {x : Session} (hf : ∀ t, State.memOk t → State.memOk (act t).s)
    (h : State.memOk s) : State.memOk (sessionMessage op r who act again x s) := by
  unfold sessionMessage
  split
  · exact replyOnce_memOk (touchSession_memOk h)
  · split
    · split
      · dsimp only
        split
        · exact touchSession_memOk h
        · exact runCommand_memOk hf (touchSession_memOk h)
      · dsimp only
        split
        · exact touchSession_memOk h
        · exact runCommand_memOk (fun _ => refuseWith_memOk) (touchSession_memOk h)
    · split
      · dsimp only
        split
        · exact touchSession_memOk h
        · exact sendReply_memOk (touchSession_memOk h)
      · dsimp only
        split
        · exact touchSession_memOk h
        · split
          · exact touchSession_memOk h
          · exact replyOnce_memOk (touchSession_memOk h)

theorem command_memOk {who : Issuer} {inFailure : Bool} (hf : ∀ t, State.memOk t → State.memOk (act t).s)
    (h : State.memOk s) : Outcome.memOk (command op r who inFailure again act s) := by
  unfold command
  split
  · split
    · exact replyOnce_memOk h
    · exact h
  · split
    · exact h
    · split
      · exact replyOnce_memOk h
      · split
        · split
          · exact replyOnce_memOk h
          · split
            · exact replyOnce_memOk (hf _ (journal_memOk h))
            · exact replyOnce_memOk h
        · split
          · exact replyOnce_memOk h
          · exact sessionMessage_memOk hf h

theorem execFwStatus_memOk (h : State.memOk s) : Outcome.memOk (execFwStatus r s) := by
  unfold execFwStatus
  split
  · split
    · exact replyOnce_memOk h
    · exact h
  · exact command_memOk (fun _ ht => ht) h

theorem execDiagFailureRecord_memOk (h : State.memOk s) : Outcome.memOk (execDiagFailureRecord r s) :=
  command_memOk (fun _ ht => ht) h
theorem safeState_memOk (h : State.memOk s) : State.memOk (safeState s) := h

theorem rerunStage5_memOk (h : State.memOk s) : State.memOk (rerunStage5 s) := by
  unfold rerunStage5
  dsimp only
  split
  · exact State.draw_memOk h
  · exact safeState_memOk (State.modFw_memOk (State.draw_memOk (State.draw_memOk (State.draw_memOk h))))

theorem execDiagRerunStage5_memOk (h : State.memOk s) : Outcome.memOk (execDiagRerunStage5 r s) := by
  unfold execDiagRerunStage5
  refine command_memOk (fun _ ht => ?_) h
  split
  · exact refuseWith_memOk ht
  · exact rerunStage5_memOk ht

theorem execSessionOpen_memOk {key : Nat} (h : State.memOk s) : Outcome.memOk (execSessionOpen r key s) := by
  unfold execSessionOpen
  split
  · exact command_memOk (fun _ => refuseWith_memOk) h
  · refine command_memOk (fun _ ht => ?_) h
    split
    · exact refuseWith_memOk ht
    · split
      · exact refuseWith_memOk ht
      · split
        · exact refuseWith_memOk ht
        · exact State.modFw_memOk (State.draw_memOk (State.draw_memOk (State.draw_memOk ht)))

theorem execSessionProve_memOk {nonce : Nat} (h : State.memOk s) : Outcome.memOk (execSessionProve r nonce s) :=
  Outcome.ite_memOk (replyOnce_memOk (touchSession_memOk h)) (command_memOk (fun _ => State.modFw_memOk) h)
theorem closeSession_memOk (h : State.memOk s) : State.memOk (closeSession n s) := State.modFw_memOk h
theorem execSessionClose_memOk (h : State.memOk s) : Outcome.memOk (execSessionClose r s) :=
  command_memOk (fun _ => closeSession_memOk) h

theorem execSessionIdleTimeout_memOk {session : Nat} (h : State.memOk s) :
    Outcome.memOk (execSessionIdleTimeout session s) := by
  unfold execSessionIdleTimeout
  split
  · exact h
  · split
    · exact h
    · exact closeSession_memOk h

theorem execSessionCtxnew_memOk {view : Nat} (h : State.memOk s) : Outcome.memOk (execSessionCtxnew r view s) := by
  unfold execSessionCtxnew
  refine command_memOk (fun _ ht => ?_) h
  split
  · exact refuseWith_memOk ht
  · split
    · exact refuseWith_memOk ht
    · exact ht

theorem dropAside_memOk (h : State.memOk s) : State.memOk (dropAside e big s) := by
  unfold dropAside
  split
  · exact dropFrames_memOk h
  · exact h

theorem unmapPage_memOk (h : State.memOk s) : State.memOk (unmapPage e page big s) := by
  unfold unmapPage
  dsimp only
  split
  · exact readCover_memOk h
  · split
    · exact addMove_memOk (readCover_memOk h)
    · exact State.modFw_memOk (dropBacking_memOk (dropAside_memOk (setPageEntry_memOk _ _ (readCover_memOk h))))

theorem unmapFrom_memOk {left : Nat} (h : State.memOk s) : State.memOk (unmapFrom e n left page s) := by
  induction n generalizing left page s with
  | zero => exact h
  | succ n ih =>
    rw [unmapFrom]
    split
    · exact h
    · exact ih (unmapPage_memOk h)

theorem unmapPages_memOk {r : Nat × Nat} (h : State.memOk s) : State.memOk (unmapPages e r s) := unmapFrom_memOk h

theorem dropL1s_memOk (h : State.memOk s) : State.memOk (dropL1s ctx s) := by
  unfold dropL1s
  refine foldl_memOk (fun _ _ ht => ?_) h
  split
  · exact ht
  · exact foldl_memOk (fun _ _ => State.modCore_memOk) ht

theorem dropMx_memOk {team core : Nat} (h : State.memOk s) : State.memOk (dropMx team core s) := State.modCore_memOk h

theorem removeTeams_memOk (h : State.memOk s) : State.memOk (removeTeams ctx s) := by
  unfold removeTeams
  refine foldl_memOk (fun _ _ ht => ?_) h
  split
  · exact ht
  · split
    · exact ht
    · exact removeTeam_memOk (foldl_memOk (fun _ _ => dropMx_memOk) ht)

theorem removeGrids_memOk (h : State.memOk s) : State.memOk (removeGrids ctx s) := by
  unfold removeGrids
  refine foldl_memOk (fun _ _ ht => ?_) (State.modHub_memOk h)
  dsimp only
  split
  · exact setDeque_memOk ht
  · exact ht

theorem removeRecords_memOk (h : State.memOk s) : State.memOk (removeRecords ctx s) := h

theorem execSessionCtxend_memOk (h : State.memOk s) : Outcome.memOk (execSessionCtxend r ctx s) := by
  unfold execSessionCtxend
  refine command_memOk (fun _ ht => ?_) h
  split
  · exact refuseWith_memOk ht
  · dsimp only
    split
    · exact waitIn_memOk (foldl_memOk (fun _ _ => unmapPages_memOk) (removeGrids_memOk (removeTeams_memOk
        (leaveFabric_memOk (dropL1s_memOk (stopCtx_memOk ht))))))
    · exact removeRecords_memOk (foldl_memOk (fun _ _ => unmapPages_memOk) (removeGrids_memOk (removeTeams_memOk
        (leaveFabric_memOk (dropL1s_memOk (stopCtx_memOk ht))))))

theorem gather_memOk {us : List Nat} {i : Nat} (h : State.memOk s) : Gathered.memOk (gather us big n i fs s) := by
  induction n generalizing i fs s with
  | zero => exact h
  | succ n ih =>
    rw [gather]
    split
    · exact ih (Got.of_frame (obtainFrame_memOk h) ‹_›)
    · exact foldl_memOk (fun _ _ => dropFrames_memOk) (Got.of_busy (obtainFrame_memOk h) ‹_›)
    · trivial

theorem mapPages_memOk {us : List Nat} {i : Nat} (h : State.memOk s) : State.memOk (mapPages m us fs n i page s) := by
  induction n generalizing i page s with
  | zero => exact h
  | succ n ih =>
    rw [mapPages]
    split
    · exact ih (setEntryOf_memOk (State.modFw_memOk h))
    · split
      · exact ih (setEntryOf_memOk (zeroPage_memOk _ _ _ (State.modFw_memOk h)))
      · exact ih (setEntryOf_memOk (State.modFw_memOk h))

theorem finishMap_memOk {p : Nat} (h : State.memOk s) : State.memOk (finishMap m p n fs s).s := by
  unfold finishMap
  split
  · dsimp only
    split
    · exact Opt.getD_memOk (giveStaging_memOk (setRange_memOk (mapPages_memOk h))) (setRange_memOk (mapPages_memOk h))
    · exact setRange_memOk (mapPages_memOk h)
  · exact setRange_memOk (mapPages_memOk h)

theorem execFwMap_memOk (h : State.memOk s) : Outcome.memOk (execFwMap r m s) := by
  unfold execFwMap
  refine command_memOk (fun _ ht => ?_) h
  split
  · exact refuseWith_memOk ht
  · split
    · exact refuseWith_memOk ht
    · split
      · dsimp only
        split
        · exact refuseWith_memOk ht
        · split
          · exact waitIn_memOk (Gathered.of_busy (gather_memOk ht) ‹_›)
          · exact refuseWith_memOk ht
          · exact finishMap_memOk (Gathered.of_all (gather_memOk ht) ‹_›)
      · dsimp only
        split
        · exact refuseWith_memOk ht
        · exact finishMap_memOk ht

theorem clearRange_memOk (h : State.memOk s) : State.memOk (clearRange ctx k s) := State.modCtx_memOk h

theorem execFwUnmap_memOk {kind : Nat} (h : State.memOk s) : Outcome.memOk (execFwUnmap r ctx k kind s) := by
  unfold execFwUnmap
  refine command_memOk (fun _ ht => ?_) h
  split
  all_goals
    dsimp only
    split
    · exact refuseWith_memOk ht
    · split
      · exact refuseWith_memOk ht
      · split
        · exact refuseWith_memOk ht
        · split
          · exact waitIn_memOk (unmapPages_memOk (setStage_memOk ht))
          · split
            · exact waitIn_memOk (dropL1s_memOk (unmapPages_memOk (setStage_memOk ht)))
            · exact clearRange_memOk (dropL1s_memOk (unmapPages_memOk (setStage_memOk ht)))

theorem execLoadConfig_memOk {b : Blob} (h : State.memOk s) : Outcome.memOk (execLoadConfig r b s) := by
  unfold execLoadConfig
  refine command_memOk (fun _ ht => ?_) h
  split
  · exact refuseWith_memOk ht
  · split
    · exact refuseWith_memOk ht
    · split
      all_goals
        split
        · exact refuseWith_memOk ht
        · exact State.modFw_memOk ht

theorem execLoadRoute_memOk {value : Dword} (h : State.memOk s) : Outcome.memOk (execLoadRoute r ctx k value s) := by
  unfold execLoadRoute
  refine command_memOk (fun _ ht => ?_) h
  split
  · exact refuseWith_memOk ht
  · split
    · exact refuseWith_memOk ht
    · exact State.modCtx_memOk ht

theorem execLoadSavepool_memOk {base size : Dword} (h : State.memOk s) :
    Outcome.memOk (execLoadSavepool r ctx base size s) := by
  unfold execLoadSavepool
  refine command_memOk (fun _ ht => ?_) h
  split
  · exact refuseWith_memOk ht
  · split
    · exact refuseWith_memOk ht
    · exact State.modCtx_memOk ht

theorem execRegenRegister_memOk {m : MsgHead} {image : Nat} {arg : Dword} (h : State.memOk s) :
    Outcome.memOk (execRegenRegister m ctx image arg s) := by
  refine command_memOk (fun t ht => ?_) h
  have q := readSpan_memOk (ctx := ctx) (need := permRd) (va := image) (n := 8) ht
  split
  · exact refuseWith_memOk ht
  · split
    · exact waitIn_memOk (memOk_of_pair q ‹_›)
    · exact refuseWith_memOk (memOk_of_pair q ‹_›)
    · have k := memOk_of_pair q ‹_›
      split
      · exact refuseWith_memOk k
      · split
        · exact refuseWith_memOk k
        · exact State.modFw_memOk (Opt.getD_memOk (giveStaging_memOk k) k)

theorem execHostLaunch_memOk {queue : Nat} {desc : List Byte} (h : State.memOk s) :
    Outcome.memOk (execHostLaunch r ctx queue desc s) := by
  unfold execHostLaunch
  refine command_memOk (fun _ ht => ?_) h
  split
  · exact refuseWith_memOk ht
  · split
    · exact refuseWith_memOk ht
    · split
      · exact refuseWith_memOk ht
      · split
        · exact refuseWith_memOk ht
        · split
          · exact waitIn_memOk (Try.of_busy (launchGrid_memOk ht) ‹_›)
          · exact Try.state_memOk (launchGrid_memOk (journal_memOk ht))

theorem execHostWait_memOk {gridid limit : Nat} (h : State.memOk s) :
    Outcome.memOk (execHostWait r ctx gridid limit s) := by
  unfold execHostWait
  refine command_memOk (fun _ ht => ?_) h
  split
  · exact refuseWith_memOk ht
  · split
    · exact refuseWith_memOk ht
    · split
      · split
        · exact refuseWith_memOk ht
        · split
          · exact refuseWith_memOk ht
          · exact State.modFw_memOk ht
      · split
        · exact ht
        · exact refuseWith_memOk ht

theorem execWaitTimeout_memOk {session msgnum : Nat} (h : State.memOk s) :
    Outcome.memOk (execWaitTimeout session msgnum s) := by
  unfold execWaitTimeout
  split
  · exact h
  · split
    · exact h
    · split
      · exact h
      · split
        · exact answer_memOk (State.modFw_memOk h)
        · exact h

theorem execReadCounters_memOk {group : Nat} (h : State.memOk s) : Outcome.memOk (execReadCounters r group ctx s) := by
  unfold execReadCounters
  refine command_memOk (fun _ ht => ?_) h
  split
  all_goals
    split
    · exact refuseWith_memOk ht
    · split
      · dsimp only
        split <;> exact refuseWith_memOk ht
      · dsimp only
        split
        · exact refuseWith_memOk ht
        · exact ht

theorem execPowerGroup_memOk {id stag gslew : Nat} {en : Bool} {members : Nat} (h : State.memOk s) :
    Outcome.memOk (execPowerGroup r id stag gslew en members s) := by
  unfold execPowerGroup
  refine command_memOk (fun _ ht => ?_) h
  split
  · exact refuseWith_memOk ht
  · exact State.modHub_memOk ht

theorem execResetUnitMreset_memOk {core unit : Nat} (h : State.memOk s) :
    Outcome.memOk (execResetUnitMreset r core unit s) := by
  unfold execResetUnitMreset
  refine command_memOk (fun _ ht => ?_) h
  split
  · exact refuseWith_memOk ht
  · exact resetMx_memOk ht

theorem stopTeams_memOk (h : State.memOk s) : State.memOk (stopTeams ctx s) := by
  unfold stopTeams
  refine foldl_memOk (fun _ _ ht => leaveQueue_memOk (State.modGrid_memOk (foldl_memOk (fun _ _ hu => ?_) ht)))
    (foldl_memOk (fun _ _ => State.modTeam_memOk) h)
  split
  · exact hu
  · exact State.modCtx_memOk hu

theorem execResetUnitStopContext_memOk (h : State.memOk s) : Outcome.memOk (execResetUnitStopContext r ctx s) := by
  unfold execResetUnitStopContext
  refine command_memOk (fun _ ht => ?_) h
  split
  · exact refuseWith_memOk ht
  · exact stopTeams_memOk ht

theorem execResetUnitClearCounts_memOk (h : State.memOk s) : Outcome.memOk (execResetUnitClearCounts r s) :=
  command_memOk (fun _ ht => ht) h
theorem execResetUnitRetrainEthernet_memOk (h : State.memOk s) : Outcome.memOk (execResetUnitRetrainEthernet r s) :=
  command_memOk (fun _ ht => State.modFw_memOk ht) h
theorem retrainStation_memOk (h : State.memOk s) : State.memOk (retrainStation n s) :=
  State.modStation_memOk (State.draw_memOk h)

theorem execResetUnitRetrainStation_memOk {station : Nat} (h : State.memOk s) :
    Outcome.memOk (execResetUnitRetrainStation r station s) := by
  unfold execResetUnitRetrainStation
  refine command_memOk (fun _ ht => ?_) h
  split
  · exact refuseWith_memOk ht
  · exact retrainStation_memOk (foldl_memOk (fun _ _ ht => took_memOk ht (execRemoteResponse_memOk ht)) ht)

theorem execFwAttest_memOk {nonce : Nat} (h : State.memOk s) : Outcome.memOk (execFwAttest r nonce s) :=
  command_memOk (fun _ ht => ht) h
theorem execUnknownOpcode_memOk {m : RawMsg} (h : State.memOk s) : Outcome.memOk (execUnknownOpcode m s) :=
  command_memOk (fun _ => refuseWith_memOk) h

end

/-! ### Power-on and the Ethernet port (Machine/Startup) -/

section

variable {s : State} {sender target rkey va qp : Nat}

theorem execPowerOn_memOk {env : PowerOnEnv} : Outcome.memOk (execPowerOn env s) := by
  unfold execPowerOn
  generalize realFailure env.failure = f
  dsimp only
  split <;> exact State.reset_memOk

theorem execEthernetLinkFormed_memOk (h : State.memOk s) : Outcome.memOk (execEthernetLinkFormed s) := by
  unfold execEthernetLinkFormed
  split
  · exact safeState_memOk (State.modFw_memOk (State.modFw_memOk h))
  · exact State.modFw_memOk (State.modFw_memOk h)
  · exact h
  · exact State.modFw_memOk h

theorem writeCtx_memOk {ctx : Nat} {f : Ctx → Ctx} (h : State.memOk s) : State.memOk (writeCtx ctx f s) := by
  unfold writeCtx
  split
  · exact h
  · exact followView_memOk (State.modCtx_memOk h)

theorem writeOwn_memOk {ctx : Nat} {f : Ctx → Ctx} (h : State.memOk s) : State.memOk (writeOwn ctx f s) := by
  unfold writeOwn
  split
  · exact h
  · exact State.modCtx_memOk h

theorem writeClock_memOk {d : Nat} {v : Dword} (h : State.memOk s) : State.memOk (writeClock d v s) := by
  unfold writeClock
  split
  · exact State.modDie_memOk h
  · exact h

theorem writeReg_memOk {r : RegName} {v : Dword} (h : State.memOk s) : Opt.memOk State.memOk (writeReg r v s) := by
  unfold writeReg
  extract_lets inCore inDie range
  have hCore (c : Nat) (f : Core → Core) : Opt.memOk State.memOk (inCore c f) := Opt.ite_memOk (State.modCore_memOk h)
  have hDie (d : Nat) (f : Die → Die) : Opt.memOk State.memOk (inDie d f) := Opt.ite_memOk (State.modDie_memOk h)
  have hRange (ctx k f m : Nat) : Opt.memOk State.memOk (range ctx k f m) := Opt.ite_memOk (writeCtx_memOk h)
  clear_value inCore inDie range
  cases r with
  | rgbase | rglim | rgcb | rgctl => exact hRange _ _ _ _
  | frt => exact Opt.ite_memOk (writeCtx_memOk h)
  | svbase | svsize => exact writeOwn_memOk h
  | cptbase | ekerr | ekres => exact hDie _ _
  | memerr => exact Opt.ite_memOk (State.modUnit_memOk h)
  | xlerr => exact Opt.ite_memOk h
  | pass => exact Opt.ite_memOk (State.modPair_memOk h)
  | coreclk => exact Opt.ite_memOk (writeClock_memOk h)
  | mtinvArgs | pwrgov | passcfg | pgcfg | thermcfg | triprsn | schedstat | preempt => exact State.modHub_memOk h
  | sramerr | ceerr | mxerr | faberr | balfail | cores | frctl | corerfl => exact hCore _ _

theorem execRegisterWrite_memOk {r : RegName} {value : Dword} (h : State.memOk s) :
    Outcome.memOk (execRegisterWrite r value s) := by
  unfold execRegisterWrite
  split
  · exact memOk_of_some (writeReg_memOk h) ‹_›
  · trivial

theorem takeMalformed_memOk {opcode : Nat} {r : MsgHead} (h : State.memOk s) : State.memOk (takeMalformed opcode r s) := by
  unfold takeMalformed
  split
  · exact h
  · exact replyOnce_memOk (touchSession_memOk h)

theorem takeDatagram_memOk {f : IpFragment} {fs : List IpFragment} (h : State.memOk s) :
    State.memOk (takeDatagram f fs s) := by
  unfold takeDatagram
  split
  · exact h
  · exact takeMalformed_memOk h
  · exact h

theorem execIpFragmentReceive_memOk {f : IpFragment} (h : State.memOk s) : Outcome.memOk (execIpFragmentReceive f s) := by
  unfold execIpFragmentReceive
  split
  · exact h
  · refine Outcome.ite_memOk (takeDatagram_memOk (State.modFw_memOk h)) ?_
    split
    · exact h
    · exact State.modFw_memOk h

theorem execArpRequest_memOk (h : State.memOk s) : Outcome.memOk (execArpRequest sender target s) := by
  unfold execArpRequest
  split
  · exact sendFrame_memOk h
  · exact h

theorem execNeighbourDiscovery_memOk (h : State.memOk s) : Outcome.memOk (execNeighbourDiscovery sender target s) := by
  unfold execNeighbourDiscovery
  split
  · exact sendFrame_memOk h
  · exact h

theorem execIcmpEcho_memOk {bytes : List Byte} (h : State.memOk s) : Outcome.memOk (execIcmpEcho sender target bytes s) :=
  Outcome.ite_memOk (sendFrame_memOk h) h
theorem releaseFrames_memOk {prio : Nat} (h : State.memOk s) : State.memOk (releaseFrames prio s) :=
  foldl_memOk (fun _ _ => State.send_memOk) (State.modFw_memOk h)

theorem execPriorityFlowControl_memOk {prio : Nat} {pause : Bool} (h : State.memOk s) :
    Outcome.memOk (execPriorityFlowControl prio pause s) := by
  unfold execPriorityFlowControl
  split
  · split
    · exact State.modFw_memOk h
    · exact releaseFrames_memOk (State.modFw_memOk h)
  · exact h

theorem hubPages_memOk {write : Bool} {last : Option Nat} {ns : List HubNeed} (h : State.memOk s) :
    State.memOk (hubPages write last ns s).2.2 := by
  induction ns generalizing last s with
  | nil => exact h
  | cons e ns ih =>
    rw [hubPages]
    split
    · exact ih h
    · split
      · exact memOk_of_pair (xlate_memOk h) ‹_›
      · exact ih (memOk_of_pair (xlate_memOk h) ‹_›)
      · exact ih (memOk_of_pair (xlate_memOk h) ‹_›)

theorem rdmaLines_memOk {write : Bool} {n : Nat} (h : State.memOk s) : Rdma.memOk (rdmaLines write rkey va n s) := by
  unfold rdmaLines
  split
  · exact h
  · split
    · exact h
    · split
      · exact h
      · split
        · exact memOk_of_triple (hubPages_memOk h) ‹_›
        · exact memOk_of_triple (hubPages_memOk h) ‹_›
        · have ht := memOk_of_triple (hubPages_memOk h) ‹_›
          split <;> exact memOk_of_triple (askHub_memOk ht) ‹_›

theorem rdmaNak_memOk {operational : Bool} {sent : List Byte} (h : State.memOk s) :
    State.memOk (rdmaNak qp operational sent s) :=
  sendFrame_memOk h

theorem execRdmaWrite_memOk {bytes : List Byte} (h : State.memOk s) : Outcome.memOk (execRdmaWrite qp rkey va bytes s) := by
  unfold execRdmaWrite
  split
  · exact h
  · split
    · exact rdmaNak_memOk (Rdma.of_bad (rdmaLines_memOk h) ‹_›)
    · exact retry_memOk (Rdma.of_wait (rdmaLines_memOk h) ‹_›)
    · have ht := Rdma.of_go (rdmaLines_memOk h) ‹_›
      split
      · exact sendFrame_memOk (hubWrite_memOk ht)
      · exact retry_memOk (hubWrite_memOk ht)

theorem readMore_memOk {len : Nat} {got : List Byte} (h : State.memOk s) : State.memOk (readMore qp rkey va len got s) := by
  unfold readMore
  split
  · exact rdmaNak_memOk (Rdma.of_bad (rdmaLines_memOk h) ‹_›)
  · exact retry_memOk (Rdma.of_wait (rdmaLines_memOk h) ‹_›)
  · have ht := Rdma.of_go (rdmaLines_memOk h) ‹_›
    split
    · dsimp only
      split
      · exact rdmaNak_memOk ht
      · exact sendFrame_memOk ht
    · dsimp only
      split
      · exact rdmaNak_memOk ht
      · exact retry_memOk ht

theorem execRdmaRead_memOk {len : Nat} (h : State.memOk s) : Outcome.memOk (execRdmaRead qp rkey va len s) := by
  unfold execRdmaRead
  split
  · exact h
  · exact readMore_memOk h

end

/-! ### Recovery (Machine/Recovery) -/

section

variable {s : State}

theorem stopAll_memOk (h : State.memOk s) : State.memOk (stopAll s) := foldl_memOk (fun _ _ => stopCtx_memOk) h

theorem execFlitCrcReplay_memOk {crossing : Nat} (h : State.memOk s) : Outcome.memOk (execFlitCrcReplay crossing s) := by
  unfold execFlitCrcReplay
  split
  · trivial
  · dsimp only
    split
    · exact stopAll_memOk h
    · exact h

theorem redoLaunch_memOk {d : Due} (h : State.memOk s) : State.memOk (redoLaunch s d) := by
  unfold redoLaunch
  split
  · exact took_memOk h (execHostLaunch_memOk h)
  · exact h

theorem kickAll_memOk (h : State.memOk s) : State.memOk (kickAll s) := by
  unfold kickAll
  refine foldl_memOk (fun _ _ ht => ?_) h
  split
  · exact kickQueue_memOk ht
  · exact ht

theorem execSchedulerTakeover_memOk {cause : Nat} (h : State.memOk s) : Outcome.memOk (execSchedulerTakeover cause s) := by
  unfold execSchedulerTakeover
  split
  · split
    · exact h
    · split
      · exact sendHeld_memOk (State.modFw_memOk (State.modHub_memOk h))
      · dsimp only
        split
        · exact foldl_memOk (fun _ _ => redoLaunch_memOk) h
        · exact State.modFw_memOk (kickAll_memOk (foldl_memOk (fun _ _ => redoLaunch_memOk) h))
  · split
    · exact h
    · exact State.modHub_memOk h

theorem execDeimosFailure_memOk (h : State.memOk s) : Outcome.memOk (execDeimosFailure s) := by
  unfold execDeimosFailure
  split <;> exact h

end

/-! ### The meaning of an instruction or event (Machine/Dispatch) -/

section

variable {s : State}

theorem exec_memOk {i : Instr} (h : State.memOk s) : Outcome.memOk (exec i s) := by
  cases i with
  | smov | smovi | saddS | saddSR | saddSI | ssubS | ssubSR | ssubSI | smulS | smulSR | smulSI | smulhS | smulhSR | sdivS
  | sdivSR | sdivSI | sremS | sremSR | sremSI | sandS | sandSR | sandSI | sorS | sorSR | sorSI | sxorS | sxorSR | sxorSI
  | sshlS | sshlSR | sshlSI | sshrS | sshrSR | sshrSI | ssraS | ssraSR | ssraSI | scmpI32S | scmpI32SR | scmpI32SI
  | scmpN32S | scmpN32SR | scmpN32SI | ssel | srdlane => exact scalarOp_memOk h
  | sldc => exact execSldc_memOk h
  | smovt => exact execSmovt_memOk h
  | srd => exact execSrd_memOk h
  | swr => exact execSwr_memOk h
  | movV | movVR | movi | vmovs | iaddV | iaddVR | iaddVI | isubV | isubVR | isubVI | imulV | imulVR | imulVI | imulhV
  | imulhVR | imad | iminV | iminVR | iminVI | imaxV | imaxVR | imaxVI | iabsV | iabsVR | inegV | inegVR | isad | isel
  | shlV | shlVR | shlVI | shrV | shrVR | shrVI | sraV | sraVR | sraVI | rotV | rotVR | rotVI | lmux | bfx | bfi | popcV
  | popcVR | clzV | clzVR | brevV | brevVR | bytep | fminV | fminVR | fmaxV | fmaxVR | fsel | xpullV | xpullVR | xbcastVR
  | xbcastVI => exact vectorOp_memOk h
  | iaddc => exact execIaddc_memOk h
  | icmpVR | icmpVI | fcmp | fclass | xany | xall => exact condOp_memOk h
  | faddV | faddVR | fsubV | fsubVR | fmulV | fmulVR | fma | frndV | frndVR | cvt | cvtsr | unpack => exact roundOp_memOk h
  | pack => exact execPack_memOk h
  | rcpV | rcpVR | rsqV | rsqVR | sqrtV | sqrtVR | exp2V | exp2VR | log2V | log2VR => exact sfuOp_memOk h
  | srngV => exact execSrngV_memOk h
  | srngVR => exact execSrngVR_memOk h
  | xpush => exact execXpush_memOk h
  | xballot => exact execXballot_memOk h
  | xpfx => exact execXpfx_memOk h
  | kclr => exact execKclr_memOk h
  | kaddV => exact execKaddV_memOk h
  | kaddVR => exact execKaddVR_memOk h
  | krnd => exact execKrnd_memOk h
  | kscan => exact execKscan_memOk h
  | ksave => exact execKsave_memOk h
  | kload => exact execKload_memOk h
  | ldNarrow | ldWide | ldsNarrow | ldsWide => exact loadOp_memOk h
  | stNarrow | stB128 | stsNarrow | stsB128 => exact storeOp_memOk h
  | atom | red => exact atomicOp_memOk h
  | atomr | ldr | str => exact fabricOp_memOk h
  | strStrm => exact execStrStrm_memOk h
  | pref => exact execPref_memOk h
  | prefb => exact execPrefb_memOk h
  | cflush => exact execCflush_memOk h
  | cinv => exact execCinv_memOk h
  | gcvt => exact execGcvt_memOk h
  | gtest => exact execGtest_memOk h
  | tld => exact execTld_memOk h
  | tst => exact execTst_memOk h
  | tzero => exact execTzero_memOk h
  | tfmt => exact execTfmt_memOk h
  | mma => exact execMma_memOk h
  | macq => exact execMacq_memOk h
  | mrel => exact execMrel_memOk h
  | mwait => exact execMwait_memOk h
  | ard => exact execArd_memOk h
  | awr => exact execAwr_memOk h
  | mreset => exact execMreset_memOk h
  | cpy | cpy2 | cpyt | cpyg | cpys | cfill => exact copyIssue_memOk h
  | pkload | pkq | pku | pkstat => exact enckeIssue_memOk h
  | spawn => exact execSpawn_memOk h
  | take => exact execTake_memOk h
  | launch => exact execLaunch_memOk h
  | cbset => exact execCbset_memOk h
  | cbwait => exact execCbwait_memOk h
  | bra => exact execBra_memOk h
  | brc => exact execBrc_memOk h
  | jmpx => exact execJmpx_memOk h
  | jtab => exact execJtab_memOk h
  | call => exact execCall_memOk h
  | callx => exact execCallx_memOk h
  | ret => exact execRet_memOk h
  | rjset => exact execRjset_memOk h
  | rjwait => exact execRjwait_memOk h
  | rjdrop => exact execRjdrop_memOk h
  | exit => exact execExit_memOk h
  | nop => exact execNop_memOk h
  | yield => exact execYield_memOk h
  | bar => exact execBar_memOk h
  | barset => exact execBarset_memOk h
  | pharr => exact execPharr_memOk h
  | phwait => exact execPhwait_memOk h
  | waita => exact execWaita_memOk h
  | dwait => exact execDwait_memOk h
  | trap => exact execTrap_memOk h
  | brk => exact execBrk_memOk h
  | ecall => exact execEcall_memOk h
  | phint => exact execPhint_memOk h
  | tmarm => exact execTmarm_memOk h
  | fence => exact execFence_memOk h
  | pwint => exact execPwint_memOk h
  | shadow => exact execShadow_memOk h
  | fragq => exact execFragq_memOk h
  | bandSelect => exact execBandSelect_memOk h
  | clauseWaitRelease => exact execClauseWaitRelease_memOk h
  | switchPoint => exact execSwitchPoint_memOk h
  | longLatencyResultLands => exact execLongLatencyResultLands_memOk h
  | storeAcknowledge => exact execStoreAcknowledge_memOk h
  | sramRemoteAccess => exact execSramRemoteAccess_memOk h
  | translationRequest => exact execTranslationRequest_memOk h
  | translationWalk => exact execTranslationWalk_memOk h
  | pageFaultResponse => exact execPageFaultResponse_memOk h
  | faultRecordPost => exact execFaultRecordPost_memOk h
  | faultRecordServe => exact execFaultRecordServe_memOk h
  | regenComplete => exact execRegenComplete_memOk h
  | accessBitScan => exact execAccessBitScan_memOk h
  | pageMove => exact execPageMove_memOk h
  | mtinvGo => exact execMtinvGo_memOk h
  | mtinvComplete => exact execMtinvComplete_memOk h
  | ffaddWrite => exact execFfaddWrite_memOk h
  | fqtailWrite => exact execFqtailWrite_memOk h
  | cohRdS => exact execCohRdS_memOk h
  | cohRdX => exact execCohRdX_memOk h
  | cohUpg => exact execCohUpg_memOk h
  | cohPutM => exact execCohPutM_memOk h
  | cohPutE => exact execCohPutE_memOk h
  | cohFwd => exact execCohFwd_memOk h
  | cohInv => exact execCohInv_memOk h
  | cohData => exact execCohData_memOk h
  | cohCmp => exact execCohCmp_memOk h
  | cohFwdAck => exact execCohFwdAck_memOk h
  | cohInvAck => exact execCohInvAck_memOk h
  | cohPutAck => exact execCohPutAck_memOk h
  | flitCrcReplay => exact execFlitCrcReplay_memOk h
  | watchWake => exact execWatchWake_memOk h
  | monitorPoll => exact execMonitorPoll_memOk h
  | copyAccept => exact execCopyAccept_memOk h
  | copyUnit => exact execCopyUnit_memOk h
  | copyComplete => exact execCopyComplete_memOk h
  | ceresResume => exact execCeresResume_memOk h
  | ceresAbort => exact execCeresAbort_memOk h
  | copyQuiesce => exact execCopyQuiesce_memOk h
  | peerRequest => exact execPeerRequest_memOk h
  | remoteResponse => exact execRemoteResponse_memOk h
  | lateSplit => exact execLateSplit_memOk h
  | streamOpen => exact execStreamOpen_memOk h
  | streamFull => exact execStreamFull_memOk h
  | streamData => exact execStreamData_memOk h
  | streamClose => exact execStreamClose_memOk h
  | streamAck => exact execStreamAck_memOk h
  | streamBufferTimeout => exact execStreamBufferTimeout_memOk h
  | streamIdleClose => exact execStreamIdleClose_memOk h
  | streamReopenTimeout => exact execStreamReopenTimeout_memOk h
  | mmaOperationStart => exact execMmaOperationStart_memOk h
  | mmaStep => exact execMmaStep_memOk h
  | matrixQuiesce => exact execMatrixQuiesce_memOk h
  | enckeAccept => exact execEnckeAccept_memOk h
  | keyStaging => exact execKeyStaging_memOk h
  | pkqQuery => exact execPkqQuery_memOk h
  | enckeRowGather => exact execEnckeRowGather_memOk h
  | pkuQuery => exact execPkuQuery_memOk h
  | enckeRowUpdate => exact execEnckeRowUpdate_memOk h
  | enckeComplete => exact execEnckeComplete_memOk h
  | pkstatStatusWrite => exact execPkstatStatusWrite_memOk h
  | ekresResume => exact execEkresResume_memOk h
  | ekresAbort => exact execEkresAbort_memOk h
  | enckeQuiesce => exact execEnckeQuiesce_memOk h
  | fenceComplete => exact execFenceComplete_memOk h
  | rejoinDeadlockDetect => exact execRejoinDeadlockDetect_memOk h
  | timerFire => exact execTimerFire_memOk h
  | bandEnd => exact execBandEnd_memOk h
  | barWatchdogExpiry => exact execBarWatchdogExpiry_memOk h
  | waitaTimeout => exact execWaitaTimeout_memOk h
  | counterWaitRelease => exact execCounterWaitRelease_memOk h
  | teamPlace => exact execTeamPlace_memOk h
  | kickWrite | calendarAdvance | nqWrite => exact State.modHub_memOk h
  | kickDepk2Timer => exact execKickDepk2Timer_memOk h
  | gridComplete => exact execGridComplete_memOk h
  | cbwaitPoll => exact execCbwaitPoll_memOk h
  | coreBucketRefill => exact execCoreBucketRefill_memOk h
  | governorHubCycle => exact execGovernorHubCycle_memOk h
  | pwintIntentExpiry => exact execPwintIntentExpiry_memOk h
  | passCountChargeAdjust => exact execPassCountChargeAdjust_memOk h
  | thermalMigration => exact execThermalMigration_memOk h
  | thermalPassFall => exact execThermalPassFall_memOk h
  | thermalTrip => exact State.reset_memOk
  | powerIntentSend => exact execPowerIntentSend_memOk h
  | powerIntentReceive => exact execPowerIntentReceive_memOk h
  | schedulerTakeover => exact execSchedulerTakeover_memOk h
  | deimosFailure => exact execDeimosFailure_memOk h
  | noticePost => exact execNoticePost_memOk h
  | fragReady => exact execFragReady_memOk h
  | fragPoison => exact execFragPoison_memOk h
  | fragDiscard => exact execFragDiscard_memOk h
  | fragmentReplay => exact execFragmentReplay_memOk h
  | fragFullResume => exact execFragFullResume_memOk h
  | preemptBudgetExpiry => exact execPreemptBudgetExpiry_memOk h
  | teamSave => exact execTeamSave_memOk h
  | teamRestore => exact execTeamRestore_memOk h
  | registerWrite => exact execRegisterWrite_memOk h
  | powerOn => exact execPowerOn_memOk
  | fwStatus => exact execFwStatus_memOk h
  | diagFailureRecord => exact execDiagFailureRecord_memOk h
  | diagRerunStage5 => exact execDiagRerunStage5_memOk h
  | sessionOpen => exact execSessionOpen_memOk h
  | sessionProve => exact execSessionProve_memOk h
  | sessionClose => exact execSessionClose_memOk h
  | sessionCtxnew => exact execSessionCtxnew_memOk h
  | sessionCtxend => exact execSessionCtxend_memOk h
  | fwMap => exact execFwMap_memOk h
  | fwUnmap => exact execFwUnmap_memOk h
  | loadConfig => exact execLoadConfig_memOk h
  | loadRoute => exact execLoadRoute_memOk h
  | loadSavepool => exact execLoadSavepool_memOk h
  | regenRegister => exact execRegenRegister_memOk h
  | hostLaunch => exact execHostLaunch_memOk h
  | hostWait => exact execHostWait_memOk h
  | waitTimeout => exact execWaitTimeout_memOk h
  | readCounters => exact execReadCounters_memOk h
  | powerGroup => exact execPowerGroup_memOk h
  | resetUnitMreset => exact execResetUnitMreset_memOk h
  | resetUnitStopContext => exact execResetUnitStopContext_memOk h
  | resetUnitClearCounts => exact execResetUnitClearCounts_memOk h
  | resetUnitRetrainEthernet => exact execResetUnitRetrainEthernet_memOk h
  | resetUnitRetrainStation => exact execResetUnitRetrainStation_memOk h
  | fwAttest => exact execFwAttest_memOk h
  | sessionIdleTimeout => exact execSessionIdleTimeout_memOk h
  | ipFragmentReceive => exact execIpFragmentReceive_memOk h
  | reassemblyTimeout => exact State.modFw_memOk h
  | arpRequest => exact execArpRequest_memOk h
  | neighbourDiscovery => exact execNeighbourDiscovery_memOk h
  | icmpEcho => exact execIcmpEcho_memOk h
  | priorityFlowControl => exact execPriorityFlowControl_memOk h
  | rdmaWrite => exact execRdmaWrite_memOk h
  | rdmaRead => exact execRdmaRead_memOk h
  | contextSwitch => exact execContextSwitch_memOk h
  | ethernetLinkFormed => exact execEthernetLinkFormed_memOk h
  | unknownOpcode => exact execUnknownOpcode_memOk h

end

/-! ### Due events (Machine/Schedule) -/

section

variable {s : State}

theorem Due.run_memOk {d : Due} (h : State.memOk s) : Outcome.memOk (Due.run d s) := by
  cases d with
  | bandSelect => exact execBandSelect_memOk h
  | clauseWaitRelease => exact execClauseWaitRelease_memOk h
  | switchPoint => exact execSwitchPoint_memOk h
  | longLatencyResultLands => exact execLongLatencyResultLands_memOk h
  | storeAcknowledge => exact execStoreAcknowledge_memOk h
  | sramRemoteAccess => exact execSramRemoteAccess_memOk h
  | translationRequest => exact execTranslationRequest_memOk h
  | translationWalk => exact execTranslationWalk_memOk h
  | pageFaultResponse => exact execPageFaultResponse_memOk h
  | faultRecordPost => exact execFaultRecordPost_memOk h
  | faultRecordServe => exact execFaultRecordServe_memOk h
  | regenComplete => exact execRegenComplete_memOk h
  | accessBitScan => exact execAccessBitScan_memOk h
  | pageMove => exact execPageMove_memOk h
  | mtinvGo => exact execMtinvGo_memOk h
  | mtinvComplete => exact execMtinvComplete_memOk h
  | ffaddWrite => exact execFfaddWrite_memOk h
  | fqtailWrite => exact execFqtailWrite_memOk h
  | cohRdS => exact execCohRdS_memOk h
  | cohRdX => exact execCohRdX_memOk h
  | cohUpg => exact execCohUpg_memOk h
  | cohPutM => exact execCohPutM_memOk h
  | cohPutE => exact execCohPutE_memOk h
  | cohFwd => exact execCohFwd_memOk h
  | cohInv => exact execCohInv_memOk h
  | cohData => exact execCohData_memOk h
  | cohCmp => exact execCohCmp_memOk h
  | cohFwdAck => exact execCohFwdAck_memOk h
  | cohInvAck => exact execCohInvAck_memOk h
  | cohPutAck => exact execCohPutAck_memOk h
  | flitCrcReplay => exact execFlitCrcReplay_memOk h
  | watchWake => exact execWatchWake_memOk h
  | monitorPoll => exact execMonitorPoll_memOk h
  | copyAccept => exact execCopyAccept_memOk h
  | copyUnit => exact execCopyUnit_memOk h
  | copyComplete => exact execCopyComplete_memOk h
  | ceresResume => exact execCeresResume_memOk h
  | ceresAbort => exact execCeresAbort_memOk h
  | copyQuiesce => exact execCopyQuiesce_memOk h
  | stationServe => exact serveStation_memOk h
  | lateSplit => exact execLateSplit_memOk h
  | streamBufferTimeout => exact execStreamBufferTimeout_memOk h
  | streamIdleClose => exact execStreamIdleClose_memOk h
  | streamReopenTimeout => exact execStreamReopenTimeout_memOk h
  | mmaOperationStart => exact execMmaOperationStart_memOk h
  | mmaStep => exact execMmaStep_memOk h
  | matrixQuiesce => exact execMatrixQuiesce_memOk h
  | enckeAccept => exact execEnckeAccept_memOk h
  | keyStaging => exact execKeyStaging_memOk h
  | pkqQuery => exact execPkqQuery_memOk h
  | enckeRowGather => exact execEnckeRowGather_memOk h
  | pkuQuery => exact execPkuQuery_memOk h
  | enckeRowUpdate => exact execEnckeRowUpdate_memOk h
  | enckeComplete => exact execEnckeComplete_memOk h
  | pkstatStatusWrite => exact execPkstatStatusWrite_memOk h
  | ekresResume => exact execEkresResume_memOk h
  | ekresAbort => exact execEkresAbort_memOk h
  | enckeQuiesce => exact execEnckeQuiesce_memOk h
  | fenceComplete => exact execFenceComplete_memOk h
  | rejoinDeadlockDetect => exact execRejoinDeadlockDetect_memOk h
  | timerFire => exact execTimerFire_memOk h
  | bandEnd => exact execBandEnd_memOk h
  | barWatchdogExpiry => exact execBarWatchdogExpiry_memOk h
  | waitaTimeout => exact execWaitaTimeout_memOk h
  | counterWaitRelease => exact execCounterWaitRelease_memOk h
  | teamPlace => exact execTeamPlace_memOk h
  | kickWrite => exact State.modHub_memOk h
  | kickDepk2Timer => exact execKickDepk2Timer_memOk h
  | gridComplete => exact execGridComplete_memOk h
  | cbwaitPoll => exact execCbwaitPoll_memOk h
  | coreBucketRefill => exact execCoreBucketRefill_memOk h
  | governorHubCycle => exact execGovernorHubCycle_memOk h
  | pwintIntentExpiry => exact execPwintIntentExpiry_memOk h
  | passCountChargeAdjust => exact execPassCountChargeAdjust_memOk h
  | thermalMigration => exact execThermalMigration_memOk h
  | thermalPassFall => exact execThermalPassFall_memOk h
  | thermalTrip => exact State.reset_memOk
  | powerIntentSend => exact execPowerIntentSend_memOk h
  | calendarAdvance => exact State.modHub_memOk h
  | schedulerTakeover => exact execSchedulerTakeover_memOk h
  | deimosFailure => exact execDeimosFailure_memOk h
  | noticePost => exact execNoticePost_memOk h
  | nqWrite => exact State.modHub_memOk h
  | fragReady => exact execFragReady_memOk h
  | fragPoison => exact execFragPoison_memOk h
  | fragDiscard => exact execFragDiscard_memOk h
  | fragmentReplay => exact execFragmentReplay_memOk h
  | fragFullResume => exact execFragFullResume_memOk h
  | preemptBudgetExpiry => exact execPreemptBudgetExpiry_memOk h
  | teamSave => exact execTeamSave_memOk h
  | teamRestore => exact execTeamRestore_memOk h
  | registerWrite => exact execRegisterWrite_memOk h
  | powerOn => exact execPowerOn_memOk
  | fwStatus => exact execFwStatus_memOk h
  | diagFailureRecord => exact execDiagFailureRecord_memOk h
  | sessionOpen => exact execSessionOpen_memOk h
  | sessionProve => exact execSessionProve_memOk h
  | sessionClose => exact execSessionClose_memOk h
  | loadConfig => exact execLoadConfig_memOk h
  | readCounters => exact execReadCounters_memOk h
  | powerGroup => exact execPowerGroup_memOk h
  | fwAttest => exact execFwAttest_memOk h
  | unknownOpcode => exact execUnknownOpcode_memOk h
  | diagRerunStage5 => exact execDiagRerunStage5_memOk h
  | sessionCtxnew => exact execSessionCtxnew_memOk h
  | sessionCtxend => exact execSessionCtxend_memOk h
  | fwMap => exact execFwMap_memOk h
  | fwUnmap => exact execFwUnmap_memOk h
  | loadRoute => exact execLoadRoute_memOk h
  | loadSavepool => exact execLoadSavepool_memOk h
  | regenRegister => exact execRegenRegister_memOk h
  | hostLaunch => exact execHostLaunch_memOk h
  | hostWait => exact execHostWait_memOk h
  | waitTimeout => exact execWaitTimeout_memOk h
  | resetUnitMreset => exact execResetUnitMreset_memOk h
  | resetUnitStopContext => exact execResetUnitStopContext_memOk h
  | resetUnitClearCounts => exact execResetUnitClearCounts_memOk h
  | resetUnitRetrainEthernet => exact execResetUnitRetrainEthernet_memOk h
  | resetUnitRetrainStation => exact execResetUnitRetrainStation_memOk h
  | sessionIdleTimeout => exact execSessionIdleTimeout_memOk h
  | reassemblyTimeout => exact State.modFw_memOk h
  | rdmaWrite => exact execRdmaWrite_memOk h
  | rdmaRead => exact ite_memOk (readMore_memOk h) h
  | contextSwitch => exact execContextSwitch_memOk h
  | ethernetLinkFormed => exact execEthernetLinkFormed_memOk h
  | viewWrite => exact execViewWrite_memOk h

theorem runIssue_memOk {iss : Issue} (h : State.memOk s) : Outcome.memOk (runIssue iss s) := by
  unfold runIssue
  split
  · exact endIssue_memOk (refund_memOk h)
  · dsimp only
    split
    · exact exec_memOk h
    · exact endIssue_memOk (deliverAll_memOk h)
    · exact endIssue_memOk (fetchFails_memOk h)
    · exact endIssue_memOk (fetchFails_memOk h)
    · exact endIssue_memOk (fetchFails_memOk h)
    · exact endIssue_memOk (askClause_memOk (refund_memOk h))

theorem choose_memOk {n : Nat} (h : State.memOk s) : State.memOk (choose n s).2 := by
  unfold choose
  split <;> exact h

theorem runNext_memOk (h : State.memOk s) : Outcome.memOk (runNext s) := by
  unfold runNext
  refine Outcome.ite_memOk h ?_
  split
  all_goals
    split
    · dsimp only
      split
      · exact Due.run_memOk (choose_memOk h)
      · exact exec_memOk (choose_memOk h)
    · dsimp only
      split
      · exact Due.run_memOk (choose_memOk h)
      · exact h

end

/-! ### The step (Machine/Step) -/

section

variable {s : State}

theorem step_memOk (h : State.memOk s) : Outcome.memOk (step s) := by
  unfold step
  split
  · exact runIssue_memOk h
  · split
    · exact Due.run_memOk h
    · exact runNext_memOk h

end

/-- Settles O2: at reset the three memories are empty. -/
theorem resetMemory : Obligations.ResetMemory := State.reset_memOk

/-- Settles O3, from what each step of the package keeps. -/
theorem stepKeepsMemory : Obligations.StepKeepsMemory := by
  unfold Obligations.StepKeepsMemory
  intro s t h e
  exact Outcome.of_next (step_memOk h) e

end Sys2Proof.Machine

namespace Sys2Proof.Enc

/-! # Words and instructions (spec/02_clauses_and_formats.md R40 to R46)

Each shape of the decoder answers `.ok o` just where the layouts of the two words hold the fields of `o`; that gives decode of
encode and encode of decode at once. The opcode map is then read row by row. -/


/-! ## Fields of a word -/

theorem fld_val (n lo m : Nat) [NeZero m] : (fld n lo m).val = n / 2 ^ lo % m := rfl

theorem bit_toNat (n lo : Nat) : (bit n lo).toNat = n / 2 ^ lo % 2 := by
  unfold bit
  rcases Nat.mod_two_eq_zero_or_one (n / 2 ^ lo) with h | h <;> simp [h]

theorem bits_toNat (n lo w : Nat) : (bits n lo w).toNat = n / 2 ^ lo % 2 ^ w := by simp [bits]

theorem fld_eq {n lo m : Nat} [NeZero m] {k : Fin m} (h : n / 2 ^ lo % m = k.val) : fld n lo m = k := Fin.ext h

theorem bit_eq {n lo : Nat} {b : Bool} (h : n / 2 ^ lo % 2 = b.toNat) : bit n lo = b := by
  unfold bit
  cases b <;> simp [h]

theorem bits_eq {n lo w : Nat} {k : BitVec w} (h : n / 2 ^ lo % 2 ^ w = k.toNat) : bits n lo w = k :=
  BitVec.eq_of_toNat_eq (by rw [bits_toNat, h])

/-- The bits of `n` from `lo` on are the field of width `w` there and the bits above it. -/
theorem div_split (n lo w : Nat) : n / 2 ^ lo = 2 ^ w * (n / 2 ^ (lo + w)) + n / 2 ^ lo % 2 ^ w := by
  rw [Nat.pow_add, ← Nat.div_div_eq_div_mul, Nat.div_add_mod]

/-- A layout of the first word: reading its fields back from the word gives them, and every 23-bit word is one. -/
structure FirstWord {β : Type} (rd : Nat → β) (wr : β → Nat) : Prop where
  rd_wr : ∀ x, rd (wr x) = x
  wr_rd : ∀ n, n < 2 ^ 23 → wr (rd n) = n
  wr_lt : ∀ x, wr x < 2 ^ 23

/-- A layout of the extension word with `sel` in bits [31:30]. -/
structure Extension {β : Type} (sel : Nat) (rd : Nat → β) (wr : β → Nat) : Prop where
  rd_wr : ∀ x, rd (wr x) = x
  wr_rd : ∀ n, n < 2 ^ 32 → n / 2 ^ 30 % 4 = sel → wr (rd n) = n
  wr_lt : ∀ x, wr x < 2 ^ 32
  wr_sel : ∀ x, wr x / 2 ^ 30 % 4 = sel

/-! ## The layouts of the first word (R40) -/

theorem wv : FirstWord WV.of WV.to where
  rd_wr := fun ⟨ts, d, a, b⟩ => by
    simp only [WV.of, WV.to, WV.mk.injEq]
    refine ⟨fld_eq ?_, fld_eq ?_, fld_eq ?_, fld_eq ?_⟩ <;> omega
  wr_rd := fun n h => by
    simp only [WV.of, WV.to, fld_val]
    omega
  wr_lt := fun ⟨ts, d, a, b⟩ => by
    simp only [WV.to]
    omega

theorem ws : FirstWord WS.of WS.to where
  rd_wr := fun ⟨sub, sd, sa⟩ => by
    simp only [WS.of, WS.to, WS.mk.injEq]
    refine ⟨fld_eq ?_, fld_eq ?_, fld_eq ?_⟩ <;> omega
  wr_rd := fun n h => by
    simp only [WS.of, WS.to, fld_val]
    omega
  wr_lt := fun ⟨sub, sd, sa⟩ => by
    simp only [WS.to]
    omega

theorem wt : FirstWord WT.of WT.to where
  rd_wr := fun ⟨sub, td, ta, sa⟩ => by
    simp only [WT.of, WT.to, WT.mk.injEq]
    refine ⟨fld_eq ?_, fld_eq ?_, fld_eq ?_, fld_eq ?_⟩ <;> omega
  wr_rd := fun n h => by
    simp only [WT.of, WT.to, fld_val]
    omega
  wr_lt := fun ⟨sub, td, ta, sa⟩ => by
    simp only [WT.to]
    omega

theorem we : FirstWord WE.of WE.to where
  rd_wr := fun ⟨sub, sa, sb⟩ => by
    simp only [WE.of, WE.to, WE.mk.injEq]
    refine ⟨fld_eq ?_, fld_eq ?_, fld_eq ?_⟩ <;> omega
  wr_rd := fun n h => by
    simp only [WE.of, WE.to, fld_val]
    omega
  wr_lt := fun ⟨sub, sa, sb⟩ => by
    simp only [WE.to]
    omega

theorem wc : FirstWord WC.of WC.to where
  rd_wr := fun ⟨sub, ⟨neg, c⟩, imm⟩ => by
    have := neg.toNat_lt
    simp only [WC.of, WC.to, guardAt, WC.mk.injEq, Guard.mk.injEq]
    refine ⟨fld_eq ?_, ⟨bit_eq ?_, fld_eq ?_⟩, bits_eq ?_⟩ <;> omega
  wr_rd := fun n h => by
    simp only [WC.of, WC.to, guardAt, fld_val, bit_toNat, bits_toNat]
    omega
  wr_lt := fun ⟨sub, ⟨neg, c⟩, imm⟩ => by
    have := neg.toNat_lt
    simp only [WC.to]
    omega

/-! ## The layouts of the extension word (R41) -/

theorem xr : Extension 0 XR.of XR.to where
  rd_wr := fun ⟨⟨neg, c⟩, rnd, sat, bs, md, cc, ss⟩ => by
    have := neg.toNat_lt; have := sat.toNat_lt; have := bs.toNat_lt
    simp only [XR.of, XR.to, guardAt, XR.mk.injEq, Guard.mk.injEq]
    refine ⟨⟨bit_eq ?_, fld_eq ?_⟩, fld_eq ?_, bit_eq ?_, bit_eq ?_, fld_eq ?_, fld_eq ?_, fld_eq ?_⟩ <;> omega
  wr_rd := fun n h hs => by
    have h0 := div_split n 0 10
    have h10 := div_split n 10 7
    have h17 := div_split n 17 4
    have h21 := div_split n 21 1
    have h22 := div_split n 22 1
    have h23 := div_split n 23 3
    have h26 := div_split n 26 3
    have h29 := div_split n 29 1
    have h30 : n / 2 ^ 30 = 0 := by omega
    simp only [XR.of, XR.to, guardAt, fld_val, bit_toNat]
    norm_num at *
    omega
  wr_lt := fun ⟨⟨neg, c⟩, rnd, sat, bs, md, cc, ss⟩ => by
    have := neg.toNat_lt; have := sat.toNat_lt; have := bs.toNat_lt
    simp only [XR.to]
    omega
  wr_sel := fun ⟨⟨neg, c⟩, rnd, sat, bs, md, cc, ss⟩ => by
    have := neg.toNat_lt; have := sat.toNat_lt; have := bs.toNat_lt
    simp only [XR.to]
    omega

theorem xi : Extension 1 XI.of XI.to where
  rd_wr := fun ⟨⟨neg, c⟩, rnd, sat, md, imm⟩ => by
    have := neg.toNat_lt; have := sat.toNat_lt
    simp only [XI.of, XI.to, guardAt, XI.mk.injEq, Guard.mk.injEq]
    refine ⟨⟨bit_eq ?_, fld_eq ?_⟩, fld_eq ?_, bit_eq ?_, fld_eq ?_, bits_eq ?_⟩ <;> omega
  wr_rd := fun n h hs => by
    have h0 := div_split n 0 16
    have h16 := div_split n 16 6
    have h22 := div_split n 22 1
    have h23 := div_split n 23 3
    have h26 := div_split n 26 3
    have h29 := div_split n 29 1
    have h30 : n / 2 ^ 30 = 1 := by omega
    simp only [XI.of, XI.to, guardAt, fld_val, bit_toNat, bits_toNat]
    norm_num at *
    omega
  wr_lt := fun ⟨⟨neg, c⟩, rnd, sat, md, imm⟩ => by
    have := neg.toNat_lt; have := sat.toNat_lt
    simp only [XI.to]
    omega
  wr_sel := fun ⟨⟨neg, c⟩, rnd, sat, md, imm⟩ => by
    have := neg.toNat_lt; have := sat.toNat_lt
    simp only [XI.to]
    omega

theorem xm : Extension 2 XM.of XM.to where
  rd_wr := fun ⟨⟨neg, c⟩, scope, order, dc, off, ss⟩ => by
    have := neg.toNat_lt
    simp only [XM.of, XM.to, guardAt, XM.mk.injEq, Guard.mk.injEq]
    refine ⟨⟨bit_eq ?_, fld_eq ?_⟩, fld_eq ?_, fld_eq ?_, fld_eq ?_, bits_eq ?_, fld_eq ?_⟩ <;> omega
  wr_rd := fun n h hs => by
    have h0 := div_split n 0 10
    have h10 := div_split n 10 8
    have h18 := div_split n 18 3
    have h21 := div_split n 21 2
    have h23 := div_split n 23 3
    have h26 := div_split n 26 3
    have h29 := div_split n 29 1
    have h30 : n / 2 ^ 30 = 2 := by omega
    simp only [XM.of, XM.to, guardAt, fld_val, bit_toNat, bits_toNat]
    norm_num at *
    omega
  wr_lt := fun ⟨⟨neg, c⟩, scope, order, dc, off, ss⟩ => by
    have := neg.toNat_lt
    simp only [XM.to]
    omega
  wr_sel := fun ⟨⟨neg, c⟩, scope, order, dc, off, ss⟩ => by
    have := neg.toNat_lt
    simp only [XM.to]
    omega

theorem xe : Extension 3 XE.of XE.to where
  rd_wr := fun ⟨scope, order, dc, sc, va, ⟨neg, c⟩, low⟩ => by
    have := neg.toNat_lt; have := low.toNat_lt
    simp only [XE.of, XE.to, guardAt, XE.mk.injEq, Guard.mk.injEq]
    refine ⟨fld_eq ?_, fld_eq ?_, fld_eq ?_, fld_eq ?_, fld_eq ?_, ⟨bit_eq ?_, fld_eq ?_⟩, bit_eq ?_⟩ <;> omega
  wr_rd := fun n h hs => by
    have h0 := div_split n 0 1
    have h1 := div_split n 1 3
    have h4 := div_split n 4 1
    have h5 := div_split n 5 7
    have h12 := div_split n 12 10
    have h22 := div_split n 22 3
    have h25 := div_split n 25 2
    have h27 := div_split n 27 3
    have h30 : n / 2 ^ 30 = 3 := by omega
    simp only [XE.of, XE.to, guardAt, fld_val, bit_toNat]
    norm_num at *
    omega
  wr_lt := fun ⟨scope, order, dc, sc, va, ⟨neg, c⟩, low⟩ => by
    have := neg.toNat_lt; have := low.toNat_lt
    simp only [XE.to]
    omega
  wr_sel := fun ⟨scope, order, dc, sc, va, ⟨neg, c⟩, low⟩ => by
    have := neg.toNat_lt; have := low.toNat_lt
    simp only [XE.to]
    omega

/-! ## Forms: a shape read from the words and written to them -/

variable {α β γ : Type}

/-- A short form: its decoder reads what its encoder writes, and what it reads is written back to the same first word. -/
structure ShortForm (dec : Body → Dec α) (enc : α → Body) : Prop where
  short : ∀ o, (enc o).l = false
  w0_lt : ∀ o, (enc o).w0 < 2 ^ 23
  w1_zero : ∀ o, (enc o).w1 = 0
  dec_enc : ∀ o, dec (enc o) = .ok o
  enc_dec : ∀ b o, b.w0 < 2 ^ 23 → dec b = .ok o → (enc o).w0 = b.w0

/-- A long form with layout selector `n`, of the operands that meet `P`. -/
structure LongForm (n : Nat) (P : α → Prop) (dec : Body → Dec α) (enc : α → Body) : Prop where
  long : ∀ o, (enc o).l = true
  w0_lt : ∀ o, (enc o).w0 < 2 ^ 23
  w1_lt : ∀ o, (enc o).w1 < 2 ^ 32
  w1_sel : ∀ o, (enc o).w1 / 2 ^ 30 % 4 = n
  dec_enc : ∀ o, P o → dec (enc o) = .ok o
  enc_dec : ∀ b o, b.w0 < 2 ^ 23 → b.w1 < 2 ^ 32 → b.w1 / 2 ^ 30 % 4 = n → dec b = .ok o →
    (enc o).w0 = b.w0 ∧ (enc o).w1 = b.w1

theorem FirstWord.form {rd : Nat → β} {wr : β → Nat} (W : FirstWord rd wr) {dec : Body → Dec α} {f : α → β}
    (h : ∀ b o, dec b = .ok o ↔ rd b.w0 = f o) : ShortForm dec fun o => ⟨false, wr (f o), 0⟩ where
  short _ := rfl
  w0_lt _ := W.wr_lt _
  w1_zero _ := rfl
  dec_enc o := (h _ _).mpr (W.rd_wr _)
  enc_dec b o hb e := by rw [← (h b o).mp e, W.wr_rd _ hb]

theorem FirstWord.longForm {rd : Nat → β} {wr : β → Nat} {n : Nat} {rx : Nat → γ} {wx : γ → Nat} (W : FirstWord rd wr)
    (X : Extension n rx wx) {P : α → Prop} {dec : Body → Dec α} {f : α → β} {g : α → γ}
    (h : ∀ b o, dec b = .ok o ↔ P o ∧ rd b.w0 = f o ∧ rx b.w1 = g o) :
    LongForm n P dec fun o => ⟨true, wr (f o), wx (g o)⟩ where
  long _ := rfl
  w0_lt _ := W.wr_lt _
  w1_lt _ := X.wr_lt _
  w1_sel _ := X.wr_sel _
  dec_enc o p := (h _ _).mpr ⟨p, W.rd_wr _, X.rd_wr _⟩
  enc_dec b o h0 h1 hs e := by
    obtain ⟨-, e0, e1⟩ := (h b o).mp e
    rw [← e0, ← e1]
    exact ⟨W.wr_rd _ h0, X.wr_rd _ h1 hs⟩

/-! ## Codes -/

/-- `code` gives the one number that `of` reads as each value. -/
def Coded {m : Nat} (of : Fin m → Option α) (code : α → Fin m) : Prop := ∀ n t, of n = some t ↔ n = code t

theorem wdSub_coded : Coded wdOfSub wdSub := by intro n t; cases t <;> revert n <;> decide
theorem itySub_coded : Coded ityOfSub itySub := by intro n t; cases t <;> revert n <;> decide
theorem cmpSub_coded : Coded cmpOfSub cmpSub := by intro n t; cases t <;> revert n <;> decide
theorem moviSub_coded : Coded moviOfSub moviSub := by intro n t; cases t <;> revert n <;> decide
theorem moviTs_coded : Coded moviOfTs moviTs := by intro n t; cases t <;> revert n <;> decide
theorem wdTs_coded : Coded wdOfTs wdTs := by intro n t; cases t <;> revert n <;> decide
theorem ityTs_coded : Coded ityOfTs ityTs := by intro n t; cases t <;> revert n <;> decide
theorem ftyTs_coded : Coded ftyOfTs ftyTs := by intro n t; cases t <;> revert n <;> decide
theorem gtyTs_coded : Coded gtyOfTs gtyTs := by intro n t; cases t <;> revert n <;> decide
theorem rnd_coded : Coded rndOf rndCode := by intro n t; cases t <;> revert n <;> decide
theorem fcmp_coded : Coded fcmpOf fcmpCode := by intro n t; cases t <;> revert n <;> decide
theorem cmp16_coded : Coded cmpOf16 cmpCode16 := by intro n t; cases t <;> revert n <;> decide
theorem cmp64_coded : Coded cmpOf64 cmpCode64 := by intro n t; cases t <;> revert n <;> decide
theorem scope_coded : Coded scopeOf scopeCode := by intro n t; cases t <;> revert n <;> decide
theorem nty_coded : Coded ntyOf ntyCode := by intro n t; cases t <;> revert n <;> decide
theorem wty_coded : Coded wtyOf wtyCode := by intro n t; cases t <;> revert n <;> decide
theorem sty_coded : Coded styOf styCode := by intro n t; cases t <;> revert n <;> decide
theorem unit_coded : Coded unitOf unitCode := by unfold Coded; decide
theorem lvl_coded : Coded lvlOf lvlCode := by intro n t; cases t <;> revert n <;> decide
theorem aop_coded : Coded aopOf aopCode := by intro n t; cases t <;> revert n <;> decide
theorem aw_coded : Coded awOf awCode := by intro n t; cases t <;> revert n <;> decide
theorem win_coded : Coded winOf winCode := by intro n t; cases t <;> revert n <;> decide
theorem barForm_coded : Coded barFormOf barFormCode := by intro n t; cases t <;> revert n <;> decide
theorem flag_coded : Coded flagOf flagCode := by intro n t; cases t <;> revert n <;> decide
theorem ordered_coded (n : Fin 4) (o : Order) : orderOf n = o ↔ n = orderCode o := by cases o <;> revert n <;> decide
theorem ty_coded (n : Fin 16) (t : TyCode) : tyOf n = t ↔ n = tyCode t := by cases t <;> revert n <;> decide
theorem pfx_coded : Coded pfxOf pfxCode := by rintro n ⟨op, ex⟩; cases op <;> cases ex <;> (revert n; decide)
theorem fence_coded (sub : Fin 8) (order : Fin 4) (k : FenceKind) :
    fenceOf sub order = some k ↔ sub = fenceSub k ∧ order = fenceOrder k := by
  cases k <;> revert sub order <;> decide
theorem ityW_coded (sub : Fin 8) (md : Fin 64) (t : ITy) : ityOfW sub md = some t ↔ sub = ityWSub t ∧ md = ityWMod t := by
  cases t <;> revert sub md <;> decide
theorem pred_coded (n : Fin 16) (p : Pred) : predOf n = p ↔ n = predCode p := by
  obtain ⟨neg, c⟩ := p
  cases neg <;> revert n c <;> decide
theorem cbit_coded : Coded cbitOf cbitCode := by unfold Coded; decide
theorem cdst_coded : Coded cdstOf cdstCode := by unfold Coded; decide
theorem tyC_coded : Coded tyOfC tyC := by intro n t; cases t <;> revert n <;> decide
theorem dcCounted_coded : Coded dcOfCounted dcCodeCounted := by unfold Coded; decide
theorem dc_coded : Coded dcOf dcCode := by
  rintro n (_ | k)
  · revert n; decide
  · revert n k; decide

/-! ## What the decoder's steps answer -/

@[simp] theorem zeros_eq_ok {c : Bool} {k : Dec α} {o : α} : zeros c k = .ok o ↔ c = true ∧ k = .ok o := by
  cases c <;> simp [zeros]

@[simp] theorem allowed_eq_ok {c : Bool} {k : Dec α} {o : α} : allowed c k = .ok o ↔ c = true ∧ k = .ok o := by
  cases c <;> simp [allowed]

@[simp] theorem sel_eq_ok {x : Option β} {k : β → Dec α} {o : α} : sel x k = .ok o ↔ ∃ y, x = some y ∧ k y = .ok o := by
  cases x <;> simp [sel]

@[simp] theorem put_eq_ok {c : α → Instr} {d : Dec α} {i : Instr} : put c d = .ok i ↔ ∃ o, d = .ok o ∧ c o = i := by
  cases d <;> simp [put]

theorem srcOf_eq_ok {b : VReg} {bs : Bool} {ss : SReg} {k : VSrc → Dec α} {o : α} :
    srcOf b bs ss k = .ok o ↔ ∃ s, b = srcB s ∧ bs = srcBs s ∧ ss = srcSs s ∧ k s = .ok o := by
  constructor
  · intro h
    cases bs with
    | false =>
      obtain ⟨hs, hk⟩ : ss = 0 ∧ k (.vec b) = .ok o := by simpa [srcOf] using h
      exact ⟨.vec b, rfl, rfl, hs, hk⟩
    | true =>
      obtain ⟨hb, hk⟩ : b = 0 ∧ k (.sca ss) = .ok o := by simpa [srcOf] using h
      exact ⟨.sca ss, hb, rfl, rfl, hk⟩
  · rintro ⟨s, rfl, rfl, rfl, hk⟩
    cases s <;> simpa [srcOf, srcB, srcBs, srcSs] using hk

theorem cwOf_eq_ok {sub scope : Fin 8} {order : Fin 4} {k : Option Scope → Dec α} {o : α} :
    cwOf sub scope order k = .ok o ↔ ∃ cw, sub = cwSub cw ∧ scope = cwScope cw ∧ order = cwOrder cw ∧ k cw = .ok o := by
  constructor
  · intro h
    unfold cwOf at h
    split at h
    · next hs =>
      obtain ⟨⟨rfl, rfl⟩, hk⟩ : (scope = 0 ∧ order = 0) ∧ k none = .ok o := by simpa using h
      exact ⟨none, hs, rfl, rfl, hk⟩
    · split at h
      · next hs =>
        obtain ⟨rfl, sc, hsc, hk⟩ : order = 2 ∧ ∃ sc, scopeOf scope = some sc ∧ k (some sc) = .ok o := by simpa using h
        exact ⟨some sc, hs, (scope_coded _ _).mp hsc, rfl, hk⟩
      · cases h
  · rintro ⟨cw, rfl, rfl, rfl, hk⟩
    cases cw with
    | none => simpa [cwOf, cwSub, cwScope, cwOrder] using hk
    | some sc => simpa [cwOf, cwSub, cwScope, cwOrder, (scope_coded _ _).mpr rfl] using hk

theorem posLen_eq_ok {imm : BitVec 16} {k : Fin 64 → Fin 64 → Dec α} {o : α} :
    posLen imm k = .ok o ↔ ∃ p n, imm = posLenBits p n ∧ k p n = .ok o := by
  constructor
  · intro h
    obtain ⟨⟨h6, h14⟩, hk⟩ : (imm.toNat / 64 % 4 = 0 ∧ imm.toNat / 16384 = 0)
        ∧ k (fld imm.toNat 0 64) (fld imm.toNat 8 64) = .ok o := by simpa [posLen] using h
    refine ⟨_, _, BitVec.eq_of_toNat_eq ?_, hk⟩
    simp only [posLenBits, fld_val, BitVec.toNat_ofNat]
    omega
  · rintro ⟨p, n, rfl, hk⟩
    have e : (posLenBits p n).toNat = n.val * 256 + p.val := by
      simp only [posLenBits, BitVec.toNat_ofNat]
      omega
    have hp : fld (n.val * 256 + p.val) 0 64 = p := fld_eq (by omega)
    have hn : fld (n.val * 256 + p.val) 8 64 = n := fld_eq (by omega)
    have h6 : (n.val * 256 + p.val) / 64 % 4 = 0 := by omega
    have h14 : (n.val * 256 + p.val) / 16384 = 0 := by omega
    simpa [posLen, e, hp, hn, h6, h14] using hk

theorem atomField_eq_ok {f : BitVec 8} {x : AtomField} : atomField f = .ok x ↔ f = atomBits x := by
  obtain ⟨op, aw, sgn⟩ := x
  have hs := sgn.toNat_lt
  have ho := (aopCode op).isLt
  have ha := (awCode aw).isLt
  constructor
  · intro h
    obtain ⟨h0, hop, haw, rfl⟩ : bit f.toNat 0 = false ∧ aopOf (fld f.toNat 4 16) = some op ∧ awOf (fld f.toNat 2 4) = some aw
        ∧ bit f.toNat 1 = sgn := by simpa [atomField] using h
    have e0 := congrArg Bool.toNat h0
    have eop := congrArg Fin.val ((aop_coded _ _).mp hop)
    have eaw := congrArg Fin.val ((aw_coded _ _).mp haw)
    apply BitVec.eq_of_toNat_eq
    simp only [fld_val, bit_toNat, Bool.toNat_false] at e0 eop eaw
    simp only [atomBits, ← eop, ← eaw, bit_toNat, BitVec.toNat_ofNat]
    omega
  · rintro rfl
    have e : (atomBits ⟨op, aw, sgn⟩).toNat = (aopCode op).val * 16 + (awCode aw).val * 4 + sgn.toNat * 2 := by
      simp only [atomBits, BitVec.toNat_ofNat]
      omega
    have h0 : bit ((aopCode op).val * 16 + (awCode aw).val * 4 + sgn.toNat * 2) 0 = false := bit_eq (by simp; omega)
    have h1 : bit ((aopCode op).val * 16 + (awCode aw).val * 4 + sgn.toNat * 2) 1 = sgn := bit_eq (by omega)
    have h2 : fld ((aopCode op).val * 16 + (awCode aw).val * 4 + sgn.toNat * 2) 2 4 = awCode aw := fld_eq (by omega)
    have h4 : fld ((aopCode op).val * 16 + (awCode aw).val * 4 + sgn.toNat * 2) 4 16 = aopCode op := fld_eq (by omega)
    simp [atomField, e, h0, h1, h2, h4, (aop_coded _ _).mpr rfl, (aw_coded _ _).mpr rfl]

theorem winField_eq_ok {f : BitVec 8} {w : Window} {dir : Bool} : winField f = .ok (w, dir) ↔ f = winBits w dir := by
  have hd := dir.toNat_lt
  have hw := (winCode w).isLt
  constructor
  · intro h
    obtain ⟨h0, hwin, rfl⟩ : fld f.toNat 0 16 = 0 ∧ winOf (fld f.toNat 5 8) = some w ∧ bit f.toNat 4 = dir := by
      simpa [winField] using h
    have e0 := congrArg Fin.val h0
    have ew := congrArg Fin.val ((win_coded _ _).mp hwin)
    apply BitVec.eq_of_toNat_eq
    simp only [fld_val, Fin.val_zero] at e0 ew
    simp only [winBits, ← ew, bit_toNat, BitVec.toNat_ofNat]
    omega
  · rintro rfl
    have e : (winBits w dir).toNat = (winCode w).val * 32 + dir.toNat * 16 := by
      simp only [winBits, BitVec.toNat_ofNat]
      omega
    have h0 : fld ((winCode w).val * 32 + dir.toNat * 16) 0 16 = 0 := fld_eq (by simp; omega)
    have h4 : bit ((winCode w).val * 32 + dir.toNat * 16) 4 = dir := bit_eq (by omega)
    have h5 : fld ((winCode w).val * 32 + dir.toNat * 16) 5 8 = winCode w := fld_eq (by omega)
    simp [winField, e, h0, h4, h5, (win_coded _ _).mpr rfl]

/-! ## Narrow values in wider fields -/

/-- An immediate whose bits from `k` on are zero is the number in its low `k` bits. -/
theorem imm_eq_low {k m : Nat} [NeZero m] (hm : m = 2 ^ k) (hk : k ≤ 16) {imm : BitVec 16} {x : Fin m} :
    imm.toNat / m = 0 ∧ fld imm.toNat 0 m = x ↔ imm = BitVec.ofNat 16 x.val := by
  have h16 : 2 ^ k ≤ 2 ^ 16 := Nat.pow_le_pow_right (by omega) hk
  have hx : x.val < 2 ^ 16 := by omega
  constructor
  · rintro ⟨h, rfl⟩
    apply BitVec.eq_of_toNat_eq
    have : imm.toNat < m := (Nat.div_eq_zero_iff_lt (NeZero.pos m)).mp h
    simp [fld_val, Nat.mod_eq_of_lt this]
  · rintro rfl
    have e : (BitVec.ofNat 16 x.val).toNat = x.val := by rw [BitVec.toNat_ofNat, Nat.mod_eq_of_lt hx]
    rw [e]
    exact ⟨Nat.div_eq_of_lt x.isLt, fld_eq (by rw [Nat.pow_zero, Nat.div_one, Nat.mod_eq_of_lt x.isLt])⟩

/-- The same for a pattern of `k` bits. -/
theorem imm_eq_pattern {k : Nat} (hk : k ≤ 16) {imm : BitVec 16} {x : BitVec k} :
    imm.toNat < 2 ^ k ∧ imm.setWidth k = x ↔ imm = x.setWidth 16 := by
  have h16 : 2 ^ k ≤ 2 ^ 16 := Nat.pow_le_pow_right (by omega) hk
  have hx : x.toNat % 2 ^ 16 = x.toNat := Nat.mod_eq_of_lt (Nat.lt_of_lt_of_le x.isLt h16)
  have hi : imm.toNat % 2 ^ 16 = imm.toNat := Nat.mod_eq_of_lt imm.isLt
  constructor
  · rintro ⟨h, rfl⟩
    exact BitVec.eq_of_toNat_eq (by rw [BitVec.toNat_setWidth, BitVec.toNat_setWidth, Nat.mod_eq_of_lt h, hi])
  · rintro rfl
    refine ⟨?_, BitVec.eq_of_toNat_eq ?_⟩
    · rw [BitVec.toNat_setWidth, hx]
      exact x.isLt
    · rw [BitVec.toNat_setWidth, BitVec.toNat_setWidth, hx, Nat.mod_eq_of_lt x.isLt]

/-- The same for a flag in bit 0. -/
theorem imm_eq_flag {imm : BitVec 16} {p : Bool} :
    imm.toNat ≤ 1 ∧ (imm.toNat % 2 == 1) = p ↔ imm = if p then 1#16 else 0#16 := by
  constructor
  · rintro ⟨h, rfl⟩
    apply BitVec.eq_of_toNat_eq
    rcases Nat.mod_two_eq_zero_or_one imm.toNat with e | e <;> simp [e] <;> omega
  · rintro rfl
    cases p <;> simp

/-! ## Layouts field by field -/

theorem WV.eq_mk {w : WV} {ts : Fin 4} {d : VReg} {a : VReg} {b : VReg} :
    w = ⟨ts, d, a, b⟩ ↔ w.ts = ts ∧ w.d = d ∧ w.a = a ∧ w.b = b := by
  cases w; simp
theorem WS.eq_mk {w : WS} {sub : Fin 8} {sd : SReg} {sa : SReg} :
    w = ⟨sub, sd, sa⟩ ↔ w.sub = sub ∧ w.sd = sd ∧ w.sa = sa := by
  cases w; simp
theorem WT.eq_mk {w : WT} {sub : Fin 8} {td : TReg} {ta : TReg} {sa : SReg} :
    w = ⟨sub, td, ta, sa⟩ ↔ w.sub = sub ∧ w.td = td ∧ w.ta = ta ∧ w.sa = sa := by
  cases w; simp
theorem WE.eq_mk {w : WE} {sub : Fin 8} {sa : SReg} {sb : SReg} :
    w = ⟨sub, sa, sb⟩ ↔ w.sub = sub ∧ w.sa = sa ∧ w.sb = sb := by
  cases w; simp
theorem WC.eq_mk {w : WC} {sub : Fin 8} {g : Guard} {imm : BitVec 16} :
    w = ⟨sub, g, imm⟩ ↔ w.sub = sub ∧ w.g = g ∧ w.imm = imm := by
  cases w; simp
theorem XR.eq_mk {w : XR} {g : Guard} {rnd : Fin 8} {sat : Bool} {bs : Bool} {md : Fin 16} {c : VReg} {ss : SReg} :
    w = ⟨g, rnd, sat, bs, md, c, ss⟩ ↔ w.g = g ∧ w.rnd = rnd ∧ w.sat = sat ∧ w.bs = bs ∧ w.md = md ∧ w.c = c ∧ w.ss = ss := by
  cases w; simp
theorem XI.eq_mk {w : XI} {g : Guard} {rnd : Fin 8} {sat : Bool} {md : Fin 64} {imm : BitVec 16} :
    w = ⟨g, rnd, sat, md, imm⟩ ↔ w.g = g ∧ w.rnd = rnd ∧ w.sat = sat ∧ w.md = md ∧ w.imm = imm := by
  cases w; simp
theorem XM.eq_mk {w : XM} {g : Guard} {scope : Fin 8} {order : Fin 4} {dc : Fin 8} {off : BitVec 8} {ss : SReg} :
    w = ⟨g, scope, order, dc, off, ss⟩ ↔ w.g = g ∧ w.scope = scope ∧ w.order = order ∧ w.dc = dc ∧ w.off = off
      ∧ w.ss = ss := by
  cases w; simp
theorem XE.eq_mk {w : XE} {scope : Fin 8} {order : Fin 4} {dc : Fin 8} {sc : SReg} {va : VReg} {g : Guard} {low : Bool} :
    w = ⟨scope, order, dc, sc, va, g, low⟩ ↔ w.scope = scope ∧ w.order = order ∧ w.dc = dc ∧ w.sc = sc ∧ w.va = va
      ∧ w.g = g ∧ w.low = low := by
  cases w; simp

/-! ## Values of a shape's own fields -/

/-- The same for a flag in MOD. -/
theorem md_eq_flag {md : Fin 16} {p : Bool} :
    md.val / 2 = 0 ∧ (md.val % 2 == 1) = p ↔ md = if p then 1 else 0 := by
  revert md p
  decide

/-- Table F of LMUX in the RND and SAT positions. -/
theorem table_eq {rnd : Fin 8} {sat : Bool} {f : BitVec 4} :
    BitVec.ofNat 4 (rnd.val * 2 + sat.toNat) = f ↔ rnd = Fin.ofNat 8 (f.toNat / 2) ∧ sat = (f.toNat % 2 == 1) := by
  revert rnd sat f
  decide

theorem pattern_eq {md : Fin 16} {h : BitVec 4} : BitVec.ofNat 4 md.val = h ↔ md = Fin.ofNat 16 h.toNat := by
  revert md h
  decide

/-- A tile register's number in a scalar register's field. -/
theorem sreg_eq_treg {r : SReg} {t : TReg} :
    r.val / 32 = 0 ∧ Fin.ofNat 32 r.val = t ↔ r = ⟨t.val, by have := t.isLt; omega⟩ := by
  constructor
  · rintro ⟨h, rfl⟩
    exact Fin.ext (by simp only [Fin.ofNat]; omega)
  · rintro rfl
    exact ⟨Nat.div_eq_of_lt t.isLt, Fin.ext (Nat.mod_eq_of_lt t.isLt)⟩

/-! ## The shapes -/

variable {τ : Type}

section

variable {of8 : Fin 8 → Option τ} {code8 : τ → Fin 8} (h8 : Coded of8 code8)
include h8

theorem sForm : ShortForm (decS of8) (encS code8) :=
  ws.form fun b ⟨t, d, a⟩ => by
    simp [decS, h8 _ _, WS.eq_mk]

theorem srForm : LongForm 0 (fun _ => True) (decSR of8) (encSR code8) :=
  ws.longForm xr fun b ⟨g, t, d, a, s⟩ => by
    simp [decSR, h8 _ _, WS.eq_mk, XR.eq_mk]
    tauto

theorem siForm : LongForm 1 (fun _ => True) (decSI of8) (encSI code8) :=
  ws.longForm xi fun b ⟨g, t, d, a, imm⟩ => by
    simp [decSI, h8 _ _, WS.eq_mk, XI.eq_mk]
    tauto

end

section

variable {of4 : Fin 4 → Option τ} {code4 : τ → Fin 4} (h4 : Coded of4 code4)
include h4

theorem vForm : ShortForm (decV of4) (encV code4) :=
  wv.form fun b ⟨t, d, a, c⟩ => by
    simp [decV, h4 _ _, WV.eq_mk]

theorem v1Form : ShortForm (decV1 of4) (encV1 code4) :=
  wv.form fun b ⟨t, d, a⟩ => by
    simp [decV1, h4 _ _, WV.eq_mk]
    tauto

theorem vrForm : LongForm 0 (fun _ => True) (decVR of4) (encVR code4) :=
  wv.longForm xr fun b ⟨g, t, d, a, s⟩ => by
    simp [decVR, h4 _ _, srcOf_eq_ok, WV.eq_mk, XR.eq_mk]
    grind

theorem vrsForm : LongForm 0 (fun _ => True) (decVRs of4) (encVRs code4) :=
  wv.longForm xr fun b ⟨g, t, sat, d, a, s⟩ => by
    simp [decVRs, h4 _ _, srcOf_eq_ok, WV.eq_mk, XR.eq_mk]
    grind

theorem vr1Form : LongForm 0 (fun _ => True) (decVR1 of4) (encVR1 code4) :=
  wv.longForm xr fun b ⟨g, t, d, a⟩ => by
    simp [decVR1, h4 _ _, WV.eq_mk, XR.eq_mk]
    tauto

theorem vr1sForm : LongForm 0 (fun _ => True) (decVR1s of4) (encVR1s code4) :=
  wv.longForm xr fun b ⟨g, t, sat, d, a⟩ => by
    simp [decVR1s, h4 _ _, WV.eq_mk, XR.eq_mk]
    tauto

theorem vrcForm : LongForm 0 (fun _ => True) (decVRc of4) (encVRc code4) :=
  wv.longForm xr fun b ⟨g, t, d, a, s, c⟩ => by
    simp [decVRc, h4 _ _, srcOf_eq_ok, WV.eq_mk, XR.eq_mk]
    grind

theorem vrcsForm : LongForm 0 (fun _ => True) (decVRcs of4) (encVRcs code4) :=
  wv.longForm xr fun b ⟨g, t, sat, d, a, s, c⟩ => by
    simp [decVRcs, h4 _ _, srcOf_eq_ok, WV.eq_mk, XR.eq_mk]
    grind

theorem viForm : LongForm 1 (fun _ => True) (decVI of4) (encVI code4) :=
  wv.longForm xi fun b ⟨g, t, d, a, imm⟩ => by
    simp [decVI, h4 _ _, WV.eq_mk, XI.eq_mk]
    tauto

theorem visForm : LongForm 1 (fun _ => True) (decVIs of4) (encVIs code4) :=
  wv.longForm xi fun b ⟨g, t, sat, d, a, imm⟩ => by
    simp [decVIs, h4 _ _, WV.eq_mk, XI.eq_mk]
    tauto

theorem memForm : LongForm 2 (fun _ => True) (decMem of4) (encMem code4) :=
  wv.longForm xm fun b ⟨g, t, sc, o, dc, off, d, a, s⟩ => by
    simp [decMem, h4 _ _, scope_coded _ _, dc_coded _ _, ordered_coded, WV.eq_mk, XM.eq_mk]
    tauto

end

theorem siwForm : LongForm 1 (fun _ => True) decSIW encSIW :=
  ws.longForm xi fun b ⟨g, t, d, a, imm⟩ => by
    simp [decSIW, ityW_coded, WS.eq_mk, XI.eq_mk]
    tauto

theorem smoviForm : LongForm 1 (fun _ => True) decSMovi encSMovi :=
  ws.longForm xi fun b ⟨g, t, d, imm⟩ => by
    simp [decSMovi, moviSub_coded _ _, WS.eq_mk, XI.eq_mk]
    tauto

theorem srdlaneForm : LongForm 0 (fun _ => True) decSRdLane encSRdLane :=
  ws.longForm xr fun b ⟨g, t, d, a, c⟩ => by
    simp [decSRdLane, wdSub_coded _ _, WS.eq_mk, XR.eq_mk]
    tauto

theorem smovtForm : ShortForm decSMovt encSMovt :=
  ws.form fun b ⟨t, a⟩ => by
    have key := @sreg_eq_treg (WS.of b.w0).sd t
    simp at key
    simp [decSMovt, WS.eq_mk]
    tauto

theorem srdForm : ShortForm decSrd encSrd :=
  ws.form fun b ⟨n, r⟩ => by
    simp [decSrd, WS.eq_mk]
    tauto

theorem swrForm : ShortForm decSwr encSwr :=
  ws.form fun b ⟨n, r⟩ => by
    simp [decSwr, WS.eq_mk]

theorem moviForm : LongForm 1 (fun _ => True) decMovi encMovi :=
  wv.longForm xi fun b ⟨g, t, d, imm⟩ => by
    simp [decMovi, moviTs_coded _ _, WV.eq_mk, XI.eq_mk]
    tauto

theorem vmovsForm : LongForm 0 (fun _ => True) decVMovs encVMovs :=
  wv.longForm xr fun b ⟨g, t, d, s⟩ => by
    simp [decVMovs, wdTs_coded _ _, WV.eq_mk, XR.eq_mk]
    tauto

theorem iaddcForm : LongForm 0 (fun _ => True) decIAddc encIAddc :=
  wv.longForm xr fun b ⟨g, t, d, a, s, k⟩ => by
    simp [decIAddc, ityTs_coded _ _, cbit_coded _ _, srcOf_eq_ok, WV.eq_mk, XR.eq_mk]
    grind

theorem icmpRForm : LongForm 0 (fun _ => True) decICmpR encICmpR :=
  wv.longForm xr fun b ⟨g, t, c, d, a, s⟩ => by
    simp [decICmpR, ityTs_coded _ _, cdst_coded _ _, cmp16_coded _ _, srcOf_eq_ok, WV.eq_mk, XR.eq_mk]
    grind

theorem icmpIForm : LongForm 1 (fun _ => True) decICmpI encICmpI :=
  wv.longForm xi fun b ⟨g, t, c, d, a, imm⟩ => by
    simp [decICmpI, ityTs_coded _ _, cdst_coded _ _, cmp64_coded _ _, WV.eq_mk, XI.eq_mk]
    tauto

theorem iselForm : LongForm 0 (fun _ => True) decISel encISel :=
  wv.longForm xr fun b ⟨g, t, d, a, s, p⟩ => by
    simp [decISel, wdTs_coded _ _, pred_coded, srcOf_eq_ok, WV.eq_mk, XR.eq_mk]
    grind

theorem lmuxForm : LongForm 0 (fun _ => True) decLmux encLmux :=
  wv.longForm xr fun b ⟨g, t, d, a, s, c, f, h⟩ => by
    have kf := @table_eq (XR.of b.w1).rnd (XR.of b.w1).sat f
    have kh := @pattern_eq (XR.of b.w1).md h
    simp at kf kh
    simp [decLmux, wdTs_coded _ _, srcOf_eq_ok, WV.eq_mk, XR.eq_mk]
    grind

theorem bfxForm : LongForm 1 (fun _ => True) decBfx encBfx :=
  wv.longForm xi fun b ⟨g, t, d, a, p, n⟩ => by
    simp [decBfx, ityTs_coded _ _, posLen_eq_ok, WV.eq_mk, XI.eq_mk]
    grind

theorem bfiForm : LongForm 1 (fun _ => True) decBfi encBfi :=
  wv.longForm xi fun b ⟨g, t, d, a, b, p, n⟩ => by
    simp [decBfi, wdTs_coded _ _, posLen_eq_ok, WV.eq_mk, XI.eq_mk]
    grind

theorem bytepForm : LongForm 1 (fun _ => True) decBytep encBytep :=
  wv.longForm xi fun b ⟨g, d, a, b, s⟩ => by
    simp [decBytep, WV.eq_mk, XI.eq_mk]
    tauto

theorem frForm : LongForm 0 (fun _ => True) decFR encFR :=
  wv.longForm xr fun b ⟨g, t, r, sat, d, a, s⟩ => by
    simp [decFR, ftyTs_coded _ _, rnd_coded _ _, srcOf_eq_ok, WV.eq_mk, XR.eq_mk]
    grind

theorem fmaForm : LongForm 0 (fun _ => True) decFma encFma :=
  wv.longForm xr fun b ⟨g, t, r, sat, d, a, s, c⟩ => by
    simp [decFma, ftyTs_coded _ _, rnd_coded _ _, srcOf_eq_ok, WV.eq_mk, XR.eq_mk]
    grind

theorem fcmpForm : LongForm 0 (fun _ => True) decFCmp encFCmp :=
  wv.longForm xr fun b ⟨g, t, c, d, a, s⟩ => by
    simp [decFCmp, ftyTs_coded _ _, cdst_coded _ _, fcmp_coded _ _, srcOf_eq_ok, WV.eq_mk, XR.eq_mk]
    grind

theorem fselForm : LongForm 0 (fun _ => True) decFSel encFSel :=
  wv.longForm xr fun b ⟨g, t, c, d, a, s, e⟩ => by
    simp [decFSel, ftyTs_coded _ _, cmp16_coded _ _, srcOf_eq_ok, WV.eq_mk, XR.eq_mk]
    grind

theorem fclassForm : LongForm 1 (fun _ => True) decFClass encFClass :=
  wv.longForm xi fun b ⟨g, t, d, a, m⟩ => by
    have key := @imm_eq_pattern 10 (by decide) (XI.of b.w1).imm m
    norm_num at key
    simp [decFClass, ftyTs_coded _ _, cdst_coded _ _, WV.eq_mk, XI.eq_mk]
    tauto

theorem frndForm : LongForm 0 (fun _ => True) decFRnd encFRnd :=
  wv.longForm xr fun b ⟨g, t, r, d, a⟩ => by
    simp [decFRnd, ftyTs_coded _ _, rnd_coded _ _, WV.eq_mk, XR.eq_mk]
    tauto

theorem cvtForm : LongForm 0 (fun _ => True) decCvt encCvt :=
  wv.longForm xr fun b ⟨g, r, sat, t, src, d, a⟩ => by
    simp [decCvt, rnd_coded _ _, tyC_coded _ _, ty_coded, WV.eq_mk, XR.eq_mk]
    tauto

theorem cvtsrForm : LongForm 0 (fun _ => True) decCvtsr encCvtsr :=
  wv.longForm xr fun b ⟨g, sat, t, src, d, a⟩ => by
    simp [decCvtsr, tyC_coded _ _, ty_coded, WV.eq_mk, XR.eq_mk]
    tauto

theorem packForm : LongForm 0 (fun _ => True) decPack encPack :=
  wv.longForm xr fun b ⟨g, r, sat, t, src, d, a, s⟩ => by
    simp [decPack, rnd_coded _ _, tyC_coded _ _, ty_coded, srcOf_eq_ok, WV.eq_mk, XR.eq_mk]
    grind

theorem unpackForm : LongForm 0 (fun _ => True) decUnpack encUnpack :=
  wv.longForm xr fun b ⟨g, i, t, src, d, a⟩ => by
    simp [decUnpack, tyC_coded _ _, ty_coded, WV.eq_mk, XR.eq_mk]
    tauto

theorem xForm : ShortForm decX encX :=
  wv.form fun b ⟨d, a⟩ => by
    simp [decX, WV.eq_mk]
    tauto

theorem xrForm : LongForm 0 (fun _ => True) decXR encXR :=
  wv.longForm xr fun b ⟨g, r, d, a⟩ => by
    simp [decXR, rnd_coded _ _, WV.eq_mk, XR.eq_mk]
    tauto

theorem srngVForm : ShortForm decSrngV encSrngV :=
  wv.form fun b a => by
    simp [decSrngV, WV.eq_mk]
    tauto

theorem srngRForm : LongForm 0 (fun _ => True) decSrngR encSrngR :=
  wv.longForm xr fun b ⟨g, a, s⟩ => by
    simp [decSrngR, srcOf_eq_ok, WV.eq_mk, XR.eq_mk]
    grind

theorem xpushForm : LongForm 0 (fun _ => True) decXPush encXPush :=
  wv.longForm xr fun b ⟨g, t, d, a, s, k⟩ => by
    simp [decXPush, wdTs_coded _ _, cbit_coded _ _, srcOf_eq_ok, WV.eq_mk, XR.eq_mk]
    grind

theorem xbcastRForm : LongForm 0 (fun _ => True) decXBcastR encXBcastR :=
  wv.longForm xr fun b ⟨g, t, d, a, s⟩ => by
    simp [decXBcastR, wdTs_coded _ _, WV.eq_mk, XR.eq_mk]
    tauto

theorem xbcastIForm : LongForm 1 (fun _ => True) decXBcastI encXBcastI :=
  wv.longForm xi fun b ⟨g, t, d, a, l⟩ => by
    simp [decXBcastI, wdTs_coded _ _, ← imm_eq_low (k := 6) (m := 64) (by decide) (by decide), WV.eq_mk, XI.eq_mk]
    tauto

theorem xballotForm : LongForm 0 (fun _ => True) decXBallot encXBallot :=
  wv.longForm xr fun b ⟨g, s, p⟩ => by
    simp [decXBallot, pred_coded, WV.eq_mk, XR.eq_mk]
    tauto

theorem xvoteForm : LongForm 0 (fun _ => True) decXVote encXVote :=
  wv.longForm xr fun b ⟨g, d, p⟩ => by
    simp [decXVote, cdst_coded _ _, pred_coded, WV.eq_mk, XR.eq_mk]
    tauto

theorem xpfxForm : LongForm 0 (fun _ => True) decXPfx encXPfx :=
  wv.longForm xr fun b ⟨g, t, op, e, d, a⟩ => by
    cases e
    all_goals simp [decXPfx, ityTs_coded _ _, pfx_coded _ _, WV.eq_mk, XR.eq_mk]
    all_goals tauto

theorem kclrForm : ShortForm decKclr (fun _ => encKclr) :=
  wv.form fun b ⟨⟩ => by
    simp [decKclr, WV.eq_mk]
    tauto

theorem kaddForm : ShortForm decKAdd encKAdd :=
  wv.form fun b ⟨t, a⟩ => by
    simp [decKAdd, gtyTs_coded _ _, WV.eq_mk]
    tauto

theorem kaddRForm : LongForm 0 (fun _ => True) decKAddR encKAddR :=
  wv.longForm xr fun b ⟨g, t, a⟩ => by
    simp [decKAddR, gtyTs_coded _ _, WV.eq_mk, XR.eq_mk]
    tauto

theorem krndForm : LongForm 0 (fun _ => True) decKRnd encKRnd :=
  wv.longForm xr fun b ⟨g, t, r, d⟩ => by
    simp [decKRnd, gtyTs_coded _ _, rnd_coded _ _, WV.eq_mk, XR.eq_mk]
    tauto

theorem kscanForm : LongForm 0 (fun _ => True) decKScan encKScan :=
  wv.longForm xr fun b ⟨g, t, r, e, d, a⟩ => by
    simp [decKScan, gtyTs_coded _ _, rnd_coded _ _, ← md_eq_flag, WV.eq_mk, XR.eq_mk]
    tauto

theorem kimageForm : LongForm 0 (fun _ => True) decKImage encKImage :=
  wv.longForm xr fun b ⟨g, s⟩ => by
    simp [decKImage, WV.eq_mk, XR.eq_mk]
    tauto

theorem atomForm : LongForm 2 (fun _ => True) decAtom encAtom :=
  wv.longForm xm fun b ⟨g, op, aw, sgn, sc, o, dc, d, a, e, s⟩ => by
    simp [decAtom, scope_coded _ _, dc_coded _ _, ← atomField_eq_ok, WV.eq_mk, XM.eq_mk]
    rcases atomField (XM.of b.w1).off with e | ⟨op, aw, sgn⟩
    all_goals simp [ordered_coded]
    grind

theorem lineForm : LongForm 2 (fun _ => True) decLine encLine :=
  wv.longForm xm fun b ⟨g, l, sc, dc, off, a, s⟩ => by
    simp [decLine, lvl_coded _ _, scope_coded _ _, dc_coded _ _, WV.eq_mk, XM.eq_mk]
    tauto

theorem prefbForm : LongForm 2 (fun _ => True) decPrefb encPrefb :=
  wv.longForm xm fun b ⟨g, off, a, e, s⟩ => by
    simp [decPrefb, WV.eq_mk, XM.eq_mk]
    tauto

theorem gcvtForm : LongForm 2 (fun _ => True) decGcvt encGcvt :=
  wv.longForm xm fun b ⟨g, w, dir, d, a, s⟩ => by
    simp [decGcvt, ← winField_eq_ok, WV.eq_mk, XM.eq_mk]
    cases winField (XM.of b.w1).off
    all_goals simp
    grind

theorem tldForm : LongForm 2 (fun _ => True) decTld encTld :=
  wt.longForm xm fun b ⟨g, tr, sc, o, dc, t, a, s⟩ => by
    cases tr
    all_goals simp [decTld, flag_coded _ _, scope_coded _ _, dc_coded _ _, ordered_coded, WT.eq_mk, XM.eq_mk]
    all_goals tauto

theorem tstForm : LongForm 2 (fun o => o.tr = false) decTst encTst :=
  wt.longForm xm fun b ⟨g, tr, sc, o, dc, t, a, s⟩ => by
    simp [decTst, scope_coded _ _, dc_coded _ _, ordered_coded, WT.eq_mk, XM.eq_mk]
    tauto

theorem tileForm : ShortForm decTile encTile :=
  wt.form fun b ⟨t⟩ => by
    simp [decTile, WT.eq_mk]
    tauto

theorem tileSForm : ShortForm decTileS encTileS :=
  wt.form fun b ⟨a⟩ => by
    simp [decTileS, WT.eq_mk]
    tauto

theorem ardForm : ShortForm decArd encArd :=
  wt.form fun b ⟨t, a⟩ => by
    simp [decArd, WT.eq_mk]
    tauto

theorem awrForm : ShortForm decAwr encAwr :=
  wt.form fun b ⟨t, a⟩ => by
    simp [decAwr, WT.eq_mk]

theorem copyForm : LongForm 3 (fun _ => True) decCopy encCopy :=
  we.longForm xe fun b ⟨g, cw, dc, a, e, c⟩ => by
    simp [decCopy, cwOf_eq_ok, dcCounted_coded _ _, WE.eq_mk, XE.eq_mk]
    grind

theorem enckeForm : LongForm 3 (fun _ => True) decEncke encEncke :=
  we.longForm xe fun b ⟨g, cw, dc, a, e⟩ => by
    simp [decEncke, cwOf_eq_ok, dcCounted_coded _ _, WE.eq_mk, XE.eq_mk]
    grind

theorem taskForm : LongForm 3 (fun _ => True) decTask encTask :=
  we.longForm xe fun b ⟨g, dc, v⟩ => by
    simp [decTask, bareE, dc_coded _ _, WE.eq_mk, XE.eq_mk]
    tauto

theorem eng2Form : LongForm 3 (fun _ => True) decEng2 encEng2 :=
  we.longForm xe fun b ⟨g, dc, a, e⟩ => by
    simp [decEng2, bareE, dc_coded _ _, WE.eq_mk, XE.eq_mk]
    tauto

theorem eng3Form : LongForm 3 (fun _ => True) decEng3 encEng3 :=
  we.longForm xe fun b ⟨g, dc, a, e, c⟩ => by
    simp [decEng3, bareE, dc_coded _ _, WE.eq_mk, XE.eq_mk]
    tauto

theorem cForm : ShortForm decC encC :=
  wc.form fun b ⟨g⟩ => by
    simp [decC, WC.eq_mk]
    tauto

theorem cImmForm : ShortForm decCImm encCImm :=
  wc.form fun b ⟨g, imm⟩ => by
    simp [decCImm, WC.eq_mk]

theorem brcForm : LongForm 3 (fun _ => True) decBrc encBrc :=
  wc.longForm xe fun b ⟨g, nz, c, imm⟩ => by
    cases nz
    all_goals simp [decBrc, flag_coded _ _, bareCE, bareX, ext, WC.eq_mk, XE.eq_mk]
    all_goals tauto

theorem cvForm : LongForm 3 (fun _ => True) decCV encCV :=
  wc.longForm xe fun b ⟨g, v⟩ => by
    simp [decCV, bareCE, bareX, ext, WC.eq_mk, XE.eq_mk]
    tauto

theorem cvImmForm : LongForm 3 (fun _ => True) decCVImm encCVImm :=
  wc.longForm xe fun b ⟨g, v, imm⟩ => by
    simp [decCVImm, bareCE, bareX, ext, WC.eq_mk, XE.eq_mk]
    tauto

theorem jtabForm : LongForm 3 (fun _ => True) decJtab encJtab :=
  wc.longForm xe fun b ⟨g, v, c, n⟩ => by
    simp [decJtab, bareCE, bareX, ext, WC.eq_mk, XE.eq_mk]
    tauto

theorem barForm : ShortForm decBar encBar :=
  wc.form fun b ⟨g, f, n⟩ => by
    simp [decBar, barForm_coded _ _, ← imm_eq_low (k := 4) (m := 16) (by decide) (by decide), WC.eq_mk]
    tauto

theorem barsetForm : LongForm 3 (fun _ => True) decBarset encBarset :=
  wc.longForm xe fun b ⟨g, n, c⟩ => by
    simp [decBarset, bareCE, bareX, ext, ← imm_eq_low (k := 4) (m := 16) (by decide) (by decide), WC.eq_mk, XE.eq_mk]
    tauto

theorem phaseForm : LongForm 3 (fun _ => True) decPhase encPhase :=
  wc.longForm xe fun b ⟨g, c, p⟩ => by
    have key := @imm_eq_flag (WC.of b.w0).imm p
    simp [decPhase, bareCE, bareX, ext, WC.eq_mk, XE.eq_mk]
    tauto

theorem waitaForm : LongForm 3 (fun _ => True) decWaita encWaita :=
  wc.longForm xe fun b ⟨g, dc, v, n⟩ => by
    simp [decWaita, bareX, ext, dc_coded _ _, WC.eq_mk, XE.eq_mk]
    tauto

theorem dwaitForm : ShortForm decDwait encDwait :=
  wc.form fun b ⟨g, m⟩ => by
    have key := @imm_eq_pattern 6 (by decide) (WC.of b.w0).imm m
    norm_num at key
    simp [decDwait, WC.eq_mk]
    tauto

theorem ecallForm : ShortForm decEcall encEcall :=
  wc.form fun b ⟨g, skip⟩ => by
    have key := @imm_eq_flag (WC.of b.w0).imm skip
    simp [decEcall, WC.eq_mk]
    tauto

theorem phintForm : ShortForm decPhint encPhint :=
  wc.form fun b ⟨g, n⟩ => by
    have key := @imm_eq_pattern 12 (by decide) (WC.of b.w0).imm n
    norm_num at key
    simp [decPhint, WC.eq_mk]
    tauto

theorem switchCForm : LongForm 3 (fun _ => True) decSwitchC encSwitchC :=
  wc.longForm xe fun b ⟨g, off, c⟩ => by
    cases off
    all_goals simp [decSwitchC, flag_coded _ _, bareCE, bareX, ext, WC.eq_mk, XE.eq_mk]
    all_goals tauto

theorem fenceForm : LongForm 3 (fun _ => True) decFence encFence :=
  wc.longForm xe fun b ⟨g, k, sc, dc⟩ => by
    simp [decFence, fence_coded, scope_coded _ _, dc_coded _ _, WC.eq_mk, XE.eq_mk]
    tauto

theorem shadowForm : ShortForm decShadow encShadow :=
  wc.form fun b ⟨g, on⟩ => by
    cases on
    all_goals simp [decShadow, flag_coded _ _, WC.eq_mk]
    all_goals tauto

theorem csForm : LongForm 3 (fun _ => True) decCS encCS :=
  wc.longForm xe fun b ⟨g, c⟩ => by
    simp [decCS, bareCE, bareX, ext, WC.eq_mk, XE.eq_mk]
    tauto

/-! ## From an instruction to its words and back -/

/-- The words of `i` are `e` under the opcode `op`: they fit their fields, and the decoder reads `i` from them. -/
structure Reads (i : Instr) (op : Nat) (e : Body) : Prop where
  w0_lt : e.w0 < 2 ^ 23
  w1_lt : e.w1 < 2 ^ 32
  w1_zero : e.l = false → e.w1 = 0
  decodes : decodeOp op e = .ok i

section

variable {n op : Nat} {P : α → Prop} {dec : Body → Dec α} {enc : α → Body} {c : α → Instr} {o : α}

theorem reads_short (f : ShortForm dec enc) (h : decodeOp op (enc o) = put c (dec (enc o))) : Reads (c o) op (enc o) where
  w0_lt := f.w0_lt o
  w1_lt := by simp [f.w1_zero]
  w1_zero _ := f.w1_zero o
  decodes := by rw [h, f.dec_enc, put_ok]

theorem reads_long (f : LongForm n P dec enc) (p : P o) (h : decodeOp op (enc o) = put c (dec (enc o))) :
    Reads (c o) op (enc o) where
  w0_lt := f.w0_lt o
  w1_lt := f.w1_lt o
  w1_zero hl := by simp [f.long] at hl
  decodes := by rw [h, f.dec_enc o p, put_ok]

/-- A long form that is its opcode's only one. -/
theorem reads_only (f : LongForm n P dec enc) (p : P o)
    (h : ∀ b : Body, b.l = true → decodeOp op b = only n (put c (dec b)) (b.w1 / 2 ^ 30 % 4)) : Reads (c o) op (enc o) :=
  reads_long f p (by rw [h _ (f.long o), f.w1_sel o, only, if_pos rfl])

/-- A long form beside another: format R. -/
theorem reads_xr (f : LongForm 0 P dec enc) (p : P o) {d : Body → Dec Instr}
    (h : ∀ b : Body, b.l = true → decodeOp op b = xrxi (put c (dec b)) (d b) (b.w1 / 2 ^ 30 % 4)) : Reads (c o) op (enc o) :=
  reads_long f p (by rw [h _ (f.long o), f.w1_sel o, xrxi, if_pos rfl])

/-- A long form beside another: format I. -/
theorem reads_xi (f : LongForm 1 P dec enc) (p : P o) {d : Body → Dec Instr}
    (h : ∀ b : Body, b.l = true → decodeOp op b = xrxi (d b) (put c (dec b)) (b.w1 / 2 ^ 30 % 4)) : Reads (c o) op (enc o) :=
  reads_long f p (by rw [h _ (f.long o), f.w1_sel o, xrxi, if_neg (by decide), if_pos rfl])

end

theorem okTst_tr {o : OpTileMem} (h : wellFormed (.tst o) = true) : o.tr = false := by
  have hok : Forms.okTst o = true := h
  simp only [Forms.okTst, Bool.and_eq_true, Bool.not_eq_true'] at hok
  exact hok.1.2

/-- The words of a well-formed instruction decode to it (R41 to R43). -/
theorem encodeBody_reads {i : Instr} (h : wellFormed i = true) : ∃ op e, encodeBody i = some (op, e) ∧ Reads i op e := by
  cases i with
  | smov o => exact ⟨_, _, rfl, reads_short (sForm wdSub_coded) rfl⟩
  | smovi o => exact ⟨_, _, rfl, reads_only smoviForm trivial fun _ hl => if_pos hl⟩
  | saddS o | ssubS o | smulS o | sandS o | sorS o | sxorS o | sshlS o | sshrS o | ssraS o =>
    exact ⟨_, _, rfl, reads_short (sForm wdSub_coded) rfl⟩
  | saddSR o | ssubSR o | smulSR o | sandSR o | sorSR o | sxorSR o | sshlSR o | sshrSR o | ssraSR o =>
    exact ⟨_, _, rfl, reads_xr (srForm wdSub_coded) trivial fun _ hl => if_pos hl⟩
  | saddSI o | ssubSI o | smulSI o | sandSI o | sorSI o | sxorSI o | sshlSI o | sshrSI o | ssraSI o =>
    exact ⟨_, _, rfl, reads_xi siwForm trivial fun _ hl => if_pos hl⟩
  | smulhS o | sdivS o | sremS o => exact ⟨_, _, rfl, reads_short (sForm itySub_coded) rfl⟩
  | smulhSR o => exact ⟨_, _, rfl, reads_only (srForm itySub_coded) trivial fun _ hl => if_pos hl⟩
  | sdivSR o | sremSR o => exact ⟨_, _, rfl, reads_xr (srForm itySub_coded) trivial fun _ hl => if_pos hl⟩
  | sdivSI o | sremSI o => exact ⟨_, _, rfl, reads_xi (siForm itySub_coded) trivial fun _ hl => if_pos hl⟩
  | scmpI32S o | scmpN32S o => exact ⟨_, _, rfl, reads_short (sForm cmpSub_coded) rfl⟩
  | scmpI32SR o | scmpN32SR o => exact ⟨_, _, rfl, reads_xr (srForm cmpSub_coded) trivial fun _ hl => if_pos hl⟩
  | scmpI32SI o | scmpN32SI o => exact ⟨_, _, rfl, reads_xi (siForm cmpSub_coded) trivial fun _ hl => if_pos hl⟩
  | ssel o => exact ⟨_, _, rfl, reads_only (srForm wdSub_coded) trivial fun _ hl => if_pos hl⟩
  | sldc o => exact ⟨_, _, rfl, reads_only (siForm wdSub_coded) trivial fun _ hl => if_pos hl⟩
  | srdlane o => exact ⟨_, _, rfl, reads_only srdlaneForm trivial fun _ hl => if_pos hl⟩
  | smovt o => exact ⟨_, _, rfl, reads_short smovtForm rfl⟩
  | srd o => exact ⟨_, _, rfl, reads_short srdForm rfl⟩
  | swr o => exact ⟨_, _, rfl, reads_short swrForm rfl⟩
  | movV o | popcV o | clzV o | brevV o => exact ⟨_, _, rfl, reads_short (v1Form wdTs_coded) rfl⟩
  | movVR o | popcVR o | clzVR o | brevVR o =>
    exact ⟨_, _, rfl, reads_only (vr1Form wdTs_coded) trivial fun _ hl => if_pos hl⟩
  | movi o => exact ⟨_, _, rfl, reads_only moviForm trivial fun _ hl => if_pos hl⟩
  | vmovs o => exact ⟨_, _, rfl, reads_only vmovsForm trivial fun _ hl => if_pos hl⟩
  | iaddV o | isubV o | imulV o | imulhV o | iminV o | imaxV o => exact ⟨_, _, rfl, reads_short (vForm ityTs_coded) rfl⟩
  | iaddVR o | isubVR o | imulVR o => exact ⟨_, _, rfl, reads_xr (vrsForm ityTs_coded) trivial fun _ hl => if_pos hl⟩
  | iaddVI o | isubVI o | imulVI o => exact ⟨_, _, rfl, reads_xi (visForm ityTs_coded) trivial fun _ hl => if_pos hl⟩
  | iaddc o => exact ⟨_, _, rfl, reads_only iaddcForm trivial fun _ hl => if_pos hl⟩
  | imulhVR o => exact ⟨_, _, rfl, reads_only (vrForm ityTs_coded) trivial fun _ hl => if_pos hl⟩
  | imad o => exact ⟨_, _, rfl, reads_only (vrcsForm ityTs_coded) trivial fun _ hl => if_pos hl⟩
  | iminVR o | imaxVR o => exact ⟨_, _, rfl, reads_xr (vrForm ityTs_coded) trivial fun _ hl => if_pos hl⟩
  | iminVI o | imaxVI o => exact ⟨_, _, rfl, reads_xi (viForm ityTs_coded) trivial fun _ hl => if_pos hl⟩
  | iabsV o | inegV o => exact ⟨_, _, rfl, reads_short (v1Form ityTs_coded) rfl⟩
  | iabsVR o | inegVR o => exact ⟨_, _, rfl, reads_only (vr1sForm ityTs_coded) trivial fun _ hl => if_pos hl⟩
  | isad o => exact ⟨_, _, rfl, reads_only (vrcForm ityTs_coded) trivial fun _ hl => if_pos hl⟩
  | icmpVR o => exact ⟨_, _, rfl, reads_xr icmpRForm trivial fun _ hl => if_pos hl⟩
  | icmpVI o => exact ⟨_, _, rfl, reads_xi icmpIForm trivial fun _ hl => if_pos hl⟩
  | isel o => exact ⟨_, _, rfl, reads_only iselForm trivial fun _ hl => if_pos hl⟩
  | shlV o | shrV o | sraV o | rotV o | xpullV o => exact ⟨_, _, rfl, reads_short (vForm wdTs_coded) rfl⟩
  | shlVR o | shrVR o | sraVR o | rotVR o => exact ⟨_, _, rfl, reads_xr (vrForm wdTs_coded) trivial fun _ hl => if_pos hl⟩
  | shlVI o | shrVI o | sraVI o | rotVI o => exact ⟨_, _, rfl, reads_xi (viForm wdTs_coded) trivial fun _ hl => if_pos hl⟩
  | lmux o => exact ⟨_, _, rfl, reads_only lmuxForm trivial fun _ hl => if_pos hl⟩
  | bfx o => exact ⟨_, _, rfl, reads_only bfxForm trivial fun _ hl => if_pos hl⟩
  | bfi o => exact ⟨_, _, rfl, reads_only bfiForm trivial fun _ hl => if_pos hl⟩
  | bytep o => exact ⟨_, _, rfl, reads_only bytepForm trivial fun _ hl => if_pos hl⟩
  | faddV o | fsubV o | fmulV o | fminV o | fmaxV o => exact ⟨_, _, rfl, reads_short (vForm ftyTs_coded) rfl⟩
  | faddVR o | fsubVR o | fmulVR o => exact ⟨_, _, rfl, reads_only frForm trivial fun _ hl => if_pos hl⟩
  | fma o => exact ⟨_, _, rfl, reads_only fmaForm trivial fun _ hl => if_pos hl⟩
  | fminVR o | fmaxVR o => exact ⟨_, _, rfl, reads_only (vrForm ftyTs_coded) trivial fun _ hl => if_pos hl⟩
  | fcmp o => exact ⟨_, _, rfl, reads_only fcmpForm trivial fun _ hl => if_pos hl⟩
  | fsel o => exact ⟨_, _, rfl, reads_only fselForm trivial fun _ hl => if_pos hl⟩
  | fclass o => exact ⟨_, _, rfl, reads_only fclassForm trivial fun _ hl => if_pos hl⟩
  | frndV o => exact ⟨_, _, rfl, reads_short (v1Form ftyTs_coded) rfl⟩
  | frndVR o => exact ⟨_, _, rfl, reads_only frndForm trivial fun _ hl => if_pos hl⟩
  | cvt o => exact ⟨_, _, rfl, reads_only cvtForm trivial fun _ hl => if_pos hl⟩
  | cvtsr o => exact ⟨_, _, rfl, reads_only cvtsrForm trivial fun _ hl => if_pos hl⟩
  | pack o => exact ⟨_, _, rfl, reads_only packForm trivial fun _ hl => if_pos hl⟩
  | unpack o => exact ⟨_, _, rfl, reads_only unpackForm trivial fun _ hl => if_pos hl⟩
  | rcpV o | rsqV o | sqrtV o | exp2V o | log2V o => exact ⟨_, _, rfl, reads_short xForm rfl⟩
  | rcpVR o | rsqVR o | sqrtVR o | exp2VR o | log2VR o => exact ⟨_, _, rfl, reads_only xrForm trivial fun _ hl => if_pos hl⟩
  | srngV o => exact ⟨_, _, rfl, reads_short srngVForm rfl⟩
  | srngVR o => exact ⟨_, _, rfl, reads_only srngRForm trivial fun _ hl => if_pos hl⟩
  | xpullVR o => exact ⟨_, _, rfl, reads_only (vrForm wdTs_coded) trivial fun _ hl => if_pos hl⟩
  | xpush o => exact ⟨_, _, rfl, reads_only xpushForm trivial fun _ hl => if_pos hl⟩
  | xbcastVR o => exact ⟨_, _, rfl, reads_xr xbcastRForm trivial fun _ hl => if_pos hl⟩
  | xbcastVI o => exact ⟨_, _, rfl, reads_xi xbcastIForm trivial fun _ hl => if_pos hl⟩
  | xballot o => exact ⟨_, _, rfl, reads_only xballotForm trivial fun _ hl => if_pos hl⟩
  | xany o | xall o => exact ⟨_, _, rfl, reads_only xvoteForm trivial fun _ hl => if_pos hl⟩
  | xpfx o => exact ⟨_, _, rfl, reads_only xpfxForm trivial fun _ hl => if_pos hl⟩
  | kclr => exact ⟨_, _, rfl, reads_short (c := fun _ => .kclr) (o := ()) kclrForm rfl⟩
  | kaddV o => exact ⟨_, _, rfl, reads_short kaddForm rfl⟩
  | kaddVR o => exact ⟨_, _, rfl, reads_only kaddRForm trivial fun _ hl => if_pos hl⟩
  | krnd o => exact ⟨_, _, rfl, reads_only krndForm trivial fun _ hl => if_pos hl⟩
  | kscan o => exact ⟨_, _, rfl, reads_only kscanForm trivial fun _ hl => if_pos hl⟩
  | ksave o | kload o => exact ⟨_, _, rfl, reads_only kimageForm trivial fun _ hl => if_pos hl⟩
  | ldNarrow o | ldsNarrow o => exact ⟨_, _, rfl, reads_only (memForm nty_coded) trivial fun _ hl => if_pos hl⟩
  | ldWide o | ldsWide o | ldr o | str o | strStrm o =>
    exact ⟨_, _, rfl, reads_only (memForm wty_coded) trivial fun _ hl => if_pos hl⟩
  | stNarrow o | stsNarrow o => exact ⟨_, _, rfl, reads_only (memForm sty_coded) trivial fun _ hl => if_pos hl⟩
  | stB128 o | stsB128 o => exact ⟨_, _, rfl, reads_only (memForm unit_coded) trivial fun _ hl => if_pos hl⟩
  | atom o | red o | atomr o => exact ⟨_, _, rfl, reads_only atomForm trivial fun _ hl => if_pos hl⟩
  | pref o | cflush o | cinv o => exact ⟨_, _, rfl, reads_only lineForm trivial fun _ hl => if_pos hl⟩
  | prefb o => exact ⟨_, _, rfl, reads_only prefbForm trivial fun _ hl => if_pos hl⟩
  | gcvt o | gtest o => exact ⟨_, _, rfl, reads_only gcvtForm trivial fun _ hl => if_pos hl⟩
  | tld o => exact ⟨_, _, rfl, reads_only tldForm trivial fun _ hl => if_pos hl⟩
  | tst o => exact ⟨_, _, rfl, reads_only tstForm (okTst_tr h) fun _ hl => if_pos hl⟩
  | tzero o => exact ⟨_, _, rfl, reads_short tileForm rfl⟩
  | tfmt o | mma o | macq o | mrel o | mwait o | mreset o => exact ⟨_, _, rfl, reads_short tileSForm rfl⟩
  | ard o => exact ⟨_, _, rfl, reads_short ardForm rfl⟩
  | awr o => exact ⟨_, _, rfl, reads_short awrForm rfl⟩
  | cpy o | cpy2 o | cpyt o | cpyg o | cpys o | cfill o =>
    exact ⟨_, _, rfl, reads_only copyForm trivial fun _ hl => if_pos hl⟩
  | pkload o | pkq o | pku o | pkstat o => exact ⟨_, _, rfl, reads_only enckeForm trivial fun _ hl => if_pos hl⟩
  | spawn o | take o => exact ⟨_, _, rfl, reads_only taskForm trivial fun _ hl => if_pos hl⟩
  | launch o | cbset o => exact ⟨_, _, rfl, reads_only eng2Form trivial fun _ hl => if_pos hl⟩
  | cbwait o => exact ⟨_, _, rfl, reads_only eng3Form trivial fun _ hl => if_pos hl⟩
  | bra o | rjset o | trap o | brk o => exact ⟨_, _, rfl, reads_short cImmForm rfl⟩
  | brc o => exact ⟨_, _, rfl, reads_only brcForm trivial fun _ hl => if_pos hl⟩
  | jmpx o | callx o | ret o => exact ⟨_, _, rfl, reads_only cvForm trivial fun _ hl => if_pos hl⟩
  | jtab o => exact ⟨_, _, rfl, reads_only jtabForm trivial fun _ hl => if_pos hl⟩
  | call o => exact ⟨_, _, rfl, reads_only cvImmForm trivial fun _ hl => if_pos hl⟩
  | rjwait o | rjdrop o | exit o | nop o | yield o => exact ⟨_, _, rfl, reads_short cForm rfl⟩
  | bar o => exact ⟨_, _, rfl, reads_short barForm rfl⟩
  | barset o => exact ⟨_, _, rfl, reads_only barsetForm trivial fun _ hl => if_pos hl⟩
  | pharr o | phwait o => exact ⟨_, _, rfl, reads_only phaseForm trivial fun _ hl => if_pos hl⟩
  | waita o => exact ⟨_, _, rfl, reads_only waitaForm trivial fun _ hl => if_pos hl⟩
  | dwait o => exact ⟨_, _, rfl, reads_short dwaitForm rfl⟩
  | ecall o => exact ⟨_, _, rfl, reads_short ecallForm rfl⟩
  | phint o => exact ⟨_, _, rfl, reads_short phintForm rfl⟩
  | tmarm o | pwint o => exact ⟨_, _, rfl, reads_only switchCForm trivial fun _ hl => if_pos hl⟩
  | fence o => exact ⟨_, _, rfl, reads_only fenceForm trivial fun _ hl => if_pos hl⟩
  | shadow o => exact ⟨_, _, rfl, reads_short shadowForm rfl⟩
  | fragq o => exact ⟨_, _, rfl, reads_only csForm trivial fun _ hl => if_pos hl⟩
  | _ => cases h

/-! ## From words to an instruction and back -/

/-- What `d` reads from the words `b` of opcode `op` is written back to them. -/
def Row (op : Nat) (b : Body) (d : Dec Instr) : Prop :=
  b.w0 < 2 ^ 23 → b.w1 < 2 ^ 32 → ∀ i, d = .ok i →
    ∃ e, encodeBody i = some (op, e) ∧ e.l = b.l ∧ e.w0 = b.w0 ∧ (b.l = true → e.w1 = b.w1)

/-- The same of the layouts of the extension word. -/
def ExtRow (op : Nat) (b : Body) (k : Nat → Dec Instr) : Prop := b.l = true → Row op b (k (b.w1 / 2 ^ 30 % 4))

section

variable {n op : Nat} {b : Body} {P : α → Prop} {dec : Body → Dec α} {enc : α → Body} {c : α → Instr}

theorem Row.error (r : Reject) : Row op b (.error r) := fun _ _ _ h => nomatch h

theorem Row.ofShort (f : ShortForm dec enc) (h : ∀ o, encodeBody (c o) = some (op, enc o)) (hl : b.l = false) :
    Row op b (put c (dec b)) := by
  intro h0 _ i hi
  obtain ⟨o, ho, rfl⟩ := put_eq_ok.mp hi
  exact ⟨enc o, h o, (f.short o).trans hl.symm, f.enc_dec b o h0 ho, fun e => by simp [hl] at e⟩

theorem Row.short (f : ShortForm dec enc) (h : ∀ o, encodeBody (c o) = some (op, enc o) := by intro _; rfl) :
    Row op b (short b (put c (dec b))) := by
  cases hl : b.l with
  | true => simpa [Enc.short, hl] using Row.error _
  | false => simpa [Enc.short, hl] using Row.ofShort f h hl

theorem Row.long {k : Nat → Dec Instr} (h : ExtRow op b k) : Row op b (long b k) := by
  cases hl : b.l with
  | true => simpa [Enc.long, hl] using h hl
  | false => simpa [Enc.long, hl] using Row.error _

theorem Row.both {k : Nat → Dec Instr} (f : ShortForm dec enc) (x : ExtRow op b k)
    (h : ∀ o, encodeBody (c o) = some (op, enc o) := by intro _; rfl) : Row op b (both b (put c (dec b)) k) := by
  cases hl : b.l with
  | true => simpa [Enc.both, hl] using x hl
  | false => simpa [Enc.both, hl] using Row.ofShort f h hl

theorem Row.ofLong (f : LongForm n P dec enc) (h : ∀ o, encodeBody (c o) = some (op, enc o)) (hl : b.l = true)
    (hn : b.w1 / 2 ^ 30 % 4 = n) : Row op b (put c (dec b)) := by
  intro h0 h1 i hi
  obtain ⟨o, ho, rfl⟩ := put_eq_ok.mp hi
  obtain ⟨e0, e1⟩ := f.enc_dec b o h0 h1 hn ho
  exact ⟨enc o, h o, (f.long o).trans hl.symm, e0, fun _ => e1⟩

theorem ExtRow.only (f : LongForm n P dec enc) (h : ∀ o, encodeBody (c o) = some (op, enc o) := by intro _; rfl) :
    ExtRow op b (only n (put c (dec b))) := by
  intro hl
  unfold Enc.only
  split
  · next hn => exact Row.ofLong f h hl hn
  · exact Row.error _

theorem ExtRow.xrxi {Q : β → Prop} {dec' : Body → Dec β} {enc' : β → Body} {c' : β → Instr} (f : LongForm 0 P dec enc)
    (g : LongForm 1 Q dec' enc') (h : ∀ o, encodeBody (c o) = some (op, enc o) := by intro _; rfl)
    (h' : ∀ o, encodeBody (c' o) = some (op, enc' o) := by intro _; rfl) :
    ExtRow op b (xrxi (put c (dec b)) (put c' (dec' b))) := by
  intro hl
  unfold Enc.xrxi
  split
  · next hn => exact Row.ofLong f h hl hn
  · split
    · next hn => exact Row.ofLong g h' hl hn
    · exact Row.error _

theorem decode0x_row (lo : Nat) : Row (0x00 + lo) b (decode0x lo b) := by
  unfold decode0x
  split
  · exact Row.short (sForm wdSub_coded)
  · exact Row.long (ExtRow.only smoviForm)
  · exact Row.both (sForm wdSub_coded) (ExtRow.xrxi (srForm wdSub_coded) siwForm)
  · exact Row.both (sForm wdSub_coded) (ExtRow.xrxi (srForm wdSub_coded) siwForm)
  · exact Row.both (sForm wdSub_coded) (ExtRow.xrxi (srForm wdSub_coded) siwForm)
  · exact Row.both (sForm itySub_coded) (ExtRow.only (srForm itySub_coded))
  · exact Row.both (sForm itySub_coded) (ExtRow.xrxi (srForm itySub_coded) (siForm itySub_coded))
  · exact Row.both (sForm itySub_coded) (ExtRow.xrxi (srForm itySub_coded) (siForm itySub_coded))
  · exact Row.both (sForm wdSub_coded) (ExtRow.xrxi (srForm wdSub_coded) siwForm)
  · exact Row.both (sForm wdSub_coded) (ExtRow.xrxi (srForm wdSub_coded) siwForm)
  · exact Row.both (sForm wdSub_coded) (ExtRow.xrxi (srForm wdSub_coded) siwForm)
  · exact Row.both (sForm wdSub_coded) (ExtRow.xrxi (srForm wdSub_coded) siwForm)
  · exact Row.both (sForm wdSub_coded) (ExtRow.xrxi (srForm wdSub_coded) siwForm)
  · exact Row.both (sForm wdSub_coded) (ExtRow.xrxi (srForm wdSub_coded) siwForm)
  · exact Row.both (sForm cmpSub_coded) (ExtRow.xrxi (srForm cmpSub_coded) (siForm cmpSub_coded))
  · exact Row.error _

theorem decode1x_row (lo : Nat) : Row (0x10 + lo) b (decode1x lo b) := by
  unfold decode1x
  split
  · exact Row.both (sForm cmpSub_coded) (ExtRow.xrxi (srForm cmpSub_coded) (siForm cmpSub_coded))
  · exact Row.long (ExtRow.only (srForm wdSub_coded))
  · exact Row.long (ExtRow.only (siForm wdSub_coded))
  · exact Row.long (ExtRow.only srdlaneForm)
  · exact Row.short smovtForm
  · exact Row.short srdForm
  · exact Row.short swrForm
  · exact Row.error _

theorem decode2x_row (lo : Nat) : Row (0x20 + lo) b (decode2x lo b) := by
  unfold decode2x
  split
  · exact Row.both (v1Form wdTs_coded) (ExtRow.only (vr1Form wdTs_coded))
  · exact Row.long (ExtRow.only moviForm)
  · exact Row.long (ExtRow.only vmovsForm)
  · exact Row.both (vForm ityTs_coded) (ExtRow.xrxi (vrsForm ityTs_coded) (visForm ityTs_coded))
  · exact Row.long (ExtRow.only iaddcForm)
  · exact Row.both (vForm ityTs_coded) (ExtRow.xrxi (vrsForm ityTs_coded) (visForm ityTs_coded))
  · exact Row.both (vForm ityTs_coded) (ExtRow.xrxi (vrsForm ityTs_coded) (visForm ityTs_coded))
  · exact Row.both (vForm ityTs_coded) (ExtRow.only (vrForm ityTs_coded))
  · exact Row.long (ExtRow.only (vrcsForm ityTs_coded))
  · exact Row.both (vForm ityTs_coded) (ExtRow.xrxi (vrForm ityTs_coded) (viForm ityTs_coded))
  · exact Row.both (vForm ityTs_coded) (ExtRow.xrxi (vrForm ityTs_coded) (viForm ityTs_coded))
  · exact Row.both (v1Form ityTs_coded) (ExtRow.only (vr1sForm ityTs_coded))
  · exact Row.both (v1Form ityTs_coded) (ExtRow.only (vr1sForm ityTs_coded))
  · exact Row.long (ExtRow.only (vrcForm ityTs_coded))
  · exact Row.long (ExtRow.xrxi icmpRForm icmpIForm)
  · exact Row.long (ExtRow.only iselForm)
  · exact Row.error _

theorem decode3x_row (lo : Nat) : Row (0x30 + lo) b (decode3x lo b) := by
  unfold decode3x
  split
  · exact Row.both (vForm wdTs_coded) (ExtRow.xrxi (vrForm wdTs_coded) (viForm wdTs_coded))
  · exact Row.both (vForm wdTs_coded) (ExtRow.xrxi (vrForm wdTs_coded) (viForm wdTs_coded))
  · exact Row.both (vForm wdTs_coded) (ExtRow.xrxi (vrForm wdTs_coded) (viForm wdTs_coded))
  · exact Row.both (vForm wdTs_coded) (ExtRow.xrxi (vrForm wdTs_coded) (viForm wdTs_coded))
  · exact Row.long (ExtRow.only lmuxForm)
  · exact Row.long (ExtRow.only bfxForm)
  · exact Row.long (ExtRow.only bfiForm)
  · exact Row.both (v1Form wdTs_coded) (ExtRow.only (vr1Form wdTs_coded))
  · exact Row.both (v1Form wdTs_coded) (ExtRow.only (vr1Form wdTs_coded))
  · exact Row.both (v1Form wdTs_coded) (ExtRow.only (vr1Form wdTs_coded))
  · exact Row.long (ExtRow.only bytepForm)
  · exact Row.error _

theorem decode4x_row (lo : Nat) : Row (0x40 + lo) b (decode4x lo b) := by
  unfold decode4x
  split
  · exact Row.both (vForm ftyTs_coded) (ExtRow.only frForm)
  · exact Row.both (vForm ftyTs_coded) (ExtRow.only frForm)
  · exact Row.both (vForm ftyTs_coded) (ExtRow.only frForm)
  · exact Row.long (ExtRow.only fmaForm)
  · exact Row.both (vForm ftyTs_coded) (ExtRow.only (vrForm ftyTs_coded))
  · exact Row.both (vForm ftyTs_coded) (ExtRow.only (vrForm ftyTs_coded))
  · exact Row.long (ExtRow.only fcmpForm)
  · exact Row.long (ExtRow.only fselForm)
  · exact Row.long (ExtRow.only fclassForm)
  · exact Row.both (v1Form ftyTs_coded) (ExtRow.only frndForm)
  · exact Row.long (ExtRow.only cvtForm)
  · exact Row.long (ExtRow.only cvtsrForm)
  · exact Row.long (ExtRow.only packForm)
  · exact Row.long (ExtRow.only unpackForm)
  · exact Row.both xForm (ExtRow.only xrForm)
  · exact Row.both xForm (ExtRow.only xrForm)
  · exact Row.error _

theorem decode5x_row (lo : Nat) : Row (0x50 + lo) b (decode5x lo b) := by
  unfold decode5x
  split
  · exact Row.both xForm (ExtRow.only xrForm)
  · exact Row.both xForm (ExtRow.only xrForm)
  · exact Row.both xForm (ExtRow.only xrForm)
  · exact Row.both srngVForm (ExtRow.only srngRForm)
  · exact Row.error _

theorem decode6x_row (lo : Nat) : Row (0x60 + lo) b (decode6x lo b) := by
  unfold decode6x
  split
  · exact Row.both (vForm wdTs_coded) (ExtRow.only (vrForm wdTs_coded))
  · exact Row.long (ExtRow.only xpushForm)
  · exact Row.long (ExtRow.xrxi xbcastRForm xbcastIForm)
  · exact Row.long (ExtRow.only xballotForm)
  · exact Row.long (ExtRow.only xvoteForm)
  · exact Row.long (ExtRow.only xvoteForm)
  · exact Row.long (ExtRow.only xpfxForm)
  · exact Row.short kclrForm
  · exact Row.both kaddForm (ExtRow.only kaddRForm)
  · exact Row.long (ExtRow.only krndForm)
  · exact Row.long (ExtRow.only kscanForm)
  · exact Row.long (ExtRow.only kimageForm)
  · exact Row.long (ExtRow.only kimageForm)
  · exact Row.error _

theorem decode7x_row (lo : Nat) : Row (0x70 + lo) b (decode7x lo b) := by
  unfold decode7x
  split
  · exact Row.long (ExtRow.only (memForm nty_coded))
  · exact Row.long (ExtRow.only (memForm wty_coded))
  · exact Row.long (ExtRow.only (memForm sty_coded))
  · exact Row.long (ExtRow.only (memForm unit_coded))
  · exact Row.long (ExtRow.only (memForm nty_coded))
  · exact Row.long (ExtRow.only (memForm wty_coded))
  · exact Row.long (ExtRow.only (memForm sty_coded))
  · exact Row.long (ExtRow.only (memForm unit_coded))
  · exact Row.long (ExtRow.only atomForm)
  · exact Row.long (ExtRow.only atomForm)
  · exact Row.long (ExtRow.only atomForm)
  · exact Row.long (ExtRow.only (memForm wty_coded))
  · exact Row.long (ExtRow.only (memForm wty_coded))
  · exact Row.long (ExtRow.only (memForm wty_coded))
  · exact Row.long (ExtRow.only lineForm)
  · exact Row.long (ExtRow.only prefbForm)
  · exact Row.error _

theorem decode8x_row (lo : Nat) : Row (0x80 + lo) b (decode8x lo b) := by
  unfold decode8x
  split
  · exact Row.long (ExtRow.only lineForm)
  · exact Row.long (ExtRow.only lineForm)
  · exact Row.long (ExtRow.only gcvtForm)
  · exact Row.long (ExtRow.only gcvtForm)
  · exact Row.error _

theorem decode9x_row (lo : Nat) : Row (0x90 + lo) b (decode9x lo b) := by
  unfold decode9x
  split
  · exact Row.long (ExtRow.only tldForm)
  · exact Row.long (ExtRow.only tstForm)
  · exact Row.short tileForm
  · exact Row.short tileSForm
  · exact Row.short tileSForm
  · exact Row.short tileSForm
  · exact Row.short tileSForm
  · exact Row.short tileSForm
  · exact Row.short ardForm
  · exact Row.short awrForm
  · exact Row.short tileSForm
  · exact Row.error _

theorem decodeAx_row (lo : Nat) : Row (0xA0 + lo) b (decodeAx lo b) := by
  unfold decodeAx
  split
  · exact Row.long (ExtRow.only copyForm)
  · exact Row.long (ExtRow.only copyForm)
  · exact Row.long (ExtRow.only copyForm)
  · exact Row.long (ExtRow.only copyForm)
  · exact Row.long (ExtRow.only copyForm)
  · exact Row.long (ExtRow.only copyForm)
  · exact Row.error _

theorem decodeBx_row (lo : Nat) : Row (0xB0 + lo) b (decodeBx lo b) := by
  unfold decodeBx
  split
  · exact Row.long (ExtRow.only enckeForm)
  · exact Row.long (ExtRow.only enckeForm)
  · exact Row.long (ExtRow.only enckeForm)
  · exact Row.long (ExtRow.only enckeForm)
  · exact Row.long (ExtRow.only taskForm)
  · exact Row.long (ExtRow.only taskForm)
  · exact Row.long (ExtRow.only eng2Form)
  · exact Row.long (ExtRow.only eng2Form)
  · exact Row.long (ExtRow.only eng3Form)
  · exact Row.error _

theorem decodeCx_row (lo : Nat) : Row (0xC0 + lo) b (decodeCx lo b) := by
  unfold decodeCx
  split
  · exact Row.short cImmForm
  · exact Row.long (ExtRow.only brcForm)
  · exact Row.long (ExtRow.only cvForm)
  · exact Row.long (ExtRow.only jtabForm)
  · exact Row.long (ExtRow.only cvImmForm)
  · exact Row.long (ExtRow.only cvForm)
  · exact Row.long (ExtRow.only cvForm)
  · exact Row.short cImmForm
  · exact Row.short cForm
  · exact Row.short cForm
  · exact Row.short cForm
  · exact Row.short cForm
  · exact Row.short cForm
  · exact Row.short barForm
  · exact Row.long (ExtRow.only barsetForm)
  · exact Row.long (ExtRow.only phaseForm)
  · exact Row.error _

theorem decodeDx_row (lo : Nat) : Row (0xD0 + lo) b (decodeDx lo b) := by
  unfold decodeDx
  split
  · exact Row.long (ExtRow.only phaseForm)
  · exact Row.long (ExtRow.only waitaForm)
  · exact Row.short dwaitForm
  · exact Row.error _

theorem decodeEx_row (lo : Nat) : Row (0xE0 + lo) b (decodeEx lo b) := by
  unfold decodeEx
  split
  · exact Row.short cImmForm
  · exact Row.short cImmForm
  · exact Row.short ecallForm
  · exact Row.short phintForm
  · exact Row.long (ExtRow.only switchCForm)
  · exact Row.long (ExtRow.only fenceForm)
  · exact Row.long (ExtRow.only switchCForm)
  · exact Row.short shadowForm
  · exact Row.long (ExtRow.only csForm)
  · exact Row.error _

theorem decodeOp_row (op : Nat) : Row op b (decodeOp op b) := by
  have hop : 16 * (op / 16) + op % 16 = op := Nat.div_add_mod op 16
  unfold decodeOp
  generalize op / 16 = hi at *
  generalize op % 16 = lo at *
  subst hop
  split
  · exact decode0x_row lo
  · exact decode1x_row lo
  · exact decode2x_row lo
  · exact decode3x_row lo
  · exact decode4x_row lo
  · exact decode5x_row lo
  · exact decode6x_row lo
  · exact decode7x_row lo
  · exact decode8x_row lo
  · exact decode9x_row lo
  · exact decodeAx_row lo
  · exact decodeBx_row lo
  · exact decodeCx_row lo
  · exact decodeDx_row lo
  · exact decodeEx_row lo
  · exact Row.error _

end

end Sys2Proof.Enc

namespace Sys2Proof

open Enc

/-! ## Words and bytes -/

/-- No instruction has opcode 0x00 or 0xF0 and above (R75). -/
theorem op_of_decodeOp {op : Nat} {b : Body} {i : Instr} (h : decodeOp op b = .ok i) : op ≠ 0 ∧ op < 0xF0 := by
  constructor
  · rintro rfl
    cases h
  · by_contra hge
    have hk : 15 ≤ op / 16 := by omega
    obtain ⟨k, hk⟩ := Nat.exists_eq_add_of_le hk
    unfold decodeOp at h
    rw [hk, Nat.add_comm] at h
    cases h

/-- The first word of opcode `op` and body `e` (R40). -/
def firstWord (op : Nat) (e : Body) : Nat := op * 2 ^ 24 + e.l.toNat * 2 ^ 23 + e.w0

section

variable {op : Nat} {e : Body}

theorem firstWord_lt (ho : op < 256) (h : e.w0 < 2 ^ 23) : firstWord op e < 2 ^ 32 := by
  have := e.l.toNat_lt
  unfold firstWord
  omega

theorem firstWord_op (ho : op < 256) (h : e.w0 < 2 ^ 23) : firstWord op e / 2 ^ 24 % 256 = op := by
  have := e.l.toNat_lt
  unfold firstWord
  omega

theorem firstWord_body (h : e.w0 < 2 ^ 23) : firstWord op e % 2 ^ 23 = e.w0 := by
  unfold firstWord
  omega

theorem firstWord_long (h : e.w0 < 2 ^ 23) : isLong (firstWord op e) = e.l := by
  have := e.l.toNat_lt
  exact bit_eq (by unfold firstWord; omega)

end

/-- A word is its opcode, its L bit and the rest. -/
theorem eq_firstWord {w0 w1 : Nat} (h : w0 < 2 ^ 32) :
    w0 = firstWord (w0 / 2 ^ 24 % 256) ⟨isLong w0, w0 % 2 ^ 23, w1⟩ := by
  unfold firstWord isLong
  simp only [bit_toNat]
  omega

/-- An assigned opcode's word occupies two slots where L is 1 (R75). -/
theorem slotsOf_eq {w0 : Nat} (h0 : w0 / 2 ^ 24 % 256 ≠ 0) (hf : w0 / 2 ^ 24 % 256 < 0xF0) :
    slotsOf w0 = if isLong w0 then 2 else 1 := by
  have h15 : w0 / 2 ^ 24 % 256 / 16 ≠ 15 := by omega
  simp only [slotsOf, beq_iff_eq, h0, h15, Bool.or_eq_true, or_self, if_false]

theorem leNat_natLe (n v : Nat) : leNat (natLe n v) = v % 256 ^ n := by
  induction n generalizing v with
  | zero => simp [natLe, leNat, Nat.mod_one]
  | succ n ih =>
    rw [natLe, leNat, ih, BitVec.toNat_ofNat, Nat.pow_succ' (m := 256)]
    exact Nat.mod_mul.symm

theorem natLe_length (n v : Nat) : (natLe n v).length = n := by
  induction n generalizing v with
  | zero => rfl
  | succ n ih => rw [natLe, List.length_cons, ih]

/-- The bytes of a word, read back. -/
theorem leNat_word {w : Nat} (h : w < 2 ^ 32) : leNat (natLe 4 (BitVec.ofNat 32 w).toNat) = w := by
  rw [leNat_natLe, BitVec.toNat_ofNat]
  omega

theorem decode_eq_ok {w0 w1 : Nat} {i : Instr} :
    decode w0 w1 = .ok i ↔
      decodeOp (w0 / 2 ^ 24 % 256) ⟨isLong w0, w0 % 2 ^ 23, w1⟩ = .ok i ∧ wellFormed i = true := by
  unfold decode
  cases decodeOp (w0 / 2 ^ 24 % 256) ⟨isLong w0, w0 % 2 ^ 23, w1⟩ with
  | error r => simp
  | ok j =>
    by_cases hw : wellFormed j = true
    · simp only [hw, if_true, Except.ok.injEq]
      exact ⟨fun h => ⟨h, h ▸ hw⟩, fun h => h.1⟩
    · simp only [hw, Bool.false_eq_true, if_false, reduceCtorEq, Except.ok.injEq, false_iff, not_and]
      rintro rfl
      exact hw

/-- The words of an instruction decode to it. -/
theorem decode_of_reads {i : Instr} {op : Nat} {e : Body} (h : Reads i op e) (hw : wellFormed i = true) :
    decode (firstWord op e) e.w1 = .ok i := by
  have hop : op < 256 := by have := (op_of_decodeOp h.decodes).2; omega
  refine decode_eq_ok.mpr ⟨?_, hw⟩
  rw [firstWord_op hop h.w0_lt, firstWord_long h.w0_lt, firstWord_body h.w0_lt]
  exact h.decodes

/-- The encoder writes the first word and, of a long form, the extension word. -/
theorem encode_eq {i : Instr} {op : Nat} {e : Body} (h : encodeBody i = some (op, e)) :
    encode i = if e.l then [BitVec.ofNat 32 (firstWord op e), BitVec.ofNat 32 e.w1]
      else [BitVec.ofNat 32 (firstWord op e)] := by
  unfold encode encodeWords
  cases hl : e.l <;> simp only [h, hl, firstWord, Bool.false_eq_true, if_true, if_false]

/-- Bytes that hold just one instruction's words decode to it, with none left. -/
theorem decodeBytes_of_decode {bs : List Byte} {w0 w1 : Nat} {i : Instr} (h0 : leNat (bs.take 4) = w0)
    (hn : bs.length = 4 * slotsOf w0) (h1 : leNat ((bs.drop 4).take (4 * slotsOf w0 - 4)) = w1) (hd : decode w0 w1 = .ok i) :
    decodeBytes bs = .ok (i, []) := by
  have hs : 1 ≤ slotsOf w0 := by
    unfold slotsOf
    dsimp only
    split
    · omega
    · split <;> omega
  unfold decodeBytes
  rw [if_neg (by omega)]
  dsimp only
  rw [h0, if_neg (by omega), h1, hd, List.drop_of_length_le (by omega)]

/-- Settles O4: the words of each shape decode to its operands, the opcode map leads back to the shape, and the bytes of a
word read back as the word. -/
theorem decodeEncode : Obligations.DecodeEncode := by
  unfold Obligations.DecodeEncode
  intro i hw
  obtain ⟨op, e, he, h⟩ := encodeBody_reads hw
  obtain ⟨ho0, hof⟩ := op_of_decodeOp h.decodes
  have hop : op < 256 := by omega
  have hlt := firstWord_lt hop h.w0_lt
  have hs : slotsOf (firstWord op e) = if e.l then 2 else 1 := by
    rw [← firstWord_long h.w0_lt]
    exact slotsOf_eq (by rwa [firstWord_op hop h.w0_lt]) (by rwa [firstWord_op hop h.w0_lt])
  have hd := decode_of_reads h hw
  cases hl : e.l with
  | false =>
    have hb : encodeBytes i = natLe 4 (BitVec.ofNat 32 (firstWord op e)).toNat := by simp [encodeBytes, encode_eq he, hl]
    rw [hl, if_neg Bool.false_ne_true] at hs
    rw [h.w1_zero hl] at hd
    rw [hb]
    refine decodeBytes_of_decode ?_ ?_ ?_ hd
    · rw [List.take_of_length_le (by rw [natLe_length]), leNat_word hlt]
    · rw [natLe_length, hs]
    · rw [hs, List.take_zero, leNat]
  | true =>
    have hb : encodeBytes i = natLe 4 (BitVec.ofNat 32 (firstWord op e)).toNat ++ natLe 4 (BitVec.ofNat 32 e.w1).toNat := by
      simp [encodeBytes, encode_eq he, hl]
    rw [hl, if_pos rfl] at hs
    rw [hb]
    refine decodeBytes_of_decode ?_ ?_ ?_ hd
    · rw [List.take_left' (natLe_length _ _), leNat_word hlt]
    · rw [List.length_append, natLe_length, natLe_length, hs]
    · rw [hs, List.drop_left' (natLe_length _ _), List.take_of_length_le (by rw [natLe_length]), leNat_word h.w1_lt]

/-- Settles O5: unassigned opcodes have no row, the decoder asks for well-formedness, and each row writes back what it read. -/
theorem decodeRejects : Obligations.DecodeRejects := by
  unfold Obligations.DecodeRejects
  refine ⟨fun w0 w1 h => ?_, fun w0 w1 i h => ?_, fun w0 w1 i h0 h1 h => ?_⟩
  · cases hd : decode w0 w1 with
    | error r => exact ⟨r, rfl⟩
    | ok i =>
      obtain ⟨hop, -⟩ := decode_eq_ok.mp hd
      obtain ⟨ho0, hof⟩ := op_of_decodeOp hop
      omega
  · exact (decode_eq_ok.mp h).2
  · obtain ⟨hop, -⟩ := decode_eq_ok.mp h
    obtain ⟨ho0, hof⟩ := op_of_decodeOp hop
    obtain ⟨e, he, hl, hw0, hw1⟩ := decodeOp_row _ (Nat.mod_lt _ (Nat.two_pow_pos 23)) h1 i hop
    have hw : firstWord (w0 / 2 ^ 24 % 256) e = w0 := by
      conv_rhs => rw [eq_firstWord (w1 := w1) h0]
      simp only [firstWord, hl, hw0]
    rw [slotsOf_eq ho0 hof, encode_eq he, hw, hl]
    cases hb : isLong w0 with
    | false => rfl
    | true => simp only [hb, forall_const] at hw1; simp only [if_true, hw1]

end Sys2Proof

namespace Sys2Proof.Machine

/-! # Steps of the group under issue (spec/02_clauses_and_formats.md R31, R32, R43, R44) -/

theorem step_of_issue {s : State} {iss : Issue} (h : s.issue = some iss) : step s = runIssue iss s := by
  unfold step
  rw [h]

theorem step_of_due {s : State} {d : Due} {ds : List Due} (h : s.issue = none) (ha : s.agenda = d :: ds) :
    step s = Due.run d { s with agenda := ds } := by
  unfold step
  rw [h, ha]

/-- A fetch that gives the first word, and the second where the first asks for one, gives what the words decode to. -/
theorem fetchAt_eq {s : State} {die ctx : Nat} {pc : Pc} {w0 w1 : Nat}
    (h0 : fetchWord s die ctx (pc.clause + 4 * (pc.slot + 1)) = .ok w0)
    (h1 : slotsOf w0 = 2 → fetchWord s die ctx (pc.clause + 4 * (pc.slot + 1) + 4) = .ok w1)
    (hz : slotsOf w0 ≠ 2 → w1 = 0) : fetchAt s die ctx pc = decoded w0 w1 := by
  unfold fetchAt slotVa
  dsimp only
  rw [h0]
  by_cases hs : slotsOf w0 = 2
  · simp only [if_pos hs, h1 hs]
  · simp only [if_neg hs, hz hs]

theorem decoded_of_ok {w0 w1 : Nat} {i : Instr} (h : decode w0 w1 = .ok i) : decoded w0 w1 = .ok i := by
  unfold decoded
  rw [h]

theorem decoded_of_error {w0 w1 : Nat} {r : Reject} (h : decode w0 w1 = .error r) : decoded w0 w1 = .illegal := by
  unfold decoded
  rw [h]

theorem runIssue_of_ok {s : State} {iss : Issue} {b : Band} {t : Team} {g : Grid} {i : Instr}
    (hh : State.home s iss.band = some (b, t, g)) (hi : instrOf s iss.band g.ctx iss.grp.pc iss.grp.replay = .ok i) :
    runIssue iss s = exec i s := by
  unfold runIssue
  simp only [hh, hi]

theorem runIssue_of_illegal {s : State} {iss : Issue} {b : Band} {t : Team} {g : Grid}
    (hh : State.home s iss.band = some (b, t, g)) (hi : instrOf s iss.band g.ctx iss.grp.pc iss.grp.replay = .illegal) :
    runIssue iss s = .next (endIssue (Issue.issued iss) (deliverAll iss.band iss.grp.pc
      ((lanesHere b iss.grp.pc).map fun l => ⟨l, causeIllegalInsn, 0⟩) s)) := by
  unfold runIssue
  simp only [hh, hi]

theorem instrOf_fetched {s : State} {key ctx : Nat} {pc : Pc} {r : Option Nat} (h : r = none) :
    instrOf s key ctx pc r = fetchAt s (key / 1024) ctx pc := by
  rw [h]
  rfl

theorem instrOf_logged {s : State} {key ctx n : Nat} {pc : Pc} {r : Option Nat} {f : Frag} (h : r = some n)
    (hf : Table.find n (State.core s (key / 64)).frags = some f) :
    instrOf s key ctx pc r = decoded f.log.w0 f.log.w1 := by
  unfold instrOf
  simp only [h, hf]

/-- Settles O6: each worked encoding is decoded by evaluation. -/
theorem decodeWords : Obligations.DecodeWords := by
  unfold Obligations.DecodeWords
  decide

/-- Settles O7: the words the fetch gives, or the log keeps, are decoded and run. -/
theorem stepRunsDecodedInstruction : Obligations.StepRunsDecodedInstruction := by
  unfold Obligations.StepRunsDecodedInstruction
  refine ⟨fun s iss b t g w0 w1 i hi hh hr h0 h1 hz hd => ?_, fun s iss b t g n f i hi hh hr hf hd => ?_,
    fun s d ds => step_of_due⟩
  · rw [step_of_issue hi]
    exact runIssue_of_ok hh ((instrOf_fetched hr).trans ((fetchAt_eq h0 h1 hz).trans (decoded_of_ok hd)))
  · rw [step_of_issue hi]
    exact runIssue_of_ok hh ((instrOf_logged hr hf).trans (decoded_of_ok hd))

/-- Settles O8: the words the fetch gives decode to nothing. -/
theorem illegalWord : Obligations.IllegalWord := by
  unfold Obligations.IllegalWord
  intro s iss b t g w0 w1 r hi hh hr h0 h1 hz hd
  rw [step_of_issue hi]
  exact runIssue_of_illegal hh ((instrOf_fetched hr).trans ((fetchAt_eq h0 h1 hz).trans (decoded_of_error hd)))

/-! ## An instruction whose guard is false everywhere (R44) -/

/-- Without an active lane the effect is left out: the group's lanes go on, and a counted replay gives its count back. -/
theorem perform_of_idle {i : Instr} {own : Own} {eff : Ix → State → Res} {iss : Issue} {x : Ix} {s : State} (h : x.act = []) :
    perform i own eff iss x s = State.modBand
      (if Ix.again x then countDown x.key (counterOf i) (beginReplay x s) else beginReplay x s) x.key
      (advance x (slotCount i) x.sel) := by
  have hm : mismatched i (uses i) iss (opcodeOf i) [] = [] := by
    unfold mismatched
    simp
  have hs : sensePoison i x [] (beginReplay x s) = beginReplay x s := rfl
  have hf : ∀ ls : List Nat, ls.filterMap (fun _ => (none : Option Trap)) = [] := fun _ => filterMap_none fun _ _ => rfl
  have hk : ∀ ls : List Nat, ls.filter (fun _ => true) = ls := fun ls => by simp
  unfold perform
  simp only [h, List.filterMap_nil, hm, hs, List.isEmpty_nil, if_true, List.map_nil, List.append_nil,
    List.find?_nil, hf, List.any_nil, List.elem_nil, Bool.not_false, Bool.and_true, hk, deliverAll, List.foldl_nil]

theorem issueUnless_of_free {i : Instr} {hold : Ix → State → Bool} {own : Own} {eff : Ix → State → Res} {iss : Issue} {x : Ix}
    {s : State} (hi : s.issue = some iss) (hx : indexOf s iss.band iss.grp (uses i).g = some x) (hu : heldUp i x s = false)
    (hh : hold x s = false) :
    issueUnless i hold own eff s = .next (endIssue (Issue.issued iss) (perform i own eff iss x s)) := by
  unfold issueUnless
  simp [hi, hx, hu, hh]

/-- Every instruction that has an encoding issues in the shell of R347, under its chapter's own hold. -/
theorem exec_issues {i : Instr} (h : (encodeBody i).isSome = true) :
    ∃ own eff, ∀ s, exec i s = issueUnless i (extraHold i) own eff s := by
  cases i with
  | smov o | smovi o | saddS o | saddSR o | saddSI o | ssubS o | ssubSR o | ssubSI o | smulS o | smulSR o | smulSI o
  | smulhS o | smulhSR o | sdivS o | sdivSR o | sdivSI o | sremS o | sremSR o | sremSI o | sandS o | sandSR o | sandSI o
  | sorS o | sorSR o | sorSI o | sxorS o | sxorSR o | sxorSI o | sshlS o | sshlSR o | sshlSI o | sshrS o | sshrSR o
  | sshrSI o | ssraS o | ssraSR o | ssraSI o | scmpI32S o | scmpI32SR o | scmpI32SI o | scmpN32S o | scmpN32SR o
  | scmpN32SI o | ssel o | sldc o | srdlane o | smovt o | srd o | swr o | movV o | movVR o | movi o | vmovs o | iaddV o
  | iaddVR o | iaddVI o | iaddc o | isubV o | isubVR o | isubVI o | imulV o | imulVR o | imulVI o | imulhV o | imulhVR o
  | imad o | iminV o | iminVR o | iminVI o | imaxV o | imaxVR o | imaxVI o | iabsV o | iabsVR o | inegV o | inegVR o
  | isad o | icmpVR o | icmpVI o | isel o | shlV o | shlVR o | shlVI o | shrV o | shrVR o | shrVI o | sraV o | sraVR o
  | sraVI o | rotV o | rotVR o | rotVI o | lmux o | bfx o | bfi o | popcV o | popcVR o | clzV o | clzVR o | brevV o
  | brevVR o | bytep o | faddV o | faddVR o | fsubV o | fsubVR o | fmulV o | fmulVR o | fma o | fminV o | fminVR o | fmaxV o
  | fmaxVR o | fcmp o | fsel o | fclass o | frndV o | frndVR o | cvt o | cvtsr o | pack o | unpack o | rcpV o | rcpVR o
  | rsqV o | rsqVR o | sqrtV o | sqrtVR o | exp2V o | exp2VR o | log2V o | log2VR o | srngV o | srngVR o | xpullV o
  | xpullVR o | xpush o | xbcastVR o | xbcastVI o | xballot o | xany o | xall o | xpfx o | kclr | kaddV o | kaddVR o
  | krnd o | kscan o | ksave o | kload o | ldNarrow o | ldWide o | stNarrow o | stB128 o | ldsNarrow o | ldsWide o
  | stsNarrow o | stsB128 o | atom o | red o | atomr o | ldr o | str o | strStrm o | pref o | prefb o | cflush o | cinv o
  | gcvt o | gtest o | tld o | tst o | tzero o | tfmt o | mma o | macq o | mrel o | mwait o | ard o | awr o | mreset o
  | cpy o | cpy2 o | cpyt o | cpyg o | cpys o | cfill o | pkload o | pkq o | pku o | pkstat o | spawn o | take o | launch o
  | cbset o | cbwait o | bra o | brc o | jmpx o | jtab o | call o | callx o | ret o | rjset o | rjwait o | rjdrop o | exit o
  | nop o | yield o | bar o | barset o | pharr o | phwait o | waita o | dwait o | trap o | brk o | ecall o | phint o
  | tmarm o | fence o | pwint o | shadow o | fragq o => exact ⟨_, _, fun _ => rfl⟩
  | _ => exact nomatch h

/-- Settles O9: every encodable instruction issues in one shell, which without an active lane only moves the lanes on. -/
theorem guardFalse : Obligations.GuardFalse := by
  unfold Obligations.GuardFalse
  intro i s iss x he hi hx hu hh ha
  obtain ⟨own, eff, hexec⟩ := exec_issues he
  rw [hexec, issueUnless_of_free hi hx hu hh, perform_of_idle ha]
  rfl

end Sys2Proof.Machine

namespace Sys2Proof.Machine

/-! # The frame of short-latency instructions (spec/02_clauses_and_formats.md R36) -/

/-! ## What the end of an issue leaves of the state and of the band -/

/-- The end of a band-cycle changes bands alone. -/
theorem cycleEnd_frame (iss : Issue) (s : State) : cycleEnd iss s = { s with bands := (cycleEnd iss s).bands } := by
  unfold cycleEnd starveEnd
  split
  · rfl
  · split <;> rfl

/-- Lanes that go on and the end of their issue change bands, and whose issue comes next. -/
theorem afterIssue_frame {i : Instr} {iss j : Issue} {x : Ix} {ls : List Nat} {t : State} (h : t.issue = some j)
    (hr : j.reeval = false) :
    afterIssue i iss x ls t = { t with bands := (afterIssue i iss x ls t).bands, issue := (afterIssue i iss x ls t).issue } := by
  have e := afterIssue_rest (i := i) (iss := iss) (x := x) (ls := ls) h hr
  rw [cycleEnd_frame] at e
  rw [e]
  rfl

/-- A band after the issue of one of its groups: the lanes `ls` have gone on, and the band-cycle may have ended. -/
def bandAfter (i : Instr) (iss : Issue) (x : Ix) (ls : List Nat) (b : Band) : Band :=
  if iss.second.isSome ∨ (Issue.issued iss).done = 0 then advance x (slotCount i) ls b
  else starveBand (Issue.issued iss).done iss.ready (advance x (slotCount i) ls b)

theorem find_afterIssue {i : Instr} {iss j : Issue} {x : Ix} {ls : List Nat} {t : State} {b : Band} (h : t.issue = some j)
    (hr : j.reeval = false) (hk : x.key = iss.band) (hb : Table.find x.key t.bands = some b) :
    Table.find x.key (afterIssue i iss x ls t).bands = some (bandAfter i iss x ls b) :=
  afterIssue_band h hr hk hb

theorem bandAfter_rest (i : Instr) (iss : Issue) (x : Ix) (ls : List Nat) (b : Band) :
    bandAfter i iss x ls b = { b with lanes := (bandAfter i iss x ls b).lanes, yf := (bandAfter i iss x ls b).yf } := by
  unfold bandAfter
  split
  · exact advance_rest _ _ _ _
  · rw [starveBand_rest, advance_rest]

/-- What neither a starvation count nor the move of a lane changes, the band keeps of every lane. -/
theorem bandAfter_keeps {α : Type} (p : Lane → α) (i : Instr) (iss : Issue) (x : Ix) (ls : List Nat) (b : Band) (k : Nat)
    (hs : ∀ (y : Lane) (n : Nat), p { y with starve := n } = p y)
    (hm : ∀ y : Lane, p (Lane.step { y with pc := x.pc } x.hdr (slotCount i) x.replay.isSome) = p y) :
    p (Band.lane (bandAfter i iss x ls b) k) = p (Band.lane b k) := by
  unfold bandAfter
  split
  · exact advance_keeps p x _ ls b k hm
  · exact (starveBand_keeps p _ _ _ k hs).trans (advance_keeps p x _ ls b k hm)

/-- Of a lane that does not go on only the starvation count may change. -/
theorem bandAfter_not {i : Instr} {iss : Issue} {x : Ix} {ls : List Nat} {b : Band} {k : Nat} (h : k ∉ ls) (n : Nat) :
    { Band.lane (bandAfter i iss x ls b) k with starve := n } = { Band.lane b k with starve := n } := by
  unfold bandAfter
  split
  · rw [advance_not _ _ _ _ h]
  · exact (starveBand_keeps (fun y => { y with starve := n }) _ _ _ k fun _ _ => rfl).trans
      (by rw [advance_not x (slotCount i) ls b h])

/-! ## Instructions that hold their results -/

/-- Each instruction of the scalar table holds its result to the switch point and does nothing else. -/
theorem exec_of_scalarValue {i : Instr} (h : (scalarValue i).isSome) :
    ∃ hs : Ix → List Held, ∀ s, exec i s = issueWith i noCause (fun x s => { s := holdResults x.key (hs x) s }) s := by
  unfold scalarValue at h
  split at h
  on_goal -1 => exact nomatch h
  all_goals exact ⟨_, fun _ => rfl⟩

/-- So does each of the vector table. -/
theorem exec_of_vectorValue {i : Instr} (h : (vectorValue i).isSome) :
    ∃ hs : Ix → List Held, ∀ s, exec i s = issueWith i noCause (fun x s => { s := holdResults x.key (hs x) s }) s := by
  unfold vectorValue at h
  split at h
  on_goal -1 => exact nomatch h
  all_goals exact ⟨_, fun _ => rfl⟩

/-- So does each of the condition table. -/
theorem exec_of_condValue {i : Instr} (h : (condValue i).isSome) :
    ∃ hs : Ix → List Held, ∀ s, exec i s = issueWith i noCause (fun x s => { s := holdResults x.key (hs x) s }) s := by
  unfold condValue at h
  split at h
  on_goal -1 => exact nomatch h
  all_goals exact ⟨_, fun _ => rfl⟩

/-- Settles O42: the results are appended to those held, and what follows moves lanes and counts starvation. -/
theorem shortLatencyFrame : Obligations.ShortLatencyFrame := by
  unfold Obligations.ShortLatencyFrame
  intro i s iss x hv hg hrep hre
  have hsh : ∃ hs : Ix → List Held, ∀ s, exec i s = issueWith i noCause (fun x s => { s := holdResults x.key (hs x) s }) s := by
    rcases hv with h | h | h
    · exact exec_of_scalarValue h
    · exact exec_of_vectorValue h
    · exact exec_of_condValue h
  obtain ⟨hs, hexec⟩ := hsh
  obtain ⟨hkey, hband, -⟩ := indexOf_spec hg.index
  have hi : (holdResults x.key (hs x) s).issue = some iss := hg.issue
  rw [← hkey] at hband
  refine ⟨afterIssue i iss x x.sel (holdResults x.key (hs x) s), ?_, ?_⟩
  · rw [hexec, issueWith_of_goes hg rfl rfl, beginReplay_none hrep]
  · have hfind := find_afterIssue (i := i) (ls := x.sel) hi hre hkey (find_modBand (fun b => { b with held := b.held ++ hs x }) hband)
    have hne : ∀ k, k ≠ x.key →
        Table.find k (afterIssue i iss x x.sel (holdResults x.key (hs x) s)).bands = Table.find k s.bands :=
      fun k hk => (afterIssue_band_ne hi hre hkey hk).trans (find_modBand_ne _ _ hk)
    have hrest := bandAfter_rest i iss x x.sel { x.b with held := x.b.held ++ hs x }
    rw [afterIssue_frame hi hre]
    refine ⟨rfl, rfl, rfl, rfl, rfl, rfl, rfl, hne,
      _, hs x, hfind, ?_, ?_, ?_, ?_, ?_, fun l => ⟨?_, ?_, ?_, ?_, fun hl => ?_⟩⟩
    · rw [hrest]
    · rw [hrest]
    · rw [hrest]
    · rw [hrest]
    · rw [hrest]
    · exact bandAfter_keeps (fun y => y.v) i iss x x.sel _ l (fun _ _ => rfl) fun _ => rfl
    · exact bandAfter_keeps (fun y => y.c) i iss x x.sel _ l (fun _ _ => rfl) fun _ => rfl
    · exact bandAfter_keeps (fun y => y.tcause) i iss x x.sel _ l (fun _ _ => rfl) fun _ => rfl
    · exact bandAfter_keeps (fun y => y.gen) i iss x x.sel _ l (fun _ _ => rfl) fun _ => rfl
    · exact bandAfter_not hl _

end Sys2Proof.Machine

namespace Sys2Proof.Machine

open Sys2Proof.Forms

/-! # Long-latency results at issue (spec/02_clauses_and_formats.md R37, R38) -/

/-! ## Special functions and generators (R266, R267) -/

theorem exec_of_sfuForm {i : Instr} {f : Fp.Sfu} {d a : VReg} {md : Rnd} (h : sfuForm i = some (f, d, a, md)) (s : State) :
    exec i s = sfuOp i f d a md s := by
  unfold sfuForm at h
  split at h
  on_goal -1 => exact nomatch h
  all_goals
    cases h
    rfl

/-- What marks on destinations leave of their band: the marks, and every register. -/
theorem find_markPending {s : State} {key op : Nat} {ls regs : List Nat} {b : Band} (h : Table.find key s.bands = some b) :
    ∃ c, Table.find key (markPending key ls regs op s).bands = some c ∧ c.s = b.s ∧ c.fflags = b.fflags
      ∧ (∀ l, (Band.lane c l).v = (Band.lane b l).v)
      ∧ (ls.Nodup → ∀ l ∈ ls, ∀ r ∈ regs, (r, op) ∈ (Band.lane c l).pend) := by
  refine ⟨_, find_modBand _ h, ?_, ?_, fun l => ?_, fun hn l hl r hr => ?_⟩
  · dsimp only
    rw [Band.modLanes_rest]
  · dsimp only
    rw [Band.modLanes_rest]
  · dsimp only
    exact Band.lane_modLanes_keep (fun y => y.v) _ _ (by intro _ _; rfl) l
  · rw [Band.lane_modLanes _ _ hl hn]
    exact List.mem_append_right _ (List.mem_map_of_mem hr)

/-- A new operation stands under the next key, as it was made. -/
theorem find_newOp (i : Instr) (x : Ix) (k : OpKind) (dc : Dc) (sc : Scope) (o : Order) (as : List Acc) (hd : Bool) (n : Nat)
    (s : State) : ∃ op, Table.find s.nextKey (newOp i x k dc sc o as hd n s).2.ops = some op ∧ op.kind = k ∧ op.dc = dc
      ∧ op.accs = as :=
  ⟨_, Table.find_set _ _ _, rfl, rfl, rfl⟩

/-- The results of a special function in the active lanes, which land later. -/
def sfuAccs (x : Ix) (f : Fp.Sfu) (a : VReg) (md : Rnd) : List Acc :=
  x.act.map fun l => ⟨l, 0, 0, .out 0 0, 4, [], [], .performed, (Fp.sfu f (x.v l a.val).toNat md).1⟩

/-- What the issue of a special function leaves: an operation of its results, its marks, its flags. -/
def sfuStart (i : Instr) (x : Ix) (f : Fp.Sfu) (d a : VReg) (md : Rnd) (s : State) : State :=
  raiseFlags x.key (x.act.foldl (fun fl l => fl ||| (Fp.sfu f (x.v l a.val).toNat md).2) 0)
    (markPending x.key x.act [d.val] s.nextKey (newOp i x (.sfu d.val) none .band .rlx (sfuAccs x f a md) false 0 s).2)

theorem sfuOp_of_goes {i : Instr} {f : Fp.Sfu} {d a : VReg} {md : Rnd} {s : State} {iss : Issue} {x : Ix}
    (hg : Goes i noCause s iss x) :
    sfuOp i f d a md s = .next (afterIssue i iss x x.sel (sfuStart i x f d a md (beginReplay x s))) := by
  unfold sfuOp
  rw [issueWith_of_goes hg rfl rfl]
  simp only [sfuStart, sfuAccs, List.foldl_map, List.map_map]
  rfl

/-- Settles O16: the issue opens one operation and marks its destination; what follows keeps marks and flags. -/
theorem specialFunctions : Obligations.SpecialFunctions := by
  unfold Obligations.SpecialFunctions
  refine ⟨fun i f d a md s iss x hf hg hrep hre => ?_, fun r s iss x hg => ?_, fun o s iss x hg => ?_⟩
  · obtain ⟨hkey, -, -, -, hnodup, hsub⟩ := indexOf_spec hg.index
    have hgo := (exec_of_sfuForm hf s).trans (sfuOp_of_goes hg)
    rw [beginReplay_none hrep] at hgo
    have hi : (sfuStart i x f d a md s).issue = some iss := hg.issue
    obtain ⟨op, hop, hkind, hdc, haccs⟩ := find_newOp i x (.sfu d.val) none .band .rlx (sfuAccs x f a md) false 0 s
    refine ⟨_, op, hgo, ?_, hkind, hdc, ?_, ?_, ?_, fun b hb => ?_⟩
    · rw [afterIssue_frame hi hre]
      exact hop
    · rw [haccs, sfuAccs, List.map_map]
      rfl
    · rw [afterIssue_frame hi hre]
      rfl
    · rw [afterIssue_frame hi hre]
      rfl
    · obtain ⟨c, hc, hs, hfl, hv, hp⟩ := find_markPending (ls := x.act) (regs := [d.val]) (op := s.nextKey)
        (s := (newOp i x (.sfu d.val) none .band .rlx (sfuAccs x f a md) false 0 s).2) hb
      refine ⟨_, find_afterIssue hi hre hkey (find_modBand _ hc), ?_, ?_, fun l hl => ⟨?_, ?_⟩⟩
      · rw [bandAfter_rest, hfl]
        exact BitVec.or_comm _ _
      · rw [bandAfter_rest]
        exact hs
      · rw [bandAfter_keeps (fun y => y.pend) i iss x x.sel _ l (fun _ _ => rfl) fun _ => rfl]
        exact hp (hnodup.sublist hsub) l hl d.val (List.mem_singleton_self _)
      · rw [bandAfter_keeps (fun y => y.v) i iss x x.sel _ l (fun _ _ => rfl) fun _ => rfl]
        exact hv l
  · exact issueWith_of_goes hg rfl rfl
  · exact issueWith_of_goes hg rfl rfl

/-! ## Loads, stores, atomics and reductions (R173 to R183) -/

theorem nySize_eq (t : NTy) : NTy.size t = nySize t := by cases t <;> rfl
theorem nySigned_eq (t : NTy) : NTy.signed t = (t = .i8 || t = .i16) := by cases t <;> rfl
theorem sySize_eq (t : STy) : STy.size t = sySize t := by cases t <;> rfl
theorem wyRegs_eq (t : WTy) : WTy.regs t = wySize t / 4 := by cases t <;> rfl
theorem ayRegs_eq (t : AW) : AW.regs t = aySize t / 4 := by cases t <;> rfl

theorem genericAddr_fun (sr : SReg) (a : VReg) (off : Int) : (fun x l => genericAddr x l sr a off) = pairAddr sr a off :=
  funext fun x => funext fun l => genericAddr_eq sr a off x l

/-- What the issue of an access of a table's form leaves, at `s` after the replay has begun. -/
def MemForm.start (f : MemForm) (i : Instr) (x : Ix) (s : State) : State :=
  let as := accesses x s (AccessKind.need f.acc) f.size f.addr f.data f.cmp
  (startAccess i x f.kind (AccessKind.writes f.acc) f.dc f.scope f.order (if f.once then suppressLower as else as) f.regs s).s

section
variable {τ : Type} {i : Instr} {f : MemForm} {s : State} {iss : Issue} {x : Ix}

theorem loadOp_of_goes {o : OpMem τ} {z n : Nat} {sg : Bool} {addr : Ix → Nat → Nat} (h : loadForm o z n sg addr = some f)
    (hg : Goes i (accessCause f.acc true f.addr f.size) s iss x) :
    loadOp i o z n sg addr s = .next (afterIssue i iss x x.sel (f.start i x (beginReplay x s))) := by
  cases h
  exact issueWith_of_goes hg rfl rfl

theorem storeOp_of_goes {o : OpMem τ} {z : Nat} {addr : Ix → Nat → Nat} (h : storeForm o z addr = some f)
    (hg : Goes i (accessCause f.acc true f.addr f.size) s iss x) :
    storeOp i o z addr s = .next (afterIssue i iss x x.sel (f.start i x (beginReplay x s))) := by
  cases h
  have hb : (fun x l => regBytes x l o.d z) = fun x l => lowBytes z (regsValue x l o.d.val ((z + 3) / 4)) :=
    funext fun x => funext fun l => regBytes_eq x l o.d z
  unfold storeOp
  rw [hb]
  exact issueWith_of_goes hg rfl rfl

theorem atomOperand_eq (o : OpAtom) : atomOperand o = fun x l =>
    lowBytes (aySize o.aw) (regsValue x l (if o.op = .cas then o.b.val + aySize o.aw / 4 else o.b.val) (aySize o.aw / 4)) := by
  funext x l
  unfold atomOperand
  rw [natLe_eq, wordsOf_eq, aySize_eq, ayRegs_eq]

theorem atomCompare_eq (o : OpAtom) : atomCompare o = fun x l =>
    if o.op = .cas then lowBytes (aySize o.aw) (regsValue x l o.b.val (aySize o.aw / 4)) else [] := by
  funext x l
  unfold atomCompare
  rw [natLe_eq, wordsOf_eq, aySize_eq, ayRegs_eq]

theorem atomAddr_eq (o : OpAtom) : atomAddr o = pairAddr o.s o.a 0 := genericAddr_fun o.s o.a 0

theorem atomicOp_of_goes {o : OpAtom} {ret : Bool} (h : atomForm o ret = some f)
    (hg : Goes i (accessCause f.acc true f.addr f.size) s iss x) :
    atomicOp i o ret s = .next (afterIssue i iss x x.sel (f.start i x (beginReplay x s))) := by
  cases h
  unfold atomicOp
  rw [atomAddr_eq, atomOperand_eq, atomCompare_eq, aySize_eq, ayRegs_eq]
  exact issueWith_of_goes hg rfl rfl

end

theorem exec_ldNarrow (o : OpMem NTy) (s : State) : exec (.ldNarrow o) s = loadOp (.ldNarrow o) o (nySize o.ty) 1
    (o.ty = .i8 || o.ty = .i16) (pairAddr o.s o.a (o.off.toInt * nySize o.ty)) s := by
  rw [← nySize_eq, ← nySigned_eq, ← genericAddr_fun]
  rfl

theorem exec_ldWide (o : OpMem WTy) (s : State) : exec (.ldWide o) s = loadOp (.ldWide o) o (wySize o.ty) (wySize o.ty / 4)
    false (pairAddr o.s o.a (o.off.toInt * wySize o.ty)) s := by
  rw [← wyRegs_eq, ← wySize_eq, ← genericAddr_fun]
  rfl

theorem exec_ldsNarrow (o : OpMem NTy) (s : State) : exec (.ldsNarrow o) s = loadOp (.ldsNarrow o) o (nySize o.ty) 1
    (o.ty = .i8 || o.ty = .i16) (shortAddr o.s o.a (o.off.toInt * nySize o.ty)) s := by
  rw [← nySize_eq, ← nySigned_eq]
  rfl

theorem exec_ldsWide (o : OpMem WTy) (s : State) : exec (.ldsWide o) s = loadOp (.ldsWide o) o (wySize o.ty) (wySize o.ty / 4)
    false (shortAddr o.s o.a (o.off.toInt * wySize o.ty)) s := by
  rw [← wyRegs_eq, ← wySize_eq]
  rfl

theorem exec_stNarrow (o : OpMem STy) (s : State) : exec (.stNarrow o) s = storeOp (.stNarrow o) o (sySize o.ty)
    (pairAddr o.s o.a (o.off.toInt * sySize o.ty)) s := by
  rw [← sySize_eq, ← genericAddr_fun]
  rfl

theorem exec_stB128 (o : OpMem Unit) (s : State) : exec (.stB128 o) s = storeOp (.stB128 o) o 16
    (pairAddr o.s o.a (o.off.toInt * 16)) s := by
  rw [← genericAddr_fun]
  rfl

theorem exec_stsNarrow (o : OpMem STy) (s : State) : exec (.stsNarrow o) s = storeOp (.stsNarrow o) o (sySize o.ty)
    (shortAddr o.s o.a (o.off.toInt * sySize o.ty)) s := by
  rw [← sySize_eq]
  rfl

/-- Settles O19: each form's issue is the one its table gives. -/
theorem accessesIssue : Obligations.AccessesIssue := by
  unfold Obligations.AccessesIssue
  intro i f s iss x h hg
  change exec i s = .next (afterIssue i iss x x.sel (f.start i x (beginReplay x s)))
  unfold memForm at h
  split at h
  case h_1 o => exact (exec_ldNarrow o s).trans (loadOp_of_goes h hg)
  case h_2 o => exact (exec_ldWide o s).trans (loadOp_of_goes h hg)
  case h_3 o => exact (exec_stNarrow o s).trans (storeOp_of_goes h hg)
  case h_4 o => exact (exec_stB128 o s).trans (storeOp_of_goes h hg)
  case h_5 o => exact (exec_ldsNarrow o s).trans (loadOp_of_goes h hg)
  case h_6 o => exact (exec_ldsWide o s).trans (loadOp_of_goes h hg)
  case h_7 o => exact (exec_stsNarrow o s).trans (storeOp_of_goes h hg)
  case h_8 o => exact storeOp_of_goes (i := .stsB128 o) h hg
  case h_9 o => exact atomicOp_of_goes (i := .atom o) h hg
  case h_10 o => exact atomicOp_of_goes (i := .red o) h hg
  case h_11 => exact nomatch h

end Sys2Proof.Machine

namespace Sys2Proof.Machine

/-! # Traps: what a delivery does (spec/18_traps_fragments_preemption.md R430, R431) -/

/-- Freeing a monitor's entry changes cores alone. -/
theorem freeMonitor_frame (core g : Nat) (s : State) :
    freeMonitor core g s = { s with cores := (freeMonitor core g s).cores } := by
  unfold freeMonitor
  split <;> rfl

/-- A lane that stops watching changes its band, and cores. -/
theorem unwatch_frame (key : Nat) (s : State) (l : Nat) :
    unwatch key s l = { s with bands := (unwatch key s l).bands, cores := (unwatch key s l).cores } := by
  unfold unwatch
  split
  · rfl
  · split
    · rfl
    · rw [freeMonitor_frame]
      rfl

/-- Of its band only what the lane watches changes. -/
theorem find_unwatch {key : Nat} {s : State} {b : Band} (l : Nat) (h : Table.find key s.bands = some b) :
    ∃ c, Table.find key (unwatch key s l).bands = some c ∧ c = { b with lanes := c.lanes }
      ∧ ∀ k, ∃ w, Band.lane c k = { Band.lane b k with watch := w } := by
  unfold unwatch
  rw [h]
  dsimp only
  split
  · exact ⟨b, h, rfl, fun k => ⟨_, rfl⟩⟩
  · rw [freeMonitor_frame]
    refine ⟨_, find_modBand _ h, rfl, fun k => ?_⟩
    by_cases e : k = l
    · subst e
      exact ⟨none, Band.lane_modLane _ _ _⟩
    · exact ⟨_, Band.lane_modLane_ne _ _ e⟩

section
variable {s : State} {key : Nat} {b : Band} {t : Team} {g : Grid} {pc : Pc} {tr : Trap}

/-- The causes that halt a team at its trap entry are ILLEGAL_CLAUSE and RANGE_PROT (R432). -/
theorem not_halts (hg : g.hdr.trape ≠ 0) (h2 : tr.cause ≠ causeIllegalClause) (h5 : tr.cause ≠ causeRangeProt) :
    (decide (g.hdr.trape = 0)
      || ((tr.cause == causeIllegalClause || tr.cause == causeRangeProt) && pc == ⟨g.hdr.trape, 0⟩)) = false := by
  simp [hg, h2, h5]

/-- A trap that halts nothing waits in a lane with uncounted results outstanding (R430). -/
theorem deliver_of_uncounted (hb : Table.find key s.bands = some b) (ht : Table.find b.team s.teams = some t)
    (hgr : Table.find t.grid s.grids = some g) (hg : g.hdr.trape ≠ 0) (h2 : tr.cause ≠ causeIllegalClause)
    (h5 : tr.cause ≠ causeRangeProt) (hu : uncounted s key tr.lane = true) :
    deliver key pc s tr = State.modBand (unwatch key s tr.lane) key fun b => Band.modLane b tr.lane (trapDue pc tr) := by
  unfold deliver
  simp only [hb, ht, hgr, not_halts hg h2 h5, hu, if_true, Bool.false_eq_true, if_false]

/-- Else it is delivered, at the trap entry (R430). -/
theorem deliver_of_entry (hb : Table.find key s.bands = some b) (ht : Table.find b.team s.teams = some t)
    (hgr : Table.find t.grid s.grids = some g) (hg : g.hdr.trape ≠ 0) (h2 : tr.cause ≠ causeIllegalClause)
    (h5 : tr.cause ≠ causeRangeProt) (hu : uncounted s key tr.lane = false) :
    deliver key pc s tr = State.modBand (State.modGrid (unwatch key s tr.lane) t.grid fun g => { g with trapped := true }) key
      fun b => Band.modLane b tr.lane (trapLane b g.hdr.trape pc tr) := by
  unfold deliver
  simp only [hb, ht, hgr, not_halts hg h2 h5, hu, Bool.false_eq_true, if_false]

end

/-- Settles O35: each delivery is a change of one lane, once the lane has stopped watching. -/
theorem trapDelivered : Obligations.TrapDelivered := by
  unfold Obligations.TrapDelivered
  refine ⟨fun s key b t g pc tr hb ht hgr hg h2 h5 ha hu => ?_, fun s key b t g pc tr hb ht hgr hg h2 h5 hu => ?_⟩
  · obtain ⟨c, hc, -, hlane⟩ := find_unwatch tr.lane hb
    rw [deliver_of_entry hb ht hgr hg h2 h5 hu, unwatch_frame]
    refine ⟨_, find_modBand _ hc, ?_⟩
    rw [Band.lane_modLane]
    refine ⟨rfl, rfl, rfl, rfl, rfl, rfl, fun l hl => ?_, rfl, rfl⟩
    obtain ⟨w, hw⟩ := hlane l
    rw [Band.lane_modLane_ne _ _ hl, hw]
    exact ⟨rfl, rfl, rfl, rfl⟩
  · obtain ⟨c, hc, -, hlane⟩ := find_unwatch tr.lane hb
    obtain ⟨w, hw⟩ := hlane tr.lane
    rw [deliver_of_uncounted hb ht hgr hg h2 h5 hu]
    refine ⟨_, find_modBand _ hc, ?_⟩
    rw [Band.lane_modLane, hw]
    exact ⟨rfl, rfl, rfl, rfl⟩

end Sys2Proof.Machine

namespace Sys2Proof.Machine

/-! # Switch points (spec/02_clauses_and_formats.md R34, R36, R37) -/

/-! ## Masks of lanes -/

theorem getLsbD_maskOf_from (m : Dword) (ls : List Nat) {k : Nat} (hk : k < 64) :
    (ls.foldl (fun m l => m ||| BitVec.ofNat 64 (2 ^ l)) m).getLsbD k = (m.getLsbD k || ls.elem k) := by
  induction ls generalizing m with
  | nil => simp
  | cons l ls ih =>
    rw [List.foldl_cons, ih, BitVec.getLsbD_or, List.elem_cons, Bool.or_assoc]
    congr 2
    rw [BitVec.getLsbD_ofNat, Nat.testBit_two_pow]
    simp [hk, eq_comm, Bool.beq_eq_decide_eq]

/-- The mask of a list holds its lanes. -/
theorem getLsbD_maskOf (ls : List Nat) {k : Nat} (hk : k < 64) : (maskOf ls).getLsbD k = ls.elem k := by
  rw [maskOf, getLsbD_maskOf_from 0 ls hk]
  simp

/-- The mask of one lane shares a bit with its own only. -/
theorem maskOf_singleton_and {p : Nat} (hp : p < 64) (m : Dword) : (maskOf [p] &&& m != 0) = m.getLsbD p := by
  cases h : m.getLsbD p with
  | true =>
    rw [bne_iff_ne]
    intro h0
    have := congrArg (fun v => BitVec.getLsbD v p) h0
    simp [BitVec.getLsbD_and, getLsbD_maskOf [p] hp, h] at this
  | false =>
    rw [bne_eq_false_iff_eq]
    refine BitVec.eq_of_getLsbD_eq fun k hk => ?_
    rw [BitVec.getLsbD_and, getLsbD_maskOf [p] hk]
    by_cases e : k = p
    · subst e
      simp [h]
    · simp [e]

/-! ## Applying held results -/

section
variable {s : State} {key : Nat} {b : Band}

/-- Held results are applied one by one, once they are no longer held. -/
theorem applyHeld_eq (m : Dword) (h : Table.find key s.bands = some b) :
    applyHeld key m s = (b.held.filter (heldFor m)).foldl (applyOne key)
      (State.modBand s key fun b => { b with held := b.held.filter fun h => !heldFor m h }) := by
  unfold applyHeld
  rw [h]

/-- A scalar result of the lanes of `m` is applied, and those of other lanes stay. -/
theorem find_applyHeld_sca {m ls : Dword} {r : Nat} {x : Word} {rest : List Held} (h : Table.find key s.bands = some b)
    (hf : b.held.filter (heldFor m) = [.sca ls r x]) (hr : (b.held.filter fun h => !heldFor m h) = rest) :
    Table.find key (applyHeld key m s).bands = some (Band.setSreg { b with held := rest } r x) := by
  rw [applyHeld_eq m h, hf, ← hr]
  exact find_modBand _ (find_modBand _ h)

/-- With nothing to apply the band stands. -/
theorem find_applyHeld_none {m : Dword} (h : Table.find key s.bands = some b) (hn : ∀ h ∈ b.held, heldFor m h = false) :
    Table.find key (applyHeld key m s).bands = some b := by
  have hf : b.held.filter (heldFor m) = [] := List.filter_eq_nil_iff.mpr fun h hh => by simp [hn h hh]
  have hr : (b.held.filter fun h => !heldFor m h) = b.held := List.filter_eq_self.mpr fun h hh => by simp [hn h hh]
  rw [applyHeld_eq m h, hf]
  refine (find_modBand _ h).trans ?_
  rw [hr]

/-- One vector result: its register alone changes. -/
theorem find_applyHeld_vec {m : Dword} {l r : Nat} {x : Word} (h : Table.find key s.bands = some b) (hb : b.held = [.vec l r x])
    (hm : m.getLsbD l = true) :
    Table.find key (applyHeld key m s).bands
      = some (Band.modLane { b with held := [] } l fun y => Lane.setReg y r x) := by
  have hfor : heldFor m (.vec l r x) = true := hm
  rw [applyHeld_eq m h, hb, List.filter_cons_of_pos hfor]
  refine (find_modBand _ (find_modBand _ h)).trans ?_
  simp [hb, hfor]

end

/-! ## Traps that waited (R430) -/

/-- A fold that changes nothing but at one member of the list. -/
theorem foldl_eq_of_only {α β : Type} {f : β → α → β} {a : α} {as : List α} (z : β) (hn : as.Nodup) (ha : a ∈ as)
    (h : ∀ c ∈ as, c ≠ a → ∀ y, f y c = y) : as.foldl f z = f z a := by
  have hskip : ∀ (cs : List α) (y : β), (∀ c ∈ cs, c ∈ as ∧ c ≠ a) → cs.foldl f y = y := by
    intro cs
    induction cs with
    | nil => intro y _; rfl
    | cons c cs ih =>
      intro y hc
      obtain ⟨hmem, hne⟩ := hc c List.mem_cons_self
      rw [List.foldl_cons, h c hmem hne, ih _ fun d hd => hc d (List.mem_cons_of_mem c hd)]
  obtain ⟨as1, as2, rfl⟩ := List.append_of_mem ha
  obtain ⟨h1, h2⟩ := List.nodup_middle.mp hn |> List.nodup_cons.mp
  rw [List.foldl_append, List.foldl_cons,
    hskip as1 z fun c hc => ⟨List.mem_append_left _ hc, fun e => h1 (e ▸ List.mem_append_left _ hc)⟩,
    hskip as2 _ fun c hc => ⟨List.mem_append_right _ (List.mem_cons_of_mem _ hc), fun e => h1 (e ▸ List.mem_append_right _ hc)⟩]

/-- Settles O41: the masks of the primary and of the secondary lanes share no bit, so each application takes its own results. -/
theorem switchPoint : Obligations.SwitchPoint := by
  unfold Obligations.SwitchPoint
  refine ⟨fun s key b l r x m hb hh hm => ?_, fun s key b m hb hn => ⟨b, find_applyHeld_none hb hn, rfl⟩,
    fun s key b p q r x y hb hp hq hne h1 h2 hh => ?_, fun s s0 key lanes b b0 t g ls hhome h0 hb0 hls => ?_,
    fun s key lanes b l => ?_, fun s key lanes b hn => ?_, fun s key lanes b l c a hl hm ht hn hu => ?_⟩
  · refine ⟨_, find_applyHeld_vec hb hh hm, ?_, rfl, fun k hk => Band.lane_modLane_ne _ _ hk, fun z hz => ?_, rfl⟩
    · rw [Band.lane_modLane, Lane.reg_setReg]
    · rw [Band.lane_modLane, Lane.reg_setReg_ne _ _ hz]
      rfl
  · have hpq : ¬ q = p := fun e => hne e.symm
    have hfst : ([p, q].filter fun l => !(Band.lane b l).second) = [p] := by simp [h1, h2]
    have hsnd : ([p, q].filter fun l => (Band.lane b l).second) = [q] := by simp [h1, h2]
    have hf (z : Word) {i j : Nat} (hi : i < 64) : heldFor (maskOf [j]) (.sca (maskOf [i]) r z) = [j].elem i :=
      (maskOf_singleton_and hi _).trans (getLsbD_maskOf [j] hi)
    have hone := find_applyHeld_sca (m := maskOf [p]) (ls := maskOf [p]) (r := r) (x := x) (rest := [.sca (maskOf [q]) r y]) hb
      (by rw [hh]; simp [hf, hp, hq, hpq]) (by rw [hh]; simp [hf, hp, hq, hpq])
    have htwo := find_applyHeld_sca (m := maskOf [q]) (ls := maskOf [q]) (r := r) (x := y) (rest := []) hone
      (by simp [Band.setSreg, hf, hq]) (by simp [Band.setSreg, hf, hq])
    unfold applyPassing
    rw [hfst, hsnd]
    exact ⟨_, htwo, Band.sreg_setSreg _ _ _, rfl, rfl⟩
  · have hb : Table.get b key s0.bands = b0 := by simp [Table.get, hb0]
    change execSwitchPoint key lanes s = _
    unfold execSwitchPoint
    rw [hhome]
    simp only [← h0, hb, ← hls, List.isEmpty_iff]
    rfl
  · simp only [passing, groupLanded, Lane.wentThrough, List.mem_append, List.mem_flatMap, List.mem_filter, List.mem_range,
      Bool.and_eq_true, List.any_eq_true, List.all_eq_true, Bool.not_eq_true', bne_iff_ne, ne_eq]
    exact or_congr (exists_congr fun p => by tauto) Iff.rfl
  · unfold takeDueTraps
    refine List.foldl_fixed' (fun l => ?_) _
    simp only [hn l]
  · unfold takeDueTraps
    rw [foldl_eq_of_only s List.nodup_range (List.mem_range.mpr hl) fun k _ hk y => by simp only [hn k hk]]
    simp only [ht, hm, hu, Bool.not_false, Bool.and_true, if_true]

end Sys2Proof.Machine

namespace Sys2Proof.Machine

/-! # ECALL (spec/18_traps_fragments_preemption.md R435) -/

/-- Changes that agree on the lanes of a list are the same change of them. -/
theorem modLanes_congr {ls : List Nat} {f g : Nat → Lane → Lane} (h : ∀ l ∈ ls, ∀ y, f l y = g l y) (b : Band) :
    Band.modLanes b ls f = Band.modLanes b ls g := by
  induction ls generalizing b with
  | nil => rfl
  | cons l t ih =>
    have hl : f l = g l := funext (h l List.mem_cons_self)
    rw [Band.modLanes_cons, Band.modLanes_cons, hl, ih fun k hk => h k (List.mem_cons_of_mem l hk)]

/-- The active lanes that return from a trap. -/
def trapped (x : Ix) : List Nat := x.act.filter fun k => (Band.lane x.b k).tcause != 0

theorem mem_trapped {x : Ix} {l : Nat} : l ∈ trapped x ↔ l ∈ x.act ∧ (Band.lane x.b l).tcause ≠ 0 := by
  simp [trapped]

theorem ecallPc_isSome (o : OpEcall) (x : Ix) (s : State) (l : Nat) :
    (ecallPc o x s l).isSome = ((Band.lane x.b l).tcause != 0) := by
  unfold ecallPc
  by_cases h : (Band.lane x.b l).tcause = 0
  · rw [if_pos h, h]
    rfl
  · rw [if_neg h, bne_iff_ne.mpr h]
    split <;> rfl

/-- Where ECALL.resume sends a lane that returns from a trap. -/
theorem ecallPc_resume {o : OpEcall} {x : Ix} {l : Nat} (s : State) (ho : o.skip = false) (h : (Band.lane x.b l).tcause ≠ 0) :
    ecallPc o x s l = some (Pc.ofNat (Band.lane x.b l).tepc.toNat) := by
  unfold ecallPc
  simp only [if_neg h, ho, Bool.false_eq_true, if_false]

/-- Where ECALL.skip sends it. -/
theorem ecallPc_skip {o : OpEcall} {x : Ix} {l : Nat} (s : State) (ho : o.skip = true) (h : (Band.lane x.b l).tcause ≠ 0) :
    ecallPc o x s l = some (skipPc (Band.lane x.b l).tcause.toNat (Pc.ofNat (Band.lane x.b l).tepc.toNat)
      (fetchedWord s x.die x.ctx (Pc.ofNat (Band.lane x.b l).tepc.toNat).clause)
      (fetchedWord s x.die x.ctx (slotVa (Pc.ofNat (Band.lane x.b l).tepc.toNat)))) := by
  unfold ecallPc
  simp only [if_neg h, ho, if_true]

/-- ECALL in a group that acts and whose fetches meet no fault: lane `l` goes to `p l` through a switch point. -/
theorem exec_ecall {o : OpEcall} {s : State} {iss : Issue} {x : Ix} {p : Nat → Pc} (hg : Goes (.ecall o) (ecallCause o) s iss x)
    (hf : o.skip = true → ∀ l ∈ x.act, ecallFault x (beginReplay x s) l = none)
    (hp : ∀ l ∈ trapped x, ecallPc o x (beginReplay x s) l = some (p l)) :
    exec (.ecall o) s = .next (afterIssue (.ecall o) iss x (x.sel.filter fun l => !(trapped x).elem l)
      (State.modBand (beginReplay x s) x.key fun b => Band.modLanes b (trapped x) fun l y => Lane.goto y (p l))) := by
  have hbad : (if o.skip then x.act.filter (fun l => (ecallFault x (beginReplay x s) l).isSome) else []) = [] := by
    cases ho : o.skip with
    | false => rfl
    | true => exact List.filter_eq_nil_iff.mpr fun l hl => by simp [hf ho l hl]
  have hok : (x.act.filter fun l => !([] : List Nat).elem l && (ecallPc o x (beginReplay x s) l).isSome) = trapped x := by
    simp only [ecallPc_isSome, List.elem_nil, Bool.not_false, Bool.true_and]
    rfl
  change execEcall o s = _
  unfold execEcall
  rw [issueWith_of_moved hg]
  · simp only [hbad, hok, List.isEmpty_nil, if_true, List.append_nil]
    refine congrArg (fun f => Host.Outcome.next (afterIssue _ iss x _ (State.modBand _ x.key f)))
      (funext fun b => modLanes_congr (fun l hl y => ?_) b)
    simp only [hp l hl]
  · rfl

/-- A fetch of SKIP that gives its word is the word. -/
theorem fetchedWord_of_ok {s : State} {die ctx a w : Nat} (h : fetchWord s die ctx a = .ok w) : fetchedWord s die ctx a = w := by
  unfold fetchedWord
  rw [h]

/-- A lane whose fetches of SKIP all give their words meets no fault. -/
theorem ecallFault_none {x : Ix} {s : State} {l : Nat} (h : ∀ a ∈ skipReads x l, ∃ w, fetchWord s x.die x.ctx a = .ok w) :
    ecallFault x s l = none := by
  unfold ecallFault
  refine List.findSome?_eq_none_iff.mpr fun a ha => ?_
  obtain ⟨w, hw⟩ := h a ha
  simp only [hw]

/-- SKIP reads nothing without a trap, the header alone after ILLEGAL_CLAUSE, else the header and the slot's word. -/
theorem mem_skipReads {x : Ix} {l a : Nat} (h : a ∈ skipReads x l) : (Band.lane x.b l).tcause ≠ 0
    ∧ (a = (Pc.ofNat (Band.lane x.b l).tepc.toNat).clause
      ∨ (Band.lane x.b l).tcause ≠ 2 ∧ a = slotVa (Pc.ofNat (Band.lane x.b l).tepc.toNat)) := by
  unfold skipReads at h
  dsimp only at h
  split at h
  · simp at h
  · split at h
    · exact ⟨‹_›, .inl (List.mem_singleton.mp h)⟩
    · refine ⟨‹_›, ?_⟩
      have h2 : (Band.lane x.b l).tcause ≠ 2 := fun e => ‹¬_› (by rw [e]; rfl)
      rcases List.mem_cons.mp h with h | h
      · exact .inl h
      · exact .inr ⟨h2, List.mem_singleton.mp h⟩

/-- What SKIP computes, with the slot's word left out where the cause was ILLEGAL_CLAUSE. -/
theorem skipPc_eq {c : Word} {p : Pc} {h w v : Nat} (hv : c ≠ 2 → v = w) :
    skipPc c.toNat p h v =
      let m := if w / 2 ^ 24 % 256 = 0 ∨ 0xF0 ≤ w / 2 ^ 24 % 256 then p.slot + 1 else p.slot + 1 + w / 2 ^ 23 % 2
      if c = 2 ∨ h / 2 ^ 28 % 16 ≤ m then ⟨(p.clause + 4 * (h / 2 ^ 28 % 16 + 1)) % 2 ^ 60, 0⟩ else ⟨p.clause, m⟩ := by
  unfold skipPc
  by_cases hc : c = 2
  · subst hc
    rfl
  · have hn : ¬ c.toNat = causeIllegalClause := fun e => hc (BitVec.eq_of_toNat_eq e)
    rw [hv hc]
    simp only [hc, hn, if_false, false_or]

/-- Settles O38: no lane's fetch faults, so the lanes with a trap go to the PC that the service computes and the others on. -/
theorem ecallResumes : Obligations.EcallResumes := by
  unfold Obligations.EcallResumes
  refine ⟨fun o s iss x ho hg => ?_, fun o s iss x c n h w ho hg hrep hpc hfetch => ?_⟩
  · have hown : ∀ l ∈ x.act, ecallCause o x s l = none := fun l _ => by simp [ecallCause, ho]
    exact exec_ecall (p := fun l => Pc.ofNat (Band.lane x.b l).tepc.toNat) (hg.withOwn hown) (fun h => by simp [ho] at h)
      fun l hl => ecallPc_resume _ ho (mem_trapped.mp hl).2
  · have hr : beginReplay x s = s := beginReplay_none hrep
    have hp (l : Nat) : Pc.ofNat (Band.lane x.b l).tepc.toNat = ⟨c l, n l⟩ := by
      rw [(hpc l).1, (hpc l).2]
      rfl
    have hfault : ∀ l ∈ x.act, ecallFault x s l = none := fun l hl => ecallFault_none fun a ha => by
      obtain ⟨h0, ha⟩ := mem_skipReads ha
      obtain ⟨hh, hw⟩ := hfetch l hl h0
      rw [hp l] at ha
      rcases ha with rfl | ⟨h2, rfl⟩
      · exact ⟨_, hh⟩
      · exact ⟨_, hw h2⟩
    have hto : ∀ l ∈ trapped x, ecallPc o x s l = some (
        let m := if w l / 2 ^ 24 % 256 = 0 ∨ 0xF0 ≤ w l / 2 ^ 24 % 256 then n l + 1 else n l + 1 + w l / 2 ^ 23 % 2
        if (Band.lane x.b l).tcause = 2 ∨ h l / 2 ^ 28 % 16 ≤ m then ⟨(c l + 4 * (h l / 2 ^ 28 % 16 + 1)) % 2 ^ 60, 0⟩
        else ⟨c l, m⟩) := fun l hl => by
      obtain ⟨ha, h0⟩ := mem_trapped.mp hl
      obtain ⟨hh, hw⟩ := hfetch l ha h0
      rw [ecallPc_skip s ho h0, hp l, fetchedWord_of_ok (show fetchWord s x.die x.ctx (c l) = .ok (h l) from hh)]
      exact congrArg some (skipPc_eq fun h2 => fetchedWord_of_ok (hw h2))
    rw [exec_ecall hg (fun _ => by rw [hr]; exact hfault) (by rw [hr]; exact hto), hr]
    rfl

end Sys2Proof.Machine

namespace Sys2Proof.Machine

/-! # Results land (spec/02_clauses_and_formats.md R37, R38) -/

/-! ## Writing and reading SRAM changes no band and no operation -/

theorem senseSram_frame (g n : Nat) (s : State) :
    (senseSram g n s).bands = s.bands ∧ (senseSram g n s).ops = s.ops ∧ (senseSram g n s).dram = s.dram
      ∧ (senseSram g n s).sram = s.sram := by
  unfold senseSram
  dsimp only
  split
  · exact ⟨rfl, rfl, rfl, rfl⟩
  · exact ⟨rfl, rfl, rfl, rfl⟩

theorem sensePartial_bands (g h : Nat) (s : State) : (sensePartial g h s).bands = s.bands := by
  have hsense (a n : Nat) (t : State) : (senseSram a n t).bands = t.bands := (senseSram_frame a n t).1
  unfold sensePartial
  dsimp only
  split <;> split <;> simp only [hsense]

theorem writeSram_bands (s : State) (g : Nat) (bs : List Byte) : (writeSram s g bs).bands = s.bands := by
  unfold writeSram
  split
  · rfl
  · dsimp only
    split <;> exact sensePartial_bands _ _ _

theorem enterFrag_bands (core n : Nat) (f : Frag) (s : State) : (enterFrag core n f s).bands = s.bands := by
  unfold enterFrag storeLog
  dsimp only
  split <;> simp only [writeSram_bands, modCore_bands]

theorem landingReady_bands (key : Nat) (s : State) : (landingReady key s).bands = s.bands := by
  unfold landingReady
  split
  · rfl
  · rename_i b _
    have hstep (t : State) (e : Nat × Frag) :
        (if turnReady b e.2 = e.2 then t else enterFrag (key / 64) e.1 (turnReady b e.2) t).bands = t.bands := by
      split
      · rfl
      · exact enterFrag_bands _ _ _ _
    exact List.foldlRecOn (motive := fun t => t.bands = s.bands) _ _ rfl fun t ht e _ => (hstep t e).trans ht

theorem acquireEffect_bands (key : Nat) (o : Order) (sc : Scope) (s : State) : (acquireEffect key o sc s).bands = s.bands := by
  unfold acquireEffect
  split <;> rfl

/-! ## The end of an access -/

/-- A counter that falls leaves of every band its lanes and its scalar registers. -/
theorem find_countDown {s : State} {key : Nat} {b : Band} (j : Nat) (dc : Dc) (h : Table.find key s.bands = some b) :
    ∃ c, Table.find key (countDown j dc s).bands = some c ∧ c.lanes = b.lanes ∧ c.s = b.s := by
  cases dc with
  | none => exact ⟨b, h, rfl, rfl⟩
  | some n =>
    by_cases e : key = j
    · subst e
      exact ⟨_, find_modBand _ h, rfl, rfl⟩
    · exact ⟨b, (find_modBand_ne _ _ e).trans h, rfl, rfl⟩

/-- A counter that falls changes bands alone. -/
theorem countDown_frame (key : Nat) (dc : Dc) (s : State) : countDown key dc s = { s with bands := (countDown key dc s).bands } := by
  cases dc <;> rfl

/-- The counter itself is lower by one (R38). -/
theorem find_countDown_own {s : State} {key : Nat} {b : Band} (dc : Dc) (h : Table.find key s.bands = some b) :
    ∃ c, Table.find key (countDown key dc s).bands = some c ∧ c.lanes = b.lanes
      ∧ ∀ n : Fin 6, dc = some n → Table.get 0 n.val c.dc = Table.get 0 n.val b.dc - 1 := by
  cases dc with
  | none => exact ⟨b, h, rfl, fun n hn => nomatch hn⟩
  | some k =>
    refine ⟨_, find_modBand _ h, rfl, fun n hn => ?_⟩
    cases hn
    exact Table.get_put _ _ _ _

/-- The end of an operation leaves of every band its lanes and its scalar registers. -/
theorem find_settle {s : State} {key : Nat} {b : Band} (k : Nat) (h : Table.find key s.bands = some b) :
    ∃ c, Table.find key (settle k s).bands = some c ∧ c.lanes = b.lanes ∧ c.s = b.s := by
  unfold settle
  split
  · exact ⟨b, h, rfl, rfl⟩
  · split
    · exact find_countDown _ _ h
    · exact ⟨b, h, rfl, rfl⟩

/-- An operation whose accesses are all over, none faulted, ends: its counter falls (R38). -/
theorem settle_of_over {s : State} {k : Nat} {o : Op} (h : Table.find k s.ops = some o) (ho : o.accs.all Acc.over = true)
    (hf : o.accs.any Acc.failed = false) : settle k s = countDown o.band o.dc { s with ops := Table.del k s.ops } := by
  unfold settle
  rw [h]
  simp [ho, hf]

/-! ## The words a value lands as -/

/-- Words written to the registers of a lane from `reg` up. -/
def writeWords (y : Lane) (reg : Nat) (ws : List Word) : Lane :=
  (List.range ws.length).foldl (fun y i => Lane.setReg y (reg + i) (ws.getD i 0)) y

theorem setRegs_reg (y : Lane) (reg : Nat) (ws : List Word) (n q : Nat) :
    Lane.reg ((List.range n).foldl (fun y i => Lane.setReg y (reg + i) (ws.getD i 0)) y) q
      = if reg ≤ q ∧ q < reg + n then ws.getD (q - reg) 0 else Lane.reg y q := by
  induction n with
  | zero => rw [if_neg (by omega)]; rfl
  | succ n ih =>
    rw [List.range_succ, List.foldl_append, List.foldl_cons, List.foldl_nil]
    by_cases e : q = reg + n
    · subst e
      rw [Lane.reg_setReg, if_pos (by omega), Nat.add_sub_cancel_left]
    · rw [Lane.reg_setReg_ne _ _ e, ih]
      exact if_congr (by omega) rfl rfl

theorem writeWords_reg (y : Lane) (reg : Nat) (ws : List Word) (q : Nat) :
    Lane.reg (writeWords y reg ws) q = if reg ≤ q ∧ q < reg + ws.length then ws.getD (q - reg) 0 else Lane.reg y q :=
  setRegs_reg y reg ws ws.length q

/-- A lane in which operation `op` lands: its words are written and its marks go. -/
def landedLane (y : Lane) (reg : Nat) (ws : List Word) (op : Nat) : Lane :=
  { writeWords y reg ws with pend := (writeWords y reg ws).pend.filter fun p => p.2 != op }

theorem landedLane_reg (y : Lane) (reg : Nat) (ws : List Word) (op q : Nat) :
    Lane.reg (landedLane y reg ws op) q = if reg ≤ q ∧ q < reg + ws.length then ws.getD (q - reg) 0 else Lane.reg y q :=
  writeWords_reg y reg ws q

theorem landedLane_pend {y : Lane} {reg op : Nat} {ws : List Word} : ∀ p ∈ (landedLane y reg ws op).pend, p.2 ≠ op :=
  fun p hp => by simpa using (List.mem_filter.mp hp).2

/-- One word lands in its register alone. -/
theorem landedLane_word (y : Lane) (r : Nat) (w : Word) (op : Nat) : Lane.reg (landedLane y r [w] op) r = w
    ∧ ∀ q, q ≠ r → Lane.reg (landedLane y r [w] op) q = Lane.reg y q := by
  refine ⟨?_, fun q hq => ?_⟩
  · rw [landedLane_reg, if_pos ⟨Nat.le_refl r, Nat.lt_succ_self r⟩, Nat.sub_self]
    rfl
  · rw [landedLane_reg, if_neg (by simp only [List.length_singleton]; omega)]

/-- What a landing leaves of its band. -/
theorem find_landWords {s : State} {key : Nat} {b : Band} (l reg : Nat) (ws : List Word) (op : Nat)
    (h : Table.find key s.bands = some b) :
    ∃ c, Table.find key (landWords key l reg ws op s).bands = some c ∧ Band.lane c l = landedLane (Band.lane b l) reg ws op
      ∧ (∀ j, j ≠ l → Band.lane c j = Band.lane b j) ∧ c.s = b.s :=
  ⟨_, find_modBand _ h, Band.lane_modLane _ _ _, fun _ hj => Band.lane_modLane_ne _ _ hj, rfl⟩

theorem splitWords_length (x n : Nat) : (splitWords x n).length = n := by
  induction n generalizing x with
  | zero => rfl
  | succ n ih => rw [splitWords, List.length_cons, ih]

theorem splitWords_getD (x : Nat) {n j : Nat} (h : j < n) : (splitWords x n).getD j 0 = BitVec.ofNat 32 (x / 2 ^ (32 * j)) := by
  induction n generalizing x j with
  | zero => omega
  | succ n ih =>
    cases j with
    | zero => simp [splitWords]
    | succ j =>
      rw [splitWords, List.getD_cons_succ, ih _ (by omega), Nat.div_div_eq_div_mul, ← Nat.pow_add]
      congr 3
      omega

/-- A narrow value lands as one word, extended by its type (R178). -/
theorem landedWords_narrow {sg : Bool} {z v : Nat} (hz : z < 4) :
    landedWords sg z v = [BitVec.ofInt 32 (intOf sg (8 * z) v)] := by
  unfold landedWords
  rw [if_pos hz, val_eq]
  cases sg with
  | true =>
    refine congrArg (fun w => [w]) (BitVec.eq_of_toNat_eq ?_)
    rw [if_pos rfl, BitVec.toNat_ofNat, BitVec.toNat_ofInt, Arith.wrap]
    omega
  | false =>
    have hi : intOf false (8 * z) v = (v : Int) := by simp [intOf]
    rw [hi, BitVec.ofInt_natCast]
    rfl

theorem landedWords_wide {sg : Bool} {z v : Nat} (hz : 4 ≤ z) : landedWords sg z v = splitWords v (z / 4) := by
  unfold landedWords
  rw [if_neg (by omega)]

/-- What the landing of a load leaves of its band, where the lane has not exited. -/
theorem find_landAcc {s : State} {k r n : Nat} {sg : Bool} {o : Op} {a : Acc} {b : Band} (hk : o.kind = .load r n sg)
    (hb : Table.find o.band s.bands = some b) (hrun : (Band.lane b a.lane).run ≠ .exited) :
    ∃ c, Table.find o.band (landAcc k o a s).bands = some c
      ∧ Band.lane c a.lane = landedLane (Band.lane b a.lane) r (landedWords sg a.size a.value) k
      ∧ (∀ j, j ≠ a.lane → Band.lane c j = Band.lane b j) ∧ c.s = b.s := by
  have hgone : ((Band.lane b a.lane).run == .exited) = false := by simpa using hrun
  obtain ⟨c, hc, hlane, hother, hs⟩ := find_landWords
    (s := State.modOp s k fun p => Op.setAcc p a.lane fun b => { b with stage := .done }) a.lane r (landedWords sg a.size a.value) k hb
  obtain ⟨d, hd, hdl, hds⟩ := find_settle k
    ((congrArg (Table.find o.band) (acquireEffect_bands o.band o.order o.scope _)).trans hc)
  have hl (j : Nat) : Band.lane d j = Band.lane c j := by rw [Band.lane, hdl, Band.lane]
  refine ⟨d, ?_, (hl _).trans hlane, fun j hj => (hl j).trans (hother j hj), hds.trans hs⟩
  unfold landAcc
  rw [landingReady_bands]
  simp only [hb, hgone, Bool.false_eq_true, if_false, hk]
  exact hd

/-! ## The steps -/

/-- A performed store of one lane ends with its acknowledgement. -/
theorem exec_storeAcknowledge {s : State} {k l : Nat} {o : Op} {a : Acc} (ho : Table.find k s.ops = some o)
    (ha : Op.acc o l = some a) (hk : o.kind = .store) (hp : a.stage = .performed) (hr : o.order = .rlx) :
    exec (.storeAcknowledge k l) s = .next (endAcc k a.lane s) := by
  change execStoreAcknowledge k l s = _
  unfold execStoreAcknowledge stepAcc finishAcc acquireEffect
  simp only [ho, ha, hk, hp, hr, OpKind.hasResult, Order.acquires, Bool.false_and, Bool.false_eq_true, if_false]

/-- Settles O46: what a landing does to its lane survives the end of the operation, which changes counters and fragments. -/
theorem resultsLand : Obligations.ResultsLand := by
  unfold Obligations.ResultsLand
  refine ⟨fun s k l r n sg o a b ho ha hk hp _ _ _ => ?_, fun s k r n sg o a b hk hb hrun => ?_, fun s k l r v key b hb => ?_,
    fun s k l o a dc b ho ha hl hk hdc hr hp hb => ?_, fun s k l v f r n sg o a ho ha hpl hst hbuf hk => ?_,
    fun s k l v f o a ho ha hpl hst hbuf hk => ?_⟩
  · change execLongLatencyResultLands k l s = _
    unfold execLongLatencyResultLands stepAcc finishAcc
    simp only [ho, ha, hk, hp, OpKind.hasResult, if_true]
  · obtain ⟨c, hc, hlane, hother, hs⟩ := find_landAcc (k := k) hk hb hrun
    refine ⟨c, hc, fun _ h4 _ => ?_, fun h4 => ?_, ?_, hother, hs⟩
    · rw [hlane, landedWords_narrow h4]
      exact landedLane_word _ r _ k
    · have hreg (q : Nat) := hlane ▸ landedLane_reg (Band.lane b a.lane) r (landedWords sg a.size a.value) k q
      simp only [landedWords_wide h4, splitWords_length] at hreg
      refine ⟨fun j hj => ?_, fun q hq => ?_⟩
      · rw [hreg, if_pos (by omega), Nat.add_sub_cancel_left, splitWords_getD _ hj]
      · rw [hreg, if_neg (by omega)]
    · rw [hlane]
      exact landedLane_pend
  · obtain ⟨c, hc, hlane, hother, hs⟩ := find_landWords l r [BitVec.ofNat 32 v] k hb
    obtain ⟨hreg, hrest⟩ := landedLane_word (Band.lane b l) r (BitVec.ofNat 32 v) k
    rw [← hlane] at hreg hrest
    exact ⟨c, hc, hreg, hrest, hlane ▸ landedLane_pend, hother, hs⟩
  · have hacc : Op.acc o l = some a := by simp [Op.acc, ha, hl]
    have hdone := find_modOp (s := s) (fun p => Op.setAcc p a.lane fun b => { b with stage := .done }) ho
    have hend : endAcc k a.lane s = _ :=
      settle_of_over hdone (by simp [Op.setAcc, ha, Acc.over]) (by simp [Op.setAcc, ha, Acc.failed])
    obtain ⟨c, hc, -, hcount⟩ := find_countDown_own (s := { s with ops := Table.del k (State.modOp s k fun p =>
      Op.setAcc p a.lane fun b => { b with stage := .done }).ops }) o.dc hb
    refine ⟨_, c, exec_storeAcknowledge ho hacc hk hp hr, ?_, hend ▸ hc, hcount dc hdc, ?_, ?_⟩
    · rw [hend, countDown_frame]
      exact Table.find_del _ _
    · rw [hend, countDown_frame]
      rfl
    · rw [hend, countDown_frame]
      rfl
  · change execRemoteResponse k l (.ok v) s = _
    unfold execRemoteResponse
    simp [ho, ha, hpl, hst, hbuf, hk]
  · change execRemoteResponse k l (.ok v) s = _
    unfold execRemoteResponse
    simp [ho, ha, hpl, hst, hbuf, hk]

end Sys2Proof.Machine

namespace Sys2Proof.Machine

/-! # Waits end (spec/02_clauses_and_formats.md R33, R34; spec/16_barriers_tasks_grids.md R380, R381, R395) -/

/-! ## What a message and the read of a word leave -/

theorem chargeRoute_frame (a b : Nat) (s : State) :
    (chargeRoute a b s).bands = s.bands ∧ (chargeRoute a b s).ops = s.ops ∧ (chargeRoute a b s).dram = s.dram
      ∧ (chargeRoute a b s).sram = s.sram := by
  unfold chargeRoute
  dsimp only
  split <;> exact ⟨rfl, rfl, rfl, rfl⟩

theorem chargeTrip_frame (d g : Nat) (s : State) :
    (chargeTrip d g s).bands = s.bands ∧ (chargeTrip d g s).ops = s.ops ∧ (chargeTrip d g s).dram = s.dram
      ∧ (chargeTrip d g s).sram = s.sram := by
  obtain ⟨h1, h2, h3, h4⟩ := chargeRoute_frame d (g / 2 ^ 30) s
  obtain ⟨k1, k2, k3, k4⟩ := chargeRoute_frame (g / 2 ^ 30) d (chargeRoute d (g / 2 ^ 30) s)
  exact ⟨k1.trans h1, k2.trans h2, k3.trans h3, k4.trans h4⟩

theorem senseWord_frame (key : Nat) (w : Waita) (s : State) :
    (senseWord key w s).bands = s.bands ∧ (senseWord key w s).ops = s.ops ∧ (senseWord key w s).dram = s.dram
      ∧ (senseWord key w s).sram = s.sram := by
  unfold senseWord
  split
  · rename_i g _
    obtain ⟨h1, h2, h3, h4⟩ := senseSram_frame g 4 s
    obtain ⟨k1, k2, k3, k4⟩ := chargeTrip_frame (key / 1024) g (senseSram g 4 s)
    exact ⟨k1.trans h1, k2.trans h2, k3.trans h3, k4.trans h4⟩
  · exact ⟨rfl, rfl, rfl, rfl⟩

/-! ## Words a lane waits on (R146, R147) -/

section
variable {s : State} {band lane : Nat} {w : Waita}

/-- A lane's words stand in its band. -/
theorem laneWords_singleton (h : laneWords s band lane = [w]) :
    ∃ b, Table.find band s.bands = some b ∧ (Band.lane b lane).waita = [w] := by
  unfold laneWords at h
  split at h
  · exact ⟨_, ‹_›, h⟩
  · exact nomatch h

theorem laneWords_of_find {b : Band} (h : Table.find band s.bands = some b) : laneWords s band lane = (Band.lane b lane).waita := by
  unfold laneWords
  rw [h]

/-- Changes that agree on a band are the same change of it. -/
theorem modBand_congr {b : Band} {f g : Band → Band} (h : Table.find band s.bands = some b) (hfg : f b = g b) :
    State.modBand s band f = State.modBand s band g := by
  unfold State.modBand Table.alter
  rw [h]
  simp only [hfg]

/-- What the poll of a lane does with its words: those that are due start their 64 cycles again. -/
def repolled (s : State) (band : Nat) (w : Waita) : Waita := if pollDue s band w then { w with since := 0 } else w

/-- The poll of a lane that waits on one word. -/
theorem modBand_repolled (h : laneWords s band lane = [w]) :
    (State.modBand s band fun b => Band.modLane b lane fun y => { y with waita := y.waita.map (repolled s band) })
      = State.modBand s band fun b => Band.modLane b lane fun y => { y with waita := [repolled s band w] } := by
  obtain ⟨b, hb, hw⟩ := laneWords_singleton h
  refine modBand_congr hb ?_
  unfold Band.modLane
  dsimp only
  rw [hw]
  rfl

/-- After the change of its words a lane waits on these. -/
theorem laneWords_modBand {b : Band} (h : Table.find band s.bands = some b) (ws : List Waita) :
    laneWords (State.modBand s band fun b => Band.modLane b lane fun y => { y with waita := ws }) band lane = ws := by
  rw [laneWords_of_find (find_modBand _ h), Band.lane_modLane]

theorem exec_monitorPoll_due (h : laneWords s band lane = [w]) (hd : pollDue s band w = true) {s1 : State}
    (h1 : s1 = senseWord band w (State.modBand s band fun b => Band.modLane b lane fun y =>
      { y with waita := [{ w with since := 0 }] })) :
    exec (.monitorPoll band lane) s
      = .next (if waitaValue s1 band w != w.expect then releaseWaita band lane w s1 else s1) := by
  have hdue : (laneWords s band lane).filter (pollDue s band) = [w] := by rw [h, List.filter_cons_of_pos hd, List.filter_nil]
  have hre : repolled s band w = { w with since := 0 } := if_pos hd
  have hmod := modBand_repolled h
  rw [hre] at hmod
  change execMonitorPoll band lane s = _
  unfold execMonitorPoll
  rw [hdue, h1, ← hmod]
  rfl

theorem exec_monitorPoll_not (h : laneWords s band lane = [w]) (hd : pollDue s band w = false) :
    exec (.monitorPoll band lane) s
      = .next (State.modBand s band fun b => Band.modLane b lane fun y => { y with waita := [w] }) := by
  have hdue : (laneWords s band lane).filter (pollDue s band) = [] := by
    rw [h, List.filter_cons_of_neg (by simp [hd]), List.filter_nil]
  have hre : repolled s band w = w := if_neg (by simp [hd])
  have hmod := modBand_repolled h
  rw [hre] at hmod
  change execMonitorPoll band lane s = _
  unfold execMonitorPoll
  rw [hdue, ← hmod]
  rfl

end

/-- A wake that arrives where one word is awaited at one lane: the word is read, and releases the lane where it differs. -/
theorem exec_watchWake {s s1 : State} {core g key l : Nat} {w : Waita} (hc : core < 64)
    (hw : (State.core s (g / 2 ^ 26)).wakes = [(core, g)]) (hm : meshClear s (core / 16) (some core) g = true)
    (hws : waitersOf s core = [(key, l, w)]) (hg : w.g = some g) (hp : w.polled = false)
    (h1 : s1 = senseWord key w (chargeRoute (g / 2 ^ 30) (core / 16)
      (State.modCore s (g / 2 ^ 26) fun c => { c with wakes := [] }))) :
    exec (.watchWake core g) s = .next (if waitaValue s1 key w != w.expect then releaseWaita key l w s1 else s1) := by
  have hmod : (State.modCore s (g / 2 ^ 26) fun c => { c with wakes := c.wakes.filter fun w => w != (core, g) })
      = State.modCore s (g / 2 ^ 26) fun c => { c with wakes := [] } := by
    unfold State.modCore
    dsimp only
    rw [hw]
    simp
  have hwait : waitersOf (chargeRoute (g / 2 ^ 30) (core / 16) (State.modCore s (g / 2 ^ 26) fun c => { c with wakes := [] })) core
      = [(key, l, w)] := by
    unfold waitersOf at hws ⊢
    rw [(chargeRoute_frame _ _ _).1]
    exact hws
  change execWatchWake core g s = _
  unfold execWatchWake
  rw [if_neg (by omega), if_neg (by rw [hw]; simp [hm])]
  dsimp only
  rw [hmod, hwait, h1]
  simp [hg, hp]

/-- A wake whose way is not clear stays on it. -/
theorem exec_watchWake_blocked {s : State} {core g : Nat} (hc : core < 64) (hm : meshClear s (core / 16) (some core) g = false) :
    exec (.watchWake core g) s = .next s := by
  change execWatchWake core g s = _
  unfold execWatchWake
  rw [if_neg (by omega), if_pos (by simp [hm])]

/-! ## Counters (R33, R381) -/

/-- One lane held by a DWAIT. -/
theorem exec_counterWaitRelease {s : State} {key l m : Nat} {lanes : Dword} {b : Band} (hb : Table.find key s.bands = some b)
    (hl : lanesOf lanes = [l]) (hr : (Band.lane b l).run = .counter m) :
    exec (.counterWaitRelease key lanes) s = .next (if !Band.drained b (countersOf m) then s
      else if (latchLanes s key (countersOf m) [l]).isEmpty then State.modBand s key fun b => Band.modLane b l dwaitOn
      else takeLatch key (Band.lane b l).pc (countersOf m) s l) := by
  change execCounterWaitRelease key lanes s = _
  unfold execCounterWaitRelease
  simp only [hb, hl, List.foldl_cons, List.foldl_nil, hr]

theorem State.home_find {s : State} {key : Nat} {b : Band} {t : Team} {g : Grid} (h : State.home s key = some (b, t, g)) :
    Table.find key s.bands = some b := by
  unfold State.home at h
  split at h
  · exact nomatch h
  · split at h
    · exact nomatch h
    · split at h
      · exact nomatch h
      · cases h
        assumption

/-- One group at its clause's WAIT. -/
theorem releaseWait_of_fetched {s : State} {key ctx h : Nat} {pc : Pc} {ls : List Nat} {b : Band}
    (hb : Table.find key s.bands = some b) (hf : fetchWord s (key / 1024) ctx pc.clause = .ok h) :
    releaseWait key ctx pc ls s = if Band.drained b (countersOf (waitMask h)) then
        (latchLanes s key (countersOf (waitMask h)) ls).foldl (takeLatch key pc (countersOf (waitMask h)))
          (setEntry key (ls.filter fun l => !(latchLanes s key (countersOf (waitMask h)) ls).elem l) .inside s)
      else s := by
  unfold releaseWait
  simp only [hb, hf]

/-! ## Fences and completion waits (R337, R395) -/

theorem exec_fenceComplete {s : State} {op : Nat} {o : Op} {k : FenceKind} (ho : Table.find op s.ops = some o)
    (hk : o.kind = .fence k) :
    exec (.fenceComplete op) s = .next (if fenceWaits s o then s
      else if k = .sc then State.modCore (countDown o.band o.dc { s with ops := Table.del op s.ops }) (o.band / 64)
        fun c => { c with l1 := [] }
      else acquireEffect o.band o.order o.scope (countDown o.band o.dc { s with ops := Table.del op s.ops })) := by
  change execFenceComplete op s = _
  unfold execFenceComplete
  simp only [ho, hk]

theorem acquireEffect_of_rel (key : Nat) (sc : Scope) (s : State) : acquireEffect key .rel sc s = s := rfl

/-- Settles O52: each wait is read off its step's equation for one group, one lane, one word or one operation. -/
theorem waitsEnd : Obligations.WaitsEnd := by
  unfold Obligations.WaitsEnd
  refine ⟨fun s key lanes b t g p h hh hp hf => ?_, fun s key l m lanes b hb hl hr hd => ?_,
    fun s key l m lanes b hb hl hr hd hn => ?_, fun s core g key l w hc hw hm hws hg hp s1 h1 => ?_,
    fun s core g hc hm => exec_watchWake_blocked hc hm, fun s band lane w hw hpoll hsince hclear s1 h1 => ?_,
    fun s band lane w hw hnot => ?_, fun s band lane w hw hleft => ?_, fun s band lane w hw hleft => ?_,
    fun s op o k ho hk => ⟨fun hwait => ?_, fun hwait hsc hrel => ?_⟩,
    fun s op base first count left o b y g ho hk hh => ⟨fun hs => ?_, fun hs late s1 hread => ?_, fun hs d ds late s1 hread => ?_⟩⟩
  · change execClauseWaitRelease key lanes s = _
    unfold execClauseWaitRelease
    simp only [hh, hp, List.foldl_cons, List.foldl_nil, releaseWait_of_fetched (State.home_find hh) hf, waitMask, Bool.and_eq_true,
      ite_and]
    rfl
  · rw [exec_counterWaitRelease hb hl hr, hd]
    rfl
  · refine ⟨_, _, ?_, find_modBand (fun b => Band.modLane b l dwaitOn) hb, ?_⟩
    · rw [exec_counterWaitRelease hb hl hr, hd, hn]
      rfl
    · rw [Band.lane_modLane]
      exact ⟨rfl, rfl, fun k hk => Band.lane_modLane_ne _ _ hk, rfl⟩
  · rw [exec_watchWake hc hw hm hws hg hp h1]
    exact ⟨fun hv => by rw [if_pos (bne_iff_ne.mpr hv)], fun hv => by rw [hv, bne_self_eq_false]; rfl⟩
  · have hdue : pollDue s band w = true := by
      rcases hpoll with h | h <;> simp [pollDue, h, hsince, hclear]
    obtain ⟨b, hb, -⟩ := laneWords_singleton hw
    obtain ⟨hbands, hops, hdram, hsram⟩ := senseWord_frame band w (State.modBand s band fun b => Band.modLane b lane fun y =>
      { y with waita := [{ w with since := 0 }] })
    rw [← h1] at hbands hops hdram hsram
    rw [exec_monitorPoll_due hw hdue h1]
    refine ⟨fun hv => by rw [if_pos (bne_iff_ne.mpr hv)], fun hv => ⟨by rw [hv, bne_self_eq_false]; rfl, ?_, hdram, hsram, hops⟩⟩
    refine Eq.trans ?_ (laneWords_modBand (lane := lane) hb [{ w with since := 0 }])
    unfold laneWords
    rw [hbands]
  · have hdue : pollDue s band w = false := by
      rcases hnot with h | ⟨h, hi⟩
      · simp [pollDue, h]
      · obtain ⟨g, hg⟩ := Option.isSome_iff_exists.mp hi
        simp [pollDue, h, hg]
    obtain ⟨b, hb, -⟩ := laneWords_singleton hw
    exact ⟨_, exec_monitorPoll_not hw hdue, laneWords_modBand hb [w], rfl, rfl, rfl, rfl, rfl⟩
  · change execWaitaTimeout band lane s = _
    unfold execWaitaTimeout
    simp [hw, hleft]
  · change execWaitaTimeout band lane s = _
    unfold execWaitaTimeout
    simp [hw, hleft]
  · rw [exec_fenceComplete ho hk, if_pos hwait]
  · refine ⟨_, exec_fenceComplete ho hk, ?_⟩
    rw [if_neg (by simp [hwait]), if_neg hsc, hrel, acquireEffect_of_rel]
    refine ⟨?_, ?_, ?_, fun b hb => find_countDown_own o.dc hb⟩
    · rw [countDown_frame]
      exact Table.find_del _ _
    · rw [countDown_frame]
    · rw [countDown_frame]
  · change execCbwaitPoll op s = _
    unfold execCbwaitPoll
    simp only [ho, hk, hh, if_pos hs]
  · change execCbwaitPoll op s = _
    unfold execCbwaitPoll
    simp only [ho, hk, hh, if_neg (Nat.not_lt.mpr hs), hread]
  · change execCbwaitPoll op s = _
    unfold execCbwaitPoll
    simp only [ho, hk, hh, if_neg (Nat.not_lt.mpr hs), hread]

end Sys2Proof.Machine

namespace Sys2Proof.Machine

/-! # The frame of an access at issue (spec/08_loads_stores_atomics.md R176, R177, R179, R180) -/

/-! ## Bands whose registers agree -/

/-- A program reads the same of bands `b` and `c`: scalar registers, exact accumulator, flags, and each lane's vector
registers and condition bits. -/
structure Band.SameRegs (b c : Band) : Prop where
  scalar : c.s = b.s
  ka : c.ka = b.ka
  fflags : c.fflags = b.fflags
  vector : ∀ l, (Band.lane c l).v = (Band.lane b l).v
  cond : ∀ l, (Band.lane c l).c = (Band.lane b l).c

theorem Band.SameRegs.refl (b : Band) : Band.SameRegs b b := ⟨rfl, rfl, rfl, fun _ => rfl, fun _ => rfl⟩

theorem Band.SameRegs.trans {a b c : Band} (h : Band.SameRegs a b) (g : Band.SameRegs b c) : Band.SameRegs a c where
  scalar := g.scalar.trans h.scalar
  ka := g.ka.trans h.ka
  fflags := g.fflags.trans h.fflags
  vector l := (g.vector l).trans (h.vector l)
  cond l := (g.cond l).trans (h.cond l)

theorem Band.sameRegs_modLanes (b : Band) (ls : List Nat) {f : Nat → Lane → Lane} (hv : ∀ l y, (f l y).v = y.v)
    (hc : ∀ l y, (f l y).c = y.c) : Band.SameRegs b (Band.modLanes b ls f) where
  scalar := by rw [Band.modLanes_rest]
  ka := by rw [Band.modLanes_rest]
  fflags := by rw [Band.modLanes_rest]
  vector := Band.lane_modLanes_keep (fun y => y.v) b ls hv
  cond := Band.lane_modLanes_keep (fun y => y.c) b ls hc

theorem sameRegs_bandAfter (i : Instr) (iss : Issue) (x : Ix) (ls : List Nat) (b : Band) :
    Band.SameRegs b (bandAfter i iss x ls b) where
  scalar := by rw [bandAfter_rest]
  ka := by rw [bandAfter_rest]
  fflags := by rw [bandAfter_rest]
  vector l := bandAfter_keeps (fun y => y.v) i iss x ls b l (fun _ _ => rfl) fun _ => rfl
  cond l := bandAfter_keeps (fun y => y.c) i iss x ls b l (fun _ _ => rfl) fun _ => rfl

/-! ## Counting an issue, and marking its destinations -/

theorem countIssue_frame (x : Ix) (dc : Dc) (s : State) : countIssue x dc s = { s with bands := (countIssue x dc s).bands } := by
  unfold countIssue
  split
  · rfl
  · cases dc <;> rfl

theorem find_countIssue {x : Ix} {s : State} {b : Band} (dc : Dc) (h : Table.find x.key s.bands = some b) :
    ∃ c, Table.find x.key (countIssue x dc s).bands = some c ∧ Band.SameRegs b c := by
  unfold countIssue
  split
  · exact ⟨b, h, .refl b⟩
  · cases dc with
    | none => exact ⟨b, h, .refl b⟩
    | some k => exact ⟨_, find_modBand _ h, rfl, rfl, rfl, fun _ => rfl, fun _ => rfl⟩

theorem find_countIssue_ne {x : Ix} {k : Nat} (dc : Dc) (s : State) (h : k ≠ x.key) :
    Table.find k (countIssue x dc s).bands = Table.find k s.bands := by
  unfold countIssue
  split
  · rfl
  · cases dc with
    | none => rfl
    | some n => exact find_modBand_ne _ _ h

theorem find_markPending_sameRegs {s : State} {key : Nat} {b : Band} (ls regs : List Nat) (op : Nat)
    (h : Table.find key s.bands = some b) :
    ∃ c, Table.find key (markPending key ls regs op s).bands = some c ∧ Band.SameRegs b c := by
  refine ⟨_, find_modBand _ h, Band.SameRegs.trans ?_ (Band.sameRegs_modLanes _ ls (fun _ _ => rfl) fun _ _ => rfl)⟩
  exact ⟨rfl, rfl, rfl, fun _ => rfl, fun _ => rfl⟩

/-! ## Starting an access -/

/-- Noting an out-of-range access changes contexts alone (R139). -/
theorem latchOut_rest (x : Ix) (n : Nat) (w : Bool) (as : List Acc) (s : State) :
    latchOut x n w as s = { s with ctxs := (latchOut x n w as s).ctxs } := by
  unfold latchOut
  split
  · rfl
  · split <;> rfl

section
variable (i : Instr) (x : Ix) (k : OpKind) (w : Bool) (dc : Dc) (sc : Scope) (o : Order) (as : List Acc) (regs : List Nat)
  (s : State)

/-- Past its new operation, the start of an access changes bands alone. -/
theorem startAccess_rest : (startAccess i x k w dc sc o as regs s).s
    = { (newOp i x k dc sc o as false 0 (latchOut x s.nextKey w as s)).2 with
        bands := (startAccess i x k w dc sc o as regs s).s.bands } := by
  unfold startAccess
  dsimp only
  rw [countIssue_frame]
  rfl

theorem startAccess_issue : (startAccess i x k w dc sc o as regs s).s.issue = s.issue := by
  rw [startAccess_rest, latchOut_rest]
  rfl

/-- The operation that an access starts: the band's, holding the accesses. -/
theorem find_startAccess_op : ∃ op, Table.find s.nextKey (startAccess i x k w dc sc o as regs s).s.ops = some op
    ∧ op.kind = k ∧ op.dc = dc ∧ op.band = x.key ∧ op.accs = as := by
  rw [startAccess_rest, latchOut_rest]
  exact ⟨_, Table.find_set _ _ _, rfl, rfl, rfl, rfl⟩

theorem find_startAccess_band {b : Band} (h : Table.find x.key s.bands = some b) :
    ∃ c, Table.find x.key (startAccess i x k w dc sc o as regs s).s.bands = some c ∧ Band.SameRegs b c := by
  have hn : Table.find x.key (newOp i x k dc sc o as false 0 (latchOut x s.nextKey w as s)).2.bands = some b := by
    rw [latchOut_rest]
    exact h
  obtain ⟨c, hc, hbc⟩ := find_countIssue dc hn
  obtain ⟨d, hd, hcd⟩ := find_markPending_sameRegs x.act regs _ hc
  exact ⟨d, hd, hbc.trans hcd⟩

theorem find_startAccess_band_ne {j : Nat} (h : j ≠ x.key) :
    Table.find j (startAccess i x k w dc sc o as regs s).s.bands = Table.find j s.bands := by
  refine (find_modBand_ne _ _ h).trans ((find_countIssue_ne _ _ h).trans ?_)
  rw [latchOut_rest]
  rfl

end

/-! ## The accesses of an issue -/

/-- What an access names of its issue: lane, generic address and size. -/
def Acc.named (a : Acc) : Nat × Dword × Nat := (a.lane, a.addr, a.size)

/-- A store that yields to a higher lane still names its bytes (R180). -/
theorem suppressLower_named (as : List Acc) : (suppressLower as).map Acc.named = as.map Acc.named := by
  induction as with
  | nil => rfl
  | cons a t ih =>
    rw [suppressLower, List.map_cons, List.map_cons, ih]
    congr 1
    split
    · split <;> rfl
    · rfl

theorem accesses_named (x : Ix) (s : State) (need z : Nat) (addr : Ix → Nat → Nat) (data cmp : Ix → Nat → List Byte) :
    (accesses x s need z addr data cmp).map Acc.named = x.act.map fun l => (l, BitVec.ofNat 64 (addr x l), z) := by
  unfold accesses
  rw [List.map_map]
  rfl

/-- The accesses of a table's form, where the form says so only the highest lane of those at the same bytes storing them. -/
def MemForm.accs (f : MemForm) (x : Ix) (s : State) : List Acc :=
  let as := accesses x s (AccessKind.need f.acc) f.size f.addr f.data f.cmp
  if f.once then suppressLower as else as

theorem MemForm.start_eq (f : MemForm) (i : Instr) (x : Ix) (s : State) : f.start i x s
    = (startAccess i x f.kind (AccessKind.writes f.acc) f.dc f.scope f.order (f.accs x s) f.regs s).s := rfl

/-- One access for each active lane, whether or not a lane yields to a higher one (R177, R180). -/
theorem MemForm.accs_named (f : MemForm) (x : Ix) (s : State) :
    (f.accs x s).map Acc.named = x.act.map fun l => (l, BitVec.ofNat 64 (f.addr x l), f.size) := by
  unfold MemForm.accs
  dsimp only
  split
  · exact (suppressLower_named _).trans (accesses_named ..)
  · exact accesses_named ..

/-! ## Causes -/

/-- An address off its size is an access's first cause, at the generic address (R77, R176). -/
theorem accessCause_of_misaligned {k : AccessKind} {locks : Bool} {addr : Ix → Nat → Nat} {z l : Nat} {x : Ix} (s : State)
    (h : addr x l % z ≠ 0) : accessCause k locks addr z x s l = some (causeMisaligned, BitVec.ofNat 64 (addr x l)) :=
  if_pos h

/-- A cause of the instruction's own stands before POISON, where no register is reserved (R77). -/
theorem causeOf_of_own {i : Instr} {own : Own} {x : Ix} {s : State} {l c : Nat} {a : Dword} (h : own x s l = some (c, a))
    (hr : reservedReg (uses i) x = false) : causeOf i own x s l = some ⟨l, c, a⟩ := by
  unfold causeOf
  simp only [h, hr, Bool.false_eq_true, if_false, ite_self]

/-- Settles O20: the issue leaves what the start of its access leaves, whose lanes then go on. -/
theorem accessIssueFrame : Obligations.AccessIssueFrame := by
  unfold Obligations.AccessIssueFrame
  refine ⟨fun i f s iss x hf hg hrep hre => ?_, fun i f s x l _ hmis hres =>
    causeOf_of_own (accessCause_of_misaligned s hmis) hres⟩
  obtain ⟨hkey, -⟩ := indexOf_spec hg.index
  have hexec : exec i s = .next (afterIssue i iss x x.sel (f.start i x s)) := by
    have h := accessesIssue i f s iss x hf hg
    rw [beginReplay_none hrep] at h
    exact h
  rw [MemForm.start_eq] at hexec
  have hi := (startAccess_issue i x f.kind (AccessKind.writes f.acc) f.dc f.scope f.order (f.accs x s) f.regs s).trans hg.issue
  obtain ⟨hdram, hsram, hhub, -⟩ :=
    startAccess_frame i x f.kind (AccessKind.writes f.acc) f.dc f.scope f.order (f.accs x s) f.regs s
  obtain ⟨op, hop, hkind, hdc, hband, haccs⟩ :=
    find_startAccess_op i x f.kind (AccessKind.writes f.acc) f.dc f.scope f.order (f.accs x s) f.regs s
  refine ⟨_, op, hexec, ?_⟩
  rw [afterIssue_frame hi hre]
  refine ⟨hdram, hsram, hhub, hop, hkind, hdc, hband, haccs ▸ f.accs_named x s, fun k hk => ?_, fun b hb => ?_⟩
  · exact (afterIssue_band_ne hi hre hkey hk).trans (find_startAccess_band_ne (h := hk) ..)
  · obtain ⟨c, hc, hbc⟩ :=
      find_startAccess_band i x f.kind (AccessKind.writes f.acc) f.dc f.scope f.order (f.accs x s) f.regs s hb
    have h := hbc.trans (sameRegs_bandAfter i iss x x.sel c)
    exact ⟨_, find_afterIssue hi hre hkey hc, h.scalar, h.ka, h.fflags, fun l => ⟨h.vector l, h.cond l⟩⟩

end Sys2Proof.Machine

namespace Sys2Proof.Machine

/-! # Reset values (spec/17_scheduling_tokens_power.md R417 to R424 and the chapters of each register) -/

/-- Settles O1: at reset every table is empty, so each agent reads as its default. -/
theorem resetValues : Obligations.ResetValues := by
  unfold Obligations.ResetValues
  have core (c : Nat) : State.core State.reset c = Core.start := rfl
  have die (d : Nat) : State.die State.reset d = Die.start := rfl
  have unit (m : Nat) : (State.unit State.reset m).memerr = 0 := rfl
  have pair (p : Nat) : State.pair State.reset p = Pair.start := rfl
  refine ⟨rfl, rfl, by decide, rfl, rfl, fun c => ?_, fun d => ?_, unit, fun p => ?_, rfl, rfl, rfl, rfl⟩
  · rw [core]
    exact ⟨rfl, rfl, rfl, rfl, rfl⟩
  · rw [die]
    exact ⟨rfl, rfl, rfl⟩
  · rw [pair]
    exact ⟨rfl, rfl⟩

end Sys2Proof.Machine

namespace Sys2Proof.Machine

/-! # Generic addresses converted and tested (spec/04_addresses_and_translation.md R84 to R87) -/

/-- Direction .g puts the window's tag above a form that fits the window (R84). -/
theorem gcvtValue_of_form {o : OpGcvt} (h : o.toWin = false) (x : Ix) (l : Nat) :
    gcvtValue o x l = if pairAddr o.s o.a 0 x l < (if o.win = .mem then 2 ^ 60 else 2 ^ 56) then
      windowTag o.win + pairAddr o.s o.a 0 x l else ones := by
  unfold gcvtValue
  simp only [h, Bool.false_eq_true, if_false, genericAddr_eq]

theorem flagNat_ne (a b : Nat) : flagNat (a != b) = if a = b then 0 else 1 := by
  by_cases h : a = b <;> simp [flagNat, h]

/-- Settles O23: both forms issue as short-latency instructions, whose held values are those of R84. -/
theorem addressConversion : Obligations.AddressConversion := by
  unfold Obligations.AddressConversion
  refine ⟨fun o s iss x hg => issueWith_of_goes hg rfl rfl, ?_, fun o s iss x hg => ?_⟩
  · rintro o x l a rfl hdir
    refine (gcvtValue_of_form hdir x l).trans ?_
    cases o.win <;> rfl
  · simp only [← show ones = 2 ^ 64 - 1 from rfl, ← flagNat_ne]
    exact issueWith_of_goes hg rfl rfl

end Sys2Proof.Machine

namespace Sys2Proof.Machine

/-! # Translation and fault records (spec/04_addresses_and_translation.md R99 to R108) -/

/-! ## Charges and messages -/

/-- A charge changes a die's bucket, and nothing else of a die (R406). -/
theorem die_chargeDie (d n : Nat) (s : State) (k : Nat) :
    State.die (chargeDie d n s) k = { State.die s k with tokens := (State.die (chargeDie d n s) k).tokens } := by
  have e : State.die (chargeDie d n s) k = State.die (State.modDie s d fun x => { x with tokens := x.tokens - n }) k := rfl
  rw [e]
  by_cases h : k = d
  · subst h
    rw [die_modDie]
  · rw [die_modDie_ne _ _ h]

/-- A message changes the messages, the next key, and the sender's bucket (R125, R406). -/
theorem sendMsg_frame (m : Msg) (s : State) :
    sendMsg m s = { s with nextKey := s.nextKey + 1, msgs := Table.set s.nextKey m s.msgs, dies := (sendMsg m s).dies
                           hub := { s.hub with w := (sendMsg m s).hub.w } } := by
  unfold sendMsg
  dsimp only
  split <;> rfl

theorem die_sendMsg (m : Msg) (s : State) (k : Nat) :
    State.die (sendMsg m s) k = { State.die s k with tokens := (State.die (sendMsg m s) k).tokens } := by
  unfold sendMsg
  dsimp only
  split
  · rfl
  · exact die_chargeDie _ _ _ k

/-! ## Requests and walks (R99, R100) -/

section
variable {s : State} {d line : Nat} {ex : Bool}

/-- A request that misses, where no walk serves it yet, begins the walk of its page. -/
theorem exec_translationRequest_miss (hd : d < 4) (hw : wanted s d line ex = true) (hb : lineBusy (State.die s d) line = false)
    (hh : isHeld (State.die s d) line (kindOf ex) = false) (hm : tlbFind (State.die s d) (line * 128) = none)
    (hn : (State.die s d).walks = []) :
    exec (.translationRequest d line ex) s = .next (beginWalk d (line * 128 / 2 ^ 16) ex s) := by
  show execTranslationRequest d line ex s = _
  simp [execTranslationRequest, Nat.not_le.mpr hd, hw, hb, hh, hm, walking, hn]

/-- One whose page is being walked begins no second walk. -/
theorem exec_translationRequest_walking (hd : d < 4) (hm : tlbFind (State.die s d) (line * 128) = none)
    (hk : walking s (State.die s d) (line * 128) = true) : exec (.translationRequest d line ex) s = .next s := by
  show execTranslationRequest d line ex s = _
  simp [execTranslationRequest, Nat.not_le.mpr hd, hm, hk]

/-- A read of a page that is cached leaves for the place that the entry names. -/
theorem exec_translationRequest_hit {e : Tlb} (hd : d < 4) (hw : wanted s d line false = true)
    (hb : lineBusy (State.die s d) line = false) (hh : isHeld (State.die s d) line .read = false)
    (hm : tlbFind (State.die s d) (line * 128) = some e) :
    exec (.translationRequest d line false) s = .next (sendReq d line false (placeOf e.entry e.big (line * 128)).1
      (placeOf e.entry e.big (line * 128)).2 (markTranslated d line false s)) := by
  show execTranslationRequest d line false s = _
  simp [execTranslationRequest, Nat.not_le.mpr hd, hw, hb, hh, hm, kindOf]

end

/-- A walk begins: one more of the die's walks, and nothing else. -/
theorem beginWalk_eq (d page : Nat) (ex : Bool) (s : State) :
    ∃ z, beginWalk d page ex s = State.modDie s d fun x => { x with walks := x.walks ++ [⟨page, ex, z, false⟩] } := ⟨_, rfl⟩

theorem sendReq_read (d line u o : Nat) (s : State) :
    sendReq d line false u o s = sendMsg ⟨.rdS, line, d, unitDie u, [], 0, unitKey u (o / 128 * 128)⟩
      (State.modDie s d fun x => { x with wants := Table.set line ⟨false, none, 0, false, false, some (unitDie u)⟩ x.wants }) := rfl

/-- With room among the cached entries, caching one sets it and nothing else (R100). -/
theorem cacheEntry_of_room {s : State} {d : Nat} (h : (State.die s d).tlb.length < 8192) (c e : Nat) (big : Bool) :
    cacheEntry d c e big s = State.modDie s d fun x =>
      { x with tlb := Table.set (if big then c / 2 ^ 21 * 32 else c / 2 ^ 16) ⟨e, big⟩ x.tlb } := by
  simp [cacheEntry, roomInTlb, h]

/-- A walk that finds PRESENT caches the entry and lets the held requests of its page go (R100, R104). -/
theorem exec_translationWalk_present {s s1 : State} {d page key e : Nat} {big : Bool} {w : Walk} (hd : d < 4)
    (hf : (State.die s d).walks.find? (fun w => w.page == page) = some w)
    (hw : walk d (page * 2 ^ 16) w.write w.zero (State.modDie s d fun d => { d with walks := d.walks.filter fun x => x.page != page })
      = (.present key e big, s1)) :
    exec (.translationWalk d page) s = .next ((secondOf s1 d page).foldl (releaseHeld d)
      (dropSecond d page (cacheEntry d (page * 2 ^ 16) e big s1))) := by
  show execTranslationWalk d page s = _
  simp only [execTranslationWalk, Nat.not_le.mpr hd, if_false, hf, hw]

/-- Once every lane's access is over, the faulting lanes of an instruction are parked and form one fragment (R105, R185). -/
theorem exec_pageFaultResponse {s : State} {k : Nat} {o : Op} (ho : Table.find k s.ops = some o)
    (hp : faultPages s o.kind o.accs ≠ []) (hv : o.accs.all Acc.over = true) :
    exec (.pageFaultResponse k) s = .next
      (let ps := faultPages s o.kind o.accs
       let m := ps.foldl (fun m p => m ||| p.lanes) 0
       formFragment o.band o.pc (Log.restrict o.log m) 0 ps o.dc (o.replay.map fun r => r % 128)
         (parkLanes o.band m o.pc (some k) { s with ops := Table.del k s.ops })) := by
  show execPageFaultResponse k s = _
  simp [execPageFaultResponse, ho, hp, hv]

/-! ## Fault records enter their queue (R106, R107) -/

/-- One record enters a die's queue, at the next position and with the next sequence number. -/
def Die.enqueue (d : Die) (r : FaultRec) : Die :=
  { d with fq := Table.set d.fqHead { r with seq := d.fqSeq.toNat } d.fq, fqHead := (d.fqHead + 1) % 2048, fqSeq := d.fqSeq + 1 }

theorem Die.posterWaits_iff {d : Die} {r : FaultRec} {rest : List FaultRec} (h : d.fqWait = r :: rest) :
    Die.posterWaits d = true ↔ 2048 < Die.fqCount d + ((r :: rest).take r.nrec).length := by
  simp [Die.posterWaits, h]

section
variable {s : State} {d : Nat} {r : FaultRec} {rest : List FaultRec}

/-- Records that do not all fit wait. -/
theorem exec_faultRecordPost_full (hd : d < 4) (hw : (State.die s d).fqWait = r :: rest)
    (h : 2048 < Die.fqCount (State.die s d) + ((r :: rest).take r.nrec).length) : exec (.faultRecordPost d) s = .next s := by
  have hp := (Die.posterWaits_iff hw).mpr h
  show execFaultRecordPost d s = _
  simp [execFaultRecordPost, Nat.not_le.mpr hd, hw, hp]

/-- Records that fit enter one after another. -/
theorem exec_faultRecordPost_room (hd : d < 4) (hw : (State.die s d).fqWait = r :: rest)
    (h : Die.fqCount (State.die s d) + ((r :: rest).take r.nrec).length ≤ 2048) :
    ∃ t, exec (.faultRecordPost d) s = .next t ∧ t.dram = s.dram
      ∧ State.die t d = { ((r :: rest).take r.nrec).foldl Die.enqueue (State.die s d) with fqWait := (r :: rest).drop r.nrec }
      ∧ t.hubSram = writeRecords d ((r :: rest).take r.nrec) (State.die s d).fqHead (State.die s d).fqSeq.toNat s.hubSram := by
  have hp : Die.posterWaits (State.die s d) = false :=
    Bool.eq_false_iff.mpr fun e => absurd ((Die.posterWaits_iff hw).mp e) (Nat.not_lt.mpr h)
  have he : exec (.faultRecordPost d) s = execFaultRecordPost d s := rfl
  rw [he]
  unfold execFaultRecordPost
  simp only [Nat.not_le.mpr hd, if_false, hw, hp, Bool.false_eq_true]
  split
  · exact ⟨_, rfl, rfl, die_setDie _ _ _, rfl⟩
  · exact ⟨_, rfl, rfl, die_setDie _ _ _, rfl⟩

end

/-- Records that enter move the head and the sequence number on by their number. -/
theorem foldl_enqueue_head (rs : List FaultRec) (d : Die) (h : d.fqHead < 2048) :
    (rs.foldl Die.enqueue d).fqHead = (d.fqHead + rs.length) % 2048
      ∧ (rs.foldl Die.enqueue d).fqSeq = d.fqSeq + BitVec.ofNat 32 rs.length := by
  induction rs generalizing d with
  | nil => simp [Nat.mod_eq_of_lt h]
  | cons r rs ih =>
    obtain ⟨hh, hs⟩ := ih (Die.enqueue d r) (Nat.mod_lt _ (by decide))
    rw [List.foldl_cons, hh, hs]
    refine ⟨?_, ?_⟩
    · simp only [Die.enqueue, List.length_cons]
      omega
    · show d.fqSeq + 1#32 + BitVec.ofNat 32 rs.length = d.fqSeq + BitVec.ofNat 32 (rs.length + 1)
      rw [BitVec.add_assoc, ← BitVec.ofNat_add, Nat.add_comm]

/-- A position that no record takes keeps its entry. -/
theorem find_foldl_enqueue_ne {rs : List FaultRec} {d : Die} {p : Nat} (hh : d.fqHead < 2048)
    (h : ∀ i < rs.length, p ≠ (d.fqHead + i) % 2048) : Table.find p (rs.foldl Die.enqueue d).fq = Table.find p d.fq := by
  induction rs generalizing d with
  | nil => rfl
  | cons r rs ih =>
    have h0 : p ≠ d.fqHead := by simpa [Nat.mod_eq_of_lt hh] using h 0 (by simp)
    rw [List.foldl_cons, ih (Nat.mod_lt _ (by decide)) fun i hi => ?_]
    · exact Table.find_set_ne _ _ h0
    · have := h (i + 1) (by simpa using hi)
      simp only [Die.enqueue]
      omega

/-- The records stand in order from the head on, numbered in turn. -/
theorem find_foldl_enqueue {rs : List FaultRec} {d : Die} (hh : d.fqHead < 2048) (hl : rs.length ≤ 2048) {i : Nat} {x : FaultRec}
    (hx : rs[i]? = some x) : Table.find ((d.fqHead + i) % 2048) (rs.foldl Die.enqueue d).fq
      = some { x with seq := (d.fqSeq + BitVec.ofNat 32 i).toNat } := by
  induction rs generalizing d i with
  | nil => simp at hx
  | cons r rs ih =>
    rw [List.length_cons] at hl
    rw [List.foldl_cons]
    cases i with
    | zero =>
      obtain rfl : r = x := by simpa using hx
      rw [Nat.add_zero, Nat.mod_eq_of_lt hh, find_foldl_enqueue_ne (Nat.mod_lt _ (by decide)) fun i hi => ?_]
      · simp [Die.enqueue]
      · simp only [Die.enqueue]
        omega
    | succ i =>
      have e := ih (d := Die.enqueue d r) (Nat.mod_lt _ (by decide)) (by omega) (i := i) (by simpa using hx)
      have hp : ((Die.enqueue d r).fqHead + i) % 2048 = (d.fqHead + (i + 1)) % 2048 := by
        simp only [Die.enqueue]
        omega
      have hs : (Die.enqueue d r).fqSeq + BitVec.ofNat 32 i = d.fqSeq + BitVec.ofNat 32 (i + 1) := by
        show d.fqSeq + 1#32 + BitVec.ofNat 32 i = _
        rw [BitVec.add_assoc, ← BitVec.ofNat_add, Nat.add_comm]
      rw [← hp, e, hs]

theorem faultBytes_length (r : FaultRec) : (faultBytes r).length = 64 := by
  simp [faultBytes, natLe_length]

/-- Settles O47: each step is read off its equation; the records of one poster enter by induction on their list. -/
theorem translationAndFaults : Obligations.TranslationAndFaults := by
  unfold Obligations.TranslationAndFaults
  refine ⟨?_, ?_, fun s s1 d page key e big w hd hf hw => exec_translationWalk_present hd hf hw, ?_,
    fun s k o ho hp hv => exec_pageFaultResponse ho hp hv, ?_, ?_, ?_⟩
  case _ =>
    intro s d line ex hd hw hb hh hm hn
    obtain ⟨z, hz⟩ := beginWalk_eq d (line * 128 / 2 ^ 16) ex s
    have hx := exec_translationRequest_miss hd hw hb hh hm hn
    rw [hz] at hx
    refine ⟨_, ⟨_, ex, z, false⟩, hx, by simp [hn], rfl, rfl, rfl, rfl, exec_translationRequest_walking hd ?_ ?_⟩
    · rw [die_modDie]
      exact hm
    · simp [walking]
  case _ =>
    intro s d line e hd hw hb hh hm
    refine ⟨_, exec_translationRequest_hit hd hw hb hh hm, ?_⟩
    rw [sendReq_read]
    refine ⟨?_, ?_, ?_, ?_⟩
    · rw [sendMsg_frame]
      exact Table.find_set _ _ _
    · rw [die_sendMsg]
      simp
    · rw [sendMsg_frame]
      rfl
    · rw [sendMsg_frame]
      rfl
  case _ =>
    intro s d page e big hd hr
    rw [cacheEntry_of_room hr]
    have hs : page * 2 ^ 16 / 2 ^ 16 = page := Nat.mul_div_cancel _ (by decide)
    have hb : page * 2 ^ 16 / 2 ^ 21 * 32 = page / 32 * 32 := by omega
    refine ⟨?_, rfl, rfl⟩
    rw [die_modDie, hs, hb]
    exact Table.find_set _ _ _
  case _ =>
    intro s d r hd hw h1 hsrc hq hh ht
    have hc : Die.fqCount (State.die s d) + ([r].take r.nrec).length ≤ 2048 := by
      simp [Die.fqCount, hh, ht, hq, h1]
    obtain ⟨t, he, hdram, hdie, hsram⟩ := exec_faultRecordPost_room hd hw hc
    rw [h1] at hdie hsram
    have hlen := faultBytes_length { r with seq := (State.die s d).fqSeq.toNat }
    refine ⟨t, he, ?_, ?_, ?_, ?_, ?_, hdram⟩
    · simp [hdie, Die.enqueue, hh, hq, Table.set]
    · simp [hdie, Die.enqueue, hh]
    · simp [hdie]
    · simp [hdie, Die.enqueue]
    · have hb := Memory.bytes_store s.hubSram (0x400000 + d * 0x20000) (faultBytes { r with seq := (State.die s d).fqSeq.toNat })
      rw [hlen] at hb
      rw [hsram, hh]
      refine hb.trans ?_
      simp [faultBytes, hsrc, h1, causePage]
  case _ =>
    intro s d r rest rs hd hw hrs hh
    subst hrs
    refine ⟨exec_faultRecordPost_full hd hw, fun hc => ?_⟩
    obtain ⟨t, he, hdram, hdie, -⟩ := exec_faultRecordPost_room hd hw hc
    obtain ⟨hhead, hseq⟩ := foldl_enqueue_head ((r :: rest).take r.nrec) (State.die s d) hh
    refine ⟨t, he, ?_, hdram, ?_, ?_, fun i x hx => ?_⟩
    · rw [hdie]
    · rw [hdie]
      exact hhead
    · rw [hdie]
      exact hseq
    · rw [hdie]
      exact find_foldl_enqueue hh (Nat.le_of_add_left_le hc) hx
  case _ =>
    intro s d r hd hw h1 hc hq
    refine exec_faultRecordPost_full hd hw ?_
    simp [Die.fqCount, hc, hq, h1]

end Sys2Proof.Machine

namespace Sys2Proof.Machine

/-! # Page registers and firmware's page services (spec/04_addresses_and_translation.md R98, R101, R104, R107, R110 to R114) -/

@[simp] theorem unit_modUnit (s : State) (u : Nat) (f : Unit_ → Unit_) : State.unit (State.modUnit s u f) u = f (State.unit s u) := by
  simp [State.unit, State.modUnit]

/-! ## MTINV (R98, R104) -/

/-- The pages that an MTINV names: all, or NPAGE from START on. -/
theorem mtinvRange_all {v : Dword} (h : v.getLsbD 1 = true) : mtinvRange v = (0, 2 ^ 32) := if_pos h

theorem mtinvRange_pages {v : Dword} (h : v.getLsbD 1 = false) :
    mtinvRange v = (v.toNat / 2 ^ 16 % 2 ^ 32, if v.toNat / 2 ^ 48 = 0 then 65536 else v.toNat / 2 ^ 48) := by
  unfold mtinvRange
  rw [h, if_neg Bool.false_ne_true]

/-- With GO written, MTINV reads ALL, START and NPAGE as written, and GO set. -/
theorem and_mtinvFields_or_one {v : Dword} (h : v.getLsbD 0 = true) :
    v &&& mtinvFields ||| 1 = v &&& 0xFFFFFFFFFFFF0003#64 := by
  have hf : (0xFFFFFFFFFFFF0003#64 : Dword) = mtinvFields ||| 1#64 := by decide
  have h1 : v &&& 1#64 = 1#64 := by rw [BitVec.and_one_eq_setWidth_ofBool_getLsbD, h]; rfl
  rw [hf, BitVec.and_or_distrib_left, h1]
  rfl

theorem and_mtinvFields {v : Dword} (h : v.getLsbD 0 = false) : v &&& mtinvFields = v &&& 0xFFFFFFFFFFFF0003#64 := by
  have hf : (0xFFFFFFFFFFFF0003#64 : Dword) = mtinvFields ||| 1#64 := by decide
  have h1 : v &&& 1#64 = 0#64 := by rw [BitVec.and_one_eq_setWidth_ofBool_getLsbD, h]; rfl
  rw [hf, BitVec.and_or_distrib_left, h1, BitVec.or_zero]

/-- Changes of dies leave the rest of the state. -/
theorem foldl_modDie_frame (f : State → Nat → Die → Die) (ds : List Nat) (s : State) :
    ds.foldl (fun s d => State.modDie s d (f s d)) s
      = { s with dies := (ds.foldl (fun s d => State.modDie s d (f s d)) s).dies } := by
  induction ds generalizing s with
  | nil => rfl
  | cons d ds ih => rw [List.foldl_cons, ih]; rfl

/-- An invalidation that begins marks walks, and keeps its pages beside MTINV (R104). -/
theorem beginMtinv_frame (v : Dword) (s : State) :
    beginMtinv v s = { s with dies := (beginMtinv v s).dies, hub := { s.hub with mtinv := v ||| 1, mtrun := v } } :=
  foldl_modDie_frame _ _ _

theorem exec_mtinvGo_starts {s : State} {v : Dword} (h : s.hub.mtinv.getLsbD 0 = false) (hv : v.getLsbD 0 = true) :
    exec (.mtinvGo v) s = .next (beginMtinv (v &&& mtinvFields) s) := by
  show execMtinvGo v s = _
  simp only [execMtinvGo, h, hv, Bool.false_eq_true, if_false, if_true]

theorem exec_mtinvGo_sets {s : State} {v : Dword} (h : s.hub.mtinv.getLsbD 0 = false) (hv : v.getLsbD 0 = false) :
    exec (.mtinvGo v) s = .next (State.modHub s fun u => { u with mtinv := v &&& mtinvFields }) := by
  show execMtinvGo v s = _
  simp only [execMtinvGo, h, hv, Bool.false_eq_true, if_false]

/-- While an invalidation runs, GO starts no second one. -/
theorem exec_mtinvGo_running {s : State} (v : Dword) (h : s.hub.mtinv.getLsbD 0 = true) :
    exec (.mtinvGo v) s = .next (State.modHub s fun u => { u with mtinv := v &&& mtinvFields ||| 1 }) := by
  show execMtinvGo v s = _
  simp only [execMtinvGo, h, if_true]

/-- A change of some dies, each once, changes those dies by it and no other. -/
theorem die_foldl_modDie (f : Die → Die) {ds : List Nat} (hn : ds.Nodup) (s : State) (d : Nat) :
    State.die (ds.foldl (fun s d => State.modDie s d f) s) d = if d ∈ ds then f (State.die s d) else State.die s d := by
  induction ds generalizing s with
  | nil => rfl
  | cons e ds ih =>
    obtain ⟨he, hn⟩ := List.nodup_cons.mp hn
    rw [List.foldl_cons, ih hn]
    by_cases h : d = e
    · subst h
      simp [he]
    · simp [h, die_modDie_ne _ _ h]

/-- A fold whose every member leaves the start as it is. -/
theorem foldl_eq_self {α β : Type} {f : β → α → β} {z : β} {as : List α} (h : ∀ a ∈ as, f z a = z) : as.foldl f z = z := by
  induction as with
  | nil => rfl
  | cons a as ih =>
    rw [List.foldl_cons, h a (by simp), ih fun b hb => h b (by simp [hb])]

/-- A cached entry is dropped where it covers one of the pages (R104). -/
def covered (r : Nat × Nat) (e : Nat × Tlb) : Bool :=
  if e.2.big then decide (e.1 < r.1 + r.2) && decide (r.1 < e.1 + 32) else decide (r.1 ≤ e.1) && decide (e.1 < r.1 + r.2)

theorem tlb_dropCached (r : Nat × Nat) (s : State) {d : Nat} (h : d < 4) :
    (State.die (dropCached r s) d).tlb = (State.die s d).tlb.filter fun e => !covered r e := by
  unfold dropCached
  rw [die_foldl_modDie _ List.nodup_range, if_pos (List.mem_range.mpr h)]
  refine congrArg (List.filter · _) (funext fun e => ?_)
  unfold covered
  split <;> rfl

theorem hold_dropCached (r : Nat × Nat) (s : State) {d : Nat} (h : d < 4) :
    (State.die (dropCached r s) d).hold = (State.die s d).hold := by
  unfold dropCached
  rw [die_foldl_modDie _ List.nodup_range, if_pos (List.mem_range.mpr h)]

/-- Every due walk has ended and no request is held: the invalidation that runs completes, its cached entries dropped (R104). -/
theorem exec_mtinvComplete {s : State} (hgo : s.hub.mtinv.getLsbD 0 = true)
    (hd : ∀ d < 4, (∀ w ∈ (State.die s d).walks, w.due = false) ∧ (State.die s d).hold = []) :
    exec .mtinvComplete s = .next (State.modHub (dropCached (mtinvRange s.hub.mtrun) s) fun h =>
      { h with mtinv := h.mtinv &&& ~~~1#64 }) := by
  have hwalks : (List.range 4).any (fun d => (State.die s d).walks.any fun w => w.due) = false := by
    simp only [List.any_eq_false, List.mem_range, Bool.not_eq_true]
    exact fun d hd4 w hw => (hd d hd4).1 w hw
  have hawait (d : Nat) (hd4 : d ∈ List.range 4) :
      heldAwait (dropCached (mtinvRange s.hub.mtrun) s) (mtinvRange s.hub.mtrun) d = [] := by
    rw [List.mem_range] at hd4
    simp [heldAwait, hold_dropCached _ _ hd4, (hd d hd4).2]
  have hwalk : (List.range 4).foldl (fun t d => (heldAwait t (mtinvRange s.hub.mtrun) d).foldl (walkAgain d) t)
      (dropCached (mtinvRange s.hub.mtrun) s) = dropCached (mtinvRange s.hub.mtrun) s :=
    foldl_eq_self fun d hd4 => by rw [hawait d hd4]; rfl
  have hall : (List.range 4).all (fun d =>
      (heldAwait (dropCached (mtinvRange s.hub.mtrun) s) (mtinvRange s.hub.mtrun) d).isEmpty) = true :=
    List.all_eq_true.mpr fun d hd4 => by rw [hawait d hd4]; rfl
  have he : exec .mtinvComplete s = execMtinvComplete s := rfl
  rw [he]
  unfold execMtinvComplete mtinvFree
  simp only [hgo, Bool.not_true, Bool.false_or, hwalks, Bool.false_eq_true, if_false, hwalk, hall, if_true]

/-- What an invalidation that completes leaves: GO is clear, and no cached entry covers a page of its range (R98, R104). -/
theorem exec_mtinvComplete_clears {s : State} (hgo : s.hub.mtinv.getLsbD 0 = true)
    (hd : ∀ d < 4, (∀ w ∈ (State.die s d).walks, w.due = false) ∧ (State.die s d).hold = []) :
    ∃ t, exec .mtinvComplete s = .next t ∧ t.hub.mtinv = s.hub.mtinv &&& ~~~1#64 ∧ t.dram = s.dram
      ∧ ∀ d < 4, ∀ e ∈ (State.die t d).tlb, e ∈ (State.die s d).tlb ∧ covered (mtinvRange s.hub.mtrun) e = false := by
  refine ⟨_, exec_mtinvComplete hgo hd, rfl, rfl, fun d hd4 e he => ?_⟩
  have hmem : e ∈ (State.die (dropCached (mtinvRange s.hub.mtrun) s) d).tlb := he
  rw [tlb_dropCached _ _ hd4, List.mem_filter] at hmem
  simpa using hmem

/-- An entry that covers no page of a range lies behind or before it. -/
theorem covered_eq_false {p n : Nat} {e : Nat × Tlb} (h : covered (p, n) e = false) :
    p + n ≤ e.1 ∨ e.1 + (if e.2.big then 32 else 1) ≤ p := by
  cases hb : e.2.big <;> simp [covered, hb] at h ⊢ <;> omega

/-! ## The page table's place -/

/-- Of two states the chip page table has the same words, found at the same places. -/
structure SameTable (s t : State) : Prop where
  dram : t.dram = s.dram
  base : ∀ d, (State.die t d).cptbase = (State.die s d).cptbase

theorem SameTable.trans {s t u : State} (h : SameTable s t) (g : SameTable t u) : SameTable s u :=
  ⟨g.dram.trans h.dram, fun d => (g.base d).trans (h.base d)⟩

theorem SameTable.foldl {α : Type} {f : State → α → State} (h : ∀ s a, SameTable s (f s a)) (as : List α) (s : State) :
    SameTable s (as.foldl f s) := by
  induction as generalizing s with
  | nil => exact ⟨rfl, fun _ => rfl⟩
  | cons a as ih => exact (h s a).trans (ih _)

theorem sameTable_chargeLine (u : Nat) (s : State) : SameTable s (chargeLine u s) :=
  ⟨rfl, fun d => by unfold chargeLine; rw [die_chargeDie]⟩

theorem sameTable_countUe (u n : Nat) (s : State) : SameTable s (countUe u n s) := by
  unfold countUe
  split <;> exact ⟨rfl, fun _ => rfl⟩

theorem sameTable_senseDram (lo n : Nat) (s : State) : SameTable s (senseDram lo n s) := by
  refine SameTable.foldl (fun s e => ?_) _ s
  split
  · exact ⟨(sameTable_countUe _ _ _).dram, (sameTable_countUe _ _ _).base⟩
  · exact ⟨rfl, fun _ => rfl⟩

/-- Firmware's reading of the table leaves its words as they are (R118). -/
theorem sameTable_readCover (page : Nat) (s : State) : SameTable s (readCover page s) :=
  SameTable.foldl (fun _ _ => ((sameTable_chargeLine _ _).trans (sameTable_countUe _ _ _)).trans (sameTable_senseDram _ _ _)) _ s

theorem sameTable_note (m : Move) (n : Nat) (s : State) : SameTable s (Move.note m n s) := by
  unfold Move.note
  split <;> exact ⟨rfl, fun _ => rfl⟩

theorem SameTable.dword {s t : State} (h : SameTable s t) (k : Nat) : State.dword t k = State.dword s k := by
  simp only [State.dword, h.dram]

theorem SameTable.coverKey {s t : State} (h : SameTable s t) (page : Nat) : coverKey t page = coverKey s page := by
  simp only [Machine.coverKey, regionKey, h.base, h.dword]
  rfl

/-- An entry reads back as firmware wrote it. -/
theorem dword_setDword {s : State} {k x : Nat} (h : x < 2 ^ 64) : State.dword (State.setDword s k x) k = x := by
  have e := Memory.bytes_store s.dram k (natLe 8 x)
  rw [natLe_length] at e
  show leNat (Memory.bytes (Memory.store s.dram k (natLe 8 x)) k 8) = x
  rw [e, leNat_natLe, Nat.mod_eq_of_lt (by omega)]

/-- The scan ages every mapped page, and has every cached entry dropped (R101, R110). -/
theorem exec_accessBitScan {s : State} (h : s.hub.mtinv.getLsbD 0 = false) :
    exec .accessBitScan s = .next (beginMtinv 2 (s.fw.pages.foldl agePage s)) := by
  show execAccessBitScan s = _
  simp only [execAccessBitScan, mtinvFree, h, Bool.not_false, Bool.not_true, Bool.false_eq_true, if_false]

/-- A page whose entry is PRESENT and readable gets its new AGE, and A clear. -/
theorem agePage_present {s t : State} {page : Nat} (r : PageRec) (ht : t = readCover page s)
    (he : State.dword t (coverKey t page).1 % 8 = 1) (hb : entryBad t (coverKey t page).1 = false) :
    agePage s (page, r) = putEntry (coverKey t page).1 (withAge (State.dword t (coverKey t page).1)
      (if (State.dword t (coverKey t page).1).testBit 3 then 0 else Nat.min (ageOf (State.dword t (coverKey t page).1) + 1) 255)) t := by
  subst ht
  unfold agePage
  dsimp only
  rw [if_pos ⟨he, hb⟩]

/-! ## Moves (R114) -/

theorem addMove_moves (m : Move) (s : State) : (addMove m s).fw.moves = s.fw.moves ++ [m] := rfl
theorem addMove_dram (m : Move) (s : State) : (addMove m s).dram = s.dram := rfl
theorem useFrames_moves (u f : Nat) (big : Bool) (s : State) : (useFrames u f big s).fw.moves = s.fw.moves := rfl
theorem useFrames_dram (u f : Nat) (big : Bool) (s : State) : (useFrames u f big s).dram = s.dram := rfl

/-- The first step of a move of a page that is PRESENT (R114 step 1). -/
theorem Move.next_first {m : Move} {s : State} (h0 : m.step = 0) (hp : State.dword s (coverKey s m.page).1 % 8 = 1) :
    Move.next m s = setMove { m with old := pageEntry (readCover m.page s) m.page, step := 1 }
      (setPageEntry (Move.note m 1 (readCover m.page s)) m.page 4) := by
  have hc := sameTable_readCover m.page s
  have he : pageEntry (readCover m.page s) m.page % 8 = 1 := by
    rw [pageEntry, hc.coverKey, hc.dword]
    exact hp
  unfold Move.next
  simp only [h0, he, bne_self_eq_false, Bool.false_eq_true, if_false]

/-- It marks the page's entry MIGRATING. -/
theorem dword_next_first {m : Move} {s : State} (h0 : m.step = 0) (hp : State.dword s (coverKey s m.page).1 % 8 = 1) :
    State.dword (Move.next m s) (coverKey s m.page).1 = 4 := by
  have hk : Machine.coverKey (Move.note m 1 (readCover m.page s)) m.page = coverKey s m.page :=
    ((sameTable_readCover m.page s).trans (sameTable_note _ _ _)).coverKey m.page
  rw [Move.next_first h0 hp]
  show State.dword (setPageEntry (Move.note m 1 (readCover m.page s)) m.page 4) (coverKey s m.page).1 = 4
  unfold setPageEntry putEntry
  rw [hk]
  exact dword_setDword (by decide)

theorem exec_pageMove_next {s : State} {page u : Nat} {m : Move} (hu : u < 24) (hm : moveOf s page = some m) :
    exec (.pageMove page u) s = .next (Move.next m s) := by
  show execPageMove page u s = _
  simp [execPageMove, Nat.not_le.mpr hu, hm]

/-- Firmware decides to move a page that is PRESENT and that no saved TLD uses, where the unit has a free frame (log 49). -/
theorem exec_pageMove_decides {s : State} {page u f : Nat} {r : PageRec} (hu : u < 24) (hm : moveOf s page = none)
    (hr : Table.find page s.fw.pages = some r) (hp : State.dword s (coverKey s page).1 % 8 = 1)
    (hs : inSavedTld s page (pageSpan (coverKey s page).2) = false) (hf : freeFrame s (coverKey s page).2 u = some f) :
    ∃ aside, exec (.pageMove page u) s = .next (addMove ⟨page, State.dword s (coverKey s page).1, (coverKey s page).2,
      .frame u f aside, 0⟩ (useFrames u f (coverKey s page).2 (State.draw s).2)) := by
  refine ⟨decide (8 ≤ u) && (State.draw s).1 % 2 == 1, ?_⟩
  show execPageMove page u s = _
  simp [execPageMove, Nat.not_le.mpr hu, hm, hr, hp, hs, hf]

/-! ## Fault records served, regeneration (R107, R111, R427) -/

section
variable {s : State}

/-- Completions are not held, or the queues are being drained again: firmware serves. -/
theorem serves (h : s.hub.schedstat.getLsbD 2 = false ∨ s.fw.draining = true) : (Hub.onHold s.hub && !s.fw.draining) = false := by
  unfold Hub.onHold
  rcases h with h | h <;> rw [h] <;> simp

theorem exec_faultRecordServe_settle {uid : Nat} (hs : s.hub.schedstat.getLsbD 2 = false ∨ s.fw.draining = true)
    (ht : toSettle s = some uid) : exec .faultRecordServe s = .next (settleRecord uid s) := by
  show execFaultRecordServe s = _
  simp only [execFaultRecordServe, serves hs, ht, Bool.false_eq_true, if_false]

section
variable {d : Nat} {r : FaultRec} {t : State} (hs : s.hub.schedstat.getLsbD 2 = false ∨ s.fw.draining = true)
  (ht : toSettle s = none) (hp : s.fw.parked = []) (hd : nextFaultDie s = some d)
  (hr : Table.find (State.die s d).fqTail (State.die s d).fq = some r)
include hs ht hp hd hr

/-- With nothing to settle and nothing set aside, firmware takes the oldest record of the next die (R107). -/
theorem exec_faultRecordServe_done (h : serveRecord d r (takeRecord d (journal (.served d r.seq) s)) = .done t) :
    exec .faultRecordServe s = .next t := by
  show execFaultRecordServe s = _
  simp only [execFaultRecordServe, serves hs, ht, hp, serveParked, hd, hr, Bool.false_eq_true, if_false, h]

/-- A record whose service is begun is set aside until it ends. -/
theorem exec_faultRecordServe_work (h : serveRecord d r (takeRecord d (journal (.served d r.seq) s)) = .work t) :
    exec .faultRecordServe s = .next (State.modFw t fun f => { f with parked := f.parked ++ [(d, r)] }) := by
  show execFaultRecordServe s = _
  simp only [execFaultRecordServe, serves hs, ht, hp, serveParked, hd, hr, Bool.false_eq_true, if_false, h]

end

theorem exec_faultRecordServe_held (hs : s.hub.schedstat.getLsbD 2 = true) (hd : s.fw.draining = false) :
    exec .faultRecordServe s = .next s := by
  show execFaultRecordServe s = _
  simp [execFaultRecordServe, Hub.onHold, hs, hd]

end

/-! ## Queues of frames and of records (R98, R107) -/

/-- FFADD keeps its field and appends the frame, where the queue has room. -/
theorem exec_ffaddWrite {u : Nat} (hu : u < 24) (v : Word) (s : State) :
    exec (.ffaddWrite u v) s = .next (State.modUnit s u fun x => if 64 ≤ x.ffq.length then x else
      { x with ffadd := BitVec.ofNat 22 v.toNat, ffq := x.ffq ++ [v.toNat % 2 ^ 22] }) := by
  have hf : BitVec.ofNat 22 (v.toNat % 2 ^ 22) = BitVec.ofNat 22 v.toNat := BitVec.eq_of_toNat_eq (Nat.mod_mod _ _)
  show execFfaddWrite u v s = _
  simp only [execFfaddWrite, Nat.not_le.mpr hu, if_false, hf]

/-- FQTAIL frees the positions before it. -/
theorem exec_fqtailWrite {d : Nat} (hd : d < 4) (v : Word) (s : State) :
    exec (.fqtailWrite d v) s = .next (State.modDie s d fun x =>
      { x with fq := x.fq.filter fun e => !decide ((e.1 + 2048 - x.fqTail) % 2048 < (v.toNat % 2048 + 2048 - x.fqTail) % 2048)
               fqTail := v.toNat % 2048 }) := by
  show execFqtailWrite d v s = _
  simp only [execFqtailWrite, Nat.not_le.mpr hd, if_false]

/-- Settles O49: each register, and each step of firmware, is read off its equation. -/
theorem pageServices : Obligations.PageServices := by
  unfold Obligations.PageServices
  refine ⟨?_, ?_, ?_, ?_, ?_, ?_, ?_, ?_, ?_, ?_, fun s page u m hu hm => exec_pageMove_next hu hm,
    fun s m h0 hp => dword_next_first h0 hp, ?_, fun s uid hs ht => exec_faultRecordServe_settle hs ht, ?_,
    fun s hs hd => exec_faultRecordServe_held hs hd, ?_⟩
  case _ =>
    intro s v hgo
    cases hv : v.getLsbD 0 with
    | true =>
      refine ⟨_, exec_mtinvGo_starts hgo hv, ?_⟩
      rw [beginMtinv_frame]
      exact ⟨and_mtinvFields_or_one hv, rfl, rfl, fun h => nomatch h⟩
    | false => exact ⟨_, exec_mtinvGo_sets hgo hv, and_mtinvFields hv, rfl, rfl, fun _ => rfl⟩
  case _ =>
    intro s v hgo
    exact ⟨_, exec_mtinvGo_running v hgo, rfl, rfl, rfl, rfl⟩
  case _ =>
    intro s hgo hall hd
    have hr := mtinvRange_all hall
    obtain ⟨t, he, hm, hdram, htlb⟩ := exec_mtinvComplete_clears hgo hd
    refine ⟨t, he, hm, hdram, fun d hd4 e hmem => ?_⟩
    have hc := covered_eq_false (hr ▸ (htlb d hd4 e hmem).2)
    split at hc <;> omega
  case _ =>
    intro s p n hgo hall hp hn hd
    have hr : mtinvRange s.hub.mtrun = (p, n) := by rw [mtinvRange_pages hall, hp, hn]
    obtain ⟨t, he, hm, hdram, htlb⟩ := exec_mtinvComplete_clears hgo hd
    exact ⟨t, he, hm, hdram, fun d hd4 e hmem => ⟨(htlb d hd4 e hmem).1, covered_eq_false (hr ▸ (htlb d hd4 e hmem).2)⟩⟩
  case _ =>
    intro s d h _ hw hh
    obtain ⟨z, hz⟩ := beginWalk_eq d (h.line / 512) (h.kind == .write) s
    have he : walkAgain d s h = State.modDie (beginWalk d (h.line / 512) (h.kind == .write) s) d fun x =>
        { x with hold := x.hold.map fun q => if q == h then { q with again := true } else q } := by
      simp [walkAgain, walking, hw]
    rw [he, hz]
    simp [hw, hh]
  case _ =>
    intro s u v hu
    refine ⟨_, exec_ffaddWrite hu v s, rfl, rfl, ?_, ?_⟩
    · rw [unit_modUnit]
      split <;> rfl
    · rw [unit_modUnit]
      split <;> rfl
  case _ =>
    intro s d v hd
    refine ⟨_, exec_fqtailWrite hd v s, ?_, ?_, fun e he => ?_, rfl⟩
    · rw [die_modDie]
    · rw [die_modDie]
    · rw [die_modDie] at he
      exact (List.mem_filter.mp he).1
  case _ =>
    intro s hp hm
    rw [exec_accessBitScan hm, hp]
    rfl
  case _ =>
    intro s t page r hp hm ht he hb
    rw [exec_accessBitScan hm, hp, List.foldl_cons, List.foldl_nil, agePage_present r ht he hb]
    rfl
  case _ =>
    intro s page u f r hu hm hr hp hs hf
    obtain ⟨aside, he⟩ := exec_pageMove_decides hu hm hr hp hs hf
    refine ⟨_, ⟨page, State.dword s (coverKey s page).1, (coverKey s page).2, .frame u f aside, 0⟩, he,
      (addMove_moves _ _).trans ?_, rfl, rfl, ⟨aside, rfl⟩, ?_⟩
    · rw [useFrames_moves]
      rfl
    · rw [addMove_dram, useFrames_dram]
      rfl
  case _ =>
    intro s m h2 hi
    simp [Move.next, h2, hi]
  case _ =>
    intro s d r hs ht hp hd hr
    exact ⟨fun t => exec_faultRecordServe_done hs ht hp hd hr, fun t => exec_faultRecordServe_work hs ht hp hd hr⟩
  case _ =>
    intro s g hg
    have he : exec (.regenComplete g.page) s = execRegenComplete g.page s := rfl
    have hf : s.fw.regens.find? (fun x => x.page == g.page) = some g := by simp [hg]
    rw [he]
    unfold execRegenComplete
    simp only [hf]
    refine ⟨fun h => ?_, fun h => ?_, fun h hn => ?_, fun b h hb hi => ?_, fun h hm => ?_⟩
    · simp only [h]
    · simp only [h]
    · simp [h, hn]
    · simp [h, hb, hi]
    · have hfree : mtinvFree s = true := by rw [mtinvFree, hm]; rfl
      simp [h, hfree]

end Sys2Proof.Machine

namespace Sys2Proof.Machine

/-! # Loads, launches, waits and resets by firmware (spec/19_firmware_host_fabric.md R464, R466, R468, R469) -/

/-! ## Replies kept with a session (R463, R466) -/

/-- An answer changes what has been sent and what firmware keeps. -/
theorem answer_frame (r : Reply) (s : State) : answer r s = { s with outbox := (answer r s).outbox, fw := (answer r s).fw } := by
  unfold answer
  dsimp only
  split
  · rfl
  · rw [sendReply_eq]
    rfl

/-- It leaves the link as it is. -/
theorem answer_linkUp (r : Reply) (s : State) : (answer r s).fw.linkUp = s.fw.linkUp := by
  unfold answer
  dsimp only
  split
  · rfl
  · rw [sendReply_eq]
    rfl

/-- What a reply adds to the frames sent depends on the pauses and the applied blob alone. -/
theorem sendReply_outbox_congr {r : Reply} {s t : State} (ho : t.outbox = s.outbox) (hp : t.fw.pause = s.fw.pause)
    (hb : t.fw.blob = s.fw.blob) : (sendReply r t).outbox = (sendReply r s).outbox := by
  unfold sendReply sendFrame messageMtu
  rw [hp, hb]
  split
  · exact ho
  · simp only [State.send, ho]

section
variable {r : Reply} {s : State} (h : Hub.onHold s.hub = false)
include h

/-- While completions are not held, an answer is the reply that leaves, kept with its session. -/
theorem answer_free : answer r s = State.modFw (sendReply r (executed r.session r.msgnum s)) fun f =>
    { f with sessions := Table.alter r.session (keepReply r) f.sessions } := by
  simp [answer, h]

theorem answer_outbox : (answer r s).outbox = (sendReply r s).outbox := by
  rw [answer_free h]
  exact sendReply_outbox_congr (s := s) (t := executed r.session r.msgnum s) rfl rfl rfl

theorem find_answer {x : Session} (hx : Table.find r.session s.fw.sessions = some x) :
    Table.find r.session (answer r s).fw.sessions = some (keepReply r { x with last := Nat.max x.last r.msgnum }) := by
  rw [answer_free h, sendReply_eq]
  exact Table.find_alter (Table.find_alter hx)

end

/-! ## Commands on one context, or on none -/

/-- The one context that a command acts on is free. -/
theorem turn_of_free {s : State} {ctx : Nat} (h : CtxFree s ctx) : ∀ k, some ctx = some k → CtxFree s k := by
  rintro k ⟨⟩
  exact h

/-- A command that acts on no context has its turn. -/
theorem turn_of_none {s : State} : ∀ k, (none : Option Nat) = some k → CtxFree s k := fun _ e => nomatch e

section
variable {h : MsgHead} {s s1 : State} {x : Session} {ctx : Nat}

/-! ## LOAD (R464) -/

theorem exec_loadRoute (c : Commands h .auth s x) (hl : liveCtx s ctx = true) (hf : CtxFree s ctx)
    (hr : ctxResident (begun h (some ctx) s) ctx = false) {k : Nat} (hk : k < 16) (v : Dword) :
    exec (.loadRoute h ctx k v) s = .next (followView ctx (some ⟨6, h.session, h.msgnum, 0, .none, h.src⟩)
      (setStage h 2 (State.modCtx (begun h (some ctx) s) ctx fun c =>
        { c with routes := Table.set k (v &&& 0x100FF03FF#64) c.routes }))) := by
  have hl' : liveCtx (begun h (some ctx) s) ctx = true := hl
  show execLoadRoute h ctx k v s = _
  unfold execLoadRoute
  refine command_views (d := { status := stOk, view := some ctx, s := State.modCtx (begun h (some ctx) s) ctx fun c =>
    { c with routes := Table.set k (maskBits routeMask v) c.routes } }) c ?_ ?_ rfl rfl rfl
  · exact turn_of_free hf
  · simp [commandCtx, hl', hr, Nat.not_le.mpr hk]

theorem exec_loadSavepool (c : Commands h .auth s x) (hl : liveCtx s ctx = true) (hf : CtxFree s ctx)
    (hr : ctxResident (begun h (some ctx) s) ctx = false) (base size : Dword) :
    exec (.loadSavepool h ctx base size) s = .next (replied 6 h 0 .none (State.modCtx (begun h (some ctx) s) ctx fun c =>
      { c with svbase := base &&& 0xFF07FFFFFF0000#64, svsize := size &&& 0xFFFFFF#64 })) := by
  have hl' : liveCtx (begun h (some ctx) s) ctx = true := hl
  show execLoadSavepool h ctx base size s = _
  unfold execLoadSavepool
  refine command_answers (d := { status := stOk, s := State.modCtx (begun h (some ctx) s) ctx fun c =>
    { c with svbase := maskBits svbaseMask base, svsize := maskBits svsizeMask size } }) c ?_ ?_ rfl rfl rfl
  · exact turn_of_free hf
  · simp [commandCtx, hl', hr]

/-! ## REGEN_REGISTER and LAUNCH (R111, R387, R464) -/

section
variable {image : Nat} {arg : Dword} (c : Commands h .auth s x) (h0 : ctx ≠ 0) (hl : liveCtx s ctx = true) (hf : CtxFree s ctx)
  (hi : image % 128 = 0)
include c h0 hl hf hi

theorem exec_regenRegister_busy (hr : readSpan ctx permRd image 8 (begun h (some ctx) s) = (.busy, s1)) :
    exec (.regenRegister h ctx image arg) s = .next (retry (.regenRegister h ctx image arg) s1) := by
  have hl' : liveCtx (begun h (some ctx) s) ctx = true := hl
  show execRegenRegister h ctx image arg s = _
  unfold execRegenRegister
  refine command_waits (d := waitIn s1) c ?_ ?_ rfl
  · exact turn_of_free hf
  · simp [commandCtx, h0, hl', hi, hr]

variable {bs : List Byte} (hr : readSpan ctx permRd image 8 (begun h (some ctx) s) = (.ok bs, s1))
include hr

/-- An image without FLAGS bit 0 is no regeneration kernel (R111). -/
theorem exec_regenRegister_refused (hb : (fieldAt bs 6 2).testBit 0 = false) :
    exec (.regenRegister h ctx image arg) s = .next (replied 7 h 2 .none s1) := by
  have hl' : liveCtx (begun h (some ctx) s) ctx = true := hl
  show execRegenRegister h ctx image arg s = _
  unfold execRegenRegister
  refine command_answers (d := refuseWith stBadCmd s1) c ?_ ?_ rfl rfl rfl
  · exact turn_of_free hf
  · simp [commandCtx, h0, hl', hi, hr, hb]

theorem exec_regenRegister_taken {n : Nat} (hb : (fieldAt bs 6 2).testBit 0 = true)
    (hn : (List.range 4096).find? (fun n => (Table.find n s1.fw.kernels).isNone) = some n) :
    exec (.regenRegister h ctx image arg) s = .next (replied 7 h 0 (.rgk n)
      (State.modFw ((giveStaging ctx s1).getD s1) fun f => { f with kernels := Table.set n ⟨ctx, image, arg⟩ f.kernels })) := by
  have hl' : liveCtx (begun h (some ctx) s) ctx = true := hl
  show execRegenRegister h ctx image arg s = _
  unfold execRegenRegister
  refine command_answers (d := { status := stOk, payload := .rgk n, s := State.modFw ((giveStaging ctx s1).getD s1) fun f =>
    { f with kernels := Table.set n ⟨ctx, image, arg⟩ f.kernels } }) c ?_ ?_ rfl rfl rfl
  · exact turn_of_free hf
  · simp [commandCtx, h0, hl', hi, hr, hb, hn]

end

/-- A grid and a regeneration kernel belong to a context other than 0 (R472). -/
theorem exec_hostLaunch_ctx0 (c : Commands h .auth s x) (hf : CtxFree s 0) (q : Nat) (d : List Byte) :
    exec (.hostLaunch h 0 q d) s = .next (replied 8 h 2 .none (begun h (some 0) s)) := by
  show execHostLaunch h 0 q d s = _
  unfold execHostLaunch
  refine command_answers (d := refuseWith stBadCmd (begun h (some 0) s)) c ?_ ?_ rfl rfl rfl
  · exact turn_of_free hf
  · simp [commandCtx]

theorem exec_regenRegister_ctx0 (c : Commands h .auth s x) (hf : CtxFree s 0) (image : Nat) (arg : Dword) :
    exec (.regenRegister h 0 image arg) s = .next (replied 7 h 2 .none (begun h (some 0) s)) := by
  show execRegenRegister h 0 image arg s = _
  unfold execRegenRegister
  refine command_answers (d := refuseWith stBadCmd (begun h (some 0) s)) c ?_ ?_ rfl rfl rfl
  · exact turn_of_free hf
  · simp [commandCtx]

section
variable {q : Nat} {d : List Byte} (c : Commands h .auth s x) (hx : (Table.find ctx s.ctxs).isSome) (h0 : ctx ≠ 0)
  (hf : CtxFree s ctx) (hq : q ≤ 7) (hd : d.length = 128) (hs : (State.ctx s ctx).stopped = false) (hn : s.fw.noLaunch = false)
include c hx h0 hf hq hd hs hn

theorem exec_hostLaunch_full (hl : 256 ≤ (Table.get [] q s.hub.queues).length) :
    exec (.hostLaunch h ctx q d) s = .next (replied 8 h 6 .none (begun h (some ctx) s)) := by
  have hn' : (begun h (some ctx) s).fw.noLaunch = false := hn
  have hl' : 256 ≤ (Table.get [] q (begun h (some ctx) s).hub.queues).length := hl
  show execHostLaunch h ctx q d s = _
  unfold execHostLaunch
  refine command_answers (d := refuseWith stNoRes (begun h (some ctx) s)) c ?_ ?_ rfl rfl rfl
  · exact turn_of_free hf
  · simp [commandCtx, Option.isSome_iff_ne_none.mp hx, h0, Nat.not_lt.mpr hq, hd, hs, hn', hl']

variable (hl : (Table.get [] q s.hub.queues).length < 256)
include hl

theorem exec_hostLaunch_queued (hg : launchGrid ctx q d none (begun h (some ctx) s) = .done s1) :
    exec (.hostLaunch h ctx q d) s = .next (replied 8 h 0 .none
      (Try.state (launchGrid ctx q d none (journal (.queued ctx (parseDesc d).gridid q) (begun h (some ctx) s))))) := by
  have hn' : (begun h (some ctx) s).fw.noLaunch = false := hn
  have hl' : ¬256 ≤ (Table.get [] q (begun h (some ctx) s).hub.queues).length := Nat.not_le.mpr hl
  show execHostLaunch h ctx q d s = _
  unfold execHostLaunch
  refine command_answers (d := { status := stOk, s := Try.state (launchGrid ctx q d none
    (journal (.queued ctx (parseDesc d).gridid q) (begun h (some ctx) s))) }) c ?_ ?_ rfl rfl rfl
  · exact turn_of_free hf
  · simp [commandCtx, Option.isSome_iff_ne_none.mp hx, h0, Nat.not_lt.mpr hq, hd, hs, hn', hl', hg]

theorem exec_hostLaunch_busy (hg : launchGrid ctx q d none (begun h (some ctx) s) = .busy s1) :
    exec (.hostLaunch h ctx q d) s = .next (retry (.hostLaunch h ctx q d) s1) := by
  have hn' : (begun h (some ctx) s).fw.noLaunch = false := hn
  have hl' : ¬256 ≤ (Table.get [] q (begun h (some ctx) s).hub.queues).length := Nat.not_le.mpr hl
  show execHostLaunch h ctx q d s = _
  unfold execHostLaunch
  refine command_waits (d := waitIn s1) c ?_ ?_ rfl
  · exact turn_of_free hf
  · simp [commandCtx, Option.isSome_iff_ne_none.mp hx, h0, Nat.not_lt.mpr hq, hd, hs, hn', hl', hg]

end

/-! ## WAIT (R466) -/

/-- A session holds one more wait. -/
def holdWait (n : Nat) (w : HeldWait) (s : State) : State :=
  State.modFw s fun f => { f with sessions := Table.alter n (fun x => { x with waits := x.waits ++ [w] }) f.sessions }

/-- It holds the wait of a message no longer. -/
def dropWait (n m : Nat) (s : State) : State :=
  State.modFw s fun f =>
    { f with sessions := Table.alter n (fun x => { x with waits := x.waits.filter fun w => w.msgnum != m }) f.sessions }

@[simp] theorem executed_outbox (n m : Nat) (s : State) : (executed n m s).outbox = s.outbox := rfl
@[simp] theorem executed_grids (n m : Nat) (s : State) : (executed n m s).grids = s.grids := rfl
@[simp] theorem holdWait_outbox (n : Nat) (w : HeldWait) (s : State) : (holdWait n w s).outbox = s.outbox := rfl
@[simp] theorem holdWait_grids (n : Nat) (w : HeldWait) (s : State) : (holdWait n w s).grids = s.grids := rfl

section
variable {s : State} {n : Nat} {x : Session} (hx : Table.find n s.fw.sessions = some x)
include hx

theorem find_executed (m : Nat) :
    Table.find n (executed n m s).fw.sessions = some { x with last := Nat.max x.last m } := Table.find_alter hx

theorem find_holdWait (w : HeldWait) :
    Table.find n (holdWait n w s).fw.sessions = some { x with waits := x.waits ++ [w] } := Table.find_alter hx

theorem find_dropWait (m : Nat) : Table.find n (dropWait n m s).fw.sessions
    = some { x with waits := x.waits.filter fun w => w.msgnum != m } := Table.find_alter hx

end

section
variable {gridid limit : Nat} (c : Commands h .auth s x) (hx : (Table.find ctx s.ctxs).isSome)
include c hx

theorem exec_hostWait_stopped (hs : (State.ctx s ctx).stopped = true) :
    exec (.hostWait h ctx gridid limit) s = .next (replied 9 h 8 .none (begun h none s)) := by
  show execHostWait h ctx gridid limit s = _
  unfold execHostWait
  refine command_answers (d := refuseWith stStopped (begun h none s)) c ?_ ?_ rfl rfl rfl
  · exact turn_of_none
  · simp [commandCtx, Option.isSome_iff_ne_none.mp hx, hs]

variable (hs : (State.ctx s ctx).stopped = false)
include hs

/-- The wait for a grid that is queued or running is held with its session. -/
theorem exec_hostWait_held (hg : (gridNamed s ctx gridid).isSome) (hw : x.waits.length < 8) :
    ∃ t, exec (.hostWait h ctx gridid limit) s = .next t ∧ t.outbox = s.outbox ∧ t.grids = s.grids
      ∧ ∃ y, Table.find h.session t.fw.sessions = some y ∧ y.last = h.msgnum
        ∧ y.waits = x.waits ++ [⟨h.msgnum, ctx, gridid, if limit = 0 then none else some (limit * 1000000), h.src⟩] := by
  have hg' : (gridNamed (begun h none s) ctx gridid).isSome := hg
  generalize hwd : HeldWait.mk h.msgnum ctx gridid (if limit = 0 then none else some (limit * 1000000)) h.src = w
  have he : exec (.hostWait h ctx gridid limit) s
      = .next (executed h.session h.msgnum (holdWait h.session w (begun h none s))) := by
    show execHostWait h ctx gridid limit s = _
    unfold execHostWait
    refine command_later (d := { status := stOk, later := true, s := holdWait h.session w (begun h none s) }) c ?_ ?_ rfl rfl
    · exact turn_of_none
    · simp [commandCtx, Option.isSome_iff_ne_none.mp hx, hs, hg', begun_session c.found, Nat.not_le.mpr hw, holdWait, ← hwd]
  have hy := find_executed (find_holdWait (begun_session (k := none) c.found) w) h.msgnum
  have hlast : Nat.max x.last h.msgnum = h.msgnum := by
    rw [c.inTurn]
    exact Nat.max_eq_right (Nat.le_succ _)
  exact ⟨_, he, by simp, by simp, _, hy, hlast, rfl⟩

variable (hg : gridNamed s ctx gridid = none)
include hg

theorem exec_hostWait_record {r : Completion} (hr : (State.ctx s ctx).done.find? (fun c => c.gridid == gridid) = some r) :
    exec (.hostWait h ctx gridid limit) s = .next (replied 9 h 0 (.record r) (begun h none s)) := by
  have hg' : gridNamed (begun h none s) ctx gridid = none := hg
  show execHostWait h ctx gridid limit s = _
  unfold execHostWait
  refine command_answers (d := { status := stOk, payload := .record r, s := begun h none s }) c ?_ ?_ rfl rfl rfl
  · exact turn_of_none
  · simp [commandCtx, Option.isSome_iff_ne_none.mp hx, hs, hg', hr]

theorem exec_hostWait_unknown (hr : (State.ctx s ctx).done.find? (fun c => c.gridid == gridid) = none) :
    exec (.hostWait h ctx gridid limit) s = .next (replied 9 h 2 .none (begun h none s)) := by
  have hg' : gridNamed (begun h none s) ctx gridid = none := hg
  show execHostWait h ctx gridid limit s = _
  unfold execHostWait
  refine command_answers (d := refuseWith stBadCmd (begun h none s)) c ?_ ?_ rfl rfl rfl
  · exact turn_of_none
  · simp [commandCtx, Option.isSome_iff_ne_none.mp hx, hs, hg', hr]

end

/-! ## POWER_GROUP and RESET_UNIT (R468, R469) -/

theorem exec_powerGroup (c : Commands h .auth s x) {id stag gslew members : Nat} (en : Bool) (hid : id < 1024) (hst : stag < 16)
    (hgs : gslew < 65536) (hm : members < 2 ^ 1024) :
    exec (.powerGroup h id stag gslew en members) s = .next (replied 11 h 0 .none (State.modHub (begun h none s) fun u =>
      { u with pgcfg := BitVec.ofNat 64 (id + stag * 2 ^ 16 + gslew * 2 ^ 32 + if en && s.fw.pgen then 2 ^ 48 else 0)
               members := BitVec.ofNat 1024 members })) := by
  have hok : ¬(1024 ≤ id ∨ 16 ≤ stag ∨ 65536 ≤ gslew ∨ 2 ^ 1024 ≤ members) := fun hor => by
    rcases hor with h | h | h | h
    · exact absurd hid (Nat.not_lt.mpr h)
    · exact absurd hst (Nat.not_lt.mpr h)
    · exact absurd hgs (Nat.not_lt.mpr h)
    · exact absurd hm (Nat.not_lt.mpr h)
  show execPowerGroup h id stag gslew en members s = _
  unfold execPowerGroup
  refine command_answers (d := { status := stOk, s := State.modHub (begun h none s) fun u =>
    { u with pgcfg := BitVec.ofNat 64 (id + stag * 2 ^ 16 + gslew * 2 ^ 32 + if en && s.fw.pgen then 2 ^ 48 else 0)
             members := BitVec.ofNat 1024 members } }) c ?_ ?_ rfl rfl rfl
  · exact turn_of_none
  · exact if_neg hok

theorem exec_resetUnitMreset (c : Commands h .auth s x) {core u : Nat} (hc : core < 64) (hu : u < 4) :
    exec (.resetUnitMreset h core u) s = .next (replied 12 h 0 .none (resetMx core u (begun h none s))) := by
  show execResetUnitMreset h core u s = _
  unfold execResetUnitMreset
  refine command_answers (d := { status := stOk, s := resetMx core u (begun h none s) }) c ?_ ?_ rfl rfl rfl
  · exact turn_of_none
  · exact if_neg (not_or.mpr ⟨Nat.not_le.mpr hc, Nat.not_le.mpr hu⟩)

theorem exec_resetUnitStopContext (c : Commands h .auth s x) (hx : (Table.find ctx s.ctxs).isSome) (hf : CtxFree s ctx) :
    exec (.resetUnitStopContext h ctx) s = .next (replied 12 h 0 .none (stopTeams ctx (begun h (some ctx) s))) := by
  show execResetUnitStopContext h ctx s = _
  unfold execResetUnitStopContext
  refine command_answers (d := { status := stOk, s := stopTeams ctx (begun h (some ctx) s) }) c ?_ ?_ rfl rfl rfl
  · exact turn_of_free hf
  · simp [commandCtx, Option.isSome_iff_ne_none.mp hx]

/-- The corrected and uncorrected errors counted so far are forgotten. -/
def countsCleared (s : State) : State :=
  { s with
    units := s.units.map fun u => (u.1, { u.2 with memerr := clearCounts u.2.memerr })
    cores := s.cores.map fun c => (c.1, { c.2 with sramerr := clearCounts c.2.sramerr })
    crossings := s.crossings.map fun c => (c.1, { c.2 with rpl := 0 }) }

/-- The port is silent: what was on its way in is lost (R469). -/
def portLost (s : State) : State :=
  State.modFw { s with inbox := s.inbox.filter fun i => !byEthernet i } fun f => { f with linkUp := false, partials := [], paused := [] }

/-- CE and UE of an error register written with 0 read 0. -/
theorem clearCounts_low (r : Dword) : (clearCounts r).toNat % 2 ^ 32 = 0 := by
  unfold clearCounts
  rw [BitVec.toNat_and, Nat.and_mod_two_pow]
  exact Nat.and_zero _

theorem exec_resetUnitClearCounts (c : Commands h .auth s x) :
    ∃ t, exec (.resetUnitClearCounts h) s = .next t ∧ t.dram = s.dram
      ∧ (∀ e ∈ t.units, e.2.memerr.toNat % 2 ^ 32 = 0) ∧ (∀ e ∈ t.cores, e.2.sramerr.toNat % 2 ^ 32 = 0)
      ∧ ∀ e ∈ t.crossings, e.2.rpl = 0 := by
  have he : exec (.resetUnitClearCounts h) s = .next (replied 12 h 0 .none (countsCleared (begun h none s))) := by
    show execResetUnitClearCounts h s = _
    unfold execResetUnitClearCounts
    refine command_answers (d := { status := stOk, s := countsCleared (begun h none s) }) c ?_ ?_ rfl rfl rfl
    · exact turn_of_none
    · rfl
  refine ⟨_, he, ?_⟩
  unfold replied
  rw [answer_frame]
  refine ⟨rfl, fun e he => ?_, fun e he => ?_, fun e he => ?_⟩
  · obtain ⟨u, -, rfl⟩ := List.mem_map.mp he
    exact clearCounts_low _
  · obtain ⟨u, -, rfl⟩ := List.mem_map.mp he
    exact clearCounts_low _
  · obtain ⟨u, -, rfl⟩ := List.mem_map.mp he
    rfl

theorem exec_resetUnitRetrainEthernet (c : Commands h .auth s x) :
    ∃ t, exec (.resetUnitRetrainEthernet h) s = .next t ∧ t.fw.linkUp = false ∧ t.dram = s.dram
      ∧ t.inbox = s.inbox.filter fun i => !byEthernet i := by
  have he : exec (.resetUnitRetrainEthernet h) s = .next (replied 12 h 0 .none (portLost (begun h none s))) := by
    show execResetUnitRetrainEthernet h s = _
    unfold execResetUnitRetrainEthernet
    refine command_answers (d := { status := stOk, s := portLost (begun h none s) }) c ?_ ?_ rfl rfl rfl
    · exact turn_of_none
    · rfl
  refine ⟨_, he, answer_linkUp _ _, ?_⟩
  unfold replied
  rw [answer_frame]
  exact ⟨rfl, rfl⟩

theorem exec_resetUnitRetrainStation (c : Commands h .auth s x) {n : Nat} (hn : n < 24) :
    exec (.resetUnitRetrainStation h n) s = .next (replied 12 h 0 .none
      (retrainStation n ((inFlightBy (begun h none s) n).foldl
        (fun s p => took s (execRemoteResponse p.1 p.2 (.error errNoRoute) s)) (begun h none s)))) := by
  show execResetUnitRetrainStation h n s = _
  unfold execResetUnitRetrainStation
  refine command_answers (d := { status := stOk, s := retrainStation n ((inFlightBy (begun h none s) n).foldl
    (fun s p => took s (execRemoteResponse p.1 p.2 (.error errNoRoute) s)) (begun h none s)) }) c ?_ ?_ rfl rfl rfl
  · exact turn_of_none
  · exact if_neg (Nat.not_le.mpr hn)

end

/-! ## The limit of a WAIT (R466) -/

section
variable {s : State} {n : Nat} {x : Session} {w : HeldWait} (hx : Table.find n s.fw.sessions = some x)
  (hh : Hub.onHold s.hub = false) (hw : x.waits = [w])
include hx hh hw

theorem exec_waitTimeout_early (hl : w.left ≠ some 0) : exec (.waitTimeout n w.msgnum) s = .next s := by
  show execWaitTimeout n w.msgnum s = _
  simp [execWaitTimeout, hx, hh, hw, hl]

theorem exec_waitTimeout_due (hl : w.left = some 0) :
    ∃ t, exec (.waitTimeout n w.msgnum) s = .next t
      ∧ t.outbox = (sendReply ⟨9, n, w.msgnum, 7, .none, w.src⟩ s).outbox
      ∧ ∃ y, Table.find n t.fw.sessions = some y ∧ y.waits = [] := by
  have he : exec (.waitTimeout n w.msgnum) s
      = .next (answer ⟨9, n, w.msgnum, stTimeout, .none, w.src⟩ (dropWait n w.msgnum s)) := by
    show execWaitTimeout n w.msgnum s = _
    simp [execWaitTimeout, hx, hh, hw, hl, dropWait]
  have hy := find_answer (r := ⟨9, n, w.msgnum, stTimeout, .none, w.src⟩) (s := dropWait n w.msgnum s) hh (find_dropWait hx _)
  refine ⟨_, he, ?_, _, hy, ?_⟩
  · have hs : (sendReply ⟨9, n, w.msgnum, stTimeout, .none, w.src⟩ (dropWait n w.msgnum s)).outbox
        = (sendReply ⟨9, n, w.msgnum, 7, .none, w.src⟩ s).outbox := sendReply_outbox_congr rfl rfl rfl
    exact (answer_outbox (s := dropWait n w.msgnum s) hh).trans hs
  · simp [keepReply, hw]

end

/-- Settles O59: each command is run on the state its beginning leaves, and answered. -/
theorem firmwareServices : Obligations.FirmwareServices := by
  unfold Obligations.FirmwareServices
  refine ⟨fun h s x ctx c hl hf hr => ⟨fun k v hk => exec_loadRoute c hl hf hr hk v, exec_loadSavepool c hl hf hr⟩,
    fun h s s1 x ctx image arg c h0 hl hf hi => ⟨exec_regenRegister_busy c h0 hl hf hi, fun bs hr =>
      ⟨exec_regenRegister_refused c h0 hl hf hi hr, fun n => exec_regenRegister_taken c h0 hl hf hi hr⟩⟩,
    fun h s s1 x ctx q d c hx h0 hf hq hd hs hn => ⟨exec_hostLaunch_full c hx h0 hf hq hd hs hn, fun hl =>
      ⟨exec_hostLaunch_queued c hx h0 hf hq hd hs hn hl, exec_hostLaunch_busy c hx h0 hf hq hd hs hn hl⟩⟩,
    fun h s x q image d arg c hf => ⟨exec_hostLaunch_ctx0 c hf q d, exec_regenRegister_ctx0 c hf image arg⟩,
    fun h s x ctx gridid limit c hx => ⟨exec_hostWait_stopped c hx, exec_hostWait_held c hx, fun hs hg =>
      ⟨fun r => exec_hostWait_record c hx hs hg, exec_hostWait_unknown c hx hs hg⟩⟩,
    fun s r h9 hh => ?_, ?_, fun h s x c => ⟨fun id stag gslew en members => exec_powerGroup c en,
      fun core u => exec_resetUnitMreset c, fun ctx => exec_resetUnitStopContext c, exec_resetUnitClearCounts c,
      exec_resetUnitRetrainEthernet c, fun n => exec_resetUnitRetrainStation c⟩⟩
  · rw [answer_held h9 hh]
    exact ⟨rfl, rfl, fun x hx => Table.find_alter hx⟩
  · rintro s n m x w hx hh hw rfl
    exact ⟨exec_waitTimeout_early hx hh hw, exec_waitTimeout_due hx hh hw⟩

end Sys2Proof.Machine

namespace Sys2Proof.Machine

/-! # Power-on, registers and the Ethernet port (spec/19_firmware_host_fabric.md R457 to R460, R467, R472, R473) -/

/-! ## Power-on (R473) -/

/-- A table made from its keys holds what was made for each. -/
theorem Table.find_map_keys {α : Type} (g : Nat → α) {ks : List Nat} {k : Nat} (h : k ∈ ks) :
    Table.find k (ks.map fun i => (i, g i)) = some (g k) := by
  induction ks with
  | nil => simp at h
  | cons j ks ih =>
    by_cases e : j = k
    · simp [Table.find, e]
    · simp [Table.find, e, ih ((List.mem_cons.mp h).resolve_left (Ne.symm e))]

/-- In the safe state every bucket is empty and every station down. -/
theorem core_safeState (s : State) {c : Nat} (h : c < 64) : State.core (safeState s) c = { State.core s c with bucket := 0 } := by
  have e := Table.find_map_keys (fun c => { State.core s c with bucket := 0 }) (List.mem_range.mpr h)
  simp only [State.core, safeState, Table.get] at e ⊢
  rw [e]

theorem station_safeState (s : State) {n : Nat} (h : n < 24) :
    State.station (safeState s) n = { State.station s n with down := true } := by
  have e := Table.find_map_keys (fun n => { State.station s n with down := true }) (List.mem_range.mpr h)
  simp only [State.station, safeState, Table.get] at e ⊢
  rw [e]

theorem safeState_safe (s : State) : (∀ c < 64, (State.core (safeState s) c).bucket = 0)
    ∧ ∀ n < 24, (State.station (safeState s) n).down = true :=
  ⟨fun c h => by rw [core_safeState s h], fun n h => by rw [station_safeState s h]⟩

/-! ## Register writes (R6) -/

theorem writeCtx_bands (ctx : Nat) (f : Ctx → Ctx) (s : State) : (writeCtx ctx f s).bands = s.bands := by
  unfold writeCtx followView
  split
  · rfl
  · split <;> rfl

theorem writeOwn_bands (ctx : Nat) (f : Ctx → Ctx) (s : State) : (writeOwn ctx f s).bands = s.bands := by
  unfold writeOwn
  split <;> rfl

theorem writeClock_bands (d : Nat) (v : Dword) (s : State) : (writeClock d v s).bands = s.bands := by
  unfold writeClock
  split <;> rfl

/-- No register that firmware writes is a band's. -/
theorem writeReg_bands {r : RegName} {v : Dword} {s t : State} (h : writeReg r v s = some t) : t.bands = s.bands := by
  cases r <;> simp only [writeReg, Option.ite_none_right_eq_some, Option.some.injEq] at h
  case rgbase | rglim | rgcb | rgctl | frt =>
    obtain ⟨-, rfl⟩ := h
    exact writeCtx_bands _ _ _
  case svbase | svsize =>
    subst h
    exact writeOwn_bands _ _ _
  case coreclk =>
    obtain ⟨-, rfl⟩ := h
    exact writeClock_bands _ _ _
  case mtinvArgs | pwrgov | passcfg | pgcfg | thermcfg | triprsn | schedstat | preempt =>
    subst h
    rfl
  all_goals
    obtain ⟨-, rfl⟩ := h
    rfl

theorem exec_registerWrite {r : RegName} {v : Dword} {s t : State} (h : writeReg r v s = some t) :
    exec (.registerWrite r v) s = .next t := by
  show execRegisterWrite r v s = _
  simp only [execRegisterWrite, h]

theorem writeReg_rgcb {s : State} {ctx k : Nat} (v : Dword) (hk : k < 8) (hx : (Table.find ctx s.ctxs).isSome) :
    writeReg (.rgcb ctx k) v s = some (if ctxBusy s ctx then s else followView ctx none (State.modCtx s ctx fun c =>
      { c with ranges := Table.set (4 * k + 2) (v &&& 0xFFFFFFFF0000#64) c.ranges })) := by
  simp only [writeReg, hk, if_true, writeCtx, Option.isNone_eq_false_iff.mpr hx, Bool.false_or]
  rfl

/-! ## Datagrams (R458) -/

/-- Setting the partial datagrams to what they are. -/
theorem modFw_partials_self {s : State} {ps : List Partial_} (h : s.fw.partials = ps) :
    (State.modFw s fun w => { w with partials := ps }) = s := by
  subst h
  rfl

section
variable {s : State} {f : IpFragment}

theorem exec_ipFragmentReceive_refused (h : answersAt s f.v6 f.dst = false ∨ packetOk f = false ∨ 9216 < IpFragment.hi f) :
    exec (.ipFragmentReceive f) s = .next s := by
  show execIpFragmentReceive f s = _
  rcases h with h | h | h <;> simp [execIpFragmentReceive, h]

variable (hl : s.fw.linkUp = true) (ha : answersAt s f.v6 f.dst = true) (hp : packetOk f = true) (hi : IpFragment.hi f ≤ 9216)
include hl ha hp hi

/-- The fragment is taken: nothing refuses it. -/
theorem ipFragment_taken : (!s.fw.linkUp || !answersAt s f.v6 f.dst || !packetOk f || decide (9216 < IpFragment.hi f)) = false := by
  simp [hl, ha, hp, hi]

/-- The first fragment of a datagram, where none is held. -/
theorem exec_ipFragmentReceive_first (hn : s.fw.partials = []) : exec (.ipFragmentReceive f) s
    = .next (if datagramWhole [f] then takeDatagram f [f] s
      else { s with fw := { s.fw with partials := [⟨f.src, f.ident, [f], 0⟩] } }) := by
  show execIpFragmentReceive f s = _
  simp only [execIpFragmentReceive, ipFragment_taken hl ha hp hi, Bool.false_eq_true, if_false, hn, List.find?_nil,
    List.filter_nil, modFw_partials_self hn]
  split <;> rfl

/-- A fragment of the one datagram that is held. -/
theorem exec_ipFragmentReceive_more {p : Partial_} (hn : s.fw.partials = [p]) (hs : sameDatagram f p = true) :
    exec (.ipFragmentReceive f) s
      = .next (if datagramWhole (p.parts ++ [f]) then
          takeDatagram f (p.parts ++ [f]) { s with fw := { s.fw with partials := [] } }
        else { s with fw := { s.fw with partials := [{ p with parts := p.parts ++ [f] }] } }) := by
  show execIpFragmentReceive f s = _
  simp only [execIpFragmentReceive, ipFragment_taken hl ha hp hi, Bool.false_eq_true, if_false, hn, List.find?_cons,
    List.filter_cons, List.filter_nil, hs, Bool.not_true]
  split <;> rfl

end

/-! ## What the port answers (R457) -/

theorem ownAddress_linkLocal (s : State) : ownAddress s true linkLocal = true := by simp [ownAddress]

theorem ownAddress_of_blob {s : State} {b : Blob} (hb : s.fw.blob.applied = some b) (v6 : Bool) (a : Nat) :
    ownAddress s v6 a = (v6 && a == linkLocal || v6 == decide (2 ^ 32 ≤ a) && b.ips.elem a) := by
  simp [ownAddress, hb]

section
variable {s : State} (hl : s.fw.linkUp = true)
include hl

theorem exec_arpRequest (sender target : Nat) : exec (.arpRequest sender target) s
    = .next (if ownAddress s false target then sendFrame 0 (.arp sender target macAddress) s else s) := by
  show execArpRequest sender target s = _
  simp only [execArpRequest, portUp, hl, Bool.true_and]
  split <;> rfl

theorem exec_neighbourDiscovery (sender target : Nat) : exec (.neighbourDiscovery sender target) s
    = .next (if ownAddress s true target then sendFrame 0 (.neighbour sender target macAddress) s else s) := by
  show execNeighbourDiscovery sender target s = _
  simp only [execNeighbourDiscovery, portUp, hl, Bool.true_and]
  split <;> rfl

theorem exec_icmpEcho (sender target : Nat) {bytes : List Byte}
    (h : (if 2 ^ 32 ≤ target then 48 else 28) + bytes.length ≤ 9216) : exec (.icmpEcho sender target bytes) s
    = .next (if ownAddress s (decide (2 ^ 32 ≤ target)) target ∨ target = allNodes then
        sendFrame 0 (.echo sender target bytes) s else s) := by
  show execIcmpEcho sender target bytes s = _
  simp only [execIcmpEcho, portUp, hl, Bool.true_and, decide_eq_true_eq, h, decide_true, Bool.and_true, Bool.or_eq_true,
    beq_iff_eq]
  split <;> rfl

end

theorem exec_icmpEcho_long (s : State) (sender target : Nat) {bytes : List Byte}
    (h : 9216 < (if 2 ^ 32 ≤ target then 48 else 28) + bytes.length) : exec (.icmpEcho sender target bytes) s = .next s := by
  show execIcmpEcho sender target bytes s = _
  simp only [execIcmpEcho, decide_eq_true_eq, Nat.not_le.mpr h, decide_false, Bool.and_false, Bool.false_eq_true, if_false]

/-! ## Paused priorities (R457) -/

theorem getLsbD_bit {prio : Nat} (h : prio < 8) (k : Nat) : (BitVec.ofNat 8 (2 ^ prio)).getLsbD k = decide (k = prio) := by
  rw [BitVec.getLsbD_ofNat, Nat.testBit_two_pow]
  by_cases e : prio = k
  · simp [← e, h]
  · simp [e, Ne.symm e]

/-- Frames sent one after another stand in order behind those sent before. -/
theorem foldl_send (ps : List (Nat × Out)) (s : State) :
    ps.foldl (fun s p => State.send s p.2) s = { s with outbox := s.outbox ++ ps.map Prod.snd } := by
  induction ps generalizing s with
  | nil => simp
  | cons p ps ih => rw [List.foldl_cons, ih]; simp [State.send]

/-- What waited for a priority leaves, in order. -/
theorem releaseFrames_eq (prio : Nat) (s : State) : releaseFrames prio s =
    { s with outbox := s.outbox ++ (s.fw.paused.filter fun p => p.1 == prio).map Prod.snd
             fw := { s.fw with paused := s.fw.paused.filter fun p => p.1 != prio } } := by
  unfold releaseFrames
  rw [foldl_send]
  rfl

theorem exec_priorityFlowControl_pause {prio : Nat} (h : prio < 8) (s : State) : exec (.priorityFlowControl prio true) s
    = .next (State.modFw s fun w => { w with pause := w.pause ||| BitVec.ofNat 8 (2 ^ prio) }) := by
  show execPriorityFlowControl prio true s = _
  simp [execPriorityFlowControl, h]

theorem exec_priorityFlowControl_release {prio : Nat} (h : prio < 8) (s : State) : exec (.priorityFlowControl prio false) s
    = .next (releaseFrames prio (State.modFw s fun w => { w with pause := w.pause &&& ~~~(BitVec.ofNat 8 (2 ^ prio)) })) := by
  show execPriorityFlowControl prio false s = _
  simp [execPriorityFlowControl, h]

/-! ## A reply's message and its packets (R458, R460) -/

/-- A fragment's data, a multiple of 8 that leaves room for the header (R458). -/
theorem fragmentData_pos {mtu h : Nat} (hm : 1500 ≤ mtu) (hh : h ≤ 48) : 0 < (mtu - h) / 8 * 8 ∧ h + (mtu - h) / 8 * 8 ≤ mtu := by
  omega

/-- A message has a packet at least, and none longer than the MTU: it goes whole, or in fragments. -/
theorem packetLengths_spec {mtu : Nat} (hm : 1500 ≤ mtu) (v6 : Bool) (n : Nat) :
    packetLengths mtu v6 n ≠ [] ∧ ∀ p ∈ packetLengths mtu v6 n, p ≤ mtu := by
  unfold packetLengths
  dsimp only
  have hh : (if v6 then 48 else 20) ≤ 48 := by cases v6 <;> decide
  generalize (if v6 then 48 else 20) = h at hh
  generalize (if v6 then 40 else 20) = head
  obtain ⟨hc, hle⟩ := fragmentData_pos hm hh
  generalize (mtu - h) / 8 * 8 = c at hc hle
  by_cases hw : head + 8 + n ≤ mtu
  · rw [if_pos hw]
    simpa using hw
  · rw [if_neg hw]
    constructor
    · simp only [ne_eq, List.map_eq_nil_iff, List.range_eq_nil]
      exact (Nat.div_pos (by omega) hc).ne'
    · intro p hp
      obtain ⟨i, -, rfl⟩ := List.mem_map.mp hp
      exact (Nat.add_le_add_left (Nat.min_le_left c _) h).trans hle

/-- The field at the front of a list, and one behind the front field. -/
theorem fieldAt_natLe (n v : Nat) (bs : List Byte) : fieldAt (natLe n v ++ bs) 0 n = v % 256 ^ n := by
  unfold fieldAt
  rw [List.drop_zero, List.take_left' (natLe_length n v), leNat_natLe]

theorem fieldAt_append {m o : Nat} (h : m ≤ o) (n v : Nat) (bs : List Byte) :
    fieldAt (natLe m v ++ bs) o n = fieldAt bs (o - m) n := by
  unfold fieldAt
  rw [List.drop_append, natLe_length, List.drop_eq_nil_of_le (by rw [natLe_length]; exact h), List.nil_append]

/-- The header of a reply's message (R460). -/
theorem Reply.message_fields (r : Reply) : (Reply.message r).take 4 = [0x46, 0x48, 1, 1]
    ∧ fieldAt (Reply.message r) 4 2 = r.opcode % 2 ^ 16 ∧ fieldAt (Reply.message r) 6 2 = r.status % 2 ^ 16
    ∧ fieldAt (Reply.message r) 8 8 = r.session % 2 ^ 64 ∧ fieldAt (Reply.message r) 16 8 = r.msgnum % 2 ^ 64
    ∧ fieldAt (Reply.message r) 24 4 = (Payload.bytes r.payload).length % 2 ^ 32
    ∧ (Reply.message r).drop 32 = Payload.bytes r.payload := by
  refine ⟨rfl, ?_, ?_, ?_, ?_, ?_, rfl⟩ <;> simp [Reply.message, fieldAt_append, fieldAt_natLe]

/-! ## RDMA (R459) -/

section
variable {s s1 s2 : State} {write : Bool} {rkey va n ctx : Nat}

theorem rdmaLines_keyless (h : rkeyCtx s rkey = none) : rdmaLines write rkey va n s = .bad s := by
  simp only [rdmaLines, h]

variable (hk : rkeyCtx s rkey = some ctx) (hv : va + n ≤ 2 ^ 60)
include hk hv

theorem rdmaLines_unchecked (hn : hubNeeds s ctx (permRm + if write then permWr else permRd) (lineCount va n) va n = none) :
    rdmaLines write rkey va n s = .bad s := by
  simp only [rdmaLines, hk, Nat.not_lt.mpr hv, if_false, hn]

variable {ns : List HubNeed} (hn : hubNeeds s ctx (permRm + if write then permWr else permRd) (lineCount va n) va n = some ns)
include hn

theorem rdmaLines_faulted {w : Bool} (hp : hubPages write none ns s = (true, w, s1)) : rdmaLines write rkey va n s = .bad s1 := by
  simp only [rdmaLines, hk, Nat.not_lt.mpr hv, if_false, hn, hp]

theorem rdmaLines_untranslated (hp : hubPages write none ns s = (false, true, s1)) : rdmaLines write rkey va n s = .wait s1 := by
  simp only [rdmaLines, hk, Nat.not_lt.mpr hv, if_false, hn, hp]

section
variable (hp : hubPages write none ns s = (false, false, s1)) {late : Bool}
include hp

/-- Every page is translated, and a line that is asked for is refused. -/
theorem rdmaLines_refused {x : Halt_} (ha : askHub write (ns.take 64) s1 = (some x, late, s2)) :
    rdmaLines write rkey va n s = .bad s2 := by
  simp only [rdmaLines, hk, Nat.not_lt.mpr hv, if_false, hn, hp, hubWindow, ha]

theorem rdmaLines_late (ha : askHub write (ns.take 64) s1 = (none, true, s2)) : rdmaLines write rkey va n s = .wait s2 := by
  simp only [rdmaLines, hk, Nat.not_lt.mpr hv, if_false, hn, hp, hubWindow, ha]

theorem rdmaLines_go (ha : askHub write (ns.take 64) s1 = (none, false, s2)) : rdmaLines write rkey va n s = .go ns s2 := by
  simp only [rdmaLines, hk, Nat.not_lt.mpr hv, if_false, hn, hp, hubWindow, ha]

end

end

section
variable {s s1 : State} {qp rkey va : Nat} (hq : qp < 64) (hl : s.fw.linkUp = true) (hr : s.fw.power = .ready)
include hq hl hr

theorem rdmaOpen : (decide (64 ≤ qp) || !s.fw.linkUp || s.fw.power != .ready) = false := by
  simp [Nat.not_le.mpr hq, hl, hr]

section
variable {bytes : List Byte}

theorem exec_rdmaWrite_bad (h : rdmaLines true rkey va bytes.length s = .bad s1) :
    exec (.rdmaWrite qp rkey va bytes) s = .next (sendFrame 0 (.nak qp false []) s1) := by
  show execRdmaWrite qp rkey va bytes s = _
  simp only [execRdmaWrite, rdmaOpen hq hl hr, Bool.false_eq_true, if_false, h, rdmaNak]

theorem exec_rdmaWrite_wait (h : rdmaLines true rkey va bytes.length s = .wait s1) :
    exec (.rdmaWrite qp rkey va bytes) s = .next (retry (.rdmaWrite qp rkey va bytes) s1) := by
  show execRdmaWrite qp rkey va bytes s = _
  simp only [execRdmaWrite, rdmaOpen hq hl hr, Bool.false_eq_true, if_false, h]

/-- The lines of the window are written; a longer access goes on behind them. -/
theorem exec_rdmaWrite_go {ns : List HubNeed} (h : rdmaLines true rkey va bytes.length s = .go ns s1) :
    exec (.rdmaWrite qp rkey va bytes) s = .next (if ns.length ≤ 64 then sendFrame 0 (.ack qp) (hubWrite (ns.take 64) bytes s1)
      else retry (.rdmaWrite qp rkey (va + windowBytes ns) (bytes.drop (windowBytes ns))) (hubWrite (ns.take 64) bytes s1)) := by
  show execRdmaWrite qp rkey va bytes s = _
  simp only [execRdmaWrite, rdmaOpen hq hl hr, Bool.false_eq_true, if_false, h]
  rfl

end

theorem exec_rdmaRead {len : Nat} : exec (.rdmaRead qp rkey va len) s = .next (readMore qp rkey va len [] s) := by
  show execRdmaRead qp rkey va len s = _
  simp only [execRdmaRead, rdmaOpen hq hl hr, Bool.false_eq_true, if_false]

end

section
variable {s s1 : State} {qp rkey va len : Nat} {ns : List HubNeed} {bs : List Byte}

theorem readMore_bad (h : rdmaLines false rkey va len s = .bad s1) :
    readMore qp rkey va len [] s = sendFrame 0 (.nak qp false []) s1 := by
  simp only [readMore, h, rdmaNak]

theorem readMore_wait (h : rdmaLines false rkey va len s = .wait s1) :
    readMore qp rkey va len [] s = retry (.rdmaRead qp rkey va len []) s1 := by
  simp only [readMore, h]

variable (h : rdmaLines false rkey va len s = .go ns s1)
include h

theorem readMore_poisoned (hb : hubRead (ns.take 64) s1 = (bs, true)) : readMore qp rkey va len [] s = sendFrame 0
    (.nak qp true (bs.take (bs.length / (1024 * 2 ^ (Config.pathMtu qp % 3)) * (1024 * 2 ^ (Config.pathMtu qp % 3))))) s1 := by
  simp only [readMore, h, hubWindow, hb, if_true, List.nil_append, rdmaNak]

theorem readMore_window (hb : hubRead (ns.take 64) s1 = (bs, false)) : readMore qp rkey va len [] s
    = if ns.length ≤ 64 then sendFrame 0 (.readData qp bs) s1
      else retry (.rdmaRead qp rkey (va + windowBytes ns) (len - windowBytes ns) bs) s1 := by
  simp only [readMore, h, hubWindow, hb, Bool.false_eq_true, if_false, List.nil_append]

end

/-- Settles O60: each step is read off its equation; what leaves by the port is the frame of its case. -/
theorem startupAndPort : Obligations.StartupAndPort := by
  unfold Obligations.StartupAndPort
  refine ⟨?_, ?_, ?_, ?_, ?_, fun s r v t h => ⟨exec_registerWrite h, writeReg_bands h⟩, ?_, ?_, ?_,
    fun s f => exec_ipFragmentReceive_refused, ?_, ?_, ?_, ?_, ?_, ?_, ?_, ?_, Reply.message_fields, ?_, ?_, ?_⟩
  case _ =>
    intro s e hf
    show ∃ t, execPowerOn e s = .next t ∧ _
    simp only [execPowerOn, realFailure, hf]
    exact ⟨_, rfl, rfl, rfl, rfl, rfl, rfl, rfl, rfl, rfl, rfl, rfl, rfl⟩
  case _ =>
    rintro s e ⟨_, unit, index, code, detail⟩ hf rfl
    show ∃ t, execPowerOn e s = .next t ∧ _
    simp only [execPowerOn, realFailure, hf]
    exact ⟨_, rfl, rfl, rfl, rfl, rfl, safeState_safe _⟩
  case _ =>
    intro s hp
    show (_ → execEthernetLinkFormed s = _) ∧ ∀ f, _ → ∃ t, execEthernetLinkFormed s = .next t ∧ _
    refine ⟨fun hf => ?_, fun f hf => ?_⟩
    · unfold execEthernetLinkFormed
      rw [hp, hf]
      rfl
    · simp only [execEthernetLinkFormed, hp, hf]
      exact ⟨_, rfl, rfl, rfl, safeState_safe _⟩
  case _ =>
    exact fun s v => ⟨rfl, rfl, rfl, rfl⟩
  case _ =>
    intro s c v hc
    refine ⟨_, exec_registerWrite (if_pos hc), core_modCore _ _ _, rfl⟩
  case _ =>
    intro s ctx k v hk hx
    have he := exec_registerWrite (writeReg_rgcb (s := s) (ctx := ctx) v hk hx)
    exact ⟨fun hb => by rw [he, if_pos hb], fun hb => by rw [he, hb, if_neg Bool.false_ne_true]⟩
  case _ =>
    intro s d v hd
    have he : exec (.registerWrite (.coreclk d) v) s = .next (writeClock d v s) := exec_registerWrite (if_pos hd)
    exact ⟨fun hp => by rw [he, writeClock, hp], fun n hp => by rw [he, writeClock, hp]⟩
  case _ =>
    intro s f hl ha hp hi
    refine ⟨fun hn hw => ?_, fun hn hw => ?_, fun p hn hs hw => ?_, fun p hn hs hw => ?_⟩
    · rw [exec_ipFragmentReceive_first hl ha hp hi hn, if_pos hw]
    · rw [exec_ipFragmentReceive_first hl ha hp hi hn, hw, if_neg Bool.false_ne_true]
    · rw [exec_ipFragmentReceive_more hl ha hp hi hn hs, if_pos hw]
    · rw [exec_ipFragmentReceive_more hl ha hp hi hn hs, hw, if_neg Bool.false_ne_true]
  case _ =>
    intro s f fs
    refine ⟨fun d h => ?_, fun op h hm hmac => ?_, fun h => ?_⟩
    · simp only [takeDatagram, h]
    · simp only [takeDatagram, hm, takeMalformed, hmac, Bool.false_eq_true, if_false]
      rfl
    · simp only [takeDatagram, h]
  case _ =>
    intro s src ident
    refine ⟨_, rfl, rfl, fun p => ?_⟩
    show p ∈ s.fw.partials.filter _ ↔ _
    rw [List.mem_filter]
    simp only [Bool.not_eq_true', Bool.and_eq_false_iff, beq_eq_false_iff_ne, decide_eq_false_iff_not]
    tauto
  case _ =>
    intro s sender target b hb hl
    rw [exec_arpRequest hl, ownAddress_of_blob hb]
    exact ⟨fun ht => by rw [decide_eq_false (Nat.not_le.mpr ht)]; rfl, fun ht => by rw [decide_eq_true ht]; rfl⟩
  case _ =>
    exact fun s sender target bytes hl => ⟨exec_neighbourDiscovery hl sender target, exec_icmpEcho hl sender target,
      exec_icmpEcho_long s sender target⟩
  case _ =>
    refine fun s => ⟨ownAddress_linkLocal s, fun b a hb ha => ?_⟩
    rw [ownAddress_of_blob hb]
    simp [ha]
  case _ =>
    intro s prio pause hp
    cases pause with
    | true =>
      refine ⟨_, exec_priorityFlowControl_pause hp s, ?_, fun k hk => ?_, rfl, fun _ => ⟨rfl, rfl⟩, Bool.noConfusion⟩
      · show (s.fw.pause ||| _).getLsbD prio = true
        rw [BitVec.getLsbD_or, getLsbD_bit hp, decide_eq_true rfl, Bool.or_true]
      · show (s.fw.pause ||| _).getLsbD k = _
        rw [BitVec.getLsbD_or, getLsbD_bit hp, decide_eq_false hk, Bool.or_false]
    | false =>
      refine ⟨_, exec_priorityFlowControl_release hp s, ?_⟩
      rw [releaseFrames_eq]
      refine ⟨?_, fun k hk => ?_, rfl, Bool.noConfusion, fun _ o ho => ?_⟩
      · show (s.fw.pause &&& ~~~_).getLsbD prio = false
        rw [BitVec.getLsbD_and, BitVec.getLsbD_not, getLsbD_bit hp]
        simp
      · show (s.fw.pause &&& ~~~_).getLsbD k = _
        rw [BitVec.getLsbD_and, BitVec.getLsbD_not, getLsbD_bit hp, decide_eq_false hk]
        by_cases h8 : k < 8
        · simp [h8]
        · rw [BitVec.getLsbD_of_ge _ _ (Nat.not_lt.mp h8), Bool.false_and]
      · simp [State.modFw, ho]
  case _ =>
    intro s prio o
    refine ⟨fun h => ?_, fun h => ?_⟩
    · rw [sendFrame, if_pos h]
      rfl
    · rw [sendFrame, h, if_neg Bool.false_ne_true]
      rfl
  case _ =>
    exact fun s r h => ⟨_, rfl, (packetLengths_spec h _ _).1, (packetLengths_spec h _ _).2⟩
  case _ =>
    intro s qp rkey va len bytes hq hl hr hk
    refine ⟨exec_rdmaWrite_bad hq hl hr (rdmaLines_keyless hk), ?_⟩
    rw [exec_rdmaRead hq hl hr, readMore_bad (rdmaLines_keyless hk)]
  case _ =>
    intro s s1 s2 qp rkey va ctx bytes hq hl hr hk hv
    refine ⟨fun hn => exec_rdmaWrite_bad hq hl hr (rdmaLines_unchecked hk hv hn), fun ns hn => ⟨fun w hp => ?_, fun hp => ?_,
      fun hp => ⟨fun x late ha => ?_, fun ha => ?_, fun ha hw => ?_, fun ha hw => ?_⟩⟩⟩
    · exact exec_rdmaWrite_bad hq hl hr (rdmaLines_faulted hk hv hn hp)
    · exact exec_rdmaWrite_wait hq hl hr (rdmaLines_untranslated hk hv hn hp)
    · exact exec_rdmaWrite_bad hq hl hr (rdmaLines_refused hk hv hn hp ha)
    · exact exec_rdmaWrite_wait hq hl hr (rdmaLines_late hk hv hn hp ha)
    · rw [exec_rdmaWrite_go hq hl hr (rdmaLines_go hk hv hn hp ha), if_pos hw, List.take_of_length_le hw]
    · rw [exec_rdmaWrite_go hq hl hr (rdmaLines_go hk hv hn hp ha), if_neg (Nat.not_le.mpr hw)]
  case _ =>
    intro s s1 s2 qp rkey va ctx len ns bs hq hl hr hk hv hn hp
    rw [exec_rdmaRead hq hl hr]
    refine ⟨fun ha => ?_, fun ha hb => ⟨fun hw => ?_, fun hw => ?_⟩, fun ha hb => ?_⟩
    · rw [readMore_wait (rdmaLines_late (write := false) hk hv hn hp ha)]
    · rw [readMore_window (rdmaLines_go (write := false) hk hv hn hp ha) hb, if_pos hw]
    · rw [readMore_window (rdmaLines_go (write := false) hk hv hn hp ha) hb, if_neg (Nat.not_le.mpr hw)]
    · rw [readMore_poisoned (rdmaLines_go (write := false) hk hv hn hp ha) hb]

end Sys2Proof.Machine

namespace Sys2Proof.Machine

/-! # Coherence (spec/05_memory_tiers_and_coherence.md R124 to R129) -/

/-- What every member of a fold keeps of the state, the fold keeps. -/
theorem foldl_keeps {α β : Type} (p : State → β) {f : State → α → State} (h : ∀ t a, p (f t a) = p t) (as : List α)
    (s : State) : p (as.foldl f s) = p s := by
  induction as generalizing s with
  | nil => rfl
  | cons a as ih => exact (ih _).trans (h s a)

/-! ## A message is sent, and consumed (R129) -/

section
variable (m : Msg) (s : State)

@[simp] theorem sendMsg_msgs : (sendMsg m s).msgs = Table.set s.nextKey m s.msgs := by rw [sendMsg_frame]
@[simp] theorem sendMsg_nextKey : (sendMsg m s).nextKey = s.nextKey + 1 := by rw [sendMsg_frame]
@[simp] theorem sendMsg_dram : (sendMsg m s).dram = s.dram := by rw [sendMsg_frame]
@[simp] theorem l2_sendMsg (d : Nat) : (State.die (sendMsg m s) d).l2 = (State.die s d).l2 := by rw [die_sendMsg]
@[simp] theorem dir_sendMsg (d : Nat) : (State.die (sendMsg m s) d).dir = (State.die s d).dir := by rw [die_sendMsg]

/-- A message consumed leaves the rest of the state, but for runs of failed replays that end. -/
theorem takeMsg_frame (key : Nat) :
    takeMsg key m s = { s with msgs := Table.del key s.msgs, crossings := (takeMsg key m s).crossings } := by
  unfold takeMsg goodFlits
  split <;> rfl

@[simp] theorem takeMsg_nextKey (key : Nat) : (takeMsg key m s).nextKey = s.nextKey := by rw [takeMsg_frame]
@[simp] theorem takeMsg_dram (key : Nat) : (takeMsg key m s).dram = s.dram := by rw [takeMsg_frame]
@[simp] theorem die_takeMsg (key d : Nat) : State.die (takeMsg key m s) d = State.die s d := by rw [takeMsg_frame]; rfl

end

/-! ## A message arrives; requests at the home (R125 to R127) -/

section
variable {s : State} {key : Nat} {m : Msg} (hm : Table.find key s.msgs = some m) (ha : arrives s key m = true)
include hm ha

theorem onMsg_arrived {k : MsgKind → Bool} (f : Msg → State → State) (hk : k m.kind = true) :
    onMsg key k f s = .next (f m s) := by
  simp [onMsg, hm, hk, ha]

section
variable {k : MsgKind} {fills : Bool} (f : Msg → State → State) (hk : m.kind = k)
include hk

/-- What a home does with a request that has arrived: it waits its turn, then for its room, and then is handled. -/
theorem onRequest_arrived : onRequest key k fills f s = .next (
    if behindAtHome key m s then waitAtHome key m s
    else if fills && !roomInFilter m.dst m.src m.line s then makeRoom m.dst m.line (waitAtHome key m s)
    else f m (takeRequest key m s)) :=
  onMsg_arrived hm ha _ (k := (· == k)) (beq_iff_eq.mpr hk)

theorem onRequest_behind (hb : behindAtHome key m s = true) : onRequest key k fills f s = .next (waitAtHome key m s) := by
  rw [onRequest_arrived hm ha f hk, if_pos hb]

/-- A request that needs an entry of a full set waits while the home makes room (R127). -/
theorem onRequest_full (hb : behindAtHome key m s = false) (hr : roomInFilter m.dst m.src m.line s = false) :
    onRequest key k true f s = .next (makeRoom m.dst m.line (waitAtHome key m s)) := by
  rw [onRequest_arrived hm ha f hk, hb, hr]
  rfl

theorem onRequest_served (hb : behindAtHome key m s = false) (hr : roomInFilter m.dst m.src m.line s = true) :
    onRequest key k fills f s = .next (f m (takeRequest key m s)) := by
  rw [onRequest_arrived hm ha f hk, hb, hr, Bool.not_true, Bool.and_false]
  rfl

/-- A Put needs no entry. -/
theorem onRequest_put (hb : behindAtHome key m s = false) : onRequest key k false f s = .next (f m (takeRequest key m s)) := by
  rw [onRequest_arrived hm ha f hk, hb]
  rfl

end
end

section
variable (k : Nat) (e : Ecc) (s : State)

theorem exec_cohRdS : exec (.cohRdS k e) s
    = onRequest k .rdS true (fun m t => serve m.dst m.src m.line m.mem false false e t) s := rfl
theorem exec_cohRdX : exec (.cohRdX k e) s
    = onRequest k .rdX true (fun m t => serve m.dst m.src m.line m.mem true false e t) s := rfl
theorem exec_cohUpg : exec (.cohUpg k) s = onRequest k .upg true (fun m t =>
    serve m.dst m.src m.line m.mem true ((Die.entry (State.die t m.dst) m.line).owner == some m.src
      || (Die.entry (State.die t m.dst) m.line).sharers.elem m.src) .clean t) s := rfl
theorem exec_cohPutM : exec (.cohPutM k) s
    = onRequest k .putM false (fun m t => sendPutAck m (dropOwner m (writeLineAt m.mem m.bytes m.poison) t)) s := rfl
theorem exec_cohPutE : exec (.cohPutE k) s = onRequest k .putE false (fun m t => sendPutAck m (dropOwner m id t)) s := rfl

end

/-- A request that is handled leaves the directory as it found it. -/
theorem entry_takeRequest (key : Nat) (m : Msg) (s : State) (line : Nat) :
    Die.entry (State.die (takeRequest key m s) m.dst) line = Die.entry (State.die s m.dst) line := by
  simp [takeRequest, Die.entry]

/-- A Put gives up the line where the directory names its sender as owner, and nowhere else (R126). -/
theorem dropOwner_owner {m : Msg} {s : State} (write : State → State)
    (h : (Die.entry (State.die s m.dst) m.line).owner = some m.src) :
    dropOwner m write s = setDir m.dst m.line { Die.entry (State.die s m.dst) m.line with owner := none } (write s) :=
  if_pos (beq_iff_eq.mpr h)

theorem dropOwner_other {m : Msg} {s : State} (write : State → State)
    (h : (Die.entry (State.die s m.dst) m.line).owner ≠ some m.src) : dropOwner m write s = s :=
  if_neg fun e => h (beq_iff_eq.mp e)

/-! ## Lines in memory (R118) -/

/-- A line reads back as it was written. -/
theorem unitLine_writeLineAt {bs : List Byte} (h : bs.length = 128) (mem : Nat) (p : BitVec 8) (s : State) :
    (unitLine (writeLineAt mem bs p s) (mem / 2 ^ 40) (mem % 2 ^ 40)).1 = bs := by
  have e := Memory.bytes_store s.dram (unitKey (mem / 2 ^ 40) (mem % 2 ^ 40 / 128 * 128)) bs
  rw [h] at e
  exact e

theorem countUe_nextKey (u n : Nat) (s : State) : (countUe u n s).nextKey = s.nextKey := by
  unfold countUe
  split <;> rfl

theorem senseDram_nextKey (lo n : Nat) (s : State) : (senseDram lo n s).nextKey = s.nextKey := by
  refine foldl_keeps State.nextKey (fun t e => ?_) _ s
  split
  · exact countUe_nextKey _ _ _
  · rfl

/-- A line read without a new error counts the old ones and is charged: memory and messages stand (R118, R406). -/
theorem readLineAt_clean (mem : Nat) (s : State) :
    (readLineAt mem .clean s).2.dram = s.dram ∧ (readLineAt mem .clean s).2.nextKey = s.nextKey
      ∧ (readLineAt mem .clean s).1.1 = (unitLine s (mem / 2 ^ 40) (mem % 2 ^ 40)).1 := by
  have hd : (readLineAt mem .clean s).2.dram = s.dram :=
    (sameTable_senseDram _ _ _).dram.trans ((sameTable_countUe _ _ _).dram.trans rfl)
  refine ⟨hd, (senseDram_nextKey _ _ _).trans ((countUe_nextKey _ _ _).trans rfl), ?_⟩
  show Memory.bytes (readLineAt mem .clean s).2.dram _ 128 = Memory.bytes s.dram _ 128
  rw [hd]

/-! ## The directory's answer (R125) -/

theorem entry_setDir_held (home line : Nat) {e : Dir} (s : State) (h : e.owner.isSome) :
    Die.entry (State.die (setDir home line e s) home) line = e := by
  simp [setDir, Die.entry, Option.isNone_eq_false_iff.mpr h]

/-- A read of a line that nobody holds makes the reader its owner: data from memory, and Cmp. -/
theorem serve_unheld {s : State} {home line used old : Nat}
    (h : Die.entry (State.die s home) line = ⟨none, [], none, used, old⟩) (req mem : Nat) (ecc : Ecc) :
    serve home req line mem false false ecc s = sendCmp home req line
      (setDir home line ⟨some req, [], none, s.nextKey, mem⟩ (sendData home req line mem false ecc s)) := by
  simp [serve, h]

/-- What the first reader of a line gets: the bytes of its unit, unshared, then Cmp; memory stands (R125). -/
theorem serve_unheld_sends {s : State} {home line used old : Nat}
    (h : Die.entry (State.die s home) line = ⟨none, [], none, used, old⟩) (req mem : Nat) :
    ∃ t d, serve home req line mem false false .clean s = t
      ∧ Die.entry (State.die t home) line = ⟨some req, [], none, s.nextKey, mem⟩
      ∧ Table.find s.nextKey t.msgs = some d ∧ d.kind = .data false ∧ d.dst = req
      ∧ d.bytes = (unitLine s (mem / 2 ^ 40) (mem % 2 ^ 40)).1
      ∧ Table.find (s.nextKey + 1) t.msgs = some ⟨.cmp, line, home, req, [], 0, 0⟩ ∧ t.dram = s.dram := by
  obtain ⟨hdram, hkey, hbytes⟩ := readLineAt_clean mem s
  have hn : s.nextKey ≠ s.nextKey + 1 := by omega
  refine ⟨_, ⟨.data false, line, home, req, (readLineAt mem .clean s).1.1, (readLineAt mem .clean s).1.2, mem⟩,
    serve_unheld h req mem .clean, ?_, ?_, rfl, rfl, hbytes, ?_, ?_⟩
  · rw [Die.entry, sendCmp, dir_sendMsg]
    exact entry_setDir_held home line _ rfl
  · simp [sendCmp, setDir, sendData, hkey, Table.find_set_ne _ _ hn]
  · simp [sendCmp, setDir, sendData, hkey]
  · simp [sendCmp, setDir, sendData, hdram]

/-- Settles O50: a request that has arrived is served or waits by its line and its set; the answers are those of `serve` for an
unheld line, and of a Put with or without ownership. -/
theorem homeRequests : Obligations.HomeRequests := by
  unfold Obligations.HomeRequests
  simp only [exec_cohRdS, exec_cohRdX, exec_cohUpg, exec_cohPutM, exec_cohPutE]
  refine ⟨fun s k m e hm ha hb hr => ?_, fun s k m e hm ha hb => ?_, fun s k m e hm ha hb hr => ?_,
    fun s home req line mem used old h => ?_, fun s k m hm ha hb ho => ?_, fun s k m hm ha hb ho => ?_, fun s m => ?_,
    fun s mem bs p h => unitLine_writeLineAt h mem p s⟩
  · exact ⟨fun hk => onRequest_served hm ha _ hk hb hr, fun hk => onRequest_served hm ha _ hk hb hr,
      fun hk => onRequest_served hm ha _ hk hb hr⟩
  · exact ⟨fun hk => onRequest_behind hm ha _ hk hb, fun hk => onRequest_behind hm ha _ hk hb,
      fun hk => onRequest_behind hm ha _ hk hb, fun hk => onRequest_behind hm ha _ hk hb,
      fun hk => onRequest_behind hm ha _ hk hb⟩
  · exact ⟨fun hk => onRequest_full hm ha _ hk hb hr, fun hk => onRequest_full hm ha _ hk hb hr,
      fun hk => onRequest_full hm ha _ hk hb hr⟩
  · obtain ⟨t, d, ht, he, hsent⟩ := serve_unheld_sends h req mem
    exact ⟨t, d, ht, by rw [he], by rw [he], hsent⟩
  · rw [← entry_takeRequest k] at ho
    refine ⟨fun hk => ?_, fun hk => ?_⟩
    · rw [onRequest_put hm ha _ hk hb, dropOwner_owner _ ho]
    · rw [onRequest_put hm ha _ hk hb, dropOwner_owner _ ho]
      rfl
  · rw [← entry_takeRequest k] at ho
    exact ⟨fun hk => by rw [onRequest_put hm ha _ hk hb, dropOwner_other _ ho],
      fun hk => by rw [onRequest_put hm ha _ hk hb, dropOwner_other _ ho]⟩
  · exact ⟨by simp [sendPutAck], by simp [sendPutAck]⟩

/-! ## Holders answer (R124 to R126) -/

section
variable {s : State} {key : Nat} {m : Msg} (hm : Table.find key s.msgs = some m) (ha : arrives s key m = true)
include hm ha

section
variable (hc : answerComing s m.dst m.line = false) (hu : usable s m.dst m.line = false)
include hc hu

/-- A die that no access of its own keeps at the line drops it, and says so. -/
theorem exec_cohInv (hk : m.kind = .inv) : exec (.cohInv key) s = .next (
    sendMsg ⟨.invAck, m.line, m.dst, m.src, [], 0, m.mem⟩
      (State.modDie (takeMsg key m s) m.dst fun d => { d with l2 := Table.del m.line d.l2 })) := by
  show execCohInv key s = _
  rw [execCohInv, onMsg_arrived hm ha _ (by rw [hk]; rfl), hc, hu]
  rfl

/-- The owner gives up the line to a writer, and keeps it beside a reader: in S what was in E, else in O. It sends the line to
the requester and its acknowledgement to the home, which tells that the holder was in E. -/
theorem exec_cohFwd {dd : Nat} {ex : Bool} {l : Line} (hk : m.kind = .fwd dd ex false)
    (hl : Table.find m.line (State.die s m.dst).l2 = some l) : exec (.cohFwd key) s = .next (
    sendMsg ⟨.fwdAck, m.line, m.dst, m.src, if !ex && l.st == .e then [1] else [], 0, m.mem⟩
      (sendMsg ⟨.data (!ex), m.line, m.dst, dd, l.bytes, l.poison, m.mem⟩
        (State.modDie (takeMsg key m s) m.dst fun d =>
          { d with l2 := if ex then Table.del m.line d.l2
                         else Table.set m.line { l with st := if l.st == .e then .s else .o } d.l2 }))) := by
  show execCohFwd key s = _
  rw [execCohFwd, onMsg_arrived hm ha _ (by rw [hk])]
  cases ex <;> simp [hk, hc, hu, holderLine, hl]

end

/-! ## Data and Cmp at the requester (R125) -/

theorem onWant_arrived {k : MsgKind → Bool} (f : Msg → Want → Want) (hk : k m.kind = true) : onWant key k f s = .next (
    (install m.dst m.line (State.modDie (takeMsg key m s) m.dst fun d =>
      { d with wants := Table.alter m.line (f m) d.wants })).getD s) :=
  onMsg_arrived hm ha _ hk

end

section
variable {s : State} {die line : Nat} {w : Want} (hw : Table.find line (State.die s die).wants = some w)
include hw

/-- Without Cmp the requester only keeps what it has. -/
theorem install_pending (hc : w.cmp = false) : install die line s = some s := by
  simp [install, hw, hc]

/-- With data and Cmp it holds the line, where its L2 has room. -/
theorem install_complete {t : State} {bs : List Byte} (hc : w.cmp = true) (hd : w.data = some bs)
    (hr : roomInL2 die line s = some t) : install die line s = some (State.modDie t die fun d =>
      { d with wants := Table.del line d.wants
               l2 := Table.set line ⟨if w.excl then .m else if w.shared then .s else .e, bs, w.poison⟩ d.l2 }) := by
  simp [install, hw, hc, hd, hr]

end

theorem roomInL2_empty {s : State} {die : Nat} (h : (State.die s die).l2 = []) (line : Nat) : roomInL2 die line s = some s := by
  simp [roomInL2, h]

section
variable {s : State} {key : Nat} {m : Msg} {w : Want} (hm : Table.find key s.msgs = some m) (ha : arrives s key m = true)
  (hw : Table.find m.line (State.die s m.dst).wants = some w)
include hm ha hw

theorem exec_cohData {sh : Bool} (hk : m.kind = .data sh) (hc : w.cmp = false) : exec (.cohData key) s = .next (
    State.modDie (takeMsg key m s) m.dst fun d => { d with
      wants := Table.alter m.line (fun w => { w with data := some m.bytes, poison := m.poison, shared := sh }) d.wants }) := by
  have hs : (m.kind == .data true) = sh := by rw [hk]; cases sh <;> rfl
  show execCohData key s = _
  rw [execCohData, onWant_arrived hm ha _ (by rw [hk]), hs,
    install_pending (w := { w with data := some m.bytes, poison := m.poison, shared := sh }) ?_ hc]
  · rfl
  · rw [die_modDie, die_takeMsg]
    exact Table.find_alter hw

theorem exec_cohCmp {bs : List Byte} (hk : m.kind = .cmp) (hd : w.data = some bs) (hl : (State.die s m.dst).l2 = []) :
    exec (.cohCmp key) s = .next (State.modDie (State.modDie (takeMsg key m s) m.dst fun d =>
        { d with wants := Table.alter m.line (fun w => { w with cmp := true }) d.wants }) m.dst fun d =>
      { d with wants := Table.del m.line d.wants
               l2 := Table.set m.line ⟨if w.excl then .m else if w.shared then .s else .e, bs, w.poison⟩ d.l2 }) := by
  show execCohCmp key s = _
  rw [execCohCmp, onWant_arrived hm ha _ (by rw [hk]; rfl),
    install_complete (w := { w with cmp := true }) ?_ rfl hd (roomInL2_empty ?_ _)]
  · rfl
  · rw [die_modDie, die_takeMsg]
    exact Table.find_alter hw
  · rw [die_modDie, die_takeMsg]
    exact hl

end

/-! ## Acknowledgements (R125, R126) -/

section
variable {s : State} {key : Nat} {m : Msg} (hm : Table.find key s.msgs = some m) (ha : arrives s key m = true)
include hm ha

theorem exec_cohInvAck (hk : m.kind = .invAck) :
    exec (.cohInvAck key) s = .next (ackHome m.dst m.line m.src false (takeMsg key m s)) := by
  show execCohInvAck key s = _
  rw [execCohInvAck, onMsg_arrived hm ha _ (by rw [hk]; rfl)]

/-- An acknowledgement without the line's bytes writes no memory. -/
theorem exec_cohFwdAck (hk : m.kind = .fwdAck) (hb : m.bytes.length ≠ 128) :
    exec (.cohFwdAck key) s = .next (ackHome m.dst m.line m.src (m.bytes.length == 1) (takeMsg key m s)) := by
  show execCohFwdAck key s = _
  rw [execCohFwdAck, onMsg_arrived hm ha _ (by rw [hk]; rfl)]
  dsimp only
  rw [if_neg hb]

theorem exec_cohPutAck (hk : m.kind = .putAck) : exec (.cohPutAck key) s = .next (
    State.modDie (takeMsg key m s) m.dst fun d => { d with evict := Table.del m.line d.evict }) := by
  show execCohPutAck key s = _
  rw [execCohPutAck, onMsg_arrived hm ha _ (by rw [hk]; rfl)]

end

/-- The last acknowledgement closes the transaction with Cmp to its requester. -/
theorem ackHome_last {s : State} {home line d : Nat} {t : Txn} (ht : (Die.entry (State.die s home) line).txn = some t)
    (ha : t.acks = [d]) (hf : t.flush = false) : ackHome home line d false s
      = sendCmp home t.req line (setDir home line { Die.entry (State.die s home) line with txn := none } s) := by
  simp [ackHome, ht, ha, hf]

/-! ## A crossing that replays (R129) -/

theorem answer_crossings (r : Reply) (s : State) : (answer r s).crossings = s.crossings := by
  unfold answer
  dsimp only
  split
  · rfl
  · rw [modFw_crossings, sendReply_eq]
    rfl

theorem answerWaits_crossings (ctx gridid status : Nat) (p : Payload) (s : State) :
    (answerWaits ctx gridid status p s).crossings = s.crossings := by
  refine foldl_keeps State.crossings (fun t e => foldl_keeps State.crossings (fun u w => ?_) _ t) _ s
  split
  · exact answer_crossings _ _
  · rfl

theorem quitRegen_crossings (g : Regen) (s : State) : (quitRegen g s).crossings = s.crossings := by
  unfold quitRegen
  dsimp only
  split
  · rfl
  · split
    · rfl
    · split <;> rfl

theorem stopCtx_crossings (ctx : Nat) (s : State) : (stopCtx ctx s).crossings = s.crossings := by
  unfold stopCtx
  split
  · rfl
  · have hanswer (u : State) : (answerAllWaits ctx 8 u).crossings = u.crossings :=
      foldl_keeps State.crossings (fun _ _ => answerWaits_crossings _ _ _ _ _) _ u
    exact (foldl_keeps State.crossings (fun t g => quitRegen_crossings g t) _ _).trans (hanswer _)

theorem stopAll_crossings (s : State) : (stopAll s).crossings = s.crossings :=
  foldl_keeps State.crossings (fun t c => stopCtx_crossings c t) _ s

theorem stopAll_stopped (s : State) : (stopAll s).fw.noLaunch = true ∧ ∀ e ∈ (stopAll s).ctxs, e.2.stopped = true := by
  refine ⟨rfl, fun e he => ?_⟩
  obtain ⟨c, _, rfl⟩ := List.mem_map.mp he
  rfl

section
variable {s : State} {c : Nat} (hc : c < 8) {x : Crossing} (hx : Table.get Crossing.start c s.crossings = x) (hd : x.down = false)
include hc hx hd

/-- Fewer than 255 failures in a row: the replay is counted, and nothing else changes. -/
theorem exec_flitCrcReplay_up (hf : x.fails < 254) : exec (.flitCrcReplay c) s
    = .next { s with crossings := Table.set c (Crossing.replayed x) s.crossings } := by
  show execFlitCrcReplay c s = _
  have hy : (Crossing.replayed x).down = false := by simp [Crossing.replayed, hd, hf]
  unfold execFlitCrcReplay
  simp only [if_neg (Nat.not_le.mpr hc), hx, hy, Bool.false_and, Bool.false_eq_true, if_false]

/-- The 255th takes the crossing down, and every context with it. -/
theorem exec_flitCrcReplay_down (hf : 254 ≤ x.fails) : exec (.flitCrcReplay c) s
    = .next (stopAll { s with crossings := Table.set c (Crossing.replayed x) s.crossings }) := by
  show execFlitCrcReplay c s = _
  have hy : (Crossing.replayed x).down = true := by simp [Crossing.replayed, hf]
  unfold execFlitCrcReplay
  simp only [if_neg (Nat.not_le.mpr hc), hx, hy, hd, Bool.not_false, Bool.and_self, if_true]

end

/-- Settles O51: each message's handling is read off the equation of its step. -/
theorem holderMessages : Obligations.HolderMessages := by
  unfold Obligations.HolderMessages
  refine ⟨fun s k m hm ha hk hc hu _ => ?_, fun s k dd ex m l hm ha hk hc hu hl => ?_, fun s k sh m w hm ha hk hw hc => ?_,
    fun s k m w bs hm ha hk hw hd hl => ?_, fun s k m hm ha hk => exec_cohInvAck hm ha hk,
    fun s k m hm ha hk hb => exec_cohFwdAck hm ha hk hb, fun s home line d t ht ha hf => ⟨_, ackHome_last ht ha hf, rfl⟩,
    fun s k m hm ha hk => ?_, fun s c x hc hx hd => ?_⟩
  · exact ⟨_, exec_cohInv hm ha hc hu hk, by simp, by simp, by simp⟩
  · have hn : s.nextKey ≠ s.nextKey + 1 := by omega
    refine ⟨_, exec_cohFwd hm ha hc hu hk hl, by simp, by simp [Table.find_set_ne _ _ hn], ?_⟩
    cases ex <;> simp
  · refine ⟨_, exec_cohData hm ha hw hk hc, by simp, ?_⟩
    rw [die_modDie, die_takeMsg]
    exact Table.find_alter hw
  · exact ⟨_, exec_cohCmp hm ha hw hk hd hl, by simp, by simp, by simp⟩
  · exact ⟨_, exec_cohPutAck hm ha hk, by simp, by simp⟩
  · have hdown : (Crossing.replayed x).down = true ↔ 254 ≤ x.fails := by simp [Crossing.replayed, hd]
    by_cases hf : 254 ≤ x.fails
    · refine ⟨_, _, exec_flitCrcReplay_down hc hx hd hf, ?_, rfl, hdown, fun _ => stopAll_stopped _,
        fun h => absurd h (by omega)⟩
      rw [stopAll_crossings]
      exact Table.find_set _ _ _
    · exact ⟨_, _, exec_flitCrcReplay_up hc hx hd (by omega), Table.find_set _ _ _, rfl, hdown, fun h => absurd h hf,
        fun _ => ⟨rfl, rfl⟩⟩

end Sys2Proof.Machine

namespace Sys2Proof.Machine

/-! # Accesses where they are performed (spec/06_distributed_sram.md R133, R141, R143; spec/08_loads_stores_atomics.md R178 to R183) -/

/-! ## The operations and the bytes of a state -/

/-- `t` holds the operations `ops` and the slice bytes `m`; its other memories are those of `s`. -/
structure Becomes (s t : State) (ops : Table Op) (m : Table Byte) : Prop where
  dram : t.dram = s.dram
  hubSram : t.hubSram = s.hubSram
  ops : t.ops = ops
  sram : t.sram = m

/-- `t` holds the operations and the memories of `s`. -/
def SameBytes (s t : State) : Prop := Becomes s t s.ops s.sram

theorem SameBytes.refl (s : State) : SameBytes s s := ⟨rfl, rfl, rfl, rfl⟩

section
variable {s t u : State} {ops : Table Op} {m : Table Byte}

theorem SameBytes.becomes (h : SameBytes s u) (g : Becomes u t ops m) : Becomes s t ops m :=
  ⟨g.dram.trans h.dram, g.hubSram.trans h.hubSram, g.ops, g.sram⟩

theorem Becomes.same (h : Becomes s u ops m) (g : SameBytes u t) : Becomes s t ops m :=
  ⟨g.dram.trans h.dram, g.hubSram.trans h.hubSram, g.ops.trans h.ops, g.sram.trans h.sram⟩

end

theorem sameBytes_senseSram (g n : Nat) (s : State) : SameBytes s (senseSram g n s) := by
  unfold senseSram
  dsimp only
  split
  · exact .refl s
  · exact ⟨rfl, rfl, rfl, rfl⟩

theorem sameBytes_sensePartial (g h : Nat) (s : State) : SameBytes s (sensePartial g h s) := by
  have hfirst : SameBytes s (if g % 16 = 0 ∧ g / 16 * 16 + 16 ≤ h then s else senseSram (g / 16 * 16) 16 s) := by
    split
    · exact .refl s
    · exact sameBytes_senseSram _ _ s
  unfold sensePartial
  dsimp only
  split
  · exact hfirst
  · exact Becomes.same hfirst (sameBytes_senseSram _ _ _)

theorem sameBytes_touchSram (g n : Nat) (s : State) : SameBytes s (touchSram s g n) := by
  unfold touchSram
  dsimp only
  split
  · exact .refl s
  · exact ⟨rfl, rfl, rfl, rfl⟩

/-- A write at a slice stores its bytes there (R141); what else it does concerns marks, codes and watchers. -/
theorem writeSram_becomes (g : Nat) (bs : List Byte) (s : State) :
    Becomes s (writeSram s g bs) s.ops (Memory.store s.sram g bs) := by
  cases bs with
  | nil => exact SameBytes.refl s
  | cons x bs =>
    obtain ⟨hd, hh, ho, hm⟩ := sameBytes_sensePartial g (g + (x :: bs).length) s
    unfold writeSram
    simp only [List.isEmpty_cons, Bool.false_eq_true, if_false]
    split <;> exact ⟨hd, hh, ho, congrArg (Memory.store · g (x :: bs)) hm⟩

theorem sameBytes_goodFlits (cs : List Nat) (s : State) : SameBytes s (goodFlits cs s) := by
  unfold goodFlits
  split
  · exact .refl s
  · exact ⟨rfl, rfl, rfl, rfl⟩

theorem sameBytes_chargeRoute (a b : Nat) (s : State) : SameBytes s (chargeRoute a b s) := by
  unfold chargeRoute
  dsimp only
  split
  · exact .refl s
  · exact ⟨rfl, rfl, rfl, rfl⟩

theorem sameBytes_roomInL1 (core line : Nat) (s : State) : SameBytes s (roomInL1 core line s) := by
  unfold roomInL1
  dsimp only
  split
  · exact .refl s
  · split
    · exact ⟨rfl, rfl, rfl, rfl⟩
    · exact .refl s

theorem sameBytes_fillL1 (s : State) (core : Nat) (near : Bool) (line : Nat) (bs : List Byte) (p : BitVec 8) :
    SameBytes s (fillL1 s core near line bs p) := by
  unfold fillL1
  split
  · exact Becomes.same (sameBytes_roomInL1 core line s) ⟨rfl, rfl, rfl, rfl⟩
  · exact .refl s

/-! ## One access of an operation -/

theorem Op.lane_acc {o : Op} {l : Nat} {a : Acc} (h : Op.acc o l = some a) : a.lane = l := by
  simpa using List.find?_some h

/-- After a change to the access of a lane, every access of the lane is a changed one. -/
theorem Op.mem_setAcc {o : Op} {l : Nat} {f : Acc → Acc} {b : Acc} (hb : b ∈ (Op.setAcc o l f).accs)
    (hl : b.lane = l) : ∃ c, b = f c := by
  obtain ⟨c, -, rfl⟩ := List.mem_map.mp hb
  split at hl
  · exact ⟨c, if_pos ‹_›⟩
  · rename_i hc
    exact absurd (beq_iff_eq.mpr hl) hc

/-- The operations once the access of lane `l` in operation `k` has been performed with value `v`. -/
def opsPerformed (k l v : Nat) (ops : Table Op) : Table Op :=
  Table.alter k (fun p => Op.setAcc p l fun b => { b with stage := .performed, value := v }) ops

theorem Becomes.performed {s u : State} {m : Table Byte} (h : Becomes s u s.ops m) (k l v : Nat) :
    Becomes s (performed k l v u) (opsPerformed k l v s.ops) m :=
  ⟨h.dram, h.hubSram, congrArg (opsPerformed k l v) h.ops, h.sram⟩

theorem find_opsPerformed {k : Nat} {ops : Table Op} {o : Op} (h : Table.find k ops = some o) (l v : Nat) :
    ∃ p, Table.find k (opsPerformed k l v ops) = some p ∧ ∀ b ∈ p.accs, b.lane = l → b.stage = .performed ∧ b.value = v := by
  refine ⟨_, Table.find_alter h, fun b hb hl => ?_⟩
  obtain ⟨c, rfl⟩ := Op.mem_setAcc hb hl
  exact ⟨rfl, rfl⟩

/-! ## Values and bytes -/

theorem Memory.length_bytes (m : Table Byte) (a n : Nat) : (Memory.bytes m a n).length = n := by
  induction n generalizing a with
  | zero => rfl
  | succ n ih => rw [Memory.bytes, List.length_cons, ih]

theorem lowBytes_leNat (bs : List Byte) : lowBytes bs.length (leNat bs) = bs := by
  rw [← natLe_eq]
  induction bs with
  | nil => rfl
  | cons b bs ih =>
    have hb := b.isLt
    rw [List.length_cons, leNat, natLe, show (b.toNat + 256 * leNat bs) / 256 = leNat bs by omega, ih]
    refine congrArg (· :: bs) (BitVec.eq_of_toNat_eq ?_)
    rw [BitVec.toNat_ofNat]
    omega

theorem lowBytes_length (z v : Nat) : (lowBytes z v).length = z := by simp [lowBytes]

/-- Bytes stored stand where they were stored, and every other byte stands as it was. -/
theorem Memory.read_store_all (m : Table Byte) (g : Nat) (bs : List Byte) :
    (∀ i < bs.length, Memory.read (Memory.store m g bs) (g + i) = bs.getD i 0)
      ∧ ∀ b, b < g ∨ g + bs.length ≤ b → Memory.read (Memory.store m g bs) b = Memory.read m b := by
  refine ⟨fun i hi => ?_, fun b hb => Memory.read_store_ne hb⟩
  rw [Memory.read_store hi, List.getD_eq_getElem _ _ hi]

/-- The bytes an atomic writes are those of R182; it writes none only where the old value is the new one. -/
theorem atomicBytes_cases (op : AOp) (sg : Bool) (a : Acc) (old : Nat) :
    atomicBytes op sg a old = some (lowBytes a.size (atomicResult op sg a.size old (leNat a.data) (leNat a.cmp)))
      ∨ atomicBytes op sg a old = none ∧ atomicResult op sg a.size old (leNat a.data) (leNat a.cmp) = old := by
  unfold atomicBytes
  cases op with
  | cas =>
    by_cases h : old = leNat a.cmp
    · exact .inl (by simp [atomicNew, atomicResult, natLe_eq, if_pos h])
    · exact .inr (by simp [atomicNew, atomicResult, if_neg h])
  | _ => exact .inl (by simp only [atomicNew, atomicResult, Option.map_some, natLe_eq, val_eq])

/-! ## An access at its slice (R133, R141) -/

section
variable {s : State} {k g : Nat} {o : Op} {a : Acc} (hn : notOwned s o a g = none)
include hn

theorem performSram_store (hk : o.kind = .store) :
    Becomes s (performSram k o a g s) (opsPerformed k a.lane 0 s.ops) (Memory.store s.sram g a.data) := by
  unfold performSram
  simp only [hn, hk]
  exact (writeSram_becomes g a.data s).performed k a.lane 0

variable (hm : sramMarked s g a.size = none)
include hm

theorem performSram_load {r n : Nat} {sg : Bool} (hk : o.kind = .load r n sg) :
    Becomes s (performSram k o a g s) (opsPerformed k a.lane (leNat (Memory.bytes s.sram g a.size)) s.ops) s.sram := by
  have hs := sameBytes_senseSram g a.size s
  unfold sramMarked at hm
  unfold performSram readSram
  simp only [hn, hk, hm, hs.sram]
  exact hs.performed k a.lane _

theorem performSram_atomic {op : AOp} {sg : Bool} {ret : Option Nat} (hk : o.kind = .atomic op sg ret) {old : Nat}
    (hold : old = leNat (Memory.bytes s.sram g a.size)) :
    ∃ m, Becomes s (performSram k o a g s) (opsPerformed k a.lane old s.ops) m
      ∧ Memory.bytes m g a.size = lowBytes a.size (atomicResult op sg a.size old (leNat a.data) (leNat a.cmp))
      ∧ ∀ b, b < g ∨ g + a.size ≤ b → Memory.read m b = Memory.read s.sram b := by
  have hs := sameBytes_senseSram g a.size s
  unfold sramMarked at hm
  unfold performSram readSram
  simp only [hn, hk, hm, hs.sram, ← hold]
  rcases atomicBytes_cases op sg a old with hnew | ⟨hnone, hsame⟩
  · have hw := SameBytes.becomes hs (writeSram_becomes g
      (lowBytes a.size (atomicResult op sg a.size old (leNat a.data) (leNat a.cmp))) (senseSram g a.size s))
    rw [hs.ops, hs.sram] at hw
    simp only [hnew]
    refine ⟨_, hw.performed k a.lane old, ?_, fun b hb => Memory.read_store_ne (by rwa [lowBytes_length])⟩
    have hread := Memory.bytes_store s.sram g (lowBytes a.size (atomicResult op sg a.size old (leNat a.data) (leNat a.cmp)))
    rwa [lowBytes_length] at hread
  · simp only [hnone]
    refine ⟨_, (Becomes.same hs (sameBytes_touchSram g a.size _)).performed k a.lane old, ?_, fun b _ => rfl⟩
    have hback := lowBytes_leNat (Memory.bytes s.sram g a.size)
    rw [Memory.length_bytes] at hback
    rw [hsame, hold, hback]

end

/-! ## The step that performs an access -/

/-- A load, a store, an ATOM or a RED. -/
def OpKind.isAccess : OpKind → Bool
  | .load .. | .store | .atomic .. => true
  | _ => false

/-- The step that takes an access towards its end: that by which a result lands, or that by which a write is acknowledged. -/
def finishStep (kind : OpKind) (k l : Nat) : Instr :=
  if OpKind.hasResult kind then .longLatencyResultLands k l else .storeAcknowledge k l

/-- How the access of lane `l` comes to be performed at the slice of `g`: by its own step where the slice is its core's, by
its arrival where it is not (R143). -/
def AtSlice (s : State) (k l g : Nat) (o : Op) (a : Acc) (i : Instr) : Prop :=
  (a.stage = .waiting ∧ ownSlice o g = true ∧ mayPerform s o a = true ∧ i = finishStep o.kind k l)
    ∨ ∃ n, a.stage = .sent n ∧ routeUp s (o.band / 1024) (g / 2 ^ 30) = true
      ∧ behindSent s (o.band / 1024) (some (o.band / 64)) g n = false ∧ i = .sramRemoteAccess k l

/-- Flits that arrive whole change no owner and no mark. -/
theorem notOwned_goodFlits (cs : List Nat) (s : State) (o : Op) (a : Acc) (g : Nat) :
    notOwned (goodFlits cs s) o a g = notOwned s o a g := by
  unfold goodFlits
  split <;> rfl

theorem sramMarked_goodFlits (cs : List Nat) (s : State) (g n : Nat) : sramMarked (goodFlits cs s) g n = sramMarked s g n := by
  unfold goodFlits
  split
  · rfl
  · unfold sramMarked senseSram
    dsimp only
    split <;> rfl

section
variable {s : State} {k l : Nat} {o : Op} {a : Acc} (ho : Table.find k s.ops = some o) (ha : Op.acc o l = some a)
include ho ha

theorem exec_finishStep (hk : OpKind.isAccess o.kind = true) : exec (finishStep o.kind k l) s = .next (stepAcc k o a s) := by
  have hlands : exec (.longLatencyResultLands k l) s = execLongLatencyResultLands k l s := rfl
  have hacks : exec (.storeAcknowledge k l) s = execStoreAcknowledge k l s := rfl
  unfold finishStep
  cases hkind : o.kind with
  | load r n sg => simp [OpKind.hasResult, hlands, execLongLatencyResultLands, ho, ha, hkind]
  | store => simp [OpKind.hasResult, hacks, execStoreAcknowledge, ho, ha, hkind]
  | atomic op sg ret =>
    cases ret with
    | none => simp [OpKind.hasResult, hacks, execStoreAcknowledge, ho, ha, hkind]
    | some r => simp [OpKind.hasResult, hlands, execLongLatencyResultLands, ho, ha, hkind]
  | _ => simp [hkind, OpKind.isAccess] at hk

section
variable (hk : OpKind.isAccess o.kind = true) (hw : a.stage = .waiting) (hmay : mayPerform s o a = true)
include hk hw hmay

theorem exec_finishStep_own {g : Nat} (hp : a.place = .sram g) (hown : ownSlice o g = true) :
    exec (finishStep o.kind k l) s = .next (performSram k o a g s) := by
  rw [exec_finishStep ho ha hk]
  simp only [stepAcc, hw, hmay, hp, hown, if_true]

theorem exec_finishStep_mem {c : Nat} (hp : a.place = .mem c) :
    exec (finishStep o.kind k l) s = .next (performMem k o a c s) := by
  rw [exec_finishStep ho ha hk]
  simp only [stepAcc, hw, hmay, hp, if_true]

end

section
variable {g : Nat} (hp : a.place = .sram g)
include hp

/-- An access to the slice of another core leaves (R143). -/
theorem exec_sramRemoteAccess_leaves (hw : a.stage = .waiting) (hown : ownSlice o g = false)
    (ht : OpKind.ofTile o.kind = false) (hmay : mayPerform s o a = true) (hb : behindMessage s o a g = false) :
    exec (.sramRemoteAccess k l) s = .next (chargeRoute (o.band / 1024) (g / 2 ^ 30)
      (State.modOp { s with nextKey := s.nextKey + 1 } k fun p => Op.setAcc p l fun b => { b with stage := .sent s.nextKey })) := by
  change execSramRemoteAccess k l s = _
  unfold execSramRemoteAccess
  simp [ho, ha, hp, hw, hown, ht, hmay, hb]

/-- What has been sent arrives, and is performed at its slice (R143). -/
theorem exec_sramRemoteAccess_arrives {n : Nat} (hst : a.stage = .sent n)
    (hr : routeUp s (o.band / 1024) (g / 2 ^ 30) = true) (hb : behindSent s (o.band / 1024) (some (o.band / 64)) g n = false) :
    exec (.sramRemoteAccess k l) s = .next (chargeRoute (g / 2 ^ 30) (o.band / 1024)
      (performSram k o a g (goodFlits (crossingsOf (o.band / 1024) (g / 2 ^ 30)) s))) := by
  change execSramRemoteAccess k l s = _
  unfold execSramRemoteAccess
  simp only [ho, ha, hp, hst, hr, hb, Bool.not_false, Bool.and_self, if_true]

/-- Either way the access is performed on the bytes, the owner and the marks that stand. -/
theorem exec_atSlice (hk : OpKind.isAccess o.kind = true) {i : Instr} (hi : AtSlice s k l g o a i) :
    ∃ u t, exec i s = .next t ∧ SameBytes s u ∧ notOwned u o a g = notOwned s o a g
      ∧ sramMarked u g a.size = sramMarked s g a.size ∧ SameBytes (performSram k o a g u) t := by
  obtain ⟨hw, hown, hmay, rfl⟩ | ⟨n, hst, hr, hb, rfl⟩ := hi
  · exact ⟨s, _, exec_finishStep_own ho ha hk hw hmay hp hown, .refl s, rfl, rfl, .refl _⟩
  · exact ⟨_, _, exec_sramRemoteAccess_arrives ho ha hp hst hr hb, sameBytes_goodFlits _ s, notOwned_goodFlits _ s o a g,
      sramMarked_goodFlits _ s g a.size, sameBytes_chargeRoute _ _ _⟩

section
variable (hn : notOwned s o a g = none) {i : Instr} (hi : AtSlice s k l g o a i)
include hn hi

/-- A store writes its bytes at its slice, and nowhere else (R141). -/
theorem exec_store_atSlice (hk : o.kind = .store) :
    ∃ t, exec i s = .next t ∧ Becomes s t (opsPerformed k l 0 s.ops) (Memory.store s.sram g a.data) := by
  obtain ⟨u, t, he, hu, hown, -, ht⟩ := exec_atSlice ho ha hp (by rw [hk]; rfl) hi
  have hw := SameBytes.becomes hu ((performSram_store (k := k) (hown.trans hn) hk).same ht)
  rw [hu.ops, hu.sram, Op.lane_acc ha] at hw
  exact ⟨t, he, hw⟩

variable (hm : sramMarked s g a.size = none)
include hm

/-- A load reads its bytes at its slice, and changes none (R141, R178). -/
theorem exec_load_atSlice {r n : Nat} {sg : Bool} (hk : o.kind = .load r n sg) :
    ∃ t, exec i s = .next t ∧ Becomes s t (opsPerformed k l (leNat (Memory.bytes s.sram g a.size)) s.ops) s.sram := by
  obtain ⟨u, t, he, hu, hown, hmark, ht⟩ := exec_atSlice ho ha hp (by rw [hk]; rfl) hi
  have hl := SameBytes.becomes hu ((performSram_load (k := k) (hown.trans hn) (hmark.trans hm) hk).same ht)
  rw [hu.ops, hu.sram, Op.lane_acc ha] at hl
  exact ⟨t, he, hl⟩

/-- An atomic reads the old value at its slice and leaves the new one (R182). -/
theorem exec_atomic_atSlice {op : AOp} {sg : Bool} {ret : Option Nat} (hk : o.kind = .atomic op sg ret) {old : Nat}
    (hold : old = leNat (Memory.bytes s.sram g a.size)) :
    ∃ t m, exec i s = .next t ∧ Becomes s t (opsPerformed k l old s.ops) m
      ∧ Memory.bytes m g a.size = lowBytes a.size (atomicResult op sg a.size old (leNat a.data) (leNat a.cmp))
      ∧ ∀ b, b < g ∨ g + a.size ≤ b → Memory.read m b = Memory.read s.sram b := by
  obtain ⟨u, t, he, hu, hown, hmark, ht⟩ := exec_atSlice ho ha hp (by rw [hk]; rfl) hi
  rw [← hu.sram] at hold
  obtain ⟨m, hmem, hnew, hrest⟩ := performSram_atomic (k := k) (hown.trans hn) (hmark.trans hm) hk hold
  have hat := SameBytes.becomes hu (hmem.same ht)
  rw [hu.ops, Op.lane_acc ha] at hat
  rw [hu.sram] at hrest
  exact ⟨t, m, he, hat, hnew, hrest⟩

end
end
end

/-! ## An access in the L2 of its die (R123, R179) -/

theorem ownedLine_of_m {s : State} {die line : Nat} {y : Line} (hy : Table.find line (State.die s die).l2 = some y)
    (hm : y.st = .m) : ownedLine s die line = some y := by
  unfold ownedLine
  simp [hy, hm]

theorem sameBytes_storeLine (s : State) (core c : Nat) (y : Line) (bs : List Byte) : SameBytes s (storeLine s core c y bs) :=
  ⟨rfl, rfl, rfl, rfl⟩

/-- The die holds the line in M with bytes `bs`, and its other lines as before. -/
def LineBecomes (s t : State) (die line : Nat) (bs : List Byte) : Prop :=
  ∃ z, Table.find line (State.die t die).l2 = some z ∧ z.st = .m ∧ z.bytes = bs
    ∧ ∀ j, j ≠ line → Table.find j (State.die t die).l2 = Table.find j (State.die s die).l2

theorem lineBecomes_storeLine (s : State) (core c : Nat) (y : Line) (bs : List Byte) :
    LineBecomes s (storeLine s core c y bs) (core / 16) (c / 128)
      (y.bytes.take (c % 128) ++ bs ++ y.bytes.drop (c % 128 + bs.length)) := by
  have hl2 : (State.die (storeLine s core c y bs) (core / 16)).l2 = Table.set (c / 128)
      ⟨.m, (mergeLine y.bytes y.poison (c % 128) bs).1, (mergeLine y.bytes y.poison (c % 128) bs).2⟩
      (State.die s (core / 16)).l2 :=
    congrArg Die.l2 (die_modDie s (core / 16) fun d => { d with l2 := Table.set (c / 128) ⟨.m, _, _⟩ d.l2 })
  unfold LineBecomes
  rw [hl2]
  exact ⟨_, Table.find_set _ _ _, rfl, rfl, fun j hj => Table.find_set_ne _ _ hj⟩

/-- Part of a line put back where it was read leaves the line. -/
theorem take_append_window {α : Type} (xs : List α) (c n : Nat) :
    xs.take c ++ (xs.drop c).take n ++ xs.drop (c + n) = xs := by
  rw [List.append_assoc, ← List.drop_drop, List.take_append_drop, List.take_append_drop]

/-- The end of an access concerns its band and its operation alone. -/
theorem endAcc_frame (k l : Nat) (s : State) :
    endAcc k l s = { s with ops := (endAcc k l s).ops, bands := (endAcc k l s).bands } := by
  unfold endAcc settle
  split
  · rfl
  · split
    · rw [countDown_frame]
      rfl
    · rfl

section
variable {s : State} {k c : Nat} {o : Op} {a : Acc} {y : Line}
  (hy : Table.find (c / 128) (State.die s (o.band / 64 / 16)).l2 = some y)
include hy

/-- A load reads an L2 line in any state, where the L1 does not serve it (R179). -/
theorem performMem_load {r n : Nat} {sg : Bool} (hk : o.kind = .load r n sg)
    (h1 : nearRead s o = true → Table.find (c / 128) (State.core s (o.band / 64)).l1 = none)
    (hpo : poisonAt y.poison (c % 128) a.size = none) :
    Becomes s (performMem k o a c s) (opsPerformed k a.lane (leNat ((y.bytes.drop (c % 128)).take a.size)) s.ops) s.sram := by
  have hline : loadLine s (o.band / 64) (nearRead s o) (c / 128) = some (y.bytes, y.poison, false) := by
    have hmiss : (if nearRead s o then Table.find (c / 128) (State.core s (o.band / 64)).l1 else none) = none := by
      split
      · exact h1 ‹_›
      · rfl
    unfold loadLine
    rw [hmiss, hy]
    rfl
  unfold performMem
  simp only [hk, hline, hpo, Bool.false_eq_true, if_false]
  exact (sameBytes_fillL1 s _ _ _ _ _).performed k a.lane _

variable (hst : y.st = .m)
include hst

/-- A store merges its bytes into the line that its die holds in M (R123). -/
theorem performMem_store (hk : o.kind = .store) :
    (performMem k o a c s).dram = s.dram ∧ (performMem k o a c s).sram = s.sram
      ∧ LineBecomes s (performMem k o a c s) (o.band / 64 / 16) (c / 128)
          (y.bytes.take (c % 128) ++ a.data ++ y.bytes.drop (c % 128 + a.data.length)) := by
  unfold performMem
  simp only [hk, ownedLine_of_m hy hst]
  rw [endAcc_frame]
  exact ⟨rfl, rfl, lineBecomes_storeLine s (o.band / 64) c y a.data⟩

/-- An atomic reads the old value in the line that its die holds in M, and leaves the new one there (R182). -/
theorem performMem_atomic {op : AOp} {sg : Bool} {ret : Option Nat} (hk : o.kind = .atomic op sg ret)
    (hpo : poisonAt y.poison (c % 128) a.size = none) (hlen : y.bytes.length = 128) (hfit : c % 128 + a.size ≤ 128) {old : Nat}
    (hold : old = leNat ((y.bytes.drop (c % 128)).take a.size)) :
    Becomes s (performMem k o a c s) (opsPerformed k a.lane old s.ops) s.sram
      ∧ LineBecomes s (performMem k o a c s) (o.band / 64 / 16) (c / 128)
          (y.bytes.take (c % 128) ++ lowBytes a.size (atomicResult op sg a.size old (leNat a.data) (leNat a.cmp))
            ++ y.bytes.drop (c % 128 + a.size)) := by
  unfold performMem
  simp only [hk, ownedLine_of_m hy hst, hpo, ← hold]
  rcases atomicBytes_cases op sg a old with hnew | ⟨hnone, hsame⟩
  · simp only [hnew]
    have hline := lineBecomes_storeLine s (o.band / 64) c y
      (lowBytes a.size (atomicResult op sg a.size old (leNat a.data) (leNat a.cmp)))
    rw [lowBytes_length] at hline
    exact ⟨(sameBytes_storeLine s _ c y _).performed k a.lane old, hline⟩
  · have hwindow : ((y.bytes.drop (c % 128)).take a.size).length = a.size := by
      rw [List.length_take, List.length_drop]
      omega
    have hback := lowBytes_leNat ((y.bytes.drop (c % 128)).take a.size)
    rw [hwindow, ← hold] at hback
    simp only [hnone, hsame, hback, take_append_window]
    exact ⟨(SameBytes.refl s).performed k a.lane old, y, hy, hst, rfl, fun _ _ => rfl⟩

end

/-- Settles O45: a slice's access is performed by its own step or on arrival alike, and an L2's by its own step. -/
theorem sramAccess : Obligations.SramAccess := by
  unfold Obligations.SramAccess
  refine ⟨fun s k l g o a ho ha hp hk hn => ?_, fun s k l g r n sg o a ho ha hp hk hn hm => ?_,
    fun s k l g o a ho ha hp hw hown htile hmay hb => ?_,
    fun s k l g op sg ret o a old ho ha hp hk hn hm _ _ _ hold i hi => ?_,
    fun s k l c o a y ho ha hp hw hmay hy => ⟨fun r n sg hk h1 hpo => ?_, fun hk hst => ?_,
      fun op sg ret old hk hst hpo hlen hfit _ _ _ hold => ?_⟩⟩
  · have hstore (i : Instr) (hi : AtSlice s k l g o a i) : ∃ t, exec i s = .next t ∧ t.dram = s.dram ∧ t.hubSram = s.hubSram
        ∧ (∀ i < a.data.length, Memory.read t.sram (g + i) = a.data.getD i 0)
        ∧ (∀ b, b < g ∨ g + a.data.length ≤ b → Memory.read t.sram b = Memory.read s.sram b) := by
      obtain ⟨t, he, ht⟩ := exec_store_atSlice ho ha hp hn hi hk
      exact ⟨t, he, ht.dram, ht.hubSram, ht.sram ▸ Memory.read_store_all s.sram g a.data⟩
    exact ⟨fun hw hown hmay => hstore _ (.inl ⟨hw, hown, hmay, by rw [hk]; rfl⟩),
      fun n hst hr hb => hstore _ (.inr ⟨n, hst, hr, hb, rfl⟩)⟩
  · have hload (i : Instr) (hi : AtSlice s k l g o a i) : ∃ t o', exec i s = .next t ∧ t.sram = s.sram ∧ t.dram = s.dram
        ∧ Table.find k t.ops = some o'
        ∧ ∀ b ∈ o'.accs, b.lane = l → b.stage = .performed ∧ b.value = leNat (Memory.bytes s.sram g a.size) := by
      obtain ⟨t, he, ht⟩ := exec_load_atSlice ho ha hp hn hi hm hk
      obtain ⟨p, hfind, hacc⟩ := find_opsPerformed ho l (leNat (Memory.bytes s.sram g a.size))
      exact ⟨t, p, he, ht.sram, ht.dram, ht.ops ▸ hfind, hacc⟩
    exact ⟨fun hw hown hmay => hload _ (.inl ⟨hw, hown, hmay, by rw [hk]; rfl⟩),
      fun m hst hr hb => hload _ (.inr ⟨m, hst, hr, hb, rfl⟩)⟩
  · have hsame := sameBytes_chargeRoute (o.band / 1024) (g / 2 ^ 30) (State.modOp { s with nextKey := s.nextKey + 1 } k fun p =>
      Op.setAcc p l fun b => { b with stage := .sent s.nextKey })
    refine ⟨_, _, exec_sramRemoteAccess_leaves ho ha hp hw hown htile hmay hb, hsame.sram, hsame.dram,
      (congrArg (Table.find k) hsame.ops).trans (find_modOp (s := { s with nextKey := s.nextKey + 1 }) _ ho), fun b hb hl => ?_⟩
    obtain ⟨c, rfl⟩ := Op.mem_setAcc hb hl
    rfl
  · have hi : AtSlice s k l g o a i := by
      unfold AtSlice
      rwa [hk]
    obtain ⟨t, m, he, ht, hnew, hrest⟩ := exec_atomic_atSlice ho ha hp hn hi hm hk hold
    obtain ⟨p, hfind, hacc⟩ := find_opsPerformed ho l old
    exact ⟨t, p, he, ht.dram, ht.hubSram, ht.ops ▸ hfind, hacc, ht.sram ▸ hnew, ht.sram ▸ hrest⟩
  · have he := exec_finishStep_mem ho ha (by rw [hk]; rfl) hw hmay hp
    have ht := performMem_load (k := k) (a := a) hy hk h1 hpo
    obtain ⟨p, hfind, hacc⟩ := find_opsPerformed ho l (leNat ((y.bytes.drop (c % 128)).take a.size))
    rw [hk] at he
    rw [Op.lane_acc ha] at ht
    exact ⟨_, p, he, ht.dram, ht.sram, ht.ops ▸ hfind, hacc⟩
  · have he := exec_finishStep_mem ho ha (by rw [hk]; rfl) hw hmay hp
    obtain ⟨hdram, hsram, z, hline⟩ := performMem_store (k := k) (a := a) hy hst hk
    rw [hk] at he
    exact ⟨_, z, he, hdram, hsram, hline⟩
  · have he := exec_finishStep_mem ho ha (by rw [hk]; rfl) hw hmay hp
    obtain ⟨ht, z, hline⟩ := performMem_atomic (k := k) hy hst hk hpo hlen hfit hold
    obtain ⟨p, hfind, hacc⟩ := find_opsPerformed ho l old
    rw [hk] at he
    rw [Op.lane_acc ha] at ht
    exact ⟨_, z, p, he, ht.dram, ht.sram, ht.ops ▸ hfind, hacc, hline⟩

end Sys2Proof.Machine

namespace Sys2Proof.Machine

/-! # Engine instructions post their commands (spec/07_copy_engines.md R151, R152; spec/13_encke_product_key.md R308) -/

/-- Each copy instruction issues in one shell, its opcode beside its operands (R150). -/
theorem exec_of_copyKind {i : Instr} {op : Nat} {o : OpCopy} (h : copyKind i = some (op, o)) (s : State) :
    exec i s = copyIssue i op o s := by
  unfold copyKind at h
  split at h
  on_goal -1 => exact nomatch h
  all_goals
    cases h
    rfl

/-- So does each Encke instruction, its kind beside its operands (R306). -/
theorem exec_of_enckeKind {i : Instr} {k : EkKind} {o : OpEncke} (h : enckeKind i = some (k, o)) (s : State) :
    exec i s = enckeIssue i k o s := by
  unfold enckeKind at h
  split at h
  on_goal -1 => exact nomatch h
  all_goals
    cases h
    rfl

/-- A group that posts its command stays at its instruction: its offer stands at the engine, its price is given back, and none
of its lanes goes on (R152, R308, R405). -/
theorem issueWith_postOffer {i : Instr} {own : Own} {s : State} {iss : Issue} {x : Ix} (put : Offer → State → State)
    (hg : Goes i own s iss x) (hr : x.replay = none) :
    issueWith i own (fun x s => postOffer i x put s) s = .next (afterIssue i iss x []
      (put ⟨x.key, maskOf x.sel, x.pc, x.hdr, i, s.nextKey, iss.grp.price⟩ { refund iss s with nextKey := s.nextKey + 1 })) := by
  have hpost : postOffer i x put s = ⟨put ⟨x.key, maskOf x.sel, x.pc, x.hdr, i, s.nextKey, iss.grp.price⟩
      { refund iss s with nextKey := s.nextKey + 1 }, [], x.sel⟩ := by
    unfold postOffer
    rw [hg.issue]
  have hstay : (x.sel.filter fun l => !x.sel.elem l) = [] := by simp
  rw [issueWith_of_moved hg (by rw [beginReplay_none hr, hpost]), beginReplay_none hr, hpost, hstay]

/-- The source comes first among the values of a copy instruction that must be multiples of 4 (R151). -/
theorem copyCause_source {op : Nat} {o : OpCopy} {x : Ix} (h : copySa o x % 4 ≠ 0) (s : State) (l : Nat) :
    copyCause op o x s l = some (causeMisaligned, BitVec.ofNat 64 (copySa o x)) := if_pos h

/-- Settles O28: both families issue in one shell, whose effect is to post the offer. -/
theorem enginePosts : Obligations.EnginePosts := by
  unfold Obligations.EnginePosts
  refine ⟨fun i op o s iss x hi hg hr => ?_, fun i k o s iss x hi hg hr => ?_, fun op o s x l h => copyCause_source h s l⟩
  · rw [exec_of_copyKind hi, copyIssue, issueWith_postOffer putCopyOffer hg hr]
    rfl
  · rw [exec_of_enckeKind hi, enckeIssue, issueWith_postOffer putEnckeOffer hg hr]
    rfl

end Sys2Proof.Machine

namespace Sys2Proof.Machine

/-! # The copy engine (spec/07_copy_engines.md R152, R158, R160, R166, R167, R169) -/

/-! ## What the traffic of slices leaves of the engines -/

/-- `t` holds the copy commands, the locks and the teams of `s`. -/
structure SameCommands (s t : State) : Prop where
  copy : ∀ core, (State.core t core).copy = (State.core s core).copy
  locks : ∀ core, (State.core t core).locks = (State.core s core).locks
  teams : t.teams = s.teams

theorem SameCommands.refl (s : State) : SameCommands s s := ⟨fun _ => rfl, fun _ => rfl, rfl⟩

theorem SameCommands.trans {s t u : State} (h : SameCommands s t) (g : SameCommands t u) : SameCommands s u where
  copy core := (g.copy core).trans (h.copy core)
  locks core := (g.locks core).trans (h.locks core)
  teams := g.teams.trans h.teams

/-- A change of one core that keeps its commands and its locks. -/
theorem SameCommands.modCore {s t : State} (h : SameCommands s t) (c : Nat) {f : Core → Core}
    (hcopy : ∀ k, (f k).copy = k.copy) (hlocks : ∀ k, (f k).locks = k.locks) : SameCommands s (State.modCore t c f) := by
  refine h.trans ⟨fun core => ?_, fun core => ?_, rfl⟩ <;> by_cases e : core = c
  · rw [e, core_modCore, hcopy]
  · rw [core_modCore_ne _ _ e]
  · rw [e, core_modCore, hlocks]
  · rw [core_modCore_ne _ _ e]

theorem sameCommands_senseSram (g n : Nat) (s : State) : SameCommands s (senseSram g n s) := by
  unfold senseSram
  dsimp only
  split
  · exact .refl s
  · refine SameCommands.modCore ?_ _ ?_ ?_
    exacts [⟨fun _ => rfl, fun _ => rfl, rfl⟩, fun _ => rfl, fun _ => rfl]

theorem sameCommands_sensePartial (g h : Nat) (s : State) : SameCommands s (sensePartial g h s) := by
  have hfirst : SameCommands s (if g % 16 = 0 ∧ g / 16 * 16 + 16 ≤ h then s else senseSram (g / 16 * 16) 16 s) := by
    split
    · exact .refl s
    · exact sameCommands_senseSram _ _ s
  unfold sensePartial
  dsimp only
  split
  · exact hfirst
  · exact hfirst.trans (sameCommands_senseSram _ _ _)

theorem sameCommands_writeSram (g : Nat) (bs : List Byte) (s : State) : SameCommands s (writeSram s g bs) := by
  unfold writeSram
  split
  · exact .refl s
  · obtain ⟨hcopy, hlocks, hteams⟩ := sameCommands_sensePartial g (g + bs.length) s
    dsimp only
    split
    · exact ⟨hcopy, hlocks, hteams⟩
    · refine SameCommands.modCore ?_ _ ?_ ?_
      exacts [⟨hcopy, hlocks, hteams⟩, fun _ => rfl, fun _ => rfl]

theorem sameCommands_chargeRoute (a b : Nat) (s : State) : SameCommands s (chargeRoute a b s) := by
  unfold chargeRoute
  dsimp only
  split <;> exact ⟨fun _ => rfl, fun _ => rfl, rfl⟩

/-! ## Counters and latches touch no core -/

theorem core_countUp (key : Nat) (dc : Dc) (s : State) (core : Nat) : State.core (countUp key dc s) core = State.core s core := by
  cases dc <;> rfl

theorem core_countDown (key : Nat) (dc : Dc) (s : State) (core : Nat) :
    State.core (countDown key dc s) core = State.core s core := by
  cases dc <;> rfl

theorem core_latchError (key : Nat) (dc : Dc) (m addr : Dword) (cause : Nat) (s : State) (core : Nat) :
    State.core (latchError key dc m addr cause s) core = State.core s core := by
  cases dc <;> rfl

/-! ## What the code of a slice finds (R141) -/

/-- What the code of a slice finds depends on its marks and its errors alone (R141). -/
theorem sramMarked_congr {s t : State} (hp : t.sramPoison = s.sramPoison) (hf : t.sramFlips = s.sramFlips) (g n : Nat) :
    sramMarked t g n = sramMarked s g n := by
  unfold sramMarked sramPoisoned senseSram
  simp only [hp, hf]
  split
  · simp only [hp]
  · rfl

theorem sramMarked_chargeRoute (a b : Nat) (s : State) (g n : Nat) : sramMarked (chargeRoute a b s) g n = sramMarked s g n := by
  unfold chargeRoute
  dsimp only
  split
  · rfl
  · apply sramMarked_congr <;> rfl

/-! ## Acceptance (R152, R153) -/

/-- Reading a descriptor counts what its code finds; commands, locks and DRAM stand (R141). -/
theorem senseDesc_frame (op : Nat) (o : OpCopy) (x : Ix) (s : State) :
    SameCommands s (senseDesc op o x s) ∧ (senseDesc op o x s).dram = s.dram := by
  unfold senseDesc
  split
  · exact ⟨.refl s, rfl⟩
  · split
    · exact ⟨sameCommands_senseSram _ _ s, (sameBytes_senseSram _ _ s).dram⟩
    · exact ⟨.refl s, rfl⟩

/-- A command that passes its checks takes its slot and its locks, and its counter rises. -/
theorem acceptCopy_of_checked {slot op : Nat} {o : OpCopy} {x : Ix} {c : Checked} {s : State}
    (h : copyCheck (senseDesc op o x s) op o x = .inl c) :
    (acceptCopy op o slot x s).s = countUp x.key (some o.dc)
      (State.modCore { senseDesc op o x s with nextKey := (senseDesc op o x s).nextKey + 1 } (Ix.core x) fun k =>
        { k with copy := Table.set slot (copyCommand op o x c (senseDesc op o x s).nextKey) k.copy
                 locks := k.locks ++ Extent.locks slot false c.src ++ Extent.locks slot true c.dst }) := by
  unfold acceptCopy
  dsimp only
  rw [h]

/-- The core of an accepted command holds it in its slot, and its locks behind the earlier ones. -/
theorem core_acceptCopy {slot op : Nat} {o : OpCopy} {x : Ix} {c : Checked} {s : State}
    (h : copyCheck (senseDesc op o x s) op o x = .inl c) :
    State.core (acceptCopy op o slot x s).s (Ix.core x) = { State.core (senseDesc op o x s) (Ix.core x) with
      copy := Table.set slot (copyCommand op o x c (senseDesc op o x s).nextKey) (State.core (senseDesc op o x s) (Ix.core x)).copy
      locks := (State.core (senseDesc op o x s) (Ix.core x)).locks ++ Extent.locks slot false c.src
        ++ Extent.locks slot true c.dst } := by
  rw [acceptCopy_of_checked h, core_countUp, core_modCore]
  rfl

/-- The engine's first offer that can be accepted leaves the queue and completes its issue. -/
theorem exec_copyAccept {s s1 : State} {core op slot : Nat} {o : Offer} {c : OpCopy} {x : Ix} (hcore : core < 64)
    (h1 : s1 = State.modCore s core fun k => { k with offers := k.offers.filter fun o => (offerIx s o).isSome })
    (hfind : (State.core s1 core).offers.find? (copyReady s1) = some o) (hx : offerIx s1 o = some x)
    (hkind : copyKind o.instr = some (op, c)) (hslot : freeSlot (State.core s1 core) = some slot) :
    exec (.copyAccept core) s = .next (perform o.instr (copyCause op c) (acceptCopy op c slot) (offerIssue o) x
      (chargeCore core o.price (State.modCore s1 core fun k => { k with offers := k.offers.erase o }))) := by
  show execCopyAccept core s = _
  unfold execCopyAccept
  rw [if_neg (Nat.not_le.mpr hcore), ← h1]
  simp only [hfind, hx, hkind, hslot]

/-! ## A step of an attempt at a unit (R158, R166) -/

section
variable {s : State} {core slot : Nat} {c : CopyCmd} {b : Band} {y : Team} {g : Grid} (hcore : core < 64)
  (hcmd : Table.find slot (State.core s core).copy = some c) (hhome : State.home s c.band = some (b, y, g))
include hcore hcmd hhome

/-- A command at work on no unit, which nothing holds, begins one where its core can pay for it. -/
theorem exec_copyUnit_idle (hwork : c.work = none) (hpark : c.parked = false) (hp : c.p < unitCount c)
    (hwait : mustWait (State.core s core) slot c = false) (hmark : marked s c.team = false) :
    exec (.copyUnit core slot) s
      = .next (if (State.core s core).bucket < 24 then s else beginUnit core slot y g c s) := by
  show execCopyUnit core slot s = _
  unfold execCopyUnit
  rw [if_neg (Nat.not_le.mpr hcore)]
  simp only [hcmd, hhome, hwork, hpark, hwait, hmark, decide_eq_false (Nat.not_le.mpr hp), Bool.false_or, decide_eq_true_eq]
  split <;> rfl

/-- A command at work on a unit takes the next step of its attempt. -/
theorem exec_copyUnit_busy {w : CopyWork} (hwork : c.work = some w) :
    exec (.copyUnit core slot) s = .next (stepUnit core slot y g c w s) := by
  show execCopyUnit core slot s = _
  unfold execCopyUnit
  rw [if_neg (Nat.not_le.mpr hcore)]
  simp only [hcmd, hhome, hwork]

end

section
variable {s s1 : State} {core slot : Nat} {c : CopyCmd} {y : Team} {g : Grid} {w : CopyWork} {r : CopyRun} {rs : List CopyRun}

/-- With no run left, the attempt ends. -/
theorem stepUnit_ends (h : w.runs = []) : stepUnit core slot y g c w s = endUnit core slot c w s := by
  unfold stepUnit
  rw [h]

/-- A run whose slices cannot be reached waits (R129, R143). -/
theorem stepUnit_held (h : w.runs = r :: rs) (hclear : Way.clear s core (wayOf s core y g permCe r) = false) :
    stepUnit core slot y g c w s = s := by
  unfold stepUnit
  simp [h, hclear]

/-- A run whose lines are still to come waits, its requests sent (R122). -/
theorem stepUnit_asks {f : Option Halt_} (h : w.runs = r :: rs) (hclear : Way.clear s core (wayOf s core y g permCe r) = true)
    (hask : askNeeds (core / 16) (Way.needs r (wayOf s core y g permCe r)) s = (f, true, s1)) :
    stepUnit core slot y g c w s = s1 := by
  unfold stepUnit
  simp [h, hclear, hask]

/-- A run that faults at translation is left out, the first fault being kept (R166). -/
theorem stepUnit_faults {e : Halt_} (h : w.runs = r :: rs) (hclear : Way.clear s core (wayOf s core y g permCe r) = true)
    (hask : askNeeds (core / 16) (Way.needs r (wayOf s core y g permCe r)) s = (some e, false, s1)) :
    stepUnit core slot y g c w s = putCommand core slot { c with work := some ⟨rs, w.found.or (some e), w.last⟩ } s1 := by
  unfold stepUnit
  simp [h, hclear, hask]

/-- A run whose lines are there is performed, what it finds being kept where it is the first. -/
theorem stepUnit_performs (h : w.runs = r :: rs) (hclear : Way.clear s core (wayOf s core y g permCe r) = true)
    (hask : askNeeds (core / 16) (Way.needs r (wayOf s core y g permCe r)) s = (none, false, s1)) :
    stepUnit core slot y g c w s
      = putCommand core slot
          { c with work := some ⟨rs, w.found.or (performRun core r (wayOf s core y g permCe r) s1).1, w.last⟩ }
          (performRun core r (wayOf s core y g permCe r) s1).2 := by
  unfold stepUnit
  simp [h, hclear, hask]

end

/-! ## A run from a slice to a slice -/

/-- Read where no word is marked, the bytes are those of the slice; what else the read does concerns counts and charges. -/
theorem readPlace_sram {s : State} {p n : Nat} (core : Nat) (h : sramMarked s p n = none) :
    ∃ s1, readPlace core (.sram p) n s = (.inl (Memory.bytes s.sram p n), s1) ∧ SameBytes s s1 := by
  have hbytes := (sameBytes_chargeRoute (core / 16) (p / 2 ^ 30) s).same
    ((sameBytes_chargeRoute (p / 2 ^ 30) (core / 16) _).same (sameBytes_senseSram p n _))
  refine ⟨_, ?_, hbytes⟩
  rw [← sramMarked_chargeRoute (core / 16) (p / 2 ^ 30), ← sramMarked_chargeRoute (p / 2 ^ 30) (core / 16), sramMarked] at h
  unfold readPlace readSram
  dsimp only
  rw [h, hbytes.sram]

/-- A write of an engine at a slice stores its bytes there. -/
theorem writePlace_sram_becomes (core g : Nat) (bs : List Byte) (s : State) :
    Becomes s (writePlace core (.sram g) bs s) s.ops (Memory.store s.sram g bs) := by
  have hcharge := sameBytes_chargeRoute (core / 16) (g / 2 ^ 30) s
  have hwrite := writeSram_becomes g bs (chargeRoute (core / 16) (g / 2 ^ 30) s)
  rw [hcharge.sram, hcharge.ops] at hwrite
  exact hcharge.becomes hwrite

theorem writePlace_sram_commands (core g : Nat) (bs : List Byte) (s : State) :
    SameCommands s (writePlace core (.sram g) bs s) ∧ (writePlace core (.sram g) bs s).bands = s.bands :=
  ⟨(sameCommands_chargeRoute _ _ s).trans (sameCommands_writeSram _ _ _),
    (writeSram_bands _ _ _).trans (chargeRoute_frame _ _ s).1⟩

/-- A run between slices, its source unmarked, copies its bytes and finds nothing. -/
theorem performRun_sram {s : State} {p d : Nat} {r : CopyRun} (core : Nat) (h : sramMarked s p r.n = none) :
    ∃ t, performRun core r (.go (some (.sram p)) (.sram d)) s = (none, t)
      ∧ Becomes s t s.ops (Memory.store s.sram d (Memory.bytes s.sram p r.n)) := by
  obtain ⟨s1, hread, hsame⟩ := readPlace_sram core h
  have hwrite := writePlace_sram_becomes core d (Memory.bytes s.sram p r.n) s1
  rw [hsame.sram, hsame.ops] at hwrite
  refine ⟨_, ?_, hsame.becomes hwrite⟩
  unfold performRun
  simp only [hread]

/-! ## The end of a command (R160, R166) -/

/-- A command at its end leaves its slot with its locks; the rest of its core stands. -/
theorem core_dropCommand (core slot : Nat) (c : CopyCmd) (s : State) :
    State.core (dropCommand core slot c s) core = { State.core s core with
      copy := Table.del slot (State.core s core).copy
      locks := (State.core s core).locks.filter fun l => l.slot != slot } := by
  rw [dropCommand, core_countDown, core_modCore]

/-- The counter of a command at its end falls by one, and its band's lanes stand (R160). -/
theorem find_dropCommand {core slot : Nat} {c : CopyCmd} {s : State} {b : Band} (h : Table.find c.band s.bands = some b) :
    ∃ b', Table.find c.band (dropCommand core slot c s).bands = some b' ∧ b'.lanes = b.lanes
      ∧ Table.get 0 c.dc.val b'.dc = Table.get 0 c.dc.val b.dc - 1 := by
  unfold dropCommand
  obtain ⟨b', hfind, hlanes, hdc⟩ := find_countDown_own (some c.dc) ((congrArg (Table.find c.band) (modCore_bands s core _)).trans h)
  exact ⟨b', hfind, hlanes, hdc _ rfl⟩

/-- No line that the L1 keeps touches the destination of the command (R160). -/
theorem mem_dropDestination {slot : Nat} {k : Core} {e : Nat × List Byte × BitVec 8} (h : e ∈ (dropDestination slot k).l1) :
    e ∈ k.l1 ∧ ∀ l ∈ k.locks, l.slot = slot → l.write = true → 128 * e.1 + 127 < l.lo ∨ l.hi < 128 * e.1 := by
  obtain ⟨hmem, hnone⟩ := List.mem_filter.mp h
  refine ⟨hmem, fun l hl hs hw => ?_⟩
  by_contra hover
  have hany : (k.locks.any fun l => l.slot == slot && l.write && decide (l.lo ≤ 128 * e.1 + 127)
      && decide (128 * e.1 ≤ l.hi)) = true :=
    List.any_eq_true.mpr ⟨l, hl, by simp [hs, hw]; omega⟩
  rw [hany] at hnone
  exact nomatch hnone

/-- A finished command takes the lines of its destination out of the L1; then its completion word is written and it leaves its
slot, or the word has gone out of range and it ends in error (R140, R160). -/
theorem exec_copyComplete {s : State} {core slot : Nat} {c : CopyCmd} (hcore : core < 64)
    (hcmd : Table.find slot (State.core s core).copy = some c) (hpark : c.parked = false) (hdone : unitCount c ≤ c.p)
    (hwait : mustWait (State.core s core) slot c = false) (hq : quiesced s c.team core = false) :
    exec (.copyComplete core slot) s = .next (if c.cw.isSome && !placeClear s core (.sram c.cwg) then s
      else if c.cw.isSome && cwBad s c.ctx c.cwg then
        failCommand core slot c errSram (windowTag .glb + c.cwg) (State.modCore s core (dropDestination slot))
      else dropCommand core slot c (if c.cw.isSome then
          writePlace core (.sram c.cwg) (natLe 4 c.cwv.toNat) (State.modCore s core (dropDestination slot))
        else State.modCore s core (dropDestination slot))) := by
  show execCopyComplete core slot s = _
  unfold execCopyComplete
  rw [if_neg (Nat.not_le.mpr hcore)]
  simp only [hcmd, hpark, hwait, hq, decide_eq_false (Nat.not_lt.mpr hdone), Bool.false_or]
  split <;> rfl

/-! ## CERESc and quiesce (R167, R169) -/

/-- A resumed command is parked no longer. -/
theorem exec_ceresResume (s : State) (core slot : Nat) : exec (.ceresResume core slot) s
    = goCopy core slot false (fun c => putCommand core slot { c with parked := false }) s := rfl

/-- An aborted command ends with ABORT. -/
theorem exec_ceresAbort (s : State) (core slot : Nat) : exec (.ceresAbort core slot) s
    = goCopy core slot true (fun c => failCommand core slot c errAbort 0) s := rfl

/-- A GO that names an empty slot sets BAD and does nothing else. -/
theorem goCopy_of_none {s : State} {core slot : Nat} {abort : Bool} {act : CopyCmd → State → State} (hcore : core < 64)
    (h : Table.find slot (State.core s core).copy = none) :
    goCopy core slot abort act s
      = .next (State.modCore s core fun k => { k with ceres := resumeReg slot abort true k.ceres }) := by
  unfold goCopy
  rw [if_neg (Nat.not_le.mpr hcore)]
  simp only [h]

/-- A GO that names a parked command acts on it. -/
theorem goCopy_of_parked {s : State} {core slot : Nat} {abort : Bool} {act : CopyCmd → State → State} {c : CopyCmd}
    (hcore : core < 64) (hslot : slot < 32) (h : Table.find slot (State.core s core).copy = some c) (hpark : c.parked = true) :
    goCopy core slot abort act s
      = .next (act c (State.modCore s core fun k => { k with ceres := resumeReg slot abort false k.ceres })) := by
  unfold goCopy
  rw [if_neg (Nat.not_le.mpr hcore)]
  simp [h, hpark, hslot]

/-- A command that ends in error leaves its slot, and its core's register names the error (R166). -/
theorem failCommand_frame (core slot : Nat) (c : CopyCmd) (kind addr : Nat) (s : State) :
    Table.find slot (State.core (failCommand core slot c kind addr s) core).copy = none
      ∧ (State.core (failCommand core slot c kind addr s) core).ceerr = engineRecord kind slot c.ctx
      ∧ (failCommand core slot c kind addr s).dram = s.dram := by
  unfold failCommand
  rw [core_latchError, core_modCore, core_dropCommand]
  exact ⟨Table.find_del _ _, rfl, rfl⟩

/-- A marker returns unless a command of its team is at work on a unit. -/
theorem exec_copyQuiesce {core team : Nat} (s : State) (hcore : core < 64) :
    exec (.copyQuiesce core team) s = .next (if (State.core s core).copy.any fun e => e.2.team == team && e.2.work.isSome then s
      else returnMark team core s) :=
  if_neg (Nat.not_le.mpr hcore)

/-- Settles O53: each step is read off its equation; what a command at its end leaves is the frame of the command's removal. -/
theorem copyEngine : Obligations.CopyEngine := by
  unfold Obligations.CopyEngine
  refine ⟨fun s core slot op o c x hcore ho hx1 hx hready hkind hslot => ?_, fun s slot op o x c hchk _ => ?_,
    fun s core slot c b y g hcore hcmd hpark hp hwait hmark hhome hwork => ?_,
    fun s core slot c w b y g hcore hcmd hwork hhome => ?_, fun s core p d r hmark => ?_,
    fun s core slot c hcore hcmd hpark hdone hwait hq hcw => ?_,
    fun s core slot c hcore hcmd hpark hdone hwait hq hcw => ?_,
    fun s core slot hcore hnone => ?_, fun s core slot c hcore hslot hcmd hpark => ?_, fun s core team hcore => ?_⟩
  · have hkeep : (State.modCore s core fun k => { k with offers := k.offers.filter fun o => (offerIx s o).isSome })
        = State.modCore s core fun k => { k with offers := [o] } := by
      simp [State.modCore, ho, hx]
    rw [exec_copyAccept hcore hkeep.symm (by rw [core_modCore]; simp [hready]) hx1 hkind (by rw [core_modCore]; exact hslot)]
    simp [State.modCore]
  · obtain ⟨hsame, hdram⟩ := senseDesc_frame op o x s
    rw [core_acceptCopy hchk, ← hsame.locks]
    refine ⟨_, Table.find_set _ _ _, rfl, rfl, rfl, rfl, rfl, rfl, ?_⟩
    rw [acceptCopy_of_checked hchk]
    exact hdram
  · have hidle := exec_copyUnit_idle hcore hcmd hhome hwork hpark hp hwait hmark
    refine ⟨fun hpoor => by rw [hidle, if_pos hpoor], fun s0 rs last hrich hs0 hruns => ?_⟩
    rw [hidle, if_neg (Nat.not_lt.mpr hrich), beginUnit]
    simp only [← hs0, hruns]
    rfl
  · rw [exec_copyUnit_busy hcore hcmd hhome hwork]
    refine ⟨fun hr hf => ?_, fun e a hr hf => ?_, fun kd e ca va wr hr hf => ?_, fun r rs way hr hway => ?_⟩
    · rw [stepUnit_ends hr, endUnit, hf]
      rfl
    · rw [stepUnit_ends hr, endUnit, hf]
    · rw [stepUnit_ends hr, endUnit, hf]
    · subst hway
      refine ⟨fun hc => by rw [stepUnit_held hr hc], fun hc f s1 ha => by rw [stepUnit_asks hr hc ha],
        fun hc h s1 ha => by rw [stepUnit_faults hr hc ha]; rfl, fun hc h s1 s2 ha hperf => ?_⟩
      rw [stepUnit_performs hr hc ha, hperf]
      rfl
  · obtain ⟨t, hrun, ht⟩ := performRun_sram (d := d) core hmark
    have hback := Memory.bytes_store s.sram d (Memory.bytes s.sram p r.n)
    have hrest := (Memory.read_store_all s.sram d (Memory.bytes s.sram p r.n)).2
    rw [Memory.length_bytes] at hback hrest
    exact ⟨t, hrun, ht.sram ▸ hback, ht.dram, ht.sram ▸ hrest⟩
  · rw [exec_copyComplete hcore hcmd hpark hdone hwait hq, hcw]
    simp only [Option.isSome_none, Bool.false_and, Bool.false_eq_true, if_false]
    refine ⟨_, rfl, ?_, ?_, ?_, rfl, rfl, ?_, fun b hb => find_dropCommand hb⟩
    all_goals rw [core_dropCommand, core_modCore]
    · exact Table.find_del _ _
    · rfl
    · rfl
    · exact fun e he => mem_dropDestination he
  · rw [exec_copyComplete hcore hcmd hpark hdone hwait hq, hcw]
    refine ⟨fun hclear => by rw [hclear]; rfl, fun hclear hbad => by rw [hclear, hbad]; rfl, fun hclear hgood => ?_⟩
    obtain ⟨hsame, hbands⟩ := writePlace_sram_commands core c.cwg (natLe 4 c.cwv.toNat) (State.modCore s core (dropDestination slot))
    have hword := writePlace_sram_becomes core c.cwg (natLe 4 c.cwv.toNat) (State.modCore s core (dropDestination slot))
    have hback := Memory.bytes_store s.sram c.cwg (natLe 4 c.cwv.toNat)
    have hrest := (Memory.read_store_all s.sram c.cwg (natLe 4 c.cwv.toNat)).2
    rw [natLe_length] at hback hrest
    simp only [hclear, hgood, Bool.not_true, Bool.and_false, Bool.false_eq_true, if_false, if_true]
    refine ⟨_, rfl, ?_, ?_, hword.sram ▸ hback, hword.dram, hsame.teams, hword.sram ▸ hrest,
      fun b hb => find_dropCommand (hbands ▸ hb)⟩
    · rw [core_dropCommand]
      exact Table.find_del _ _
    · rw [core_dropCommand, hsame.locks, core_modCore]
      rfl
  · rw [exec_ceresResume, exec_ceresAbort, goCopy_of_none hcore hnone, goCopy_of_none hcore hnone]
    exact ⟨_, _, rfl, rfl, core_modCore _ _ _, core_modCore _ _ _, rfl, rfl, rfl, rfl⟩
  · rw [exec_ceresResume, exec_ceresAbort, goCopy_of_parked hcore hslot hcmd hpark, goCopy_of_parked hcore hslot hcmd hpark,
      putCommand]
    obtain ⟨hfree, herr, hdram⟩ := failCommand_frame core slot c errAbort 0
      (State.modCore s core fun k => { k with ceres := resumeReg slot true false k.ceres })
    refine ⟨_, _, rfl, rfl, ?_, ?_, hfree, herr, rfl, hdram, rfl⟩
    · rw [core_modCore]
      exact Table.find_set _ _ _
    · rw [core_modCore, core_modCore]
  · rw [exec_copyQuiesce s hcore]
    refine ⟨fun hidle => ?_, fun e he hteam hbusy => ?_⟩
    · rw [if_neg]
      rw [List.any_eq_true]
      rintro ⟨e, he, hbusy⟩
      simp only [Bool.and_eq_true, beq_iff_eq] at hbusy
      rw [hidle e he hbusy.1] at hbusy
      exact nomatch hbusy.2
    · rw [if_pos]
      exact List.any_eq_true.mpr ⟨e, he, by simp [hteam, hbusy]⟩

end Sys2Proof.Machine

namespace Sys2Proof.Machine

open Sys2Proof.Forms

/-! # Requests to peers at issue (spec/08_loads_stores_atomics.md R180, R191 to R194) -/

/-! ## The forms -/

theorem pairAddr_lt (sr : SReg) (a : VReg) (off : Int) (x : Ix) (l : Nat) : pairAddr sr a off x l < 2 ^ 64 := by
  unfold pairAddr
  omega

theorem regBytes_fun (d : VReg) (z : Nat) :
    (fun x l => regBytes x l d z) = fun x l => lowBytes z (regsValue x l d.val ((z + 3) / 4)) :=
  funext fun x => funext fun l => regBytes_eq x l d z

/-- What holds of every form of the fabric's table: its instruction is issued as `fabricOp` has it, only a store yields to a
higher lane, its kind and its access agree on whether it writes, and its addresses have 64 bits. -/
structure MemForm.Fabric (f : MemForm) (i : Instr) : Prop where
  exec : ∀ s, exec i s = fabricOp i f.size f.addr f.kind f.dc f.order f.data f.cmp f.regs s
  once : f.once = true ↔ f.kind = .store
  writes : OpKind.isWrite f.kind = AccessKind.writes f.acc
  addr_lt : ∀ x l, f.addr x l < 2 ^ 64

theorem fabricForm_fabric {i : Instr} {f : MemForm} (h : fabricForm i = some f) : f.Fabric i := by
  unfold fabricForm at h
  split at h
  case h_1 o =>
    cases h
    refine ⟨fun s => ?_, by simp, rfl, pairAddr_lt o.s o.a _⟩
    dsimp only
    rw [← wyRegs_eq, ← wySize_eq, ← genericAddr_fun]
    rfl
  case h_2 o =>
    cases h
    refine ⟨fun s => ?_, by simp, rfl, pairAddr_lt o.s o.a _⟩
    dsimp only
    rw [← regBytes_fun, ← wySize_eq, ← genericAddr_fun]
    rfl
  case h_3 o =>
    cases h
    refine ⟨fun s => ?_, by simp, rfl, pairAddr_lt o.s o.a 0⟩
    change execAtomr o s = _
    unfold execAtomr
    rw [atomAddr_eq, atomOperand_eq, atomCompare_eq, aySize_eq, ayRegs_eq]
    rfl
  case h_4 => exact nomatch h

/-- The requests of the active lanes, where the form says so only the highest lane of those at the same bytes sending one. -/
def MemForm.requests (f : MemForm) (x : Ix) : List Acc :=
  if f.once then suppressLower (fabricAccs x f.size f.addr f.data f.cmp) else fabricAccs x f.size f.addr f.data f.cmp

/-- The state in which the requests of a form leave: its operation stands, its count has risen, its destinations are pending. -/
def MemForm.posted (f : MemForm) (i : Instr) (x : Ix) (s : State) : State :=
  markPending x.key x.act f.regs s.nextKey
    (countIssue x f.dc (newOp i x f.kind f.dc .fab f.order (f.requests x) false 0 s).2)

theorem exec_fabric_of_goes {i : Instr} {f : MemForm} {s : State} {iss : Issue} {x : Ix} (h : fabricForm i = some f)
    (hg : Goes i (fabricCause f.addr f.size) s iss x) :
    exec i s = .next (afterIssue i iss x x.sel
      (sendRequests (beginReplay x s).nextKey (f.posted i x (beginReplay x s)))) := by
  have hf := fabricForm_fabric h
  rw [hf.exec, fabricOp, issueWith_of_goes hg rfl rfl]
  unfold MemForm.posted MemForm.requests
  simp only [hf.once]
  rfl

/-! ## One request leaves after the other -/

/-- The message by which a lane's request leaves, its station given by the address and the peer of its route (R191, R193). -/
def Acc.request (c : Ctx) (k : Nat) (write : Bool) (a : Acc) : Out :=
  let f := a.addr.toNat
  let r := Ctx.route c (routeOf f)
  .fabric ((f / 128 % 2 ^ 41 + r % 1024) % 24) k a.lane f (r % 1024) (r / 2 ^ 16 % 256) write (a.data ++ a.cmp)

/-- The access once its request has left; one that yields to a higher lane stays dropped. -/
def Acc.leave (a : Acc) : Acc := if a.stage = .waiting then { a with stage := .translated } else a

/-- The access of a request that has not been treated: it waits, or it yields to a higher lane. -/
def Acc.fresh (a : Acc) : Prop := Place.isFabric a.place = true ∧ (a.stage = .waiting ∨ a.stage = .dropped)

/-- The access of a request that has been treated. -/
def Acc.gone (a : Acc) : Prop := Place.isFabric a.place = true ∧ (a.stage = .translated ∨ a.stage = .dropped)

theorem Place.isFabric_iff {p : Place} : Place.isFabric p = true ↔ ∃ f, p = .fabric f := by
  cases p <;> simp [Place.isFabric]

theorem Acc.gone_leave {a : Acc} (h : a.fresh) : a.leave.gone := by
  obtain ⟨hp, hw | hd⟩ := h
  · rw [leave, if_pos hw]
    exact ⟨hp, .inl rfl⟩
  · rw [leave, if_neg (by simp [hd])]
    exact ⟨hp, .inr hd⟩

theorem Acc.leave_lane (a : Acc) : a.leave.lane = a.lane := by
  unfold leave
  split <;> rfl

theorem Acc.gone_not_waiting {a : Acc} (h : a.gone) : (a.stage == .waiting) = false := by
  obtain ⟨-, h | h⟩ := h <;> simp [h]

theorem Table.alter_set {α : Type} (k : Nat) (x : α) (f : α → α) (t : Table α) :
    Table.alter k f (Table.set k x t) = Table.set k (f x) t := by
  rw [Table.alter, Table.find_set]
  exact Table.set_set k x (f x) t

section
variable {t : Table Op} {k : Nat} {o : Op} {xs ys : List Acc} {a : Acc}

/-- Operations of other cores hold no event of this one's band. -/
theorem before_set_false {v : Event} (hf : ∀ e ∈ t, e.2.band / 64 ≠ v.key / 64) (hseq : o.seq = v.seq) {e : Nat × Op}
    (he : e ∈ Table.set k o t) : Op.before e.2 v = false := by
  rcases Table.mem_set he with rfl | he
  · simp [Op.before, hseq]
  · have hb : (e.2.band == v.key) = false := beq_eq_false_iff_ne.mpr fun h => hf e he (by rw [h])
    simp [Op.before, hb]

/-- With every lower lane's access gone, an access of lane `a` has none of its operation before it (R183, R193). -/
theorem lowerFirst_false (ho : o.accs = xs ++ a :: ys) (hxs : ∀ b ∈ xs, b.gone) (hys : ∀ b ∈ a :: ys, a.lane ≤ b.lane) :
    lowerFirst o a = false := by
  unfold lowerFirst
  split
  · rw [List.any_eq_false, ho]
    intro b hb
    rcases List.mem_append.mp hb with hb | hb
    · obtain ⟨hp, h | h⟩ := hxs b hb <;> simp [h, hp]
    · simp [Nat.not_lt.mpr (hys b hb)]
  · rfl

theorem behindRequest_false {s : State} (hs : s.ops = Table.set k o t) (hf : ∀ e ∈ t, e.2.band / 64 ≠ o.band / 64)
    (ho : o.accs = xs ++ a :: ys) (hxs : ∀ b ∈ xs, b.gone) (hys : ∀ b ∈ a :: ys, a.lane ≤ b.lane) :
    behindRequest s k o a = false := by
  unfold behindRequest
  rw [List.any_eq_false, hs]
  intro e he
  rcases Table.mem_set he with rfl | he
  · have hnone : (o.accs.any fun b => b.stage == .waiting && (decide (o.seq < o.seq) || (k == k && decide (b.lane < a.lane)))
        && b.addr.toNat / 128 == a.addr.toNat / 128) = false := by
      rw [List.any_eq_false, ho]
      intro b hb
      rcases List.mem_append.mp hb with hb | hb
      · simp [Acc.gone_not_waiting (hxs b hb)]
      · simp [Nat.not_lt.mpr (hys b hb)]
    simp only [hnone, Bool.and_false, Bool.false_eq_true, not_false_eq_true]
  · have hb : (e.2.band / 64 == o.band / 64) = false := beq_eq_false_iff_ne.mpr (hf e he)
    simp [hb]

/-- Among lanes that rise, a change to one lane's access is a change at its place. -/
theorem setAcc_middle (ho : o.accs = xs ++ a :: ys) (hl : (o.accs.map Acc.lane).Pairwise (· < ·)) (f : Acc → Acc) :
    Op.setAcc o a.lane f = { o with accs := xs ++ f a :: ys } := by
  rw [ho, List.map_append, List.map_cons, List.pairwise_append, List.pairwise_cons] at hl
  obtain ⟨-, ⟨hys, -⟩, hxs⟩ := hl
  have hx (b : Acc) (hb : b ∈ xs) : (if b.lane == a.lane then f b else b) = b :=
    if_neg (by simpa using (hxs _ (List.mem_map_of_mem hb) _ (List.mem_cons_self ..)).ne)
  have hy (b : Acc) (hb : b ∈ ys) : (if b.lane == a.lane then f b else b) = b :=
    if_neg (by simpa using (hys _ (List.mem_map_of_mem hb)).ne')
  unfold Op.setAcc
  rw [ho, List.map_append, List.map_cons, List.map_congr_left hx, List.map_congr_left hy]
  simp

variable {s : State} {b : Band} {y : Team} {g : Grid}

/-- Where the operations of the core are one, and its lower lanes have been treated, the request of the next lane leaves if
its access waits, and its access is then gone (R193). -/
theorem sendRequest_next (hs : s.ops = Table.set k o t) (hf : ∀ e ∈ t, e.2.band / 64 ≠ o.band / 64)
    (hhome : State.home s o.band = some (b, y, g)) (ho : o.accs = xs ++ a :: ys)
    (hl : (o.accs.map Acc.lane).Pairwise (· < ·)) (hxs : ∀ b ∈ xs, b.gone) (ha : a.fresh) :
    sendRequest k o a s = { s with
      ops := Table.set k { o with accs := xs ++ a.leave :: ys } t
      outbox := s.outbox ++ (if a.stage = .waiting then [a.request (State.ctx s g.ctx) k (OpKind.isWrite o.kind)] else []) } := by
  have hys : ∀ b ∈ a :: ys, a.lane ≤ b.lane := by
    rw [ho, List.map_append, List.map_cons, List.pairwise_append, List.pairwise_cons] at hl
    obtain ⟨-, ⟨hys, -⟩, -⟩ := hl
    intro b hb
    rcases List.mem_cons.mp hb with rfl | hb
    · exact le_rfl
    · exact (hys _ (List.mem_map_of_mem hb)).le
  have hmay : mayPerform s o a = true := by
    have hev : eventWaits s (Acc.event o a) = false := by
      unfold eventWaits
      rw [List.any_eq_false, hs]
      exact fun e he => by rw [before_set_false (v := Acc.event o a) hf rfl he]; exact Bool.false_ne_true
    rw [mayPerform, hev, lowerFirst_false ho hxs hys]
    rfl
  have hbehind := behindRequest_false hs hf ho hxs hys
  obtain ⟨hfab, hstage⟩ := ha
  obtain ⟨p, hp⟩ := Place.isFabric_iff.mp hfab
  unfold sendRequest
  simp only [hp, hhome]
  rcases hstage with hw | hd
  · have hgo : (a.stage == .waiting && mayPerform s o a && !behindRequest s k o a) = true := by
      rw [hw, hmay, hbehind]
      rfl
    rw [if_pos hgo, if_pos hw, Acc.leave, if_pos hw, State.modOp, hs, Table.alter_set, setAcc_middle ho hl]
    rfl
  · have hgo : (a.stage == .waiting && mayPerform s o a && !behindRequest s k o a) = false := by
      rw [hd]
      rfl
    have hno : ¬ a.stage = .waiting := by simp [hd]
    rw [hgo, Acc.leave, if_neg Bool.false_ne_true, if_neg hno, if_neg hno, ← ho, ← hs, List.append_nil]

end

/-- The turn of one access among the requests of operation `k`. -/
def sendNext (k : Nat) (s : State) (a : Acc) : State :=
  match Table.find k s.ops with
  | some o => sendRequest k o a s
  | none => s

theorem sendNext_of_find {k : Nat} {o : Op} {s : State} (h : Table.find k s.ops = some o) (a : Acc) :
    sendNext k s a = sendRequest k o a s := by
  unfold sendNext
  rw [h]

theorem sendRequests_of_find {k : Nat} {o : Op} {s : State} (h : Table.find k s.ops = some o) :
    sendRequests k s = o.accs.foldl (sendNext k) s := by
  unfold sendRequests
  rw [h]
  rfl

section
variable {t : Table Op} {k : Nat} {o : Op} {xs as : List Acc} {s : State} {b : Band} {y : Team} {g : Grid} {c : Ctx}

/-- The requests of an operation alone on its core leave one after the other, ascending by lane (R193). -/
theorem foldl_sendNext (hs : s.ops = Table.set k o t) (hf : ∀ e ∈ t, e.2.band / 64 ≠ o.band / 64)
    (hhome : State.home s o.band = some (b, y, g)) (hc : State.ctx s g.ctx = c) (ho : o.accs = xs ++ as)
    (hl : (o.accs.map Acc.lane).Pairwise (· < ·)) (hxs : ∀ b ∈ xs, b.gone) (has : ∀ a ∈ as, a.fresh) :
    as.foldl (sendNext k) s = { s with
      ops := Table.set k { o with accs := xs ++ as.map Acc.leave } t
      outbox := s.outbox
        ++ (as.filter fun a => a.stage = .waiting).map (Acc.request c k (OpKind.isWrite o.kind)) } := by
  induction as generalizing xs o s with
  | nil => rw [List.map_nil, ← ho, ← hs, List.foldl_nil, List.filter_nil, List.map_nil, List.append_nil]
  | cons a as ih =>
    have ha := has a (List.mem_cons_self ..)
    have hlanes : ((xs ++ a.leave :: as).map Acc.lane).Pairwise (· < ·) := by
      rw [ho] at hl
      simpa [Acc.leave_lane] using hl
    have hgone : ∀ b ∈ xs ++ [a.leave], b.gone := fun b hb => (List.mem_append.mp hb).elim (hxs b) fun h =>
      List.mem_singleton.mp h ▸ Acc.gone_leave ha
    have hnext := sendRequest_next hs hf hhome ho hl hxs ha
    rw [hc] at hnext
    rw [List.foldl_cons, sendNext_of_find (hs ▸ Table.find_set k o t)]
    generalize sendRequest k o a s = s1 at hnext ⊢
    subst hnext
    refine (ih (s := { s with ops := _, outbox := _ }) (o := { o with accs := xs ++ a.leave :: as }) rfl hf hhome hc (by simp)
      hlanes hgone fun b hb => has b (List.mem_cons_of_mem _ hb)).trans ?_
    by_cases hw : a.stage = .waiting <;> simp [hw]

theorem sendRequests_alone (hs : s.ops = Table.set k o t) (hf : ∀ e ∈ t, e.2.band / 64 ≠ o.band / 64)
    (hhome : State.home s o.band = some (b, y, g)) (hc : State.ctx s g.ctx = c)
    (hl : (o.accs.map Acc.lane).Pairwise (· < ·)) (has : ∀ a ∈ o.accs, a.fresh) :
    sendRequests k s = { s with
      ops := Table.set k { o with accs := o.accs.map Acc.leave } t
      outbox := s.outbox
        ++ (o.accs.filter fun a => a.stage = .waiting).map (Acc.request c k (OpKind.isWrite o.kind)) } := by
  rw [sendRequests_of_find (hs ▸ Table.find_set k o t)]
  exact foldl_sendNext (xs := []) hs hf hhome hc rfl hl (fun _ h => nomatch h) has

end

/-! ## The lanes that send (R180) -/

/-- The access that a lane's request starts as. -/
def MemForm.requestOf (f : MemForm) (x : Ix) (l : Nat) : Acc :=
  { lane := l, addr := BitVec.ofNat 64 (f.addr x l), va := 0, place := .fabric (f.addr x l), size := f.size
    data := f.data x l, cmp := f.cmp x l, stage := .waiting, value := 0 }

theorem suppressLower_lane (as : List Acc) : (suppressLower as).map Acc.lane = as.map Acc.lane := by
  have h := congrArg (List.map Prod.fst) (suppressLower_named as)
  rwa [List.map_map, List.map_map] at h

/-- An access to a peer that yields to a higher lane is dropped, and the others wait (R180). -/
theorem suppressLower_fresh (f : MemForm) (x : Ix) (ls : List Nat) :
    ∀ a ∈ suppressLower (ls.map (f.requestOf x)), a.fresh := by
  induction ls with
  | nil => exact fun _ h => nomatch h
  | cons l t ih =>
    rw [List.map_cons, suppressLower]
    refine List.forall_mem_cons.mpr ⟨?_, ih⟩
    split
    · exact ⟨rfl, .inr rfl⟩
    · exact ⟨rfl, .inl rfl⟩

/-- Of the lanes at the same bytes only the highest's access waits (R180). -/
theorem filter_suppressLower (f : MemForm) (x : Ix) {ls : List Nat} (hl : ls.Pairwise (· < ·)) :
    ((suppressLower (ls.map (f.requestOf x))).filter fun a => a.stage = .waiting)
      = (ls.filter fun l => !(ls.any fun m => decide (l < m) && f.addr x m == f.addr x l)).map (f.requestOf x) := by
  induction ls with
  | nil => rfl
  | cons l t ih =>
    obtain ⟨hlt, ht⟩ := List.pairwise_cons.mp hl
    have hhead : ((l :: t).any fun m => decide (l < m) && f.addr x m == f.addr x l)
        = t.any fun m => f.addr x m == f.addr x l := by
      rw [Bool.eq_iff_iff, List.any_cons, decide_eq_false (Nat.lt_irrefl l), Bool.false_and, Bool.false_or]
      simp only [List.any_eq_true]
      exact exists_congr fun m => and_congr_right fun hm => by rw [decide_eq_true (hlt m hm), Bool.true_and]
    have htail : (t.filter fun k => !((l :: t).any fun m => decide (k < m) && f.addr x m == f.addr x k))
        = t.filter fun k => !(t.any fun m => decide (k < m) && f.addr x m == f.addr x k) :=
      List.filter_congr fun k hk => by rw [List.any_cons, decide_eq_false (hlt k hk).asymm, Bool.false_and, Bool.false_or]
    have hplace : ((t.map (f.requestOf x)).any fun b => b.place == (f.requestOf x l).place)
        = t.any fun m => f.addr x m == f.addr x l := by
      rw [List.any_map]
      exact List.any_congr rfl fun m => by simp [MemForm.requestOf]
    rw [List.map_cons, suppressLower, hplace, List.filter_cons, List.filter_cons, hhead, htail, ih ht]
    cases t.any fun m => f.addr x m == f.addr x l <;> rfl

theorem MemForm.requests_eq (f : MemForm) (x : Ix) : f.requests x
    = if f.once then suppressLower (x.act.map (f.requestOf x)) else x.act.map (f.requestOf x) := rfl

theorem MemForm.requests_lane (f : MemForm) (x : Ix) : (f.requests x).map Acc.lane = x.act := by
  have h : (x.act.map (f.requestOf x)).map Acc.lane = x.act := by
    rw [List.map_map]
    exact List.map_id _
  rw [requests_eq]
  split
  · rw [suppressLower_lane, h]
  · exact h

theorem MemForm.requests_fresh (f : MemForm) (x : Ix) : ∀ a ∈ f.requests x, a.fresh := by
  rw [requests_eq]
  split
  · exact suppressLower_fresh f x x.act
  · rw [List.forall_mem_map]
    exact fun l _ => ⟨rfl, .inl rfl⟩

/-- The requests that leave: those of the active lanes, but where the form says so not that of a lane below another at the same
bytes (R180). -/
theorem MemForm.requests_waiting (f : MemForm) (x : Ix) (hl : x.act.Pairwise (· < ·)) :
    ((f.requests x).filter fun a => a.stage = .waiting)
      = (x.act.filter fun l => !(f.once && x.act.any fun m => decide (l < m) && f.addr x m == f.addr x l)).map
        (f.requestOf x) := by
  rw [requests_eq]
  cases f.once with
  | true => exact filter_suppressLower f x hl
  | false =>
    simp only [Bool.false_eq_true, if_false, Bool.false_and, Bool.not_false, List.filter_true]
    exact List.filter_eq_self.mpr fun a ha => by
      obtain ⟨l, -, rfl⟩ := List.mem_map.mp ha
      rfl

/-! ## The issue -/

/-- The active lanes of an index rise (R348). -/
theorem indexOf_act_rises {s : State} {key : Nat} {p : Group} {g : Guard} {x : Ix} (h : indexOf s key p g = some x) :
    x.act.Pairwise (· < ·) := by
  have hsel : x.sel = lanesOf p.lanes := by
    unfold indexOf at h
    repeat' split at h
    any_goals contradiction
    all_goals rw [← Option.some.inj h]
  obtain ⟨-, -, -, -, -, hsub⟩ := indexOf_spec h
  rw [hsel] at hsub
  exact (List.pairwise_lt_range.sublist List.filter_sublist).sublist hsub

/-- Counting an issue and marking its destinations leave the band in its team. -/
theorem find_counted_team {s : State} {x : Ix} {b : Band} (dc : Dc) (regs : List Nat) (op : Nat)
    (h : Table.find x.key s.bands = some b) :
    ∃ c, Table.find x.key (markPending x.key x.act regs op (countIssue x dc s)).bands = some c ∧ c.team = b.team := by
  have hcount : ∃ c, Table.find x.key (countIssue x dc s).bands = some c ∧ c.team = b.team := by
    unfold countIssue
    split
    · exact ⟨b, h, rfl⟩
    · cases dc with
      | none => exact ⟨b, h, rfl⟩
      | some k => exact ⟨_, find_modBand _ h, rfl⟩
  obtain ⟨c, hc, hteam⟩ := hcount
  refine ⟨_, find_modBand _ hc, ?_⟩
  dsimp only
  rw [Band.modLanes_rest]
  exact hteam

/-- Past its new operation, the posting of requests changes bands alone. -/
theorem MemForm.posted_rest (f : MemForm) (i : Instr) (x : Ix) (s : State) : f.posted i x s
    = { (newOp i x f.kind f.dc .fab f.order (f.requests x) false 0 s).2 with bands := (f.posted i x s).bands } := by
  unfold MemForm.posted
  rw [countIssue_frame]
  rfl

/-- The operation of a form's requests, as it is made. -/
def MemForm.operation (f : MemForm) (i : Instr) (x : Ix) (s : State) : Op :=
  { band := x.key, lanes := maskOf x.act, kind := f.kind, pc := x.pc, dc := f.dc, scope := .fab, order := f.order
    accs := f.requests x, log := logOf i x 0, seq := s.nextKey, replay := x.replay.map fun r => Ix.core x * 128 + r.1
    holds := false, poison := none, since := 0 }

theorem MemForm.posted_ops (f : MemForm) (i : Instr) (x : Ix) (s : State) :
    (f.posted i x s).ops = Table.set s.nextKey (f.operation i x s) s.ops := by
  rw [posted_rest]
  rfl

theorem MemForm.home_posted (f : MemForm) (i : Instr) {x : Ix} {s : State} (hb : Table.find x.key s.bands = some x.b)
    (ht : Table.find x.b.team s.teams = some x.t) (hg : Table.find x.t.grid s.grids = some x.gr) :
    ∃ b, State.home (f.posted i x s) x.key = some (b, x.t, x.gr) := by
  obtain ⟨c, hc, hteam⟩ := find_counted_team f.dc f.regs s.nextKey
    (s := (newOp i x f.kind f.dc .fab f.order (f.requests x) false 0 s).2) hb
  have hteams : (f.posted i x s).teams = s.teams := by
    rw [MemForm.posted_rest]
    rfl
  have hgrids : (f.posted i x s).grids = s.grids := by
    rw [MemForm.posted_rest]
    rfl
  refine ⟨c, ?_⟩
  have hfind : Table.find x.key (f.posted i x s).bands = some c := hc
  unfold State.home
  rw [hfind]
  dsimp only
  rw [hteam, hteams, ht]
  dsimp only
  rw [hgrids, hg]

/-- A lane's request as it leaves names its address, which is below 2^64, by its bytes (R191). -/
theorem MemForm.request_requestOf {f : MemForm} {x : Ix} {l : Nat} (c : Ctx) (k : Nat) (w : Bool) (h : f.addr x l < 2 ^ 64) :
    (f.requestOf x l).request c k w =
      let a := f.addr x l
      let r := (Table.get 0 (a / 2 ^ 48 % 16) c.routes).toNat
      .fabric ((a / 128 % 2 ^ 41 + r % 1024) % 24) k l a (r % 1024) (r / 2 ^ 16 % 256) w (f.data x l ++ f.cmp x l) := by
  have ha : (BitVec.ofNat 64 (f.addr x l)).toNat = f.addr x l := Nat.mod_eq_of_lt h
  unfold Acc.request MemForm.requestOf
  dsimp only
  rw [ha]
  rfl

/-- Settles O21: the operation stands alone on its core, so its requests leave one after the other as it issues. -/
theorem fabricIssue : Obligations.FabricIssue := by
  unfold Obligations.FabricIssue
  refine ⟨fun i f s iss x hf hg => exec_fabric_of_goes hf hg, fun i f s iss x hf hg hrep hre halone => ?_⟩
  obtain ⟨hkey, hband, hteam, hgrid, -⟩ := indexOf_spec hg.index
  rw [← hkey] at hband
  have hfab := fabricForm_fabric hf
  have hexec := exec_fabric_of_goes hf hg
  rw [beginReplay_none hrep] at hexec
  have hlanes := indexOf_act_rises hg.index
  obtain ⟨b, hhome⟩ := f.home_posted i hband hteam hgrid
  have hctx : State.ctx (f.posted i x s) x.gr.ctx = State.ctx s x.gr.ctx := by
    rw [f.posted_rest]
    rfl
  have hsent := sendRequests_alone (f.posted_ops i x s) halone hhome hctx ((f.requests_lane x).symm ▸ hlanes)
    (f.requests_fresh x)
  have hissue : (sendRequests s.nextKey (f.posted i x s)).issue = some iss := by
    rw [hsent, f.posted_rest]
    exact hg.issue
  refine ⟨_, { f.operation i x s with accs := (f.requests x).map Acc.leave }, hexec, ?_⟩
  rw [afterIssue_frame hissue hre, hsent, f.posted_rest]
  refine ⟨rfl, rfl, Table.find_set _ _ _, rfl, rfl, rfl, ?_, ?_⟩
  · rw [List.length_map, ← congrArg List.length (f.requests_lane x), List.length_map]
  · refine congrArg (s.outbox ++ ·) ?_
    rw [MemForm.operation, f.requests_waiting x hlanes, List.map_map, hfab.writes]
    exact List.map_congr_left fun l _ => MemForm.request_requestOf _ _ _ (hfab.addr_lt x l)

end Sys2Proof.Machine

namespace Sys2Proof.Machine

open Sys2Proof.Forms

/-! # Prefetch and cache maintenance (spec/08_loads_stores_atomics.md R187 to R190) -/

/-- The address of a line instruction's lane (R175). -/
theorem lineAddr_eq (o : OpLine) : lineAddr o = pairAddr o.s o.a (o.off.toInt * 128) := genericAddr_fun o.s o.a _

/-- An aligned lane takes no MISALIGNED: a prefetch has no other cause (R176, R187). -/
theorem Goes.aligned {i : Instr} {s : State} {iss : Issue} {x : Ix} {addr : Ix → Nat → Nat} (hg : Goes i noCause s iss x)
    (h : ∀ l ∈ x.act, addr x l % 128 = 0) : Goes i (fun x _ l => if addr x l % 128 = 0 then none
      else some (causeMisaligned, BitVec.ofNat 64 (addr x l))) s iss x :=
  hg.withOwn fun l hl => if_pos (h l hl)

/-- What the issue of a CFLUSH leaves: its operation stands, and its count has risen. -/
def flushStart (o : OpLine) (x : Ix) (s : State) : State :=
  countIssue x o.dc (newOp (.cflush o) x (.flush (o.scope == .dev || o.scope == .fab) (o.lvl == .l2)) o.dc o.scope .rlx
    (lineAccs x s (pairAddr o.s o.a (o.off.toInt * 128))) false 0 s).2

theorem exec_cflush_of_goes {o : OpLine} {s : State} {iss : Issue} {x : Ix}
    (hg : Goes (.cflush o) (accessCause .load false (pairAddr o.s o.a (o.off.toInt * 128)) 128) s iss x) :
    exec (.cflush o) s = .next (afterIssue (.cflush o) iss x x.sel (flushStart o x (beginReplay x s))) := by
  change execCflush o s = _
  unfold execCflush
  rw [lineAddr_eq]
  exact issueWith_of_goes hg rfl rfl

theorem flushStart_rest (o : OpLine) (x : Ix) (s : State) : flushStart o x s =
    { (newOp (.cflush o) x (.flush (o.scope == .dev || o.scope == .fab) (o.lvl == .l2)) o.dc o.scope .rlx
        (lineAccs x s (pairAddr o.s o.a (o.off.toInt * 128))) false 0 s).2 with bands := (flushStart o x s).bands } :=
  countIssue_frame _ _ _

/-- The line that generic address `a` names for lane `l` in state `s` leaves the core's L1, where the address lies in the memory
window (R190). -/
def dropLine (x : Ix) (s : State) (l a : Nat) (t : State) : State :=
  match accessPlace x s l a permRd with
  | .mem c => State.modCore t (x.key / 64) fun k => { k with l1 := Table.del (c / 128) k.l1 }
  | _ => t

theorem exec_cinv_of_goes {o : OpLine} {s : State} {iss : Issue} {x : Ix}
    (hg : Goes (.cinv o) (accessCause .load false (pairAddr o.s o.a (o.off.toInt * 128)) 128) s iss x) :
    exec (.cinv o) s = .next (afterIssue (.cinv o) iss x x.sel
      (x.act.foldl (fun t l => dropLine x (beginReplay x s) l (pairAddr o.s o.a (o.off.toInt * 128) x l) t)
        (beginReplay x s))) := by
  change execCinv o s = _
  unfold execCinv
  rw [lineAddr_eq, issueWith_of_goes hg rfl rfl, lineAccs, List.foldl_map]
  rfl

theorem exec_pref_of_goes {o : OpLine} {s : State} {iss : Issue} {x : Ix}
    (ha : ∀ l ∈ x.act, pairAddr o.s o.a (o.off.toInt * 128) x l % 128 = 0) (hg : Goes (.pref o) noCause s iss x) :
    exec (.pref o) s = .next (afterIssue (.pref o) iss x x.sel
      (let s0 := beginReplay x s
       let as := prefAccs x s0 (pairAddr o.s o.a (o.off.toInt * 128))
       if as = [] then s0 else (newOp (.pref o) x (.pref (o.lvl == .l1)) none o.scope .rlx as false 0 s0).2)) := by
  change execPref o s = _
  unfold execPref
  rw [lineAddr_eq]
  have hres (b : Bool) (u v : State) : (if b then ({ s := u } : Res) else { s := v }) = { s := if b then u else v } := by
    cases b <;> rfl
  simp only [hres]
  rw [issueWith_of_goes (hg.aligned ha) rfl rfl]
  dsimp only
  cases prefAccs x (beginReplay x s) (pairAddr o.s o.a (o.off.toInt * 128)) <;> rfl

/-- A prefetch is of lines of the memory window that are not locked (R164, R187). -/
theorem mem_prefAccs {x : Ix} {s : State} {addr : Ix → Nat → Nat} {a : Acc} (h : a ∈ prefAccs x s addr) :
    ∃ c, a.place = .mem c ∧ (lockedByte s (x.key / 64) true c 128).isNone = true := by
  have hkeep := (List.mem_filter.mp h).2
  split at hkeep
  · exact ⟨_, ‹_›, hkeep⟩
  · exact nomatch hkeep

/-- A prefetched line that stands in the die's L2, unpoisoned, fills the L1 where that is asked, and its lane ends (R187). -/
theorem exec_storeAcknowledge_pref {s : State} {k : Nat} {op : Op} {a : Acc} {c : Nat} {l1 : Bool} {y : Line}
    (ho : Table.find k s.ops = some op) (hk : op.kind = .pref l1) (ha : Op.acc op a.lane = some a) (hover : Acc.over a = false)
    (hp : a.place = .mem c) (hy : Table.find (c / 128) (State.die s (op.band / 64 / 16)).l2 = some y) (hclean : y.poison = 0) :
    exec (.storeAcknowledge k a.lane) s
      = .next (endAcc k a.lane (fillL1 s (op.band / 64) l1 (c / 128) y.bytes y.poison)) := by
  change execStoreAcknowledge k a.lane s = _
  unfold execStoreAcknowledge prefStep
  simp only [ho, ha, hk, hover, hp, lineOf, hy, hclean, beq_self_eq_true, if_true, Bool.false_eq_true, if_false]

/-- A range longer than 16,777,216 bytes is registered as its first 16,777,216 (R188). -/
theorem registerRange_min (x : Ix) (a n : Nat) (s : State) :
    registerRange x a (Nat.min n 16777216) s = registerRange x a n s := by
  have h : Nat.min (Nat.min n 16777216) 16777216 = Nat.min n 16777216 := Nat.min_eq_left (Nat.min_le_right ..)
  unfold registerRange
  rw [h]

theorem exec_prefb_of_goes {o : OpPrefb} {s : State} {iss : Issue} {x : Ix}
    (ha : ∀ l ∈ x.act, pairAddr o.s o.a (o.off.toInt * 128) x l % 128 = 0) (hg : Goes (.prefb o) noCause s iss x) :
    exec (.prefb o) s = .next (afterIssue (.prefb o) iss x x.sel
      (x.act.foldl (fun t l => registerRange x (pairAddr o.s o.a (o.off.toInt * 128) x l) (x.v l o.b.val).toNat t)
        (beginReplay x s))) := by
  change execPrefb o s = _
  unfold execPrefb
  simp only [genericAddr_eq]
  exact issueWith_of_goes (hg.aligned ha) rfl rfl

/-- Settles O22: each instruction is its shell's effect; a CFLUSH leaves one operation of a line for each active lane. -/
theorem cacheInstructions : Obligations.CacheInstructions := by
  unfold Obligations.CacheInstructions
  refine ⟨fun o s iss x hg => exec_cinv_of_goes hg, fun o s iss x hg hrep hre => ?_,
    fun o s iss x ha hg => exec_pref_of_goes ha hg, fun x s addr a h => mem_prefAccs h,
    fun s k op a c l1 y ho hk ha hover hp hy hclean => exec_storeAcknowledge_pref ho hk ha hover hp hy hclean,
    fun o s iss x ha hg => ?_⟩
  · have hexec := exec_cflush_of_goes hg
    rw [beginReplay_none hrep] at hexec
    have hissue : (flushStart o x s).issue = some iss := by
      rw [flushStart_rest]
      exact hg.issue
    obtain ⟨op, hop, hkind, hdc, haccs⟩ := find_newOp (.cflush o) x
      (.flush (o.scope == .dev || o.scope == .fab) (o.lvl == .l2)) o.dc o.scope .rlx
      (lineAccs x s (pairAddr o.s o.a (o.off.toInt * 128))) false 0 s
    refine ⟨_, op, hexec, ?_⟩
    rw [afterIssue_frame hissue hre, flushStart_rest]
    refine ⟨hop, hdc, hkind, ?_, rfl, rfl⟩
    rw [haccs, lineAccs, List.map_map]
    rfl
  · simp only [registerRange_min]
    exact exec_prefb_of_goes ha hg

end Sys2Proof.Machine

namespace Sys2Proof.Machine

open Sys2Proof.Forms

/-! # Stores into streams (spec/08_loads_stores_atomics.md R180, R199 to R201) -/

/-- The address of a lane of STR.strm (R175). -/
theorem strmAddr_eq (o : OpMem WTy) : strmAddr o = pairAddr o.s o.a (o.off.toInt * wySize o.ty) := by
  rw [← wySize_eq]
  exact genericAddr_fun o.s o.a _

/-- What the issue of STR.strm leaves, by the form of the STR with the same operands: its operation stands, its count has risen,
and the lanes that no higher lane at the same bytes replaces have made their records (R180, R200). -/
def MemForm.streamed (f : MemForm) (i : Instr) (x : Ix) (s : State) : State :=
  let as := (f.requests x).map Acc.leave
  let n := newOp i x f.kind f.dc .fab f.order as false 0 s
  (as.filter fun a => a.stage == .translated).foldl (streamLane (x.key / 64) x.gr.ctx n.1) (countIssue x f.dc n.2)

theorem exec_strStrm_of_goes {o : OpMem WTy} {s : State} {iss : Issue} {x : Ix} {f : MemForm}
    (hf : fabricForm (.str o) = some f) (hg : Goes (.strStrm o) (fabricCause f.addr f.size) s iss x) :
    exec (.strStrm o) s = .next (afterIssue (.strStrm o) iss x x.sel (f.streamed (.strStrm o) x (beginReplay x s))) := by
  cases hf
  have hready : strmHold o x s = false := hg.ready
  change execStrStrm o s = _
  unfold execStrStrm MemForm.streamed MemForm.requests Acc.leave
  simp only [strmAddr_eq, wySize_eq, regBytes_fun, beq_iff_eq]
  rw [issueUnless_of_goes hg hready rfl, filter_not_nil]
  rfl

/-- Settles O24: the premise takes the hold of STR.strm to be over, so its records are made as it issues. -/
theorem streamStore : Obligations.StreamStore := by
  unfold Obligations.StreamStore
  intro o s iss x f hf hg
  have hexec := exec_strStrm_of_goes hf hg
  cases hf
  exact hexec

end Sys2Proof.Machine

namespace Sys2Proof.Machine

/-! # Peers and streams (spec/08_loads_stores_atomics.md R193, R200 to R202; spec/19_firmware_host_fabric.md R477, R478) -/

/-! ## Arrivals at a station -/

@[simp] theorem station_send (s : State) (o : Out) (n : Nat) : State.station (State.send s o) n = State.station s n := rfl

section
variable {n : Nat} {a : Arrival} {s s1 : State}

/-- An arrival waits behind those that wait at the station. -/
def waitAtStation (n : Nat) (a : Arrival) (s : State) : State :=
  State.modStation s n fun t => { t with queue := t.queue ++ [a] }

theorem arriveAt_down (h : (State.station s n).down = true) : arriveAt n a s = s := by
  unfold arriveAt
  rw [if_pos h]

theorem arriveAt_behind (hd : (State.station s n).down = false) (hq : (State.station s n).queue ≠ []) :
    arriveAt n a s = waitAtStation n a s := by
  have he : (State.station s n).queue.isEmpty = false := List.isEmpty_eq_false_iff.mpr hq
  unfold arriveAt
  rw [hd, he]
  rfl

/-- With none before it, an arrival is performed at once. -/
theorem arriveAt_done (hd : (State.station s n).down = false) (hq : (State.station s n).queue = [])
    (h : serveArrival n a s = .done s1) : arriveAt n a s = s1 := by
  unfold arriveAt
  rw [hd, hq, h]
  rfl

/-- One whose lines are still to come waits. -/
theorem arriveAt_busy (hd : (State.station s n).down = false) (hq : (State.station s n).queue = [])
    (h : serveArrival n a s = .busy s1) : arriveAt n a s = waitAtStation n a s1 := by
  unfold arriveAt
  rw [hd, hq, h]
  rfl

end

section
variable {s : State}

theorem exec_peerRequest {r : PeerReq} (h : r.station < 24) (ha : peerAccepts r = true) :
    exec (.peerRequest r) s = .next (arriveAt r.station (.request r) s) := by
  change execPeerRequest r s = _
  unfold execPeerRequest
  rw [if_neg (Nat.not_le.mpr h), ha]
  rfl

theorem exec_streamOpen {r : StreamFullRec} (h : r.station < 24) :
    exec (.streamOpen r) s = .next (arriveAt r.station (.opened r) s) := if_neg (Nat.not_le.mpr h)

theorem exec_streamFull {r : StreamFullRec} (h : r.station < 24) :
    exec (.streamFull r) s = .next (arriveAt r.station (.full r) s) := if_neg (Nat.not_le.mpr h)

theorem exec_streamData {r : StreamDataRec} (h : r.station < 24) :
    exec (.streamData r) s = .next (arriveAt r.station (.data r) s) := if_neg (Nat.not_le.mpr h)

theorem exec_streamClose {n tag : Nat} (h : n < 24) :
    exec (.streamClose n tag) s = .next (arriveAt n (.closed tag) s) := if_neg (Nat.not_le.mpr h)

/-- Nothing of a peer's request is done at a station that is down, whether or not the device would accept it (R477). -/
theorem exec_peerRequest_down {r : PeerReq} (h : r.station < 24) (hd : (State.station s r.station).down = true) :
    exec (.peerRequest r) s = .next s := by
  cases ha : peerAccepts r with
  | true => rw [exec_peerRequest h ha, arriveAt_down hd]
  | false =>
    change execPeerRequest r s = _
    unfold execPeerRequest
    rw [if_neg (Nat.not_le.mpr h), ha]
    rfl

end

/-! ## What an arrival does -/

section
variable {s s1 : State}

theorem serveRequest_answered {r : PeerReq} {a : PeerAnswer} (h : peerPerform r.pctx r.va r.op s = (some a, s1)) :
    serveRequest r s = .done (State.send s1 (.answer r.station a)) := by
  unfold serveRequest
  rw [h]

theorem serveRequest_waits {r : PeerReq} (h : peerPerform r.pctx r.va r.op s = (none, s1)) : serveRequest r s = .busy s1 := by
  unfold serveRequest
  rw [h]

/-- A request to a context that is not live is denied (R193). -/
theorem peerPerform_denied {n va : Nat} {op : PeerOp} (h : liveCtx s n = false) :
    peerPerform n va op s = (some (.error errDenied), s) := by
  unfold peerPerform
  rw [h]
  rfl

section
variable {r : StreamFullRec} {a : PeerAnswer}

theorem serveOpen_waits (h : peerPerform r.pctx r.va (.write (recordData r.sz r.data)) s = (none, s1)) :
    serveOpen r s = .busy s1 := by
  unfold serveOpen
  rw [h]

theorem serveFull_waits (h : peerPerform r.pctx r.va (.write (recordData r.sz r.data)) s = (none, s1)) :
    serveFull r s = .busy s1 := by
  unfold serveFull
  rw [h]

theorem serveFull_done (h : peerPerform r.pctx r.va (.write (recordData r.sz r.data)) s = (some a, s1)) :
    serveFull r s = .done (moveStream r.station r.peer r.sid r.va (recordDone r.station a s1)) := by
  unfold serveFull
  rw [h]

/-- The lowest free receive context of a station (R200). -/
def freeRecv (n : Nat) (s : State) : Option Nat :=
  (List.range 256).find? fun k => (Table.find k (State.station s n).recv).isNone

/-- An OPEN whose write is not denied takes the lowest free receive context, and the sender learns its TAG (R200). -/
theorem serveOpen_admitted {n : Nat} (h : peerPerform r.pctx r.va (.write (recordData r.sz r.data)) s = (some a, s1))
    (ha : a ≠ .error errDenied) (hn : freeRecv r.station s1 = some n) :
    serveOpen r s = .done (State.send (State.modStation (recordDone r.station a s1) r.station fun t =>
      { t with recv := Table.set n ⟨r.peer, r.sid, r.pctx, r.va⟩ t.recv }) (.streamAck r.station r.peer r.sid true n)) := by
  have hfree : freeRecv r.station (recordDone r.station a s1) = some n := hn
  unfold freeRecv at hfree
  unfold serveOpen
  rw [h]
  dsimp only
  rw [if_neg ha, hfree]

/-- An OPEN whose write is denied, or that finds no free context, is refused (R200). -/
theorem serveOpen_refused (h : peerPerform r.pctx r.va (.write (recordData r.sz r.data)) s = (some a, s1))
    (hno : a = .error errDenied ∨ freeRecv r.station s1 = none) :
    serveOpen r s = .done (State.send (recordDone r.station a s1) (.streamAck r.station r.peer r.sid false 0)) := by
  have hnone : (if a = .error errDenied then none else freeRecv r.station (recordDone r.station a s1)) = none := by
    rcases hno with ha | hfree
    · rw [if_pos ha]
    · exact (congrArg (ite _ none) hfree).trans (ite_self _)
  unfold freeRecv at hnone
  unfold serveOpen
  rw [h]
  dsimp only
  rw [hnone]

end

/-- Where a DATA record of a stream writes: the stream's address and its DELTA, modulo 2^48 (R200). -/
def dataVa (x : RecvStream) (r : StreamDataRec) : Nat := (((x.addr : Int) + r.delta.toInt) % ((2 ^ 48 : Nat) : Int)).toNat

theorem serveData_done {r : StreamDataRec} {x : RecvStream} {a : PeerAnswer}
    (hx : Table.find r.tag (State.station s r.station).recv = some x)
    (h : peerPerform x.pctx (dataVa x r) (.write (recordData r.sz r.data)) s = (some a, s1)) :
    serveData r s = .done (State.modStation (recordDone r.station a s1) r.station fun t =>
      { t with recv := Table.alter r.tag (fun y => { y with addr := dataVa x r }) t.recv }) := by
  unfold dataVa at h ⊢
  unfold serveData
  simp only [hx, h]

theorem serveData_unknown {r : StreamDataRec} (hx : Table.find r.tag (State.station s r.station).recv = none) :
    serveData r s = .done (State.send s (.recordDone r.station errDenied)) := by
  unfold serveData
  rw [hx]
  rfl

end

/-! ## Sending streams -/

section
variable {s : State} {core k : Nat} {x : SendStream}

@[simp] theorem stream_setStream (s : State) (core k : Nat) (x : SendStream) :
    Core.stream (State.core (State.setStream s core k x) core) k = some x := by
  rw [State.setStream, core_modCore]
  exact Table.find_set _ _ _

@[simp] theorem stream_dropStream (s : State) (core k : Nat) :
    Core.stream (State.core (State.dropStream s core k) core) k = none := by
  rw [State.dropStream, core_modCore]
  exact Table.find_del _ _

theorem sendBuffer_empty (core k : Nat) (s : State) (h : x.buf = []) : sendBuffer core k x s = (x, s) := by
  unfold sendBuffer
  rw [h]
  rfl

/-- A buffer that holds a record leaves by the stream's station, as one write (R201). -/
theorem sendBuffer_full (core k : Nat) (s : State) (h : x.buf ≠ []) : sendBuffer core k x s
    = ({ x with buf := [], owners := [], age := 0 }, State.send s (.strm (streamStation x.peer k core) x.peer x.buf)) := by
  have he : x.buf.isEmpty = false := List.isEmpty_eq_false_iff.mpr h
  unfold sendBuffer
  rw [he]
  rfl

theorem sendBuffer_dram (core k : Nat) (x : SendStream) (s : State) : (sendBuffer core k x s).2.dram = s.dram := by
  unfold sendBuffer
  split <;> rfl

theorem length_closeRecord (tag : Nat) : (closeRecord tag).length = 8 := by
  simp [closeRecord, natLe_length]

/-- An open stream whose buffer is empty sends CLOSE and is forgotten (R202). -/
theorem closeStream_open (h : Core.stream (State.core s core) k = some x) (hp : x.phase = 1) (hb : x.buf = []) :
    closeStream core k s
      = State.dropStream (State.send s (.strm (streamStation x.peer k core) x.peer (closeRecord x.tag))) core k := by
  have hput : putRecord core k (closeRecord x.tag) [] x s
      = ({ x with buf := closeRecord x.tag, owners := x.owners ++ [], idle := 0 }, s) := by
    unfold putRecord
    simp [hb, length_closeRecord]
  have hne : closeRecord x.tag ≠ [] := List.ne_nil_of_length_pos (by rw [length_closeRecord]; decide)
  unfold closeStream
  simp only [h, hp, if_true, hput]
  rw [sendBuffer_full core k s hne]
  simp

/-- A refused stream that is closed is forgotten, once its records have left (log 18). -/
theorem closeStream_refused (h : Core.stream (State.core s core) k = some x) (hp : x.phase = 2) :
    closeStream core k s = State.dropStream (sendBuffer core k x s).2 core k := by
  unfold closeStream
  simp [h, hp]

/-- An opening stream once its ACK has come: open with its TAG, or refused (R200). -/
def SendStream.acked (x : SendStream) (ok : Bool) (tag : Nat) : SendStream :=
  if ok then { x with phase := 1, tag := tag, closing := false } else { x with phase := 2, refused := 0, closing := false }

/-- ACK settles an opening stream; one that its context has left then closes (R200, R202). -/
theorem exec_streamAck {sid : Nat} (ok : Bool) (tag : Nat)
    (h : Core.stream (State.core s (sid % 64)) (sid / 64 % 16) = some x) (hp : x.phase = 0) :
    exec (.streamAck ok sid tag) s = .next (if x.closing then
        closeStream (sid % 64) (sid / 64 % 16) (State.setStream s (sid % 64) (sid / 64 % 16) (x.acked ok tag))
      else State.setStream s (sid % 64) (sid / 64 % 16) (x.acked ok tag)) := by
  change execStreamAck ok sid tag s = _
  unfold execStreamAck
  simp only [h, hp, if_true]
  rfl

theorem exec_streamBufferTimeout (hc : core < 64) (h : Core.stream (State.core s core) k = some x) (hb : x.buf ≠ []) :
    exec (.streamBufferTimeout core k) s = .next (if x.age < 32 then s
      else State.setStream (sendBuffer core k x s).2 core k (sendBuffer core k x s).1) := by
  have he : x.buf.isEmpty = false := List.isEmpty_eq_false_iff.mpr hb
  change execStreamBufferTimeout core k s = _
  unfold execStreamBufferTimeout
  rw [if_neg (Nat.not_le.mpr hc)]
  simp only [h, he, Bool.false_eq_true, false_or]
  split <;> rfl

theorem exec_streamIdleClose (hc : core < 64) (h : Core.stream (State.core s core) k = some x) :
    exec (.streamIdleClose core k) s = .next (if x.phase = 1 ∧ 4096 ≤ x.idle then closeStream core k s else s) := by
  change execStreamIdleClose core k s = _
  unfold execStreamIdleClose
  rw [if_neg (Nat.not_le.mpr hc)]
  simp only [h]
  split <;> rfl

theorem exec_streamReopenTimeout (hc : core < 64) (h : Core.stream (State.core s core) k = some x) :
    exec (.streamReopenTimeout core k) s = .next (if x.phase = 2 ∧ 65536 ≤ x.refused then closeStream core k s else s) := by
  change execStreamReopenTimeout core k s = _
  unfold execStreamReopenTimeout
  rw [if_neg (Nat.not_le.mpr hc)]
  simp only [h]
  split <;> rfl

end

/-- Settles O54: what arrives first at a station that is up is served at once; what a stream sends is read off its step. -/
theorem peersAndStreams : Obligations.PeersAndStreams := by
  unfold Obligations.PeersAndStreams
  refine ⟨fun s r a s1 hn ha hd hq h => ?_, fun s r hn ha hd hq h => ?_, fun s s1 r hn ha hd hq h => ?_,
    fun s r hn ha hd hq => ?_, fun s n k w => ⟨rfl, rfl⟩, fun s s1 r a hn hd hq h => ⟨fun n hne hfree => ?_, fun hno => ?_, ?_⟩,
    fun s s1 r hn hd hq h => ⟨?_, ?_⟩, fun s s1 r x a hn hd hq hx h hst => ?_, fun s r hn hd hq hx => ?_,
    fun s n tag hn hd hq => ?_, fun s n r d tag hn hr hdn hd hq k hk => ?_, fun s n q r d tag hn hqn hr hdn hd => ?_,
    fun s ok sid tag x h hp => ⟨fun hc => ?_, fun hc hb => ?_⟩,
    fun s core route x hc h hb => ⟨fun hage => ?_, fun hage => ?_⟩,
    fun s core route x hc h => ⟨fun hnot => ?_, fun hp hidle hb => ?_, fun hp href => ?_, fun hp href => ?_⟩⟩
  · rw [exec_peerRequest hn ha, arriveAt_done (a := .request r) hd hq (serveRequest_answered h)]
  · rw [exec_peerRequest hn ha, arriveAt_done (a := .request r) hd hq (serveRequest_answered (peerPerform_denied h))]
  · rw [exec_peerRequest hn ha, arriveAt_busy (a := .request r) hd hq (serveRequest_waits h)]
    rfl
  · rw [exec_peerRequest hn ha, arriveAt_behind hd hq]
    rfl
  · rw [exec_streamOpen hn, arriveAt_done (a := .opened r) hd hq (serveOpen_admitted h hne hfree)]
    refine ⟨_, rfl, ?_, rfl, rfl⟩
    rw [station_send, station_modStation]
    exact Table.find_set _ _ _
  · rw [exec_streamOpen hn, arriveAt_done (a := .opened r) hd hq (serveOpen_refused h hno)]
    exact ⟨_, rfl, rfl, rfl, rfl⟩
  · rw [exec_streamFull hn, arriveAt_done (a := .full r) hd hq (serveFull_done h)]
  · rw [exec_streamOpen hn, arriveAt_busy (a := .opened r) hd hq (serveOpen_waits h)]
    rfl
  · rw [exec_streamFull hn, arriveAt_busy (a := .full r) hd hq (serveFull_waits h)]
    rfl
  · rw [exec_streamData hn, arriveAt_done (a := .data r) hd hq (serveData_done hx h)]
    have hkeep : State.station (recordDone r.station a s1) r.station = State.station s r.station := by
      unfold recordDone
      rw [station_send, State.station, hst]
      rfl
    refine ⟨_, rfl, rfl, rfl, ?_⟩
    rw [station_modStation, hkeep]
    exact Table.find_alter hx
  · rw [exec_streamData hn, arriveAt_done (a := .data r) hd hq (serveData_unknown hx)]
  · rw [exec_streamClose hn, arriveAt_done (a := .closed tag) hd hq rfl]
    refine ⟨_, rfl, ?_, fun m hm => ?_, rfl, rfl⟩
    · rw [serveClose, station_modStation]
      exact Table.find_del _ _
    · rw [serveClose, station_modStation]
      exact Table.find_del_ne _ hm
  · subst hk hr
    rw [exec_streamOpen hn, exec_streamFull hn, exec_streamData (hdn ▸ hn), exec_streamClose hn, hdn]
    simp only [arriveAt_behind hd hq, waitAtStation, and_self]
  · subst hqn
    rw [exec_peerRequest_down hn hd, exec_streamOpen (hr ▸ hn), exec_streamFull (hr ▸ hn), exec_streamData (hdn ▸ hn),
      exec_streamClose hn, hr, hdn]
    simp only [arriveAt_down hd, and_self]
  · rw [exec_streamAck ok tag h hp, hc, if_neg Bool.false_ne_true]
    refine ⟨_, rfl, rfl, rfl, ?_⟩
    rw [stream_setStream, SendStream.acked, ← hc]
  · rw [exec_streamAck ok tag h hp, if_pos hc]
    cases ok with
    | true =>
      rw [closeStream_open (x := x.acked true tag) (stream_setStream ..) rfl hb]
      exact ⟨_, rfl, rfl, stream_dropStream _ _ _, rfl⟩
    | false =>
      rw [closeStream_refused (x := x.acked false tag) (stream_setStream ..) rfl,
        sendBuffer_empty (x := x.acked false tag) _ _ _ hb]
      exact ⟨_, rfl, rfl, stream_dropStream _ _ _, (List.append_nil _).symm⟩
  · rw [exec_streamBufferTimeout hc h hb, if_pos hage]
  · rw [exec_streamBufferTimeout hc h hb, if_neg (Nat.not_lt.mpr hage), sendBuffer_full core route s hb]
    exact ⟨_, rfl, rfl, stream_setStream _ _ _ _, rfl⟩
  · rw [exec_streamIdleClose hc h, if_neg hnot]
  · rw [exec_streamIdleClose hc h, if_pos ⟨hp, hidle⟩, closeStream_open h hp hb]
    exact ⟨_, rfl, stream_dropStream _ _ _, rfl, rfl⟩
  · rw [exec_streamReopenTimeout hc h, if_neg fun hdue => absurd hdue.2 (Nat.not_le.mpr href)]
  · rw [exec_streamReopenTimeout hc h, if_pos ⟨hp, href⟩, closeStream_refused h hp]
    exact ⟨_, rfl, stream_dropStream _ _ _, sendBuffer_dram _ _ _ _⟩

end Sys2Proof.Machine

namespace Sys2Proof.Machine

open Sys2Proof.Forms

/-! # Special registers and constants (spec/09_registers_and_formats.md R206, spec/10_integer_and_logic.md R237, R239) -/

/-! ## An instruction of which every active lane takes a cause (R77, R429) -/

/-- The trap of one cause in each lane of a list, at the lane's own address. -/
def trapsIn (ls : List Nat) (c : Nat) (a : Nat → Dword) : List Trap := ls.map fun l => ⟨l, c, a l⟩

theorem any_trapsIn (ls : List Nat) (c : Nat) (a : Nat → Dword) (l : Nat) :
    ((trapsIn ls c a).any fun t => t.lane == l) = ls.elem l := by
  simp [trapsIn, List.any_map, Function.comp_def, List.any_beq']

theorem find_trapsIn (ls : List Nat) (c : Nat) (a : Nat → Dword) (l : Nat) :
    ((trapsIn ls c a).find? fun t => t.lane == l) = if ls.elem l then some ⟨l, c, a l⟩ else none := by
  induction ls with
  | nil => rfl
  | cons k ls ih =>
    by_cases h : k = l
    · subst h
      simp [trapsIn]
    · simp_all [trapsIn, Ne.symm h]

/-- Of the selected lanes those that take a trap are those of the list, in the order of the selection. -/
theorem filterMap_find_trapsIn (sel ls : List Nat) (c : Nat) (a : Nat → Dword) :
    (sel.filterMap fun l => (trapsIn ls c a).find? fun t => t.lane == l) = trapsIn (sel.filter fun l => ls.elem l) c a := by
  simp only [find_trapsIn]
  rw [trapsIn, ← List.filterMap_eq_map, List.filterMap_filter]
  rfl

/-- Without POISON among the causes no word is read for its code (R141). -/
theorem sensePoison_trapsIn {c : Nat} (i : Instr) (x : Ix) (ls : List Nat) (a : Nat → Dword) (s : State)
    (h : c ≠ causePoison) : sensePoison i x (trapsIn ls c a) s = s := by
  have hnone : (trapsIn ls c a).filter (fun t => t.cause == causePoison) = [] := by
    simp [trapsIn, List.filter_eq_nil_iff, h]
  unfold sensePoison
  rw [hnone]
  rfl

theorem mismatched_nil (i : Instr) (u : Uses) (iss : Issue) (op : Nat) : mismatched i u iss op [] = [] := by
  simp [mismatched]

/-- Every active lane takes the cause: the effect is left out, the lanes outside the guard go on, the traps are delivered. -/
theorem perform_of_caused {i : Instr} {own : Own} {eff : Ix → State → Res} {iss : Issue} {x : Ix} {s : State} {c : Nat}
    {a : Nat → Dword} (hc : ∀ l ∈ x.act, causeOf i own x s l = some ⟨l, c, a l⟩) (hp : c ≠ causePoison)
    (hd : counterOf i = none) :
    perform i own eff iss x s = deliverAll x.key x.pc (trapsIn (x.sel.filter fun l => x.act.elem l) c a)
      (State.modBand (beginReplay x s) x.key (advance x (slotCount i) (x.sel.filter fun l => !x.act.elem l))) := by
  have htraps : x.act.filterMap (causeOf i own x s) = trapsIn x.act c a := by
    rw [trapsIn, ← List.filterMap_eq_map]
    exact List.filterMap_congr hc
  have hlive : (x.act.filter fun l => !x.act.elem l) = [] := by simp
  have hon : (x.sel.filter fun l => !(x.sel.filter fun l => x.act.elem l).elem l) = x.sel.filter fun l => !x.act.elem l :=
    List.filter_congr fun l hl => by simp [hl]
  unfold perform
  simp only [htraps, any_trapsIn, hlive, mismatched_nil, sensePoison_trapsIn _ _ _ _ _ hp, hd, countDown, ite_self,
    List.filter_nil, List.isEmpty_nil, if_true, List.map_nil, List.append_nil, filterMap_find_trapsIn, List.elem_nil,
    Bool.not_false, Bool.and_true, hon]

/-! ## SLDC (R237) -/

/-- SLDC's offset is off its size: the only cause of its own. -/
def sldcCause (o : OpSI Wd) : Own := fun x _ _ =>
  if sldcOffset o x % (bits (Wd.is64 o.ty) / 8) = 0 then none else some (causeMisaligned, BitVec.ofNat 64 (sldcOffset o x))

/-- What SLDC loads: the bytes at its offset, zero at and above CONSTSZ. -/
def sldcValue (o : OpSI Wd) (x : Ix) : Nat :=
  leNat ((List.range (bits (Wd.is64 o.ty) / 8)).map fun i => constByte x.gr (sldcOffset o x + i))

theorem wdBytes_eq (w : Wd) : (if Wd.is64 w then 8 else 4) = bits (Wd.is64 w) / 8 := by cases w <;> rfl

theorem exec_sldc (o : OpSI Wd) (s : State) : exec (.sldc o) s = issueWith (.sldc o) (sldcCause o)
    (fun x s => { s := holdResults x.key (heldS (maskOf x.act) o.d.val (Wd.is64 o.ty) (sldcValue o x)) s }) s := by
  change execSldc o s = _
  unfold execSldc
  rw [wdBytes_eq]
  rfl

theorem exec_sldc_of_goes {o : OpSI Wd} {s : State} {iss : Issue} {x : Ix}
    (ha : ∀ l ∈ x.act, sldcOffset o x % (bits (Wd.is64 o.ty) / 8) = 0) (hg : Goes (.sldc o) noCause s iss x) :
    exec (.sldc o) s = .next (afterHeld (.sldc o) iss x
      (heldS (maskOf x.act) o.d.val (Wd.is64 o.ty) (sldcValue o x)) s) := by
  rw [exec_sldc]
  exact issueWith_of_goes (hg.withOwn fun l hl => if_pos (ha l hl)) rfl rfl

theorem exec_sldc_of_misaligned {o : OpSI Wd} {s : State} {iss : Issue} {x : Ix}
    (ha : sldcOffset o x % (bits (Wd.is64 o.ty) / 8) ≠ 0) (hi : s.issue = some iss)
    (hx : indexOf s iss.band iss.grp (uses (.sldc o)).g = some x) (hu : heldUp (.sldc o) x s = false)
    (hr : reservedReg (uses (.sldc o)) x = false) :
    exec (.sldc o) s = .next (endIssue (Issue.issued iss) (deliverAll x.key x.pc
      (trapsIn (x.sel.filter fun l => x.act.elem l) causeMisaligned fun _ => BitVec.ofNat 64 (sldcOffset o x))
      (State.modBand (beginReplay x s) x.key
        (advance x (slotCount (.sldc o)) (x.sel.filter fun l => !x.act.elem l))))) := by
  have hc : ∀ l ∈ x.act, causeOf (.sldc o) (sldcCause o) x s l
      = some ⟨l, causeMisaligned, BitVec.ofNat 64 (sldcOffset o x)⟩ := fun _ _ => causeOf_of_own (if_neg ha) hr
  rw [exec_sldc, issueWith, issueUnless_of_free hi hx hu rfl, perform_of_caused hc (by decide) rfl]

/-! ## SRD and SWR (R206) -/

theorem exec_srd_of_goes {o : OpSpecial} {r : SpecReg} {s : State} {iss : Issue} {x : Ix} (hr : specReg o.num = some r)
    (hg : Goes (.srd o) noCause s iss x) :
    exec (.srd o) s = .next (afterHeld (.srd o) iss x
      (heldS (maskOf x.act) o.r.val (SpecReg.is64 r) (specialValue x (beginReplay x s) r)) s) := by
  change execSrd o s = _
  unfold execSrd
  rw [hr]
  exact issueWith_of_goes hg rfl rfl

/-- What SWR does at its issue: %fflags is written, the writes of the switch point are held. -/
def swrEffect (o : OpSpecial) (x : Ix) (s : State) : State :=
  match specReg o.num with
  | some .fflags => State.modBand s x.key fun b => { b with fflags := BitVec.setWidth 5 (x.s o.r.val) }
  | some .cycles => holdResults x.key [.special (maskOf x.act) .cycles (x.s o.r.val)] s
  | some .spflag => holdResults x.key [.special (maskOf x.act) .spflag (x.s o.r.val)] s
  | some .lthresh => holdResults x.key [.special (maskOf x.act) .lthresh (x.s o.r.val)] s
  | _ => s

/-- %cycles is written with privilege only (R206). -/
def swrCause (o : OpSpecial) : Own := fun x _ _ =>
  if specReg o.num = some .cycles ∧ !privileged x.gr then some (causePriv, 0) else none

theorem swrCause_none {o : OpSpecial} {x : Ix} (h : x.gr.ctx = 0 ∨ specReg o.num ≠ some .cycles) (s : State) (l : Nat) :
    swrCause o x s l = none := by
  refine if_neg ?_
  rintro ⟨hcycles, hpriv⟩
  rcases h with hctx | hother
  · simp [privileged, hctx] at hpriv
  · exact hother hcycles

theorem exec_swr (o : OpSpecial) (s : State) :
    exec (.swr o) s = issueWith (.swr o) (swrCause o) (fun x s => { s := swrEffect o x s }) s := by
  change execSwr o s = _
  unfold execSwr swrCause swrEffect
  cases specReg o.num with
  | none => rfl
  | some r => cases r <;> rfl

theorem exec_swr_of_goes {o : OpSpecial} {s : State} {iss : Issue} {x : Ix}
    (hp : x.gr.ctx = 0 ∨ specReg o.num ≠ some .cycles) (hg : Goes (.swr o) noCause s iss x) :
    exec (.swr o) s = .next (afterIssue (.swr o) iss x x.sel (swrEffect o x (beginReplay x s))) := by
  rw [exec_swr]
  exact issueWith_of_goes (hg.withOwn fun l _ => swrCause_none hp s l) rfl rfl

/-- Settles O14: each instruction is its shell's effect; SLDC off its size delivers its trap in every active lane. -/
theorem specialAndConstant : Obligations.SpecialAndConstant := by
  unfold Obligations.SpecialAndConstant
  refine ⟨fun o s iss x ha hg => exec_sldc_of_goes ha hg,
    fun o s iss x ha hi hx hu hr => exec_sldc_of_misaligned ha hi hx hu hr,
    fun o s iss x hg => issueWith_of_goes hg rfl rfl,
    fun o r s iss x hr hg => exec_srd_of_goes hr hg,
    fun o s iss x hg hp => ?_⟩
  rw [exec_swr_of_goes hp hg]
  unfold swrEffect afterHeld
  refine ⟨fun h => ?_, fun h => ?_, fun h => ?_, fun h => ?_⟩
  all_goals rw [h]

end Sys2Proof.Machine

namespace Sys2Proof.Machine

open Sys2Proof.Forms

/-! # Scalar, vector and condition results (spec/10_integer_and_logic.md R233 to R250) -/

/-! ## The three shells: what they leave, and when they are a table's entry -/

theorem scalarOp_of_goes {i : Instr} {d : SReg} {wide : Bool} {f : Ix → Nat} {s : State} {iss : Issue} {x : Ix}
    (hg : Goes i noCause s iss x) :
    scalarOp i d wide f s = .next (afterHeld i iss x (heldS (maskOf x.act) d.val wide (f x)) s) :=
  issueWith_of_goes hg rfl rfl

theorem vectorOp_of_goes {i : Instr} {d : VReg} {wide : Bool} {f : Ix → Nat → Nat} {s : State} {iss : Issue} {x : Ix}
    (hg : Goes i noCause s iss x) :
    vectorOp i d wide f s = .next (afterHeld i iss x (x.act.flatMap fun l => heldV l d.val wide (f x l)) s) :=
  issueWith_of_goes hg rfl rfl

theorem condOp_of_goes {i : Instr} {d : CDst} {f : Ix → Nat → Bool} {s : State} {iss : Issue} {x : Ix}
    (hg : Goes i noCause s iss x) :
    condOp i d f s = .next (afterHeld i iss x (x.act.map fun l => .cond l d.val (f x l)) s) :=
  issueWith_of_goes hg rfl rfl

/-- Whatever way the shell's value is written, where it is an entry's value the shell is the entry's. -/
theorem scalarOp_of_table {i : Instr} {d e : SReg} {wide w : Bool} {f g t : Ix → Nat} {s : State}
    (h : some (e, w, t) = some (d, wide, f)) (hv : ∀ x, g x = t x) : scalarOp i e w g s = scalarOp i d wide f s := by
  cases h
  rw [funext hv]

theorem vectorOp_of_table {i : Instr} {d e : VReg} {wide w : Bool} {f g t : Ix → Nat → Nat} {s : State}
    (h : some (e, w, t) = some (d, wide, f)) (hv : ∀ x l, g x l = t x l) :
    vectorOp i e w g s = vectorOp i d wide f s := by
  cases h
  rw [funext fun x => funext (hv x)]

theorem condOp_of_table {i : Instr} {d e : CDst} {f g t : Ix → Nat → Bool} {s : State}
    (h : some (e, t) = some (d, f)) (hv : ∀ x l, g x l = t x l) : condOp i e g s = condOp i d f s := by
  cases h
  rw [funext fun x => funext (hv x)]

/-! ## Immediates (R229) -/

theorem wrapTo_lt (w : Nat) (y : Int) : wrapTo w y < 2 ^ w := by
  have hpos : (0 : Int) < ((2 ^ w : Nat) : Int) := Int.natCast_pos.mpr (Nat.two_pow_pos w)
  exact (Int.toNat_lt (Int.emod_nonneg y hpos.ne')).mpr (Int.emod_lt_of_pos y hpos)

theorem immTo_lt (sg wide : Bool) (m : BitVec 16) : immTo sg (bits wide) m < 2 ^ bits wide := by
  rw [← imm_eq]
  exact wrapTo_lt _ _

theorem imm32_eq (sg : Bool) (m : BitVec 16) : Arith.imm sg 32 m = immTo sg 32 m := imm_eq sg false m

theorem scalarSI_eq (i : Instr) (o : OpSI ITy) (g : Nat → Nat → Nat) (s : State) :
    scalarSI i o g s = scalarOp i o.d (ITy.is64 o.ty)
      (fun x => g (x.sw (ITy.is64 o.ty) o.a.val) (immTo (ITy.signed o.ty) (bits (ITy.is64 o.ty)) o.imm)) s := by
  rw [← imm_eq]
  rfl

theorem vectorVI_eq (i : Instr) (d a : VReg) (m : BitVec 16) (wide sg : Bool) (g : Nat → Nat → Nat) (s : State) :
    vectorVI i d a m wide sg g s = vectorOp i d wide (fun x l => g (x.vw l wide a.val) (immTo sg (bits wide) m)) s := by
  rw [← imm_eq]
  rfl

/-! ## Comparisons and exact integers -/

theorem flagNat_compare (c : Cmp) (sg : Bool) (w p q : Nat) :
    flagNat (Arith.compare c (Arith.val sg w p) (Arith.val sg w q))
      = if holds c (intOf sg w p) (intOf sg w q) then 1 else 0 := by
  rw [compare_eq, val_eq, val_eq]
  rfl

/-- An operation on integers is its table's, however it is written (R228). -/
theorem intOp_eq {ty : ITy} {sat : Bool} {f g : Int → Int → Int} (hf : ∀ a b, f a b = g a b) (p q : Nat) :
    intOp ty sat f p q = exact2 ty sat g p q := by
  unfold intOp exact2
  rw [put_eq, val_eq, val_eq, hf]
  rfl

theorem natAbs_eq_ite (a : Int) : (a.natAbs : Int) = if a < 0 then -a else a := by
  split <;> omega

theorem natAbs_sub_eq_ite (a b : Int) : ((a - b).natAbs : Int) = if a < b then b - a else a - b := by
  split <;> omega

theorem intAbs_eq (ty : ITy) (sat : Bool) (p : Nat) :
    intAbs ty sat p = exact1 ty sat (fun a => if a < 0 then -a else a) p :=
  intOp_eq (g := fun a _ => if a < 0 then -a else a) (fun a _ => natAbs_eq_ite a) p 0

theorem intNeg_eq (ty : ITy) (sat : Bool) (p : Nat) : intNeg ty sat p = exact1 ty sat (fun a => -a) p :=
  intOp_eq (g := fun a _ => -a) (fun _ _ => rfl) p 0

theorem ite_lt_eq_min (a b : Int) : (if b < a then b else a) = min a b := ((min_comm a b).trans (min_def_lt b a)).symm
theorem ite_lt_eq_max (a b : Int) : (if a < b then b else a) = max a b := (max_def_lt a b).symm

/-- Bit w of a sum with carry is set where the sum is 2^w or more (R243). -/
theorem testBit_carry {w p q c : Nat} (hp : p < 2 ^ w) (hq : q < 2 ^ w) (hc : c ≤ 1) :
    (p + q + c).testBit w = decide (2 ^ w ≤ p + q + c) :=
  testBit_top (n := w + 1) (Nat.succ_pos w) (by omega)

/-! ## The instructions, by their tables -/

/-- Each form of the scalar table runs in the scalar shell, on the value the table gives (R233 to R236, R238). -/
theorem exec_eq_scalarOp {i : Instr} {d : SReg} {wide : Bool} {f : Ix → Nat} (h : scalarValue i = some (d, wide, f))
    (s : State) : exec i s = scalarOp i d wide f s := by
  cases i with
  | smov o | saddS o | saddSR o | smulS o | smulSR o | sandS o | sandSR o | sorS o | sorSR o | sxorS o | sxorSR o
  | srdlane o => exact scalarOp_of_table h fun _ => rfl
  | smovi o =>
    refine scalarOp_of_table h fun _ => ?_
    cases o.ty with
    | i32 => exact imm32_eq ..
    | n32 | hi => rfl
  | saddSI o | smulSI o | sandSI o | sorSI o | sxorSI o =>
    exact (scalarSI_eq ..).trans (scalarOp_of_table h fun _ => rfl)
  | ssubS o | ssubSR o => exact scalarOp_of_table h fun _ => sub_eq (Ix.sw_lt ..)
  | ssubSI o => exact (scalarSI_eq ..).trans (scalarOp_of_table h fun _ => sub_eq (immTo_lt ..))
  | smulhS o | smulhSR o => exact scalarOp_of_table h fun _ => mulh_eq ..
  | sdivS o | sdivSR o => exact scalarOp_of_table h fun _ => divide_eq (bits_pos _)
  | sdivSI o => exact (scalarSI_eq ..).trans (scalarOp_of_table h fun _ => divide_eq (bits_pos _))
  | sremS o | sremSR o => exact scalarOp_of_table h fun _ => remain_eq (bits_pos _)
  | sremSI o => exact (scalarSI_eq ..).trans (scalarOp_of_table h fun _ => remain_eq (bits_pos _))
  | sshlS o | sshlSR o => exact scalarOp_of_table h fun _ => shl_eq ..
  | sshlSI o => exact (scalarSI_eq ..).trans (scalarOp_of_table h fun _ => shl_eq ..)
  | sshrS o | sshrSR o => exact scalarOp_of_table h fun _ => shr_eq ..
  | sshrSI o => exact (scalarSI_eq ..).trans (scalarOp_of_table h fun _ => shr_eq ..)
  | ssraS o | ssraSR o => exact scalarOp_of_table h fun _ => sra_eq (bits_pos _) (Ix.sw_lt ..)
  | ssraSI o => exact (scalarSI_eq ..).trans (scalarOp_of_table h fun _ => sra_eq (bits_pos _) (Ix.sw_lt ..))
  | scmpI32S o | scmpI32SR o | scmpN32S o | scmpN32SR o => exact scalarOp_of_table h fun _ => flagNat_compare ..
  | scmpI32SI o | scmpN32SI o =>
    refine scalarOp_of_table h fun _ => ?_
    rw [imm32_eq]
    exact flagNat_compare ..
  | ssel o => exact scalarOp_of_table h fun _ => (ite_not ..).symm
  | _ => exact nomatch h

/-- Each form of the vector table runs in the vector shell, likewise (R242 to R250, R257, R259, R269). -/
theorem exec_eq_vectorOp {i : Instr} {d : VReg} {wide : Bool} {f : Ix → Nat → Nat}
    (h : vectorValue i = some (d, wide, f)) (s : State) : exec i s = vectorOp i d wide f s := by
  cases i with
  | movV o | movVR o | vmovs o | isel o | fminV o | fminVR o | fmaxV o | fmaxVR o | fsel o | xpullV o | xpullVR o
  | xbcastVR o | xbcastVI o => exact vectorOp_of_table h fun _ _ => rfl
  | movi o =>
    refine vectorOp_of_table h fun _ _ => ?_
    cases o.ty with
    | i32 => exact imm32_eq ..
    | n32 | hi => rfl
  | iaddV o | iaddVR o | isubV o | isubVR o | imulV o | imulVR o =>
    exact vectorOp_of_table h fun _ _ => intOp_eq (fun _ _ => rfl) ..
  | iaddVI o | isubVI o | imulVI o =>
    exact (vectorVI_eq ..).trans (vectorOp_of_table h fun _ _ => intOp_eq (fun _ _ => rfl) ..)
  | imulhV o | imulhVR o => exact vectorOp_of_table h fun _ _ => mulh_eq ..
  | imad o =>
    refine vectorOp_of_table h fun _ _ => ?_
    simp only [put_eq, val_eq, width_eq]
  | iminV o | iminVR o => exact vectorOp_of_table h fun _ _ => intOp_eq ite_lt_eq_min ..
  | iminVI o => exact (vectorVI_eq ..).trans (vectorOp_of_table h fun _ _ => intOp_eq ite_lt_eq_min ..)
  | imaxV o | imaxVR o => exact vectorOp_of_table h fun _ _ => intOp_eq ite_lt_eq_max ..
  | imaxVI o => exact (vectorVI_eq ..).trans (vectorOp_of_table h fun _ _ => intOp_eq ite_lt_eq_max ..)
  | iabsV o | iabsVR o => exact vectorOp_of_table h fun _ _ => intAbs_eq ..
  | inegV o | inegVR o => exact vectorOp_of_table h fun _ _ => intNeg_eq ..
  | isad o =>
    refine vectorOp_of_table h fun _ _ => ?_
    simp only [wrap_eq, val_eq, width_eq, natAbs_sub_eq_ite]
  | shlV o | shlVR o => exact vectorOp_of_table h fun _ _ => shl_eq ..
  | shlVI o => exact (vectorVI_eq ..).trans (vectorOp_of_table h fun _ _ => shl_eq ..)
  | shrV o | shrVR o => exact vectorOp_of_table h fun _ _ => shr_eq ..
  | shrVI o => exact (vectorVI_eq ..).trans (vectorOp_of_table h fun _ _ => shr_eq ..)
  | sraV o | sraVR o => exact vectorOp_of_table h fun _ _ => sra_eq (bits_pos _) (Ix.vw_lt ..)
  | sraVI o => exact (vectorVI_eq ..).trans (vectorOp_of_table h fun _ _ => sra_eq (bits_pos _) (Ix.vw_lt ..))
  | rotV o | rotVR o => exact vectorOp_of_table h fun _ _ => rot_eq (bits_pos _) (Ix.vw_lt ..)
  | rotVI o => exact (vectorVI_eq ..).trans (vectorOp_of_table h fun _ _ => rot_eq (bits_pos _) (Ix.vw_lt ..))
  | lmux o => exact vectorOp_of_table h fun _ _ => lmux_eq ..
  | bfx o => exact vectorOp_of_table h fun _ _ => bfx_eq (Ix.vw_lt ..)
  | bfi o => exact vectorOp_of_table h fun _ _ => bfi_eq ..
  | popcV o | popcVR o => exact vectorOp_of_table h fun _ _ => popc_eq ..
  | clzV o | clzVR o => exact vectorOp_of_table h fun _ _ => clz_eq (Ix.vw_lt ..)
  | brevV o | brevVR o => exact vectorOp_of_table h fun _ _ => brev_eq ..
  | bytep o => exact vectorOp_of_table h fun x l => bytep_eq o.sel (Ix.vw_lt x l false _) (Ix.vw_lt x l false _)
  | _ => exact nomatch h

/-- Each form of the condition table runs in the condition shell, likewise (R244, R258, R260, R271). -/
theorem exec_eq_condOp {i : Instr} {d : CDst} {f : Ix → Nat → Bool} (h : condValue i = some (d, f)) (s : State) :
    exec i s = condOp i d f s := by
  cases i with
  | icmpVR o =>
    refine condOp_of_table h fun _ _ => ?_
    simp only [compare_eq, val_eq, width_eq]
  | icmpVI o =>
    refine condOp_of_table h fun _ _ => ?_
    simp only [compare_eq, val_eq, width_eq, imm_eq]
  | fcmp o | fclass o | xany o | xall o => exact condOp_of_table h fun _ _ => rfl
  | _ => exact nomatch h

/-- Settles O11: each form is the scalar shell of its table's value. -/
theorem scalarResults : Obligations.ScalarResults := by
  unfold Obligations.ScalarResults
  intro i d wide f s iss x h hg
  rw [exec_eq_scalarOp h]
  exact scalarOp_of_goes hg

/-- Settles O12: each form is the vector shell of its table's value. -/
theorem vectorResults : Obligations.VectorResults := by
  unfold Obligations.VectorResults
  intro i d wide f s iss x h hg
  rw [exec_eq_vectorOp h]
  exact vectorOp_of_goes hg

/-- Settles O13: each form is the condition shell of its table's value; IADDC's carry is bit w of its sum. -/
theorem conditionResults : Obligations.ConditionResults := by
  unfold Obligations.ConditionResults
  refine ⟨fun i d f s iss x h hg => ?_, fun o s iss x hg => ?_⟩
  · rw [exec_eq_condOp h]
    exact condOp_of_goes hg
  · have hcarry (l : Nat) := testBit_carry (c := if x.pred l ⟨false, o.k.castSucc⟩ then 1 else 0)
      (Ix.vw_lt x l (ITy.is64 o.ty) o.a.val) (Ix.src_lt x l (ITy.is64 o.ty) o.b) (by split <;> omega)
    simp only [← hcarry]
    exact issueWith_of_goes hg rfl rfl

end Sys2Proof.Machine

namespace Sys2Proof.Machine

open Sys2Proof.Forms

/-! # Rounded results, cross-lane instructions, the exact accumulator (spec/11_float_crosslane_exact.md R253 to R276) -/

/-! ## One rounding in each active lane (R253, R256 to R265) -/

theorem roundOp_of_goes {i : Instr} {d : VReg} {wide : Bool} {md : Rnd} {f : Ix → Nat → Nat → Nat × Fp.Flags} {s : State}
    {iss : Issue} {x : Ix} (hg : Goes i noCause s iss x) :
    roundOp i d wide md f s = .next (afterIssue i iss x x.sel
      (let rs := x.act.map fun l => (l, roundWith md (Band.lane x.b l).gen (f x l))
       noteRounded x.key rs (holdResults x.key (rs.flatMap fun r => heldV r.1 d.val wide r.2.v) (beginReplay x s)))) :=
  issueWith_of_goes hg rfl rfl

/-- Whatever way the rounding shell's value is written, where it is an entry's value the shell is the entry's. -/
theorem roundOp_of_table {i : Instr} {d e : VReg} {wide w : Bool} {md m : Rnd} {f g t : Ix → Nat → Nat → Nat × Fp.Flags}
    {s : State} (h : some (e, w, m, t) = some (d, wide, md, f)) (hv : ∀ x l rb, g x l rb = t x l rb) :
    roundOp i e w m g s = roundOp i d wide md f s := by
  cases h
  rw [funext fun x => funext fun l => funext (hv x l)]

/-- Each form of the table of rounded results runs in the rounding shell, on the value the table gives. -/
theorem exec_eq_roundOp {i : Instr} {d : VReg} {wide : Bool} {md : Rnd} {f : Ix → Nat → Nat → Nat × Fp.Flags}
    (h : roundedValue i = some (d, wide, md, f)) (s : State) : exec i s = roundOp i d wide md f s := by
  cases i with
  | faddV o | faddVR o | fsubV o | fsubVR o | fmulV o | fmulVR o | fma o | frndV o | frndVR o | cvt o | cvtsr o =>
    exact roundOp_of_table h fun _ _ _ => rfl
  | unpack o =>
    refine roundOp_of_table h fun _ _ _ => ?_
    rw [Nat.shiftRight_eq_div_pow]
  | _ => exact nomatch h

/-- Settles O15: each form is the rounding shell of its table's value; PACK's shell notes its two roundings at once. -/
theorem roundedResults : Obligations.RoundedResults := by
  unfold Obligations.RoundedResults
  refine ⟨fun i d wide md f s iss x h hg => ?_, fun o s iss x hg => issueWith_of_goes hg rfl rfl⟩
  rw [exec_eq_roundOp h]
  exact roundOp_of_goes hg

/-! ## Cross-lane results (R270 to R272) -/

/-- Settles O17: each instruction is its shell's effect; XPFX reads and writes integers as R228 does. -/
theorem crossLaneInstructions : Obligations.CrossLane := by
  unfold Obligations.CrossLane
  refine ⟨fun o s iss x hg => issueWith_of_goes hg rfl rfl, fun o s iss x hg => issueWith_of_goes hg rfl rfl,
    fun o s iss x hg => ?_⟩
  simp only [← val_eq, ← wrap_eq, ← width_eq]
  exact issueWith_of_goes hg rfl rfl

/-! ## The scan of the exact accumulator (R275) -/

/-- The accumulator once the lanes `ls` have added their values. -/
def kaddAll (f : Fp.Fmt) (a : Nat → Nat) (k : Ka) (ls : List Nat) : Ka := ls.foldl (fun k l => Fp.kadd f (a l) k) k

/-- The sum that the `j`-th lane of a scan rounds: after its own value, or before it with .ex. -/
def scanSum (f : Fp.Fmt) (ex : Bool) (a : Nat → Nat) (k : Ka) (ls : List Nat) (j : Nat) : Ka :=
  kaddAll f a k (ls.take (if ex then j else j + 1))

theorem scanSum_cons_zero (f : Fp.Fmt) (ex : Bool) (a : Nat → Nat) (k : Ka) (l : Nat) (ls : List Nat) :
    scanSum f ex a k (l :: ls) 0 = if ex then k else Fp.kadd f (a l) k := by
  cases ex <;> rfl

theorem scanSum_cons_succ (f : Fp.Fmt) (ex : Bool) (a : Nat → Nat) (k : Ka) (l : Nat) (ls : List Nat) (j : Nat) :
    scanSum f ex a k (l :: ls) (j + 1) = scanSum f ex a (Fp.kadd f (a l) k) ls j := by
  cases ex <;> rfl

/-- A scan leaves the accumulator of all its lanes. -/
theorem kscanFrom_fst (f : Fp.Fmt) (md : Rnd) (ex : Bool) (a : Nat → Nat) (k : Ka) (ls : List Nat) :
    (kscanFrom f md ex a k ls).1 = kaddAll f a k ls := by
  induction ls generalizing k with
  | nil => rfl
  | cons l ls ih => exact ih _

/-- A scan gives its `j`-th lane the rounding of that lane's sum. -/
theorem kscanFrom_snd (f : Fp.Fmt) (md : Rnd) (ex : Bool) (a : Nat → Nat) (k : Ka) (ls : List Nat) :
    (kscanFrom f md ex a k ls).2
      = (List.range ls.length).map fun j => (ls.getD j 0, Fp.kround f md (scanSum f ex a k ls j)) := by
  induction ls generalizing k with
  | nil => rfl
  | cons l ls ih =>
    rw [kscanFrom, ih, List.length_cons, List.range_succ_eq_map, List.map_cons, List.map_map, scanSum_cons_zero]
    simp only [Function.comp_def, scanSum_cons_succ, List.getD_cons_zero, List.getD_cons_succ]

/-- Flags gathered on their own and then raised are those raised one after the other. -/
theorem or_foldl_or {α : Type} (g : α → Fp.Flags) (es : List α) (f : Fp.Flags) :
    f ||| es.foldl (fun f e => f ||| g e) 0 = es.foldl (fun f e => f ||| g e) f := by
  have h := List.foldl_assoc (op := (· ||| · : Fp.Flags → Fp.Flags → Fp.Flags)) (l := es.map g) (a₁ := f) (a₂ := 0#5)
  rw [BitVec.or_zero, List.foldl_map, List.foldl_map] at h
  exact h.symm

/-- What KSCAN does at its issue, from the scan's accumulator and its lanes' roundings. -/
def scanEffect (key : Nat) (d : VReg) (r : Ka × List (Nat × Nat × Fp.Flags)) (s : State) : State :=
  raiseFlags key (r.2.foldl (fun f e => f ||| e.2.2) 0)
    (holdResults key (r.2.flatMap fun e => heldV e.1 d.val false e.2.1) (State.modBand s key fun b => { b with ka := r.1 }))

/-- The band that has scanned. -/
def scanBand (d : VReg) (r : Ka × List (Nat × Nat × Fp.Flags)) (b : Band) : Band :=
  { b with ka := r.1, held := b.held ++ r.2.flatMap fun e => heldV e.1 d.val false e.2.1
           fflags := r.2.foldl (fun f e => f ||| e.2.2) b.fflags }

theorem find_scanEffect {s : State} {key : Nat} {b : Band} (d : VReg) (r : Ka × List (Nat × Nat × Fp.Flags))
    (h : Table.find key s.bands = some b) : Table.find key (scanEffect key d r s).bands = some (scanBand d r b) := by
  rw [scanBand, ← or_foldl_or]
  exact find_modBand _ (find_modBand _ (find_modBand _ h))

/-- The scan of a KSCAN at its issue. -/
def kscanOf (o : OpKScan) (x : Ix) : Ka × List (Nat × Nat × Fp.Flags) :=
  kscanFrom (Fp.tgFmt o.ty) o.rnd o.ex (fun l => (x.v l o.a.val).toNat) x.b.ka x.act

theorem exec_kscan_of_goes {o : OpKScan} {s : State} {iss : Issue} {x : Ix} (hg : Goes (.kscan o) noCause s iss x) :
    exec (.kscan o) s = .next (afterIssue (.kscan o) iss x x.sel
      (scanEffect x.key o.d (kscanOf o x) (beginReplay x s))) :=
  issueWith_of_goes hg rfl rfl

/-- The roundings of a KSCAN, whatever way they are written. -/
theorem kscanOf_snd {o : OpKScan} {x : Ix} {part : Nat → Nat × Fp.Flags}
    (h : ∀ j, part j = Fp.kround (Fp.tgFmt o.ty) o.rnd
      (scanSum (Fp.tgFmt o.ty) o.ex (fun l => (x.v l o.a.val).toNat) x.b.ka x.act j)) :
    (kscanOf o x).2 = (List.range x.act.length).map fun j => (x.act.getD j 0, part j) := by
  rw [kscanOf, kscanFrom_snd]
  simp only [h]

/-- Settles O18: each instruction is its shell's effect; what a scan gives its lanes is by induction on them. -/
theorem exactAccumulator : Obligations.ExactAccumulator := by
  unfold Obligations.ExactAccumulator
  refine ⟨fun s iss x hg => issueWith_of_goes hg rfl rfl, fun o s iss x hg => issueWith_of_goes hg rfl rfl,
    fun o s iss x hg => issueWith_of_goes hg rfl rfl, fun o s iss x hg => issueWith_of_goes hg rfl rfl,
    fun o s iss x hg => ⟨_, exec_kscan_of_goes hg, fun b hb => ⟨_, find_scanEffect _ _ hb, ?_, fun part hpart => ?_, rfl, rfl⟩,
      rfl, rfl⟩,
    fun o s iss x hg => issueWith_of_goes hg rfl rfl, fun o s iss x hg => issueWith_of_goes hg rfl rfl⟩
  · exact kscanFrom_fst ..
  · rw [scanBand, kscanOf_snd hpart]
    exact ⟨congrArg _ (List.flatMap_map ..), List.foldl_map ..⟩

end Sys2Proof.Machine

namespace Sys2Proof.Machine

open Sys2Proof.Forms

/-! # Control flow: held groups, branches, rejoin entries, exit (spec/15_control_flow.md R347 to R367) -/

/-! ## A group that a hold keeps (R347, R405) -/

/-- A hold of every instruction or of the instruction's own keeps the group: its price goes back and nothing else happens. -/
theorem issueUnless_of_kept {i : Instr} {hold : Ix → State → Bool} {own : Own} {eff : Ix → State → Res} {iss : Issue} {x : Ix}
    {s : State} (hi : s.issue = some iss) (hx : indexOf s iss.band iss.grp (uses i).g = some x)
    (hh : (heldUp i x s || hold x s) = true) :
    issueUnless i hold own eff s = .next (endIssue iss (refund iss s)) := by
  unfold issueUnless
  simp only [hi, hx, hh, if_true]

/-- Settles O10: every encodable instruction issues in one shell, which gives a kept group its price back. -/
theorem heldGroup : Obligations.HeldGroup := by
  unfold Obligations.HeldGroup
  intro i s iss x he hi hx hh
  obtain ⟨own, eff, hexec⟩ := exec_issues he
  rw [hexec, issueUnless_of_kept hi hx hh]

/-! ## NOP, YIELD and SHADOW (R360, R367) -/

/-- Settles O32: each is its shell's effect, and moves no lane itself. -/
theorem nopYieldShadow : Obligations.NopYieldShadow := by
  unfold Obligations.NopYieldShadow
  exact ⟨fun o s iss x hg => issueWith_of_goes hg rfl rfl, fun o s iss x hg => issueWith_of_goes hg rfl rfl,
    fun o s iss x hg => issueWith_of_goes hg rfl rfl⟩

/-! ## Branches, jumps and calls (R353 to R358) -/

/-- A target that is a multiple of 4 is no cause (R356). -/
theorem targetCause_none {v : VReg} {x : Ix} {l : Nat} (s : State) (h : x.vw l true v.val % 4 = 0) :
    targetCause v x s l = none := if_pos h

/-- JTAB's cause: that of the word it reads, in the lanes that read the table (R357). -/
def jtabCause (o : OpJtab) : Own := fun x s l =>
  if tableLane o x l then accessCause .load false (tableAddr o) 4 x s l else none

theorem jtabCause_none {o : OpJtab} {x : Ix} {l : Nat} (s : State) (h : o.n.toNat ≤ (x.v l o.v.val).toNat) :
    jtabCause o x s l = none := by
  have hl : tableLane o x l = false := decide_eq_false (Nat.not_lt.mpr h)
  simp only [jtabCause, hl, Bool.false_eq_true, if_false]

/-- A JTAB's index with the lanes that read the table alone. -/
def tableReaders (o : OpJtab) (x : Ix) : Ix := { x with act := x.act.filter (tableLane o x) }

/-- The words that the reading lanes of a JTAB ask for. -/
def jtabAccs (o : OpJtab) (x : Ix) (s : State) : List Acc :=
  accesses (tableReaders o x) s permRd 4 (tableAddr o) noBytes noBytes

/-- What a JTAB whose table is read leaves: one operation of the words, which holds the whole group (R357). -/
def jtabStart (o : OpJtab) (x : Ix) (s : State) : State :=
  let n := newOp (.jtab o) (tableReaders o x) .jtab none .band .rlx (jtabAccs o x s) true 0
    (latchOut (tableReaders o x) s.nextKey false (jtabAccs o x s) s)
  State.modOp n.2 n.1 fun p => { p with lanes := maskOf x.sel }

theorem exec_jtab (o : OpJtab) (s : State) : exec (.jtab o) s = issueWith (.jtab o) (jtabCause o) (fun x s =>
    if (x.act.filter (tableLane o x)).isEmpty then { s := s }
    else { s := jtabStart o x s, moved := x.act.filter (tableLane o x) }) s := rfl

/-- Without a lane that reads the table the group goes on. -/
theorem exec_jtab_past {o : OpJtab} {s : State} {iss : Issue} {x : Ix}
    (h : ∀ l ∈ x.act, o.n.toNat ≤ (x.v l o.v.val).toNat) (hg : Goes (.jtab o) noCause s iss x) :
    exec (.jtab o) s = .next (afterIssue (.jtab o) iss x x.sel (beginReplay x s)) := by
  have hempty : (x.act.filter (tableLane o x)).isEmpty = true :=
    List.isEmpty_iff.mpr (List.filter_eq_nil_iff.mpr fun l hl => by simpa [tableLane] using h l hl)
  rw [exec_jtab, issueWith_of_goes (hg.withOwn fun l hl => jtabCause_none s (h l hl))]
  all_goals simp only [hempty, if_true]

/-- With some, they wait for their words, and the group with them. -/
theorem exec_jtab_reads {o : OpJtab} {s : State} {iss : Issue} {x : Ix} (h : x.act.filter (tableLane o x) ≠ [])
    (hg : Goes (.jtab o) (jtabCause o) s iss x) :
    exec (.jtab o) s = .next (afterIssue (.jtab o) iss x (x.sel.filter fun l => !(x.act.filter (tableLane o x)).elem l)
      (jtabStart o x (beginReplay x s))) := by
  have hsome : (x.act.filter (tableLane o x)).isEmpty = false := by simpa using h
  rw [exec_jtab, issueWith_of_moved hg]
  all_goals simp only [hsome, Bool.false_eq_true, if_false]

theorem jtabStart_issue (o : OpJtab) (x : Ix) (s : State) : (jtabStart o x s).issue = s.issue := by
  unfold jtabStart
  rw [latchOut_rest]
  rfl

/-- What each access of a JTAB names: its lane, and the address of its word. -/
theorem jtabAccs_named (o : OpJtab) (x : Ix) (s : State) : (jtabAccs o x s).map (fun a => (a.lane, a.addr))
    = (x.act.filter (tableLane o x)).map fun l => (l, BitVec.ofNat 64 ((x.sw true o.c.val + 4 * (x.v l o.v.val).toNat) % 2 ^ 64)) := by
  unfold jtabAccs accesses
  rw [List.map_map]
  rfl

theorem find_jtabStart (o : OpJtab) (x : Ix) (s : State) : ∃ op, Table.find s.nextKey (jtabStart o x s).ops = some op
    ∧ op.kind = .jtab ∧ op.holds = true ∧ op.accs = jtabAccs o x s := by
  unfold jtabStart
  rw [latchOut_rest]
  exact ⟨_, find_modOp _ (Table.find_set _ _ _), rfl, rfl, rfl⟩

/-- BRC's test, read once for the band, sends the active lanes on or lets the group pass (R355). -/
theorem exec_brc_of_goes {o : OpBrc} {s : State} {iss : Issue} {x : Ix} (hg : Goes (.brc o) noCause s iss x) :
    exec (.brc o) s = .next (if (x.s o.c.val != 0) = o.nz then
        afterIssue (.brc o) iss x (x.sel.filter fun l => !x.act.elem l)
          (goLanes x (fun _ => offsetPc x o.imm) (beginReplay x s)).s
      else afterIssue (.brc o) iss x x.sel (beginReplay x s)) := by
  change execBrc o s = _
  unfold execBrc
  by_cases h : (x.s o.c.val != 0) = o.nz
  · rw [if_pos h, issueWith_of_moved hg] <;> simp only [h, beq_self_eq_true, if_true] <;> rfl
  · have hf : ((x.s o.c.val != 0) == o.nz) = false := beq_false_of_ne h
    rw [if_neg h, issueWith_of_goes hg] <;> simp only [hf, Bool.false_eq_true, if_false]

/-- Settles O30: each form sends its active lanes elsewhere, or starts the reads of its table. -/
theorem branches : Obligations.Branches := by
  unfold Obligations.Branches
  refine ⟨fun o s iss x hg => issueWith_of_moved hg rfl, fun o s iss x hg => exec_brc_of_goes hg, fun i v s iss x hi ha hg => ?_,
    fun o s iss x hg => issueWith_of_moved hg rfl,
    fun o s iss x ha hg => issueWith_of_moved (hg.withOwn fun l hl => targetCause_none s (ha l hl)) rfl,
    fun o s iss x ha hg => exec_jtab_past ha hg, fun o s iss x ha hg hrep hre => ?_, fun v s x l h => if_neg h⟩
  · obtain ⟨o, rfl, rfl | rfl⟩ := hi
    · exact issueWith_of_moved (hg.withOwn fun l hl => targetCause_none s (ha l hl)) rfl
    · exact issueWith_of_moved (hg.withOwn fun l hl => targetCause_none s (ha l hl)) rfl
  · obtain ⟨op, hop, hkind, hholds, haccs⟩ := find_jtabStart o x s
    have hi : (jtabStart o x s).issue = some iss := (jtabStart_issue o x s).trans hg.issue
    refine ⟨_, op, exec_jtab_reads ha hg, ?_⟩
    rw [beginReplay_none hrep, afterIssue_frame hi hre]
    refine ⟨hop, hkind, hholds, haccs ▸ jtabAccs_named o x s, ?_, ?_⟩
    all_goals
      rw [jtabStart, latchOut_rest]
      rfl

/-! ## Rejoin entries and exit (R359 to R366) -/

/-- A register set to 0 at every level reads 0 at each of them. -/
theorem reg_clearLevels (b : Band) (is : List Nat) (r : Nat) (y : Lane) (h : Lane.reg y r = 0 ∨ ∃ k ∈ is, levelReg b k = r) :
    Lane.reg (is.foldl (fun z i => Lane.setReg z (levelReg b i) 0) y) r = 0 := by
  induction is generalizing y with
  | nil => simpa using h
  | cons i is ih =>
    refine ih _ ?_
    by_cases e : levelReg b i = r
    · exact .inl (e ▸ Lane.reg_setReg _ _ _)
    · rw [Lane.reg_setReg_ne _ _ (Ne.symm e)]
      refine h.imp_right fun ⟨k, hk, hr⟩ => ⟨k, (List.mem_cons.mp hk).resolve_left fun hki => e (hki ▸ hr), hr⟩

/-- An exited lane's level registers read 0. -/
theorem reg_exitedLane {rjd k : Nat} (b : Band) (y : Lane) (h : k < rjd) : Lane.reg (exitedLane rjd b y) (levelReg b k) = 0 :=
  reg_clearLevels b _ _ y (.inr ⟨k, List.mem_range.mpr h, rfl⟩)

/-- RJWAIT's cause: a lane that has no entry waits for ever (R363). -/
def rjwaitCause : Own := fun x _ l => if (Band.lane x.b l).rdp = 0 then some (causeRejoinDeadlock, 0) else none

/-- An instruction all of whose active lanes take one cause delivers it in each of them; the others go on (R77, R429). -/
theorem issueWith_of_caused {i : Instr} {own : Own} {eff : Ix → State → Res} {iss : Issue} {x : Ix} {s : State} {c : Nat}
    {a : Dword} (hi : s.issue = some iss) (hx : indexOf s iss.band iss.grp (uses i).g = some x) (hu : heldUp i x s = false)
    (hc : ∀ l ∈ x.act, causeOf i own x s l = some ⟨l, c, a⟩) (hp : c ≠ causePoison) (hd : counterOf i = none) :
    issueWith i own eff s = .next (endIssue (Issue.issued iss) (deliverAll x.key x.pc
      ((x.sel.filter fun l => x.act.elem l).map fun l => ⟨l, c, a⟩)
      (State.modBand (beginReplay x s) x.key (advance x (slotCount i) (x.sel.filter fun l => !x.act.elem l))))) := by
  rw [issueWith, issueUnless_of_free hi hx hu rfl, perform_of_caused hc hp hd]
  rfl

/-- Settles O31: each form is its shell's effect; RJWAIT without an entry is REJOIN_DEADLOCK in every active lane. -/
theorem rejoinAndExit : Obligations.RejoinAndExit := by
  unfold Obligations.RejoinAndExit
  refine ⟨fun o s iss x hg => issueWith_of_goes hg rfl rfl,
    fun o s iss x ha hg => issueWith_of_moved (own := rjwaitCause) (hg.withOwn fun l hl => if_neg (ha l hl)) rfl,
    fun o s iss x ha hi hx hu hr => ?_, fun o s iss x hg => issueWith_of_goes hg rfl rfl,
    fun o s iss x hg => issueWith_of_moved hg rfl, fun rjd b y => ⟨rfl, rfl, rfl, rfl, fun k hk => reg_exitedLane b y hk⟩⟩
  exact issueWith_of_caused (own := rjwaitCause) hi hx hu (fun l hl => causeOf_of_own (if_pos (ha l hl)) hr) (by decide) rfl

end Sys2Proof.Machine

namespace Sys2Proof.Machine

open Sys2Proof.Forms

/-! # Traps by instruction, halts, the timer, fragments asked for, intents, privilege
(spec/18_traps_fragments_preemption.md R431 to R437, R449; spec/19_firmware_host_fabric.md R472) -/

/-- Settles O37: each form is a cause of every active lane, whose address is its immediate. -/
theorem trapAndBreak : Obligations.TrapAndBreak := by
  unfold Obligations.TrapAndBreak
  intro i cause imm s iss x hi hissue hx hu hr
  rcases hi with ⟨o, rfl, rfl, rfl⟩ | ⟨o, rfl, rfl, rfl⟩
  · exact issueWith_of_caused (own := forAll (some (causeSwtrap, _))) hissue hx hu (fun l _ => causeOf_of_own rfl hr)
      (by decide) rfl
  · exact issueWith_of_caused (own := forAll (some (causeBreak, _))) hissue hx hu (fun l _ => causeOf_of_own rfl hr)
      (by decide) rfl

/-! ## The halt of a team (R431, R432) -/

/-- Without a trap entry, or at the entry itself for the causes of its clause, the team halts. -/
theorem deliver_of_halt {s : State} {key : Nat} {b : Band} {t : Team} {g : Grid} {pc : Pc} {tr : Trap}
    (hb : Table.find key s.bands = some b) (ht : Table.find b.team s.teams = some t) (hgr : Table.find t.grid s.grids = some g)
    (h : g.hdr.trape = 0 ∨ ((tr.cause = 0x02 ∨ tr.cause = 0x05) ∧ pc = ⟨g.hdr.trape, 0⟩)) :
    deliver key pc s tr = haltTeam key b t g pc tr (State.modGrid s t.grid fun g => { g with trapped := true }) := by
  have hhalt : (decide (g.hdr.trape = 0)
      || ((tr.cause == causeIllegalClause || tr.cause == causeRangeProt) && pc == ⟨g.hdr.trape, 0⟩)) = true := by
    simpa [causeIllegalClause, causeRangeProt] using h
  unfold deliver
  simp only [hb, ht, hgr, hhalt, if_true]

theorem haltTeam_halted {key : Nat} {b : Band} {t : Team} {g : Grid} {pc : Pc} {tr : Trap} (s : State) (h : t.halted = true) :
    haltTeam key b t g pc tr s = s := if_pos h

theorem haltTeam_running {key : Nat} {b : Band} {t : Team} {g : Grid} {pc : Pc} {tr : Trap} (s : State) (h : t.halted = false) :
    haltTeam key b t g pc tr s =
      postNotice ⟨1, g.ctx, key / 64, tr.cause, g.desc.gridid, t.num, b.num, tr.lane, Pc.toDword pc, tr.addr⟩
        (State.modTeam s b.team fun t => { t with halted := true }) := if_neg (by simp [h])

/-- Settles O36: a halt marks the team and posts its notice, once. -/
theorem trapHalts : Obligations.TrapHalts := by
  unfold Obligations.TrapHalts
  intro s key b t g pc tr hb ht hgr h
  rw [deliver_of_halt hb ht hgr h]
  cases hh : t.halted with
  | true =>
    rw [haltTeam_halted _ hh]
    exact ⟨rfl, rfl, fun _ => ⟨rfl, rfl⟩, fun hf => (nomatch hf)⟩
  | false =>
    rw [haltTeam_running _ hh]
    exact ⟨rfl, rfl, fun hf => (nomatch hf), fun _ => ⟨⟨_, find_modTeam _ ht, rfl⟩, _, rfl, rfl, rfl, rfl, rfl, rfl, rfl⟩⟩

/-! ## TMARM, FRAGQ, PWINT and PHINT (R414, R436, R437, R449) -/

/-- A fragment that is not replaying is parked, ready or landing (R439). -/
theorem parkedLanes_eq (s : State) (key : Nat) : parkedLanes s key
    = (State.core s (key / 64)).frags.foldl (fun (m : Dword) (e : Nat × Frag) =>
        if e.2.band = key ∧ (e.2.state = .parked ∨ e.2.state = .ready ∨ e.2.state = .landing) then m ||| e.2.lanes else m) 0 := by
  unfold parkedLanes
  congr 1
  funext m e
  cases h : e.2.state <;> simp

/-- A band whose timer TMARM arms `n` cycles ahead, or disarms (R436). -/
def armBand (off : Bool) (n : Nat) (b : Band) : Band :=
  if off || n == 0 then { b with armed := false } else { b with armed := true, deadline := b.brun + BitVec.ofNat 64 n }

theorem armBand_eq (off : Bool) (n : Nat) (b : Band) : armBand off n b = if off = true ∨ n = 0 then { b with armed := false }
    else { b with armed := true, deadline := b.brun + BitVec.ofNat 64 n } := by
  unfold armBand
  simp only [Bool.or_eq_true, beq_iff_eq]

theorem goes_execTmarm {o : OpSwitchC} {s : State} {iss : Issue} {x : Ix} (hg : Goes (.tmarm o) noCause s iss x) :
    exec (.tmarm o) s = .next (afterIssue (.tmarm o) iss x x.sel
      (State.modBand (beginReplay x s) x.key (armBand o.off (x.sw true o.c.val)))) := issueWith_of_goes hg rfl rfl

/-- PHINT names a liveness record that its image has. -/
theorem exec_phint_of_goes {o : OpPhint} {s : State} {iss : Issue} {x : Ix} (hn : o.n.toNat < x.gr.hdr.nlive)
    (hg : Goes (.phint o) noCause s iss x) :
    exec (.phint o) s = .next (
      if phintStops x then afterIssue (.phint o) iss x [] (State.modBand (beginReplay x s) x.key fun b =>
        Band.modLanes { b with stopped := true, record := some o.n.toNat } x.sel fun _ y =>
          { Lane.step y x.hdr 1 false with sw := true, entry := .check })
      else afterIssue (.phint o) iss x x.sel (beginReplay x s)) := by
  change execPhint o s = _
  unfold execPhint
  have hown := hg.withOwn (own := fun x _ _ => if x.gr.hdr.nlive ≤ o.n.toNat then some (causeIllegalInsn, 0) else none)
    fun l _ => if_neg (Nat.not_le.mpr hn)
  cases hs : phintStops x with
  | true =>
    have hnil : (x.sel.filter fun l => !x.sel.elem l) = [] := by simp
    rw [if_pos rfl, issueWith_of_moved hown] <;> simp only [hs, if_true, hnil]
  | false =>
    rw [if_neg Bool.false_ne_true, issueWith_of_goes hown] <;> simp only [hs, Bool.false_eq_true, if_false]

/-- Settles O39: each is its shell's effect. -/
theorem timerFragPower : Obligations.TimerFragPower := by
  unfold Obligations.TimerFragPower
  refine ⟨fun o s iss x hg => ?_, fun o s iss x hg => ?_, fun o s iss x hg => issueWith_of_goes hg rfl rfl,
    fun o s iss x hn hg => exec_phint_of_goes hn hg⟩
  · simp only [← armBand_eq]
    exact goes_execTmarm hg
  · rw [← parkedLanes_eq]
    exact issueWith_of_goes hg rfl rfl

/-! ## Privilege (R472) -/

/-- PRIV stands before every other cause (R77). -/
theorem causeOf_priv {i : Instr} {own : Own} {x : Ix} {s : State} {l : Nat} (h : own x s l = some (causePriv, 0)) :
    causeOf i own x s l = some ⟨l, causePriv, 0⟩ := by
  unfold causeOf
  simp only [h, if_true]

/-- Settles O40: outside context 0 PRIV is the cause of every active lane. -/
theorem privilege : Obligations.Privilege := by
  unfold Obligations.Privilege
  refine ⟨fun o s x l hc => causeOf_priv (if_neg hc), fun o s iss x hc hi hx hu => ?_, fun o s iss x hc hr hi hx hu => ?_⟩
  · exact issueWith_of_caused (own := fun x _ _ => if x.gr.ctx = 0 then none else some (causePriv, 0)) hi hx hu
      (fun l _ => causeOf_priv (if_neg hc)) (by decide) rfl
  · rw [exec_swr]
    exact issueWith_of_caused hi hx hu (fun l _ => causeOf_priv (if_pos ⟨hr, by simp [privileged, hc]⟩)) (by decide) rfl

end Sys2Proof.Machine

namespace Sys2Proof.Machine

open Sys2Proof.Forms

/-! # Barriers, phase words, waits, fences (spec/16_barriers_tasks_grids.md R371 to R381; spec/14_ordering_and_visibility.md
R336, R337) -/

/-! ## Arrivals (R373) -/

@[simp] theorem Team.bar_setBar (t : Team) (n : Nat) (x : Barrier) : Team.bar (Team.setBar t n x) n = x := by
  simp [Team.bar, Team.setBar]

/-- A BAR's lanes take no trap. -/
theorem barLanes_traps (x : Ix) (o : OpBar) (ls : List Nat) (s : State) (w : List Nat) : (barLanes x o ls s w).traps = [] := by
  induction ls generalizing s w with
  | nil => rfl
  | cons l ls ih => exact ih ..

/-- A generation that still lacks arrivals does not complete. -/
theorem completeBar_of_lacking {team n : Nat} {s : State} {t : Team} (ht : Table.find team s.teams = some t)
    (h : (Team.bar t n).a < (Team.bar t n).n) : completeBar team n s = s := by
  unfold completeBar
  simp only [ht]
  exact if_neg fun hdone => Nat.not_le.mpr h hdone.1

/-- A lane that has arrived in the generation of phase `p`. -/
def arrivedLane (n : Nat) (p : Bool) (y : Lane) : Lane :=
  { y with la := y.la ||| BitVec.ofNat 16 (2 ^ n)
           ph := if p then y.ph ||| BitVec.ofNat 16 (2 ^ n) else y.ph &&& ~~~(BitVec.ofNat 16 (2 ^ n)) }

theorem arrived_arrivedLane {n : Nat} (p : Bool) (y : Lane) (h : n < 16) : Lane.arrived (arrivedLane n p y) n p = true := by
  have hbit : (BitVec.ofNat 16 (2 ^ n)).getLsbD n = true := by
    rw [BitVec.getLsbD_ofNat, Nat.testBit_two_pow_self, Bool.and_true]
    exact decide_eq_true h
  have hla : (arrivedLane n p y).la.getLsbD n = true := by
    simp only [arrivedLane, BitVec.getLsbD_or, hbit, Bool.or_true]
  have hph : (arrivedLane n p y).ph.getLsbD n = p := by
    cases p with
    | true => simp only [arrivedLane, if_true, BitVec.getLsbD_or, hbit, Bool.or_true]
    | false =>
      simp only [arrivedLane, Bool.false_eq_true, if_false, BitVec.getLsbD_and, BitVec.getLsbD_not, hbit, Bool.not_true,
        Bool.and_false]
  simp [Lane.arrived, hla, hph]

/-- An arrival that does not complete its generation changes one lane, and the barrier's count. -/
theorem arriveBar_of_lacking {key team n l : Nat} {s : State} {t : Team} (ht : Table.find team s.teams = some t)
    (h : (Team.bar t n).a + 1 < (Team.bar t n).n) :
    arriveBar key team n l s = State.modTeam (State.modBand s key fun b => Band.modLane b l (arrivedLane n (Team.bar t n).p))
      team fun t' => Team.setBar t' n { Team.bar t n with a := (Team.bar t n).a + 1 } := by
  unfold arriveBar
  simp only [ht]
  refine completeBar_of_lacking (find_modTeam (t := t) _ ht) ?_
  rw [Team.bar_setBar]
  exact h

/-! ## BARSET (R375) -/

theorem exec_barset_of_goes {o : OpBarset} {s : State} {iss : Issue} {x : Ix} (hg : Goes (.barset o) noCause s iss x) :
    exec (.barset o) s = .next (afterIssue (.barset o) iss x x.sel
      (completeBar x.b.team o.b.val (State.modTeam (beginReplay x s) x.b.team fun t =>
        Team.setBar t o.b.val { Team.bar t o.b.val with
          fixed := x.s o.c.val != 0
          n := if x.s o.c.val = 0 then liveThreads (beginReplay x s) x.b.team else Nat.min (x.s o.c.val).toNat 4096 }))) := by
  have hzero : (x.s o.c.val).toNat = 0 ↔ x.s o.c.val = 0 := by rw [BitVec.toNat_eq]; rfl
  have hfixed : ((x.s o.c.val).toNat != 0) = (x.s o.c.val != 0) := by
    rw [Bool.eq_iff_iff, bne_iff_ne, bne_iff_ne]
    exact hzero.not
  refine (issueWith_of_goes hg rfl rfl).trans ?_
  dsimp only
  simp only [hfixed, hzero]

/-! ## Phase words (R378, R379) -/

theorem exec_pharr_of_word {o : OpPhase} {s : State} {iss : Issue} {x : Ix} {g : Nat}
    (hg : Goes (.pharr o) (phaseCause o.c) s iss x) (hw : phaseWord x o.c = some g) :
    exec (.pharr o) s = .next (afterIssue (.pharr o) iss x x.sel (teamAcquire x.t.pair (x.key / 64)
      (writeSram (unwatchAll x (beginReplay x s)) g (natLe 4 (phaseNext (leNat (readSram (beginReplay x s) g 4))))))) := by
  change execPharr o s = _
  unfold execPharr
  rw [issueWith_of_goes hg] <;> simp only [hw]
  rfl

theorem exec_pharr_of_outside {o : OpPhase} {s : State} {iss : Issue} {x : Ix}
    (hg : Goes (.pharr o) (phaseCause o.c) s iss x) (hw : phaseWord x o.c = none) :
    exec (.pharr o) s = .next (afterIssue (.pharr o) iss x x.sel
      (latchNow x.gr.ctx (x.key / 64) (x.act.headD 0) true (windowCode .loc) (x.s o.c.val).toNat (beginReplay x s))) := by
  change execPharr o s = _
  unfold execPharr
  rw [issueWith_of_goes hg] <;> simp only [hw]
  rfl

theorem exec_phwait_of_word {o : OpPhase} {s : State} {iss : Issue} {x : Ix} {g : Nat}
    (hg : Goes (.phwait o) (phaseCause o.c) s iss x) (hw : phaseWord x o.c = some g) :
    exec (.phwait o) s = .next (afterIssue (.phwait o) iss x x.sel (teamAcquire x.t.pair (x.key / 64)
      (senseSram g 4 (unwatchAll x (beginReplay x s))))) := by
  change execPhwait o s = _
  unfold execPhwait
  rw [issueWith_of_goes hg] <;> simp only [hw]
  rfl

/-- The last arrival of a phase loads INIT into PEND and flips the phase (R378). -/
theorem phaseNext_of_last {w : Nat} (hw : w < 2 ^ 32) (h : w % 2 ^ 16 ≤ 1) :
    phaseNext w % 2 ^ 16 = w / 2 ^ 16 % 2 ^ 15 ∧ phaseNext w / 2 ^ 31 = 1 - w / 2 ^ 31 := by
  unfold phaseNext
  dsimp only
  rw [if_pos (by omega)]
  omega

/-- Any other arrival takes 1 off PEND (R378). -/
theorem phaseNext_of_more {w : Nat} (h : 2 ≤ w % 2 ^ 16) : phaseNext w = w - 1 := by
  unfold phaseNext
  dsimp only
  rw [if_neg (by omega)]
  omega

/-- Settles O33: each instruction is its shell's effect; an arrival changes one lane and one barrier. -/
theorem barriers : Obligations.Barriers := by
  unfold Obligations.Barriers
  refine ⟨fun o s iss x hg => issueWith_of_moved hg (barLanes_traps ..), fun s b t key team n l hb _ ht ha hn => ?_,
    fun o s iss x hg => exec_barset_of_goes hg, fun o s iss x g hg hw => exec_pharr_of_word hg hw,
    fun o s iss x hg hw => exec_pharr_of_outside hg hw, fun o s iss x g hg hw => exec_phwait_of_word hg hw,
    fun w hw h => phaseNext_of_last hw h, fun w _ h => phaseNext_of_more h⟩
  rw [arriveBar_of_lacking ht ha]
  refine ⟨_, _, find_modBand _ hb, find_modTeam _ ht, ?_⟩
  rw [Team.bar_setBar, Band.lane_modLane]
  exact ⟨rfl, arrived_arrivedLane _ _ hn, rfl⟩

/-! ## Waits on words and counters, fences (R336, R337, R380, R381) -/

/-- Without a replay an issue counts (R38, R185). -/
theorem countIssue_of_first {x : Ix} (dc : Dc) (s : State) (h : x.replay = none) : countIssue x dc s = countUp x.key dc s := by
  simp [countIssue, Ix.again, h]

/-- What a WAITA leaves: one operation, whose lanes arm their words in turn; a counted one is pending too (R380). -/
def waitaStart (o : OpWaita) (x : Ix) (s : State) : State :=
  let n := newOp (.waita o) x .waita o.dc .dev .acq (waitaAccs o x) false 0 s
  let s1 := countIssue x o.dc n.2
  x.act.foldl (armLane o x n.1) (if o.dc.isSome then markPending x.key x.act [o.v.val + 2] n.1 s1 else s1)

/-- The lanes of the waiting form stand still; those of a counted WAITA go on. -/
theorem exec_waita_of_goes {o : OpWaita} {s : State} {iss : Issue} {x : Ix} (hg : Goes (.waita o) (waitaCause o) s iss x) :
    exec (.waita o) s = .next (afterIssue (.waita o) iss x
      (x.sel.filter fun l => !(if o.dc.isSome then [] else x.act).elem l) (waitaStart o x (beginReplay x s))) :=
  issueUnless_of_goes hg hg.ready rfl

/-- What a FENCE leaves: an operation without accesses. -/
def fenceStart (o : OpFence) (x : Ix) (s : State) : State :=
  countIssue x o.dc (newOp (.fence o) x (.fence o.kind) o.dc o.scope (FenceKind.order o.kind) [] false 0 s).2

theorem find_fenceStart (o : OpFence) (x : Ix) (s : State) : ∃ op, Table.find s.nextKey (fenceStart o x s).ops = some op
    ∧ op.kind = .fence o.kind ∧ op.scope = o.scope ∧ op.dc = o.dc ∧ op.lanes = maskOf x.act ∧ op.accs = [] := by
  rw [fenceStart, countIssue_frame]
  exact ⟨_, Table.find_set _ _ _, rfl, rfl, rfl, rfl, rfl⟩

/-- Settles O34: each is its shell's effect; past its new operation a FENCE changes its band alone. -/
theorem waitsAndFences : Obligations.WaitsAndFences := by
  unfold Obligations.WaitsAndFences
  refine ⟨fun o s iss x dc hg hdc hrep => ?_, fun o s iss x hg hdc hrep => ?_, fun o s iss x hg => issueWith_of_moved hg rfl,
    fun o s iss x hg hrep hre => ?_⟩
  · rw [exec_waita_of_goes hg, beginReplay_none hrep, waitaStart, countIssue_of_first _ _ hrep]
    simp only [hdc, Option.isSome_some, if_true, filter_not_nil]
  · rw [exec_waita_of_goes hg, beginReplay_none hrep, waitaStart, countIssue_of_first _ _ hrep]
    simp only [hdc, Option.isSome_none, Bool.false_eq_true, if_false]
    rfl
  · have hexec : exec (.fence o) s = .next (afterIssue (.fence o) iss x x.sel (fenceStart o x (beginReplay x s))) :=
      issueWith_of_goes hg rfl rfl
    have hi : (fenceStart o x s).issue = some iss := by
      rw [fenceStart, countIssue_frame]
      exact hg.issue
    obtain ⟨op, hop, hkind, hscope, hdc, hlanes, haccs⟩ := find_fenceStart o x s
    refine ⟨_, op, hexec, ?_⟩
    rw [beginReplay_none hrep, afterIssue_frame hi hre]
    refine ⟨hop, hkind, hscope, hdc, hlanes, haccs, ?_, ?_⟩
    all_goals
      rw [fenceStart, countIssue_frame]
      rfl

end Sys2Proof.Machine

namespace Sys2Proof.Machine

open Sys2Proof.Forms

/-! # Tile transfers, accumulator tokens, matrix instructions (spec/12_tiles_and_matrix.md R280 to R299) -/

/-- A group that acts under its chapter's own hold, and of which no lane is moved by the instruction itself. -/
theorem issueUnless_of_unmoved {i : Instr} {hold : Ix → State → Bool} {own : Own} {eff : Ix → State → Res} {iss : Issue} {x : Ix}
    {s : State} (g : Goes i own s iss x) (hh : hold x s = false) (ht : (eff x (beginReplay x s)).traps = [])
    (hm : (eff x (beginReplay x s)).moved = []) :
    issueUnless i hold own eff s = .next (afterIssue i iss x x.sel (eff x (beginReplay x s)).s) := by
  rw [issueUnless_of_goes g hh ht, hm, filter_not_nil]

/-! ## Tiles of a team, accumulators and units of a core -/

@[simp] theorem Team.tile_modTile (t : Team) (core n : Nat) (f : Tile → Tile) :
    Team.tile (Team.modTile t core n f) core n = f (Team.tile t core n) := by
  simp [Team.tile, Team.modTile]

theorem Team.tile_modTile_ne (t : Team) {core n k : Nat} (f : Tile → Tile) (h : k ≠ n) :
    Team.tile (Team.modTile t core n f) core k = Team.tile t core k := by
  have hkey : tileKey core k ≠ tileKey core n := by
    unfold tileKey
    omega
  simp only [Team.tile, Team.modTile, Table.get_set_ne _ _ _ hkey]

@[simp] theorem accum_modAccum (s : State) (core id : Nat) (f : Accum → Accum) :
    Core.accum (State.core (State.modAccum s core id f) core) id = f (Core.accum (State.core s core) id) := by
  simp [Core.accum, State.modAccum]

@[simp] theorem mxUnit_modMx (s : State) (core u : Nat) (f : Mx → Mx) :
    Core.mxUnit (State.core (State.modMx s core u f) core) u = f (Core.mxUnit (State.core s core) u) := by
  simp [Core.mxUnit, State.modMx]

theorem accum_modMx (s : State) (core u id : Nat) (f : Mx → Mx) :
    Core.accum (State.core (State.modMx s core u f) core) id = Core.accum (State.core s core) id := by
  simp [Core.accum, State.modMx]

theorem mxUnit_modAccum (s : State) (core id u : Nat) (f : Accum → Accum) :
    Core.mxUnit (State.core (State.modAccum s core id f) core) u = Core.mxUnit (State.core s core) u := by
  simp [Core.mxUnit, State.modAccum]

theorem core_modTeam (s : State) (k : Nat) (f : Team → Team) (c : Nat) : State.core (State.modTeam s k f) c = State.core s c := rfl

/-- Freed, an accumulator's token is free (R293). -/
theorem tokenOf_freeAcc (core id : Nat) (s : State) : tokenOf (freeAcc core id s) core id = .free := by
  simp [tokenOf, freeAcc, Core.accum, Table.get]
  rfl

/-! ## What the code of a slice finds leaves of the package (R141) -/

/-- Reading a slice changes its marks, its errors and its core's count of them. -/
theorem senseSram_rest (g n : Nat) (s : State) : senseSram g n s = { s with
    sramPoison := (senseSram g n s).sramPoison, sramFlips := (senseSram g n s).sramFlips, cores := (senseSram g n s).cores } := by
  unfold senseSram
  dsimp only
  split <;> rfl

theorem core_senseSram (g n : Nat) (s : State) (c : Nat) :
    State.core (senseSram g n s) c = { State.core s c with sramerr := (State.core (senseSram g n s) c).sramerr } := by
  unfold senseSram
  dsimp only
  split
  · rfl
  · by_cases h : c = g / 2 ^ 26
    · subst h
      rw [core_modCore]
      rfl
    · rw [core_modCore_ne _ _ h]
      rfl

/-! ## TLD, TST and TZERO (R280, R286 to R291) -/

/-- The one access of an operation that lands a whole tile. -/
def wholeTile : List Acc := [⟨0, 0, 0, .out 0 0, 0, [], [], .performed, 0⟩]

/-- The operation of a TZERO, which marks its tile pending. -/
def tzeroStart (o : OpTile) (x : Ix) (s : State) : State :=
  State.modTeam (newOp (.tzero o) x (.tzero o.t.val) none .band .rlx wholeTile false 0 s).2
    x.b.team fun t => Team.modTile t (x.key / 64) o.t.val fun y => { y with pend := some s.nextKey }

theorem find_tzeroStart_team {o : OpTile} {x : Ix} {s : State} {m : Team} (h : Table.find x.b.team s.teams = some m) :
    ∃ m', Table.find x.b.team (tzeroStart o x s).teams = some m'
      ∧ (Team.tile m' (x.key / 64) o.t.val).pend = some s.nextKey :=
  ⟨_, find_modTeam _ h, congrArg Tile.pend (Team.tile_modTile ..)⟩

/-- Settles O25: a transfer whose pages translate is its operation; a TZERO is one too. -/
theorem tileTransfers : Obligations.TileTransfers := by
  unfold Obligations.TileTransfers
  refine ⟨fun o s s1 m iss x hg h => ?_, fun o s s1 m iss x hg h => ?_, fun o s iss x hg hrep hre => ?_⟩
  · change execTld o s = _
    unfold execTld
    rw [issueUnless_of_goes (hold := tileHold o false) hg hg.ready] <;> simp only [h, filter_not_nil]
    rfl
  · change execTst o s = _
    unfold execTst
    rw [issueUnless_of_goes (hold := tileHold o true) hg hg.ready] <;> simp only [h, filter_not_nil]
    rfl
  · have hexec : exec (.tzero o) s = .next (afterIssue (.tzero o) iss x x.sel (tzeroStart o x (beginReplay x s))) :=
      issueUnless_of_unmoved hg hg.ready rfl rfl
    rw [beginReplay_none hrep] at hexec
    have hi : (tzeroStart o x s).issue = some iss := hg.issue
    obtain ⟨op, hop, hkind, hdc, -⟩ := find_newOp (.tzero o) x (.tzero o.t.val) none .band .rlx wholeTile false 0 s
    refine ⟨_, op, hexec, ?_⟩
    rw [afterIssue_frame hi hre]
    exact ⟨hop, hkind, hdc, rfl, rfl, fun m hm => find_tzeroStart_team hm⟩

/-! ## MACQ, MREL, TFMT, ARD and AWR (R282, R291 to R293) -/

/-- The operation of an ARD, which keeps its accumulator busy and marks its tile pending. -/
def ardStart (o : OpTileAcc) (x : Ix) (s : State) : State :=
  State.modTeam (State.modAccum
      (newOp (.ard o) x (.ard o.t.val (accId o.a x)) none .band .rlx wholeTile false 0 s).2
      (x.key / 64) (accId o.a x) fun a => { a with busy := a.busy + 1 })
    x.b.team fun t => Team.modTile t (x.key / 64) o.t.val fun y => { y with pend := some s.nextKey }

theorem busy_ardStart (o : OpTileAcc) (x : Ix) (s : State) :
    (Core.accum (State.core (ardStart o x s) (x.key / 64)) (accId o.a x)).busy
      = (Core.accum (State.core s (x.key / 64)) (accId o.a x)).busy + 1 := by
  rw [ardStart, core_modTeam, accum_modAccum]
  rfl

/-- Settles O26: each is its shell's effect. -/
theorem accumulatorTokens : Obligations.AccumulatorTokens := by
  unfold Obligations.AccumulatorTokens
  refine ⟨fun o s iss x hg => issueUnless_of_unmoved hg hg.ready rfl rfl,
    fun o s iss x hg => issueUnless_of_unmoved hg hg.ready rfl rfl, fun s core id => tokenOf_freeAcc core id s,
    fun o s iss x hg => issueWith_of_goes hg rfl rfl, fun o s iss x hg hrep hre => ?_,
    fun o s iss x hg => issueUnless_of_unmoved hg hg.ready rfl rfl⟩
  have hexec : exec (.ard o) s = .next (afterIssue (.ard o) iss x x.sel (ardStart o x (beginReplay x s))) :=
    issueUnless_of_unmoved hg hg.ready rfl rfl
  rw [beginReplay_none hrep] at hexec
  have hi : (ardStart o x s).issue = some iss := hg.issue
  obtain ⟨op, hop, hkind, -, -⟩ :=
    find_newOp (.ard o) x (.ard o.t.val (accId o.a x)) none .band .rlx wholeTile false 0 s
  refine ⟨_, op, hexec, ?_⟩
  rw [afterIssue_frame hi hre]
  exact ⟨hop, hkind, busy_ardStart o x s, rfl, rfl⟩

/-! ## MMA, MWAIT and MRESET (R293, R294, R298, R299) -/

/-- Holding tiles for reading counts each of them once for each time it is named (R294). -/
theorem readers_holdTiles (core : Nat) (ts : List Nat) (t : Team) (n : Nat) :
    (Team.tile (holdTiles core ts t) core n).readers = (Team.tile t core n).readers + ts.count n := by
  induction ts generalizing t with
  | nil => rfl
  | cons k ts ih =>
    refine (ih _).trans ?_
    by_cases h : n = k
    · subst h
      rw [Team.tile_modTile, List.count_cons_self]
      dsimp only
      omega
    · rw [Team.tile_modTile_ne _ _ h, List.count_cons_of_ne (Ne.symm h)]

/-- The operation that an MMA queues. -/
def mmaOp (o : OpTileS) (x : Ix) (s : State) : MxOp :=
  { team := x.b.team, band := x.key, ctx := Ix.ctx x, acc := blkAcc (mmaBlock o x s), block := mmaBlock o x s
    addr := mmaAddr o x, fmt := x.b.fmt, shapes := mmaShapes x (mmaBlock o x s)
    tiles := (realTiles x (mmaBlock o x s)).map fun t => t.2, count := x.gr.hdr.tiles, pw := 0, checked := false }

/-- The read of an MMA's block. -/
def mmaSense (o : OpTileS) (x : Ix) (s : State) : State :=
  match mmaPlace o x with
  | some g => senseSram g 64 s
  | none => s

/-- What an MMA leaves: its token lent, its tiles held, its operation queued (R294 step 7). -/
def mmaStart (o : OpTileS) (x : Ix) (s : State) : State :=
  State.modMx (State.modTeam (setToken (x.key / 64) (blkAcc (mmaBlock o x s)) (.lent x.b.team false 0) (mmaSense o x s))
      x.b.team (holdTiles (x.key / 64) (mmaOp o x s).tiles))
    (x.key / 64) (blkAcc (mmaBlock o x s) / 16) fun m => { m with queue := m.queue ++ [mmaOp o x s] }

theorem exec_mma_of_goes {o : OpTileS} {s : State} {iss : Issue} {x : Ix} (hg : Goes (.mma o) (mmaCause o) s iss x) :
    exec (.mma o) s = .next (afterIssue (.mma o) iss x x.sel (mmaStart o x (beginReplay x s))) :=
  issueUnless_of_unmoved hg hg.ready rfl rfl

theorem mmaSense_rest (o : OpTileS) (x : Ix) (s : State) : mmaSense o x s = { s with
    sramPoison := (mmaSense o x s).sramPoison, sramFlips := (mmaSense o x s).sramFlips, cores := (mmaSense o x s).cores } := by
  unfold mmaSense
  split
  · exact senseSram_rest ..
  · rfl

theorem core_mmaSense (o : OpTileS) (x : Ix) (s : State) (c : Nat) :
    State.core (mmaSense o x s) c = { State.core s c with sramerr := (State.core (mmaSense o x s) c).sramerr } := by
  unfold mmaSense
  split
  · exact core_senseSram ..
  · rfl

theorem tokenOf_mmaStart (o : OpTileS) (x : Ix) (s : State) :
    tokenOf (mmaStart o x s) (x.key / 64) (blkAcc (mmaBlock o x s)) = .lent x.b.team false 0 := by
  rw [tokenOf, mmaStart, accum_modMx, core_modTeam, setToken, accum_modAccum]

theorem queue_mmaStart (o : OpTileS) (x : Ix) (s : State) :
    (Core.mxUnit (State.core (mmaStart o x s) (x.key / 64)) (blkAcc (mmaBlock o x s) / 16)).queue
      = (Core.mxUnit (State.core s (x.key / 64)) (blkAcc (mmaBlock o x s) / 16)).queue ++ [mmaOp o x s] := by
  rw [mmaStart, mxUnit_modMx, core_modTeam, setToken, mxUnit_modAccum, core_mmaSense]
  rfl

theorem find_mmaStart_team {o : OpTileS} {x : Ix} {s : State} {m : Team} (h : Table.find x.b.team s.teams = some m) :
    Table.find x.b.team (mmaStart o x s).teams = some (holdTiles (x.key / 64) (mmaOp o x s).tiles m) := by
  refine find_modTeam (s := setToken _ _ _ (mmaSense o x s)) _ ?_
  rw [mmaSense_rest]
  exact h

/-- An MWAIT whose operation has not ended holds its lanes (R298). -/
theorem exec_mwait_of_running {o : OpTileS} {s : State} {iss : Issue} {x : Ix} {t : Nat} {e : Bool} {a : Dword}
    (hg : Goes (.mwait o) (mwaitCause o) s iss x) (ht : tokenOf (beginReplay x s) (x.key / 64) (accId o.a x) = .lent t e a)
    (ho : (mxOpOf (beginReplay x s) (x.key / 64) (accId o.a x)).isSome = true) :
    exec (.mwait o) s = .next (afterIssue (.mwait o) iss x (x.sel.filter fun l => !x.act.elem l)
      (State.modBand (beginReplay x s) x.key fun b =>
        Band.modLanes b x.act fun _ y => { y with pc := x.pc, run := .acc (accId o.a x) x.hdr })) := by
  change tokenOf _ x.core _ = _ at ht
  change (mxOpOf _ x.core _).isSome = _ at ho
  change execMwait o s = _
  unfold execMwait
  rw [issueUnless_of_goes (hold := busyHold o.a) hg hg.ready] <;> simp only [ht, ho, if_true]

/-- An MWAIT whose operation has ended without an error takes the token back (R293). -/
theorem exec_mwait_of_ended {o : OpTileS} {s : State} {iss : Issue} {x : Ix} {t : Nat} {a : Dword}
    (hg : Goes (.mwait o) (mwaitCause o) s iss x) (ht : tokenOf (beginReplay x s) (x.key / 64) (accId o.a x) = .lent t false a)
    (ho : mxOpOf (beginReplay x s) (x.key / 64) (accId o.a x) = none) :
    exec (.mwait o) s = .next (afterIssue (.mwait o) iss x x.sel
      (setToken (x.key / 64) (accId o.a x) (.held t) (beginReplay x s))) := by
  change tokenOf _ x.core _ = _ at ht
  change mxOpOf _ x.core _ = _ at ho
  change execMwait o s = _
  unfold execMwait
  rw [issueUnless_of_unmoved (hold := busyHold o.a) hg hg.ready] <;>
    simp only [ht, ho, Option.isSome_none, Bool.false_eq_true, if_false]
  rfl

/-- An MWAIT on a token that its team holds passes. -/
theorem exec_mwait_of_held {o : OpTileS} {s : State} {iss : Issue} {x : Ix} {t : Nat}
    (hg : Goes (.mwait o) (mwaitCause o) s iss x) (ht : tokenOf (beginReplay x s) (x.key / 64) (accId o.a x) = .held t) :
    exec (.mwait o) s = .next (afterIssue (.mwait o) iss x x.sel (beginReplay x s)) := by
  change tokenOf _ x.core _ = _ at ht
  change execMwait o s = _
  unfold execMwait
  rw [issueUnless_of_unmoved (hold := busyHold o.a) hg hg.ready] <;> simp only [ht]

/-- Settles O27: each is its shell's effect; what an MMA leaves is read off its token, its queue and its team. -/
theorem matrixInstructions : Obligations.MatrixInstructions := by
  unfold Obligations.MatrixInstructions
  refine ⟨fun o s iss x hg hrep hre => ?_, fun o s iss x t e a hg ht ho => exec_mwait_of_running hg ht ho,
    fun o s iss x t a hg ht ho => exec_mwait_of_ended hg ht ho, fun o s iss x t hg ht => exec_mwait_of_held hg ht,
    fun o s iss x hc hg => ?_⟩
  · have hexec := exec_mma_of_goes hg
    rw [beginReplay_none hrep] at hexec
    have hi : (mmaStart o x s).issue = some iss := by
      unfold mmaStart
      rw [mmaSense_rest]
      exact hg.issue
    refine ⟨_, mmaOp o x s, hexec, ?_⟩
    rw [afterIssue_frame hi hre]
    refine ⟨?_, ?_, tokenOf_mmaStart .., queue_mmaStart .., rfl, fun m hm => ⟨_, find_mmaStart_team hm, fun n => ?_⟩,
      rfl, rfl, rfl, rfl⟩
    · rw [mmaStart, mmaSense_rest]
      rfl
    · rw [mmaStart, mmaSense_rest]
      rfl
    · exact readers_holdTiles ..
  · exact issueWith_of_goes (own := fun x _ _ => if x.gr.ctx = 0 then none else some (causePriv, 0))
      (hg.withOwn fun l _ => if_pos hc) rfl rfl

end Sys2Proof.Machine

namespace Sys2Proof.Machine

open Sys2Proof.Forms

/-! # Tasks, launches and completion bitmaps (spec/16_barriers_tasks_grids.md R382 to R395) -/

/-! ## What the traffic of slices leaves of a core and of the package -/

theorem sensePartial_rest (g h : Nat) (s : State) : sensePartial g h s = { s with
    sramPoison := (sensePartial g h s).sramPoison, sramFlips := (sensePartial g h s).sramFlips
    cores := (sensePartial g h s).cores } := by
  have hfirst (t : State) (a n : Nat) : senseSram a n t = { t with
      sramPoison := (senseSram a n t).sramPoison, sramFlips := (senseSram a n t).sramFlips, cores := (senseSram a n t).cores } :=
    senseSram_rest a n t
  unfold sensePartial
  dsimp only
  split
  · split
    · rfl
    · exact hfirst ..
  · split
    · exact hfirst ..
    · rw [hfirst, hfirst s]

/-- A write at a slice changes its bytes, marks and errors, and cores. -/
theorem writeSram_rest (s : State) (g : Nat) (bs : List Byte) : writeSram s g bs = { s with
    sram := Memory.store s.sram g bs, sramPoison := (writeSram s g bs).sramPoison, sramFlips := (writeSram s g bs).sramFlips
    cores := (writeSram s g bs).cores } := by
  cases bs with
  | nil => rfl
  | cons x bs =>
    unfold writeSram
    simp only [List.isEmpty_cons, Bool.false_eq_true, if_false]
    split
    all_goals rw [sensePartial_rest]
    rfl

theorem core_sensePartial (g h : Nat) (s : State) (c : Nat) :
    State.core (sensePartial g h s) c = { State.core s c with sramerr := (State.core (sensePartial g h s) c).sramerr } := by
  unfold sensePartial
  dsimp only
  split
  · split
    · rfl
    · exact core_senseSram ..
  · split
    · exact core_senseSram ..
    · rw [core_senseSram, core_senseSram _ _ s]

/-- Of a core a write at a slice changes the count of errors, and the wakes it is to send. -/
theorem core_writeSram (s : State) (g : Nat) (bs : List Byte) (c : Nat) :
    ∃ e w, State.core (writeSram s g bs) c = { State.core s c with sramerr := e, wakes := w } := by
  cases bs with
  | nil => exact ⟨_, _, rfl⟩
  | cons x bs =>
    have hpart := core_sensePartial g (g + (x :: bs).length) s c
    unfold writeSram
    simp only [List.isEmpty_cons, Bool.false_eq_true, if_false]
    split
    · exact ⟨_, _, hpart⟩
    · by_cases h : c = g / 2 ^ 26
      · subst h
        rw [core_modCore]
        generalize sensePartial g (g + (x :: bs).length) s = t at hpart
        exact ⟨_, _, congrArg (fun k : Core => { k with wakes := k.wakes ++ wakesFor s g (x :: bs).length }) hpart⟩
      · rw [core_modCore_ne _ _ h]
        exact ⟨_, _, hpart⟩

/-- A message's charge changes the dies' buckets, and the hub's sum of work (R406). -/
theorem chargeRoute_rest (a b : Nat) (s : State) :
    chargeRoute a b s = { s with dies := (chargeRoute a b s).dies, hub := (chargeRoute a b s).hub } := by
  unfold chargeRoute
  dsimp only
  split <;> rfl

theorem chargeBytes_rest (a b n : Nat) (s : State) :
    chargeBytes a b n s = { s with dies := (chargeBytes a b n s).dies, hub := (chargeBytes a b n s).hub } := by
  unfold chargeBytes
  generalize List.range ((n + 127) / 128) = ls
  induction ls generalizing s with
  | nil => rfl
  | cons l ls ih =>
    rw [List.foldl_cons, ih, chargeRoute_rest]

theorem chargeProbe_rest (core v n : Nat) (s : State) :
    chargeProbe core v n s = { s with dies := (chargeProbe core v n s).dies, hub := (chargeProbe core v n s).hub } := by
  unfold chargeProbe
  rw [chargeBytes_rest, chargeRoute_rest]

/-! ## Deques (R382, R383) -/

@[simp] theorem deque_senseSram (g n : Nat) (s : State) (c : Nat) :
    (State.core (senseSram g n s) c).deque = (State.core s c).deque := by rw [core_senseSram]

theorem deque_writeSram (s : State) (g : Nat) (bs : List Byte) (c : Nat) :
    (State.core (writeSram s g bs) c).deque = (State.core s c).deque := by
  obtain ⟨_, _, h⟩ := core_writeSram s g bs c
  rw [h]

@[simp] theorem deque_chargeProbe (a v n : Nat) (s : State) (c : Nat) :
    (State.core (chargeProbe a v n s) c).deque = (State.core s c).deque := by
  rw [chargeProbe_rest]
  rfl

theorem deque_setDeque (core : Nat) (q : List Task) (s : State) : (State.core (setDeque core q s) core).deque = q := by
  rw [setDeque, core_modCore]

theorem deque_setDeque_ne {core c : Nat} (q : List Task) (s : State) (h : c ≠ core) :
    (State.core (setDeque core q s) c).deque = (State.core s c).deque := by
  rw [setDeque, core_modCore_ne _ _ h, deque_writeSram]

/-- Every deque has a place for each of its entries, of eight words each (R382). -/
def DequesOk (s : State) : Prop := ∀ c, (State.core s c).deque.length ≤ 4096 ∧ ∀ k ∈ (State.core s c).deque, k.words.length = 8

/-- No deque lies at a byte. -/
def OffDeques (a : Nat) : Prop := ∀ c, a < dequePlace c ∨ dequePlace c + 2 ^ 18 ≤ a

theorem taskBytes_length {t : Task} (h : t.words.length = 8) : (taskBytes t).length = 64 := by
  simp [taskBytes, List.length_flatMap, natLe_length, zeros, h]

theorem flatMap_taskBytes_length {q : List Task} (h : ∀ k ∈ q, k.words.length = 8) : (q.flatMap taskBytes).length = 64 * q.length := by
  induction q with
  | nil => rfl
  | cons k q ih =>
    rw [List.flatMap_cons, List.length_append, taskBytes_length (h k List.mem_cons_self),
      ih fun j hj => h j (List.mem_cons_of_mem k hj), List.length_cons]
    omega

theorem sameTop_le (a b : List Task) : sameTop a b ≤ a.length ∧ sameTop a b ≤ b.length := by
  induction a generalizing b with
  | nil => simp [sameTop]
  | cons x a ih =>
    cases b with
    | nil => simp [sameTop]
    | cons y b =>
      have h := ih b
      rw [sameTop]
      split
      · simp only [List.length_cons]
        omega
      · exact ⟨Nat.zero_le _, Nat.zero_le _⟩

/-- A step of a TAKE: memory, operations' keys and the issue stand; deques stay in bounds, and with them what they write. -/
structure TakeStep (s t : State) : Prop where
  dram : t.dram = s.dram
  nextKey : t.nextKey = s.nextKey
  issue : t.issue = s.issue
  deques : DequesOk s → DequesOk t
  outside : DequesOk s → ∀ a, OffDeques a → Memory.read t.sram a = Memory.read s.sram a

theorem TakeStep.refl (s : State) : TakeStep s s := ⟨rfl, rfl, rfl, id, fun _ _ _ => rfl⟩

theorem TakeStep.trans {s t u : State} (h : TakeStep s t) (g : TakeStep t u) : TakeStep s u where
  dram := g.dram.trans h.dram
  nextKey := g.nextKey.trans h.nextKey
  issue := g.issue.trans h.issue
  deques hs := g.deques (h.deques hs)
  outside hs a ha := (g.outside (h.deques hs) a ha).trans (h.outside hs a ha)

theorem takeStep_senseSram (g n : Nat) (s : State) : TakeStep s (senseSram g n s) := by
  have hrest := senseSram_rest g n s
  refine ⟨?_, ?_, ?_, fun hs c => ?_, fun _ a _ => ?_⟩
  · rw [hrest]
  · rw [hrest]
  · rw [hrest]
  · rw [deque_senseSram]
    exact hs c
  · rw [hrest]

theorem takeStep_chargeProbe (core v n : Nat) (s : State) : TakeStep s (chargeProbe core v n s) := by
  rw [chargeProbe_rest]
  exact ⟨rfl, rfl, rfl, fun hs => hs, fun _ _ _ => rfl⟩

/-- A deque that keeps its bounds is written in its own part of its slice (R141, R382). -/
theorem TakeStep.setDeque {s t : State} (h : TakeStep s t) {core : Nat} {q : List Task}
    (hq : DequesOk s → q.length ≤ 4096 ∧ ∀ k ∈ q, k.words.length = 8) : TakeStep s (setDeque core q t) := by
  have hrest := writeSram_rest t (dequePlace core + 64 * sameTop (State.core t core).deque q)
    ((q.drop (sameTop (State.core t core).deque q)).flatMap taskBytes
      ++ zeros (64 * ((State.core t core).deque.length - q.length)))
  unfold Machine.setDeque
  refine ⟨?_, ?_, ?_, fun hs c => ?_, fun hs a ha => ?_⟩
  · rw [modCore_dram, hrest, h.dram]
  · rw [modCore_nextKey, hrest, h.nextKey]
  · rw [modCore_issue, hrest, h.issue]
  · by_cases hc : c = core
    · subst hc
      rw [core_modCore]
      exact hq hs
    · rw [core_modCore_ne _ _ hc, deque_writeSram]
      exact h.deques hs c
  · rw [modCore_sram, hrest, ← h.outside hs a ha]
    obtain ⟨hlen, hwords⟩ := hq hs
    have hold := (h.deques hs core).1
    have htop := sameTop_le (State.core t core).deque q
    have hbytes := flatMap_taskBytes_length (q := q.drop (sameTop (State.core t core).deque q))
      fun k hk => hwords k (List.mem_of_mem_drop hk)
    refine Memory.read_store_ne ?_
    have hin := ha core
    simp only [List.length_append, hbytes, List.length_drop, zeros, List.length_replicate]
    omega

/-! ## Taking entries (R384) -/

/-- What leaves a deque at its bottom is one of its entries; the others stand. -/
theorem takeBottom_spec {x : Ix} {q r : List Task} {t : Task} (h : takeBottom x q = some (t, r)) :
    r.length ≤ q.length ∧ ∀ k ∈ r, k ∈ q := by
  unfold takeBottom at h
  split at h
  · exact nomatch h
  · cases h
    refine ⟨?_, fun k hk => List.mem_reverse.mp (List.mem_of_mem_erase (List.mem_reverse.mp hk))⟩
    rw [List.length_reverse, ← q.length_reverse]
    exact (List.erase_sublist).length_le

/-- An entry of the grid at the bottom is the one taken. -/
theorem takeBottom_append {x : Ix} (q : List Task) {k : Task} (h : ofGrid x k = true) : takeBottom x (q ++ [k]) = some (k, q) := by
  unfold takeBottom
  simp [h]

theorem takeBottom_none {x : Ix} {q : List Task} (h : ∀ k ∈ q, ofGrid x k = false) : takeBottom x q = none := by
  have hfind : q.reverse.find? (ofGrid x) = none :=
    List.find?_eq_none.mpr fun k hk => by simp [h k (List.mem_reverse.mp hk)]
  unfold takeBottom
  rw [hfind]

/-- What leaves a deque at its top are at most `n` of its entries; the others stand. -/
theorem takeTop_spec (x : Ix) (n : Nat) (q : List Task) : (takeTop x n q).1.length ≤ n
    ∧ (takeTop x n q).2.length ≤ q.length ∧ (∀ k ∈ (takeTop x n q).1, k ∈ q) ∧ ∀ k ∈ (takeTop x n q).2, k ∈ q := by
  induction q generalizing n with
  | nil => cases n <;> simp [takeTop]
  | cons t q ih =>
    cases n with
    | zero => simp [takeTop]
    | succ n =>
      rw [takeTop]
      split
      · obtain ⟨h1, h2, h3, h4⟩ := ih n
        refine ⟨Nat.succ_le_succ h1, Nat.le_succ_of_le h2, fun k hk => ?_, fun k hk => List.mem_cons_of_mem t (h4 k hk)⟩
        exact List.mem_cons.mpr ((List.mem_cons.mp hk).imp_right (h3 k))
      · obtain ⟨h1, h2, h3, h4⟩ := ih (n + 1)
        refine ⟨h1, Nat.succ_le_succ h2, fun k hk => List.mem_cons_of_mem t (h3 k hk), fun k hk => ?_⟩
        exact List.mem_cons.mpr ((List.mem_cons.mp hk).imp_right (h4 k))

theorem takeStep_serveOwn (x : Ix) (ls : List Nat) (s : State) (got : List (Nat × Task)) :
    TakeStep s (serveOwn x ls s got).2.2 := by
  induction ls generalizing s got with
  | nil => exact .refl s
  | cons l ls ih =>
    rw [serveOwn]
    split
    · exact .refl s
    · rename_i t q h
      obtain ⟨hlen, hmem⟩ := takeBottom_spec h
      exact ((TakeStep.refl s).setDeque fun hs => ⟨hlen.trans (hs _).1, fun k hk => (hs _).2 k (hmem k hk)⟩).trans (ih _ _)

/-- A robbed deque is no longer than it was, and its robber's has room for what it takes (R384, R385). -/
theorem takeStep_steal (x : Ix) (vs ls : List Nat) (s : State) (got : List (Nat × Task)) : TakeStep s (steal x vs ls s got).2 := by
  induction vs generalizing ls s got with
  | nil => exact .refl s
  | cons v vs ih =>
    rw [steal]
    split
    · exact .refl s
    · dsimp only
      generalize hn : Nat.min _ (ls.length + dequeRoom s x.core) = n
      obtain ⟨h1, h2, h3, h4⟩ := takeTop_spec x n (State.core s v).deque
      generalize takeTop x n (State.core s v).deque = r at *
      have hprobe : TakeStep s (chargeProbe x.core v r.1.length (senseDeque v s)) :=
        (takeStep_senseSram _ _ s).trans (takeStep_chargeProbe ..)
      have hdeque (c : Nat) : (State.core (chargeProbe x.core v r.1.length (senseDeque v s)) c).deque = (State.core s c).deque := by
        rw [deque_chargeProbe, senseDeque, deque_senseSram]
      split
      · exact hprobe.trans (ih _ _ _)
      · generalize chargeProbe x.core v r.1.length (senseDeque v s) = s0 at *
        have hrob : TakeStep s (setDeque v r.2 s0) :=
          hprobe.setDeque fun hs => ⟨h2.trans (hs v).1, fun k hk => (hs v).2 k (h4 k hk)⟩
        have hown : (State.core (setDeque v r.2 s0) x.core).deque.length ≤ (State.core s x.core).deque.length := by
          by_cases hv : x.core = v
          · rw [hv, deque_setDeque]
            exact h2
          · rw [deque_setDeque_ne _ _ hv, hdeque]
        refine (hrob.setDeque fun hs => ⟨?_, fun k hk => ?_⟩).trans (ih _ _ _)
        · have hroom : n ≤ ls.length + dequeRoom s x.core := hn ▸ Nat.min_le_right ..
          have hlen := (hs x.core).1
          rw [dequeRoom] at hroom
          rw [List.length_append, List.length_drop]
          omega
        · exact (List.mem_append.mp hk).elim ((hrob.deques hs _).2 k) fun hk => (hs v).2 k (h3 k (List.mem_of_mem_drop hk))

theorem steal_nil (x : Ix) (vs : List Nat) (s : State) (got : List (Nat × Task)) : steal x vs [] s got = (got, s) := by
  cases vs <;> rfl

/-- Victims without an entry of the grid are probed, and keep what they have. -/
theorem steal_of_none {x : Ix} {vs ls : List Nat} {s : State} {got : List (Nat × Task)}
    (h : ∀ c, ∀ k ∈ (State.core s c).deque, ofGrid x k = false) :
    (steal x vs ls s got).1 = got ∧ (steal x vs ls s got).2.sram = s.sram
      ∧ ∀ c, (State.core (steal x vs ls s got).2 c).deque = (State.core s c).deque := by
  induction vs generalizing s with
  | nil => exact ⟨rfl, rfl, fun _ => rfl⟩
  | cons v vs ih =>
    rw [steal]
    split
    · exact ⟨rfl, rfl, fun _ => rfl⟩
    · have hzero : (State.core s v).deque.filter (ofGrid x) = [] := by
        refine List.filter_eq_nil_iff.mpr fun k hk => ?_
        rw [h v k hk]
        exact Bool.false_ne_true
      have hnone : takeTop x (Nat.min ((([] : List Task).length + 1) / 2) (ls.length + dequeRoom s x.core))
          (State.core s v).deque = ([], (State.core s v).deque) := by
        have hmin : Nat.min ((([] : List Task).length + 1) / 2) (ls.length + dequeRoom s x.core) = 0 := Nat.zero_min _
        rw [hmin, takeTop]
      simp only [hzero, hnone]
      have hdeque (c : Nat) : (State.core (chargeProbe x.core v 0 (senseDeque v s)) c).deque = (State.core s c).deque := by
        rw [deque_chargeProbe, senseDeque, deque_senseSram]
      have hsram : (chargeProbe x.core v 0 (senseDeque v s)).sram = s.sram := by
        rw [chargeProbe_rest, senseDeque, senseSram_rest]
      obtain ⟨hgot, hmem, hkeep⟩ := ih (s := chargeProbe x.core v 0 (senseDeque v s)) fun c k hk => h c k (by rwa [hdeque] at hk)
      exact ⟨hgot, hmem.trans hsram, fun c => (hkeep c).trans (hdeque c)⟩

theorem serveOwn_of_none {x : Ix} {ls : List Nat} {s : State} {got : List (Nat × Task)}
    (h : ∀ k ∈ (State.core s x.core).deque, ofGrid x k = false) : serveOwn x ls s got = (got, ls, s) := by
  cases ls with
  | nil => rfl
  | cons l ls => simp only [serveOwn, takeBottom_none h]

theorem serveOwn_of_bottom {x : Ix} {l : Nat} {s : State} {q : List Task} {k : Task} (h : (State.core s x.core).deque = q ++ [k])
    (hk : ofGrid x k = true) : serveOwn x [l] s [] = ([(l, k)], [], setDeque x.core q s) := by
  simp only [serveOwn, h, takeBottom_append q hk, List.nil_append]

/-- What the active lanes of a TAKE get, and the state that the taking leaves (R384). -/
def takeAll (x : Ix) (s : State) : List (Nat × Task) × State :=
  let a := serveOwn x x.act (senseDeque x.core s) []
  steal x (victims x.core) a.2.1 a.2.2 a.1

/-- The results of a TAKE: the task of each lane that got one, and zeros (R384). -/
def takeAccs (x : Ix) (got : List (Nat × Task)) : List Acc :=
  x.act.map fun l =>
    { lane := l, addr := 0, va := 0, place := .out 0 0, size := 32, data := [], cmp := [], stage := .performed
      value := match got.find? fun e => e.1 == l with
        | some e => taskValue e.2.words
        | none => 0 }

/-- The operation a TAKE starts. -/
def takeStart (o : OpTask) (x : Ix) (s : State) : State :=
  let r := takeAll x s
  let n := newOp (.take o) x (.take o.v.val) o.dc .dev .acq (takeAccs x r.1) false 0 r.2
  markPending x.key x.act (destRegs o.v 8) n.1 (countIssue x o.dc n.2)

theorem takeStep_takeAll (x : Ix) (s : State) : TakeStep s (takeAll x s).2 :=
  (takeStep_senseSram ..).trans ((takeStep_serveOwn ..).trans (takeStep_steal ..))

theorem takeStart_frame (o : OpTask) (x : Ix) (s : State) : takeStart o x s =
    { (newOp (.take o) x (.take o.v.val) o.dc .dev .acq (takeAccs x (takeAll x s).1) false 0 (takeAll x s).2).2 with
      bands := (takeStart o x s).bands } := by
  unfold takeStart
  dsimp only
  rw [countIssue_frame]
  rfl

theorem exec_take_of_goes {o : OpTask} {s : State} {iss : Issue} {x : Ix} (hg : Goes (.take o) noCause s iss x)
    (hr : x.replay = none) : exec (.take o) s = .next (afterIssue (.take o) iss x x.sel (takeStart o x s)) := by
  have h := issueUnless_of_goes (hold := takeHold) (eff := fun x s => ⟨takeStart o x s, [], []⟩) hg hg.ready rfl
  rw [beginReplay_none hr, filter_not_nil] at h
  exact h

theorem ofGrid_iff {x : Ix} {k : Task} : ofGrid x k = true ↔ k.gridid = x.gr.desc.gridid ∧ k.ctx = x.ctx := by
  simp [ofGrid]

/-- A lone lane gets the entry at the bottom, where it is of the grid (R384). -/
theorem takeAll_of_bottom {x : Ix} {l : Nat} {s : State} {q : List Task} {k : Task} (hx : x.act = [l])
    (h : (State.core s x.core).deque = q ++ [k]) (hk : ofGrid x k = true) :
    takeAll x s = ([(l, k)], setDeque x.core q (senseDeque x.core s)) := by
  have hd : (State.core (senseDeque x.core s) x.core).deque = q ++ [k] := by rw [senseDeque, deque_senseSram, h]
  unfold takeAll
  simp only [hx, serveOwn_of_bottom hd hk, steal_nil]

/-- Where no core has an entry of the grid, no lane gets one, and the deques stand (R384). -/
theorem takeAll_of_none {x : Ix} {s : State} (h : ∀ c, ∀ k ∈ (State.core s c).deque, ofGrid x k = false) :
    (takeAll x s).1 = [] ∧ (takeAll x s).2.sram = s.sram ∧ ∀ c, (State.core (takeAll x s).2 c).deque = (State.core s c).deque := by
  have hd (c : Nat) : (State.core (senseDeque x.core s) c).deque = (State.core s c).deque := by rw [senseDeque, deque_senseSram]
  have h' : ∀ c, ∀ k ∈ (State.core (senseDeque x.core s) c).deque, ofGrid x k = false := fun c k hk => h c k (by rwa [hd] at hk)
  have hsram : (senseDeque x.core s).sram = s.sram := by rw [senseDeque, senseSram_rest]
  unfold takeAll
  rw [serveOwn_of_none (h' _)]
  obtain ⟨hgot, hmem, hkeep⟩ := steal_of_none (vs := victims x.core) (ls := x.act) (got := []) h'
  exact ⟨hgot, hmem.trans hsram, fun c => (hkeep c).trans (hd c)⟩

theorem exec_take_effect {o : OpTask} {s : State} {iss : Issue} {x : Ix} (hg : Goes (.take o) noCause s iss x)
    (hr : x.replay = none) (he : iss.reeval = false) :
    ∃ t op, exec (.take o) s = .next t ∧ Table.find s.nextKey t.ops = some op ∧ op.kind = .take o.v.val ∧ op.dc = o.dc
      ∧ op.order = .acq ∧ op.scope = .dev ∧ op.accs = takeAccs x (takeAll x s).1
      ∧ t.dram = (takeAll x s).2.dram ∧ t.sram = (takeAll x s).2.sram ∧ t.cores = (takeAll x s).2.cores := by
  have hstep := takeStep_takeAll x s
  have hframe := takeStart_frame o x s
  have hissue : (takeStart o x s).issue = some iss := by
    rw [hframe]
    exact hstep.issue.trans hg.issue
  have hafter := afterIssue_frame (i := .take o) (iss := iss) (x := x) (ls := x.sel) hissue he
  rw [exec_take_of_goes hg hr, hafter, hframe, ← hstep.nextKey]
  exact ⟨_, _, rfl, Table.find_set _ _ _, rfl, rfl, rfl, rfl, rfl, rfl, rfl, rfl⟩

/-! ## Launches and bitmaps (R387 to R395) -/

/-- A descriptor that names no record is refused at once: its completion of CODE 2 (R389). -/
theorem refuseGrid_of_no_stat (ctx gridid detail : Nat) (s : State) :
    refuseGrid ctx 0 gridid detail s = .done (noteCompletion ctx ⟨gridid, 2, detail, 0⟩ s) := by
  simp [refuseGrid, writeStat, Try.map, Try.next]

theorem launchGrid_of_queue {ctx q : Nat} {bs : List Byte} {s : State} (hq : 7 < q) (hstat : (parseDesc bs).stat = 0) :
    launchGrid ctx q bs none s = .done (noteCompletion ctx ⟨(parseDesc bs).gridid, 2, detailQueue, 0⟩ s) := by
  unfold launchGrid
  dsimp only
  rw [if_pos hq, hstat, refuseGrid_of_no_stat]

theorem launchGrid_of_desc {ctx q : Nat} {bs : List Byte} {s : State} (hq : q ≤ 7) (hd : descOk bs = false)
    (hstat : (parseDesc bs).stat = 0) :
    launchGrid ctx q bs none s = .done (noteCompletion ctx ⟨(parseDesc bs).gridid, 2, detailDesc, 0⟩ s) := by
  unfold launchGrid
  dsimp only
  rw [if_neg (Nat.not_lt.mpr hq), hd, hstat, refuseGrid_of_no_stat]
  rfl

theorem countAtOnce_of_first {x : Ix} (dc : Dc) (s : State) (h : x.replay = none) : countAtOnce x dc s = s := by
  simp [countAtOnce, Ix.again, h]

/-- The bit of a queue in KICK. -/
theorem kick_kickQueue {q : Nat} (s : State) (h : q < 8) : (kickQueue q s).hub.kick.getLsbD q = true := by
  have hbit : (BitVec.ofNat 8 (2 ^ q)).getLsbD q = true := by
    rw [BitVec.getLsbD_ofNat, Nat.testBit_two_pow_self, Bool.and_true]
    exact decide_eq_true h
  change (s.hub.kick ||| BitVec.ofNat 8 (2 ^ q)).getLsbD q = true
  rw [BitVec.getLsbD_or, hbit, Bool.or_true]

/-- The state with a grid that no queue holds yet. -/
def withGrid (g : Grid) (s : State) : State := { s with nextKey := s.nextKey + 1, grids := Table.set s.nextKey g s.grids }

/-- A grid whose DEPGRID is met where it names no queued or running grid (R391). -/
def metGrid (s : State) (g : Grid) : Grid := { g with met := g.desc.depk != 1 || (gridNamed s g.ctx g.desc.depgrid).isNone }

/-- A grid is queued behind those of its queue, and has it examined (R387, R397). -/
theorem queueGrid_spec (g : Grid) (s : State) (h : g.queue < 8) :
    ∃ k, Table.find s.nextKey (queueGrid g s).grids = some k ∧ k = { g with met := k.met }
      ∧ Table.get [] g.queue (queueGrid g s).hub.queues = Table.get [] g.queue s.hub.queues ++ [s.nextKey]
      ∧ (queueGrid g s).hub.kick.getLsbD g.queue = true ∧ (queueGrid g s).dram = s.dram ∧ (queueGrid g s).sram = s.sram := by
  have hmod : (queueGrid g s).grids = (State.modGrid (withGrid g s) s.nextKey (metGrid (withGrid g s))).grids := rfl
  have hfind := find_modGrid (s := withGrid g s) (metGrid (withGrid g s)) (Table.find_set s.nextKey g s.grids)
  rw [hmod]
  exact ⟨_, hfind, rfl, Table.get_set .., kick_kickQueue _ h, rfl, rfl⟩

theorem exec_launch_of_line {o : OpEng2} {bs : List Byte} {s s2 : State} {iss : Issue} {x : Ix}
    (hg : Goes (.launch o) (lineCause (launchAddr o) 128 128 permRd) s iss x) (hr : x.replay = none)
    (hline : lineLook x s (launchAddr o x) 128 permRd false = some (.ok bs))
    (hgrid : launchGrid x.ctx (launchQueue o x) bs none s = .done s2) :
    exec (.launch o) s = .next (afterIssue (.launch o) iss x x.sel s2) := by
  change execLaunch o s = _
  unfold execLaunch
  rw [issueWith_of_goes hg] <;> simp only [beginReplay_none hr, hline, hgrid, countAtOnce_of_first _ _ hr, Try.state]

theorem exec_cbset_of_line {o : OpEng2} {bs : List Byte} {c : Nat} {s : State} {iss : Issue} {x : Ix}
    (hg : Goes (.cbset o) (lineCause (cbsetAddr o) 8 8 cbsetNeed) s iss x) (hr : x.replay = none)
    (hline : lineLook x s (cbsetAddr o x) 8 cbsetNeed true = some (.ok bs))
    (hrange : rangeCheck (State.ctx s x.ctx) (cbsetAddr o x) cbsetNeed = some c) :
    exec (.cbset o) s = .next (afterIssue (.cbset o) iss x x.sel
      (writeThrough x.core s c (natLe 8 (leNat bs ||| 2 ^ ((x.s o.b.val).toNat % 64)))).2) := by
  change execCbset o s = _
  unfold execCbset
  rw [issueWith_of_goes hg] <;> simp only [beginReplay_none hr, hline, hrange, countAtOnce_of_first _ _ hr]

theorem exec_cbwait_of_none {o : OpEng3} {s : State} {iss : Issue} {x : Ix} (hg : Goes (.cbwait o) (cbwaitCause o) s iss x)
    (hr : x.replay = none) (hc : (x.s o.c.val).toNat = 0) : exec (.cbwait o) s = .next (afterIssue (.cbwait o) iss x x.sel s) := by
  change execCbwait o s = _
  unfold execCbwait
  rw [issueWith_of_goes hg] <;> simp only [beginReplay_none hr, hc, if_true, countAtOnce_of_first _ _ hr]

/-- The operation of a CBWAIT with bits; its first look at them is due at once (R395). -/
def cbwaitStart (o : OpEng3) (x : Ix) (s : State) : State :=
  let f := (x.s o.b.val).toNat
  let c := (x.s o.c.val).toNat
  let n := newOp (.cbwait o) x (.cbwait (x.sw true o.a.val) f c (rangeIndices f c)) o.dc .dev .acq [] false 0 s
  State.modOp (countIssue x o.dc n.2) n.1 fun p => { p with since := 256 }

theorem exec_cbwait_of_bits {o : OpEng3} {s : State} {iss : Issue} {x : Ix} (hg : Goes (.cbwait o) (cbwaitCause o) s iss x)
    (hr : x.replay = none) (hc : (x.s o.c.val).toNat ≠ 0) (hp : cbwaitPages o x s = []) :
    exec (.cbwait o) s = .next (afterIssue (.cbwait o) iss x x.sel (cbwaitStart o x s)) := by
  change execCbwait o s = _
  unfold execCbwait
  rw [issueWith_of_goes hg] <;>
    simp only [beginReplay_none hr, if_neg hc, hp, List.isEmpty_nil, Bool.not_true, Bool.false_eq_true, if_false]
  rfl

theorem find_cbwaitStart (o : OpEng3) (x : Ix) (s : State) : ∃ op, Table.find s.nextKey (cbwaitStart o x s).ops = some op
    ∧ op.dc = o.dc ∧ op.kind = .cbwait (x.sw true o.a.val) (x.s o.b.val).toNat (x.s o.c.val).toNat
        (rangeIndices (x.s o.b.val).toNat (x.s o.c.val).toNat) := by
  unfold cbwaitStart
  dsimp only
  rw [countIssue_frame]
  exact ⟨_, find_modOp _ (Table.find_set _ _ _), rfl, rfl⟩

theorem cbwaitStart_rest (o : OpEng3) (x : Ix) (s : State) :
    (cbwaitStart o x s).issue = s.issue ∧ (cbwaitStart o x s).dram = s.dram ∧ (cbwaitStart o x s).sram = s.sram := by
  unfold cbwaitStart
  dsimp only
  rw [countIssue_frame]
  exact ⟨rfl, rfl, rfl⟩

/-- Settles O29: the SPAWN's push, the TAKE through the frame of deques, and what LAUNCH, CBSET and CBWAIT do with the lines they
look at. -/
theorem taskInstructions : Obligations.TaskInstructions := by
  unfold Obligations.TaskInstructions
  refine ⟨fun o s iss x hg => issueWith_of_goes hg rfl rfl, fun o s iss x hg hr he => ?_, fun o bs s s2 iss x => exec_launch_of_line,
    fun ctx q bs s _ hstat => ⟨fun hq => launchGrid_of_queue hq hstat, fun hq hd => launchGrid_of_desc hq hd hstat⟩,
    fun g s => queueGrid_spec g s, fun o bs c s iss x => exec_cbset_of_line, fun o s iss x => exec_cbwait_of_none,
    fun o s iss x hg hr he hc hp => ?_⟩
  · obtain ⟨t, op, hexec, hop, hkind, hdc, horder, hscope, haccs, hdram, hsram, hcores⟩ := exec_take_effect hg hr he
    have hstep := takeStep_takeAll x s
    have hcore (c : Nat) : State.core t c = State.core (takeAll x s).2 c := by rw [State.core, hcores, State.core]
    refine ⟨t, op, hexec, hop, hkind, hdc, horder, hscope, ?_, hdram.trans hstep.dram, fun hok a ha => ?_,
      fun l q k hx hq hid hctx => ?_, fun hno => ?_⟩
    · rw [haccs, takeAccs, List.map_map]
      exact List.map_id _
    · rw [hsram]
      exact hstep.outside hok a ha
    · have htake := takeAll_of_bottom hx hq (ofGrid_iff.mpr ⟨hid, hctx⟩)
      refine ⟨?_, ?_⟩
      · rw [haccs, htake, takeAccs, hx]
        simp
      · rw [hcore, htake]
        exact deque_setDeque ..
    · obtain ⟨hgot, hmem, hkeep⟩ := takeAll_of_none (x := x) (s := s) fun c k hk => Bool.eq_false_iff.mpr fun h =>
        have ⟨hid, hctx⟩ := ofGrid_iff.mp h
        (hno c k hk).elim (absurd hid) (absurd hctx)
      refine ⟨?_, hsram.trans hmem, fun c => by rw [hcore, hkeep]⟩
      rw [haccs, hgot, takeAccs, List.map_map]
      rfl
  · obtain ⟨op, hop, hdc, hkind⟩ := find_cbwaitStart o x s
    obtain ⟨hissue, hdram, hsram⟩ := cbwaitStart_rest o x s
    have hframe := afterIssue_frame (i := .cbwait o) (iss := iss) (x := x) (ls := x.sel) (hissue.trans hg.issue) he
    rw [exec_cbwait_of_bits hg hr hc hp, hframe]
    exact ⟨_, op, rfl, hop, hdc, hkind, hdram, hsram⟩

end Sys2Proof.Machine

namespace Sys2Proof.Machine

/-! # Steps on one band, and fragments (spec/18_traps_fragments_preemption.md R436 to R446; spec/15_control_flow.md R366;
spec/16_barriers_tasks_grids.md R376; spec/17_scheduling_tokens_power.md R414) -/

/-! ## The entries of a core's fragment table -/

theorem Table.not_mem_of_find_none {α : Type} {k : Nat} {t : Table α} (h : Table.find k t = none) {e : Nat × α} (he : e ∈ t) :
    e.1 ≠ k := by
  induction t with
  | nil => exact nomatch he
  | cons p t ih =>
    obtain ⟨j, y⟩ := p
    rw [Table.find] at h
    split at h
    · exact nomatch h
    next hj =>
      rcases List.mem_cons.mp he with rfl | he
      · exact hj
      · exact ih h he

theorem storeLog_core (core n : Nat) (f : Frag) (s : State) (c : Nat) :
    (State.core (storeLog core n f s) c).frags = (State.core s c).frags := by
  have hwrite (s : State) (g : Nat) (bs : List Byte) : (State.core (writeSram s g bs) c).frags = (State.core s c).frags := by
    obtain ⟨_, _, h⟩ := core_writeSram s g bs c
    rw [h]
  unfold storeLog
  dsimp only
  split
  · exact hwrite ..
  · rw [hwrite, hwrite]

theorem storeLog_dram (core n : Nat) (f : Frag) (s : State) : (storeLog core n f s).dram = s.dram := by
  have hwrite (s : State) (g : Nat) (bs : List Byte) : (writeSram s g bs).dram = s.dram := by rw [writeSram_rest]
  unfold storeLog
  dsimp only
  split
  · exact hwrite ..
  · rw [hwrite, hwrite]

/-- A fragment put into its core's table stands in its entry alone. -/
theorem frags_enterFrag (core n : Nat) (f : Frag) (s : State) :
    (State.core (enterFrag core n f s) core).frags = Table.set n f (State.core s core).frags := by
  rw [enterFrag, storeLog_core, core_modCore]

theorem enterFrag_dram (core n : Nat) (f : Frag) (s : State) : (enterFrag core n f s).dram = s.dram := by
  rw [enterFrag, storeLog_dram, modCore_dram]

/-! ## Late lanes (R445) -/

/-- What the split of some late lanes leaves in an entry: their fragment, LANDING or READY. -/
structure LateFrag (key : Nat) (pc : Pc) (lanes : Dword) (f : Frag) : Prop where
  late : f.late = true
  lanes : f.lanes = lanes
  pc : f.pc = pc
  band : f.band = key
  state : f.state = .landing ∨ f.state = .ready

theorem LateFrag.turnReady {key : Nat} {pc : Pc} {lanes : Dword} {f : Frag} (b : Band) (h : LateFrag key pc lanes f) :
    LateFrag key pc lanes (turnReady b f) := by
  unfold Machine.turnReady
  split
  · dsimp only
    split
    · exact ⟨h.late, h.lanes, h.pc, h.band, .inr rfl⟩
    · exact h
  · exact h

/-- Evaluating LANDING fragments leaves a fragment of late lanes one of these lanes. -/
theorem landingReady_late {key n : Nat} {pc : Pc} {lanes : Dword} {s : State}
    (hfind : ∃ f, Table.find n (State.core s (key / 64)).frags = some f ∧ LateFrag key pc lanes f)
    (hall : ∀ e ∈ (State.core s (key / 64)).frags, e.1 = n → LateFrag key pc lanes e.2) :
    ∃ f, Table.find n (State.core (landingReady key s) (key / 64)).frags = some f ∧ LateFrag key pc lanes f := by
  unfold landingReady
  split
  · exact hfind
  next b hb =>
    clear hb
    have hlist : ∀ e ∈ (State.core s (key / 64)).frags.filter fun e => e.2.band == key && e.2.state == .landing,
        e.1 = n → LateFrag key pc lanes e.2 := fun e he => hall e (List.mem_filter.mp he).1
    clear hall
    generalize ((State.core s (key / 64)).frags.filter fun e => e.2.band == key && e.2.state == .landing) = es at hlist
    induction es generalizing s with
    | nil => exact hfind
    | cons e es ih =>
      rw [List.foldl_cons]
      refine ih ?_ fun d hd => hlist d (List.mem_cons_of_mem e hd)
      dsimp only
      split
      · exact hfind
      · rw [frags_enterFrag]
        by_cases hn : e.1 = n
        · exact ⟨_, by rw [hn, Table.find_set], (hlist e List.mem_cons_self hn).turnReady b⟩
        · obtain ⟨f, hf, hlate⟩ := hfind
          exact ⟨f, by rw [Table.find_set_ne _ _ (Ne.symm hn), hf], hlate⟩

theorem landingReady_dram (key : Nat) (s : State) : (landingReady key s).dram = s.dram := by
  unfold landingReady
  split
  · rfl
  next b hb =>
    clear hb
    generalize ((State.core s (key / 64)).frags.filter fun e => e.2.band == key && e.2.state == .landing) = es
    induction es generalizing s with
    | nil => rfl
    | cons e es ih =>
      rw [List.foldl_cons, ih]
      dsimp only
      split
      · rfl
      · exact enterFrag_dram ..

/-- An entry that a new fragment may take holds none (R441, R446). -/
theorem find_of_openEntry {s : State} {core n : Nat} (h : openEntry s core = some n) :
    Table.find n (State.core s core).frags = none := by
  unfold openEntry at h
  split at h
  · exact nomatch h
  · have hfree := List.find?_some h
    simp only [Bool.and_eq_true, Option.isNone_iff_eq_none] at hfree
    exact hfree.1


/-- The fragment of the late lanes of a group (R445). -/
def lateFrag (key : Nat) (i : Instr) (x : Ix) (late : List Nat) (s : State) : Frag :=
  let log := logOf i { x with act := late } 0
  let c := State.core s (key / 64)
  { band := key, ctx := x.ctx, late := true, state := .landing, lanes := maskOf late, pc := x.pc, nrec := 0, seq := 0
    logNo := (freeLogs c).getD 0 0, cont := if needsCont log then some ((freeLogs c).getD 1 0) else none
    log := { log with vrec := [], vok := false }, dc := none, uid := s.nextKey }

theorem exec_lateSplit_of_late {s : State} {key n : Nat} {lanes : Dword} {b : Band} {i : Instr} {x : Ix} {late : List Nat}
    (hb : Table.find key s.bands = some b)
    (hlate : lateGroup s key (Band.lane b ((lanesOf lanes).headD 0)).pc (lanesOf lanes) = some (i, x, late))
    (hn : openEntry s (key / 64) = some n) :
    exec (.lateSplit key lanes) s = .next (landingReady key (enterFrag (key / 64) n (lateFrag key i x late s)
      { parkLanes key (maskOf late) x.pc none s with nextKey := s.nextKey + 1 })) := by
  change execLateSplit key lanes s = _
  unfold execLateSplit
  simp only [hb, hlate, hn]
  rfl

/-- A split leaves the late lanes' fragment in the entry it took. -/
theorem exec_lateSplit_spec {s : State} {key n : Nat} {lanes : Dword} {b : Band} {i : Instr} {x : Ix} {late : List Nat}
    (hb : Table.find key s.bands = some b)
    (hlate : lateGroup s key (Band.lane b ((lanesOf lanes).headD 0)).pc (lanesOf lanes) = some (i, x, late))
    (hn : openEntry s (key / 64) = some n) :
    ∃ t f, exec (.lateSplit key lanes) s = .next t ∧ Table.find n (State.core t (key / 64)).frags = some f
      ∧ LateFrag key x.pc (maskOf late) f ∧ t.dram = s.dram := by
  have hfrags := frags_enterFrag (key / 64) n (lateFrag key i x late s)
    { parkLanes key (maskOf late) x.pc none s with nextKey := s.nextKey + 1 }
  have hnew : LateFrag key x.pc (maskOf late) (lateFrag key i x late s) := ⟨rfl, rfl, rfl, rfl, .inl rfl⟩
  obtain ⟨f, hf, hspec⟩ := landingReady_late (key := key) (n := n) (pc := x.pc) (lanes := maskOf late)
    (by rw [hfrags]; exact ⟨_, Table.find_set .., hnew⟩) fun e he hen => by
      rw [hfrags] at he
      rcases Table.mem_set he with rfl | he
      · exact hnew
      · exact absurd hen (Table.not_mem_of_find_none (find_of_openEntry hn) he)
  exact ⟨_, f, exec_lateSplit_of_late hb hlate hn, hf, hspec, (landingReady_dram ..).trans (enterFrag_dram ..)⟩

/-! ## Timers, deadlocks, the watchdog -/

theorem execTimerFire_of_idle {s : State} {key : Nat} {b : Band} (hb : Table.find key s.bands = some b)
    (ht : timerDue b = false) : execTimerFire key s = .next s := by
  unfold execTimerFire
  simp [hb, ht]

theorem execTimerFire_of_due {s : State} {key : Nat} {b : Band} {p : Cand} (hb : Table.find key s.bands = some b)
    (ht : timerDue b = true) (hp : chooseP b ((readyGroups s key).filter fun c => c.replay.isNone) = some p) :
    execTimerFire key s = .next (fireTimer key p s) := by
  unfold execTimerFire
  simp [hb, ht, hp]

theorem execRejoinDeadlockDetect_of_none {s : State} {key : Nat} {b : Band} (hb : Table.find key s.bands = some b)
    (hd : deadlocked s key = false) : execRejoinDeadlockDetect key s = .next s := by
  unfold execRejoinDeadlockDetect
  simp [hb, hd]

theorem execRejoinDeadlockDetect_of_deadlock {s : State} {key : Nat} {b : Band} (hb : Table.find key s.bands = some b)
    (hd : deadlocked s key = true) :
    execRejoinDeadlockDetect key s = .next (((List.range b.width).filter fun l => (Band.lane b l).run == .rejoin).foldl
      (fun s l => deliver key (Band.lane b l).pc s ⟨l, causeRejoinDeadlock, 0⟩) s) := by
  unfold execRejoinDeadlockDetect
  simp [hb, hd, List.foldl_filter]

theorem execBarWatchdogExpiry_of_waiting {s : State} {key l n : Nat} {b : Band} {t : Team} {g : Grid}
    (hh : State.home s key = some (b, t, g)) (hn : barrierOf s key l = some n) (hw : g.desc.bwdog ≠ 0)
    (hlong : g.desc.bwdog * 1024 < (Band.lane b l).waited) (ha : Lane.arrived (Band.lane b l) n (Team.bar t n).p = false) :
    execBarWatchdogExpiry key l s = .next (deliver key (Band.lane b l).pc s ⟨l, causeBarWatchdog, BitVec.ofNat 64 n⟩) := by
  unfold execBarWatchdogExpiry
  simp [hh, hn, hw, Nat.not_le.mpr hlong, ha]

theorem execPwintIntentExpiry_of_intent {s : State} {key e : Nat} {b : Band} (hb : Table.find key s.bands = some b)
    (he : b.intent = some e) : execPwintIntentExpiry key s = .next
      (if e < s.hub.k then refreshPlan (State.modBand s key fun b => { b with intent := none }) else s) := by
  unfold execPwintIntentExpiry
  simp only [hb, he]
  split <;> rfl

/-- Settles O44, by what each step does where it is due and where it is not; the split through the table of fragments. -/
theorem bandSteps : Obligations.BandSteps := by
  unfold Obligations.BandSteps
  refine ⟨fun s key b => execTimerFire_of_idle, fun s key b p => execTimerFire_of_due, fun s key b => execRejoinDeadlockDetect_of_none,
    fun s key b => execRejoinDeadlockDetect_of_deadlock, fun s key l n b t g => execBarWatchdogExpiry_of_waiting,
    fun s key e b => execPwintIntentExpiry_of_intent, fun s key n lanes b i x late hb hlate hn => ?_⟩
  obtain ⟨t, f, hexec, hf, hspec, hdram⟩ := exec_lateSplit_spec hb hlate hn
  exact ⟨t, f, hexec, hf, hspec.late, hspec.lanes, hspec.pc, hspec.band, hspec.state, hdram⟩

/-! ## Acts on a fragment (R442, R443, R446) -/

theorem goFrag_of_ok {core n act : Nat} {ok : Frag → Bool} {act' : Frag → State → State} {s : State} {f : Frag} (hc : core < 64)
    (hf : Table.find n (State.core s core).frags = some f) (hok : ok f = true) : goFrag core n act ok act' s =
      .next (State.modCore (act' f s) core fun c => { c with frctl := frctlAfter n act false c.frctl }) := by
  unfold goFrag
  simp [Nat.not_le.mpr hc, hf, hok]

theorem goFrag_of_bad {core n act : Nat} {ok : Frag → Bool} {act' : Frag → State → State} {s : State} {f : Frag} (hc : core < 64)
    (hf : Table.find n (State.core s core).frags = some f) (hok : ok f = false) : goFrag core n act ok act' s =
      .next (State.modCore s core fun c => { c with frctl := frctlAfter n act true c.frctl }) := by
  unfold goFrag
  simp [Nat.not_le.mpr hc, hf, hok]

theorem endFrag_spec (s : State) (core n : Nat) (f : Frag) : Table.find n (State.core (endFrag core n f s) core).frags = none
    ∧ ∀ b, Table.find f.band s.bands = some b →
        ∃ c, Table.find f.band (endFrag core n f s).bands = some c ∧ c.lanes = b.lanes := by
  have hcores : State.core (endFrag core n f s) core
      = State.core (State.modCore s core fun c => { c with frags := Table.del n c.frags }) core := by
    unfold endFrag
    rw [countDown_frame]
    rfl
  refine ⟨?_, fun b hb => ?_⟩
  · rw [hcores, core_modCore]
    exact Table.find_del ..
  · obtain ⟨c, hc, hlanes, _⟩ := find_countDown (s := State.modCore s core fun c => { c with frags := Table.del n c.frags })
      f.band f.dc hb
    exact ⟨c, hc, hlanes⟩

theorem execFragFullResume_of_full {s : State} {core n key : Nat} {b : Band} {o : Overflow} {h : Band × Team × Grid} (hc : core < 64)
    (ho : oldestFull s core = some (key, b, o)) (hn : freeEntry (State.core s core) = some n) (hh : State.home s key = some h) :
    execFragFullResume core s = .next
      (putFragment key n o.pc o.log o.src o.pages (o.op.map fun k => Fin.ofNat 6 k) h.2.2.ctx
        (State.modBand s key fun b => { b with overflow := b.more.head?, more := b.more.tail })) := by
  unfold execFragFullResume
  simp [Nat.not_le.mpr hc, ho, hn, hh]

theorem execFragmentReplay_of_paid {s : State} {core n : Nat} {f : Frag} {h : Band × Team × Grid} {c : Cand} (hc : core < 64)
    (hi : s.issue = none) (hf : Table.find n (State.core s core).frags = some f) (hh : State.home s f.band = some h)
    (hstill : bandStill s h.1 h.2.1 h.2.2 = false) (hspent : budgetSpent h.2.1 = false)
    (hl : lookFrag s f.band n f h.1 = some c) (hp : c.price ≤ (State.core s core).bucket) :
    execFragmentReplay core n s = .next
      (startGroups f.band 0 false h.1 (readyLanes s f.band) (some c) none (chargeCore core c.price s)) := by
  unfold execFragmentReplay
  simp [Nat.not_le.mpr hc, hi, hf, hh, hstill, hspent, hl, hp]

theorem execFragmentReplay_of_unpaid {s : State} {core n : Nat} {f : Frag} {h : Band × Team × Grid} {c : Cand} (hc : core < 64)
    (hf : Table.find n (State.core s core).frags = some f) (hh : State.home s f.band = some h)
    (hl : lookFrag s f.band n f h.1 = some c) (hp : (State.core s core).bucket < c.price) :
    execFragmentReplay core n s = .next s := by
  unfold execFragmentReplay
  simp [Nat.not_le.mpr hc, hf, hh, hl, Nat.not_le.mpr hp]

/-- A group that reads no fetch fragment stands under issue once it is started (R350). -/
theorem issue_startGroups {key : Nat} {upset : Dword} {br : Bool} {b : Band} {ready : Dword} {c : Cand} {s : State}
    (hc : c.fetch = false) : (startGroups key upset br b ready (some c) none s).issue
      = some ⟨key, c.group, br, none, upset, b.shadow, false, ready, 0, some b⟩ := by
  unfold startGroups
  simp [hc]

/-- Settles O48, by the acts on an entry, its release, and the start of a replay. -/
theorem fragments : Obligations.Fragments := by
  unfold Obligations.Fragments
  refine ⟨fun s core n f hc hf hs hl => ?_, fun s core n f hc hf hs => ?_, fun s core n f hc hf hs => ?_, fun s core n f hc hf hs => ?_,
    fun s core n f => endFrag_spec s core n f, fun s core n key b o h => execFragFullResume_of_full,
    fun s core n f h c => execFragmentReplay_of_paid, fun s core n f h c => execFragmentReplay_of_unpaid,
    fun s key b ready c hc => ⟨_, issue_startGroups hc, rfl, rfl, rfl⟩⟩
  · change execFragReady core n s = _
    unfold execFragReady
    rw [goFrag_of_ok hc hf (by simp [hs, hl])]
  · change execFragReady core n s = _
    unfold execFragReady
    rw [goFrag_of_bad hc hf (by rcases hs with hs | hs <;> simp [hs])]
  · change execFragPoison core n s = _
    unfold execFragPoison
    rw [goFrag_of_ok hc hf (by simpa using hs)]
    rfl
  · change execFragDiscard core n s = _
    unfold execFragDiscard
    rw [goFrag_of_ok hc hf (by simpa using hs)]

end Sys2Proof.Machine

namespace Sys2Proof.Machine

/-! # The choice of band and groups (spec/15_control_flow.md R347 to R352; spec/17_scheduling_tokens_power.md R402) -/

/-! ## The first of some choices in an order -/

/-- The first choice in an order is one of them, and none comes before it. -/
theorem firstChoice_spec {f : Choice → Choice → Bool} (hirr : ∀ a, f a a = false)
    (htrans : ∀ a b c, f a b = true → f b c = true → f a c = true) {cs : List Choice} {m : Choice}
    (h : firstChoice f cs = some m) : m ∈ cs ∧ ∀ d ∈ cs, f d m = false := by
  have hfold : ∀ (cs : List Choice) (m0 m : Choice),
      cs.foldl (fun m c => match m with
        | none => some c
        | some d => if f c d then some c else m) (some m0) = some m →
      (m = m0 ∨ m ∈ cs) ∧ (∀ d ∈ cs, f d m = false) ∧ ∀ d, f d m0 = false → f d m = false := by
    intro cs
    induction cs with
    | nil =>
      intro m0 m h
      cases h
      exact ⟨.inl rfl, fun _ hd => absurd hd List.not_mem_nil, fun _ hd => hd⟩
    | cons c cs ih =>
      intro m0 m h
      rw [List.foldl_cons] at h
      cases hc : f c m0 with
      | true =>
        simp only [hc, if_true] at h
        obtain ⟨hmem, hall, hkeep⟩ := ih c m h
        refine ⟨.inr (List.mem_cons.mpr hmem), fun d hd => ?_, fun d hd => hkeep d ?_⟩
        · rcases List.mem_cons.mp hd with rfl | hd
          · exact hkeep d (hirr d)
          · exact hall d hd
        · exact Bool.eq_false_iff.mpr fun hdc => absurd (htrans d c m0 hdc hc) (Bool.eq_false_iff.mp hd)
      | false =>
        simp only [hc, Bool.false_eq_true, if_false] at h
        obtain ⟨hmem, hall, hkeep⟩ := ih m0 m h
        refine ⟨hmem.imp_right (List.mem_cons_of_mem c), fun d hd => ?_, hkeep⟩
        rcases List.mem_cons.mp hd with rfl | hd
        · exact hkeep d hc
        · exact hall d hd
  cases cs with
  | nil => exact nomatch h
  | cons c cs =>
    obtain ⟨hmem, hall, hkeep⟩ := hfold cs c m h
    refine ⟨List.mem_cons.mpr hmem, fun d hd => ?_⟩
    rcases List.mem_cons.mp hd with rfl | hd
    · exact hkeep d (hirr d)
    · exact hall d hd

theorem firstChoice_eq_none {f : Choice → Choice → Bool} {cs : List Choice} : firstChoice f cs = none ↔ cs = [] := by
  have hsome : ∀ (cs : List Choice) (m : Choice), ((cs.foldl (fun m c => match m with
      | none => some c
      | some d => if f c d then some c else m) (some m)).isSome) = true := by
    intro cs
    induction cs with
    | nil => intro m; rfl
    | cons c cs ih =>
      intro m
      rw [List.foldl_cons]
      dsimp only
      split
      · exact ih c
      · exact ih m
  cases cs with
  | nil => exact ⟨fun _ => rfl, fun _ => rfl⟩
  | cons c cs => exact ⟨fun h => absurd (h ▸ hsome cs c : (none : Option Choice).isSome = true) Bool.false_ne_true, nofun⟩

theorem Choice.before_iff (a b : Choice) : Choice.before a b = true ↔ (a.band.yf = false ∧ b.band.yf = true)
    ∨ a.band.yf = b.band.yf ∧ ((64 ≤ a.band.age ∧ b.band.age < 64)
      ∨ (64 ≤ a.band.age ↔ 64 ≤ b.band.age) ∧ a.band.seq < b.band.seq) := by
  unfold Choice.before
  split
  next hyf =>
    have hne : a.band.yf ≠ b.band.yf := bne_iff_ne.mp hyf
    grind
  next hyf =>
    have heq : a.band.yf = b.band.yf := by simpa using hyf
    split
    next hage => grind
    next hage => grind

/-! ## selectBand -/

theorem selectBand_spec {bucket : Nat} {cs : List Choice} {c : Choice} {br : Bool} (h : selectBand bucket cs = some (c, br)) :
    c ∈ cs
    ∧ ((∃ d ∈ cs, 496 ≤ d.band.flr) → 496 ≤ c.band.flr ∧ (∀ d ∈ cs, 496 ≤ d.band.flr → c.band.seq ≤ d.band.seq)
        ∧ br = !decide (Choice.cost c ≤ bucket))
    ∧ ((∀ d ∈ cs, d.band.flr < 496) → br = false ∧ Choice.cost c ≤ bucket ∧ ∀ d ∈ cs, Choice.cost d ≤ bucket →
        Choice.before d c = false) := by
  unfold selectBand at h
  dsimp only at h
  split at h
  next m hforced =>
    cases h
    obtain ⟨hmem, hall⟩ := firstChoice_spec (fun a => decide_eq_false (Nat.lt_irrefl _))
      (fun a b c hab hbc => decide_eq_true ((of_decide_eq_true hab).trans (of_decide_eq_true hbc))) hforced
    obtain ⟨hc, hflr⟩ := List.mem_filter.mp hmem
    have hflr := of_decide_eq_true hflr
    refine ⟨hc, fun _ => ⟨hflr, fun d hd hf => ?_, rfl⟩, fun hno => absurd hflr (Nat.not_le.mpr (hno c hc))⟩
    exact Nat.not_lt.mp (of_decide_eq_false (hall d (List.mem_filter.mpr ⟨hd, decide_eq_true hf⟩)))
  next hnone =>
    obtain ⟨m, hfirst, hm⟩ := Option.map_eq_some_iff.mp h
    cases hm
    obtain ⟨hmem, hall⟩ := firstChoice_spec
      (fun a => Bool.eq_false_iff.mpr fun h => by rw [Choice.before_iff] at h; grind)
      (fun a b c hab hbc => by rw [Choice.before_iff] at *; grind) hfirst
    obtain ⟨hc, hcost⟩ := List.mem_filter.mp hmem
    have hempty := List.filter_eq_nil_iff.mp (firstChoice_eq_none.mp hnone)
    refine ⟨hc, fun ⟨d, hd, hf⟩ => absurd (decide_eq_true hf) (hempty d hd), fun _ => ⟨rfl, of_decide_eq_true hcost, fun d hd hpay => ?_⟩⟩
    exact hall d (List.mem_filter.mpr ⟨hd, decide_eq_true hpay⟩)

theorem selectBand_eq_none {bucket : Nat} {cs : List Choice} :
    selectBand bucket cs = none ↔ ∀ d ∈ cs, d.band.flr < 496 ∧ bucket < Choice.cost d := by
  unfold selectBand
  dsimp only
  split
  next m hforced =>
    have hmem := (firstChoice_spec (fun a => decide_eq_false (Nat.lt_irrefl _))
      (fun a b c hab hbc => decide_eq_true ((of_decide_eq_true hab).trans (of_decide_eq_true hbc))) hforced).1
    obtain ⟨hm, hflr⟩ := List.mem_filter.mp hmem
    exact ⟨nofun, fun h => absurd (of_decide_eq_true hflr) (Nat.not_le.mpr (h m hm).1)⟩
  next hnone =>
    rw [firstChoice_eq_none, List.filter_eq_nil_iff] at hnone
    rw [Option.map_eq_none_iff, firstChoice_eq_none, List.filter_eq_nil_iff]
    simp only [decide_eq_true_eq, Nat.not_le] at hnone ⊢
    exact ⟨fun h d hd => ⟨hnone d hd, h d hd⟩, fun h d hd => (h d hd).2⟩

/-! ## What the choice leaves of the bands and of the core's bucket (R401, R402) -/

/-- Every band that had a ready group is a cycle older, but for the one chosen. -/
def ageAll (key : Nat) (cs : List Choice) (s : State) : State :=
  cs.foldl (fun s d => State.modBand s d.key (ageBand (key == d.key))) s

theorem ageAll_frame (key : Nat) (cs : List Choice) (s : State) : ageAll key cs s = { s with bands := (ageAll key cs s).bands } := by
  unfold ageAll
  induction cs generalizing s with
  | nil => rfl
  | cons d cs ih =>
    rw [List.foldl_cons, ih]
    rfl

theorem find_ageAll_of_not_mem {key k : Nat} {cs : List Choice} {s : State} (h : k ∉ cs.map Choice.key) :
    Table.find k (ageAll key cs s).bands = Table.find k s.bands := by
  unfold ageAll
  induction cs generalizing s with
  | nil => rfl
  | cons d cs ih =>
    obtain ⟨hd, hcs⟩ := not_or.mp (List.mem_cons.not.mp h)
    rw [List.foldl_cons, ih hcs, find_modBand_ne _ _ hd]

theorem find_ageAll {key : Nat} {cs : List Choice} {s : State} {d : Choice} {b : Band} (hn : (cs.map Choice.key).Nodup) (hd : d ∈ cs)
    (hb : Table.find d.key s.bands = some b) : Table.find d.key (ageAll key cs s).bands = some (ageBand (key == d.key) b) := by
  induction cs generalizing s with
  | nil => exact nomatch hd
  | cons c cs ih =>
    obtain ⟨hc, hcs⟩ := List.nodup_cons.mp hn
    rcases List.mem_cons.mp hd with rfl | hd
    · exact (find_ageAll_of_not_mem hc).trans (find_modBand _ hb)
    · refine ih hcs hd ((find_modBand_ne _ _ fun h => hc ?_).trans hb)
      rw [← h]
      exact List.mem_map_of_mem hd

/-- Two states of a band with the same age, floor count and yield flag. -/
structure Band.SameAge (b c : Band) : Prop where
  yf : c.yf = b.yf
  age : c.age = b.age
  flr : c.flr = b.flr

theorem find_modBand_sameAge {s : State} {j k : Nat} {b : Band} {f : Band → Band} (h : Table.find j s.bands = some b)
    (hf : ∀ b, Band.SameAge b (f b)) : ∃ c, Table.find j (State.modBand s k f).bands = some c ∧ Band.SameAge b c := by
  by_cases e : j = k
  · subst e
    exact ⟨_, find_modBand _ h, hf b⟩
  · exact ⟨b, (find_modBand_ne _ _ e).trans h, rfl, rfl, rfl⟩

theorem sameAge_modLanes (b : Band) (ls : List Nat) (f : Nat → Lane → Lane) : Band.SameAge b (Band.modLanes b ls f) := by
  rw [Band.modLanes_rest]
  exact ⟨rfl, rfl, rfl⟩

theorem Band.SameAge.trans {a b c : Band} (h : SameAge a b) (g : SameAge b c) : SameAge a c :=
  ⟨g.yf.trans h.yf, g.age.trans h.age, g.flr.trans h.flr⟩

theorem bucket_chargeCore (c n : Nat) (s : State) : (State.core (chargeCore c n s) c).bucket = (State.core s c).bucket - n := by
  change (State.core (State.modCore s c fun x => { x with bucket := x.bucket - n }) c).bucket = _
  rw [core_modCore]

/-- The second group, where the core can pay for it too once it has paid for the first (R402). -/
def secondPaid (core : Nat) (c : Choice) (s : State) : Option Cand :=
  match c.q with
  | none => none
  | some d => if d.price ≤ (State.core s core).bucket - c.p.price then some d else none

/-- The pass of a quarter over bands none of which takes a later pass: they enter their clauses, ask, and note their holds. -/
def lookBands (ks : List Nat) (s : State) : State := ks.foldl (fun s k => noteHolds (askBand k (enterBand k s)) k) s

/-- The core pays for one group, and for a second. -/
def payGroups (core : Nat) (p : Cand) (q : Option Cand) (s : State) : State :=
  match q with
  | none => chargeCore core p.price s
  | some d => chargeCore core d.price (chargeCore core p.price s)

/-- The band that issues takes its passes, and its lanes their decoders (R350). -/
def takePasses (core : Nat) (c : Choice) (q : Option Cand) (s0 s : State) : State :=
  noteDecoders c.key (some c.p) q
    (State.modBand s c.key fun b => { b with busy := passesOf b.width (State.passCount s0 core) b.shadow - 1 })

/-- A choice without the timer whose groups read no fetch fragment is paid for and stands under issue. -/
theorem startChoice_of_issue {core : Nat} {u : Dword} {c : Choice} {s : State} (ht : c.timer = false) (hp : c.p.fetch = false)
    (hq : ∀ d, c.q = some d → d.fetch = false) : startChoice core u c false s =
      { takePasses core c (secondPaid core c s) s (payGroups core c.p (secondPaid core c s) s) with
        issue := some ⟨c.key, c.p.group, false, (secondPaid core c s).map Cand.group, u, c.band.shadow, false, readyLanes s c.key, 0, some c.band⟩ } := by
  unfold startChoice secondPaid
  cases hcq : c.q with
  | none => simp [ht, hp, startGroups, payGroups, takePasses]
  | some d =>
    have hd := hq d hcq
    by_cases hpay : d.price ≤ (State.core s core).bucket - c.p.price
    · simp [ht, hp, hd, hpay, bucket_chargeCore, startGroups, payGroups, takePasses]
    · simp [ht, hp, hpay, bucket_chargeCore, startGroups, payGroups, takePasses]

/-- The choices among some bands, by their keys. -/
def choicesOf (ks : List Nat) (s : State) : List Choice := ks.filterMap fun k => match Table.find k s.bands with
  | some b => choiceOf s k b
  | none => none

theorem choicesOf_eq (ks : List Nat) (s : State) :
    choicesOf ks s = ks.filterMap fun k => (Table.find k s.bands).bind (choiceOf s k) := by
  unfold choicesOf
  congr 1
  funext k
  cases Table.find k s.bands <;> rfl

theorem key_of_choiceOf {s : State} {key : Nat} {b : Band} {c : Choice} (h : choiceOf s key b = some c) : c.key = key := by
  unfold choiceOf at h
  dsimp only at h
  split at h
  all_goals
    obtain ⟨p, _, rfl⟩ := Option.map_eq_some_iff.mp h
    rfl

/-- Each band offers one choice at most. -/
theorem choicesOf_nodup {ks : List Nat} (s : State) (h : ks.Nodup) : ((choicesOf ks s).map Choice.key).Nodup := by
  have hsub : ((choicesOf ks s).map Choice.key).Sublist ks := by
    clear h
    induction ks with
    | nil => exact .slnil
    | cons k ks ih =>
      rw [choicesOf_eq] at ih ⊢
      rw [List.filterMap_cons]
      split
      · exact ih.cons k
      next c hc =>
        obtain ⟨b, _, hchoice⟩ := Option.bind_eq_some_iff.mp hc
        rw [List.map_cons, key_of_choiceOf hchoice]
        exact ih.cons_cons k
  exact hsub.nodup h

/-! ## BAND_SELECT -/

/-- The bands that take a later pass of an earlier instruction (R28). -/
def laterPasses (ks : List Nat) (s : State) : List Nat := ks.filter fun k => match Table.find k s.bands with
  | some b => decide (0 < b.busy)
  | none => false

/-- The splits of late lanes that are due in some bands. -/
def splitsOf (ks : List Nat) (s : State) : List Due := ks.flatMap fun k => match Table.find k s.bands with
  | some b => splitsDue s k b
  | none => []

/-- The choice of a quarter, once its bands have been looked at. -/
def chooseBand (core : Nat) (u : Dword) (due : List Due) (cs : List Choice) (s : State) : Host.Outcome State Fault Refusal :=
  let s3 : State := { s with agenda := due ++ s.agenda }
  let sel := selectBand (State.core s3 core).bucket cs
  let s4 := cs.foldl (fun s c => State.modBand s c.key (ageBand (match sel with
    | some (d, _) => d.key == c.key
    | none => false))) s3
  match sel with
  | none => .next s4
  | some (c, borrow) => .next (startChoice core u c borrow s4)

theorem execBandSelect_eq {s : State} {core q : Nat} {u : Dword} {ks held free : List Nat} (hc : core < 64) (hq : q < 4)
    (hi : s.issue = none) (hk : quarterBands s core q = ks) (hh : laterPasses ks s = held)
    (hf : (ks.filter fun k => !held.elem k) = free) {s2 : State}
    (h2 : lookBands free (held.foldl noteHolds (held.foldl (fun s k => passBusy k s) (takeLevel core q s))) = s2) :
    execBandSelect core q u s = chooseBand core u (splitsOf ks s2) (choicesOf free s2) s2 := by
  have hrange : ¬ (64 ≤ core ∨ 4 ≤ q) := by omega
  subst hk hh hf h2
  unfold execBandSelect
  rw [if_neg hrange, hi]
  rfl

theorem chooseBand_of_choice {core : Nat} {u : Dword} {cs : List Choice} {s : State} {c : Choice} {br : Bool}
    (h : selectBand (State.core s core).bucket cs = some (c, br)) :
    chooseBand core u [] cs s = .next (startChoice core u c br (ageAll c.key cs s)) := by
  have h' : selectBand (State.core { s with agenda := [] ++ s.agenda } core).bucket cs = some (c, br) := h
  unfold chooseBand
  simp only [h']
  rfl

theorem execBandSelect_of_empty {s : State} {core q : Nat} {u : Dword} (hc : core < 64) (hq : q < 4) (hi : s.issue = none)
    (hk : quarterBands s core q = []) : execBandSelect core q u s = .next (takeLevel core q s) :=
  execBandSelect_eq hc hq hi hk rfl rfl rfl

/-- Without a later pass and without a split, the choice is among the ready groups of all the bands. -/
theorem execBandSelect_of_choice {s s2 : State} {core q : Nat} {u : Dword} {ks : List Nat} {c : Choice} (hc : core < 64)
    (hq : q < 4) (hi : s.issue = none) (hk : quarterBands s core q = ks)
    (hbusy : ∀ k ∈ ks, ∀ b, Table.find k s.bands = some b → b.busy = 0) (h2 : lookBands ks (takeLevel core q s) = s2)
    (hdue : ∀ k ∈ ks, ∀ b, Table.find k s2.bands = some b → splitsDue s2 k b = [])
    (hsel : selectBand (State.core s2 core).bucket (choicesOf ks s2) = some (c, false)) :
    execBandSelect core q u s = .next (startChoice core u c false (ageAll c.key (choicesOf ks s2) s2)) := by
  have hheld : laterPasses ks s = [] := by
    refine List.filter_eq_nil_iff.mpr fun k hkm => ?_
    split
    next b hb => simp [hbusy k hkm b hb]
    · exact Bool.false_ne_true
  have hsplits : splitsOf ks s2 = [] := by
    refine List.flatMap_eq_nil_iff.mpr fun k hkm => ?_
    split
    next b hb => exact hdue k hkm b hb
    · rfl
  rw [execBandSelect_eq hc hq hi hk hheld (filter_not_nil ks) h2, hsplits, chooseBand_of_choice hsel]

/-- The core's bucket once it has paid for one group, or for two. -/
theorem bucket_payGroups (core : Nat) (c : Choice) (s : State) :
    (c.q = none → secondPaid core c s = none
      ∧ (State.core (payGroups core c.p (secondPaid core c s) s) core).bucket = (State.core s core).bucket - c.p.price)
    ∧ (∀ d, c.q = some d → (State.core s core).bucket - c.p.price < d.price → secondPaid core c s = none
      ∧ (State.core (payGroups core c.p (secondPaid core c s) s) core).bucket = (State.core s core).bucket - c.p.price)
    ∧ (∀ d, c.q = some d → d.price ≤ (State.core s core).bucket - c.p.price → secondPaid core c s = some d
      ∧ (State.core (payGroups core c.p (secondPaid core c s) s) core).bucket = (State.core s core).bucket - c.p.price - d.price) := by
  refine ⟨fun hq => ?_, fun d hq hd => ?_, fun d hq hd => ?_⟩
  · simp [secondPaid, hq, payGroups, bucket_chargeCore]
  · simp [secondPaid, hq, Nat.not_le.mpr hd, payGroups, bucket_chargeCore]
  · simp [secondPaid, hq, hd, payGroups, bucket_chargeCore]

theorem payGroups_rest (core : Nat) (p : Cand) (q : Option Cand) (s : State) : (payGroups core p q s).bands = s.bands
    ∧ (payGroups core p q s).dram = s.dram ∧ (payGroups core p q s).sram = s.sram := by
  cases q <;> exact ⟨rfl, rfl, rfl⟩

/-- Every band keeps its age, floor count and yield flag as its passes and decoders are noted. -/
theorem find_takePasses {core : Nat} {c : Choice} {q : Option Cand} {s0 s : State} {k : Nat} {b : Band}
    (h : Table.find k s.bands = some b) : ∃ b', Table.find k (takePasses core c q s0 s).bands = some b' ∧ Band.SameAge b b' := by
  obtain ⟨b1, h1, hsame1⟩ := find_modBand_sameAge (k := c.key)
    (f := fun b => { b with busy := passesOf b.width (State.passCount s0 core) b.shadow - 1 }) h fun _ => ⟨rfl, rfl, rfl⟩
  obtain ⟨b2, h2, hsame2⟩ := find_modBand_sameAge (k := c.key) (f := fun b => Band.modLanes (Band.modLanes b c.p.lanes fun _ y =>
    { y with second := false }) ((q.map Cand.lanes).getD []) fun _ y => { y with second := true }) h1 fun b =>
      (sameAge_modLanes b _ _).trans (sameAge_modLanes _ _ _)
  exact ⟨b2, h2, hsame1.trans hsame2⟩

/-- Settles O43, by the order of the choice and what the start of the chosen groups leaves. -/
theorem bandSelect : Obligations.BandSelect := by
  unfold Obligations.BandSelect
  refine ⟨fun s core q u => execBandSelect_of_empty, ?_, fun bucket cs c br h => ?_, fun bucket cs => selectBand_eq_none⟩
  · intro s s2 core q u ks cs c hc hq hi hk hn hbusy h2 hdue hcs hsel ht hp hfetch
    rw [← choicesOf_eq] at hcs
    subst hcs
    have hrest := ageAll_frame c.key (choicesOf ks s2) s2
    have hexec := execBandSelect_of_choice (u := u) hc hq hi hk hbusy h2 hdue hsel
    rw [startChoice_of_issue ht hp hfetch] at hexec
    have hbucket : (State.core (ageAll c.key (choicesOf ks s2) s2) core).bucket = (State.core s2 core).bucket := by
      rw [hrest]
      rfl
    obtain ⟨hnone, hpoor, hrich⟩ := bucket_payGroups core c (ageAll c.key (choicesOf ks s2) s2)
    rw [hbucket] at hnone hpoor hrich
    refine ⟨_, _, hexec, rfl, rfl, rfl, rfl, rfl, rfl, rfl, rfl, rfl, fun hcq => ?_, fun d hcq hd => ?_, fun d hcq hd => ?_, ?_, ?_,
      fun d hd b hb => ?_⟩
    · obtain ⟨hsecond, hb⟩ := hnone hcq
      exact ⟨congrArg (Option.map Cand.group) hsecond, hb⟩
    · obtain ⟨hsecond, hb⟩ := hpoor d hcq hd
      exact ⟨congrArg (Option.map Cand.group) hsecond, hb⟩
    · obtain ⟨hsecond, hb⟩ := hrich d hcq hd
      exact ⟨congrArg (Option.map Cand.group) hsecond, hb⟩
    · exact (payGroups_rest ..).2.1.trans (by rw [hrest])
    · exact (payGroups_rest ..).2.2.trans (by rw [hrest])
    · have haged := find_ageAll (key := c.key) (choicesOf_nodup s2 hn) hd hb
      obtain ⟨b', hb', hsame⟩ := find_takePasses (core := core) (c := c) (q := secondPaid core c (ageAll c.key (choicesOf ks s2) s2))
        (s0 := ageAll c.key (choicesOf ks s2) s2) ((congrArg (Table.find d.key) (payGroups_rest ..).1).trans haged)
      refine ⟨b', hb', ?_⟩
      rw [hsame.yf, hsame.age, hsame.flr]
      by_cases hkey : d.key = c.key
      · simp [ageBand, hkey]
      · simp [ageBand, hkey, Ne.symm hkey]
  · obtain ⟨hmem, hforced, hfree⟩ := selectBand_spec h
    refine ⟨hmem, hforced, fun hno => ?_⟩
    obtain ⟨hbr, hcost, hfirst⟩ := hfree hno
    refine ⟨hbr, hcost, fun d hd hpay => ?_⟩
    have hbefore := Bool.eq_false_iff.mp (hfirst d hd hpay)
    rw [ne_eq, Choice.before_iff] at hbefore
    refine ⟨?_, ?_, ?_⟩ <;> grind

end Sys2Proof.Machine

namespace Sys2Proof.Machine

/-! # Matrix units (spec/12_tiles_and_matrix.md R294 to R300) -/

/-! ## The start of an operation (R296, R297) -/

/-- The unit's only operation, not held by a marker, is the one it takes. -/
theorem find_only {s : State} {core : Nat} {o : MxOp} (h : quiesced s o.team (64 + core) = false) :
    [o].find? (fun o => !quiesced s o.team (64 + core)) = some o := by
  simp [h]

/-- The unit with its next operation executing, and out of its queue. -/
def mxTaken (core u : Nat) (o : MxOp) (s : State) : State :=
  State.modMx s core u fun m => { m with exec := some { o with checked := true }, queue := m.queue.erase o }

theorem mxUnit_mxTaken {core u : Nat} {o : MxOp} {s : State} (hq : (Core.mxUnit (State.core s core) u).queue = [o]) :
    (Core.mxUnit (State.core (mxTaken core u o s) core) u).exec = some { o with checked := true }
      ∧ (Core.mxUnit (State.core (mxTaken core u o s) core) u).queue = [] := by
  rw [mxTaken, mxUnit_modMx, hq]
  exact ⟨rfl, by simp⟩

/-- An operation that passes its checks executes; with ZA its result is cleared first (R294). -/
theorem execMmaOperationStart_of_checked {s : State} {core u : Nat} {o : MxOp} (hc : core < 64) (hu : u < 4)
    (he : (Core.mxUnit (State.core s core) u).exec = none) (hq : (Core.mxUnit (State.core s core) u).queue = [o])
    (hm : quiesced s o.team (64 + core) = false) (ho : o.checked = false) (hf : mxFailure o = none) :
    execMmaOperationStart core u s = .next (if blkZa o.block then
        State.modAccum (mxTaken core u o s) core o.acc fun a => { a with elems := clearAcc o.block a.elems }
      else mxTaken core u o s) := by
  have hrange : ¬ (64 ≤ core ∨ 4 ≤ u) := by omega
  unfold execMmaOperationStart
  dsimp only
  rw [if_neg hrange, he, hq, find_only hm]
  simp only [ho, hf, Option.isSome_none, Bool.false_eq_true, if_false]
  rfl

theorem execMmaOperationStart_of_failed {s : State} {core u k : Nat} {o : MxOp} (hc : core < 64) (hu : u < 4)
    (he : (Core.mxUnit (State.core s core) u).exec = none) (hq : (Core.mxUnit (State.core s core) u).queue = [o])
    (hm : quiesced s o.team (64 + core) = false) (ho : o.checked = false) (hf : mxFailure o = some k) :
    execMmaOperationStart core u s = .next (endMx core u o true (noteMxErr core o k (mxTaken core u o s))) := by
  have hrange : ¬ (64 ≤ core ∨ 4 ≤ u) := by omega
  unfold execMmaOperationStart
  dsimp only
  rw [if_neg hrange, he, hq, find_only hm]
  simp only [ho, hf, Option.isSome_none, Bool.false_eq_true, if_false]
  rfl

theorem mmaOperationStart_spec {s : State} {core u : Nat} {o : MxOp} (hc : core < 64) (hu : u < 4)
    (he : (Core.mxUnit (State.core s core) u).exec = none) (hq : (Core.mxUnit (State.core s core) u).queue = [o])
    (hm : quiesced s o.team (64 + core) = false) (ho : o.checked = false) (hf : mxFailure o = none) :
    ∃ t, exec (.mmaOperationStart core u) s = .next t
      ∧ (Core.mxUnit (State.core t core) u).exec = some { o with checked := true }
      ∧ (Core.mxUnit (State.core t core) u).queue = [] ∧ t.dram = s.dram ∧ t.bands = s.bands ∧ t.teams = s.teams
      ∧ (Core.accum (State.core t core) o.acc).elems = (if blkZa o.block then clearAcc o.block (Core.accum (State.core s core) o.acc).elems
          else (Core.accum (State.core s core) o.acc).elems)
      ∧ (Core.accum (State.core t core) o.acc).token = (Core.accum (State.core s core) o.acc).token := by
  obtain ⟨hexec, hqueue⟩ := mxUnit_mxTaken hq
  have hacc : Core.accum (State.core (mxTaken core u o s) core) o.acc = Core.accum (State.core s core) o.acc := accum_modMx ..
  refine ⟨_, execMmaOperationStart_of_checked hc hu he hq hm ho hf, ?_⟩
  cases blkZa o.block with
  | false => exact ⟨hexec, hqueue, rfl, rfl, rfl, congrArg Accum.elems hacc, congrArg Accum.token hacc⟩
  | true =>
    rw [if_pos rfl, if_pos rfl, mxUnit_modAccum, accum_modAccum, hacc]
    exact ⟨hexec, hqueue, rfl, rfl, rfl, rfl, rfl⟩

/-! ## A step (R295, R296) -/

theorem execMmaStep_of_poor {s : State} {core u : Nat} {o : MxOp} (hc : core < 64) (hu : u < 4)
    (he : (Core.mxUnit (State.core s core) u).exec = some o) (hp : (State.core s core).bucket < 2000) :
    execMmaStep core u s = .next s := by
  have hrange : ¬ (64 ≤ core ∨ 4 ≤ u) := by omega
  unfold execMmaStep
  rw [if_neg hrange]
  simp only [he, hp, if_true]

/-- What a step up to the pair `hi` leaves of the accumulator and of the bucket. -/
def mxStepped (core : Nat) (o : MxOp) (hi : Nat) (s : State) : State :=
  State.modAccum (chargeCore core 2000 s) core o.acc fun a => { a with
    elems := (List.range (hi - o.pw)).foldl (fun t n => mxPair s core o t (o.pw + n)) (Core.accum (State.core s core) o.acc).elems }

theorem execMmaStep_of_paid {s : State} {core u hi : Nat} {o : MxOp} (hc : core < 64) (hu : u < 4)
    (he : (Core.mxUnit (State.core s core) u).exec = some o) (hp : 2000 ≤ (State.core s core).bucket)
    (hh : Nat.min (o.pw + (fmtPairs o.fmt.toNat).getD 192) (mxTotal o) = hi) :
    execMmaStep core u s = if hi = mxTotal o then .next (endMx core u { o with pw := hi } false (mxStepped core o hi s))
      else .next (State.modMx (mxStepped core o hi s) core u fun m => { m with exec := some { o with pw := hi }, stall := 0 }) := by
  have hrange : ¬ (64 ≤ core ∨ 4 ≤ u) := by omega
  unfold execMmaStep
  rw [if_neg hrange]
  simp only [he, if_neg (Nat.not_lt.mpr hp), hh]
  rfl

theorem bucket_mxStepped (core u : Nat) (o : MxOp) (hi : Nat) (s : State) (f : Mx → Mx) :
    (State.core (State.modMx (mxStepped core o hi s) core u f) core).bucket = (State.core s core).bucket - 2000 := by
  rw [State.modMx, core_modCore, mxStepped, State.modAccum, core_modCore]
  exact bucket_chargeCore ..

/-! ## A marker (R300) -/

/-- A marker at units none of which executes for its team returns at once. -/
theorem execMatrixQuiesce_of_idle {s : State} {core team : Nat} (hc : core < 64)
    (h : ∀ u < 4, ∀ o, (Core.mxUnit (State.core s core) u).exec = some o → o.team ≠ team) :
    execMatrixQuiesce core team s = .next (returnMark team (64 + core) s) := by
  unfold execMatrixQuiesce
  rw [if_neg (Nat.not_le.mpr hc)]
  congr 1
  have hstay : ∀ us : List Nat, (∀ u ∈ us, u < 4) → us.foldl (fun s u =>
      match (Core.mxUnit (State.core s core) u).exec with
      | some o =>
        if o.team = team then State.modMx s core u fun m => { m with exec := none, queue := o :: m.queue, stall := 0 } else s
      | none => s) (returnMark team (64 + core) s) = returnMark team (64 + core) s := by
    intro us hus
    induction us with
    | nil => rfl
    | cons u us ih =>
      have hu := h u (hus u List.mem_cons_self)
      rw [List.foldl_cons]
      split
      next o ho => rw [if_neg (hu o ho), ih fun v hv => hus v (List.mem_cons_of_mem u hv)]
      · exact ih fun v hv => hus v (List.mem_cons_of_mem u hv)
  exact hstay _ fun u hu => List.mem_range.mp hu

end Sys2Proof.Machine

namespace Sys2Proof.Machine

/-! # Encke fronts and row units (spec/13_encke_product_key.md R308 to R323) -/

/-! ## Acceptance and staging (R308, R311) -/

theorem modDie_congr {s : State} {d : Nat} {f g : Die → Die} (h : f (State.die s d) = g (State.die s d)) :
    State.modDie s d f = State.modDie s d g := congrArg (State.setDie s d) h

/-- A lone offer that stands and is ready is accepted. -/
theorem execEnckeAccept_of_ready {s : State} {die slot : Nat} {o : Offer} {k : EkKind} {e : OpEncke} {x : Ix} (hd : die < 4)
    (ho : (State.die s die).ekOffers = [o]) (hx : offerIx s o = some x)
    (hx1 : offerIx (State.modDie s die fun d => { d with ekOffers := [o] }) o = some x)
    (hr : enckeReady (State.modDie s die fun d => { d with ekOffers := [o] }) o = true) (hk : enckeKind o.instr = some (k, e))
    (hs : freeEkSlot (State.die s die) = some slot) :
    execEnckeAccept die s = .next (perform o.instr (enckeCause k e) (acceptEncke k e slot) (offerIssue o) x
      (chargeCore x.core o.price (State.modDie (State.modDie s die fun d => { d with ekOffers := [o] }) die fun d =>
        { d with ekOffers := [] }))) := by
  have hstay : (State.modDie s die fun d => { d with ekOffers := d.ekOffers.filter fun o => (offerIx s o).isSome })
      = State.modDie s die fun d => { d with ekOffers := [o] } :=
    modDie_congr (by simp [ho, hx])
  have herase : (State.modDie (State.modDie s die fun d => { d with ekOffers := [o] }) die fun d =>
        { d with ekOffers := d.ekOffers.erase o })
      = State.modDie (State.modDie s die fun d => { d with ekOffers := [o] }) die fun d => { d with ekOffers := [] } :=
    modDie_congr (by simp)
  have hslot : freeEkSlot { State.die s die with ekOffers := [o] } = some slot := hs
  unfold execEnckeAccept
  rw [if_neg (Nat.not_le.mpr hd)]
  simp only [hstay, die_modDie, List.find?_cons, hr, hx1, hk, hslot, herase]

/-- The staging of a first line: the buffer is the command's (R311). -/
theorem execKeyStaging_of_first {s : State} {die slot a : Nat} {c : EkCmd} {k : KeySet} (hd : die < 4)
    (hc : Table.find slot (State.die s die).ek = some c) (hk : c.block = some k) (hq : c.kind = .query)
    (hb : ekMayBegin s die c = true) (hn : (State.die s die).staged = none)
    (ha : rangeCheck (State.ctx s c.ctx) (keyVa k 0) (permEk + permRd) = some a) : execKeyStaging die slot s =
      match readMem die s a 128 with
      | (.busy, s1) => .next s1
      | (.poison b, s1) => .next (failEk die slot c errPoison (keyVa k 0 + b) s1)
      | (.fault f e, s1) => .next (parkEk die slot c f e a (keyVa k 0) false s1)
      | (.ok bs, s1) => .next (State.modDie (chargeDie die 24 s1) die fun d =>
          { d with staged := some ⟨c.ctx, c.set, none, k, Memory.store [] 0 bs, 128, slot⟩ }) := by
  have hfor : stagedFor (State.die s die) c = false := by simp [stagedFor, hn]
  have helse : stagingElse s die slot = false := by simp [stagingElse, hn]
  unfold execKeyStaging
  rw [if_neg (Nat.not_le.mpr hd)]
  simp only [hc, hk, hq, hb, hfor, helse, hn, ha]
  rfl

/-! ## A query (R312 to R316) -/

theorem waiting_of_place {c : EkCmd} {q : EkQuery} (h : c.cur = some q) (hp : q.place = none) : EkCmd.waiting c = some q := by
  simp [EkCmd.waiting, h, hp]

theorem waiting_of_none {c : EkCmd} (h : c.cur = none) : EkCmd.waiting c = none := by
  simp [EkCmd.waiting, h]

theorem rows_of_place {c : EkCmd} {q : EkQuery} {ps : List (Nat × Nat)} (h : c.cur = some q) (hp : q.place = some ps) :
    EkCmd.rows c = some (q, ps) := by
  simp [EkCmd.rows, h, hp]

/-- A command that may begin a query has none in progress. -/
theorem cur_of_mayBegin {s : State} {die : Nat} {c : EkCmd} (h : ekMayBegin s die c = true) : c.cur = none := by
  unfold ekMayBegin at h
  simp only [Bool.and_eq_true, Option.isNone_iff_eq_none] at h
  exact h.1.1.1.2

section Query

variable {s : State} {die slot : Nat} {c : EkCmd} {k : KeySet} {b : Batch}

theorem execPkqQuery_of_begin {g : Staged} (hd : die < 4)
    (hc : Table.find slot (State.die s die).ek = some c) (hk : c.block = some k) (hb : c.batch = some b)
    (hg : (State.die s die).staged = some g) (hq : c.kind = .query) (hm : ekMayBegin s die c = true)
    (hf : stagedFor (State.die s die) c = true) (hl : spanClear s die (b.qg + c.qp * b.qstr) (4 * k.hd) = true) :
    execPkqQuery die slot s = match ekSramRead s die c.ctx (b.qg + c.qp * b.qstr) (4 * k.hd) with
      | (.inr h, s1) => .next (haltEk die slot c h s1)
      | (.inl q, s1) => .next (State.modEk (chargeDie die (KeySet.n k * k.hd / 16) s1) die slot fun x => { x with
          cur := some ⟨c.qp, ((candidates k b.k g.keys q).map fun x => x.1).zip
            (weights b.wmode b.smf ((candidates k b.k g.keys q).map fun x => x.2)), 0, List.replicate k.rlen 0, none⟩ }) := by
  unfold execPkqQuery
  rw [if_neg (Nat.not_le.mpr hd)]
  simp only [hc, hk, hb, hg, hq, hm, hf, hl, waiting_of_none (cur_of_mayBegin hm)]
  rfl

theorem execPkqQuery_of_waiting {q : EkQuery} (hd : die < 4)
    (hc : Table.find slot (State.die s die).ek = some c) (hk : c.block = some k) (hb : c.batch = some b)
    (hq : c.kind = .query) (hcur : c.cur = some q) (hp : q.place = none)
    (hl : spanClear s die (b.sg + q.q * b.sstr) (8 * b.k) = true) :
    execPkqQuery die slot s = .next (placeRows die slot c q (permEk + permRd) false (q.sel.map fun x => rowVa k x.1)
      (fun s1 => ekSramWrite s1 die c.ctx (b.sg + q.q * b.sstr) (recordOf q.sel)) s) := by
  unfold execPkqQuery
  rw [if_neg (Nat.not_le.mpr hd)]
  simp only [hc, hk, hb, hq, hl, waiting_of_place hcur hp]
  rfl

theorem execPkuQuery_of_begin {rb gb : List Byte} {s1 s2 : State} (hd : die < 4)
    (hc : Table.find slot (State.die s die).ek = some c) (hk : c.block = some k) (hb : c.batch = some b) (hq : c.kind = .update)
    (hm : ekMayBegin s die c = true) (hl : spanClear s die (b.sg + c.qp * b.sstr) (8 * b.k) = true)
    (hl2 : spanClear s die (b.qg + c.qp * b.qstr) (4 * k.rlen) = true)
    (hr : ekSramRead s die c.ctx (b.sg + c.qp * b.sstr) (8 * b.k) = (.inl rb, s1))
    (hr2 : ekSramRead s1 die c.ctx (b.qg + c.qp * b.qstr) (4 * k.rlen) = (.inl gb, s2)) :
    execPkuQuery die slot s =
      match (List.range b.k).find? fun r => decide (KeySet.n k * KeySet.n k ≤ ((readSelection rb b.k).getD r (0, 0)).1) with
      | some r => .next (failEk die slot c errIndex (windowTag .glb + b.sg + c.qp * b.sstr + 8 * r) s2)
      | none => .next (State.modEk s2 die slot fun x =>
          { x with cur := some ⟨c.qp, readSelection rb b.k, 0, f32Words gb k.rlen, none⟩ }) := by
  unfold execPkuQuery
  rw [if_neg (Nat.not_le.mpr hd)]
  simp only [hc, hk, hb, hq, hm, hl, hl2, hr, hr2, waiting_of_none (cur_of_mayBegin hm)]
  rfl

theorem execPkuQuery_of_waiting {q : EkQuery} (hd : die < 4)
    (hc : Table.find slot (State.die s die).ek = some c) (hk : c.block = some k) (hb : c.batch = some b)
    (hq : c.kind = .update) (hcur : c.cur = some q) (hp : q.place = none) :
    execPkuQuery die slot s = .next (placeRows die slot c q (permEk + permRd + permWr) true (updateRows k q.sel)
      (fun s1 => .inl s1) s) := by
  unfold execPkuQuery
  rw [if_neg (Nat.not_le.mpr hd)]
  simp only [hc, hk, hb, hq, waiting_of_place hcur hp]
  rfl

/-! ## Row work (R314, R315) -/

theorem execEnckeRowGather_of_busy {q : EkQuery} {ps : List (Nat × Nat)} {r : Nat} {w : Word} {p : Nat × Nat} (hd : die < 4)
    (hc : Table.find slot (State.die s die).ek = some c) (hk : c.block = some k) (hb : c.batch = some b) (hcur : c.cur = some q)
    (hps : q.place = some ps) (hq : c.kind = .query) (hsel : q.sel[q.rank]? = some (r, w)) (hp : ps[q.rank]? = some p)
    (hl : linesReady s (memDie p.2) p (k.rlen * valueSize k.vfmt) false = false) :
    execEnckeRowGather die slot s = .next (askLines (memDie p.2) p (k.rlen * valueSize k.vfmt) false s) := by
  unfold execEnckeRowGather
  rw [if_neg (Nat.not_le.mpr hd)]
  simp only [hc, hk, hb, rows_of_place hcur hps, hq, hsel, hp, hl]
  rfl

theorem execEnckeRowGather_of_ready {q : EkQuery} {ps : List (Nat × Nat)} {r : Nat} {w : Word} {p : Nat × Nat} {row : List Byte}
    (hd : die < 4) (hc : Table.find slot (State.die s die).ek = some c) (hk : c.block = some k) (hb : c.batch = some b)
    (hcur : c.cur = some q) (hps : q.place = some ps) (hq : c.kind = .query) (hsel : q.sel[q.rank]? = some (r, w))
    (hp : ps[q.rank]? = some p) (hl : linesReady s (memDie p.2) p (k.rlen * valueSize k.vfmt) false = true)
    (hrow : ekRead (memDie p.2) p.1 (k.rlen * valueSize k.vfmt) s = .inl row) {s1 : State}
    (h1 : s1 = chargeDie (memDie p.2) (8 * k.rlen) (chargeBytes (accFrom die ps q.rank) (memDie p.2) (4 * k.rlen) s)) :
    execEnckeRowGather die slot s =
      if q.rank + 1 = q.sel.length ∧ !spanClear s (memDie p.2) (b.og + q.q * b.ostr) (4 * k.rlen) then .next s
      else if q.rank + 1 = q.sel.length then .next (writeOutput die slot (memDie p.2) c b q (gatherRow k w row q.acc) s1)
      else .next (State.modEk s1 die slot fun x =>
        { x with cur := some { q with rank := q.rank + 1, acc := gatherRow k w row q.acc } }) := by
  subst h1
  unfold execEnckeRowGather
  rw [if_neg (Nat.not_le.mpr hd)]
  simp only [hc, hk, hb, rows_of_place hcur hps, hq, hsel, hp, hl, hrow]
  rfl

theorem execEnckeRowUpdate_of_ready {q : EkQuery} {ps : List (Nat × Nat)} {r skips : Nat} {w : Word} {p : Nat × Nat}
    {m : Option (Nat × Nat)} {s1 : State} (hd : die < 4) (hc : Table.find slot (State.die s die).ek = some c) (hk : c.block = some k)
    (hcur : c.cur = some q) (hps : q.place = some ps) (hq : c.kind = .update) (hsel : q.sel[q.rank]? = some (r, w))
    (hp : rowPlaces k ps q.rank = (some p, m)) (hl : linesReady s (memDie p.2) p (k.rlen * valueSize k.vfmt) true = true)
    (hlm : ∀ n, m = some n → linesReady s (memDie n.2) n (k.rlen * 4) true = true)
    (hrow : applyRow k r w q.acc p m s = (.inl skips, s1)) {s2 : State}
    (h2 : s2 = State.modCtx (chargeDie (memDie p.2) (8 * k.rlen) (chargeBytes die (memDie p.2) (4 * k.rlen) s1)) c.ctx (fun y =>
      { y with sets := Table.alter c.set (fun z => { z with nskip := z.nskip + BitVec.ofNat 32 skips }) y.sets })) :
    execEnckeRowUpdate die slot s =
      if q.rank + 1 = q.sel.length then .next (finishQuery die slot c s2)
      else .next (State.modEk s2 die slot fun x => { x with cur := some { q with rank := q.rank + 1 } }) := by
  subst h2
  unfold execEnckeRowUpdate
  rw [if_neg (Nat.not_le.mpr hd)]
  cases m with
  | none =>
    simp only [hc, hk, rows_of_place hcur hps, hq, hsel, hp, hl, hrow]
    rfl
  | some n =>
    simp only [hc, hk, rows_of_place hcur hps, hq, hsel, hp, hl, hlm n rfl, hrow]
    rfl

/-! ## Status (R319) -/

theorem execPkstatStatusWrite_of_ready {a : Nat} {h : Band × Team × Grid} (hd : die < 4)
    (hc : Table.find slot (State.die s die).ek = some c) (hq : c.kind = .stat) (hw : c.written = false) (hp : c.parked = false)
    (hm : marked s c.team = false) (hwork : ekMayWork (State.die s die) c = true) (hh : State.home s c.band = some h)
    (ha : sramForm c.core h.2.1 h.2.2 .loc c.sa = some a) (hl : spanClear s die a 16 = true) :
    execPkstatStatusWrite die slot s = .next (State.modEk (writeSram (chargeBytes die (a / 2 ^ 30) 16 s) a (natLe 4 (setStatus s c.ctx c.set)
      ++ natLe 4 (Ctx.set (State.ctx s c.ctx) c.set).nqdone.toNat ++ natLe 4 (Ctx.set (State.ctx s c.ctx) c.set).nskip.toNat
      ++ natLe 4 (inFlight s c.ctx c.set c.seq))) die slot fun z => { z with written := true }) := by
  unfold execPkstatStatusWrite
  rw [if_neg (Nat.not_le.mpr hd)]
  simp only [hc, hq, hw, hp, hm, hwork, hh, ha, hl]
  rfl

end Query

/-! ## Completion (R317) -/

theorem clearL1_of_ne {c : EkCmd} {s : State} (h : c.kind ≠ .update) : clearL1 c s = s := if_neg h

theorem clearL1_rest (c : EkCmd) (s : State) : clearL1 c s = { s with cores := (clearL1 c s).cores } := by
  unfold clearL1
  split <;> rfl

theorem cwBad_clearL1 (c : EkCmd) (s : State) (ctx g : Nat) : cwBad (clearL1 c s) ctx g = cwBad s ctx g := by
  have howners : (State.core (clearL1 c s) (g / 2 ^ 26)).owners = (State.core s (g / 2 ^ 26)).owners := by
    unfold clearL1
    split
    · by_cases h : g / 2 ^ 26 = c.core
      · rw [h, core_modCore]
      · rw [core_modCore_ne _ _ h]
    · rfl
  rw [cwBad, cwBad, ownedBy, ownedBy, howners]

theorem execEnckeComplete_of_done {s s1 : State} {die slot : Nat} {c : EkCmd} (hd : die < 4)
    (hc : Table.find slot (State.die s die).ek = some c) (hp : c.parked = false) (hdone : ekDone c = true)
    (hq : quiesced s c.team (128 + die) = false) (hw : ekMayWork (State.die s die) c = true)
    (h1 : (if c.kind = .load then loadSet c.ctx c.set c.block s else s) = s1) :
    execEnckeComplete die slot s =
      if (match ekWord c with
        | some (g, _) => !spanClear s die g 4
        | none => false) then .next s
      else .next (match ekWord c with
        | some (g, v) =>
          if cwBad (clearL1 c s1) c.ctx g then failEk die slot c errSram (windowTag .glb + g) (clearL1 c s1)
          else dropEk die slot c (writeSram (chargeRoute die (g / 2 ^ 30) (clearL1 c s1)) g (natLe 4 v.toNat))
        | none => dropEk die slot c (clearL1 c s1)) := by
  subst h1
  unfold execEnckeComplete
  rw [if_neg (Nat.not_le.mpr hd)]
  simp only [hc, hp, hdone, hq, hw]
  rfl

theorem ekWord_of_none {c : EkCmd} (h : c.cw = none) : ekWord c = none := by
  simp [ekWord, h]

/-! ## EKRESd and markers (R322, R323) -/

theorem goEncke_of_empty {s : State} {die slot : Nat} {abort : Bool} {act : EkCmd → State → State} (hd : die < 4)
    (hc : Table.find slot (State.die s die).ek = none) : goEncke die slot abort act s =
      .next (State.modDie s die fun d => { d with ekres := resumeReg slot abort true d.ekres }) := by
  unfold goEncke
  rw [if_neg (Nat.not_le.mpr hd)]
  simp only [hc]

theorem goEncke_of_parked {s : State} {die slot : Nat} {abort : Bool} {act : EkCmd → State → State} {c : EkCmd} (hd : die < 4)
    (hs : slot < 32) (hc : Table.find slot (State.die s die).ek = some c) (hp : c.parked = true) : goEncke die slot abort act s =
      .next (act c (State.modDie s die fun d => { d with ekres := resumeReg slot abort false d.ekres })) := by
  unfold goEncke
  rw [if_neg (Nat.not_le.mpr hd)]
  simp only [hc, hp, hs, decide_true, Bool.and_self, if_true]

theorem execEkres_of_empty {s : State} {die slot : Nat} (hd : die < 4) (hc : Table.find slot (State.die s die).ek = none) :
    execEkresResume die slot s = .next (State.modDie s die fun d => { d with ekres := resumeReg slot false true d.ekres })
      ∧ execEkresAbort die slot s = .next (State.modDie s die fun d => { d with ekres := resumeReg slot true true d.ekres }) :=
  ⟨goEncke_of_empty hd hc, goEncke_of_empty hd hc⟩

theorem execEkres_of_parked {s : State} {die slot : Nat} {c : EkCmd} (hd : die < 4) (hs : slot < 32)
    (hc : Table.find slot (State.die s die).ek = some c) (hp : c.parked = true) :
    execEkresResume die slot s = .next (State.modEk (State.modDie s die fun d =>
        { d with ekres := resumeReg slot false false d.ekres }) die slot fun c => { c with parked := false })
      ∧ execEkresAbort die slot s = .next (failEk die slot c errAbort 0 (State.modDie s die fun d =>
        { d with ekres := resumeReg slot true false d.ekres })) :=
  ⟨goEncke_of_parked (act := fun _ s => State.modEk s die slot fun c => { c with parked := false }) hd hs hc hp,
    goEncke_of_parked (act := fun c s => failEk die slot c errAbort 0 s) hd hs hc hp⟩

/-- A command that ends in error leaves its slot, and the front's record of it. -/
theorem failEk_die (die slot : Nat) (c : EkCmd) (kind addr : Nat) (s : State) :
    State.die (failEk die slot c kind addr s) die = { State.die s die with
      ek := Table.del slot (State.die s die).ek, ekerr := ekRecord kind slot c.ctx c.core } := by
  have hclear : State.die (clearL1 c s) die = State.die s die := by
    rw [clearL1_rest]
    rfl
  change State.die (State.modDie (dropEk die slot c (clearL1 c s)) die fun d =>
    { d with ekerr := ekRecord kind slot c.ctx c.core }) die = _
  have hdrop : State.die (dropEk die slot c (clearL1 c s)) die
      = { State.die s die with ek := Table.del slot (State.die s die).ek } := by
    change State.die (State.modDie (clearL1 c s) die fun d => { d with ek := Table.del slot d.ek }) die = _
    rw [die_modDie, hclear]
  rw [die_modDie, hdrop]

theorem failEk_dram (die slot : Nat) (c : EkCmd) (kind addr : Nat) (s : State) : (failEk die slot c kind addr s).dram = s.dram := by
  have hclear : (clearL1 c s).dram = s.dram := by rw [clearL1_rest]
  exact hclear

theorem execEnckeQuiesce_of_idle {s : State} {die team : Nat} (hd : die < 4)
    (h : ∀ e ∈ (State.die s die).ek, e.2.team = team → e.2.cur = none) :
    execEnckeQuiesce die team s = .next (returnMark team (128 + die) s) := by
  have hnone : ((State.die s die).ek.any fun e => e.2.team == team && e.2.cur.isSome) = false := by
    refine List.any_eq_false.mpr fun e he => ?_
    by_cases ht : e.2.team = team
    · simp [h e he ht]
    · simp [ht]
  unfold execEnckeQuiesce
  rw [if_neg (Nat.not_le.mpr hd), hnone]
  rfl

/-- Settles O55: the matrix units by the start, the step and the marker of an operation, Encke by what each of its steps does. -/
theorem matrixAndEncke : Obligations.MatrixAndEncke := by
  unfold Obligations.MatrixAndEncke
  refine ⟨fun s core u o => mmaOperationStart_spec, fun s core u k o => execMmaOperationStart_of_failed,
    fun s core u o hc hu he => ⟨execMmaStep_of_poor hc hu he, fun hp hlast hle => ?_, fun hp hmore => ?_⟩,
    fun s core team => execMatrixQuiesce_of_idle, fun s die slot o k e x => execEnckeAccept_of_ready,
    fun s s1 die slot a c k bs hd hc hk hq hb hn ha => ⟨fun hr => ?_, fun hr => ?_⟩,
    fun s s1 die slot c k b h hd hc hk hb hg hq hm hf hl hr => ?_,
    fun s s1 die slot c k b g q hd hc hk hb hg hq hm hf hl hr sel hsel => ?_,
    fun s s1 die slot c k b q hd hc hk hb hq hcur hp hl => ⟨fun ht => ?_, fun h ht => ?_, fun ps s2 ht hw => ?_⟩,
    fun s die slot r w c k b q ps p row hd hc hk hb hcur hps hq hsel hp =>
      ⟨execEnckeRowGather_of_busy hd hc hk hb hcur hps hq hsel hp, fun hl hrow s1 h1 => ?_⟩,
    fun s s1 s2 die slot c k b rb gb hd hc hk hb hq hm hl hl2 hr hr2 => ?_,
    fun s s1 die slot c k b q ps hd hc hk hb hq hcur hp ht => ?_,
    fun s s1 die slot r skips w c k q ps p m hd hc hk hcur hps hq hsel hp hl hlm hrow s2 h2 => ?_,
    fun s die slot a c b y g hd hc hq hw hp hm hwork hh => execPkstatStatusWrite_of_ready hd hc hq hw hp hm hwork hh,
    fun s die slot c hd hc hp hdone hq hw hl => ?_, fun s c => ?_, fun s die slot c hd hc hp hq hw hl hcw => ?_,
    fun s die slot hd hc => ?_, fun s die slot c hd hs hc hp => ?_, fun s die team => execEnckeQuiesce_of_idle⟩
  · have hmin : Nat.min (o.pw + (fmtPairs o.fmt.toNat).getD 192) (mxTotal o) = mxTotal o := Nat.min_eq_right hlast
    exact (execMmaStep_of_paid hc hu he hp hmin).trans (if_pos rfl)
  · have hmin : Nat.min (o.pw + (fmtPairs o.fmt.toNat).getD 192) (mxTotal o) = o.pw + (fmtPairs o.fmt.toNat).getD 192 :=
      Nat.min_eq_left hmore.le
    refine ⟨_, (execMmaStep_of_paid hc hu he hp hmin).trans (if_neg hmore.ne), rfl, rfl, rfl, ?_, bucket_mxStepped ..⟩
    rw [mxUnit_modMx]
  · have hstage := execKeyStaging_of_first hd hc hk hq hb hn ha
    rw [hr] at hstage
    exact ⟨_, hstage, rfl, by rw [die_modDie]⟩
  · exact (execKeyStaging_of_first hd hc hk hq hb hn ha).trans (by rw [hr])
  · obtain ⟨g, hg⟩ := Option.isSome_iff_exists.mp hg
    exact (execPkqQuery_of_begin hd hc hk hb hg hq hm hf hl).trans (by rw [hr])
  · subst hsel
    exact (execPkqQuery_of_begin hd hc hk hb hg hq hm hf hl).trans (by rw [hr])
  · exact (execPkqQuery_of_waiting hd hc hk hb hq hcur hp hl).trans (by simp only [placeRows, ht])
  · exact (execPkqQuery_of_waiting hd hc hk hb hq hcur hp hl).trans (by simp only [placeRows, ht])
  · exact (execPkqQuery_of_waiting hd hc hk hb hq hcur hp hl).trans (by simp only [placeRows, ht, hw])
  · have hready := execEnckeRowGather_of_ready hd hc hk hb hcur hps hq hsel hp hl hrow h1
    refine ⟨fun hlast hclear => ?_, fun hlast hclear => ?_, fun hmore => ?_⟩
    · exact hready.trans (if_pos ⟨hlast, by rw [hclear]; rfl⟩)
    · exact hready.trans ((if_neg fun h => by simp [hclear] at h).trans (if_pos hlast))
    · exact hready.trans ((if_neg fun h => hmore h.1).trans (if_neg hmore))
  · have hbegin := execPkuQuery_of_begin hd hc hk hb hq hm hl hl2 hr hr2
    exact ⟨fun r hf => hbegin.trans (by rw [hf]), fun hf => hbegin.trans (by rw [hf])⟩
  · exact (execPkuQuery_of_waiting hd hc hk hb hq hcur hp).trans (by simp only [placeRows, ht])
  · have hready := execEnckeRowUpdate_of_ready hd hc hk hcur hps hq hsel hp hl hlm hrow h2
    exact ⟨fun hlast => hready.trans (if_pos hlast), fun hmore => hready.trans (if_neg hmore)⟩
  · have hcomplete := execEnckeComplete_of_done hd hc hp hdone hq hw (if_neg hl)
    refine ⟨fun hcw => hcomplete.trans (by rw [ekWord_of_none hcw]; rfl), fun g v hgv =>
      ⟨fun hclear => hcomplete.trans ?_, fun hclear hbad => hcomplete.trans ?_, fun hclear hbad => hcomplete.trans ?_⟩⟩
    · simp only [hgv, hclear, Bool.not_false, if_true]
    · simp only [hgv, hclear, cwBad_clearL1, hbad, Bool.not_true, Bool.false_eq_true, if_false, if_true]
    · simp only [hgv, hclear, cwBad_clearL1, hbad, Bool.not_true, Bool.false_eq_true, if_false]
  · refine ⟨fun hu _ => ?_, clearL1_of_ne, by rw [clearL1_rest], by rw [clearL1_rest]⟩
    rw [clearL1, if_pos hu, core_modCore]
  · have hne : c.kind ≠ .update := by rw [hl]; exact nofun
    have hdone : ekDone c = true := by simp [ekDone, hl]
    have hcomplete := execEnckeComplete_of_done hd hc hp hdone hq hw (if_pos hl)
    rw [ekWord_of_none hcw, clearL1_of_ne hne] at hcomplete
    exact hcomplete
  · obtain ⟨hresume, habort⟩ := execEkres_of_empty hd hc
    exact ⟨_, _, hresume, habort, die_modDie .., die_modDie .., rfl, rfl⟩
  · obtain ⟨hresume, habort⟩ := execEkres_of_parked hd hs hc hp
    refine ⟨_, _, hresume, habort, ?_, ?_, ?_, rfl, failEk_dram ..⟩
    · unfold State.modEk
      rw [die_modDie, die_modDie]
      exact Table.find_alter hc
    · rw [failEk_die]
      exact Table.find_del ..
    · rw [failEk_die]

end Sys2Proof.Machine

namespace Sys2Proof.Machine

/-! # The dispatcher, saves and restores (spec/17_scheduling_tokens_power.md R397 to R400; spec/18_traps_fragments_preemption.md
R448 to R455) -/

/-! ## The ends of bands and grids (R359, R392) -/

theorem execBandEnd_of_home {s : State} {key : Nat} {b : Band} {t : Team} {g : Grid} (h : State.home s key = some (b, t, g)) :
    execBandEnd key s = if t.halted then .next (endHalted b.team t g s)
      else if bandDone s key b then .next (endBand key b s) else .next s := by
  unfold execBandEnd
  rw [h]

/-- A change of a grid brings none back. -/
theorem find_modGrid_none {s : State} {j k : Nat} (f : Grid → Grid) (h : Table.find k s.grids = none) :
    Table.find k (State.modGrid s j f).grids = none := by
  by_cases hk : k = j
  · subst hk
    exact (congrArg (Table.find k) (Table.find_alter_none h)).trans h
  · exact (Table.find_alter_ne f s.grids hk).trans h

/-- Kicking the dependents of a grid brings none back. -/
theorem find_kickDependents {g : Grid} {s : State} {k : Nat} (h : Table.find k s.grids = none) :
    Table.find k (kickDependents g s).grids = none := by
  unfold kickDependents
  generalize s.grids = es
  induction es generalizing s with
  | nil => exact h
  | cons e es ih =>
    rw [List.foldl_cons]
    split
    · exact ih (find_modGrid_none _ h)
    · exact ih h

/-- A grid that completes without a record to write is gone (R392). -/
theorem find_completeGrid {k : Nat} {g : Grid} {s : State} (h : g.desc.stat = 0) :
    Table.find k (completeGrid k g s).grids = none := by
  have hstat (c : Completion) : writeStat g.ctx 0 c s = .done s := rfl
  unfold completeGrid
  simp only [h, hstat]
  exact find_kickDependents (Table.find_del ..)

section Complete

variable {s : State} {k : Nat} {g : Grid}

theorem execGridComplete_of_running (hg : Table.find k s.grids = some g) (he : g.ended ≠ g.desc.nteam) :
    execGridComplete k s = .next s := by
  unfold execGridComplete
  simp only [hg, ne_eq, he, not_false_iff, if_true]

theorem execGridComplete_of_hold (hg : Table.find k s.grids = some g) (he : g.ended = g.desc.nteam)
    (hh : Hub.onHold s.hub = true) (hheld : g.held = false) (hroom : s.hub.heldRecs.length < 256) :
    execGridComplete k s = .next (State.modGrid (State.modHub s fun h => { h with heldRecs := h.heldRecs ++ [k] }) k
      fun g => { g with held := true }) := by
  unfold execGridComplete
  simp [hg, he, hh, hheld, Nat.not_le.mpr hroom]

theorem execGridComplete_of_done (hg : Table.find k s.grids = some g) (he : g.ended = g.desc.nteam)
    (hh : Hub.onHold s.hub = false) (hr : s.hub.heldRecs = []) : execGridComplete k s = .next (completeGrid k g s) := by
  unfold execGridComplete
  simp [hg, he, hh, hr]

end Complete

/-! ## Kicks and placements (R397 to R399) -/

theorem kicked_of_zero {h : Hub} (hk : h.kick = 0) : Hub.kicked h = none := by
  unfold Hub.kicked
  rw [hk]
  rfl

theorem execTeamPlace_of_none {s : State} (h : Hub.kicked s.hub = none) : execTeamPlace s = .next s := by
  unfold execTeamPlace
  rw [h]

theorem execTeamPlace_of_nothing {s s1 : State} {q : Nat} (h : Hub.kicked s.hub = some q) (hl : lookQueue q s = (.nothing, s1)) :
    execTeamPlace s = .next (clearKick q s1) := by
  unfold execTeamPlace
  simp only [h, hl]

theorem execTeamPlace_of_found {s s1 : State} {q k core : Nat} {g : Grid} {u : Unplaced} (h : Hub.kicked s.hub = some q)
    (hl : lookQueue q s = (.found (k, g, u, some core), s1)) : execTeamPlace s = .next (placeAt k g u core s1) := by
  unfold execTeamPlace
  simp only [h, hl]

theorem lookQueue_of_saved {s : State} {q k sv : Nat} {g : Grid} (h : firstSaved s q = some (k, g, sv)) :
    lookQueue q s = (.found (k, g, .saved sv, siteFor s g (.saved sv)), s) := by
  unfold lookQueue
  rw [h]

theorem lookQueue_of_none {s : State} {q : Nat} (h : firstSaved s q = none) (hg : gridOf s q = none) :
    lookQueue q s = (.nothing, s) := by
  unfold lookQueue
  rw [h, hg]

/-- The queue holds a grid whose teams wait for bits of a bitmap (R391). -/
def watchesBits (s : State) (q : Nat) : Bool := (Table.get [] q s.hub.queues).any fun k => match Table.find k s.grids with
  | some g => g.desc.depk == 2
  | none => false

/-- The kicks of those of the queues `qs` for which `c` holds. -/
def kickWhere (c : State → Nat → Bool) (qs : List Nat) (s : State) : State := qs.foldl (fun s q => if c s q then kickQueue q s else s) s

theorem kickWhere_rest (c : State → Nat → Bool) (qs : List Nat) (s : State) :
    ∃ kick, kickWhere c qs s = { s with hub := { s.hub with kick := kick } } := by
  unfold kickWhere
  induction qs generalizing s with
  | nil => exact ⟨s.hub.kick, rfl⟩
  | cons q qs ih =>
    rw [List.foldl_cons]
    split
    · exact ih (kickQueue q s)
    · exact ih s

theorem kick_kickQueue_of_set {q : Nat} (p : Nat) {s : State} (h : s.hub.kick.getLsbD q = true) :
    (kickQueue p s).hub.kick.getLsbD q = true := by
  change (s.hub.kick ||| BitVec.ofNat 8 (2 ^ p)).getLsbD q = true
  rw [BitVec.getLsbD_or, h, Bool.true_or]

theorem kick_kickWhere_of_set {c : State → Nat → Bool} {qs : List Nat} {q : Nat} {s : State} (h : s.hub.kick.getLsbD q = true) :
    (kickWhere c qs s).hub.kick.getLsbD q = true := by
  unfold kickWhere
  induction qs generalizing s with
  | nil => exact h
  | cons p qs ih =>
    rw [List.foldl_cons]
    split
    · exact ih (kick_kickQueue_of_set p h)
    · exact ih h

/-- A queue that meets a condition no kick changes is kicked (R397). -/
theorem kick_kickWhere {c : State → Nat → Bool} {qs : List Nat} {q : Nat} {s : State}
    (hc : ∀ kick, c { s with hub := { s.hub with kick := kick } } q = c s q) (hm : q ∈ qs) (hq : q < 8) (h : c s q = true) :
    (kickWhere c qs s).hub.kick.getLsbD q = true := by
  obtain ⟨before, after, rfl⟩ := List.append_of_mem hm
  obtain ⟨kick, hrest⟩ := kickWhere_rest c before s
  have hafter : c (kickWhere c before s) q = true := by rw [hrest, hc, h]
  have hsplit : kickWhere c (before ++ q :: after) s = kickWhere c after (kickQueue q (kickWhere c before s)) := by
    unfold kickWhere at hafter ⊢
    rw [List.foldl_append, List.foldl_cons, if_pos hafter]
  rw [hsplit]
  exact kick_kickWhere_of_set (kick_kickQueue _ hq)

theorem execKickDepk2Timer_of_idle {s : State} (h : s.hub.k % 4096 ≠ 0) : execKickDepk2Timer s = .next s := if_pos h

theorem execKickDepk2Timer_of_due {s : State} (h : s.hub.k % 4096 = 0) :
    execKickDepk2Timer s = .next (kickWhere watchesBits (List.range 8) s) := if_neg (fun hn => hn h)

theorem watchesBits_of_grid {s : State} {q k : Nat} {g : Grid} (hk : k ∈ Table.get [] q s.hub.queues)
    (hg : Table.find k s.grids = some g) (hd : g.desc.depk = 2) : watchesBits s q = true := by
  refine List.any_eq_true.mpr ⟨k, hk, ?_⟩
  simp [hg, hd]

theorem execContextSwitch_of_none {s : State} {ctx : Nat} (h : teamsOfCtx s ctx = []) :
    execContextSwitch ctx s = .next (leaveFabric ctx s) := by
  unfold execContextSwitch
  rw [h]
  rfl

/-! ## Bands that a save stops (R448) -/

theorem applyOne_spec {key : Nat} {s : State} {b : Band} (r : Held) (h : Table.find key s.bands = some b) :
    (applyOne key s r).dram = s.dram ∧ ∃ c, Table.find key (applyOne key s r).bands = some c := by
  cases r with
  | vec | cond | sca => exact ⟨rfl, _, find_modBand _ h⟩
  | load => exact ⟨rfl, _, h⟩
  | shape => simp [applyOne, h]
  | special _ r =>
    cases r with
    | cycles => exact ⟨rfl, _, h⟩
    | lthresh => exact ⟨rfl, _, find_modBand _ h⟩
    | spflag =>
      simp only [applyOne, h]
      split
      · split
        · exact ⟨rfl, _, h⟩
        · exact ⟨rfl, _, h⟩
      · exact ⟨rfl, _, h⟩

theorem applyHeld_spec {key : Nat} {s : State} {b : Band} (m : Dword) (h : Table.find key s.bands = some b) :
    (applyHeld key m s).dram = s.dram ∧ ∃ c, Table.find key (applyHeld key m s).bands = some c := by
  have hfold : ∀ (rs : List Held) (s : State) (b : Band), Table.find key s.bands = some b →
      (rs.foldl (applyOne key) s).dram = s.dram ∧ ∃ c, Table.find key (rs.foldl (applyOne key) s).bands = some c := by
    intro rs
    induction rs with
    | nil => exact fun s b h => ⟨rfl, b, h⟩
    | cons r rs ih =>
      intro s b h
      obtain ⟨hdram, c, hc⟩ := applyOne_spec r h
      obtain ⟨hrest, hband⟩ := ih _ c hc
      exact ⟨hrest.trans hdram, hband⟩
  rw [applyHeld_eq m h]
  exact hfold _ _ _ (find_modBand _ h)

theorem freeKept_rest (key : Nat) (s : State) : freeKept key s = { s with cores := (freeKept key s).cores } := by
  unfold freeKept
  dsimp only
  split <;> rfl

/-- A band that halts for a save is stopped, and memory stands. -/
theorem haltBand_spec {key : Nat} {b : Band} {s : State} (h : Table.find key s.bands = some b) :
    (haltBand key b s).dram = s.dram ∧ ∃ c, Table.find key (haltBand key b s).bands = some c ∧ c.stopped = true := by
  unfold haltBand
  dsimp only
  rw [freeKept_rest]
  obtain ⟨hdram, c, hc⟩ := applyHeld_spec (maskOf ((List.range b.width).filter fun l => (Band.lane b l).run == .running)) h
  refine ⟨hdram, _, find_modBand _ hc, ?_⟩
  rw [Band.modLanes_rest]
  rfl

theorem execPreemptBudgetExpiry_of_left {s : State} {team : Nat} {t : Team} {r : SaveReq} (ht : Table.find team s.teams = some t)
    (hr : t.save = some r) (hl : 0 < r.left) : execPreemptBudgetExpiry team s = .next s := by
  obtain ⟨left, dest, marks, pool⟩ := r
  obtain ⟨n, rfl⟩ := Nat.exists_eq_succ_of_ne_zero (Nat.ne_of_gt hl)
  unfold execPreemptBudgetExpiry
  simp only [ht, hr]

theorem execPreemptBudgetExpiry_of_spent {s : State} {team key : Nat} {t : Team} {r : SaveReq} {g : Grid} {b : Band}
    (ht : Table.find team s.teams = some t) (hr : t.save = some r) (hl : r.left = 0) (hg : Table.find t.grid s.grids = some g)
    (hb : State.bandsOf s team = [(key, b)]) : execPreemptBudgetExpiry team s
      = .next (if !b.stopped && bandHalts s key g b then haltBand key b s else s) := by
  obtain ⟨left, dest, marks, pool⟩ := r
  obtain rfl : left = 0 := hl
  unfold execPreemptBudgetExpiry
  simp only [ht, hr, hg, hb, List.foldl_cons, List.foldl_nil]

/-- A team all of whose bands have stopped has none left to stop. -/
theorem stopIdle_of_stopped {s : State} {team : Nat} (h : ∀ e ∈ State.bandsOf s team, e.2.stopped = true) : stopIdle team s = s := by
  unfold stopIdle
  generalize State.bandsOf s team = es at h
  induction es with
  | nil => rfl
  | cons e es ih =>
    rw [List.foldl_cons, h e List.mem_cons_self]
    exact ih fun d hd => h d (List.mem_cons_of_mem e hd)

theorem execTeamSave_of_running {s : State} {team : Nat} {t : Team} {r : SaveReq} (ht : Table.find team s.teams = some t)
    (hr : t.save = some r) (h : ∃ e ∈ State.bandsOf (stopIdle team s) team, e.2.stopped = false) :
    execTeamSave team s = .next (stopIdle team s) := by
  obtain ⟨e, he, hrun⟩ := h
  have hall : ((State.bandsOf (stopIdle team s) team).all fun e => e.2.stopped) = false :=
    List.all_eq_false.mpr ⟨e, he, by rw [hrun]; exact Bool.false_ne_true⟩
  unfold execTeamSave
  simp only [ht, hr, hall]
  rfl

theorem execTeamSave_of_stopped {s : State} {team : Nat} {t : Team} {r : SaveReq} (ht : Table.find team s.teams = some t)
    (hr : t.save = some r) (h : ∀ e ∈ State.bandsOf s team, e.2.stopped = true) : execTeamSave team s =
      match r.marks with
      | none => .next (State.modTeam s team fun t => { t with save := some { r with marks := some (markersOf t) } })
      | some [] => if teamQuiet s team t then .next (saveTeam team t r s) else .next s
      | some _ => .next s := by
  have hstop := stopIdle_of_stopped h
  have hall : ((State.bandsOf s team).all fun e => e.2.stopped) = true := List.all_eq_true.mpr h
  unfold execTeamSave
  simp only [ht, hr, hstop, hall]
  rfl

section Save

variable {s s0 s1 s2 : State} {team slot k : Nat} {t : Team} {r : SaveReq} {g : Grid} {v : Saved}

/-- The write of a record, from its start, that comes to its end (R451). -/
theorem saveTeam_of_written (hp : r.pool = none) (hg : Table.find t.grid s.grids = some g)
    (hslot : Ctx.freePoolSlot (State.ctx s g.ctx) = some slot)
    (h0 : s0 = senseWindow t.core t g (savedRanges t g (bandsByNum s team)) s)
    (hv : v = { savedOf s0 team slot t g r.dest with base := Ctx.poolAt (State.ctx s g.ctx) slot })
    (h1 : s1 = State.modCtx s0 g.ctx (fun c => { c with slots := NatSet.add slot c.slots }))
    (hw : writePieces (t.core / 16) (cutPieces (Ctx.poolAt (State.ctx s g.ctx) slot) (recordPieces g v)) 0 s1 = (k, true, s2)) :
    saveTeam team t r s = moveOut team slot t g v s2 := by
  unfold saveTeam
  simp only [hg, hp, hslot, Option.none_or, Option.map_some, Option.isSome_none, Bool.false_eq_true, if_false, List.drop_zero,
    ← h0, ← hv, ← h1, hw]

theorem saveTeam_of_held (hp : r.pool = none) (hg : Table.find t.grid s.grids = some g)
    (hslot : Ctx.freePoolSlot (State.ctx s g.ctx) = some slot)
    (h0 : s0 = senseWindow t.core t g (savedRanges t g (bandsByNum s team)) s)
    (hv : v = { savedOf s0 team slot t g r.dest with base := Ctx.poolAt (State.ctx s g.ctx) slot })
    (h1 : s1 = State.modCtx s0 g.ctx (fun c => { c with slots := NatSet.add slot c.slots }))
    (hw : writePieces (t.core / 16) (cutPieces (Ctx.poolAt (State.ctx s g.ctx) slot) (recordPieces g v)) 0 s1 = (k, false, s2)) :
    saveTeam team t r s = State.modTeam s2 team fun t => { t with save := some { r with pool := some (slot, k) } } := by
  unfold saveTeam
  simp only [hg, hp, hslot, Option.none_or, Option.map_some, Option.isSome_none, Bool.false_eq_true, if_false, List.drop_zero,
    ← h0, ← hv, ← h1, hw]

end Save

/-! ## Restores (R455) -/

theorem execTeamRestore_of_site {s : State} {sv core : Nat} {v : Saved} {g : Grid} (hc : core < 64)
    (hv : Table.find sv s.saved = some v) (hg : Table.find v.grid s.grids = some g) (hp : v.team.pair = true → core % 2 = 0) :
    execTeamRestore sv core s = match restoreFits s v g core with
      | some ps => .next (restoreAt sv v g core ps s)
      | none => .next s := by
  have hsite : (v.team.pair && core % 2 == 1) = false := by
    cases hpair : v.team.pair with
    | false => rfl
    | true => rw [hp hpair]; rfl
  unfold execTeamRestore
  rw [if_neg (Nat.not_le.mpr hc)]
  simp only [hv, hg, hsite]
  rfl

/-- Settles O56, step by step of the dispatcher, of a save and of a restore. -/
theorem dispatcher : Obligations.Dispatcher := by
  unfold Obligations.Dispatcher
  refine ⟨fun s key b t g h => ⟨fun hh => ?_, fun hh hd => ?_, fun hh hd => ?_⟩,
    fun s k g hg => ⟨execGridComplete_of_running hg, fun he hh hheld hroom => ?_, execGridComplete_of_done hg,
      fun he hh hr hstat => ⟨_, execGridComplete_of_done hg he hh hr, find_completeGrid hstat⟩⟩,
    fun s hk => execTeamPlace_of_none (kicked_of_zero hk), fun s q k sv g => lookQueue_of_saved,
    fun s q hk hf hg => ⟨_, execTeamPlace_of_nothing hk (lookQueue_of_none hf hg), rfl, rfl, rfl, rfl, rfl⟩,
    fun s s1 q k core g u => execTeamPlace_of_found, fun s v => rfl, fun s => execKickDepk2Timer_of_idle,
    fun s q k g hk hq hmem hg hd => ?_, fun s ctx => execContextSwitch_of_none, fun s team t ht hs => ?_,
    fun s team t r ht hr => ⟨execPreemptBudgetExpiry_of_left ht hr, fun key b g hl hg hb => ⟨fun hs hhalts => ?_, fun hs => ?_⟩,
      execTeamSave_of_running ht hr⟩,
    fun s key b => haltBand_spec, fun s team t r ht hr hstop => ⟨fun hm => ?_, fun hm hq => ?_, fun hm hq hp g slot s0 v s1 hg hslot h0 hv h1 => ?_⟩,
    fun s sv core v g hc hv hg hp => ⟨fun hfit => ?_, fun ps hfit => ⟨fun w s1 hread => ?_, fun s1 hread => ?_⟩⟩⟩
  · exact (execBandEnd_of_home h).trans (if_pos hh)
  · exact (execBandEnd_of_home h).trans (by simp [hh, hd])
  · exact (execBandEnd_of_home h).trans (by simp [hh, hd])
  · exact ⟨_, execGridComplete_of_hold hg he hh hheld hroom, rfl, rfl, rfl, rfl, find_modGrid _ hg⟩
  · obtain ⟨_, hrest⟩ := kickWhere_rest watchesBits (List.range 8) s
    exact ⟨_, execKickDepk2Timer_of_due hk, kick_kickWhere (fun _ => rfl) (List.mem_range.mpr hq) hq (watchesBits_of_grid hmem hg hd),
      (congrArg State.grids hrest).trans rfl, (congrArg State.dram hrest).trans rfl⟩
  · constructor
    · change execPreemptBudgetExpiry team s = _
      simp [execPreemptBudgetExpiry, ht, hs]
    · change execTeamSave team s = _
      simp [execTeamSave, ht, hs]
  · exact (execPreemptBudgetExpiry_of_spent ht hr hl hg hb).trans (by simp [hs, hhalts])
  · exact (execPreemptBudgetExpiry_of_spent ht hr hl hg hb).trans (by rcases hs with hs | hs <;> simp [hs])
  · have hexec := execTeamSave_of_stopped ht hr hstop
    rw [hm] at hexec
    exact ⟨_, hexec, rfl, rfl, find_modTeam _ ht⟩
  · exact (execTeamSave_of_stopped ht hr hstop).trans (by simp [hm, hq])
  · have hexec : exec (.teamSave team) s = .next (saveTeam team t r s) :=
      (execTeamSave_of_stopped ht hr hstop).trans (by simp [hm, hq])
    exact ⟨fun k s2 hw => by rw [hexec, saveTeam_of_written hp hg hslot h0 hv h1 hw],
      fun k s2 hw => by rw [hexec, saveTeam_of_held hp hg hslot h0 hv h1 hw]⟩
  · exact (execTeamRestore_of_site hc hv hg hp).trans (by rw [hfit])
  · exact (execTeamRestore_of_site hc hv hg hp).trans (by simp only [hfit, restoreAt, hread])
  · exact (execTeamRestore_of_site hc hv hg hp).trans (by simp only [hfit, restoreAt, hread])

end Sys2Proof.Machine

namespace Sys2Proof.Machine

/-! # Ballast and the hub (spec/17_scheduling_tokens_power.md R411): what ballast fetches, scrubs or tests leaves the hub's own
registers and sums as they were -/

/-- The hub is `h`, but for the work that has been noted since. -/
def HubKept (h : Hub) (s : State) : Prop := { s.hub with w := h.w } = h

theorem HubKept.refl (s : State) : HubKept s.hub s := rfl

theorem HubKept.of_eq {h : Hub} {s t : State} (hk : HubKept h s) (e : t.hub = s.hub) : HubKept h t := by
  unfold HubKept
  rw [e]
  exact hk

theorem HubKept.ite {h : Hub} {c : Prop} [Decidable c] {s t : State} (hs : HubKept h s) (ht : HubKept h t) :
    HubKept h (if c then s else t) := by
  split
  · exact hs
  · exact ht

theorem HubKept.of_pair {α : Type} {h : Hub} {p : α × State} {a : α} {t : State} (hk : HubKept h p.2) (e : p = (a, t)) : HubKept h t := by
  subst e
  exact hk

/-! ## Reads of memory and of slices -/

theorem countUe_hub (unit n : Nat) (s : State) : (countUe unit n s).hub = s.hub := by
  unfold countUe
  split <;> rfl

theorem senseDram_hub (lo n : Nat) (s : State) : (senseDram lo n s).hub = s.hub := by
  unfold senseDram
  generalize (s.dramFlips.filter fun e => decide (lo ≤ e.1) && decide (e.1 < lo + n)) = es
  induction es generalizing s with
  | nil => rfl
  | cons e es ih =>
    rw [List.foldl_cons, ih]
    split
    · exact countUe_hub ..
    · rfl

theorem applyEcc_hub (unit g : Nat) (e : Ecc) (s : State) : (applyEcc unit g e s).hub = s.hub := by
  cases e with
  | clean | corrected => rfl
  | uncorrectable => exact countUe_hub ..

theorem senseSram_hub (g n : Nat) (s : State) : (senseSram g n s).hub = s.hub := by rw [senseSram_rest]

section Kept

variable {h : Hub} {s : State}

theorem HubKept.chargeDie (d n : Nat) (hk : HubKept h s) : HubKept h (chargeDie d n s) := hk

theorem HubKept.chargeLine (u : Nat) (hk : HubKept h s) : HubKept h (chargeLine u s) := hk

theorem HubKept.readLineAt (mem : Nat) (e : Ecc) (hk : HubKept h s) : HubKept h (readLineAt mem e s).2 := by
  unfold Machine.readLineAt
  dsimp only
  refine HubKept.of_eq (s := Machine.chargeLine (mem / 2 ^ 40) s) hk ?_
  split
  · rw [senseDram_hub, countUe_hub]
  · rw [applyEcc_hub]
    change (senseDram _ _ _).hub = _
    rw [senseDram_hub, countUe_hub]

/-! ## Walks and translations -/

theorem HubKept.chargeEntry (die key : Nat) (hk : HubKept h s) : HubKept h (chargeEntry die key s) := by
  unfold Machine.chargeEntry
  exact HubKept.ite (hk.chargeLine _) (((hk.chargeLine _).chargeDie _ _).chargeDie _ _)

theorem HubKept.readEntries (die : Nat) (ks : List Nat) (hk : HubKept h s) : HubKept h (readEntries die ks s) :=
  List.foldlRecOn (motive := HubKept h) ks _ hk fun _ ht _ _ =>
    (ht.chargeEntry ..).of_eq ((senseDram_hub ..).trans (countUe_hub ..))

theorem HubKept.touchEntry (die key e : Nat) (write : Bool) (hk : HubKept h s) : HubKept h (touchEntry s die key e write).2 := by
  unfold Machine.touchEntry
  exact HubKept.ite hk (hk.chargeEntry die key)

theorem HubKept.useEntry (die c : Nat) (write : Bool) (hk : HubKept h s) : HubKept h (useEntry die c write s).2 := by
  unfold Machine.useEntry
  split
  · exact hk.touchEntry ..
  · exact hk

theorem HubKept.fillZero (die c z : Nat) (write : Bool) (hk : HubKept h s) : HubKept h (fillZero die c z write s).2 := by
  unfold Machine.fillZero
  split
  · exact hk
  next f s1 hf =>
    have hs1 : HubKept h s1 := by
      unfold takeFrame at hf
      split at hf
      · exact nomatch hf
      · cases hf
        exact hk
    split
    · split
      · exact hs1.chargeEntry die _
      · exact HubKept.useEntry die c write hs1
    · exact HubKept.useEntry die c write hs1

theorem HubKept.walk (die c : Nat) (write : Bool) (zero : Option Nat) (hk : HubKept h s) : HubKept h (walk die c write zero s).2 := by
  have hread := hk.readEntries die (walkKeys s c)
  unfold Machine.walk
  dsimp only
  split
  · exact hread.fillZero ..
  · exact hread.fillZero ..
  · exact hread.useEntry ..

theorem HubKept.cacheEntry (die c e : Nat) (big : Bool) (hk : HubKept h s) : HubKept h (cacheEntry die c e big s) := by
  have hroom : (roomInTlb die s).hub = s.hub := by
    unfold roomInTlb
    dsimp only
    split <;> rfl
  exact hk.of_eq hroom

theorem HubKept.missWalk (die c : Nat) (k : ReqKind) (hk : HubKept h s) : HubKept h (missWalk die c k s).2 := by
  unfold Machine.missWalk
  dsimp only
  split
  · exact hk
  · have hwalk := hk.walk die c (k == .write) none
    unfold afterWalk
    split
    · exact hwalk.cacheEntry ..
    · unfold holdReq
      split
      · exact hwalk
      · exact hwalk
    · exact hwalk
    · exact hwalk

theorem HubKept.dirtyHit {die c : Nat} {t : Tlb} {r : Xlate × State} (hk : HubKept h s) (hr : dirtyHit die c t s = some r) :
    HubKept h r.2 := by
  unfold Machine.dirtyHit at hr
  split at hr
  · cases hr
    exact hk
  · dsimp only at hr
    split at hr
    · cases hr
      have hread := hk.readEntries die ((walkKeys s c).drop ((walkKeys s c).length - 1))
      refine HubKept.cacheEntry die c _ _ ?_
      unfold setDirty
      exact HubKept.ite hread hread
    · exact nomatch hr

theorem HubKept.xlate (die c : Nat) (k : ReqKind) (hk : HubKept h s) : HubKept h (xlate die c k s).2 := by
  unfold Machine.xlate
  split
  · split
    · split
      next r hr => exact hk.dirtyHit hr
      · exact HubKept.missWalk die c k hk
    · exact hk
  · exact hk.missWalk ..

/-! ## Lines of an L2 -/

theorem HubKept.sendMsg (m : Msg) (hk : HubKept h s) : HubKept h (sendMsg m s) := by
  unfold Machine.sendMsg
  dsimp only
  split
  · exact hk
  · exact hk

theorem HubKept.sendPut (die line unit off : Nat) (hk : HubKept h s) : HubKept h (sendPut die line unit off s) := by
  unfold Machine.sendPut
  split
  · exact hk
  · dsimp only
    split
    · exact hk.sendMsg _
    · exact hk.sendMsg _

theorem HubKept.evictLine {die line : Nat} {t : State} (hk : HubKept h s) (ht : evictLine die line s = some t) : HubKept h t := by
  unfold Machine.evictLine at ht
  split at ht
  · cases ht
    exact hk
  · dsimp only at ht
    split at ht
    · exact nomatch ht
    · split at ht
      · cases ht
        exact hk
      · have hx := hk.xlate die (line * 128) .back
        split at ht
        next u o s1 he =>
          cases ht
          have hs1 : HubKept h s1 := hx.of_pair he
          exact HubKept.sendPut die line u o hs1
        next s1 he =>
          cases ht
          have hs1 : HubKept h s1 := hx.of_pair he
          exact hs1
        · exact nomatch ht
        next k e s1 he =>
          split at ht
          · exact nomatch ht
          · cases ht
            have hs1 : HubKept h s1 := hx.of_pair he
            exact hs1

theorem HubKept.roomInL2 {die line : Nat} {t : State} (hk : HubKept h s) (ht : roomInL2 die line s = some t) : HubKept h t := by
  unfold Machine.roomInL2 at ht
  dsimp only at ht
  split at ht
  · cases ht
    exact hk
  · obtain ⟨e, _, he⟩ := List.exists_of_findSome?_eq_some ht
    exact HubKept.evictLine (s := (State.draw s).2) hk he

/-! ## Ballast -/

theorem HubKept.putShared {home die line : Nat} {st : LineState} {bytes : List Byte} {e : Dir} {t : State} (hk : HubKept h s)
    (ht : putShared home die line st bytes e s = .done t) : HubKept h t := by
  unfold Machine.putShared at ht
  split at ht
  · exact nomatch ht
  next s1 hs =>
    cases ht
    have hs1 : HubKept h s1 := hk.roomInL2 hs
    exact hs1

theorem HubKept.takeShared {die line unit off : Nat} {t : State} (hk : HubKept h s) (ht : takeShared die line unit off s = .done t) :
    HubKept h t := by
  unfold Machine.takeShared at ht
  extract_lets home mem e others at ht
  split at ht
  · exact nomatch ht
  · split at ht
    · split at ht
      · exact nomatch ht
      · split at ht
        · cases ht
          exact hk
        · exact HubKept.putShared (s := State.modDie s _ _) hk ht
    next r _ =>
      have hread := hk.readLineAt mem .clean
      split at ht
      · cases ht
        exact hread
      · split at ht
        · exact hread.putShared ht
        · exact hread.putShared ht

theorem HubKept.fetchBallast {die line : Nat} {t : State} (hk : HubKept h s) (ht : fetchBallast die line s = .done t) : HubKept h t := by
  unfold Machine.fetchBallast at ht
  extract_lets c usable at ht
  split at ht
  · cases ht
    exact hk
  · split at ht
    · exact nomatch ht
    · split at ht
      next u o s1 he => exact HubKept.takeShared ((hk.xlate die c .read).of_pair he) ht
      · exact nomatch ht

theorem HubKept.askBallast (die line : Nat) (hk : HubKept h s) : HubKept h (askBallast die line s) := by
  unfold Machine.askBallast
  dsimp only
  split
  next s2 hs => exact HubKept.fetchBallast (s := State.modDie s die _) hk hs
  · exact hk

theorem HubKept.serveBallast (die : Nat) (hk : HubKept h s) : HubKept h (serveBallast s die) := by
  refine List.foldlRecOn (motive := HubKept h) _ _ hk fun t ht line _ => ?_
  dsimp only
  split
  · exact ht
  · split
    next s1 hs =>
      have hs1 : HubKept h s1 := HubKept.fetchBallast ht hs
      exact hs1
    · exact ht

theorem HubKept.ballastEntry (core cap n p left used : Nat) (hk : HubKept h s) :
    HubKept h (ballastEntry core cap n p left used s).2.2.2 := by
  induction n generalizing p left used s with
  | zero => exact hk
  | succ n ih =>
    rw [Machine.ballastEntry]
    dsimp only
    split
    · exact hk
    · split
      · exact ih _ _ _ hk
      · split
        · exact hk
        · exact ih _ _ _ (hk.askBallast ..)

theorem HubKept.ballastList (core cap : Nat) (l : List (Nat × Nat × Nat)) (used : Nat) (hk : HubKept h s) :
    HubKept h (ballastList core cap l used s).2.2 := by
  induction l generalizing used s with
  | nil => exact hk
  | cons e l ih => exact ih _ (hk.ballastEntry ..)

end Kept

/-- Ballast is paid from the excess alone, so that the hub stands whole (R411). -/
theorem ballastFetch_hub (p : Nat × State) : (ballastFetch p).2.hub = p.2.hub := by
  unfold ballastFetch
  extract_lets cap r
  have hserved : HubKept p.2.hub ((List.range 4).foldl serveBallast p.2) :=
    List.foldlRecOn (motive := HubKept p.2.hub) _ _ (HubKept.refl p.2) fun _ ht die _ => ht.serveBallast die
  have hr : HubKept p.2.hub r.2 := List.foldlRecOn (motive := fun q : Nat × State => HubKept p.2.hub q.2) _ _ hserved
    fun q hq c _ => HubKept.ballastList c.1 cap c.2.prefetch q.1 hq
  exact hr

theorem scrubLine_hub {unit : Nat} {s t : State} (h : scrubLine unit s = some t) : t.hub = s.hub := by
  unfold scrubLine at h
  dsimp only at h
  split at h
  · exact nomatch h
  · cases h
    change (if _ then _ else _ : State).hub = _
    split
    · rw [senseDram_hub, countUe_hub]
    · exact (senseDram_hub ..).trans (countUe_hub ..)

theorem ite_snd_hub {α : Type} {c : Prop} [Decidable c] {p q : α × State} {h : Hub} (hp : p.2.hub = h) (hq : q.2.hub = h) :
    (if c then p else q).2.hub = h := by
  split
  · exact hp
  · exact hq

theorem ballastScrub_hub (k : Nat) (p : Nat × State) : (ballastScrub k p).2.hub = p.2.hub := by
  unfold ballastScrub
  extract_lets lines
  have hlines : lines.2.hub = p.2.hub := by
    refine ite_snd_hub rfl (List.foldlRecOn (motive := fun q : Nat × State => q.2.hub = p.2.hub) _ _ rfl fun q hq m _ => ?_)
    split
    · exact hq
    · split
      next t ht => exact (scrubLine_hub ht).trans hq
      · exact hq
  exact List.foldlRecOn (motive := fun q : Nat × State => q.2.hub = p.2.hub) _ _ hlines fun q hq c _ =>
    ite_snd_hub hq ((senseSram_hub ..).trans hq)

theorem ballastTest_hub (k : Nat) (fails : List (Nat × Nat)) (p : Nat × State) : (ballastTest k fails p).2.hub = p.2.hub := by
  refine List.foldlRecOn (motive := fun q : Nat × State => q.2.hub = p.2.hub) _ _ rfl fun q hq i _ => ite_snd_hub hq ?_
  split
  · exact hq
  · exact hq

theorem spendExcess_hub (excess k : Nat) (fails : List (Nat × Nat)) (s : State) : (spendExcess excess k fails s).hub = s.hub := by
  unfold spendExcess
  extract_lets on
  have hon (i : Nat) {f : Nat × State → Nat × State} (p : Nat × State) (hf : ∀ p, (f p).2.hub = p.2.hub) :
      (on i f p).2.hub = p.2.hub := ite_snd_hub (hf p) rfl
  rw [hon 2 _ (ballastTest_hub k fails), hon 1 _ (ballastScrub_hub k), hon 0 _ ballastFetch_hub]

end Sys2Proof.Machine

namespace Sys2Proof.Machine

/-! # Power, heat, schedulers and notices (spec/17_scheduling_tokens_power.md R403 to R428; spec/18_traps_fragments_preemption.md
R433; spec/19_firmware_host_fabric.md R467, R468) -/

/-! ## A core cycle of a die (R403, R407) -/

/-- What a refill leaves as it was, and how it changes a core's bucket. -/
structure Refilled (die : Nat) (s t : State) : Prop where
  n : (State.die t die).n = (State.die s die).n
  dram : t.dram = s.dram
  grids : t.grids = s.grids
  fw : t.fw = s.fw
  sram : t.sram = s.sram
  cycles : ∀ c, (State.core t c).cycles = (State.core s c).cycles
  bucket : ∀ c, (State.core s c).bucket ≤ (State.core t c).bucket

theorem Refilled.refl (die : Nat) (s : State) : Refilled die s s := ⟨rfl, rfl, rfl, rfl, rfl, fun _ => rfl, fun _ => Nat.le_refl _⟩

theorem Refilled.trans {die : Nat} {s t u : State} (h : Refilled die s t) (g : Refilled die t u) : Refilled die s u where
  n := g.n.trans h.n
  dram := g.dram.trans h.dram
  grids := g.grids.trans h.grids
  fw := g.fw.trans h.fw
  sram := g.sram.trans h.sram
  cycles c := (g.cycles c).trans (h.cycles c)
  bucket c := (h.bucket c).trans (g.bucket c)

/-- A refilled core has gained what its die's bucket has given. -/
theorem refilled_gain (die c got : Nat) (s : State) : Refilled die s
    (State.modDie (State.modCore s c fun x => { x with bucket := x.bucket + got }) die fun x => { x with tokens := x.tokens - got }) := by
  have hcore (k : Nat) : State.core (State.modDie (State.modCore s c fun x => { x with bucket := x.bucket + got }) die
      fun x => { x with tokens := x.tokens - got }) k = State.core (State.modCore s c fun x => { x with bucket := x.bucket + got }) k := rfl
  refine ⟨?_, rfl, rfl, rfl, rfl, fun k => ?_, fun k => ?_⟩
  · rw [die_modDie]
    rfl
  · rw [hcore]
    by_cases h : k = c
    · rw [h, core_modCore]
    · rw [core_modCore_ne _ _ h]
  · rw [hcore]
    by_cases h : k = c
    · rw [h, core_modCore]
      exact Nat.le_add_right ..
    · rw [core_modCore_ne _ _ h]

theorem refilled_refillCore (die : Nat) (s : State) (c : Nat) : Refilled die s (refillCore die s c) := by
  have hshort {t : State} (v : Hub → Hub) (h : Refilled die s t) : Refilled die s (State.modHub t v) :=
    ⟨h.n, h.dram, h.grids, h.fw, h.sram, h.cycles, h.bucket⟩
  have hgain {p : Prop} [Decidable p] (got : Nat) : Refilled die s (if p then s
      else State.modDie (State.modCore s c fun x => { x with bucket := x.bucket + got }) die fun x => { x with tokens := x.tokens - got }) := by
    split
    · exact Refilled.refl die s
    · exact refilled_gain ..
  unfold refillCore
  dsimp only
  split
  · exact hgain _
  · exact hshort _ (hgain _)

theorem refilled_foldl (die : Nat) (cs : List Nat) (s : State) : Refilled die s (cs.foldl (refillCore die) s) := by
  induction cs generalizing s with
  | nil => exact Refilled.refl die s
  | cons c cs ih => exact (refilled_refillCore die s c).trans (ih _)

/-- The counters of some cores count a cycle. -/
def tickCores (cs : List Nat) (s : State) : State := cs.foldl (fun s c => State.modCore s c tickCore) s

theorem tickCores_rest (cs : List Nat) (s : State) : ∃ cores, tickCores cs s = { s with cores := cores } := by
  unfold tickCores
  induction cs generalizing s with
  | nil => exact ⟨s.cores, rfl⟩
  | cons c cs ih =>
    obtain ⟨cores, h⟩ := ih (State.modCore s c tickCore)
    exact ⟨cores, h⟩

theorem core_tickCores_of_not_mem {cs : List Nat} {s : State} {c : Nat} (h : c ∉ cs) :
    State.core (tickCores cs s) c = State.core s c := by
  unfold tickCores
  induction cs generalizing s with
  | nil => rfl
  | cons d cs ih =>
    obtain ⟨hd, hcs⟩ := not_or.mp (List.mem_cons.not.mp h)
    rw [List.foldl_cons, ih hcs, core_modCore_ne _ _ hd]

theorem core_tickCores {cs : List Nat} {s : State} {c : Nat} (hn : cs.Nodup) (h : c ∈ cs) :
    State.core (tickCores cs s) c = tickCore (State.core s c) := by
  induction cs generalizing s with
  | nil => exact absurd h List.not_mem_nil
  | cons d cs ih =>
    obtain ⟨hd, hcs⟩ := List.nodup_cons.mp hn
    rcases List.mem_cons.mp h with rfl | h
    · exact (core_tickCores_of_not_mem hd).trans (core_modCore ..)
    · exact (ih hcs h).trans (congrArg tickCore (core_modCore_ne _ _ fun e => hd (e ▸ h)))

/-- The cores of a die. -/
def dieCores (die : Nat) : List Nat := (List.range 16).map fun i => die * 16 + i

theorem dieCores_nodup (die : Nat) : (dieCores die).Nodup :=
  List.nodup_range.map fun _ _ h => Nat.add_left_cancel h

theorem mem_dieCores {die c : Nat} (h : c / 16 = die) : c ∈ dieCores die :=
  List.mem_map.mpr ⟨c % 16, List.mem_range.mpr (Nat.mod_lt _ (by decide)), by omega⟩

theorem execCoreBucketRefill_spec {s : State} {die : Nat} (hd : die < 4) :
    ∃ t, execCoreBucketRefill die s = .next t ∧ (State.die t die).n = (State.die s die).n + 1 ∧ t.dram = s.dram
      ∧ t.grids = s.grids ∧ t.fw = s.fw ∧ t.sram = s.sram
      ∧ ∀ c, c / 16 = die → (State.core t c).cycles = (State.core s c).cycles + 1
          ∧ (State.core s c).bucket ≤ (State.core t c).bucket := by
  have hn : (State.die (State.modDie s die fun d => { d with n := d.n + 1 }) die).n = (State.die s die).n + 1 := by rw [die_modDie]
  unfold execCoreBucketRefill
  rw [if_neg (Nat.not_le.mpr hd)]
  extract_lets n cores s1 s2 s3
  clear_value cores
  have h : Refilled die (State.modDie s die fun d => { d with n := d.n + 1 }) s1 := refilled_foldl die cores _
  clear_value s1
  have h2 : s2 = tickCores (dieCores die) s1 := rfl
  clear_value s2
  obtain ⟨cores, hrest⟩ : ∃ cores, s2 = { s1 with cores := cores } := h2 ▸ tickCores_rest (dieCores die) s1
  refine ⟨_, rfl, ?_, ?_, ?_, ?_, ?_, fun c hc => ?_⟩
  · exact (congrArg (fun u => (State.die u die).n) hrest).trans (h.n.trans hn)
  · exact (congrArg State.dram hrest).trans h.dram
  · exact (congrArg State.grids hrest).trans h.grids
  · exact (congrArg State.fw hrest).trans h.fw
  · exact (congrArg State.sram hrest).trans h.sram
  · have hcore : State.core s2 c = tickCore (State.core s1 c) := h2 ▸ core_tickCores (dieCores_nodup die) (mem_dieCores hc)
    exact ⟨(congrArg Core.cycles hcore).trans (congrArg (· + 1) (h.cycles c)), (h.bucket c).trans (congrArg Core.bucket hcore).ge⟩

/-! ## The law of the grant (R407, R409, R421) -/

/-- Of the hub a change of the intents' state touches the plan alone. -/
theorem refreshPlan_rest (s : State) : ∃ p q, refreshPlan s = { s with hub := { s.hub with plan := p, planSaid := q } } := by
  unfold refreshPlan
  dsimp only
  split
  · exact ⟨_, _, rfl⟩
  · exact ⟨_, _, rfl⟩
  · exact ⟨s.hub.plan, s.hub.planSaid, rfl⟩

/-- Closing intents leaves firmware and, of the hub, all but the plan. -/
theorem closeIntents_hub (k : Nat) (s : State) : (closeIntents k s).fw = s.fw
    ∧ ∃ p q, (closeIntents k s).hub = { s.hub with plan := p, planSaid := q } := by
  unfold closeIntents
  dsimp only
  generalize s.bands.map _ = bands
  generalize s.saved.map _ = saved
  obtain ⟨p, q, h⟩ := refreshPlan_rest { s with bands := bands, saved := saved }
  rw [h]
  exact ⟨rfl, p, q, rfl⟩

theorem topUp_hub (s : State) (d : Nat) : (topUp s d).hub = { s.hub with
    pkg := (topUp s d).hub.pkg, v := (topUp s d).hub.v } := by
  unfold topUp
  dsimp only
  split <;> rfl

theorem topUps_hub (ds : List Nat) (s : State) : (ds.foldl topUp s).hub = { s.hub with
    pkg := (ds.foldl topUp s).hub.pkg, v := (ds.foldl topUp s).hub.v } := by
  induction ds generalizing s with
  | nil => rfl
  | cons d ds ih => rw [List.foldl_cons, ih, topUp_hub]

theorem upset_hub (s : State) (x : Upset) : (upset s x).hub = s.hub := by
  unfold upset
  dsimp only
  split
  · rfl
  · split <;> rfl

/-- A fold of steps none of which touches the hub. -/
theorem foldl_hub {α : Type} {f : State → α → State} (hf : ∀ s a, (f s a).hub = s.hub) (as : List α) (s : State) :
    (as.foldl f s).hub = s.hub := by
  induction as generalizing s with
  | nil => rfl
  | cons a as ih => rw [List.foldl_cons, ih, hf]

theorem ite_hub {c : Prop} [Decidable c] {s t : State} {h : Hub} (hs : s.hub = h) (ht : t.hub = h) : (if c then s else t).hub = h := by
  split
  · exact hs
  · exact ht

theorem takeSample_hub (x : HubSample) (s : State) : (takeSample x s).hub = s.hub := by
  unfold takeSample
  dsimp only
  rw [foldl_hub upset_hub, foldl_hub, foldl_hub, foldl_hub, foldl_hub]
  · exact fun _ _ => ite_hub rfl rfl
  · exact fun _ _ => ite_hub rfl rfl
  · exact fun _ _ => rfl
  · exact fun _ _ => rfl

theorem intentDue_g (h n : Hub) (plim e k d : Nat) : (intentDue h n plim e k d).2.g = n.g := by
  unfold intentDue
  extract_lets id hold
  have hhold (m : Hub) : (hold m).2.g = m.g := by
    change (if _ then _ else _ : Option PowerIntent × Hub).2.g = _
    split <;> rfl
  clear_value hold
  split
  · split
    · rfl
    · split
      · rfl
      · exact hhold n
  · split
    · rfl
    · exact hhold _

theorem holdIntent_g (k : Nat) (i : Option PowerIntent) (h : Hub) : (holdIntent k i h).g = h.g := by
  unfold holdIntent
  split
  · rfl
  · split <;> rfl

/-- The law's own part of a hub cycle, from the hub as it stands once the intents that end have closed. -/
def lawHub (plim e k d : Nat) (h : Hub) : Hub :=
  if h.k = 0 then { h with g := Hub.gmin h plim * 1000, moved := false } else nextGrant h plim e k d

/-- A hub cycle: its number, its grant by the law, the package bucket in its bounds, the work begun anew. -/
theorem execGovernorHubCycle_spec {s : State} (x : HubSample) (hp : s.fw.power = .ready) :
    ∃ t e d, execGovernorHubCycle x s = .next t ∧ t.hub.k = s.hub.k + 1 ∧ t.hub.pkg ≤ packageDepth ∧ t.hub.w = x.draw
      ∧ t.hub.g = (lawHub s.fw.plim.toNat e (s.hub.k + 1) d (closeIntents (s.hub.k + 1) s).hub).g := by
  obtain ⟨hfw, _⟩ := closeIntents_hub (s.hub.k + 1) s
  unfold execGovernorHubCycle
  rw [if_neg (not_not_intro hp)]
  extract_lets k s0 h d plim n i src s1 s2 s3 s4
  have hplim : plim = s.fw.plim.toNat := congrArg (fun f : Fw => f.plim.toNat) hfw
  have hn : n = lawHub plim (latestEnd s0) k d h := rfl
  have hi : i.2.g = n.g := by
    change (if _ then _ else _ : Option PowerIntent × Hub).2.g = _
    split
    · rfl
    · exact intentDue_g ..
  have h1 : s1.hub.k = k ∧ s1.hub.w = x.draw ∧ s1.hub.g = n.g := ⟨rfl, rfl, (holdIntent_g ..).trans hi⟩
  have h2 : s2.hub = { s1.hub with pkg := s2.hub.pkg, v := s2.hub.v } := topUps_hub ..
  have h3 : s3.hub = { s2.hub with pkg := Nat.min s2.hub.pkg packageDepth } :=
    congrArg (fun h : Hub => { h with pkg := Nat.min h.pkg packageDepth }) (spendExcess_hub ..)
  have h4 : s4.hub = s3.hub := takeSample_hub x s3
  clear_value s1 s2 s3 s4 n i
  obtain ⟨hk, hw, hg⟩ := h1
  refine ⟨_, latestEnd s0, d, rfl, ?_, ?_, ?_, ?_⟩
  · exact (congrArg Hub.k h4).trans ((congrArg Hub.k h3).trans ((congrArg Hub.k h2).trans hk))
  · exact (congrArg Hub.pkg (h4.trans h3)).le.trans (Nat.min_le_right ..)
  · exact (congrArg Hub.w h4).trans ((congrArg Hub.w h3).trans ((congrArg Hub.w h2).trans hw))
  · rw [← hplim, ← hn]
    exact (congrArg Hub.g h4).trans ((congrArg Hub.g h3).trans ((congrArg Hub.g h2).trans hg))

/-- A grant by the law moves by no more than the slew of its direction (R409, R421). -/
theorem nextGrant_slew (h : Hub) (plim e k d : Nat) : (nextGrant h plim e k d).g ≤ h.g + Hub.slewIn h true
    ∧ h.g ≤ (nextGrant h plim e k d).g + Hub.slewIn h false := by
  have hlaw : lawGrant h plim e k d ≤ h.g + Hub.slewIn h true ∧ h.g ≤ lawGrant h plim e k d + Hub.slewIn h false := by
    unfold lawGrant
    omega
  have hg : (nextGrant h plim e k d).g = h.g ∨ (nextGrant h plim e k d).g = lawGrant h plim e k d := by
    unfold nextGrant
    dsimp only
    split
    · split
      · exact .inl rfl
      · exact .inr rfl
    · exact .inr rfl
  rcases hg with hg | hg <;> omega

end Sys2Proof.Machine

namespace Sys2Proof.Machine

/-! ## The governor's hub cycles (R407, R409) -/

theorem execGovernorHubCycle_first {s : State} (x : HubSample) (hp : s.fw.power = .ready) (hk : s.hub.k = 0) :
    ∃ t, execGovernorHubCycle x s = .next t ∧ t.hub.k = 1 ∧ t.hub.g = Hub.gmin s.hub s.fw.plim.toNat * 1000
      ∧ t.hub.pkg ≤ packageDepth ∧ t.hub.w = x.draw := by
  obtain ⟨t, e, d, hexec, htk, hpkg, hw, hg⟩ := execGovernorHubCycle_spec x hp
  obtain ⟨_, p, q, hclose⟩ := closeIntents_hub (s.hub.k + 1) s
  rw [hclose, lawHub, if_pos hk] at hg
  exact ⟨t, hexec, by rw [htk, hk], hg, hpkg, hw⟩

theorem execGovernorHubCycle_later {s : State} (x : HubSample) (hp : s.fw.power = .ready) (hk : s.hub.k ≠ 0) :
    ∃ t, execGovernorHubCycle x s = .next t ∧ t.hub.k = s.hub.k + 1 ∧ t.hub.pkg ≤ packageDepth ∧ t.hub.w = x.draw
      ∧ t.hub.g ≤ s.hub.g + Hub.slewIn s.hub true ∧ s.hub.g ≤ t.hub.g + Hub.slewIn s.hub false := by
  obtain ⟨t, e, d, hexec, htk, hpkg, hw, hg⟩ := execGovernorHubCycle_spec x hp
  obtain ⟨_, p, q, hclose⟩ := closeIntents_hub (s.hub.k + 1) s
  rw [hclose, lawHub, if_neg hk] at hg
  obtain ⟨hup, hdown⟩ := nextGrant_slew { s.hub with plan := p, planSaid := q } s.fw.plim.toNat e (s.hub.k + 1) d
  exact ⟨t, hexec, htk, hpkg, hw, hg.le.trans hup, hdown.trans (Nat.add_le_add_right hg.ge _)⟩

/-! ## Pass counts and heat (R418, R422 to R424) -/

theorem execPassCountChargeAdjust_spec (s : State) {die : Nat} (hd : die < 4) :
    ∃ t, execPassCountChargeAdjust die s = .next t
      ∧ (State.die t die).chgVal = (if 1024 ≤ (State.die s die).lowFor then stepUp (State.die s die).chgVal
          else if 4096 ≤ (State.die s die).highFor then stepDown (State.die s die).chgVal else (State.die s die).chgVal)
      ∧ t.pairs = s.pairs ∧ t.cores = s.cores ∧ t.dram = s.dram := by
  unfold execPassCountChargeAdjust
  rw [if_neg (Nat.not_le.mpr hd)]
  dsimp only
  split
  · exact ⟨_, rfl, by rw [die_setDie], rfl, rfl, rfl⟩
  · split
    · exact ⟨_, rfl, by rw [die_setDie], rfl, rfl, rfl⟩
    · exact ⟨s, rfl, rfl, rfl, rfl, rfl⟩

theorem execThermalMigration_of_warm {s : State} {core : Nat} (hc : core < 64) (h : (State.core s core).hotFor < 8192) :
    execThermalMigration core s = .next s := by
  unfold execThermalMigration
  rw [if_neg (Nat.not_le.mpr hc), if_pos h]

theorem migration_of_no_team {s : State} {core : Nat} (h : teamsOn s core = []) : migration s core = none := by
  unfold migration
  rw [h, List.findSome?_nil]

/-- With no team to give up, the pair's thermal value rises (R422). -/
theorem execThermalMigration_of_hot {s : State} {core : Nat} (hc : core < 64) (h : 8192 ≤ (State.core s core).hotFor)
    (ht : teamsOn (State.modCore s core fun c => { c with hotFor := 0 }) core = []) :
    execThermalMigration core s = .next (State.modPair (State.modCore s core fun c => { c with hotFor := 0 }) (core / 2)
      fun p => { p with therm := stepUp p.therm }) := by
  unfold execThermalMigration
  rw [if_neg (Nat.not_le.mpr hc), if_neg (Nat.not_lt.mpr h)]
  dsimp only
  rw [migration_of_no_team ht]

theorem execThermalPassFall_of_short {s : State} {core : Nat} (hc : core < 64) (h : (State.core s core).coolFor < 65536) :
    execThermalPassFall core s = .next s := by
  unfold execThermalPassFall
  rw [if_neg (Nat.not_le.mpr hc), if_pos h]

theorem execThermalPassFall_of_cool {s : State} {core : Nat} (hc : core < 64) (h : 65536 ≤ (State.core s core).coolFor) :
    execThermalPassFall core s = .next (State.modPair (State.modCore s core fun c => { c with coolFor := 0 }) (core / 2)
      fun p => { p with therm := stepDown p.therm }) := by
  unfold execThermalPassFall
  rw [if_neg (Nat.not_le.mpr hc), if_neg (Nat.not_lt.mpr h)]

/-- A core's and its pair's fields after both are changed. -/
theorem modPair_modCore (s : State) (core p : Nat) (f : Core → Core) (g : Pair → Pair) :
    State.pair (State.modPair (State.modCore s core f) p g) p = g (State.pair s p)
      ∧ State.core (State.modPair (State.modCore s core f) p g) core = f (State.core s core) :=
  ⟨pair_modPair .., core_modCore ..⟩

/-! ## Power intents (R419 to R421) -/

theorem foldl_send_map {α : Type} (f : α → Out) (as : List α) (s : State) :
    as.foldl (fun s a => State.send s (f a)) s = { s with outbox := s.outbox ++ as.map f } := by
  induction as generalizing s with
  | nil => simp
  | cons a as ih =>
    rw [List.foldl_cons, ih]
    simp [State.send]

/-- An intent `n` hub cycles after it was held: its DUR is that much less; a steady one has none. -/
def agedIntent (i : PowerIntent) (n : Nat) : PowerIntent := if i.kind = 3 then i else { i with dur := i.dur - n }

theorem agedIntent_zero (i : PowerIntent) : agedIntent i 0 = i := by
  unfold agedIntent
  split <;> rfl

/-- The state in which the intent held has been sent to each other member. -/
def intentSent (j : PowerIntent) (s : State) : State :=
  { s with
    outbox := s.outbox ++ (Hub.peers s.hub).map fun m => .intent (m % 24) m j
    hub := { s.hub with heldIntent := none, lastIntent := some s.hub.k } }

theorem execPowerIntentSend_of_none {s : State} (h : s.hub.heldIntent = none) : execPowerIntentSend s = .next s := by
  unfold execPowerIntentSend
  rw [h]

theorem execPowerIntentSend_of_recent {s : State} {i : PowerIntent} {k l : Nat} (h : s.hub.heldIntent = some (i, k))
    (hg : s.hub.pgcfg.getLsbD 48 = true) (hl : s.hub.lastIntent = some l) (hr : s.hub.k < l + 1000) :
    execPowerIntentSend s = .next s := by
  unfold execPowerIntentSend
  rw [h]
  dsimp only
  rw [if_neg (by rw [hg]; decide), hl]
  exact if_pos (decide_eq_true hr)

/-- The intent held, once it may be sent: dropped where nothing of its DUR is left. -/
theorem execPowerIntentSend_of_free {s : State} {i : PowerIntent} {k : Nat} (h : s.hub.heldIntent = some (i, k))
    (hg : s.hub.pgcfg.getLsbD 48 = true) (hr : ∀ l, s.hub.lastIntent = some l → l + 1000 ≤ s.hub.k) :
    execPowerIntentSend s = if i.kind ≠ 3 ∧ (agedIntent i (s.hub.k - k)).dur = 0 ∧ 0 < s.hub.k - k
      then .next { s with hub := { s.hub with heldIntent := none } } else .next (intentSent (agedIntent i (s.hub.k - k)) s) := by
  have haged : (if i.kind = 3 then i else { i with dur := i.dur - (s.hub.k - k) }) = agedIntent i (s.hub.k - k) := rfl
  unfold execPowerIntentSend intentSent
  rw [h]
  dsimp only
  rw [if_neg (by rw [hg]; decide), haged, foldl_send_map fun m => Out.intent (m % 24) m (agedIntent i (s.hub.k - k))]
  generalize (Hub.peers s.hub).map (fun m => Out.intent (m % 24) m (agedIntent i (s.hub.k - k))) = sent
  refine if_neg fun hrecent => ?_
  cases hl : s.hub.lastIntent with
  | none =>
    rw [hl] at hrecent
    exact Bool.false_ne_true hrecent
  | some l =>
    rw [hl] at hrecent
    exact Nat.not_lt.mpr (hr l hl) (of_decide_eq_true hrecent)

theorem execPowerIntentSend_of_sent {s : State} {i : PowerIntent} {k : Nat} (h : s.hub.heldIntent = some (i, k))
    (hg : s.hub.pgcfg.getLsbD 48 = true) (hr : ∀ l, s.hub.lastIntent = some l → l + 1000 ≤ s.hub.k)
    (hd : s.hub.k = k ∨ s.hub.k - k < (agedIntent i 0).dur) :
    execPowerIntentSend s = .next (intentSent (agedIntent i (s.hub.k - k)) s) := by
  rw [execPowerIntentSend_of_free h hg hr, agedIntent_zero] at *
  refine if_neg fun ⟨hk, hdur, hage⟩ => ?_
  rw [agedIntent, if_neg hk] at hdur
  dsimp only at hdur
  omega

theorem execPowerIntentSend_of_dropped {s : State} {i : PowerIntent} {k : Nat} (h : s.hub.heldIntent = some (i, k))
    (hlt : k < s.hub.k) (hg : s.hub.pgcfg.getLsbD 48 = true) (hr : ∀ l, s.hub.lastIntent = some l → l + 1000 ≤ s.hub.k)
    (hk : i.kind ≠ 3) (hd : i.dur ≤ s.hub.k - k) :
    execPowerIntentSend s = .next { s with hub := { s.hub with heldIntent := none } } := by
  rw [execPowerIntentSend_of_free h hg hr]
  refine if_pos ⟨hk, ?_, Nat.sub_pos_of_lt hlt⟩
  rw [agedIntent, if_neg hk]
  exact Nat.sub_eq_zero_of_le hd

theorem execPowerIntentReceive_of_stranger {s : State} {i : PowerIntent}
    (h : s.hub.pgcfg.getLsbD 48 = false ∨ s.hub.members.getLsbD i.src = false) : execPowerIntentReceive i s = .next s := by
  refine if_pos ?_
  rcases h with h | h
  · rw [h]
    rfl
  · rw [h]
    exact Bool.or_true _

theorem execPowerIntentReceive_of_steady {s : State} {i : PowerIntent} (hg : s.hub.pgcfg.getLsbD 48 = true)
    (hm : s.hub.members.getLsbD i.src = true) (hk : i.kind = 3) : execPowerIntentReceive i s
      = .next (State.modHub s fun h => { h with calendar := h.calendar.filter fun e => e.1 != i.src }) := by
  unfold execPowerIntentReceive
  rw [if_neg (by rw [hg, hm]; decide), hk]
  rfl

theorem execPowerIntentReceive_of_move {s : State} {i : PowerIntent} (hg : s.hub.pgcfg.getLsbD 48 = true)
    (hm : s.hub.members.getLsbD i.src = true) (hk : i.kind = 1 ∨ i.kind = 2) (hd : i.dur ≠ 0) (hy : i.delay ≤ 63000) :
    execPowerIntentReceive i s = .next (State.modHub s fun h => { h with calendar := h.calendar ++
      [(i.src, i.kind == 2, i.delay / 1000, Nat.min 63 ((i.delay + i.dur) / 1000), i.amount * 1000 / i.dur)] }) := by
  have hno : ¬ (i.dur = 0 ∨ 63000 < i.delay) := not_or.mpr ⟨hd, Nat.not_lt.mpr hy⟩
  unfold execPowerIntentReceive
  rw [if_neg (by rw [hg, hm]; decide)]
  rcases hk with hk | hk
  · rw [hk]
    exact if_neg hno
  · rw [hk]
    exact if_neg hno

/-! ## The scheduler cores (R427, R428) -/

/-- A queue has something to place. -/
def queueWaits (s : State) (q : Nat) : Bool := !(Table.get [] q s.hub.queues).isEmpty || (firstSaved s q).isSome

theorem queueWaits_of_ne {s : State} {q : Nat} (h : Table.get [] q s.hub.queues ≠ []) : queueWaits s q = true := by
  simp [queueWaits, h]

theorem execSchedulerTakeover_of_start {s : State} (cause : Nat) (hh : Hub.onHold s.hub = false) (hs : s.hub.schedstat.getLsbD 0 = false) :
    execSchedulerTakeover cause s = .next { s with hub := { s.hub with schedstat := BitVec.ofNat 32 (13 + cause % 16 * 16) } } := by
  unfold execSchedulerTakeover
  rw [if_neg (Bool.eq_false_iff.mp hh), if_neg (Bool.eq_false_iff.mp hs)]
  rfl

/-- While Deimos does not yet drain and no LAUNCH is without effect, its step kicks the queues. -/
theorem execSchedulerTakeover_of_kick {s : State} (cause : Nat) (hh : Hub.onHold s.hub = true) (hs : s.hub.schedstat.getLsbD 17 = false)
    (hd : s.fw.draining = false) (hl : s.waiting.any isLaunch = false) :
    execSchedulerTakeover cause s = .next (State.modFw (kickWhere queueWaits (List.range 8) s) fun f => { f with draining := true }) := by
  have hnone : s.waiting.filter isLaunch = [] :=
    List.filter_eq_nil_iff.mpr fun d hm hd => absurd (List.any_eq_true.mpr ⟨d, hm, hd⟩) (by simp [hl])
  unfold execSchedulerTakeover
  rw [if_pos hh, if_neg (Bool.eq_false_iff.mp hs), if_neg (Bool.eq_false_iff.mp hd), hnone]
  exact if_neg (Bool.eq_false_iff.mp hl)

theorem execSchedulerTakeover_kicks {s : State} (cause : Nat) (hh : Hub.onHold s.hub = true) (hs : s.hub.schedstat.getLsbD 17 = false)
    (hd : s.fw.draining = false) (hl : s.waiting.any isLaunch = false) : ∃ kick, execSchedulerTakeover cause s
      = .next { s with hub := { s.hub with kick := kick }, fw := { s.fw with draining := true } }
      ∧ ∀ q < 8, Table.get [] q s.hub.queues ≠ [] → kick.getLsbD q = true := by
  obtain ⟨kick, hrest⟩ := kickWhere_rest queueWaits (List.range 8) s
  refine ⟨kick, ?_, fun q hq hne => ?_⟩
  · rw [execSchedulerTakeover_of_kick cause hh hs hd hl, hrest]
    rfl
  · have hkick := kick_kickWhere (fun _ => rfl) (List.mem_range.mpr hq) hq (queueWaits_of_ne hne)
    rw [hrest] at hkick
    exact hkick

theorem execSchedulerTakeover_of_drain {s : State} (cause : Nat) (hh : Hub.onHold s.hub = true) (hs : s.hub.schedstat.getLsbD 17 = false)
    (hd : s.fw.draining = true) : execSchedulerTakeover cause s = .next (sendHeld { s with
      hub := { s.hub with schedstat := s.hub.schedstat &&& ~~~(4#32) }, fw := { s.fw with draining := false } }) := by
  unfold execSchedulerTakeover
  rw [if_pos hh, if_neg (Bool.eq_false_iff.mp hs), if_pos hd]
  rfl

/-- The failure of the device with no standby left (R428). -/
def deimosFailed (s : State) : State :=
  { safeState { s with
      hub := { s.hub with schedstat := s.hub.schedstat ||| BitVec.ofNat 32 (2 ^ 17) }
      fw := { s.fw with power := .failed 0 } } with agenda := [], waiting := [], issue := none }

theorem execDeimosFailure_of_running {s : State} (h : s.hub.schedstat.getLsbD 0 = true) :
    execDeimosFailure s = .next (deimosFailed s) := if_pos h

theorem deimosFailed_schedstat (s : State) : (deimosFailed s).hub.schedstat.getLsbD 17 = true := by
  change (s.hub.schedstat ||| BitVec.ofNat 32 (2 ^ 17)).getLsbD 17 = true
  rw [BitVec.getLsbD_or, show (BitVec.ofNat 32 (2 ^ 17)).getLsbD 17 = true by decide, Bool.or_true]

theorem station_stopped (s : State) (n : Nat) :
    State.station { s with agenda := [], waiting := [], issue := none } n = State.station s n := rfl

theorem station_deimosFailed (s : State) {n : Nat} (hn : n < 24) : (State.station (deimosFailed s) n).down = true :=
  (congrArg Station.down (station_stopped ..)).trans ((safeState_safe _).2 n hn)

/-! ## The notice queue (R433) -/

theorem noticeBytes_length (n : Notice) : (noticeBytes n).length = 32 := by
  simp [noticeBytes, natLe_length]

theorem execNoticePost_of_full {s : State} {n : Notice} {ns : List Notice} (h : s.hub.noticeWait = n :: ns)
    (hl : 256 ≤ s.hub.notices.length) : execNoticePost s = .next s := by
  unfold execNoticePost
  rw [h]
  exact if_pos hl

theorem execNoticePost_of_space {s : State} {n : Notice} {ns : List Notice} (h : s.hub.noticeWait = n :: ns)
    (hl : s.hub.notices.length < 256) : execNoticePost s = .next (State.modHub
      { s with hubSram := Memory.store s.hubSram (0x480000 + s.hub.nqw.toNat * 32) (noticeBytes n) } fun h =>
        { h with notices := h.notices ++ [n], nqw := h.nqw + 1, noticeWait := ns }) := by
  unfold execNoticePost
  rw [h]
  exact if_neg (Nat.not_le.mpr hl)

theorem drop_or_nil {α : Type} (as : List α) (n : Nat) : (if as.length < n then [] else as.drop n) = as.drop n := by
  split
  · rename_i h
    exact (List.drop_eq_nil_of_le h.le).symm
  · rfl

theorem execNqWrite_spec (s : State) (v : Word) :
    ∃ t, execNqWrite v s = .next t ∧ t.hub.nqr = BitVec.ofNat 8 (v.toNat / 256) ∧ t.hub.nqw = s.hub.nqw
      ∧ t.hub.notices = s.hub.notices.drop (BitVec.ofNat 8 (v.toNat / 256) - s.hub.nqr).toNat ∧ t.dram = s.dram := by
  have hr : BitVec.ofNat 8 (v.toNat / 2 ^ 8 % 2 ^ 8) = BitVec.ofNat 8 (v.toNat / 256) :=
    BitVec.eq_of_toNat_eq (by simp)
  unfold execNqWrite
  rw [hr]
  exact ⟨_, rfl, rfl, rfl, drop_or_nil .., rfl⟩

/-- Settles O57, a step of power, heat, the schedulers or the notice queue at a time. -/
theorem powerAndNotices : Obligations.PowerAndNotices := by
  unfold Obligations.PowerAndNotices
  refine ⟨fun s die => execCoreBucketRefill_spec, fun s x hp => if_pos hp, fun s x hp hk => ?_, fun s x hp hk => ?_,
    fun s die hd => execPassCountChargeAdjust_spec s hd, fun s core hc => ⟨execThermalMigration_of_warm hc, fun h ht => ?_,
      execThermalPassFall_of_short hc, fun h => ?_⟩, fun s dies => ⟨_, rfl, rfl, rfl, rfl, rfl, rfl⟩,
    fun s => execPowerIntentSend_of_none, fun s i hh hg hl => ?_, fun s i k hh hlt hg hr hk => ⟨fun hd => ?_, fun hd => ?_⟩,
    fun s i l => execPowerIntentSend_of_recent, fun s i => execPowerIntentReceive_of_stranger, fun s i hg hm hk => ?_,
    fun s i hg hm hk hd hy => ⟨_, execPowerIntentReceive_of_move hg hm hk hd hy, rfl⟩, fun s => rfl,
    fun s cause => execSchedulerTakeover_of_start cause, fun s cause hh hs => ⟨fun hd hl => ?_, execSchedulerTakeover_of_drain cause hh hs⟩,
    fun s h => ⟨_, execDeimosFailure_of_running h, rfl, deimosFailed_schedstat s, rfl, fun n => station_deimosFailed s⟩,
    fun s n ns hn => ⟨execNoticePost_of_full hn, fun hl => ?_⟩, execNqWrite_spec⟩
  · obtain ⟨t, hexec, htk, hg, hpkg, hw⟩ := execGovernorHubCycle_first x hp hk
    exact ⟨t, hexec, htk, hg, hpkg, fun _ => hw⟩
  · obtain ⟨t, hexec, htk, hpkg, hw, hslew⟩ := execGovernorHubCycle_later x hp hk
    exact ⟨t, hexec, htk, hpkg, fun _ => hw, hslew⟩
  · obtain ⟨hpair, hcore⟩ := modPair_modCore s core (core / 2) (fun c => { c with hotFor := 0 }) fun p => { p with therm := stepUp p.therm }
    exact ⟨_, execThermalMigration_of_hot hc h ht, congrArg Pair.therm hpair, congrArg Core.hotFor hcore, rfl, rfl⟩
  · obtain ⟨hpair, hcore⟩ := modPair_modCore s core (core / 2) (fun c => { c with coolFor := 0 }) fun p => { p with therm := stepDown p.therm }
    exact ⟨_, execThermalPassFall_of_cool hc h, congrArg Pair.therm hpair, congrArg Core.coolFor hcore, rfl, rfl⟩
  · have hsent := execPowerIntentSend_of_sent hh hg (by simp [hl]) (.inl rfl)
    rw [Nat.sub_self, agedIntent_zero] at hsent
    exact ⟨_, hsent, rfl, rfl, rfl⟩
  · have hsent := execPowerIntentSend_of_sent hh hg hr (.inr (by rwa [agedIntent_zero]))
    rw [agedIntent, if_neg hk] at hsent
    exact ⟨_, hsent, rfl, rfl, rfl⟩
  · exact execPowerIntentSend_of_dropped hh hlt hg hr hk hd
  · exact ⟨_, execPowerIntentReceive_of_steady hg hm hk, fun e he => by simpa using (List.mem_filter.mp he).2, rfl⟩
  · obtain ⟨kick, hexec, hkick⟩ := execSchedulerTakeover_kicks cause hh hs hd hl
    exact ⟨_, hexec, rfl, rfl, rfl, hkick⟩
  · exact ⟨_, execNoticePost_of_space hn hl, rfl, rfl, rfl,
      (congrArg (Memory.bytes _ _) (noticeBytes_length n).symm).trans (Memory.bytes_store ..)⟩

end Sys2Proof.Machine

namespace Sys2Proof.Machine

/-! # Firmware commands of a session (spec/19_firmware_host_fabric.md R461 to R475) -/

/-! ## Messages that run no command (R461 to R464, R473) -/

/-- A message without a session that is signed is answered BADMSG. -/
theorem command_signed_alone {op : Nat} {h : MsgHead} {who : Issuer} {inF : Bool} {again : Due} {act : Command} {s : State}
    (hp : s.fw.power = .ready) (hl : s.fw.linkUp = true) (hn : h.session = 0) (hs : h.signed = true) :
    command op h who inF again act s = .next (replyOnce op h stBadMsg .none s) := by
  simp [command, hp, hl, macOnly, Power.isFailed, hn, hs]

/-- A command that needs no session runs without one; its reply is not kept. -/
theorem command_alone {op : Nat} {h : MsgHead} {inF : Bool} {again : Due} {act : Command} {s : State} {d : Done}
    (hp : s.fw.power = .ready) (hl : s.fw.linkUp = true) (hn : h.session = 0) (hs : h.signed = false)
    (hd : act (journal (.command h.session h.msgnum) s) = d) :
    command op h .any inF again act s = .next (replyOnce op h d.status d.payload d.s) := by
  rw [← hd]
  simp [command, hp, hl, macOnly, Power.isFailed, hn, hs]

/-- A message of an open session that is not its next one runs nothing: a kept reply leaves again, or it is answered BADMSG
(R463). -/
theorem command_out_of_turn {op : Nat} {h : MsgHead} {who : Issuer} {inF : Bool} {again : Due} {act : Command} {s : State} {x : Session}
    (hp : s.fw.power = .ready) (hl : s.fw.linkUp = true) (hn : h.session ≠ 0) (hx : Table.find h.session s.fw.sessions = some x)
    (hu : x.proved = false) (hs : h.signed = false) (hm : h.msgnum ≠ x.last + 1) (hr : ∀ c ∈ s.fw.running, Running.of h c = false) :
    (∀ r, x.replies.find? (fun r => r.msgnum == h.msgnum) = some r →
      command op h who inF again act s = .next (sendReply { r with dst := h.src } (touchSession h.session s)))
    ∧ (x.replies.find? (fun r => r.msgnum == h.msgnum) = none → replyHeld h x s = false →
      command op h who inF again act s = .next (replyOnce op h stBadMsg .none (touchSession h.session s))) := by
  have hstage : stageOf (touchSession h.session s) h = none := stageOf_fresh hr
  refine ⟨fun r hf => ?_, fun hf hh => ?_⟩
  · simp [command, hp, hl, macOnly, Power.isFailed, hn, hx, sessionMessage, hu, hs, hstage, hm, hf]
  · have hheld : replyHeld h x (touchSession h.session s) = false := hh
    simp [command, hp, hl, macOnly, Power.isFailed, hn, hx, sessionMessage, hu, hs, hstage, hm, hf, hheld]

theorem replyHeld_of_none {h : MsgHead} {x : Session} {s : State} (hw : x.waits = [])
    (hr : ∀ r ∈ s.fw.heldReplies, r.session ≠ h.session) : replyHeld h x s = false := by
  simp only [replyHeld, hw, List.any_nil, Bool.false_or, List.any_eq_false, Bool.and_eq_true, beq_iff_eq, not_and]
  exact fun r hm he => absurd he (hr r hm)

/-! ## STATUS, ATTEST and DIAG (R464, R467, R474, R475) -/

section
variable {h : MsgHead} {s : State} {x : Session}

theorem exec_fwStatus (c : Commands h .any s x) :
    exec (.fwStatus h) s = .next (replied 1 h 0 (.status (statusBlock (begun h none s))) (begun h none s)) := by
  have hrun : ¬ (macOnly s || stateCode s.fw.power == 0) = true := by simp [macOnly, c.ready, stateCode]
  change execFwStatus h s = _
  unfold execFwStatus
  rw [if_neg hrun]
  refine command_answers (d := { status := stOk, payload := .status (statusBlock (begun h none s)), s := begun h none s }) c ?_ ?_ rfl rfl rfl
  · exact turn_of_none
  · rfl

theorem exec_fwAttest (c : Commands h .any s x) (nonce : Nat) :
    exec (.fwAttest h nonce) s = .next (replied 13 h 0 (attestReport nonce s) (begun h none s)) := by
  change execFwAttest h nonce s = _
  unfold execFwAttest
  refine command_answers (d := { status := stOk, payload := attestReport nonce s, s := begun h none s }) c ?_ ?_ rfl rfl rfl
  · exact turn_of_none
  · rfl

/-- While booting STATUS is answered, and any other command NOTREADY (R473). -/
theorem exec_booting {n : Nat} (hp : s.fw.power = .booting n) (hl : s.fw.linkUp = true) :
    exec (.fwStatus h) s = .next (sendReply ⟨1, h.session, h.msgnum, 0, .status (statusBlock s), h.src⟩ s)
      ∧ exec (.diagFailureRecord h) s = .next (sendReply ⟨2, h.session, h.msgnum, 5, .none, h.src⟩ s) := by
  have hboot : (macOnly s || stateCode s.fw.power == 0) = true := by simp [macOnly, hp, stateCode]
  constructor
  · change execFwStatus h s = _
    rw [execFwStatus, if_pos hboot, if_pos hl]
    rfl
  · change execDiagFailureRecord h s = _
    simp only [execDiagFailureRecord, command, hp, hl, if_true]
    rfl

theorem exec_diagRerunStage5_failed {n : Nat} (hp : s.fw.power = .failed (n + 2)) (hl : s.fw.linkUp = true) :
    exec (.diagRerunStage5 h) s = .next (sendReply ⟨2, h.session, h.msgnum, 5, .none, h.src⟩ s) := by
  change execDiagRerunStage5 h s = _
  simp [execDiagRerunStage5, command, hp, hl, macOnly, Power.isFailed, replyOnce, replySession, stNotReady]

theorem exec_diagFailureRecord (c : Commands h .session s x) :
    exec (.diagFailureRecord h) s = .next (replied 2 h 0 (.failure (failureRecord s.fw.failure)) (begun h none s)) := by
  change execDiagFailureRecord h s = _
  unfold execDiagFailureRecord
  refine command_answers (d := { status := stOk, payload := .failure (failureRecord s.fw.failure), s := begun h none s }) c ?_ ?_ rfl rfl rfl
  · exact turn_of_none
  · rfl

theorem exec_diagRerunStage5_denied (c : Commands h .session s x) (hx : x.proved = false) :
    exec (.diagRerunStage5 h) s = .next (replied 2 h 3 .none (begun h none s)) := by
  change execDiagRerunStage5 h s = _
  unfold execDiagRerunStage5
  refine command_denied c ?_ hx
  exact turn_of_none

/-- Stage 5 runs again only while no context but 0 exists. -/
theorem exec_diagRerunStage5 (c : Commands h .auth s x) :
    (s.ctxs.any (fun c => c.1 != 0) = true → exec (.diagRerunStage5 h) s = .next (replied 2 h 4 .none (begun h none s)))
      ∧ (s.ctxs.any (fun c => c.1 != 0) = false →
        exec (.diagRerunStage5 h) s = .next (replied 2 h 0 .none (rerunStage5 (begun h none s)))) := by
  refine ⟨fun ha => ?_, fun ha => ?_⟩
  · change execDiagRerunStage5 h s = _
    unfold execDiagRerunStage5
    refine command_answers (d := refuseWith stBusy (begun h none s)) c ?_ ?_ rfl rfl rfl
    · exact turn_of_none
    · exact if_pos ha
  · change execDiagRerunStage5 h s = _
    unfold execDiagRerunStage5
    refine command_answers (d := { status := stOk, s := rerunStage5 (begun h none s) }) c ?_ ?_ rfl rfl rfl
    · exact turn_of_none
    · exact if_neg (Bool.eq_false_iff.mp ha)

/-- Stage 5 run again leaves memory and contexts; a core that fails it takes the device into its safe state (R473). -/
theorem rerunStage5_spec (s : State) : (rerunStage5 s).dram = s.dram ∧ (rerunStage5 s).ctxs = s.ctxs
    ∧ (((rerunStage5 s).fw = s.fw ∧ (rerunStage5 s).cores = s.cores)
      ∨ ((rerunStage5 s).fw.power = .failed 5 ∧ (∀ c < 64, (State.core (rerunStage5 s) c).bucket = 0)
        ∧ ∀ n < 24, (State.station (rerunStage5 s) n).down = true)) := by
  unfold rerunStage5
  extract_lets a b c
  split
  · exact ⟨rfl, rfl, .inl ⟨rfl, rfl⟩⟩
  · generalize hu : State.modFw c.2 _ = u
    have hdram : u.dram = s.dram := by rw [← hu]; rfl
    have hctxs : u.ctxs = s.ctxs := by rw [← hu]; rfl
    have hpower : u.fw.power = .failed 5 := by rw [← hu]; rfl
    exact ⟨hdram, hctxs, .inr ⟨hpower, safeState_safe u⟩⟩

/-! ## Opcodes no row names, and the counters (R461, R470) -/

/-- An opcode that no row names is BADCMD to whoever may issue it, and DENIED to another. -/
theorem exec_unknownOpcode (c : Commands h .session s x) {m : RawMsg} (hm : m.head = h) :
    ((issuerOf m.opcode = .auth → x.proved = true) →
      exec (.unknownOpcode m) s = .next (replied m.opcode h 2 .none (begun h none s)))
    ∧ (issuerOf m.opcode = .auth → x.proved = false →
      exec (.unknownOpcode m) s = .next (replied m.opcode h 3 .none (begun h none s))) := by
  change (_ → execUnknownOpcode m s = _) ∧ (_ → _ → execUnknownOpcode m s = _)
  unfold execUnknownOpcode
  rw [hm]
  refine ⟨fun hmay => ?_, fun hwho hx => ?_⟩
  · refine command_answers (d := refuseWith stBadCmd (begun h none s)) { c with may := hmay } ?_ ?_ rfl rfl rfl
    · exact turn_of_none
    · rfl
  · rw [hwho]
    refine command_denied c ?_ hx
    exact turn_of_none

/-- A group of the unprivileged view is read by any session, another by an authenticated one (R470). -/
theorem exec_readCounters (c : Commands h .session s x) {g ctx : Nat} {rs : List Nat} (hg : groupRegs (begun h none s) g ctx = some rs) :
    (g < 8 → exec (.readCounters h g ctx) s = .next (replied 10 h 0 (.counters rs) (begun h none s)))
      ∧ (8 ≤ g → x.proved = false → exec (.readCounters h g ctx) s = .next (replied 10 h 3 .none (begun h none s))) := by
  have hsession := begun_session (k := none) c.found
  refine ⟨fun hlt => ?_, fun hge hx => ?_⟩
  · have hno : ¬ 8 ≤ g := Nat.not_le.mpr hlt
    have hnot13 : g ≠ 13 := by omega
    change execReadCounters h g ctx s = _
    unfold execReadCounters
    refine command_answers (d := { status := stOk, payload := .counters rs, s := begun h none s }) c ?_ ?_ rfl rfl rfl
    · exact turn_of_none
    · simp [commandCtx, noWait, hg, hno, hnot13]
  · change execReadCounters h g ctx s = _
    unfold execReadCounters
    refine command_answers (d := refuseWith stDenied (begun h none s)) c ?_ ?_ rfl rfl rfl
    · exact turn_of_none
    · simp [commandCtx, noWait, hg, hge, hsession, hx]

/-! ## Sessions (R462, R463, R491) -/

theorem exec_sessionClose (c : Commands h .session s x) :
    exec (.sessionClose h) s = .next (replied 3 h 0 .none (closeSession h.session (begun h none s))) := by
  change execSessionClose h s = _
  unfold execSessionClose
  refine command_answers (d := { status := stOk, s := closeSession h.session (begun h none s) }) c ?_ ?_ rfl rfl rfl
  · exact turn_of_none
  · rfl

/-- A SESSION_OPEN that is signed is BADMSG, whatever its MSGNUM. -/
theorem exec_sessionOpen_signed (hp : s.fw.power = .ready) (hl : s.fw.linkUp = true) (hn : h.session = 0) (hs : h.signed = true)
    (key : Nat) : exec (.sessionOpen h key) s = .next (sendReply ⟨3, 0, h.msgnum, 1, .none, h.src⟩ s) := by
  have hreply : replyOnce 3 h stBadMsg .none s = sendReply ⟨3, 0, h.msgnum, 1, .none, h.src⟩ s := by
    simp [replyOnce, replySession, hn, stBadMsg]
  change execSessionOpen h key s = _
  unfold execSessionOpen
  split
  · rw [command_signed_alone hp hl hn hs, hreply]
  · rw [command_signed_alone hp hl hn hs, hreply]

/-- The session that an OPEN without a key makes; its nonce and its key for RDMA are the second and third values drawn. -/
def openedSession (s : State) : Session where
  key := none
  proved := false
  nonce := Config.free (s.fresh + 1) % 2 ^ 256
  rkey := Config.free (s.fresh + 2) % 2 ^ 24
  last := 0
  replies := []
  waits := []
  idle := 0

/-- What the OPEN leaves. -/
def sessionOpened (id : Nat) (s : State) : State :=
  { s with fresh := s.fresh + 3, fw := { s.fw with sessions := Table.set id (openedSession s) s.fw.sessions } }

theorem exec_sessionOpen_runs (hp : s.fw.power = .ready) (hl : s.fw.linkUp = true) (hn : h.session = 0) (hm : h.msgnum = 0)
    (hs : h.signed = false) {j : State} (hj : journal (.command h.session h.msgnum) s = j) (hroom : ¬ 16 ≤ j.fw.sessions.length) :
    exec (.sessionOpen h 0xFF) s = .next (replyOnce 3 h stOk
      (.opened (freshSession j (State.draw j).1) (openedSession j).nonce (openedSession j).rkey)
      (sessionOpened (freshSession j (State.draw j).1) j)) := by
  change execSessionOpen h 0xFF s = _
  unfold execSessionOpen
  rw [if_neg (by simp [hn, hm])]
  refine command_alone (d := {
    status := stOk
    payload := .opened (freshSession j (State.draw j).1) (openedSession j).nonce (openedSession j).rkey
    s := sessionOpened (freshSession j (State.draw j).1) j }) hp hl hn hs ?_
  rw [hj]
  refine (if_neg fun h => h.1 rfl).trans ((if_neg fun h => h.1 rfl).trans ((if_neg hroom).trans ?_))
  rfl

/-- An OPEN without a key makes a new session, and names it in its reply. -/
theorem exec_sessionOpen (hp : s.fw.power = .ready) (hl : s.fw.linkUp = true) (hn : h.session = 0) (hm : h.msgnum = 0)
    (hs : h.signed = false) (hroom : s.fw.sessions.length < 16) :
    ∃ t id, exec (.sessionOpen h 0xFF) s = .next t ∧ t.dram = s.dram ∧ t.ctxs = s.ctxs
      ∧ ∃ x, Table.find id t.fw.sessions = some x ∧ x.key = none ∧ x.proved = false ∧ x.last = 0 ∧ x.rkey < 2 ^ 24
        ∧ t.outbox = (sendReply ⟨3, id, 0, 0, .opened id x.nonce x.rkey, h.src⟩ s).outbox := by
  have hexec := exec_sessionOpen_runs hp hl hn hm hs rfl (Nat.not_le.mpr hroom)
  generalize hj : journal (.command h.session h.msgnum) s = j at hexec
  have hdram : j.dram = s.dram := by rw [← hj]; rfl
  have hctxs : j.ctxs = s.ctxs := by rw [← hj]; rfl
  have hout : j.outbox = s.outbox := by rw [← hj]; rfl
  have hpause : j.fw.pause = s.fw.pause := by rw [← hj]; rfl
  have hblob : j.fw.blob = s.fw.blob := by rw [← hj]; rfl
  generalize freshSession j (State.draw j).1 = id at hexec
  refine ⟨_, id, hexec, ?_⟩
  rw [replyOnce, sendReply_eq, hm]
  exact ⟨hdram, hctxs, openedSession j, Table.find_set .., rfl, rfl, rfl, Nat.mod_lt _ (by decide),
    sendReply_outbox_congr hout hpause hblob⟩

/-- A session is proved by its key's signature under the session's nonce; another nonce is BADMSG (R462). -/
theorem exec_sessionProve (c : Commands h .session s x) (nonce : Nat) :
    (x.key.isSome → h.signed = true → nonce = x.nonce → exec (.sessionProve h nonce) s = .next (replied 3 h 0 .none
      (State.modFw (begun h none s) fun f => { f with sessions := Table.alter h.session (fun x => { x with proved := true }) f.sessions })))
    ∧ (nonce ≠ x.nonce → exec (.sessionProve h nonce) s
      = .next (sendReply ⟨3, h.session, h.msgnum, 1, .none, h.src⟩ (touchSession h.session s))) := by
  refine ⟨fun hk hs hn => ?_, fun hn => ?_⟩
  · change execSessionProve h nonce s = _
    unfold execSessionProve
    dsimp only
    rw [c.found]
    rw [if_neg (by simp [hk, hs, c.sound hs, hn])]
    refine command_answers (d := { status := stOk, s := State.modFw (begun h none s) fun f =>
      { f with sessions := Table.alter h.session (fun x => { x with proved := true }) f.sessions } }) c ?_ ?_ rfl rfl rfl
    · exact turn_of_none
    · rfl
  · change execSessionProve h nonce s = _
    unfold execSessionProve
    dsimp only
    rw [c.found]
    rw [if_pos (by simp [c.inTurn, c.ready, c.link, hn])]
    rfl

theorem exec_sessionIdleTimeout {n : Nat} (hx : Table.find n s.fw.sessions = some x) :
    (x.idle < 60000000000 → exec (.sessionIdleTimeout n) s = .next s)
      ∧ (60000000000 ≤ x.idle → exec (.sessionIdleTimeout n) s = .next (closeSession n s)) := by
  have hexec : exec (.sessionIdleTimeout n) s = if x.idle < 60000000000 then .next s else .next (closeSession n s) := by
    change execSessionIdleTimeout n s = _
    unfold execSessionIdleTimeout
    rw [hx]
  rw [hexec]
  exact ⟨fun h => if_pos h, fun h => if_neg (Nat.not_lt.mpr h)⟩

/-! ## Contexts (R464, R471) -/

theorem exec_sessionCtxnew (c : Commands h .auth s x) {view n : Nat} (hv : view % 512 = 0)
    (hn : ((List.range 256).drop 1).find? (fun n => (Table.find n s.ctxs).isNone) = some n) :
    exec (.sessionCtxnew h view) s = .next (followView n (some ⟨3, h.session, h.msgnum, 0, .ctx n, h.src⟩)
      (setStage h 2 { begun h none s with ctxs := Table.set n (Ctx.start view) s.ctxs })) := by
  change execSessionCtxnew h view s = _
  unfold execSessionCtxnew
  refine command_views (d := { status := stOk, payload := .ctx n, view := some n
                               s := { begun h none s with ctxs := Table.set n (Ctx.start view) s.ctxs } }) c ?_ ?_ rfl rfl rfl
  · exact turn_of_none
  · have hn' : ((List.range 256).drop 1).find? (fun n => (Table.find n (begun h none s).ctxs).isNone) = some n := hn
    change (if view % 512 ≠ 0 then _ else _ : Done) = _
    rw [if_neg (not_not_intro hv)]
    dsimp only [commandCtx]
    rw [hn']
    rfl

/-- A context's end: its state is freed once its pages have left and no regeneration stands in it. -/
theorem exec_sessionCtxend (c : Commands h .auth s x) {ctx : Nat} {s1 s2 : State} {rs : List (Nat × Nat)} (h0 : ctx ≠ 0)
    (hctx : (Table.find ctx s.ctxs).isSome) (hf : CtxFree s ctx)
    (h1 : s1 = removeGrids ctx (removeTeams ctx (leaveFabric ctx (dropL1s ctx (stopCtx ctx (begun h (some ctx) s))))))
    (hrs : rs = validRanges s1 ctx) (h2 : s2 = rs.foldl (fun s r => unmapPages 0 r s) s1) :
    ((∀ r ∈ rs, stillMapped r s2 = false) → (∀ g ∈ s2.fw.regens, g.ctx ≠ ctx) →
      exec (.sessionCtxend h ctx) s = .next (replied 3 h 0 .none (removeRecords ctx s2)))
    ∧ ((∃ r ∈ rs, stillMapped r s2 = true) → exec (.sessionCtxend h ctx) s = .next (retry (.sessionCtxend h ctx) s2)) := by
  have hnot : ¬ (ctx = 0 ∨ (Table.find ctx (begun h (some ctx) s).ctxs).isNone = true) := by
    simp [h0, Option.isSome_iff_ne_none.mp hctx]
  refine ⟨fun hmapped hregens => ?_, fun hmapped => ?_⟩
  · have hgone : ¬ ((rs.any fun r => stillMapped r s2) || s2.fw.regens.any fun g => g.ctx == ctx) = true := by
      simp only [Bool.or_eq_true, List.any_eq_true, beq_iff_eq, not_or, not_exists, not_and]
      exact ⟨fun r hr he => by rw [hmapped r hr] at he; exact Bool.false_ne_true he, hregens⟩
    change execSessionCtxend h ctx s = _
    unfold execSessionCtxend
    refine command_answers (d := { status := stOk, s := removeRecords ctx s2 }) c ?_ ?_ rfl rfl rfl
    · exact turn_of_free hf
    · subst h1 hrs h2
      exact (if_neg hnot).trans (if_neg hgone)
  · have hleft : ((rs.any fun r => stillMapped r s2) || s2.fw.regens.any fun g => g.ctx == ctx) = true :=
      Bool.or_eq_true .. |>.mpr (.inl (List.any_eq_true.mpr hmapped))
    change execSessionCtxend h ctx s = _
    unfold execSessionCtxend
    refine command_waits (d := waitIn s2) c ?_ ?_ rfl
    · exact turn_of_free hf
    · subst h1 hrs h2
      exact (if_neg hnot).trans (if_pos hleft)

/-! ## MAP and UNMAP (R465, R114) -/

section
variable {m : MapArgs} {s0 s1 : State} (c : Commands h .auth s x) (hf : CtxFree s m.ctx) (h0 : s0 = begun h (some m.ctx) s)
include c hf h0

theorem exec_fwMap_bad (hok : mapOk s0 m = false) : exec (.fwMap h m) s = .next (replied 4 h 2 .none s0) := by
  subst h0
  change execFwMap h m s = _
  unfold execFwMap
  refine command_answers (d := refuseWith stBadCmd (begun h (some m.ctx) s)) c ?_ ?_ rfl rfl rfl
  · exact turn_of_free hf
  · simp [commandCtx, hok]

variable (hok : mapOk s0 m = true)
include hok

theorem exec_fwMap_busy (hb : ctxBusy s0 m.ctx = true) : exec (.fwMap h m) s = .next (replied 4 h 4 .none s0) := by
  subst h0
  change execFwMap h m s = _
  unfold execFwMap
  refine command_answers (d := refuseWith stBusy (begun h (some m.ctx) s)) c ?_ ?_ rfl rfl rfl
  · exact turn_of_free hf
  · simp [commandCtx, hok, hb]

variable (hb : ctxBusy s0 m.ctx = false) (hv : (Ctx.range (State.ctx s0 m.ctx) m.k 3).testBit 0 = false) {p n : Nat}
  (hp : freeChip s0 (m.len / 2 ^ 16) (pageSpan (m.flags.testBit 1)) = some p) (hn : n = m.len / 2 ^ 16 / pageSpan (m.flags.testBit 1))
include hb hv hp hn

theorem exec_fwMap_all {fs : List (Nat × Nat)}
    (hg : gather (unitsOf m) (m.flags.testBit 1) (if m.flags.testBit 0 || m.flags.testBit 2 then n else 0) 0 [] s0 = .all fs s1) :
    exec (.fwMap h m) s = .next (followView m.ctx (some ⟨4, h.session, h.msgnum, 0, .cbase p, h.src⟩)
      (setStage h 2 (finishMap m p n fs s1).s)) := by
  subst h0 hn
  change execFwMap h m s = _
  unfold execFwMap
  refine command_views (d := finishMap m p (m.len / 2 ^ 16 / pageSpan (m.flags.testBit 1)) fs s1) c ?_ ?_ rfl rfl rfl
  · exact turn_of_free hf
  · simp only [commandCtx, hok, hb, hv, hp, hg, Bool.not_true, Bool.or_self, Bool.false_eq_true, if_false]

theorem exec_fwMap_waits
    (hg : gather (unitsOf m) (m.flags.testBit 1) (if m.flags.testBit 0 || m.flags.testBit 2 then n else 0) 0 [] s0 = .busy s1) :
    exec (.fwMap h m) s = .next (retry (.fwMap h m) s1) := by
  subst h0 hn
  change execFwMap h m s = _
  unfold execFwMap
  refine command_waits (d := waitIn s1) c ?_ ?_ rfl
  · exact turn_of_free hf
  · simp only [commandCtx, hok, hb, hv, hp, hg, Bool.not_true, Bool.or_self, Bool.false_eq_true, if_false]

end

section
variable {ctx k kind : Nat} {s1 s2 : State} (c : Commands h .auth s x) (hf : CtxFree s ctx) (hl : liveCtx s ctx = true)
  (hk : k < 8) (hkind : kind < 2) (hb : ctxBusy (begun h (some ctx) s) ctx = false)
  (hv : (Ctx.range (State.ctx s ctx) k 3).testBit 0 = true)
  (h1 : s1 = unmapPages (if kind = 0 then 0 else 3) (rangePages (State.ctx s ctx) k) (setStage h 1 (begun h (some ctx) s)))
include c hf hl hk hkind hb hv h1

theorem exec_fwUnmap_waits (hm : stillMapped (rangePages (State.ctx s ctx) k) s1 = true) :
    exec (.fwUnmap h ctx k kind) s = .next (retry (.fwUnmap h ctx k kind) s1) := by
  have hl' : liveCtx (begun h (some ctx) s) ctx = true := hl
  change execFwUnmap h ctx k kind s = _
  unfold execFwUnmap
  refine command_waits (d := waitIn s1) c ?_ ?_ rfl
  · exact turn_of_free hf
  · simp [commandCtx, hl', Nat.not_le.mpr hk, Nat.not_le.mpr hkind, hb, hv, ← h1, hm]

theorem exec_fwUnmap_done (h2 : s2 = dropL1s ctx s1) (hm : stillMapped (rangePages (State.ctx s ctx) k) s1 = false)
    (hb2 : ctxBusy s2 ctx = false) (hr : ∀ g ∈ s2.fw.regens, g.ctx ≠ ctx) :
    exec (.fwUnmap h ctx k kind) s = .next (followView ctx (some ⟨5, h.session, h.msgnum, 0, .none, h.src⟩)
      (setStage h 2 (clearRange ctx k s2))) := by
  have hl' : liveCtx (begun h (some ctx) s) ctx = true := hl
  have hregens : (s2.fw.regens.any fun g => g.ctx == ctx) = false :=
    List.any_eq_false.mpr fun g hg he => hr g hg (beq_iff_eq.mp he)
  change execFwUnmap h ctx k kind s = _
  unfold execFwUnmap
  refine command_views (d := { status := stOk, view := some ctx, s := clearRange ctx k s2 }) c ?_ ?_ rfl rfl rfl
  · exact turn_of_free hf
  · simp [commandCtx, hl', Nat.not_le.mpr hk, Nat.not_le.mpr hkind, hb, hv, ← h1, ← h2, hm, hb2, hregens]

end

/-! ## LOAD_CONFIG (R467) -/

theorem exec_loadConfig (c : Commands h .session s x) {b : Blob} (hboot : s.fw.boot ≠ 2) (hok : blobOk b = true) (hsig : b.sigOk = true)
    (ho : ∀ o, s.fw.blob.owner = some o → o = b.owner) :
    exec (.loadConfig h b) s = .next (replied 6 h 0 .none (State.modFw (begun h none s) fun f =>
      { f with blob := { f.blob with stored := some b, owner := some b.owner } })) := by
  have hboot' : ¬ (begun h none s).fw.boot = 2#2 := hboot
  change execLoadConfig h b s = _
  unfold execLoadConfig
  refine command_answers (d := { status := stOk, s := State.modFw (begun h none s) fun f =>
    { f with blob := { f.blob with stored := some b, owner := some b.owner } } }) c ?_ ?_ rfl rfl rfl
  · exact turn_of_none
  · cases howner : s.fw.blob.owner with
    | none => simp [commandCtx, noWait, hboot', hok, hsig, howner]
    | some o => simp [commandCtx, noWait, hboot', hok, hsig, howner, ho o howner]

/-- A blob whose signature does not verify is DENIED. -/
theorem exec_loadConfig_denied (c : Commands h .session s x) {b : Blob} (hok : blobOk b = true) (hsig : b.sigOk = false) :
    exec (.loadConfig h b) s = .next (replied 6 h 3 .none (begun h none s)) := by
  change execLoadConfig h b s = _
  unfold execLoadConfig
  refine command_answers (d := refuseWith stDenied (begun h none s)) c ?_ ?_ rfl rfl rfl
  · exact turn_of_none
  · simp [commandCtx, noWait, hok, hsig]

end

/-- Settles O58: a message is refused, or its command runs on the state its beginning leaves. -/
theorem firmwareCommands : Obligations.FirmwareCommands := by
  unfold Obligations.FirmwareCommands
  refine ⟨fun h s x c => ⟨exec_fwStatus c, exec_fwAttest c⟩, fun h s n => exec_booting, fun h s n => exec_diagRerunStage5_failed,
    fun h s x c => ⟨exec_diagFailureRecord c, exec_sessionClose c, fun m hm => (exec_unknownOpcode c hm).1,
      fun m hm => (exec_unknownOpcode c hm).2, fun g ctx rs hg => (exec_readCounters c hg).1,
      fun g ctx rs hg => (exec_readCounters c hg).2, exec_diagRerunStage5_denied c⟩,
    fun h s x hp hl hn hx hu hs hm hr => ?_, fun h s key hp hl hn hs => exec_sessionOpen_signed hp hl hn hs key,
    fun h s => exec_sessionOpen, fun h s x nonce c => exec_sessionProve c nonce, fun s n x => exec_sessionIdleTimeout,
    fun h s x c => ⟨(exec_diagRerunStage5 c).1, (exec_diagRerunStage5 c).2, fun view n => exec_sessionCtxnew c,
      fun ctx s1 rs s2 => exec_sessionCtxend c, fun m s0 hf h0 => ⟨exec_fwMap_bad c hf h0, exec_fwMap_busy c hf h0,
        fun hok hb hv p n hp hn => ⟨fun fs s1 => exec_fwMap_all c hf h0 hok hb hv hp hn, fun s1 => exec_fwMap_waits c hf h0 hok hb hv hp hn⟩⟩,
      fun ctx k kind s1 s2 hf hl hk hkind hb hv h1 h2 => ⟨exec_fwUnmap_waits c hf hl hk hkind hb hv h1,
        exec_fwUnmap_done c hf hl hk hkind hb hv h1 h2⟩⟩,
    fun h s x b c => exec_loadConfig c, fun h s x b c => exec_loadConfig_denied c, rerunStage5_spec⟩
  obtain ⟨hagain, hbad⟩ := command_out_of_turn (op := 2) (who := .session) (inF := true) (again := noWait)
    (act := fun s => { status := stOk, payload := .failure (failureRecord s.fw.failure), s := s }) hp hl hn hx hu hs hm hr
  refine ⟨fun r hf => ⟨_, hagain r hf, ?_⟩, fun hf hw hheld => hbad hf (replyHeld_of_none hw hheld)⟩
  rw [sendReply_eq]
  exact ⟨sendReply_outbox_congr rfl rfl rfl, rfl, rfl⟩

end Sys2Proof.Machine
